-- ==== Sys2Proof/Word.lean ====
section
/-! DEFINITION. The widths of the Ulubel (R2): byte, half, word and double. -/
namespace Sys2Proof

/-- A byte (R2). -/
abbrev Byte := BitVec 8
/-- A half: 16 bits (R2). -/
abbrev Half := BitVec 16
/-- A word: 32 bits (R2). -/
abbrev Word := BitVec 32
/-- A double: 64 bits (R2). -/
abbrev Dbl := BitVec 64
/-- The widest token: a 128-bit load result (R146, R251). -/
abbrev Quad := BitVec 128

end Sys2Proof
end

