-- ==== Sys2Proof/Syntax.lean ====
section
/-! DEFINITION. The abstract syntax of the Ulubel: the ten word formats of R76 as structures of raw fields, the plain data
that the machine's steps carry, and the one inductive `Instr` with a constructor for each row of the opcode table. -/
namespace Sys2Proof

/-- What one WRITE_PLACEMENT step does (R328): the hub places the effect numbered `e`, or the next placed write of the
other dies becomes visible on die `d`. -/
inductive PlaceMode where
  | place (e : Nat)
  | deliver (d : Nat)
deriving DecidableEq, Repr

/-- A write that arrives from a peer package over a flow (R336): the issuing package and context with the channel there, the
sequence number, the context it names here, the order mode of its flow, whether a copy made it, the CID it presents, the
virtual address and the bytes. -/
structure PeerWrite where
  pkg : Nat
  pctx : Nat
  chan : Nat
  seq : Nat
  ctx : Nat
  ordered : Bool
  copy : Bool
  cid : BitVec 12
  va : Nat
  data : List (BitVec 8)
deriving DecidableEq, Repr

/-- A read that arrives from a peer package (R249), of a `pld` or of a channel copy. -/
structure PeerRead where
  pkg : Nat
  pctx : Nat
  ctx : Nat
  ordered : Bool
  copy : Bool
  cid : BitVec 12
  va : Nat
  len : Nat
deriving DecidableEq, Repr

/-- A firmware image as the aperture receives it (R403): its security version, its own version and translator version, its
errata mask, the SHA-384 of its bytes, and its two signatures. -/
structure FwImage where
  secver : Nat
  fwver : Nat
  translator : Nat
  errata : BitVec 64
  hash : BitVec 384
  rsa : BitVec 3072
  slh : List (BitVec 8)
deriving DecidableEq, Repr

/-- A signed life-cycle command (R405). -/
structure LifeCommand where
  target : Nat
  rsa : BitVec 3072
  slh : List (BitVec 8)
deriving DecidableEq, Repr

/-- What the hardware finds while a start runs (R401): which steps fail in their normal form and in their alternate form,
by step number; the HBM stacks, fibres and cores that fail; a ring link that stays down; and the step in which power is lost. -/
structure StartFindings where
  failNormal : List Nat
  failAlternate : List Nat
  badStacks : List Nat
  badFibres : List Nat
  badCores : List Nat
  ringLinkDown : Option Nat
  lostAt : Option Nat
deriving DecidableEq, Repr

/-- An address of the host's link (R396): an offset in the window BAR2, or a physical address of CXL.mem. -/
inductive HostAddr where
  | bar2 (off : Nat)
  | mem (pa : Nat)
deriving DecidableEq, Repr

/-- What one patrol-scrub pass reads and corrects (R376): an L2 slice, the L3, or an HBM stack. -/
inductive ScrubTarget where
  | l2 (die : Nat)
  | l3
  | hbm (stack : Nat)
deriving DecidableEq, Repr

/-- A patrol-scrub pass (R376): what it reads, and the monitor blocks of the corrected errors met since the last pass. -/
structure ScrubPass where
  target : ScrubTarget
  found : List Nat
deriving DecidableEq, Repr

/-- The cores whose outbound and whose inbound die-link queues have stayed above their high mark (R22). -/
structure QueueMarks where
  out : List Nat
  inb : List Nat
deriving DecidableEq, Repr

/-- An entry of a TLB, an L1 or a bullpen (R231, R242, R140): a page of a context in a core's or a die's TLB, a line of 64 bytes, a configuration by
its address and CID. [DEDUCED, log entry 48] -/
inductive CacheEntry where
  | coreTlb (vc ctx page : Nat)
  | dieTlb (die ctx page : Nat)
  | l1 (vc ctx line : Nat)
  | bullpen (vc ctx addr cid : Nat)
deriving DecidableEq, Repr

/-- Where an uncorrectable error is found (R376 to R378). -/
inductive ErrorSite where
  | memory (pa : Nat)
  | lvs (vc frame slot : Nat)
  | hiddenSlot (vc frame : Nat)
  | scratch (vc p : Nat)
  | operandSlot (vc n : Nat)
  | accumulator (vc n : Nat)
  | partialTile (vc n : Nat)
  | refetched (entry : CacheEntry)
deriving DecidableEq, Repr

/-- The arrays whose ways have spares (R409). -/
inductive WaySite where
  | l2 (die : Nat)
  | l3
  | lvs (vc : Nat)
deriving DecidableEq, Repr

/-- The fields of a format A word, from the high bit down (R76). -/
structure FmtA where
  t : BitVec 9
  s : BitVec 8
  pc : BitVec 2
  mod : BitVec 5
deriving DecidableEq, Repr

/-- The fields of a format B word, from the high bit down (R76). -/
structure FmtB where
  t : BitVec 9
  u : BitVec 9
  pc : BitVec 2
  mod : BitVec 4
deriving DecidableEq, Repr

/-- The fields of a format C word, from the high bit down (R76). -/
structure FmtC where
  t : BitVec 9
  s : BitVec 8
  cond : BitVec 4
  ty : BitVec 3
deriving DecidableEq, Repr

/-- The fields of a format L word, from the high bit down (R76). -/
structure FmtL where
  t : BitVec 9
  u : BitVec 9
  slot : BitVec 6
deriving DecidableEq, Repr

/-- The fields of a format M word, from the high bit down (R76). -/
structure FmtM where
  t : BitVec 9
  buf : BitVec 4
  ord : BitVec 5
  pc : BitVec 2
  mod : BitVec 4
deriving DecidableEq, Repr

/-- The fields of a format N word, from the high bit down (R76). -/
structure FmtN where
  sa : BitVec 12
  sb : BitVec 12
deriving DecidableEq, Repr

/-- The fields of a format E word, from the high bit down (R76). -/
structure FmtE where
  slot : BitVec 6
  x : BitVec 6
  y : BitVec 6
  z : BitVec 6
deriving DecidableEq, Repr

/-- The fields of a format T word, from the high bit down (R76). -/
structure FmtT where
  slot : BitVec 6
  buf : BitVec 4
  ord : BitVec 5
  scope : BitVec 3
  mod : BitVec 6
deriving DecidableEq, Repr

/-- The fields of a format H word, from the high bit down (R76). -/
structure FmtH where
  payload : BitVec 24
deriving DecidableEq, Repr

/-- The fields of a format S word, from the high bit down (R76). -/
structure FmtS where
  ctl : BitVec 8
  t : BitVec 9
  mod : BitVec 7
deriving DecidableEq, Repr

/-- One constructor for each row of the opcode table: the 154 Diros words of R93, each with the fields of its format,
and the 91 whole and indivisible steps of the machine, each with what says which of its occurrences it is. -/
inductive Instr where
  /-- SIGNAL_WRITE_OBSERVED (R103). -/
  | signalWriteObserved
  /-- RECORD_REACHES_HEAD (R112). -/
  | recordReachesHead (ctx : Nat) (q : Nat)
  /-- LAUNCH_RELEASE (R115). -/
  | launchRelease
  /-- GROUP_HANDOUT (R116). -/
  | groupHandout
  /-- GROUP_START (R129). -/
  | groupStart (g : Nat)
  /-- SHAPE_SOURCE_TIMEOUT (R126). -/
  | shapeSourceTimeout (gid : Nat)
  /-- SQUASH_ZERO_FILL (R125). -/
  | squashZeroFill (g : Nat)
  /-- GROUP_RETIRE (R389). -/
  | groupRetire (g : Nat)
  /-- COMPLETION_DECREMENT (R390). -/
  | completionDecrement (k : Nat)
  /-- NOTIFY_ENTRY_ARM (R391). -/
  | notifyEntryArm (n : Nat) (w : BitVec 64)
  /-- HOST_NOTIFICATION_MESSAGE (R391). -/
  | hostNotificationMessage (n : Nat)
  /-- BULLPEN_FILL (R140). -/
  | bullpenFill (k : Nat)
  /-- PLACEMENT_SLOT_FREE (R135). -/
  | placementSlotFree (vc : Nat) (slot : Nat)
  /-- PLACEMENT_DRAIN (R136). -/
  | placementDrain (vc : Nat) (slot : Nat)
  /-- THREAD_ADMIT (R148). -/
  | threadAdmit (vc : Nat) (slot : Nat)
  /-- STAGE_REENTRY (R147). -/
  | stageReentry (vc : Nat) (slot : Nat) (stage : Nat)
  /-- LOAD_RETURN (R254). -/
  | loadReturn (vc : Nat) (frame : Nat) (idx : Nat)
  /-- THREAD_COMMIT (R151). -/
  | threadCommit (vc : Nat) (frame : Nat)
  /-- ATOMIC_RESULT_LAND (R273). -/
  | atomicResultLand (e : Nat)
  /-- DEFERRED_SUCCESSOR_MOVE (R346). -/
  | deferredSuccessorMove (vc : Nat) (frame : Nat)
  /-- PAGE_WALK (R231). -/
  | pageWalk (ctx : Nat) (page : Nat)
  /-- FU_DONE (R246). -/
  | fuDone (v : BitVec 64)
  /-- DUGOUT_EVICT (R247). -/
  | dugoutEvict (g : Nat)
  /-- WRITE_PLACEMENT (R328). -/
  | writePlacement (m : PlaceMode)
  /-- GA_ACKNOWLEDGE (R262). -/
  | gaAcknowledge (e : Nat)
  /-- ACK_RETRY (R331). -/
  | ackRetry (e : Nat)
  /-- ACK_LOSS_RESOLUTION (R331). -/
  | ackLossResolution (e : Nat) (readable : Bool)
  /-- PEER_WRITE_PERFORM (R336). -/
  | peerWritePerform (w : PeerWrite)
  /-- PEER_FLOW_REFUSED (R249). -/
  | peerFlowRefused (e : Nat) (code : Nat)
  /-- COPY_START (R279). -/
  | copyStart (vc : Nat) (eng : Nat)
  /-- COPY_LINE_WRITE (R241). -/
  | copyLineWrite (vc : Nat) (eng : Nat)
  /-- COPY_COMPLETE (R285). -/
  | copyComplete (vc : Nat) (eng : Nat)
  /-- VOLLEY_PERMIT (R289). -/
  | volleyPermit (c : Nat)
  /-- TILE_OP_FIRE (R295). -/
  | tileOpFire (vc : Nat)
  /-- ACCUMULATOR_STORE_DONE (R318). -/
  | accumulatorStoreDone (o : Nat)
  /-- TFENCE_STATUS_LAND (R319). -/
  | tfenceStatusLand (o : Nat)
  /-- BARRIER_STALL (R349). -/
  | barrierStall (g : Nat) (w : Nat)
  /-- HELD_COMMIT_STALL (R373). -/
  | heldCommitStall (vc : Nat) (frame : Nat)
  /-- EVENT_QUEUE_RETRY (R369). -/
  | eventQueueRetry (ctx : Nat)
  /-- FCMD_RESUME (R371). -/
  | fcmdResume (v : BitVec 64)
  /-- FCMD_REDIRECT (R371). -/
  | fcmdRedirect (v : BitVec 64)
  /-- FCMD_KILL_THREAD (R371). -/
  | fcmdKillThread (v : BitVec 64)
  /-- FCMD_KILL_GROUP (R372). -/
  | fcmdKillGroup (v : BitVec 64)
  /-- FCMD_WRITE_SLOT (R371). -/
  | fcmdWriteSlot (v : BitVec 64)
  /-- FCMD_REPOST (R371). -/
  | fcmdRepost (v : BitVec 64)
  /-- FCMD_RESUME_KIND (R371). -/
  | fcmdResumeKind (v : BitVec 64)
  /-- FCMD_STEP (R375). -/
  | fcmdStep (v : BitVec 64)
  /-- DHALT_SET (R375). -/
  | dhaltSet (vc : Nat)
  /-- DHALT_CLEAR (R375). -/
  | dhaltClear (vc : Nat)
  /-- QUIESCE_REQUEST (R379). -/
  | quiesceRequest (ctx : Nat)
  /-- QUIESCE_PHASE_ADVANCE (R379). -/
  | quiescePhaseAdvance (ctx : Nat)
  /-- DIE_CUT_ANSWER (R382). -/
  | dieCutAnswer (ctx : Nat) (die : Nat)
  /-- QUIESCE_RESUME (R379). -/
  | quiesceResume (ctx : Nat)
  /-- IMAGE_STATUS_LAND (R364). -/
  | imageStatusLand (k : Nat)
  /-- DRST_GO (R387). -/
  | drstGo (v : BitVec 32)
  /-- DIE_RESET_WRITE_BACK (R387). -/
  | dieResetWriteBack
  /-- DIE_RESET_OFFLINE (R387). -/
  | dieResetOffline
  /-- DIE_READMIT (R387). -/
  | dieReadmit
  /-- CTX_CREATE (R392). -/
  | ctxCreate
  /-- CTX_CREATE_SUPERVISOR (R392). -/
  | ctxCreateSupervisor
  /-- CTX_DESTROY (R393). -/
  | ctxDestroy (ctx : Nat)
  /-- OBJ_REGISTER (R394). -/
  | objRegister (ctx : Nat)
  /-- OBJ_UNREGISTER (R394). -/
  | objUnregister (ctx : Nat) (onum : Nat)
  /-- VCT_WRITE (R26). -/
  | vctWrite (n : Nat) (v : BitVec 32)
  /-- SIGT_N_WRITE (R102). -/
  | sigtNWrite (ctx : Nat) (v : BitVec 32)
  /-- REGISTER_WRITE (R370). -/
  | registerWrite (off : Nat) (v : BitVec 64)
  /-- ATTESTATION_REQUEST (R406). -/
  | attestationRequest (v : BitVec 32)
  /-- ATTESTATION_REPORT_DONE (R406). -/
  | attestationReportDone
  /-- FIRMWARE_UPDATE (R403). -/
  | firmwareUpdate (img : FwImage)
  /-- LIFE_CYCLE_ADVANCE (R405). -/
  | lifeCycleAdvance (c : LifeCommand)
  /-- POWER_ON_START (R401). -/
  | powerOnStart (r : StartFindings)
  /-- MONITOR_ENABLE (R407). -/
  | monitorEnable (u : Nat) (v : BitVec 32)
  /-- MONITOR_SNAP (R408). -/
  | monitorSnap (u : Nat)
  /-- MONITOR_SAMPLE (R408). -/
  | monitorSample (u : Nat) (src : Nat) (v : Nat)
  /-- CLOCK_STEP (R22). -/
  | clockStep (region : Nat) (high : QueueMarks)
  /-- PATROL_SCRUB (R376). -/
  | patrolScrub (what : ScrubPass)
  /-- UNCORRECTABLE_ERROR (R377). -/
  | uncorrectableError (site : ErrorSite)
  /-- HBM_ROW_REMAP (R409). -/
  | hbmRowRemap (stack : Nat) (row : Nat)
  /-- PSEUDO_CHANNEL_SWITCH (R409). -/
  | pseudoChannelSwitch (stack : Nat) (ch : Nat)
  /-- WAVELENGTH_SPARE (R399). -/
  | wavelengthSpare (fibre : Nat) (wl : Nat)
  /-- FIBRE_FAILURE (R399). -/
  | fibreFailure (fibre : Nat)
  /-- CACHE_WAY_SPARE (R409). -/
  | cacheWaySpare (site : WaySite) (way : Nat)
  /-- THL_LANE_FAILURE (R395). -/
  | thlLaneFailure
  /-- HOST_WRITE (R397). -/
  | hostWrite (pa : HostAddr) (data : List (BitVec 8))
  /-- HOST_READ (R397). -/
  | hostRead (pa : HostAddr) (n : Nat)
  /-- NOP (R167): primary opcode 0x00, format S. -/
  | nop (f : FmtS)
  /-- NEXT (R168): primary opcode 0x01, format N. -/
  | next (f : FmtN)
  /-- NEXTP (R168): primary opcode 0x02, format N. -/
  | nextp (f : FmtN)
  /-- NEXTPU (R169): primary opcode 0x03, format N. -/
  | nextpu (f : FmtN)
  /-- NEXTI (R170): primary opcode 0x04, format S. -/
  | nexti (f : FmtS)
  /-- CALL (R171): primary opcode 0x05, format N. -/
  | call (f : FmtN)
  /-- CALLI (R172): primary opcode 0x06, format S. -/
  | calli (f : FmtS)
  /-- RET (R173): primary opcode 0x07, format S. -/
  | ret (f : FmtS)
  /-- EXIT (R164): primary opcode 0x08, format S. -/
  | exit (f : FmtS)
  /-- BAR (R347): primary opcode 0x09, format S. -/
  | bar (f : FmtS)
  /-- YIELD (R166): primary opcode 0x0A, format S. -/
  | yield (f : FmtS)
  /-- SPAWN (R162): primary opcode 0x0B, format N. -/
  | spawn (f : FmtN)
  /-- GWAIT (R356): primary opcode 0x0C, format S. -/
  | gwait (f : FmtS)
  /-- TRAP (R358): primary opcode 0x0D, format S. -/
  | trap (f : FmtS)
  /-- BRK (R358): primary opcode 0x0E, format S. -/
  | brk (f : FmtS)
  /-- LAUNCH (R357): primary opcode 0x0F, format S. -/
  | launch (f : FmtS)
  /-- HIMM (R86): primary opcode 0x10, format H. -/
  | himm (f : FmtH)
  /-- HOFF (R177): primary opcode 0x11, format H. -/
  | hoff (f : FmtH)
  /-- HTGT (R176): primary opcode 0x12, format H. -/
  | htgt (f : FmtH)
  /-- HSCH (R178): primary opcode 0x13, format H. -/
  | hsch (f : FmtH)
  /-- ADD (R185): primary opcode 0x18, format A. -/
  | add (f : FmtA)
  /-- SUB (R185): primary opcode 0x19, format A. -/
  | sub (f : FmtA)
  /-- MUL (R185): primary opcode 0x1A, format A. -/
  | mul (f : FmtA)
  /-- MULHI (R185): primary opcode 0x1B, format A. -/
  | mulhi (f : FmtA)
  /-- MAD (R185): primary opcode 0x1C, format A. -/
  | mad (f : FmtA)
  /-- DIV (R186): primary opcode 0x1D, format A. -/
  | div (f : FmtA)
  /-- REM (R186): primary opcode 0x1E, format A. -/
  | rem (f : FmtA)
  /-- MIN (R185): primary opcode 0x1F, format A. -/
  | min (f : FmtA)
  /-- MAX (R185): primary opcode 0x20, format A. -/
  | max (f : FmtA)
  /-- ABS (R187): primary opcode 0x21, format A. -/
  | abs (f : FmtA)
  /-- NEG (R187): primary opcode 0x22, format A. -/
  | neg (f : FmtA)
  /-- AND (R188): primary opcode 0x23, format A. -/
  | and (f : FmtA)
  /-- OR (R188): primary opcode 0x24, format A. -/
  | or (f : FmtA)
  /-- XOR (R188): primary opcode 0x25, format A. -/
  | xor (f : FmtA)
  /-- NOT (R188): primary opcode 0x26, format A. -/
  | not (f : FmtA)
  /-- ANDN (R188): primary opcode 0x27, format A. -/
  | andn (f : FmtA)
  /-- SHL (R189): primary opcode 0x28, format A. -/
  | shl (f : FmtA)
  /-- SHR (R189): primary opcode 0x29, format A. -/
  | shr (f : FmtA)
  /-- SAR (R189): primary opcode 0x2A, format A. -/
  | sar (f : FmtA)
  /-- ROTL (R189): primary opcode 0x2B, format A. -/
  | rotl (f : FmtA)
  /-- POPC (R190): primary opcode 0x2C, format A. -/
  | popc (f : FmtA)
  /-- CLZ (R190): primary opcode 0x2D, format A. -/
  | clz (f : FmtA)
  /-- CTZ (R190): primary opcode 0x2E, format A. -/
  | ctz (f : FmtA)
  /-- BREV (R190): primary opcode 0x2F, format A. -/
  | brev (f : FmtA)
  /-- BFX (R191): primary opcode 0x30, format A. -/
  | bfx (f : FmtA)
  /-- BFI (R191): primary opcode 0x31, format A. -/
  | bfi (f : FmtA)
  /-- CMP (R193): primary opcode 0x32, format C. -/
  | cmp (f : FmtC)
  /-- SEL (R194): primary opcode 0x33, format A. -/
  | sel (f : FmtA)
  /-- ADDS (R185): primary opcode 0x34, format A. -/
  | adds (f : FmtA)
  /-- SUBS (R185): primary opcode 0x35, format A. -/
  | subs (f : FmtA)
  /-- DOT4 (R195): primary opcode 0x36, format A. -/
  | dot4 (f : FmtA)
  /-- DOT2 (R195): primary opcode 0x37, format A. -/
  | dot2 (f : FmtA)
  /-- IXA (R196): primary opcode 0x38, format A. -/
  | ixa (f : FmtA)
  /-- FSH (R192): primary opcode 0x39, format A. -/
  | fsh (f : FmtA)
  /-- PERM (R192): primary opcode 0x3A, format A. -/
  | perm (f : FmtA)
  /-- LOP3 (R188): primary opcode 0x3B, format A. -/
  | lop3 (f : FmtA)
  /-- FADD (R210): primary opcode 0x40, format A. -/
  | fadd (f : FmtA)
  /-- FSUB (R210): primary opcode 0x41, format A. -/
  | fsub (f : FmtA)
  /-- FMUL (R210): primary opcode 0x42, format A. -/
  | fmul (f : FmtA)
  /-- FMA (R210): primary opcode 0x43, format A. -/
  | fma (f : FmtA)
  /-- FMIN (R212): primary opcode 0x44, format A. -/
  | fmin (f : FmtA)
  /-- FMAX (R212): primary opcode 0x45, format A. -/
  | fmax (f : FmtA)
  /-- FMINN (R212): primary opcode 0x46, format A. -/
  | fminn (f : FmtA)
  /-- FMAXN (R212): primary opcode 0x47, format A. -/
  | fmaxn (f : FmtA)
  /-- FABS (R213): primary opcode 0x48, format A. -/
  | fabs (f : FmtA)
  /-- FNEG (R213): primary opcode 0x49, format A. -/
  | fneg (f : FmtA)
  /-- FCMP (R215): primary opcode 0x4A, format C. -/
  | fcmp (f : FmtC)
  /-- FCLASS (R214): primary opcode 0x4B, format A. -/
  | fclass (f : FmtA)
  /-- FDIV (R210): primary opcode 0x4C, format A. -/
  | fdiv (f : FmtA)
  /-- FSQRT (R210): primary opcode 0x4D, format A. -/
  | fsqrt (f : FmtA)
  /-- FRND (R216): primary opcode 0x4E, format A. -/
  | frnd (f : FmtA)
  /-- FFRAC (R216): primary opcode 0x4F, format A. -/
  | ffrac (f : FmtA)
  /-- FSCALE (R217): primary opcode 0x50, format A. -/
  | fscale (f : FmtA)
  /-- FGETX (R217): primary opcode 0x51, format A. -/
  | fgetx (f : FmtA)
  /-- FSIGN (R213): primary opcode 0x52, format A. -/
  | fsign (f : FmtA)
  /-- FDOT2 (R211): primary opcode 0x53, format A. -/
  | fdot2 (f : FmtA)
  /-- CVT (R218): primary opcode 0x68, format A. -/
  | cvt (f : FmtA)
  /-- CVTSR (R219): primary opcode 0x69, format A. -/
  | cvtsr (f : FmtA)
  /-- PACK (R220): primary opcode 0x6A, format A. -/
  | pack (f : FmtA)
  /-- UNPACK (R220): primary opcode 0x6B, format A. -/
  | unpack (f : FmtA)
  /-- QNT (R221): primary opcode 0x6C, format A. -/
  | qnt (f : FmtA)
  /-- DQNT (R221): primary opcode 0x6D, format A. -/
  | dqnt (f : FmtA)
  /-- RCP (R222): primary opcode 0x78, format A. -/
  | rcp (f : FmtA)
  /-- RSQ (R222): primary opcode 0x79, format A. -/
  | rsq (f : FmtA)
  /-- EX2 (R222): primary opcode 0x7A, format A. -/
  | ex2 (f : FmtA)
  /-- LG2 (R222): primary opcode 0x7B, format A. -/
  | lg2 (f : FmtA)
  /-- SINPI (R222): primary opcode 0x7C, format A. -/
  | sinpi (f : FmtA)
  /-- COSPI (R222): primary opcode 0x7D, format A. -/
  | cospi (f : FmtA)
  /-- TANH (R222): primary opcode 0x7E, format A. -/
  | tanh (f : FmtA)
  /-- SIGM (R222): primary opcode 0x7F, format A. -/
  | sigm (f : FmtA)
  /-- RD (R198): primary opcode 0x80, format L. -/
  | rd (f : FmtL)
  /-- WR (R199): primary opcode 0x81, format L. -/
  | wr (f : FmtL)
  /-- MOV (R200): primary opcode 0x82, format B. -/
  | mov (f : FmtB)
  /-- RDSYS (R201): primary opcode 0x83, format L. -/
  | rdsys (f : FmtL)
  /-- XPUT (R350): primary opcode 0x85, format L. -/
  | xput (f : FmtL)
  /-- XGET (R351): primary opcode 0x86, format L. -/
  | xget (f : FmtL)
  /-- XCLR (R350): primary opcode 0x87, format L. -/
  | xclr (f : FmtL)
  /-- GRED (R354): primary opcode 0x88, format A. -/
  | gred (f : FmtA)
  /-- GSCAN (R354): primary opcode 0x89, format A. -/
  | gscan (f : FmtA)
  /-- VOTE (R354): primary opcode 0x8A, format A. -/
  | vote (f : FmtA)
  /-- LD (R257): primary opcode 0x90, format M. -/
  | ld (f : FmtM)
  /-- ST (R260): primary opcode 0x91, format M. -/
  | st (f : FmtM)
  /-- LDS (R258): primary opcode 0x92, format M. -/
  | lds (f : FmtM)
  /-- STS (R260): primary opcode 0x93, format M. -/
  | sts (f : FmtM)
  /-- LDSN (R258): primary opcode 0x94, format M. -/
  | ldsn (f : FmtM)
  /-- LDC (R257): primary opcode 0x95, format M. -/
  | ldc (f : FmtM)
  /-- PF (R268): primary opcode 0x96, format M. -/
  | pf (f : FmtM)
  /-- LDACQ (R264): primary opcode 0x97, format M. -/
  | ldacq (f : FmtM)
  /-- STREL (R265): primary opcode 0x98, format M. -/
  | strel (f : FmtM)
  /-- FENCE (R267): primary opcode 0x99, format S. -/
  | fence (f : FmtS)
  /-- CWB (R269): primary opcode 0x9A, format M. -/
  | cwb (f : FmtM)
  /-- ZFILL (R270): primary opcode 0x9B, format M. -/
  | zfill (f : FmtM)
  /-- PLD (R259): primary opcode 0x9C, format M. -/
  | pld (f : FmtM)
  /-- PST (R263): primary opcode 0x9D, format M. -/
  | pst (f : FmtM)
  /-- AADD (R272): primary opcode 0xB0, format T. -/
  | aadd (f : FmtT)
  /-- AMIN (R272): primary opcode 0xB1, format T. -/
  | amin (f : FmtT)
  /-- AMAX (R272): primary opcode 0xB2, format T. -/
  | amax (f : FmtT)
  /-- AAND (R272): primary opcode 0xB3, format T. -/
  | aand (f : FmtT)
  /-- AOR (R272): primary opcode 0xB4, format T. -/
  | aor (f : FmtT)
  /-- AXOR (R272): primary opcode 0xB5, format T. -/
  | axor (f : FmtT)
  /-- AXCHG (R272): primary opcode 0xB6, format T. -/
  | axchg (f : FmtT)
  /-- ACAS (R272): primary opcode 0xB7, format T. -/
  | acas (f : FmtT)
  /-- AFADD (R272): primary opcode 0xB8, format T. -/
  | afadd (f : FmtT)
  /-- SIGSUB (R355): primary opcode 0xB9, format T. -/
  | sigsub (f : FmtT)
  /-- SIGWAIT (R355): primary opcode 0xBA, format T. -/
  | sigwait (f : FmtT)
  /-- MBOX (R355): primary opcode 0xBB, format T. -/
  | mbox (f : FmtT)
  /-- TCOPY (R308): primary opcode 0xC0, format E. -/
  | tcopy (f : FmtE)
  /-- TSTORE (R308): primary opcode 0xC1, format E. -/
  | tstore (f : FmtE)
  /-- TCOPYO (R309): primary opcode 0xC2, format E. -/
  | tcopyo (f : FmtE)
  /-- TCOPYR (R310): primary opcode 0xC3, format E. -/
  | tcopyr (f : FmtE)
  /-- TCAST (R311): primary opcode 0xC4, format E. -/
  | tcast (f : FmtE)
  /-- SFREE (R311): primary opcode 0xC5, format E. -/
  | sfree (f : FmtE)
  /-- SPRES (R311): primary opcode 0xC6, format E. -/
  | spres (f : FmtE)
  /-- TGATH (R310): primary opcode 0xC7, format E. -/
  | tgath (f : FmtE)
  /-- TSCAT (R310): primary opcode 0xC8, format E. -/
  | tscat (f : FmtE)
  /-- TCLAIM (R314): primary opcode 0xD0, format E. -/
  | tclaim (f : FmtE)
  /-- TREL (R314): primary opcode 0xD1, format E. -/
  | trel (f : FmtE)
  /-- MMA (R315): primary opcode 0xD2, format E. -/
  | mma (f : FmtE)
  /-- MMI (R315): primary opcode 0xD3, format E. -/
  | mmi (f : FmtE)
  /-- MMG (R315): primary opcode 0xD4, format E. -/
  | mmg (f : FmtE)
  /-- TSACC (R316): primary opcode 0xD5, format E. -/
  | tsacc (f : FmtE)
  /-- TZERO (R317): primary opcode 0xD6, format E. -/
  | tzero (f : FmtE)
  /-- TACST (R318): primary opcode 0xD7, format E. -/
  | tacst (f : FmtE)
  /-- TACLD (R318): primary opcode 0xD8, format E. -/
  | tacld (f : FmtE)
  /-- TFENCE (R319): primary opcode 0xD9, format E. -/
  | tfence (f : FmtE)
  /-- TMODE (R320): primary opcode 0xDA, format E. -/
  | tmode (f : FmtE)
  /-- RDCTL (R361): primary opcode 0xE0, format S. -/
  | rdctl (f : FmtS)
  /-- WRCTL (R361): primary opcode 0xE1, format S. -/
  | wrctl (f : FmtS)
  /-- TLBINV (R362): primary opcode 0xE2, format S. -/
  | tlbinv (f : FmtS)
  /-- CINV (R362): primary opcode 0xE3, format S. -/
  | cinv (f : FmtS)
  /-- EVPOST (R363): primary opcode 0xE4, format S. -/
  | evpost (f : FmtS)
  /-- PERF (R363): primary opcode 0xE5, format S. -/
  | perf (f : FmtS)
  /-- CTXSV (R364): primary opcode 0xE6, format S. -/
  | ctxsv (f : FmtS)
  /-- CTXLD (R364): primary opcode 0xE7, format S. -/
  | ctxld (f : FmtS)
  /-- WRITE_PERFORMED_IN_L2 (R328). -/
  | writePerformedInL2 (e : Nat)
  /-- PEER_WRITE_ACKNOWLEDGED (R337). -/
  | peerWriteAcknowledged (e : Nat)
  /-- HOST_WRITE_ACCEPTED (R337). -/
  | hostWriteAccepted (e : Nat)
  /-- PEER_READ_REQUEST (R249). -/
  | peerReadRequest (r : PeerRead)
  /-- BULLPEN_PROTECTION_EXPIRY (R142). -/
  | bullpenProtectionExpiry (vc : Nat)
  /-- POWER_LOSS (R400). -/
  | powerLoss
deriving DecidableEq, Repr

end Sys2Proof
end

