-- ==== Sys2Proof/Machine/State.lean ====
section
/-! DEFINITION. The state of the Ulubel package as plain data, the reasons a step can stop, and the state right after a
start. Every piece of state the manual names has one home here; two names of one storage are stored once. -/
namespace Sys2Proof.Machine

/-- Why the machine stops with a fault. [DEDUCED, log entry 18] -/
inductive Fault where
  /-- Raised by every step but POWER_ON_START while the package has no power (R400). Safe: nothing runs there. -/
  | noPower
deriving DecidableEq, Repr

/-- Why the machine refuses an instruction. -/
inductive Refusal where
  /-- An instruction that has no meaning in this model yet. Safe. -/
  | notModelled (mnemonic : String)
deriving DecidableEq, Repr

/-- A list of bytes at addresses: memory in canonical form has rising addresses and lists no byte that reads as 0. -/
abbrev Memory := List Host.Cell

/-- Bytes written at addresses, as runs of consecutive bytes. -/
abbrev Runs := List (Nat × List Byte)

/-- A token of the fabric (R46): null, poison with its origin word (R45), or a value of up to 128 bits, zero-extended. -/
inductive Tok where
  | null
  | poison (org : BitVec 32)
  | val (bits : BitVec 128)
deriving DecidableEq, Repr

/-- One 32-bit slot of a frame with its presence (for an exchange slot: full) bit and its poison mark (R12, R47, R350). -/
structure Slot where
  val : BitVec 32
  pres : Bool
  mark : Bool
deriving DecidableEq, Repr

/-- A segment pointer (R158): object number, kernel index, segment index. -/
structure SegPtr where
  onum : Nat
  kidx : Nat
  sidx : Nat
deriving DecidableEq, Repr

/-- A fault or event record (R365); `cont` holds data, operand and old value of a continuation record (R366). -/
structure EvRec where
  kind : Nat
  cause : Nat
  ctx : Nat
  vcore : Nat
  fl : Nat
  slot : Nat
  ptr : BitVec 32
  detail : BitVec 32
  addr : Nat
  data : BitVec 32
  seq : BitVec 32
  cont : List (BitVec 64)
deriving DecidableEq, Repr

/-- Why an access or a commit test failed: kind, cause, detail, address and datum of the record it makes (R234, R366). -/
structure AccFault where
  kind : Nat
  cause : Nat
  detail : BitVec 32
  addr : Nat
  data : BitVec 32
deriving DecidableEq, Repr

/-- The state of a load's request (R254): not yet returned, returned, or failed. -/
inductive LoadSt where
  | pending
  | done
  | failed (f : AccFault)
deriving DecidableEq, Repr

/-- A request a load word has issued (R254): word index, the address it formed, and the core cycle of its issue (R407). -/
structure LoadReq where
  idx : Nat
  va : Nat
  st : LoadSt
  at_ : Nat
deriving DecidableEq, Repr

/-- A stage the instance has entered (R147): its number, its window tag, the core cycle of entry. -/
structure StageIn where
  stage : Nat
  tag : Nat
  cycle : Nat
deriving DecidableEq, Repr

/-- A checked configuration (R141): its key and the words behind the header. -/
structure Conf where
  ctx : Nat
  addr : Nat
  cid : Nat
  hdr : List (BitVec 32)
  words : List (BitVec 32)
deriving DecidableEq, Repr

/-- A segment instance (R9, R149): the placement it runs in, the poison mode, speculative state and
group count sampled at admission (R44, R202), the slots as they stood then (R198), the tokens that stand at ports, the words that have fired, the loads, the raised conditions (R38), the stages entered, the
pages whose walk it awaits at commit (kind 0) or whose walk failed, when it began to wait at commit and whether that stall was told, the configuration that a held instance keeps
(R121), and the cycle at which the stage slots of its next stage became present (R148). [DEDUCED, log entry 40] -/
structure Inst where
  place : Nat
  psn : Bool
  prov : Bool
  shape : Nat
  ngrpx : Nat
  slots0 : List Slot
  toks : List (Nat × Nat × Tok)
  fired : List Nat
  loads : List LoadReq
  conds : BitVec 6
  stages : List StageIn
  badPages : List (Nat × AccFault)
  commitAt : Option Nat
  stallTold : Bool
  keptConf : Option Conf
  readyAt : Option Nat
deriving DecidableEq, Repr

/-- What a thread that has committed still waits for before it moves (R273, R346). -/
inductive Wait where
  /-- an atomic's result, an acquiring atomic or a full fence: the number of the effect -/
  | effect (id : Nat)
  /-- barrier `n` -/
  | bar (n : Nat)
  /-- the collective word at index `idx`: slot that its `wr` defers to (64 and above: none), and whether it is 64 bits wide -/
  | coll (idx : Nat) (slot : Nat) (wide : Bool)
  /-- a sigwait: its ordinal, signal, threshold, result slot (64: none), acquire, and its word -/
  | sig (ord n : Nat) (thr : BitVec 64) (slot : Nat) (acq : Bool) (word : BitVec 32)
  /-- the group's gwait -/
  | gwait
  /-- a detached member's gwait, and its word -/
  | ownGwait (n : Nat) (thr : BitVec 64) (word : BitVec 32)
deriving DecidableEq, Repr

/-- A committed thread's waits and its successor; `none` for `exit`. -/
structure MoveWait where
  succ : Option SegPtr
  yields : Bool
  waits : List Wait
deriving DecidableEq, Repr

/-- Where a thread stands. -/
inductive ThreadSt where
  /-- its group has been accepted and has not started (R129) -/
  | starting
  /-- no segment entry is free for its successor (R132) -/
  | unassigned
  /-- its bit is set in the waiting vector of the entry of its segment (R132) -/
  | waiting
  /-- it holds an instance (R147) -/
  | admitted
  /-- its instance is held at commit (R121) -/
  | held
  /-- it has committed and waits under R273 or R346 -/
  | moving
  /-- it is parked with a kept record (R367) -/
  | parked
  /-- it has exited; its frame waits for pending statuses (R164) -/
  | exited
deriving DecidableEq, Repr

/-- A thread and its frame (R9, R12, R129, R161, R350). `resident` is false while its group sits in a
dugout; `ackLost` lists effects whose acknowledgement is lost (R333); `lvsBad` lists slots in which an uncorrectable error was found (R378); `parkLarge`
says that the migration request it is parked on names a large page (R246); `owesYield` that the entry it has yet to be given takes claim 0 (R138);
`bitAt` is the core cycle in which its waiting bit was last set: it is admissible from the next one on (R132, R148); `statusAt` lists the slots that hold
a landed engine status, whose reading acquires (R291, R327). -/
structure Thread where
  uid : Nat
  ctx : Nat
  grid : Nat
  gidx : Nat
  vc : Nat
  frame : Nat
  resident : Bool
  tid : Nat
  detached : Bool
  depth : Nat
  ptr : SegPtr
  slots : List Slot
  xs : List Slot
  st : ThreadSt
  seq : Nat
  inst : Option Inst
  wait : Option MoveWait
  kept : Option EvRec
  parkAt : Nat
  ackLost : List Nat
  ackRec : Option EvRec
  lvsBad : List Nat
  parkLarge : Bool
  owesYield : Bool
  bitAt : Option Nat
  statusAt : List Nat
deriving DecidableEq, Repr

/-- A barrier, or the arrival phase of `gwait` (R347, R356): generation, threads arrived, time of the first arrival in the
context's watchdog count, whether its stall was reported, and the word that the report names. -/
structure Bar where
  gen : Nat
  arrived : List Nat
  since : Nat
  told : Bool
  word : BitVec 32
deriving DecidableEq, Repr

/-- One contribution to a collective (R353). -/
structure Contrib where
  uid : Nat
  tid : Nat
  tok : Tok
deriving DecidableEq, Repr

/-- A collective in progress (R353, R354): the word it belongs to and its contributions in order of arrival. -/
structure Coll where
  ptr : SegPtr
  idx : Nat
  word : BitVec 32
  gen : Nat
  contribs : List Contrib
  since : Nat
  told : Bool
deriving DecidableEq, Repr

/-- The state of an operand slot (R294). -/
inductive SlotSt where
  | empty
  | filling
  | full
deriving DecidableEq, Repr

/-- A matrix operand slot (R294, R309): state, tag, fill format (ETYPE, 0x12 for i4), finite flag, group code QG, 4 KiB tile and
1 KiB side area, the context of its last holder, and its poison mark (R378). -/
structure OpSlot where
  st : SlotSt
  tag : Nat
  fmt : Nat
  finite : Bool
  qg : Nat
  tile : Memory
  side : Memory
  bad : Bool
deriving DecidableEq, Repr

/-- An accumulator or a partial tile (R292, R296, R316): the group that holds it, the context of its last holder, its cells, for a
partial tile the A scales, B scales, whether cells are FP32 and whether scales are e8m0, and its poison mark. -/
structure Tile where
  holder : Option (Nat × Nat)
  ctx : Nat
  cells : Memory
  sa : List (BitVec 16)
  sb : List (BitVec 16)
  fp : Bool
  e8 : Bool
  bad : Bool
deriving DecidableEq, Repr

/-- A receiving ring of a volley (R288): the grid, id and group that opened it, its parameters, its counters and its bound
sender. -/
structure Ring where
  grid : Nat
  v : Nat
  gidx : Nat
  off : Nat
  tb : Nat
  dp : Nat
  wc : Nat
  fc : Nat
  bound : Option Nat
deriving DecidableEq, Repr

/-- Where a copy command stands (R279, R280, R299). -/
inductive CopySt where
  /-- in the core's queue -/
  | queued
  /-- in the queue after a resume or a restore: its layout record is read again; the page that a migration request is out for: an address of it, and
  whether it is a large one -/
  | reread (told : Option (Nat × Bool))
  /-- a volley that has its permit -/
  | permitted
  /-- run by engine `eng` -/
  | running (eng : Nat)
deriving DecidableEq, Repr

/-- A copy command (R278, R307): the word that made it, its issuer, the layout record as read at commit, box words, coordinates,
place word, index-list offset, channel; while it runs, its position in the stream (in elements for a copy that writes global memory, else in
lines), clipped elements, error code, the lines it cleared, for a volley the byte offsets in its receivers, and the page whose migration it waits for. -/
structure Copy where
  id : Nat
  ctx : Nat
  grid : Nat
  gidx : Nat
  vc : Nat
  uid : Nat
  seq : Nat
  ord : Nat
  word : BitVec 32
  layout : Option (BitVec 512)
  box : List (BitVec 32)
  coords : List Int
  placeW : BitVec 32
  listOff : Nat
  st : CopySt
  pos : Nat
  clip : Nat
  code : Nat
  stopped : Bool
  cleared : List Nat
  targets : List (Nat × Nat)
  finite : Bool
  waits : Option (Nat × Bool)
deriving DecidableEq, Repr

/-- Where a matching-store entry stands (R295): pending, or fired without writing, with its code, in the order of firing (R319). An op
that fired and wrote leaves the list. -/
inductive OpSt where
  | pending
  | barren (code order : Nat)
deriving DecidableEq, Repr

/-- A matrix command in issue order (R295): `mma`, `mmi`, `mmg`, `tsacc`, `tzero`, `tacld` in the matching store; `tclaim`, `trel`
of operand slots and units, `tacst` and `tfence` beside it. -/
structure Op where
  id : Nat
  ctx : Nat
  grid : Nat
  gidx : Nat
  vc : Nat
  uid : Nat
  word : BitVec 32
  tag : Nat
  zsk : Bool
  off : Nat
  st : OpSt
  seenCopies : List Nat
deriving DecidableEq, Repr

/-- What a group that sits in a dugout keeps beside its threads (R247, R378, R385). -/
structure Saved where
  spad : Memory
  absent : List (Nat × Nat)
  badLines : List Nat
  slots : List OpSlot
  accs : List (Nat × Tile)
  pts : List (Nat × Tile)
  ops : List Op
  copies : List Copy
  rings : List Ring
deriving DecidableEq, Repr

/-- Where a group is. -/
inductive GroupAt where
  /-- on virtual core `vc` -/
  | core (vc : Nat)
  /-- in dugout frame `k`; it was evicted from virtual core `vc` -/
  | dugout (k vc : Nat)
deriving DecidableEq, Repr

/-- The states of a group (R125, R129, R389). -/
inductive GroupSt where
  | starting
  | running
  /-- provisional-done -/
  | provDone
  | squashing
  | squashed
  | retired
deriving DecidableEq, Repr

/-- A group that has been handed out (R9, R128, R130, R347, R385). -/
structure Group where
  ctx : Nat
  grid : Nat
  gidx : Nat
  vd : Nat
  at_ : GroupAt
  st : GroupSt
  startAt : Nat
  spadBase : Nat
  spadUnits : Nat
  opsl : List Nat
  bars : List Bar
  gw : Bar
  gwSig : Nat
  gwThr : BitVec 64
  gwScope : Nat
  colls : List Coll
  zsk : Bool
  tfCode : Nat
  tfCount : Nat
  wantIn : Bool
  saved : Option Saved
deriving DecidableEq, Repr

/-- The speculative part of a grid (R118 to R126): the prediction, the true count once it is known, a count latched after a cut,
the retractable descriptor as read, the time of release or of restore in the watchdog count with the count that the restore brought along, the
shape source's fate. -/
structure Spec where
  pred : Nat
  truth : Option Nat
  latched : Option (BitVec 64)
  ralt : Option (BitVec 128)
  since : Nat
  carried : Nat
  failed : Bool
deriving DecidableEq, Repr

/-- An active grid (R111, R115, R384): the launch record as released, its tables, the kernel, the groups still to hand out,
those settled, the completion decrements it still owes, and for each die on which a group of it ended the die's sending position then (R325). -/
structure Grid where
  id : Nat
  ctx : Nat
  raw : BitVec 512
  unif : List (BitVec 32)
  bufs : List (BitVec 128)
  dptrs : List (BitVec 64)
  onum : Nat
  kidx : Nat
  queue : Nat
  recNo : Nat
  nextG : Nat
  spec : Option Spec
  nRet : Nat
  nSquash : Nat
  owed : List Nat
  owedAll : Bool
  ended : Bool
  seen : List (Nat × Nat)
deriving DecidableEq, Repr

/-- A kernel-table entry (R60): its first segment, its segments and its flags. -/
structure Kernel where
  first : Nat
  count : Nat
  kflags : Nat
deriving DecidableEq, Repr

/-- A segment-table entry (R61). -/
structure SegEnt where
  hdr : Nat
  pal : Nat
  palsz : Nat
deriving DecidableEq, Repr

/-- A registered code object (R59, R158, R394): its number, address, size, identity, security version, hash, and its kernel and
segment tables as registration read them. -/
structure Obj where
  onum : Nat
  addr : Nat
  size : Nat
  cid : Nat
  secver : Nat
  hash : BitVec 384
  kernels : List Kernel
  segs : List SegEnt
deriving DecidableEq, Repr

/-- An unregistered object that grids still run (R394, R179), with the numbers of those grids. [DEDUCED, log entry 31] -/
structure GoneObj where
  obj : Obj
  grids : List Nat
deriving DecidableEq, Repr

/-- The watch entry of a signal (R102): invalid until software writes the table registers, or watching a physical address. -/
structure SigEnt where
  n : Nat
  pa : Option Nat
deriving DecidableEq, Repr

/-- The dispatcher's hold on a work queue (R106 to R112): held disabled, the record copied at the head with its number, whether it is
eligible (R114), the tail signal that the descriptor last named, and whether an observed tail waits for the descriptor's page to be checked (R108,
R451). Queue 64 is the context's direct queue. -/
structure QHead where
  q : Nat
  off : Bool
  raw : Option (BitVec 512)
  recNo : Nat
  eligible : Bool
  tsig : Option Nat
  late : Bool
deriving DecidableEq, Repr

/-- The monitors that `perf` reads, of one virtual core (R363). -/
structure PerfMon where
  vc : Nat
  miss : BitVec 32
  admits : BitVec 64
  commits : BitVec 64
  bpMiss : BitVec 32
  aborts : BitVec 32
deriving DecidableEq, Repr

/-- The control registers of a context (R359, R360). -/
structure CtxRegs where
  csel : BitVec 32
  ctxCtl : BitVec 32
  ptBase : BitVec 64
  qtabBase : BitVec 64
  sigtBase : BitVec 64
  sigtN : BitVec 32
  predBase : BitVec 64
  raltBase : BitVec 64
  chtBase : BitVec 64
  evqBase : BitVec 64
  wdLimit : BitVec 32
  dgLimit : BitVec 32
  barLimit : BitVec 32
  policy : BitVec 32
  req : Bool
  phase : Nat
deriving DecidableEq, Repr

/-- A context (R9, R392): number, registers, objects, unregistered ones that grids still run, signal watches, queues, direct queue with its count, event sequence, held
event records and overflow count (R369), flow sequence numbers, monitors, the hub cycles its watchdog counts stood still
(R374), and the cut's answers (R382). -/
structure Ctx where
  num : Nat
  regs : CtxRegs
  objs : List Obj
  gone : List GoneObj
  sigs : List SigEnt
  heads : List QHead
  direct : List (BitVec 512)
  directN : Nat
  evSeq : BitVec 32
  evHeld : List EvRec
  evOver : Nat
  fseq : List Nat
  mons : List PerfMon
  still : Nat
  cutDies : List Nat
  retryAt : Nat
deriving DecidableEq, Repr

/-- What an effect does when it is performed (R322). -/
inductive EffKind where
  /-- a store, strel, or zfill of bytes at physical addresses -/
  | store
  /-- a copy's write -/
  | copy
  /-- an atomic: opcode, type code, width, operand, new value of acas, result slot (64: none) -/
  | atomic (op ty w : Nat) (b c : BitVec 64) (slot : Nat)
  /-- a fence of kind release (1) or full (2), or the release of a `spawn` (3) -/
  | fence (kind : Nat)
  /-- a device launch: the record goes to the direct queue -/
  | launch
  /-- a write at a peer: channel, package, peer context, its sequence number in the flow, the channel's order mode, whether a copy made it (R336) -/
  | peer (ch pkg pctx seq : Nat) (ordered copy : Bool)
  /-- a software event -/
  | event (r : EvRec)
  /-- a write-back (R269) -/
  | writeBack (toHbm : Bool)
  /-- an atomic on the scratchpad that has not yet been performed or whose result has not landed (R273 to R275): as `atomic`, at the core's
  scratchpad byte that the effect's `va` holds -/
  | spad (op ty w : Nat) (b c : BitVec 64) (slot : Nat)
  /-- a scratchpad store that has not yet been performed (R240, R267), at the core's scratchpad byte that the effect's `va` holds -/
  | spadStore (bs : List Byte)
  /-- a result that has yet to land: of an atomic dropped out of bounds, or of a `sigwait`; width in bytes, slot; the value is `old` (R271, R273) -/
  | result (w slot : Nat)
  /-- `ctxsv` (`save`) or `ctxld` of a context, with its status slot (R364); `va` is the image's address -/
  | image (save : Bool) (tctx slot : Nat)
deriving DecidableEq, Repr

/-- How far an effect has come (R322, R328). -/
inductive EffSt where
  /-- it has left the thread at commit and is in the memory unit -/
  | committed
  /-- visible on its die; position in the die's sending order -/
  | onDie (n : Nat)
  /-- placed by the hub -/
  | placed
deriving DecidableEq, Repr

/-- A committed effect of a thread (R261, R322 to R333), in commit order; `runs` are the bytes it writes, by physical address, or by
peer virtual address; `rel` is the scope it releases at (0 none) and `acq` the scope at which its result acquires; `seenEf` is its
die's sending position at commit; `acked` and `accepted` are the umpire's and the host's or the far end's answers; `tries` and
`sentAt`, the hub cycle of the last sending, serve R331. -/
structure Effect where
  id : Nat
  ctx : Nat
  grid : Nat
  gidx : Nat
  vc : Nat
  uid : Nat
  frame : Nat
  seq : Nat
  ord : Nat
  ptr : SegPtr
  idx : Nat
  kind : EffKind
  va : Nat
  width : Nat
  mt : Nat
  ga : Bool
  rel : Nat
  acq : Nat
  runs : Runs
  old : BitVec 64
  st : EffSt
  seenEf : Nat
  acked : Bool
  accepted : Bool
  landed : Bool
  lost : Bool
  tries : Nat
  sentAt : Option Nat
deriving DecidableEq, Repr

/-- A translation a TLB holds (R231): context, 64 KiB page number (of the first page for a large page), the entry. -/
structure TlbEnt where
  ctx : Nat
  page : Nat
  large : Bool
  pte : BitVec 64
deriving DecidableEq, Repr

/-- A line of a die's L2 slice or of the L3 (R243 to R245): 256-byte line number, valid sectors, the dirty masks of its four sectors with a bit for each
byte, Z flag. -/
structure L2Line where
  line : Nat
  valid : BitVec 4
  dirty : BitVec 256
  z : Bool
deriving DecidableEq, Repr

/-- A placed write that a die has not yet been shown (R328): number and bytes. -/
structure InMsg where
  id : Nat
  runs : Runs
deriving DecidableEq, Repr

/-- The states of a die's warm reset (R387). -/
inductive DieSt where
  | running
  | draining
  | writingBack
  | offline
  | readmitting
deriving DecidableEq, Repr

/-- A compute die (R10, R243, R328): the bytes whose view differs from the placed memory, the placed writes still to be shown, its TLB
and L2 slice, how many line places of the slice still hold the zeros of the last wipe under their Z flag (R245, R405), its sending counter and its reset
state. -/
structure Die where
  overlay : Memory
  inbox : List InMsg
  tlb : List TlbEnt
  l2 : List L2Line
  l2Wiped : Nat
  sendN : Nat
  st : DieSt
deriving DecidableEq, Repr

/-- A line of the L1 (R242): context, 64-byte line number, bytes as they stood on the die at the fill. -/
structure L1Line where
  ctx : Nat
  line : Nat
  bytes : List Byte
deriving DecidableEq, Repr

/-- A configuration in the bullpen (R140, R142), with the cycles of its arrival and its last use. -/
structure BullEnt where
  conf : Conf
  guarded : Bool
  arrived : Nat
  lastUse : Nat
deriving DecidableEq, Repr

/-- A fetch in progress (R140): number, the segment, its address and identity, and the CIDF of the launch that it is fetched for (R234). -/
structure Fetch where
  id : Nat
  ctx : Nat
  ptr : SegPtr
  addr : Nat
  cid : Nat
  cidf : Nat
deriving DecidableEq, Repr

/-- A recorded configuration failure (R101, R141): context and segment, the grid when the failure is that grid's only, the record
that later arrivals keep, and whether it may be tried again. [DEDUCED, log entry 43] -/
structure Failed where
  ctx : Nat
  ptr : SegPtr
  grid : Option Nat
  kept : EvRec
  retry : Bool
deriving DecidableEq, Repr

/-- A segment entry of a core's scheduler (R131, R133, R138); its waiting vector is the set of its waiting threads. -/
structure Entry where
  idx : Nat
  grid : Nat
  ptr : SegPtr
  stamp : Nat
  yielded : Bool
deriving DecidableEq, Repr

/-- The states of a placement (R135). -/
inductive PlaceSt where
  | configuring
  | admitting
  | draining
deriving DecidableEq, Repr

/-- A placed segment (R135, R141, R143, R169): slot, entry, configuration, cycle the slot was taken, admissions since, core cycle of
the last entry into each stage, the words' stage numbers (R146), and the direction each group took at `nextpu`. -/
structure Placement where
  slot : Nat
  entry : Nat
  grid : Nat
  ptr : SegPtr
  conf : Conf
  st : PlaceSt
  took : Nat
  admitted : Nat
  last : List Nat
  stage : List Nat
  dirs : List (Nat × Bool)
deriving DecidableEq, Repr

/-- A scratchpad as it stood before the writes of a cycle (R240, R241): the cycle, the bytes, the lines not present, and the threads whose own stores and
atomics have reached the banks in the cycle. -/
structure CycleStart where
  cycle : Nat
  spad : Memory
  absent : List (Nat × Nat)
  late : List Nat
deriving DecidableEq, Repr

/-- The engine and scratchpad storage of a core (R12, R237, R241, R292); `before` is how the scratchpad stood before the cycle of the last write
(R240), `owner` gives the context that last held each 16 KiB unit, `absent` the lines whose presence is clear with the
number of copies that hold them so. -/
structure Storage where
  spad : Memory
  before : Option CycleStart
  owner : List (Nat × Nat)
  absent : List (Nat × Nat)
  badLines : List Nat
  slots : List OpSlot
  slotCtx : List Nat
  accs : List Tile
  pts : List Tile
deriving DecidableEq, Repr

/-- The exchange slots of a thread as they stood before the commits of a cycle (R351): its group, its sys.tid, its slots. -/
structure XsOld where
  grid : Nat
  gidx : Nat
  tid : Nat
  xs : List Slot
deriving DecidableEq, Repr

/-- What a core keeps of the current cycle: the cycle and the frame of its last commit with the exchange slots of the threads that have
committed in it (R240, R261, R351), and the cycle of the last entry into a stage with the LVS banks that have served one in it (R148). -/
structure CycleLog where
  commitAt : Option (Nat × Nat)
  xsOld : List XsOld
  lvsAt : Nat
  lvsUsed : List Nat
deriving DecidableEq, Repr

/-- A virtual core (R12, R131 to R142, R278, R295); `ghosts` keeps the placements that have freed while an instance of theirs is held at commit (R121,
R169); `rrEntry` gives for a context the entry it last placed (R137). -/
structure Core where
  entries : List Entry
  places : List Placement
  ghosts : List Placement
  bullpen : List BullEnt
  fetches : List Fetch
  failed : List Failed
  rrCtx : Nat
  rrEntry : List (Nat × Nat)
  cycle : CycleLog
  tlb : List TlbEnt
  l1 : List L1Line
  copies : List Copy
  ops : List Op
  rings : List Ring
  store : Storage
deriving DecidableEq, Repr

/-- A miss that waits for a walker (R231). -/
structure Miss where
  ctx : Nat
  page : Nat
  write : Bool
  atomic : Bool
  cidf : Nat
  vc : Nat
deriving DecidableEq, Repr

/-- An entry of the host notification table (R391), with the messages of its firings that have yet to leave: the vector of each, and the address of the
signal that satisfied the entry. -/
structure Notify where
  ctx : BitVec 16
  nsig : BitVec 16
  vec : BitVec 16
  thr : BitVec 64
  due : List (Nat × Option Nat)
deriving DecidableEq, Repr

/-- The registers of the management aperture (R370, R391 to R409); `thlSent` counts the flits of the link to the host, and `thlResent` lists the numbers of
those sent again among the last 2^20 (R395). -/
structure Aperture where
  fcmd : BitVec 64
  fres : Nat
  farg : BitVec 64
  dhalt : List Nat
  drst : BitVec 32
  dgpBase : BitVec 64
  dgpN : BitVec 32
  cwsel : BitVec 32
  notify : List Notify
  ctxcmd : BitVec 64
  objaddr : BitVec 64
  objcmd : BitVec 64
  thlWidth : Nat
  thlSent : Nat
  thlResent : List Nat
  pkgnum : BitVec 32
  prtBase : BitVec 64
  b2off : BitVec 64
  attNonce : BitVec 256
  attAddr : BitVec 64
  attSt : Nat
  attNonce0 : BitVec 256
  attAddr0 : Nat
deriving DecidableEq, Repr

/-- An entry of the translation cache (R68): its key, its dependence mask, whether its signatures have been checked since the start (R404), the
header and words of the translation, and its two signatures over them (R403). [DESIGN CHOICE, log entry 70] -/
structure Translation where
  hash : BitVec 384
  seg : Nat
  version : Nat
  errata : BitVec 64
  depends : BitVec 64
  verified : Bool
  hdr : List (BitVec 32)
  words : List (BitVec 32)
  rsa : BitVec 3072
  slh : List Byte
deriving DecidableEq, Repr

/-- An access of the host that waits for its turn (R388, R397). -/
inductive HostReq where
  | write (pa : Nat) (data : List Byte)
  | read (pa n : Nat)
deriving DecidableEq, Repr

/-- A hub access that met a migratable page (R451): the context, the address, and whether the page is a large one. -/
structure HubStall where
  ctx : Nat
  va : Nat
  large : Bool
deriving DecidableEq, Repr

/-- A predictor's update that waits for its page (R123, R451). -/
structure LatePred where
  ctx : Nat
  raw : BitVec 512
  truth : Nat
  counts : Bool
  exact : Bool
deriving DecidableEq, Repr

/-- The hub (R10): placed memory, what the L3 holds and which of it is dirty, how many line places of the L3 still hold the zeros of the last wipe under
their Z flag (R245, R405), poisoned sectors, observed signal writes still to be
evaluated, waiting misses, the dispatcher's round-robin place and last release, the groups handed out this hub cycle, the dugout
frames in use, the messages sent to the host, the host's accesses that wait and the answers it has had, the data that peers read, and for each ordered flow from a peer (package, context,
channel) the sequence number that it performs next (R336). -/
structure Hub where
  placed : Memory
  l3 : List L2Line
  l3Wiped : Nat
  badSectors : List Nat
  sigWrites : List (Nat × BitVec 64)
  misses : List Miss
  lastRelease : Nat
  rrCtx : Nat
  rrQueue : Nat
  handCycle : Nat
  handCount : Nat
  dugouts : List (Nat × Nat × Nat)
  msix : List Nat
  hostWaits : List HostReq
  hostOut : List (List Byte)
  peerOut : List (List Byte)
  peerAcks : List (Nat × Nat × Bool)
  peerFlows : List ((Nat × Nat × Nat) × Nat)
  translations : List Translation
  /-- pages that hub accesses wait for: a request is posted and FU_DONE has not named them (R451) -/
  migr : List HubStall
  /-- pages at which hub accesses of the act that runs have stopped; empty between acts -/
  stalls : List HubStall
  latePreds : List LatePred
deriving DecidableEq, Repr

/-- An entry of the virtual core table (R25). -/
structure VctEnt where
  v : Bool
  pcore : Nat
deriving DecidableEq, Repr

/-- A firmware slot of the flash (R401, R403). -/
structure FwSlot where
  image : FwImage
  good : Bool
deriving DecidableEq, Repr

/-- A boot-log record (R402). -/
structure BootRec where
  start : Nat
  step : Nat
  form : Nat
  result : Nat
  unit : Nat
  detail : BitVec 64
deriving DecidableEq, Repr

/-- The readable fields of a monitor block (R407). -/
structure MonVals where
  min : BitVec 32
  max : BitVec 32
  cnt : BitVec 64
  umiss : BitVec 32
  cecc : BitVec 32
  bins : List (BitVec 32)
deriving DecidableEq, Repr

/-- A monitor block (R407, R408): configuration, running fields, the shadow of the last SNAP, the cycle of the last sample with the running fields from
before it, and the number of the span of 1,024 cycles in which a level was last sampled. -/
structure Mon where
  cfg : BitVec 32
  run : MonVals
  shadow : MonVals
  before : Option (Nat × MonVals)
  span : Nat
deriving DecidableEq, Repr

/-- The spares in service (R24, R399, R409): remapped HBM rows, switched pseudo-channels, fibres on their spare wavelength, failed
fibres, ways replaced. -/
structure Spares where
  rows : List (Nat × Nat)
  channels : List (Nat × Nat)
  waves : List (Nat × Nat)
  deadFibres : List Nat
  ways : List WaySite
deriving DecidableEq, Repr

/-- What belongs to the package as a whole (R21 to R26, R398 to R409): power, the recovery state, fuses, firmware slots and the
running one, boot log, virtual core table, monitors, spares, offline stacks. -/
structure Pkg where
  power : Bool
  recovery : Bool
  fusedOff : List Nat
  worn : List Nat
  life : Nat
  lifeNext : Nat
  fuse : Nat
  fuseNext : Nat
  slotA : FwSlot
  slotB : FwSlot
  useB : Bool
  nextB : Bool
  starts : Nat
  bootLog : List BootRec
  vct : List VctEnt
  mons : List Mon
  spares : Spares
  offStacks : List Nat
  ringDown : List Nat
deriving DecidableEq, Repr

/-- A core region's clock (R20 to R23) in MHz, the clock that starts with its next cycle, floor and ceiling, and cycles elapsed times 4,000. -/
structure Region where
  mhz : Nat
  soon : Nat
  floor : Nat
  ceil : Nat
  acc : Nat
deriving DecidableEq, Repr

/-- Time (R4, R20): ticks of 250 ps, two to a hub cycle, and the sixteen region clocks. [DESIGN CHOICE, log entry 5] -/
structure Clock where
  tick : Nat
  regions : List Region
deriving DecidableEq, Repr

/-- The thread whose word fires now: virtual core, frame, word index. -/
structure Focus where
  vc : Nat
  frame : Nat
  idx : Nat
deriving DecidableEq, Repr

/-- What happens next. `fire` lets the word at an index fire for a thread; `event` is a step of the opcode table; `idle` lets ticks
pass; `peerReply` is a far end's answer to a `pld` or a channel copy: bytes, or a refusal code; `clockLimits` is the management controller's setting of
a region's floor and ceiling (R22); `flits` are flits of the link to the host, the last of them sent again where it says so (R395). The list stands for every order and timing the manual leaves open.
[DESIGN CHOICE, log entry 1] -/
inductive Act where
  | fire (vc frame idx : Nat)
  | event (i : Instr)
  | idle (n : Nat)
  | peerReply (vc uid idx : Nat) (refused : Option Nat) (data : List Byte)
  | clockLimits (region floor ceil : Nat)
  | flits (n : Nat) (resent : Bool)
deriving DecidableEq, Repr

/-- An answer of a far end that a load or a copy has not yet taken (R249). -/
structure PeerReply where
  vc : Nat
  uid : Nat
  idx : Nat
  refused : Option Nat
  data : List Byte
deriving DecidableEq, Repr

/-- The state of the machine. -/
structure State where
  agenda : List Act
  focus : Focus
  nextId : Nat
  clock : Clock
  pkg : Pkg
  ap : Aperture
  hub : Hub
  dies : List Die
  cores : List Core
  ctxs : List Ctx
  grids : List Grid
  groups : List Group
  threads : List Thread
  effects : List Effect
  replies : List PeerReply
deriving DecidableEq, Repr

/-- A slot with nothing in it. -/
def Slot.empty : Slot := ⟨0, false, false⟩

/-- An operand slot after the wipe (R405). -/
def OpSlot.reset : OpSlot := ⟨.empty, 0, 0, false, 0, [], [], false⟩

/-- An accumulator or partial tile after the wipe (R405). -/
def Tile.reset : Tile := ⟨none, 0, [], List.replicate 32 0, List.replicate 32 0, false, false, false⟩

/-- A core's storage after the wipe (R405): zeros, every line present, nothing owned. [DEDUCED, log entry 14] -/
def Storage.reset : Storage :=
  ⟨[], none, [], [], [], List.replicate 64 OpSlot.reset, List.replicate 64 0, List.replicate 16 Tile.reset, List.replicate 8 Tile.reset⟩

/-- Nothing kept of a cycle. -/
def CycleLog.reset : CycleLog := ⟨none, [], 0, []⟩

/-- A core that holds nothing. [DESIGN CHOICE, log entry 15] -/
def Core.reset : Core := ⟨[], [], [], [], [], [], 0, [], CycleLog.reset, [], [], [], [], [], Storage.reset⟩

/-- Lines of the L3: 768 MiB (R10). -/
def l3Size : Nat := 3145728
/-- Lines of a die's slice: 48 MiB (R10). -/
def l2Size : Nat := 196608

/-- A die whose slice has been wiped: every line place holds zeros under its Z flag (R245, R405). [DESIGN CHOICE, log entry 15] -/
def Die.reset : Die := ⟨[], [], [], [], l2Size, 0, .running⟩

/-- A disarmed notification entry (R391). [DESIGN CHOICE, log entry 12] -/
def Notify.reset : Notify := ⟨0, 0, 0, 0, []⟩

/-- The aperture's reset values (R370, R391 to R406). [DESIGN CHOICE, log entry 12] -/
def Aperture.reset : Aperture :=
  ⟨0, 0, 0, [], 0, 0, 0, 0, List.replicate 64 Notify.reset, 0, 0, 0, 3, 0, [], 0, 0, 0, 0, 0, 3, 0, 0⟩

/-- The hub after the wipe (R405); the dispatcher's round-robin starts as if queue 0 of context 0 had released last (R115).
[DESIGN CHOICE, log entry 15; DESIGN CHOICE, log entry 77] -/
def Hub.reset : Hub := ⟨[], [], l3Size, [], [], [], 0, 0, 0, 0, 0, [], [], [], [], [], [], [], [], [], [], []⟩

/-- The firmware image the model starts from: version 1, every other field zero (the manual gives none). [DESIGN CHOICE, log entry 10] -/
def FwImage.first : FwImage := ⟨0, 1, 1, 0, 0, 0, []⟩

/-- A monitor's running fields when nothing has been sampled: MIN holds 0xFFFF_FFFF as after EN rises (R407). [DESIGN CHOICE, log entry 13] -/
def MonVals.reset : MonVals := ⟨0xFFFFFFFF, 0, 0, 0, 0, List.replicate 16 0⟩

/-- A monitor block after a start. -/
def Mon.reset : Mon := ⟨0, MonVals.reset, MonVals.reset, none, 0⟩

/-- The default mapping of R24 with no core fused off: vc(16d + i) on the i-th core of die d, skipping index 8 and 17. [DESIGN CHOICE, log entry 9] -/
def defaultVct : List VctEnt :=
  (List.range 128).map fun n => ⟨true, 18 * (n / 16) + (n % 16) + (n % 16) / 8⟩

/-- The boot log of one start whose nine steps passed in their normal form (R401, R402). [DESIGN CHOICE, log entry 9] -/
def firstBootLog : List BootRec := (List.range 9).map fun k => ⟨1, k + 1, 0, 0, 0xFF, 0⟩

/-- The package after its first start. [DESIGN CHOICE, log entry 9; DESIGN CHOICE, log entry 10] -/
def Pkg.reset : Pkg :=
  { power := true, recovery := false, fusedOff := [], worn := [], life := 2, lifeNext := 2, fuse := 0, fuseNext := 0
    slotA := ⟨FwImage.first, true⟩, slotB := ⟨FwImage.first, true⟩, useB := false, nextB := false
    starts := 1, bootLog := firstBootLog, vct := defaultVct
    mons := List.replicate 152 Mon.reset
    spares := ⟨[], [], [], [], []⟩, offStacks := [], ringDown := [] }

/-- The clocks at a start: tick 0, every region at 4.0 GHz, with that ceiling and a floor of 25 MHz. [DESIGN CHOICE, log entry 11] -/
def Clock.reset : Clock := ⟨0, List.replicate 16 ⟨4000, 4000, 25, 4000, 0⟩⟩

/-- The machine right after a start whose steps all passed (R401, R405): memory and every array wiped to zeros, the virtual
core table at its default, no context, nothing to do. [DESIGN CHOICE, log entry 9] -/
def State.reset : State :=
  { agenda := [], focus := ⟨0, 0, 0⟩, nextId := 1, clock := Clock.reset, pkg := Pkg.reset, ap := Aperture.reset
    hub := Hub.reset, dies := List.replicate 8 Die.reset, cores := List.replicate 128 Core.reset
    ctxs := [], grids := [], groups := [], threads := [], effects := [], replies := [] }

end Sys2Proof.Machine
end

