-- ==== Sys2Proof/Machine/Bits.lean ====
section
/-! DEFINITION. Small helpers on bits, bytes and lists: slices, sign extension, byte order (R2), rounding up. -/
namespace Sys2Proof.Machine

/-- Bits [hi:lo] of a number (R7), given as the low bit and the count. -/
def bits (v lo n : Nat) : Nat := (v >>> lo) % 2 ^ n

/-- One bit of a number. -/
def bit (v n : Nat) : Bool := v.testBit n

/-- The signed reading of the low `w` bits (R33). -/
def toSigned (w v : Nat) : Int :=
  let u := v % 2 ^ w
  if w == 0 then 0 else if u < 2 ^ (w - 1) then (u : Int) else (u : Int) - (2 ^ w : Nat)

/-- The low `w` bits of an integer, in two's complement (R33). -/
def wrap (w : Nat) (i : Int) : Nat := (i % ((2 ^ w : Nat) : Int)).toNat

/-- Division rounding up. -/
def ceilDiv (a b : Nat) : Nat := (a + b - 1) / b

/-- `v` in little-endian bytes, `n` of them (R2). -/
def bytesLE : Nat → Nat → List Byte
  | 0, _ => []
  | n + 1, v => BitVec.ofNat 8 v :: bytesLE n (v / 256)

/-- The number that little-endian bytes hold (R2). -/
def natLE : List Byte → Nat
  | [] => 0
  | b :: r => b.toNat + 256 * natLE r

/-- Element `i` of a list replaced. -/
def setAt {α : Type} (l : List α) (i : Nat) (v : α) : List α := l.set i v

/-- Element `i` of a list changed by `f`. -/
def modAt {α : Type} (f : α → α) : List α → Nat → List α
  | [], _ => []
  | a :: r, 0 => f a :: r
  | a :: r, i + 1 => a :: modAt f r i

/-- The elements that satisfy `p` changed by `f`. -/
def modWhere {α : Type} (p : α → Bool) (f : α → α) (l : List α) : List α := l.map fun a => if p a then f a else a

/-- The least element under a key, the first of equals. -/
def leastBy {α : Type} (key : α → Nat) : List α → Option α
  | [] => none
  | a :: r => match leastBy key r with
    | none => some a
    | some b => if key b < key a then some b else some a

/-- The element with the greatest key, the first of equals. -/
def greatestBy {α : Type} (key : α → Nat) : List α → Option α
  | [] => none
  | a :: r => match greatestBy key r with
    | none => some a
    | some b => if key a < key b then some b else some a

/-- The least natural number below `n` that satisfies `p`. -/
def firstBelow (p : Nat → Bool) (n : Nat) : Option Nat := (List.range n).find? p

/-- Insertion into an ascending list of numbers without repeats. -/
def insertNat (n : Nat) : List Nat → List Nat
  | [] => [n]
  | a :: r => if n < a then n :: a :: r else if n == a then a :: r else a :: insertNat n r

/-- Insertion into a list that ascends under a key, after the elements of an equal key. -/
def insertBy {α : Type} (key : α → Nat) (x : α) : List α → List α
  | [] => [x]
  | a :: r => if key x < key a then x :: a :: r else a :: insertBy key x r

/-- A list in ascending order of a key; elements of one key keep their order. -/
def sortBy {α : Type} (key : α → Nat) (l : List α) : List α := l.foldl (fun r x => insertBy key x r) []

/-- Saturating addition of one to a 32-bit count. -/
def satInc (v : BitVec 32) : BitVec 32 := if v == 0xFFFFFFFF then v else v + 1

end Sys2Proof.Machine
end

