-- ==== Sys2Proof/Machine/IntAlu.lean ====
section
/-! DEFINITION. What the integer, logic, bit and compare words compute from their operands (R182 to R196), on natural numbers that
hold the operands' bits. -/
namespace Sys2Proof.Machine

/-- The lanes of an integer type code (R182): how many, their width, signed or not. -/
def intLanes (ty : Nat) : Nat × Nat × Bool :=
  match ty with
  | 0 => (1, 32, true)
  | 1 => (1, 32, false)
  | 2 => (1, 64, true)
  | 3 => (1, 64, false)
  | 4 => (2, 16, true)
  | 5 => (2, 16, false)
  | 6 => (4, 8, true)
  | _ => (4, 8, false)

/-- Lane `i` of width `w`. -/
def lane (w v i : Nat) : Nat := bits v (i * w) w

/-- A value assembled from its lanes, lane 0 lowest (R33). -/
def ofLanes (w : Nat) : List Nat → Nat
  | [] => 0
  | l :: r => l % 2 ^ w + 2 ^ w * ofLanes w r

/-- The number a lane holds, by signedness (R182). -/
def laneInt (w : Nat) (sg : Bool) (v : Nat) : Int := if sg then toSigned w v else (v % 2 ^ w : Nat)

/-- The least value of a lane (R185). -/
def laneMin (w : Nat) (sg : Bool) : Int := if sg then -((2 ^ (w - 1) : Nat) : Int) else 0

/-- The greatest value of a lane (R185). -/
def laneMax (w : Nat) (sg : Bool) : Int := if sg then ((2 ^ (w - 1) : Nat) : Int) - 1 else ((2 ^ w : Nat) : Int) - 1

/-- An exact value clamped to the range of a lane (R185). -/
def clampLane (w : Nat) (sg : Bool) (i : Int) : Int := max (laneMin w sg) (min (laneMax w sg) i)

/-- A lane operation applied to every lane of up to three operands (R182). -/
def onLanes (ty : Nat) (f : Nat → Bool → Nat → Nat → Nat → Nat) (a b c : Nat) : Nat :=
  let (n, w, sg) := intLanes ty
  ofLanes w ((List.range n).map fun i => f w sg (lane w a i) (lane w b i) (lane w c i))

/-- `add` on a lane (R185). -/
def laneAdd (w : Nat) (_ : Bool) (a b _ : Nat) : Nat := (a + b) % 2 ^ w
/-- `sub` on a lane (R185). -/
def laneSub (w : Nat) (_ : Bool) (a b _ : Nat) : Nat := wrap w ((a : Int) - b)
/-- `mul` on a lane (R185). -/
def laneMul (w : Nat) (_ : Bool) (a b _ : Nat) : Nat := (a * b) % 2 ^ w
/-- `mulhi` on a lane: the upper half of the exact product (R185). -/
def laneMulhi (w : Nat) (sg : Bool) (a b _ : Nat) : Nat := wrap (2 * w) (laneInt w sg a * laneInt w sg b) / 2 ^ w
/-- `mad` on a lane (R185). -/
def laneMad (w : Nat) (_ : Bool) (a b c : Nat) : Nat := (a * b + c) % 2 ^ w
/-- `div` on a lane: truncation toward zero, all ones for a zero divisor (R186). -/
def laneDiv (w : Nat) (sg : Bool) (a b _ : Nat) : Nat :=
  if b == 0 then 2 ^ w - 1 else wrap w ((laneInt w sg a).tdiv (laneInt w sg b))
/-- `rem` on a lane: the sign of the dividend; the dividend for a zero divisor (R186). -/
def laneRem (w : Nat) (sg : Bool) (a b _ : Nat) : Nat :=
  if b == 0 then a else wrap w ((laneInt w sg a).tmod (laneInt w sg b))
/-- `min` on a lane (R185). -/
def laneMinOp (w : Nat) (sg : Bool) (a b _ : Nat) : Nat := if laneInt w sg a ≤ laneInt w sg b then a else b
/-- `max` on a lane (R185). -/
def laneMaxOp (w : Nat) (sg : Bool) (a b _ : Nat) : Nat := if laneInt w sg a ≤ laneInt w sg b then b else a
/-- `adds` on a lane (R185). -/
def laneAdds (w : Nat) (sg : Bool) (a b _ : Nat) : Nat := wrap w (clampLane w sg (laneInt w sg a + laneInt w sg b))
/-- `subs` on a lane (R185). -/
def laneSubs (w : Nat) (sg : Bool) (a b _ : Nat) : Nat := wrap w (clampLane w sg (laneInt w sg a - laneInt w sg b))
/-- `abs` on a lane; `sat` makes the least value the greatest (R187). -/
def laneAbs (sat : Bool) (w : Nat) (_ : Bool) (a _ _ : Nat) : Nat :=
  let v := toSigned w a
  let m : Int := if v < 0 then -v else v
  if sat then wrap w (min m (laneMax w true)) else wrap w m
/-- `neg` on a lane; `sat` makes the least value the greatest (R187). -/
def laneNeg (sat : Bool) (w : Nat) (_ : Bool) (a _ _ : Nat) : Nat :=
  let v := toSigned w a
  if sat then wrap w (min (-v) (laneMax w true)) else wrap w (-v)

/-- `shl` on a lane (R189). -/
def laneShl (w : Nat) (_ : Bool) (a n _ : Nat) : Nat := if w ≤ n then 0 else (a <<< n) % 2 ^ w
/-- `shr` on a lane (R189). -/
def laneShr (w : Nat) (_ : Bool) (a n _ : Nat) : Nat := if w ≤ n then 0 else a >>> n
/-- `sar` on a lane (R189). -/
def laneSar (w : Nat) (_ : Bool) (a n _ : Nat) : Nat := wrap w (toSigned w a >>> (min n w))
/-- `rotl` on a lane (R189). -/
def laneRotl (w : Nat) (_ : Bool) (a n _ : Nat) : Nat :=
  let k := n % w
  ((a <<< k) ||| (a >>> (w - k))) % 2 ^ w

/-- `and` (R188). -/
def laneAnd (_ : Nat) (_ : Bool) (a b _ : Nat) : Nat := a &&& b
/-- `or` (R188). -/
def laneOr (_ : Nat) (_ : Bool) (a b _ : Nat) : Nat := a ||| b
/-- `xor` (R188). -/
def laneXor (_ : Nat) (_ : Bool) (a b _ : Nat) : Nat := a ^^^ b
/-- `not` (R188). -/
def laneNot (w : Nat) (_ : Bool) (a _ _ : Nat) : Nat := 2 ^ w - 1 - a % 2 ^ w
/-- `andn` (R188). -/
def laneAndn (w : Nat) (_ : Bool) (a b _ : Nat) : Nat := a &&& (2 ^ w - 1 - b % 2 ^ w)
/-- `lop3`: bit n of the result is bit a[n] + 2 b[n] + 4 c[n] of the table (R188). -/
def laneLop3 (tbl : Nat) (w : Nat) (_ : Bool) (a b c : Nat) : Nat :=
  (List.range w).foldl (fun r n =>
    if bit tbl ((bit a n).toNat + 2 * (bit b n).toNat + 4 * (bit c n).toNat) then r + 2 ^ n else r) 0

/-- `popc` (R190). -/
def lanePopc (w : Nat) (_ : Bool) (a _ _ : Nat) : Nat := (List.range w).foldl (fun r n => r + (bit a n).toNat) 0
/-- `clz` (R190). -/
def laneClz (w : Nat) (_ : Bool) (a _ _ : Nat) : Nat := if a % 2 ^ w == 0 then w else w - 1 - (a % 2 ^ w).log2
/-- `ctz` (R190). -/
def laneCtz (w : Nat) (_ : Bool) (a _ _ : Nat) : Nat := (firstBelow (bit a) w).getD w
/-- `brev` (R190). -/
def laneBrev (w : Nat) (_ : Bool) (a _ _ : Nat) : Nat :=
  (List.range w).foldl (fun r n => if bit a n then r + 2 ^ (w - 1 - n) else r) 0

/-- `bfx` (R191): control word in b. -/
def laneBfx (w : Nat) (sg : Bool) (a ctl _ : Nat) : Nat :=
  let pos := bits ctl 0 8
  let len := bits ctl 8 8
  if len == 0 || w ≤ pos then 0
  else
    let n := min (pos + len) w - pos
    if sg then wrap w (toSigned n (bits a pos n)) else bits a pos n

/-- `bfi` (R191): control word in c. -/
def laneBfi (w : Nat) (_ : Bool) (a b ctl : Nat) : Nat :=
  let pos := bits ctl 0 8
  let len := bits ctl 8 8
  if len == 0 || w ≤ pos then a
  else
    let n := min (pos + len) w - pos
    a - (bits a pos n) <<< pos + (bits b 0 n) <<< pos

/-- `fsh` (R192). -/
def laneFsh (w : Nat) (_ : Bool) (a b c : Nat) : Nat := ((b * 2 ^ w + a) >>> (c % w)) % 2 ^ w

/-- One byte of `perm` (R192). -/
def permByte (a b sel : Nat) : Nat :=
  let v := bits (a + b * 2 ^ 32) (8 * (sel % 8)) 8
  if bit sel 3 then (if bit v 7 then 255 else 0) else v

/-- `perm` (R192). -/
def lanePerm (_ : Nat) (_ : Bool) (a b c : Nat) : Nat :=
  ofLanes 8 ((List.range 4).map fun i => permByte a b (bits c (4 * i) 4))

/-- `ixa` (R196): the index scaled by 2^s. -/
def laneIxa (s : Nat) (w : Nat) (_ : Bool) (a b _ : Nat) : Nat := (a + b * 2 ^ s) % 2 ^ w

/-- The integer conditions of R90. -/
def intCond (cond : Nat) (a b : Int) : Bool :=
  match cond with
  | 0 => a == b
  | 1 => a != b
  | 2 => a < b
  | 3 => a ≤ b
  | 4 => b < a
  | _ => b ≤ a

/-- `cmp` (R193): 1 or 0 for a scalar type, all ones or zeros in each lane of a packed type. -/
def intCmp (ty cond a b : Nat) : Nat :=
  let (n, w, sg) := intLanes ty
  if n == 1 then (intCond cond (laneInt w sg a) (laneInt w sg b)).toNat
  else ofLanes w ((List.range n).map fun i =>
    if intCond cond (laneInt w sg (lane w a i)) (laneInt w sg (lane w b i)) then 2 ^ w - 1 else 0)

/-- `dot4` and `dot2` (R195). -/
def intDot (ty : Nat) (sat : Bool) (a b c : Nat) : Nat :=
  let (n, w, sg) := intLanes ty
  let s := (List.range n).foldl (fun s i => s + laneInt w sg (lane w a i) * laneInt w sg (lane w b i)) (laneInt 32 sg c)
  if sat then wrap 32 (clampLane 32 sg s) else wrap 32 s

end Sys2Proof.Machine
end

