-- ==== Sys2Proof/Decode.lean ====
section
/-! DEFINITION. Decoding of Diros words (R75, R76, R93, R94) and, after it, their encoder. Decoding reads the opcode and the
fields; whether the field values are legal is `Instr.wellFormed` (check 0x09 of R99). A word of an unassigned or reserved
opcode is rejected by name (checks 0x06 and 0x07). -/
namespace Sys2Proof

/-- Why a word is not an instruction. -/
inductive DecodeError where
  /-- fewer than four bytes -/
  | truncated
  /-- an opcode of R94 that is not assigned (check 0x06) -/
  | unassigned (op : BitVec 8)
  /-- an opcode from 0xF0 to 0xFF (check 0x07) -/
  | reserved (op : BitVec 8)
deriving DecidableEq, Repr

/-- Read the fields of a format A word (R76). -/
def readFmtA (w : BitVec 32) : FmtA := ⟨w.extractLsb' 15 9, w.extractLsb' 7 8, w.extractLsb' 5 2, w.extractLsb' 0 5⟩

/-- Assemble a format A word from its opcode and fields (R76). -/
def putFmtA (op : BitVec 8) (f : FmtA) : BitVec 32 := op ++ f.t ++ f.s ++ f.pc ++ f.mod

/-- Read the fields of a format B word (R76). -/
def readFmtB (w : BitVec 32) : FmtB := ⟨w.extractLsb' 15 9, w.extractLsb' 6 9, w.extractLsb' 4 2, w.extractLsb' 0 4⟩

/-- Assemble a format B word from its opcode and fields (R76). -/
def putFmtB (op : BitVec 8) (f : FmtB) : BitVec 32 := op ++ f.t ++ f.u ++ f.pc ++ f.mod

/-- Read the fields of a format C word (R76). -/
def readFmtC (w : BitVec 32) : FmtC := ⟨w.extractLsb' 15 9, w.extractLsb' 7 8, w.extractLsb' 3 4, w.extractLsb' 0 3⟩

/-- Assemble a format C word from its opcode and fields (R76). -/
def putFmtC (op : BitVec 8) (f : FmtC) : BitVec 32 := op ++ f.t ++ f.s ++ f.cond ++ f.ty

/-- Read the fields of a format L word (R76). -/
def readFmtL (w : BitVec 32) : FmtL := ⟨w.extractLsb' 15 9, w.extractLsb' 6 9, w.extractLsb' 0 6⟩

/-- Assemble a format L word from its opcode and fields (R76). -/
def putFmtL (op : BitVec 8) (f : FmtL) : BitVec 32 := op ++ f.t ++ f.u ++ f.slot

/-- Read the fields of a format M word (R76). -/
def readFmtM (w : BitVec 32) : FmtM := ⟨w.extractLsb' 15 9, w.extractLsb' 11 4, w.extractLsb' 6 5, w.extractLsb' 4 2, w.extractLsb' 0 4⟩

/-- Assemble a format M word from its opcode and fields (R76). -/
def putFmtM (op : BitVec 8) (f : FmtM) : BitVec 32 := op ++ f.t ++ f.buf ++ f.ord ++ f.pc ++ f.mod

/-- Read the fields of a format N word (R76). -/
def readFmtN (w : BitVec 32) : FmtN := ⟨w.extractLsb' 12 12, w.extractLsb' 0 12⟩

/-- Assemble a format N word from its opcode and fields (R76). -/
def putFmtN (op : BitVec 8) (f : FmtN) : BitVec 32 := op ++ f.sa ++ f.sb

/-- Read the fields of a format E word (R76). -/
def readFmtE (w : BitVec 32) : FmtE := ⟨w.extractLsb' 18 6, w.extractLsb' 12 6, w.extractLsb' 6 6, w.extractLsb' 0 6⟩

/-- Assemble a format E word from its opcode and fields (R76). -/
def putFmtE (op : BitVec 8) (f : FmtE) : BitVec 32 := op ++ f.slot ++ f.x ++ f.y ++ f.z

/-- Read the fields of a format T word (R76). -/
def readFmtT (w : BitVec 32) : FmtT := ⟨w.extractLsb' 18 6, w.extractLsb' 14 4, w.extractLsb' 9 5, w.extractLsb' 6 3, w.extractLsb' 0 6⟩

/-- Assemble a format T word from its opcode and fields (R76). -/
def putFmtT (op : BitVec 8) (f : FmtT) : BitVec 32 := op ++ f.slot ++ f.buf ++ f.ord ++ f.scope ++ f.mod

/-- Read the fields of a format H word (R76). -/
def readFmtH (w : BitVec 32) : FmtH := ⟨w.extractLsb' 0 24⟩

/-- Assemble a format H word from its opcode and fields (R76). -/
def putFmtH (op : BitVec 8) (f : FmtH) : BitVec 32 := op ++ f.payload

/-- Read the fields of a format S word (R76). -/
def readFmtS (w : BitVec 32) : FmtS := ⟨w.extractLsb' 16 8, w.extractLsb' 7 9, w.extractLsb' 0 7⟩

/-- Assemble a format S word from its opcode and fields (R76). -/
def putFmtS (op : BitVec 8) (f : FmtS) : BitVec 32 := op ++ f.ctl ++ f.t ++ f.mod

/-- The word behind each assigned primary opcode, with its fields (R93). `none` for the 102 opcodes of R94. -/
def ofOpcode (op : Nat) (w : BitVec 32) : Option Instr :=
  match op with
  | 0x00 => some (.nop (readFmtS w))
  | 0x01 => some (.next (readFmtN w))
  | 0x02 => some (.nextp (readFmtN w))
  | 0x03 => some (.nextpu (readFmtN w))
  | 0x04 => some (.nexti (readFmtS w))
  | 0x05 => some (.call (readFmtN w))
  | 0x06 => some (.calli (readFmtS w))
  | 0x07 => some (.ret (readFmtS w))
  | 0x08 => some (.exit (readFmtS w))
  | 0x09 => some (.bar (readFmtS w))
  | 0x0A => some (.yield (readFmtS w))
  | 0x0B => some (.spawn (readFmtN w))
  | 0x0C => some (.gwait (readFmtS w))
  | 0x0D => some (.trap (readFmtS w))
  | 0x0E => some (.brk (readFmtS w))
  | 0x0F => some (.launch (readFmtS w))
  | 0x10 => some (.himm (readFmtH w))
  | 0x11 => some (.hoff (readFmtH w))
  | 0x12 => some (.htgt (readFmtH w))
  | 0x13 => some (.hsch (readFmtH w))
  | 0x18 => some (.add (readFmtA w))
  | 0x19 => some (.sub (readFmtA w))
  | 0x1A => some (.mul (readFmtA w))
  | 0x1B => some (.mulhi (readFmtA w))
  | 0x1C => some (.mad (readFmtA w))
  | 0x1D => some (.div (readFmtA w))
  | 0x1E => some (.rem (readFmtA w))
  | 0x1F => some (.min (readFmtA w))
  | 0x20 => some (.max (readFmtA w))
  | 0x21 => some (.abs (readFmtA w))
  | 0x22 => some (.neg (readFmtA w))
  | 0x23 => some (.and (readFmtA w))
  | 0x24 => some (.or (readFmtA w))
  | 0x25 => some (.xor (readFmtA w))
  | 0x26 => some (.not (readFmtA w))
  | 0x27 => some (.andn (readFmtA w))
  | 0x28 => some (.shl (readFmtA w))
  | 0x29 => some (.shr (readFmtA w))
  | 0x2A => some (.sar (readFmtA w))
  | 0x2B => some (.rotl (readFmtA w))
  | 0x2C => some (.popc (readFmtA w))
  | 0x2D => some (.clz (readFmtA w))
  | 0x2E => some (.ctz (readFmtA w))
  | 0x2F => some (.brev (readFmtA w))
  | 0x30 => some (.bfx (readFmtA w))
  | 0x31 => some (.bfi (readFmtA w))
  | 0x32 => some (.cmp (readFmtC w))
  | 0x33 => some (.sel (readFmtA w))
  | 0x34 => some (.adds (readFmtA w))
  | 0x35 => some (.subs (readFmtA w))
  | 0x36 => some (.dot4 (readFmtA w))
  | 0x37 => some (.dot2 (readFmtA w))
  | 0x38 => some (.ixa (readFmtA w))
  | 0x39 => some (.fsh (readFmtA w))
  | 0x3A => some (.perm (readFmtA w))
  | 0x3B => some (.lop3 (readFmtA w))
  | 0x40 => some (.fadd (readFmtA w))
  | 0x41 => some (.fsub (readFmtA w))
  | 0x42 => some (.fmul (readFmtA w))
  | 0x43 => some (.fma (readFmtA w))
  | 0x44 => some (.fmin (readFmtA w))
  | 0x45 => some (.fmax (readFmtA w))
  | 0x46 => some (.fminn (readFmtA w))
  | 0x47 => some (.fmaxn (readFmtA w))
  | 0x48 => some (.fabs (readFmtA w))
  | 0x49 => some (.fneg (readFmtA w))
  | 0x4A => some (.fcmp (readFmtC w))
  | 0x4B => some (.fclass (readFmtA w))
  | 0x4C => some (.fdiv (readFmtA w))
  | 0x4D => some (.fsqrt (readFmtA w))
  | 0x4E => some (.frnd (readFmtA w))
  | 0x4F => some (.ffrac (readFmtA w))
  | 0x50 => some (.fscale (readFmtA w))
  | 0x51 => some (.fgetx (readFmtA w))
  | 0x52 => some (.fsign (readFmtA w))
  | 0x53 => some (.fdot2 (readFmtA w))
  | 0x68 => some (.cvt (readFmtA w))
  | 0x69 => some (.cvtsr (readFmtA w))
  | 0x6A => some (.pack (readFmtA w))
  | 0x6B => some (.unpack (readFmtA w))
  | 0x6C => some (.qnt (readFmtA w))
  | 0x6D => some (.dqnt (readFmtA w))
  | 0x78 => some (.rcp (readFmtA w))
  | 0x79 => some (.rsq (readFmtA w))
  | 0x7A => some (.ex2 (readFmtA w))
  | 0x7B => some (.lg2 (readFmtA w))
  | 0x7C => some (.sinpi (readFmtA w))
  | 0x7D => some (.cospi (readFmtA w))
  | 0x7E => some (.tanh (readFmtA w))
  | 0x7F => some (.sigm (readFmtA w))
  | 0x80 => some (.rd (readFmtL w))
  | 0x81 => some (.wr (readFmtL w))
  | 0x82 => some (.mov (readFmtB w))
  | 0x83 => some (.rdsys (readFmtL w))
  | 0x85 => some (.xput (readFmtL w))
  | 0x86 => some (.xget (readFmtL w))
  | 0x87 => some (.xclr (readFmtL w))
  | 0x88 => some (.gred (readFmtA w))
  | 0x89 => some (.gscan (readFmtA w))
  | 0x8A => some (.vote (readFmtA w))
  | 0x90 => some (.ld (readFmtM w))
  | 0x91 => some (.st (readFmtM w))
  | 0x92 => some (.lds (readFmtM w))
  | 0x93 => some (.sts (readFmtM w))
  | 0x94 => some (.ldsn (readFmtM w))
  | 0x95 => some (.ldc (readFmtM w))
  | 0x96 => some (.pf (readFmtM w))
  | 0x97 => some (.ldacq (readFmtM w))
  | 0x98 => some (.strel (readFmtM w))
  | 0x99 => some (.fence (readFmtS w))
  | 0x9A => some (.cwb (readFmtM w))
  | 0x9B => some (.zfill (readFmtM w))
  | 0x9C => some (.pld (readFmtM w))
  | 0x9D => some (.pst (readFmtM w))
  | 0xB0 => some (.aadd (readFmtT w))
  | 0xB1 => some (.amin (readFmtT w))
  | 0xB2 => some (.amax (readFmtT w))
  | 0xB3 => some (.aand (readFmtT w))
  | 0xB4 => some (.aor (readFmtT w))
  | 0xB5 => some (.axor (readFmtT w))
  | 0xB6 => some (.axchg (readFmtT w))
  | 0xB7 => some (.acas (readFmtT w))
  | 0xB8 => some (.afadd (readFmtT w))
  | 0xB9 => some (.sigsub (readFmtT w))
  | 0xBA => some (.sigwait (readFmtT w))
  | 0xBB => some (.mbox (readFmtT w))
  | 0xC0 => some (.tcopy (readFmtE w))
  | 0xC1 => some (.tstore (readFmtE w))
  | 0xC2 => some (.tcopyo (readFmtE w))
  | 0xC3 => some (.tcopyr (readFmtE w))
  | 0xC4 => some (.tcast (readFmtE w))
  | 0xC5 => some (.sfree (readFmtE w))
  | 0xC6 => some (.spres (readFmtE w))
  | 0xC7 => some (.tgath (readFmtE w))
  | 0xC8 => some (.tscat (readFmtE w))
  | 0xD0 => some (.tclaim (readFmtE w))
  | 0xD1 => some (.trel (readFmtE w))
  | 0xD2 => some (.mma (readFmtE w))
  | 0xD3 => some (.mmi (readFmtE w))
  | 0xD4 => some (.mmg (readFmtE w))
  | 0xD5 => some (.tsacc (readFmtE w))
  | 0xD6 => some (.tzero (readFmtE w))
  | 0xD7 => some (.tacst (readFmtE w))
  | 0xD8 => some (.tacld (readFmtE w))
  | 0xD9 => some (.tfence (readFmtE w))
  | 0xDA => some (.tmode (readFmtE w))
  | 0xE0 => some (.rdctl (readFmtS w))
  | 0xE1 => some (.wrctl (readFmtS w))
  | 0xE2 => some (.tlbinv (readFmtS w))
  | 0xE3 => some (.cinv (readFmtS w))
  | 0xE4 => some (.evpost (readFmtS w))
  | 0xE5 => some (.perf (readFmtS w))
  | 0xE6 => some (.ctxsv (readFmtS w))
  | 0xE7 => some (.ctxld (readFmtS w))
  | _ => none

/-- The instruction a 32-bit word holds (R75). -/
def decode (w : BitVec 32) : Except DecodeError Instr :=
  match ofOpcode (w.extractLsb' 24 8).toNat w with
  | some i => .ok i
  | none =>
    if 0xF0 ≤ (w.extractLsb' 24 8).toNat then .error (.reserved (w.extractLsb' 24 8))
    else .error (.unassigned (w.extractLsb' 24 8))

/-- A word from its four bytes, little-endian (R2, R61). -/
def wordOfBytes (b0 b1 b2 b3 : BitVec 8) : BitVec 32 := b3 ++ b2 ++ b1 ++ b0

/-- Decode the first word of a byte list and give the rest. -/
def decodeBytes (bs : List (BitVec 8)) : Except DecodeError (Instr × List (BitVec 8)) :=
  match bs with
  | b0 :: b1 :: b2 :: b3 :: rest =>
    match decode (wordOfBytes b0 b1 b2 b3) with
    | .ok i => .ok (i, rest)
    | .error e => .error e
  | _ => .error .truncated

/-- The four bytes of a word, little-endian. -/
def bytesOfWord (w : BitVec 32) : List (BitVec 8) :=
  [w.extractLsb' 0 8, w.extractLsb' 8 8, w.extractLsb' 16 8, w.extractLsb' 24 8]

/-- The instruction the decoder reads from an instruction whose bits are `w`, bit 0 the least significant bit of its one
word: the word is laid out as the hardware stores it and given to the decoder. Bits at and above `nbits` are 0. -/
def decodeTableWord (nbits w : Nat) : Option Instr :=
  match decodeBytes (bytesOfWord (BitVec.ofNat 32 (w % 2 ^ nbits))) with
  | .ok (i, _) => some i
  | .error _ => none

/-- The word of an instruction (R76, R93). The machine's steps have no encoding: they give 0, and `isWord` tells them apart. -/
def encode (i : Instr) : BitVec 32 :=
  match i with
  | .signalWriteObserved => 0
  | .recordReachesHead _ _ => 0
  | .launchRelease => 0
  | .groupHandout => 0
  | .groupStart _ => 0
  | .shapeSourceTimeout _ => 0
  | .squashZeroFill _ => 0
  | .groupRetire _ => 0
  | .completionDecrement _ => 0
  | .notifyEntryArm _ _ => 0
  | .hostNotificationMessage _ => 0
  | .bullpenFill _ => 0
  | .placementSlotFree _ _ => 0
  | .placementDrain _ _ => 0
  | .threadAdmit _ _ => 0
  | .stageReentry _ _ _ => 0
  | .loadReturn _ _ _ => 0
  | .threadCommit _ _ => 0
  | .atomicResultLand _ => 0
  | .deferredSuccessorMove _ _ => 0
  | .pageWalk _ _ => 0
  | .fuDone _ => 0
  | .dugoutEvict _ => 0
  | .writePlacement _ => 0
  | .gaAcknowledge _ => 0
  | .ackRetry _ => 0
  | .ackLossResolution _ _ => 0
  | .peerWritePerform _ => 0
  | .peerFlowRefused _ _ => 0
  | .copyStart _ _ => 0
  | .copyLineWrite _ _ => 0
  | .copyComplete _ _ => 0
  | .volleyPermit _ => 0
  | .tileOpFire _ => 0
  | .accumulatorStoreDone _ => 0
  | .tfenceStatusLand _ => 0
  | .barrierStall _ _ => 0
  | .heldCommitStall _ _ => 0
  | .eventQueueRetry _ => 0
  | .fcmdResume _ => 0
  | .fcmdRedirect _ => 0
  | .fcmdKillThread _ => 0
  | .fcmdKillGroup _ => 0
  | .fcmdWriteSlot _ => 0
  | .fcmdRepost _ => 0
  | .fcmdResumeKind _ => 0
  | .fcmdStep _ => 0
  | .dhaltSet _ => 0
  | .dhaltClear _ => 0
  | .quiesceRequest _ => 0
  | .quiescePhaseAdvance _ => 0
  | .dieCutAnswer _ _ => 0
  | .quiesceResume _ => 0
  | .imageStatusLand _ => 0
  | .drstGo _ => 0
  | .dieResetWriteBack => 0
  | .dieResetOffline => 0
  | .dieReadmit => 0
  | .ctxCreate => 0
  | .ctxCreateSupervisor => 0
  | .ctxDestroy _ => 0
  | .objRegister _ => 0
  | .objUnregister _ _ => 0
  | .vctWrite _ _ => 0
  | .sigtNWrite _ _ => 0
  | .registerWrite _ _ => 0
  | .attestationRequest _ => 0
  | .attestationReportDone => 0
  | .firmwareUpdate _ => 0
  | .lifeCycleAdvance _ => 0
  | .powerOnStart _ => 0
  | .monitorEnable _ _ => 0
  | .monitorSnap _ => 0
  | .monitorSample _ _ _ => 0
  | .clockStep _ _ => 0
  | .patrolScrub _ => 0
  | .uncorrectableError _ => 0
  | .hbmRowRemap _ _ => 0
  | .pseudoChannelSwitch _ _ => 0
  | .wavelengthSpare _ _ => 0
  | .fibreFailure _ => 0
  | .cacheWaySpare _ _ => 0
  | .thlLaneFailure => 0
  | .hostWrite _ _ => 0
  | .hostRead _ _ => 0
  | .nop f => putFmtS 0x00#8 f
  | .next f => putFmtN 0x01#8 f
  | .nextp f => putFmtN 0x02#8 f
  | .nextpu f => putFmtN 0x03#8 f
  | .nexti f => putFmtS 0x04#8 f
  | .call f => putFmtN 0x05#8 f
  | .calli f => putFmtS 0x06#8 f
  | .ret f => putFmtS 0x07#8 f
  | .exit f => putFmtS 0x08#8 f
  | .bar f => putFmtS 0x09#8 f
  | .yield f => putFmtS 0x0A#8 f
  | .spawn f => putFmtN 0x0B#8 f
  | .gwait f => putFmtS 0x0C#8 f
  | .trap f => putFmtS 0x0D#8 f
  | .brk f => putFmtS 0x0E#8 f
  | .launch f => putFmtS 0x0F#8 f
  | .himm f => putFmtH 0x10#8 f
  | .hoff f => putFmtH 0x11#8 f
  | .htgt f => putFmtH 0x12#8 f
  | .hsch f => putFmtH 0x13#8 f
  | .add f => putFmtA 0x18#8 f
  | .sub f => putFmtA 0x19#8 f
  | .mul f => putFmtA 0x1A#8 f
  | .mulhi f => putFmtA 0x1B#8 f
  | .mad f => putFmtA 0x1C#8 f
  | .div f => putFmtA 0x1D#8 f
  | .rem f => putFmtA 0x1E#8 f
  | .min f => putFmtA 0x1F#8 f
  | .max f => putFmtA 0x20#8 f
  | .abs f => putFmtA 0x21#8 f
  | .neg f => putFmtA 0x22#8 f
  | .and f => putFmtA 0x23#8 f
  | .or f => putFmtA 0x24#8 f
  | .xor f => putFmtA 0x25#8 f
  | .not f => putFmtA 0x26#8 f
  | .andn f => putFmtA 0x27#8 f
  | .shl f => putFmtA 0x28#8 f
  | .shr f => putFmtA 0x29#8 f
  | .sar f => putFmtA 0x2A#8 f
  | .rotl f => putFmtA 0x2B#8 f
  | .popc f => putFmtA 0x2C#8 f
  | .clz f => putFmtA 0x2D#8 f
  | .ctz f => putFmtA 0x2E#8 f
  | .brev f => putFmtA 0x2F#8 f
  | .bfx f => putFmtA 0x30#8 f
  | .bfi f => putFmtA 0x31#8 f
  | .cmp f => putFmtC 0x32#8 f
  | .sel f => putFmtA 0x33#8 f
  | .adds f => putFmtA 0x34#8 f
  | .subs f => putFmtA 0x35#8 f
  | .dot4 f => putFmtA 0x36#8 f
  | .dot2 f => putFmtA 0x37#8 f
  | .ixa f => putFmtA 0x38#8 f
  | .fsh f => putFmtA 0x39#8 f
  | .perm f => putFmtA 0x3A#8 f
  | .lop3 f => putFmtA 0x3B#8 f
  | .fadd f => putFmtA 0x40#8 f
  | .fsub f => putFmtA 0x41#8 f
  | .fmul f => putFmtA 0x42#8 f
  | .fma f => putFmtA 0x43#8 f
  | .fmin f => putFmtA 0x44#8 f
  | .fmax f => putFmtA 0x45#8 f
  | .fminn f => putFmtA 0x46#8 f
  | .fmaxn f => putFmtA 0x47#8 f
  | .fabs f => putFmtA 0x48#8 f
  | .fneg f => putFmtA 0x49#8 f
  | .fcmp f => putFmtC 0x4A#8 f
  | .fclass f => putFmtA 0x4B#8 f
  | .fdiv f => putFmtA 0x4C#8 f
  | .fsqrt f => putFmtA 0x4D#8 f
  | .frnd f => putFmtA 0x4E#8 f
  | .ffrac f => putFmtA 0x4F#8 f
  | .fscale f => putFmtA 0x50#8 f
  | .fgetx f => putFmtA 0x51#8 f
  | .fsign f => putFmtA 0x52#8 f
  | .fdot2 f => putFmtA 0x53#8 f
  | .cvt f => putFmtA 0x68#8 f
  | .cvtsr f => putFmtA 0x69#8 f
  | .pack f => putFmtA 0x6A#8 f
  | .unpack f => putFmtA 0x6B#8 f
  | .qnt f => putFmtA 0x6C#8 f
  | .dqnt f => putFmtA 0x6D#8 f
  | .rcp f => putFmtA 0x78#8 f
  | .rsq f => putFmtA 0x79#8 f
  | .ex2 f => putFmtA 0x7A#8 f
  | .lg2 f => putFmtA 0x7B#8 f
  | .sinpi f => putFmtA 0x7C#8 f
  | .cospi f => putFmtA 0x7D#8 f
  | .tanh f => putFmtA 0x7E#8 f
  | .sigm f => putFmtA 0x7F#8 f
  | .rd f => putFmtL 0x80#8 f
  | .wr f => putFmtL 0x81#8 f
  | .mov f => putFmtB 0x82#8 f
  | .rdsys f => putFmtL 0x83#8 f
  | .xput f => putFmtL 0x85#8 f
  | .xget f => putFmtL 0x86#8 f
  | .xclr f => putFmtL 0x87#8 f
  | .gred f => putFmtA 0x88#8 f
  | .gscan f => putFmtA 0x89#8 f
  | .vote f => putFmtA 0x8A#8 f
  | .ld f => putFmtM 0x90#8 f
  | .st f => putFmtM 0x91#8 f
  | .lds f => putFmtM 0x92#8 f
  | .sts f => putFmtM 0x93#8 f
  | .ldsn f => putFmtM 0x94#8 f
  | .ldc f => putFmtM 0x95#8 f
  | .pf f => putFmtM 0x96#8 f
  | .ldacq f => putFmtM 0x97#8 f
  | .strel f => putFmtM 0x98#8 f
  | .fence f => putFmtS 0x99#8 f
  | .cwb f => putFmtM 0x9A#8 f
  | .zfill f => putFmtM 0x9B#8 f
  | .pld f => putFmtM 0x9C#8 f
  | .pst f => putFmtM 0x9D#8 f
  | .aadd f => putFmtT 0xB0#8 f
  | .amin f => putFmtT 0xB1#8 f
  | .amax f => putFmtT 0xB2#8 f
  | .aand f => putFmtT 0xB3#8 f
  | .aor f => putFmtT 0xB4#8 f
  | .axor f => putFmtT 0xB5#8 f
  | .axchg f => putFmtT 0xB6#8 f
  | .acas f => putFmtT 0xB7#8 f
  | .afadd f => putFmtT 0xB8#8 f
  | .sigsub f => putFmtT 0xB9#8 f
  | .sigwait f => putFmtT 0xBA#8 f
  | .mbox f => putFmtT 0xBB#8 f
  | .tcopy f => putFmtE 0xC0#8 f
  | .tstore f => putFmtE 0xC1#8 f
  | .tcopyo f => putFmtE 0xC2#8 f
  | .tcopyr f => putFmtE 0xC3#8 f
  | .tcast f => putFmtE 0xC4#8 f
  | .sfree f => putFmtE 0xC5#8 f
  | .spres f => putFmtE 0xC6#8 f
  | .tgath f => putFmtE 0xC7#8 f
  | .tscat f => putFmtE 0xC8#8 f
  | .tclaim f => putFmtE 0xD0#8 f
  | .trel f => putFmtE 0xD1#8 f
  | .mma f => putFmtE 0xD2#8 f
  | .mmi f => putFmtE 0xD3#8 f
  | .mmg f => putFmtE 0xD4#8 f
  | .tsacc f => putFmtE 0xD5#8 f
  | .tzero f => putFmtE 0xD6#8 f
  | .tacst f => putFmtE 0xD7#8 f
  | .tacld f => putFmtE 0xD8#8 f
  | .tfence f => putFmtE 0xD9#8 f
  | .tmode f => putFmtE 0xDA#8 f
  | .rdctl f => putFmtS 0xE0#8 f
  | .wrctl f => putFmtS 0xE1#8 f
  | .tlbinv f => putFmtS 0xE2#8 f
  | .cinv f => putFmtS 0xE3#8 f
  | .evpost f => putFmtS 0xE4#8 f
  | .perf f => putFmtS 0xE5#8 f
  | .ctxsv f => putFmtS 0xE6#8 f
  | .ctxld f => putFmtS 0xE7#8 f
  | .powerLoss => 0
  | .writePerformedInL2 _ => 0
  | .peerWriteAcknowledged _ => 0
  | .hostWriteAccepted _ => 0
  | .peerReadRequest _ => 0
  | .bullpenProtectionExpiry _ => 0

/-- Whether a constructor is a Diros word; the others are steps of the machine, which no word encodes. -/
def isWord (i : Instr) : Bool :=
  match i with
  | .signalWriteObserved => false
  | .recordReachesHead _ _ => false
  | .launchRelease => false
  | .groupHandout => false
  | .groupStart _ => false
  | .shapeSourceTimeout _ => false
  | .squashZeroFill _ => false
  | .groupRetire _ => false
  | .completionDecrement _ => false
  | .notifyEntryArm _ _ => false
  | .hostNotificationMessage _ => false
  | .bullpenFill _ => false
  | .placementSlotFree _ _ => false
  | .placementDrain _ _ => false
  | .threadAdmit _ _ => false
  | .stageReentry _ _ _ => false
  | .loadReturn _ _ _ => false
  | .threadCommit _ _ => false
  | .atomicResultLand _ => false
  | .deferredSuccessorMove _ _ => false
  | .pageWalk _ _ => false
  | .fuDone _ => false
  | .dugoutEvict _ => false
  | .writePlacement _ => false
  | .gaAcknowledge _ => false
  | .ackRetry _ => false
  | .ackLossResolution _ _ => false
  | .peerWritePerform _ => false
  | .peerFlowRefused _ _ => false
  | .copyStart _ _ => false
  | .copyLineWrite _ _ => false
  | .copyComplete _ _ => false
  | .volleyPermit _ => false
  | .tileOpFire _ => false
  | .accumulatorStoreDone _ => false
  | .tfenceStatusLand _ => false
  | .barrierStall _ _ => false
  | .heldCommitStall _ _ => false
  | .eventQueueRetry _ => false
  | .fcmdResume _ => false
  | .fcmdRedirect _ => false
  | .fcmdKillThread _ => false
  | .fcmdKillGroup _ => false
  | .fcmdWriteSlot _ => false
  | .fcmdRepost _ => false
  | .fcmdResumeKind _ => false
  | .fcmdStep _ => false
  | .dhaltSet _ => false
  | .dhaltClear _ => false
  | .quiesceRequest _ => false
  | .quiescePhaseAdvance _ => false
  | .dieCutAnswer _ _ => false
  | .quiesceResume _ => false
  | .imageStatusLand _ => false
  | .drstGo _ => false
  | .dieResetWriteBack => false
  | .dieResetOffline => false
  | .dieReadmit => false
  | .ctxCreate => false
  | .ctxCreateSupervisor => false
  | .ctxDestroy _ => false
  | .objRegister _ => false
  | .objUnregister _ _ => false
  | .vctWrite _ _ => false
  | .sigtNWrite _ _ => false
  | .registerWrite _ _ => false
  | .attestationRequest _ => false
  | .attestationReportDone => false
  | .firmwareUpdate _ => false
  | .lifeCycleAdvance _ => false
  | .powerOnStart _ => false
  | .monitorEnable _ _ => false
  | .monitorSnap _ => false
  | .monitorSample _ _ _ => false
  | .clockStep _ _ => false
  | .patrolScrub _ => false
  | .uncorrectableError _ => false
  | .hbmRowRemap _ _ => false
  | .pseudoChannelSwitch _ _ => false
  | .wavelengthSpare _ _ => false
  | .fibreFailure _ => false
  | .cacheWaySpare _ _ => false
  | .thlLaneFailure => false
  | .hostWrite _ _ => false
  | .hostRead _ _ => false
  | .nop _ => true
  | .next _ => true
  | .nextp _ => true
  | .nextpu _ => true
  | .nexti _ => true
  | .call _ => true
  | .calli _ => true
  | .ret _ => true
  | .exit _ => true
  | .bar _ => true
  | .yield _ => true
  | .spawn _ => true
  | .gwait _ => true
  | .trap _ => true
  | .brk _ => true
  | .launch _ => true
  | .himm _ => true
  | .hoff _ => true
  | .htgt _ => true
  | .hsch _ => true
  | .add _ => true
  | .sub _ => true
  | .mul _ => true
  | .mulhi _ => true
  | .mad _ => true
  | .div _ => true
  | .rem _ => true
  | .min _ => true
  | .max _ => true
  | .abs _ => true
  | .neg _ => true
  | .and _ => true
  | .or _ => true
  | .xor _ => true
  | .not _ => true
  | .andn _ => true
  | .shl _ => true
  | .shr _ => true
  | .sar _ => true
  | .rotl _ => true
  | .popc _ => true
  | .clz _ => true
  | .ctz _ => true
  | .brev _ => true
  | .bfx _ => true
  | .bfi _ => true
  | .cmp _ => true
  | .sel _ => true
  | .adds _ => true
  | .subs _ => true
  | .dot4 _ => true
  | .dot2 _ => true
  | .ixa _ => true
  | .fsh _ => true
  | .perm _ => true
  | .lop3 _ => true
  | .fadd _ => true
  | .fsub _ => true
  | .fmul _ => true
  | .fma _ => true
  | .fmin _ => true
  | .fmax _ => true
  | .fminn _ => true
  | .fmaxn _ => true
  | .fabs _ => true
  | .fneg _ => true
  | .fcmp _ => true
  | .fclass _ => true
  | .fdiv _ => true
  | .fsqrt _ => true
  | .frnd _ => true
  | .ffrac _ => true
  | .fscale _ => true
  | .fgetx _ => true
  | .fsign _ => true
  | .fdot2 _ => true
  | .cvt _ => true
  | .cvtsr _ => true
  | .pack _ => true
  | .unpack _ => true
  | .qnt _ => true
  | .dqnt _ => true
  | .rcp _ => true
  | .rsq _ => true
  | .ex2 _ => true
  | .lg2 _ => true
  | .sinpi _ => true
  | .cospi _ => true
  | .tanh _ => true
  | .sigm _ => true
  | .rd _ => true
  | .wr _ => true
  | .mov _ => true
  | .rdsys _ => true
  | .xput _ => true
  | .xget _ => true
  | .xclr _ => true
  | .gred _ => true
  | .gscan _ => true
  | .vote _ => true
  | .ld _ => true
  | .st _ => true
  | .lds _ => true
  | .sts _ => true
  | .ldsn _ => true
  | .ldc _ => true
  | .pf _ => true
  | .ldacq _ => true
  | .strel _ => true
  | .fence _ => true
  | .cwb _ => true
  | .zfill _ => true
  | .pld _ => true
  | .pst _ => true
  | .aadd _ => true
  | .amin _ => true
  | .amax _ => true
  | .aand _ => true
  | .aor _ => true
  | .axor _ => true
  | .axchg _ => true
  | .acas _ => true
  | .afadd _ => true
  | .sigsub _ => true
  | .sigwait _ => true
  | .mbox _ => true
  | .tcopy _ => true
  | .tstore _ => true
  | .tcopyo _ => true
  | .tcopyr _ => true
  | .tcast _ => true
  | .sfree _ => true
  | .spres _ => true
  | .tgath _ => true
  | .tscat _ => true
  | .tclaim _ => true
  | .trel _ => true
  | .mma _ => true
  | .mmi _ => true
  | .mmg _ => true
  | .tsacc _ => true
  | .tzero _ => true
  | .tacst _ => true
  | .tacld _ => true
  | .tfence _ => true
  | .tmode _ => true
  | .rdctl _ => true
  | .wrctl _ => true
  | .tlbinv _ => true
  | .cinv _ => true
  | .evpost _ => true
  | .perf _ => true
  | .ctxsv _ => true
  | .ctxld _ => true
  | .powerLoss => false
  | .writePerformedInL2 _ => false
  | .peerWriteAcknowledged _ => false
  | .hostWriteAccepted _ => false
  | .peerReadRequest _ => false
  | .bullpenProtectionExpiry _ => false

end Sys2Proof
end

