-- ==== Sys2Proof/Machine/Numbers.lean ====
section
/-! DEFINITION. Number formats, exact values, rounding and conversion (R28 to R43). A value is a NaN, an infinity, or a signed
dyadic number; quotients and roots are formed with enough bits and a last bit that says something was left over. -/
namespace Sys2Proof.Machine

/-- A floating-point format (R28): exponent width, fraction width, whether it has infinities, whether all ones is a NaN only with
all fraction bits set (e4m3), whether it has a NaN at all. -/
structure FFmt where
  w : Nat
  m : Nat
  infs : Bool
  nans : Bool

/-- The formats by their `cvt` codes 0 to 8 (R28, R96). -/
def ffmt (code : Nat) : FFmt :=
  match code with
  | 0 => ⟨11, 52, true, true⟩
  | 1 => ⟨8, 23, true, true⟩
  | 2 => ⟨5, 10, true, true⟩
  | 3 => ⟨8, 7, true, true⟩
  | 4 => ⟨4, 3, false, true⟩
  | 5 => ⟨5, 2, true, true⟩
  | 6 => ⟨3, 2, false, false⟩
  | 7 => ⟨2, 3, false, false⟩
  | _ => ⟨2, 1, false, false⟩

/-- Width in bits of a format (R28). -/
def FFmt.width (f : FFmt) : Nat := 1 + f.w + f.m
/-- Exponent bias (R28). -/
def FFmt.bias (f : FFmt) : Nat := 2 ^ (f.w - 1) - 1
/-- Emin of R37. -/
def FFmt.emin (f : FFmt) : Int := 1 - (f.bias : Int)
/-- The exponent of the largest finite value. -/
def FFmt.emax (f : FFmt) : Int := if f.infs then (f.bias : Int) else ((2 ^ f.w - 1 : Nat) : Int) - f.bias
/-- The integer significand of the largest finite value: one step below the NaN in e4m3 (R28, R29). -/
def FFmt.maxSig (f : FFmt) : Nat := if !f.infs && f.nans then 2 ^ (f.m + 1) - 2 else 2 ^ (f.m + 1) - 1
/-- The canonical NaN (R30). -/
def FFmt.canon (f : FFmt) : Nat :=
  if f.infs then (2 ^ f.w - 1) * 2 ^ f.m + 2 ^ (f.m - 1) else 2 ^ (f.w + f.m) - 1
/-- An infinity (R29). -/
def FFmt.infBits (f : FFmt) (neg : Bool) : Nat := neg.toNat * 2 ^ (f.w + f.m) + (2 ^ f.w - 1) * 2 ^ f.m
/-- The largest finite value of a sign (R28). -/
def FFmt.maxBits (f : FFmt) (neg : Bool) : Nat :=
  neg.toNat * 2 ^ (f.w + f.m) + (if f.infs then (2 ^ f.w - 1) * 2 ^ f.m - 1
    else if f.nans then 2 ^ (f.w + f.m) - 2 else 2 ^ (f.w + f.m) - 1)

/-- The five conditions and saturation as FSLOT bits (R38). -/
def cInvalid : Nat := 1
def cDivZero : Nat := 2
def cOverflow : Nat := 4
def cUnderflow : Nat := 8
def cInexact : Nat := 16
def cSaturation : Nat := 32

/-- A value: NaN (signalling or quiet), infinity, or (−1)^neg × m × 2^e; m = 0 is a signed zero. -/
inductive FV where
  | nan (sig : Bool)
  | inf (neg : Bool)
  | fin (neg : Bool) (m : Nat) (e : Int)
deriving DecidableEq, Repr

/-- The value an encoding holds (R29, R208). -/
def decodeF (f : FFmt) (v : Nat) : FV :=
  let s := bit v (f.w + f.m)
  let ex := bits v f.m f.w
  let fr := bits v 0 f.m
  if f.infs && ex == 2 ^ f.w - 1 then (if fr == 0 then .inf s else .nan (!bit fr (f.m - 1)))
  else if !f.infs && f.nans && ex == 2 ^ f.w - 1 && fr == 2 ^ f.m - 1 then .nan false
  else if ex == 0 then .fin s fr (f.emin - f.m)
  else .fin s (2 ^ f.m + fr) ((ex : Int) - f.bias - f.m)

/-- n × 2^k for k of either sign, rounded down, with what is left over compared with a half: 0 nothing, 1 below, 2 half, 3 above. -/
def shiftLeft (n : Nat) (k : Int) : Nat × Nat :=
  if 0 ≤ k then (n <<< k.toNat, 0)
  else
    let d := (-k).toNat
    let q := n >>> d
    let r := n - q <<< d
    let half := 2 ^ (d - 1)
    (q, if r == 0 then 0 else if r < half then 1 else if r == half then 2 else 3)

/-- RoundInt of R37: an integer part and what is left over, by mode and sign (R36). -/
def roundInt (mode : Nat) (neg : Bool) (q rest : Nat) : Nat :=
  match mode with
  | 0 => if rest == 3 || (rest == 2 && q % 2 == 1) then q + 1 else q
  | 1 => q
  | 2 => if rest != 0 && !neg then q + 1 else q
  | _ => if rest != 0 && neg then q + 1 else q

/-- A finite non-zero magnitude rounded to the steps of a format with no bound above: significand, exponent of its unit, and
whether it is inexact (R37). -/
def roundUnbounded (f : FFmt) (mode : Nat) (neg : Bool) (m : Nat) (e : Int) : Nat × Int × Bool :=
  let ex := max ((m.log2 : Int) + e) f.emin
  let u := ex - f.m
  let (q, rest) := shiftLeft m (e - u)
  let n := roundInt mode neg q rest
  if n == 2 ^ (f.m + 1) then (2 ^ f.m, u + 1, rest != 0) else (n, u, rest != 0)

/-- The encoding of a rounded magnitude that is not too large. -/
def encodeF (f : FFmt) (neg : Bool) (n : Nat) (u : Int) : Nat :=
  neg.toNat * 2 ^ (f.w + f.m) + (if n < 2 ^ f.m then n else (u + f.m + f.bias).toNat * 2 ^ f.m + (n - 2 ^ f.m))

/-- A rounded magnitude exceeds the largest finite value. -/
def tooLarge (f : FFmt) (n : Nat) (u : Int) : Bool :=
  n != 0 && (f.emax - f.m < u || (u == f.emax - f.m && f.maxSig < n))

/-- Underflow and inexact of a rounded result (R38): a non-zero result below the smallest normal underflows, a zero result does not. -/
def tinyConds (f : FFmt) (n : Nat) (inexact : Bool) : Nat :=
  if !inexact then 0 else if n < 2 ^ f.m && n != 0 then cInexact ||| cUnderflow else cInexact

/-- Round of R37, with the conditions it raises (R38). -/
def round (f : FFmt) (mode : Nat) (v : FV) : Nat × Nat :=
  match v with
  | .nan sig => (f.canon, if sig then cInvalid else 0)
  | .inf s => (f.infBits s, 0)
  | .fin s 0 _ => (encodeF f s 0 0, 0)
  | .fin s m e =>
    let (n, u, nx) := roundUnbounded f mode s m e
    if tooLarge f n u then
      let big := mode == 0 || (mode == 2 && !s) || (mode == 3 && s)
      ((if big then f.infBits s else f.maxBits s), cOverflow ||| cInexact)
    else (encodeF f s n u, tinyConds f n nx)

/-- Convert of R39 and R40, with its conditions. -/
def convert (f : FFmt) (mode : Nat) (sat : Bool) (v : FV) : Nat × Nat :=
  if f.infs then
    match v with
    | .fin s m e =>
      if sat && m != 0 && (let (n, u, _) := roundUnbounded f mode s m e; tooLarge f n u)
      then (f.maxBits s, cSaturation ||| cInexact) else round f mode v
    | _ => round f mode v
  else
    match v with
    | .nan _ => (if f.nans then f.canon else f.maxBits false, cInvalid)
    | .inf s => if sat || !f.nans then (f.maxBits s, cSaturation) else (f.canon, cInvalid)
    | .fin s 0 _ => (encodeF f s 0 0, 0)
    | .fin s m e =>
      let (n, u, nx) := roundUnbounded f mode s m e
      if tooLarge f n u then
        (if sat || !f.nans then (f.maxBits s, cSaturation ||| cInexact) else (f.canon, cInvalid ||| cInexact))
      else (encodeF f s n u, tinyConds f n nx)

/-- Convert to e8m0 (R42). [DESIGN CHOICE, log entry 80] -/
def toE8m0 (mode : Nat) (sat : Bool) (v : FV) : Nat × Nat :=
  match v with
  | .nan _ => (0xFF, cInvalid)
  | .inf _ => if sat then (0xFE, cSaturation) else (0xFF, cOverflow)
  | .fin _ 0 _ => (0, cInexact)
  | .fin _ m e =>
    let l := m.log2
    let n : Int := (l : Int) + e
    let exact := m == 2 ^ l
    let c := match mode with
      | 1 => n
      | 3 => n
      | 2 => if exact then n else n + 1
      | _ => if 3 * 2 ^ l ≤ 2 * m then n + 1 else n
    if c < -127 then (0, cInexact ||| cUnderflow)
    else if 127 < c then (if sat then (0xFE, cSaturation) else (0xFF, cOverflow))
    else ((c + 127).toNat, if exact && c == n then 0 else cInexact)

/-- The value of an e8m0 byte (R32). -/
def ofE8m0 (b : Nat) : FV := if b % 256 == 255 then .nan false else .fin false 1 ((b % 256 : Nat) - 127)

/-- SRound of R43. -/
def sround (f : FFmt) (rnd : Nat) (sat : Bool) (v : FV) : Nat × Nat :=
  match v with
  | .fin s 0 _ => (encodeF f s 0 0, 0)
  | .fin s m e =>
    let ex := max ((m.log2 : Int) + e) f.emin
    let u := ex - f.m
    let q16 := (shiftLeft m (e - u + 16)).1
    let (q, rest) := shiftLeft m (e - u)
    let n0 := if 2 ^ 16 ≤ q16 % 2 ^ 16 + rnd % 2 ^ 16 then q + 1 else q
    let (n, u) := if n0 == 2 ^ (f.m + 1) then (2 ^ f.m, u + 1) else (n0, u)
    if tooLarge f n u then
      if sat then (let r := convert f 1 true (.fin s n u); (r.1, r.2 ||| cInexact))
      else if f.infs then (f.infBits s, cOverflow ||| cInexact) else (f.canon, cInvalid ||| cInexact)
    else (encodeF f s n u, tinyConds f n (rest != 0))
  | _ => convert f 0 sat v

/-- The sum of two signed dyadic numbers; a zero sum of unlike signs takes the sign the mode gives (R37). -/
def addFin (mode : Nat) (s1 : Bool) (m1 : Nat) (e1 : Int) (s2 : Bool) (m2 : Nat) (e2 : Int) : FV :=
  let e := min e1 e2
  let x : Int := (m1 <<< (e1 - e).toNat : Nat)
  let y : Int := (m2 <<< (e2 - e).toNat : Nat)
  let t := (if s1 then -x else x) + (if s2 then -y else y)
  if t == 0 then .fin (if s1 == s2 then s1 else mode == 3) 0 0
  else .fin (t < 0) t.natAbs e

/-- The exact sum of two values: NaN from unlike infinities (R210). -/
def addV (mode : Nat) (a b : FV) : FV :=
  match a, b with
  | .nan s, .nan t => .nan (s || t)
  | .nan s, _ => .nan s
  | _, .nan s => .nan s
  | .inf s, .inf t => if s == t then .inf s else .nan false
  | .inf s, _ => .inf s
  | _, .inf s => .inf s
  | .fin s1 m1 e1, .fin s2 m2 e2 => addFin mode s1 m1 e1 s2 m2 e2

/-- The exact product: NaN from zero times infinity (R210). -/
def mulV (a b : FV) : FV :=
  match a, b with
  | .nan s, .nan t => .nan (s || t)
  | .nan s, _ => .nan s
  | _, .nan s => .nan s
  | .inf s, .inf t => .inf (s != t)
  | .inf s, .fin t m _ => if m == 0 then .nan false else .inf (s != t)
  | .fin t m _, .inf s => if m == 0 then .nan false else .inf (s != t)
  | .fin s1 m1 e1, .fin s2 m2 e2 => .fin (s1 != s2) (m1 * m2) (e1 + e2)

/-- The exact quotient, to `p` bits and a last bit that says a remainder was left. -/
def divFin (p : Nat) (s1 : Bool) (m1 : Nat) (e1 : Int) (s2 : Bool) (m2 : Nat) (e2 : Int) : FV :=
  if m1 == 0 then .fin (s1 != s2) 0 0
  else
    let k := p + m2.log2 + 2
    let n := m1 <<< k
    let q := n / m2
    .fin (s1 != s2) (2 * q + (if n % m2 == 0 then 0 else 1)) (e1 - e2 - k - 1)

/-- Integer square root by bits, from bit `n` down. -/
def isqrtFrom : Nat → Nat → Nat → Nat
  | 0, r, v => if (r + 1) * (r + 1) ≤ v then r + 1 else r
  | n + 1, r, v =>
    let t := r + 2 ^ (n + 1)
    isqrtFrom n (if t * t ≤ v then t else r) v

/-- The square root rounded down. -/
def isqrt (v : Nat) : Nat := isqrtFrom (v.log2 / 2 + 1) 0 v

/-- The square root of m × 2^e to `p` bits and a last bit that says it is not exact. -/
def sqrtFin (p : Nat) (m : Nat) (e : Int) : FV :=
  if m == 0 then .fin false 0 0
  else
    let k0 := 2 * (p + 2)
    let k := if (e - k0) % 2 == 0 then k0 else k0 + 1
    let n := m <<< k
    let r := isqrt n
    .fin false (2 * r + (if r * r == n then 0 else 1)) ((e - k) / 2 - 1)

/-- The value is a NaN. -/
def FV.isNan : FV → Bool
  | .nan _ => true
  | _ => false

/-- The value is a signalling NaN (R208). -/
def FV.isSnan : FV → Bool
  | .nan s => s
  | _ => false

/-- The sign of a value. -/
def FV.neg : FV → Bool
  | .nan _ => false
  | .inf s => s
  | .fin s _ _ => s

/-- The value is a zero. -/
def FV.isZero : FV → Bool
  | .fin _ m _ => m == 0
  | _ => false

/-- The value is infinite. -/
def FV.isInf : FV → Bool
  | .inf _ => true
  | _ => false

/-- The value with its sign inverted. -/
def FV.negate : FV → FV
  | .nan s => .nan s
  | .inf s => .inf (!s)
  | .fin s m e => .fin (!s) m e

/-- a < b for values that are not NaN; −0 equals +0. -/
def ltV (a b : FV) : Bool :=
  match a, b with
  | .inf true, .inf true => false
  | .inf true, _ => true
  | .inf false, _ => false
  | _, .inf s => !s
  | .fin s1 m1 e1, .fin s2 m2 e2 =>
    let e := min e1 e2
    let x : Int := (m1 <<< (e1 - e).toNat : Nat)
    let y : Int := (m2 <<< (e2 - e).toNat : Nat)
    decide ((if s1 then -x else x) < (if s2 then -y else y))
  | _, _ => false

/-- a ≤ b where −0 counts as less than +0 (R212). -/
def leTotal (a b : FV) : Bool :=
  if ltV a b then true else if ltV b a then false else a.neg || !b.neg

/-- The integer a value rounds to, with whether it was inexact (R41, R216). -/
def roundToInt (mode : Nat) (s : Bool) (m : Nat) (e : Int) : Int × Bool :=
  let (q, rest) := shiftLeft m e
  let n : Int := (roundInt mode s q rest : Nat)
  (if s then -n else n, rest != 0)

end Sys2Proof.Machine
end

