-- ==== Sys2Proof/Machine/FloatAlu.lean ====
section
/-! DEFINITION. What the floating-point and conversion words compute (R205 to R221, R225): result bits, raised conditions, and whether
the result is one that poison mode replaces. -/
namespace Sys2Proof.Machine

/-- A result: bits, conditions of R38, and whether R225 lists the case as one that gives poison while PSN is set. -/
structure FRes where
  val : Nat
  conds : Nat
  pois : Bool
deriving DecidableEq, Repr

/-- The lanes of a float type code (R88, R206): how many, and the format code of R96. -/
def floatLanes (ty : Nat) : Nat × Nat :=
  match ty with
  | 0 => (1, 1)
  | 1 => (1, 0)
  | 2 => (1, 2)
  | 3 => (1, 3)
  | 4 => (2, 2)
  | _ => (2, 3)

/-- A lane operation applied to every lane; conditions are joined, and one poisonous lane makes the token poison (R207, R225). -/
def onFloatLanes (ty : Nat) (f : FFmt → Nat → Nat → Nat → FRes) (a b c : Nat) : FRes :=
  let (n, code) := floatLanes ty
  let ft := ffmt code
  let rs := (List.range n).map fun i => f ft (lane ft.width a i) (lane ft.width b i) (lane ft.width c i)
  ⟨ofLanes ft.width (rs.map (·.val)), rs.foldl (fun c r => c ||| r.conds) 0, rs.any (·.pois)⟩

/-- An exact result rounded, with invalid for a NaN made from values or from a signalling NaN (R208, R210). -/
def finishArith (ft : FFmt) (mode : Nat) (ins : List FV) (extra : Nat) (v : FV) : FRes :=
  let anyNan := ins.any FV.isNan
  let snan := ins.any FV.isSnan
  let extra := extra ||| (if snan then cInvalid else 0)
  match v with
  | .nan _ => ⟨ft.canon, extra ||| (if anyNan then 0 else cInvalid), !anyNan⟩
  | _ => let r := round ft mode v; ⟨r.1, r.2 ||| extra, false⟩

/-- `fadd` on a lane (R210). -/
def laneFadd (mode : Nat) (ft : FFmt) (a b _ : Nat) : FRes :=
  let x := decodeF ft a; let y := decodeF ft b
  finishArith ft mode [x, y] 0 (addV mode x y)

/-- `fsub` on a lane (R210). -/
def laneFsub (mode : Nat) (ft : FFmt) (a b _ : Nat) : FRes :=
  let x := decodeF ft a; let y := decodeF ft b
  finishArith ft mode [x, y] 0 (addV mode x y.negate)

/-- `fmul` on a lane (R210). -/
def laneFmul (mode : Nat) (ft : FFmt) (a b _ : Nat) : FRes :=
  let x := decodeF ft a; let y := decodeF ft b
  finishArith ft mode [x, y] 0 (mulV x y)

/-- Zero times infinity (R210). -/
def zeroTimesInf (x y : FV) : Bool := (x.isZero && y.isInf) || (x.isInf && y.isZero)

/-- `fma` on a lane (R210, R211). -/
def laneFma (mode : Nat) (ft : FFmt) (a b c : Nat) : FRes :=
  let x := decodeF ft a; let y := decodeF ft b; let z := decodeF ft c
  finishArith ft mode [x, y, z] (if zeroTimesInf x y then cInvalid else 0) (addV mode (mulV x y) z)

/-- The quotient of two values (R210), with divide-by-zero. -/
def divV (p : Nat) (x y : FV) : FV × Nat :=
  match x, y with
  | .nan s, _ => (.nan s, 0)
  | _, .nan s => (.nan s, 0)
  | .inf _, .inf _ => (.nan false, 0)
  | .inf s, .fin t _ _ => (.inf (s != t), 0)
  | .fin s _ _, .inf t => (.fin (s != t) 0 0, 0)
  | .fin s m e, .fin t n k =>
    if n == 0 then (if m == 0 then (.nan false, 0) else (.inf (s != t), cDivZero)) else (divFin p s m e t n k, 0)

/-- `fdiv` on a lane (R210). -/
def laneFdiv (mode : Nat) (ft : FFmt) (a b _ : Nat) : FRes :=
  let x := decodeF ft a; let y := decodeF ft b
  let r := divV (ft.m + 3) x y
  finishArith ft mode [x, y] r.2 r.1

/-- The square root of a value (R210). -/
def sqrtV (p : Nat) (x : FV) : FV :=
  match x with
  | .nan s => .nan s
  | .inf s => if s then .nan false else .inf false
  | .fin s m e => if m == 0 then .fin s 0 0 else if s then .nan false else sqrtFin p m e

/-- `fsqrt` on a lane (R210). -/
def laneFsqrt (mode : Nat) (ft : FFmt) (a _ _ : Nat) : FRes :=
  let x := decodeF ft a
  finishArith ft mode [x] 0 (sqrtV (ft.m + 3) x)

/-- `fdot2` (R210, R211): two packed operands of the format and an f32 addend, rounded once. -/
def fdot2 (mode ty a b c : Nat) : FRes :=
  let ft := ffmt (floatLanes ty).2
  let x0 := decodeF ft (lane 16 a 0); let y0 := decodeF ft (lane 16 b 0)
  let x1 := decodeF ft (lane 16 a 1); let y1 := decodeF ft (lane 16 b 1)
  let z := decodeF (ffmt 1) (bits c 0 32)
  let p0 := mulV x0 y0; let p1 := mulV x1 y1
  let z0 := zeroTimesInf x0 y0 || zeroTimesInf x1 y1
  let s := addV mode (addV mode p0 p1) z
  -- an exact zero is −0 only when every addend is −0, and in rd also when their signs differ (R211)
  let s := match s with
    | .fin _ 0 _ => .fin (if p0.neg && p1.neg && z.neg then true
        else if !p0.neg && !p1.neg && !z.neg then false else mode == 3) 0 0
    | v => v
  finishArith (ffmt 1) mode [x0, y0, x1, y1, z] (if z0 then cInvalid else 0) s

/-- `fmin`, `fmax`, `fminn` and `fmaxn` on a lane (R212): `big` takes the larger, `num` lets a number win over a NaN. -/
def laneMinMax (big num : Bool) (ft : FFmt) (a b _ : Nat) : FRes :=
  let x := decodeF ft a; let y := decodeF ft b
  let inv := if x.isSnan || y.isSnan then cInvalid else 0
  let v := if x.isNan && y.isNan then ft.canon
    else if x.isNan then (if num then b else ft.canon)
    else if y.isNan then (if num then a else ft.canon)
    else if big then (if leTotal x y then b else a) else (if leTotal x y then a else b)
  ⟨v, inv, false⟩

/-- `fabs` on a lane (R213). -/
def laneFabs (ft : FFmt) (a _ _ : Nat) : FRes := ⟨a % 2 ^ (ft.w + ft.m), 0, false⟩
/-- `fneg` on a lane (R213). -/
def laneFneg (ft : FFmt) (a _ _ : Nat) : FRes := ⟨a ^^^ 2 ^ (ft.w + ft.m), 0, false⟩
/-- `fsign` on a lane (R213). -/
def laneFsign (ft : FFmt) (a b _ : Nat) : FRes :=
  ⟨a % 2 ^ (ft.w + ft.m) + (bit b (ft.w + ft.m)).toNat * 2 ^ (ft.w + ft.m), 0, false⟩

/-- The class of a value as a bit of the mask of R214. -/
def classBit (ft : FFmt) (v : Nat) : Nat :=
  match decodeF ft v with
  | .nan s => if s then 0 else 1
  | .inf s => if s then 2 else 9
  | .fin s 0 _ => if s then 5 else 6
  | .fin s m _ => if m < 2 ^ ft.m then (if s then 4 else 7) else (if s then 3 else 8)

/-- `fclass` (R214). -/
def fclass (ty a : Nat) : FRes :=
  let (n, code) := floatLanes ty
  let ft := ffmt code
  ⟨ofLanes 16 ((List.range n).map fun i => 2 ^ classBit ft (lane ft.width a i)), 0, false⟩

/-- The fourteen conditions of R215. -/
def floatCond (cond : Nat) (x y : FV) : Bool :=
  let un := x.isNan || y.isNan
  let lt := ltV x y
  let gt := ltV y x
  let eq := !lt && !gt
  match cond with
  | 0 => !un && eq
  | 1 => !un && !eq
  | 2 => !un && lt
  | 3 => !un && (lt || eq)
  | 4 => !un && gt
  | 5 => !un && (gt || eq)
  | 6 => un || eq
  | 7 => un || !eq
  | 8 => un || lt
  | 9 => un || lt || eq
  | 10 => un || gt
  | 11 => un || gt || eq
  | 12 => !un
  | _ => un

/-- `fcmp` (R215). -/
def fcmp (ty cond a b : Nat) : FRes :=
  let (n, code) := floatLanes ty
  let ft := ffmt code
  let one := fun i =>
    let x := decodeF ft (lane ft.width a i); let y := decodeF ft (lane ft.width b i)
    let ordered := 2 ≤ cond && cond ≤ 5
    let inv := if x.isSnan || y.isSnan || (ordered && (x.isNan || y.isNan)) then cInvalid else 0
    (floatCond cond x y, inv)
  if n == 1 then ⟨(one 0).1.toNat, (one 0).2, false⟩
  else ⟨ofLanes 16 ((List.range n).map fun i => if (one i).1 then 0xFFFF else 0),
    (List.range n).foldl (fun c i => c ||| (one i).2) 0, false⟩

/-- `frnd` on a lane (R216). -/
def laneFrnd (mode : Nat) (ft : FFmt) (a _ _ : Nat) : FRes :=
  match decodeF ft a with
  | .nan s => ⟨ft.canon, if s then cInvalid else 0, false⟩
  | .inf _ => ⟨a, 0, false⟩
  | .fin s m e =>
    if 0 ≤ e || m == 0 then ⟨a, 0, false⟩
    else ⟨(round ft 1 (.fin s (roundToInt mode s m e).1.natAbs 0)).1, 0, false⟩

/-- `ffrac` on a lane (R216). -/
def laneFfrac (ft : FFmt) (a _ _ : Nat) : FRes :=
  match decodeF ft a with
  | .nan s => ⟨ft.canon, if s then cInvalid else 0, false⟩
  | .inf s => ⟨encodeF ft s 0 0, 0, false⟩
  | .fin s m e =>
    if 0 ≤ e then ⟨encodeF ft s 0 0, 0, false⟩
    else
      let r := m % 2 ^ (-e).toNat
      ⟨(round ft 1 (.fin s r e)).1, 0, false⟩

/-- `fscale` (R217): port b is a signed 32-bit count. -/
def fscale (mode ty a b : Nat) : FRes :=
  let ft := ffmt (floatLanes ty).2
  let a := a % 2 ^ ft.width
  match decodeF ft a with
  | .nan s => ⟨ft.canon, if s then cInvalid else 0, false⟩
  | .inf _ => ⟨a, 0, false⟩
  | .fin s m e => if m == 0 then ⟨a, 0, false⟩
    else let r := round ft mode (.fin s m (e + toSigned 32 b)); ⟨r.1, r.2, false⟩

/-- `fgetx` (R217). -/
def fgetx (ty a : Nat) : FRes :=
  let ft := ffmt (floatLanes ty).2
  match decodeF ft (a % 2 ^ ft.width) with
  | .nan _ => ⟨0x7FFFFFFF, cInvalid, false⟩
  | .inf _ => ⟨0x7FFFFFFF, cInvalid, false⟩
  | .fin _ m e => if m == 0 then ⟨0x80000000, 0, false⟩ else ⟨wrap 32 ((m.log2 : Int) + e), 0, false⟩

/-- Width in bits and signedness of the integer formats 0xA to 0xF of R96. -/
def cvtInt (code : Nat) : Nat × Bool :=
  match code with
  | 0xA => (32, true)
  | 0xB => (32, false)
  | 0xC => (64, true)
  | 0xD => (64, false)
  | 0xE => (16, true)
  | _ => (8, true)

/-- Width in bits of a `cvt` format (R96). -/
def cvtWidth (code : Nat) : Nat := if 10 ≤ code then (cvtInt code).1 else if code == 9 then 8 else (ffmt code).width

/-- An integer as a value. -/
def ofInt (i : Int) : FV := .fin (i < 0) i.natAbs 0

/-- A value to an integer format (R41). [DESIGN CHOICE, log entry 80] -/
def floatToInt (mode code : Nat) (v : FV) : Nat × Nat :=
  let (w, sg) := cvtInt code
  match v with
  | .nan _ => (0, cInvalid)
  | .inf s => (wrap w (if s then laneMin w sg else laneMax w sg), cInvalid)
  | .fin s m e =>
    let (i, nx) := roundToInt mode s m e
    if i < laneMin w sg || laneMax w sg < i then (wrap w (clampLane w sg i), cInvalid)
    else (wrap w i, if nx then cInexact else 0)

/-- `cvt` (R218): source and destination codes of R96. -/
def cvt (src dst mode : Nat) (sat : Bool) (a : Nat) : FRes :=
  if 10 ≤ src then
    let (w, sg) := cvtInt src
    let i := laneInt w sg (a % 2 ^ w)
    if 10 ≤ dst then
      let (dw, dsg) := cvtInt dst
      let c := if sat then clampLane dw dsg i else i
      ⟨wrap dw c, if c == i then 0 else cSaturation, false⟩
    else let r := convert (ffmt dst) mode sat (ofInt i); ⟨r.1, r.2, false⟩
  else
    let v := if src == 9 then ofE8m0 a else decodeF (ffmt src) (a % 2 ^ (ffmt src).width)
    let sn := if v.isSnan then cInvalid else 0
    if 10 ≤ dst then let r := floatToInt mode dst v; ⟨r.1, r.2 ||| sn, false⟩
    else if dst == 9 then
      let r := toE8m0 mode sat v
      ⟨r.1, r.2 ||| sn, !v.isNan && r.1 == 0xFF⟩
    else
      let r := convert (ffmt dst) mode sat v
      ⟨r.1, r.2 ||| sn, dst == 4 && !v.isNan && r.1 == 0x7F⟩

/-- `cvtsr` (R219): destination code, saturation, f32 value, random token. -/
def cvtsr (dst : Nat) (sat : Bool) (a c : Nat) : FRes :=
  let v := decodeF (ffmt 1) (a % 2 ^ 32)
  let r := sround (ffmt dst) (c % 2 ^ 16) sat v
  ⟨r.1, r.2 ||| (if v.isSnan then cInvalid else 0), dst == 4 && !v.isNan && r.1 == 0x7F⟩

/-- One f32 rounded to the lane format of `pack` (R220). -/
def packLane (mode code a : Nat) : Nat × Nat :=
  let v := decodeF (ffmt 1) (a % 2 ^ 32)
  round (ffmt code) mode v

/-- `pack` (R220). -/
def packF (mode ty a b : Nat) : FRes :=
  let code := (floatLanes ty).2
  let x := packLane mode code a
  let y := packLane mode code b
  ⟨ofLanes 16 [x.1, y.1], x.2 ||| y.2, false⟩

/-- `unpack` (R220). -/
def unpackF (ty a b : Nat) : FRes :=
  let v := decodeF (ffmt (floatLanes ty).2) (lane 16 a (b % 2))
  let r := round (ffmt 1) 0 v
  ⟨r.1, r.2, false⟩

/-- A quotient rounded to an integer (R221). -/
def roundQuot (mode : Nat) (s1 : Bool) (m1 : Nat) (e1 : Int) (s2 : Bool) (m2 : Nat) (e2 : Int) : Int × Bool :=
  let d := e1 - e2
  let n := if 0 ≤ d then m1 <<< d.toNat else m1
  let k := if 0 ≤ d then m2 else m2 <<< (-d).toNat
  let q := n / k
  let r := n % k
  let rest := if r == 0 then 0 else if 2 * r < k then 1 else if 2 * r == k then 2 else 3
  let s := s1 != s2
  let i : Int := (roundInt mode s q rest : Nat)
  (if s then -i else i, r != 0)

/-- `qnt` (R221). -/
def qnt (mode a d : Nat) : FRes :=
  let z : Int := (bits d 16 8 : Nat)
  match decodeF (ffmt 1) (a % 2 ^ 32), decodeF (ffmt 2) (bits d 0 16) with
  | .nan _, _ => ⟨bits d 16 8, cInvalid, false⟩
  | _, .nan _ => ⟨bits d 16 8, cInvalid, false⟩
  | _, .inf _ => ⟨bits d 16 8, cInvalid, false⟩
  | v, .fin t n k =>
    if n == 0 then ⟨bits d 16 8, cInvalid, false⟩
    else
      let (q, nx) := match v with
        | .fin s m e => roundQuot mode s m e t n k
        | w => (if w.neg != t then (-1000 : Int) else 1000, false)
      let c := q + z
      if c < 0 || 255 < c then ⟨(max 0 (min 255 c)).toNat, cSaturation ||| cInexact, false⟩
      else ⟨c.toNat, if nx then cInexact else 0, false⟩

/-- `dqnt` (R221). -/
def dqnt (mode ty code d : Nat) : FRes :=
  let ft := ffmt (floatLanes ty).2
  let s := decodeF (ffmt 2) (bits d 0 16)
  let p := mulV s (ofInt ((code % 256 : Nat) - (bits d 16 8 : Nat)))
  finishArith ft mode [s] 0 p

end Sys2Proof.Machine
end

