-- ==== Sys2Proof/WellFormed.lean ====
section
/-! DEFINITION. Which field values an instruction word may hold (R77, R81 to R97 and the instruction chapters): the part of check
0x09 of R99 that needs the word alone. What needs the launch, the neighbouring words or the widths is checked when the segment is
configured. Steps that are not words carry no fields to check. -/
namespace Sys2Proof

/-- PC is not the reserved value 0b11 (R81). -/
def wfA (f : FmtA) : Bool := f.pc != 3

/-- TYPE (MOD[4:2]) is one of the codes the instruction accepts (R88). -/
def tyIn (f : FmtA) (l : List Nat) : Bool := l.contains (f.mod.extractLsb' 2 3).toNat

/-- MOD[1:0] is one of the values the instruction gives a meaning (R89). -/
def flagIn (f : FmtA) (l : List Nat) : Bool := l.contains (f.mod.extractLsb' 0 2).toNat

/-- A word that consumes no port b holds S = 0xFF (R77, R83). -/
def noB (f : FmtA) : Bool := f.s == 0xFF

/-- The 135 legal pairs of `cvt` (R97). -/
def cvtLegal (src dst : Nat) : Bool :=
  src != dst &&
  ((src ≤ 3 && dst ≤ 8) || (4 ≤ src && src ≤ 8 && dst ≤ 3) || (src == 9 && [0, 1, 3].contains dst) ||
   ([1, 3].contains src && dst == 9) || (src ≤ 3 && 10 ≤ dst && dst ≤ 15) || (10 ≤ src && src ≤ 15 && dst ≤ 3) ||
   (10 ≤ src && src ≤ 15 && 10 ≤ dst && dst ≤ 15))

/-- Types of a collective: class 0 takes integer codes 0 to 3; class 1 takes f32 and f64, and only where `arith` holds (R352). -/
def collType (f : FmtA) (arith : Bool) : Bool :=
  if f.mod.getLsbD 0 then tyIn f [0, 1] && arith else tyIn f [0, 1, 2, 3]

/-- MOD[2:0] of a format M word is one of the listed codes (R91, R250). -/
def widthIn (f : FmtM) (l : List Nat) : Bool := l.contains (f.mod.extractLsb' 0 3).toNat

/-- G is 0 (R91). -/
def noG (f : FmtM) : Bool := !f.mod.getLsbD 3

/-- A register number of the map of R359. -/
def ctlNumber (n : Nat) : Bool := n ≤ 0x10 || (0x80 ≤ n && n ≤ 0xFF)

/-- SLOT is 0 when RES = 0, and even when the result is 64 bits (R271, R345). -/
def wfResult (f : FmtT) (wide : Bool) : Bool :=
  if f.mod.getLsbD 5 then !wide || f.slot.getLsbD 0 == false else f.slot == 0

/-- The fields of an atomic (R271); `wide` says its type has 8 bytes. -/
def wfAtomic (f : FmtT) (wide : Bool) : Bool :=
  [1, 2, 3, 4].contains f.scope.toNat && (f.scope != 1 || (f.buf == 0 && f.mod.getLsbD 4 == false)) && wfResult f wide

/-- KIND and the unit range of `tclaim`, `trel` and `tzero` (R300). -/
def wfUnits (f : FmtE) (kinds : List Nat) : Bool :=
  f.x.toNat % 16 == 0 && kinds.contains (f.x.toNat / 16) &&
  f.slot.toNat + f.z.toNat ≤ (if f.x.toNat / 16 == 0 then 63 else if f.x.toNat / 16 == 1 then 15 else 7)

/-- The format codes of `mma` (R313). -/
def mmaCode (z : Nat) : Bool := z ≤ 4 || (0x10 ≤ z && z ≤ 0x1F)

/-- The fields of `tacst` (R300, R318). -/
def wfTacst (f : FmtE) : Bool :=
  let kind := f.x.toNat / 16
  let unit := f.x.toNat % 16
  (kind == 1 || (kind == 2 && unit ≤ 7)) && f.y.toNat ≤ 1 && f.z.toNat ≤ 5 && (kind == 1 || 2 ≤ f.z.toNat) &&
  (f.y == 0 || [1, 3, 4].contains f.z.toNat)

/-- The field values of a word are legal, as far as the word alone decides it (check 0x09 of R99). The group descriptor on port b of `qnt` and `dqnt`
(R221) is 32 bits beside a q8 code, not a q8 datum itself, so R83 does not bar S there. [DEDUCED, log entry 76] -/
def Instr.wellFormed (i : Instr) : Bool :=
  match i with
  | .signalWriteObserved .. => true
  | .recordReachesHead .. => true
  | .launchRelease .. => true
  | .groupHandout .. => true
  | .groupStart .. => true
  | .shapeSourceTimeout .. => true
  | .squashZeroFill .. => true
  | .groupRetire .. => true
  | .completionDecrement .. => true
  | .notifyEntryArm .. => true
  | .hostNotificationMessage .. => true
  | .bullpenFill .. => true
  | .placementSlotFree .. => true
  | .placementDrain .. => true
  | .threadAdmit .. => true
  | .stageReentry .. => true
  | .loadReturn .. => true
  | .threadCommit .. => true
  | .atomicResultLand .. => true
  | .deferredSuccessorMove .. => true
  | .pageWalk .. => true
  | .fuDone .. => true
  | .dugoutEvict .. => true
  | .writePlacement .. => true
  | .gaAcknowledge .. => true
  | .ackRetry .. => true
  | .ackLossResolution .. => true
  | .peerWritePerform .. => true
  | .peerFlowRefused .. => true
  | .copyStart .. => true
  | .copyLineWrite .. => true
  | .copyComplete .. => true
  | .volleyPermit .. => true
  | .tileOpFire .. => true
  | .accumulatorStoreDone .. => true
  | .tfenceStatusLand .. => true
  | .barrierStall .. => true
  | .heldCommitStall .. => true
  | .eventQueueRetry .. => true
  | .fcmdResume .. => true
  | .fcmdRedirect .. => true
  | .fcmdKillThread .. => true
  | .fcmdKillGroup .. => true
  | .fcmdWriteSlot .. => true
  | .fcmdRepost .. => true
  | .fcmdResumeKind .. => true
  | .fcmdStep .. => true
  | .dhaltSet .. => true
  | .dhaltClear .. => true
  | .quiesceRequest .. => true
  | .quiescePhaseAdvance .. => true
  | .dieCutAnswer .. => true
  | .quiesceResume .. => true
  | .imageStatusLand .. => true
  | .drstGo .. => true
  | .dieResetWriteBack .. => true
  | .dieResetOffline .. => true
  | .dieReadmit .. => true
  | .ctxCreate .. => true
  | .ctxCreateSupervisor .. => true
  | .ctxDestroy .. => true
  | .objRegister .. => true
  | .objUnregister .. => true
  | .vctWrite .. => true
  | .sigtNWrite .. => true
  | .registerWrite .. => true
  | .attestationRequest .. => true
  | .attestationReportDone .. => true
  | .firmwareUpdate .. => true
  | .lifeCycleAdvance .. => true
  | .powerOnStart .. => true
  | .monitorEnable .. => true
  | .monitorSnap .. => true
  | .monitorSample .. => true
  | .clockStep .. => true
  | .patrolScrub .. => true
  | .uncorrectableError .. => true
  | .hbmRowRemap .. => true
  | .pseudoChannelSwitch .. => true
  | .wavelengthSpare .. => true
  | .fibreFailure .. => true
  | .cacheWaySpare .. => true
  | .thlLaneFailure .. => true
  | .hostWrite .. => true
  | .hostRead .. => true
  | .nop f => f.ctl == 0 && f.t == 0 && f.mod == 0
  | .next f => f.sb == 0
  | .nextp _ => true
  | .nextpu _ => true
  | .nexti f => f.ctl == 0 && f.t == 0 && f.mod == 0
  | .call _ => true
  | .calli f => f.t == 0 && decide (f.mod.toNat ≤ 15)
  | .ret f => f.ctl == 0 && f.t == 0 && f.mod == 0
  | .exit f => f.ctl == 0 && f.t == 0 && f.mod == 0
  | .bar f => f.t == 0 && f.mod == 0 && decide (f.ctl.toNat ≤ 3)
  | .yield f => f.ctl == 0 && f.t == 0 && f.mod == 0
  | .spawn f => decide (f.sb.toNat ≤ 3)
  | .gwait f => f.t == 0 && f.mod == 0 && [2, 3, 4].contains f.ctl.toNat
  | .trap f => f.t == 0 && f.mod == 0
  | .brk f => f.t == 0 && f.mod == 0
  | .launch f => f.t == 0 && f.mod == 0 && decide (f.ctl.toNat ≤ 15)
  | .himm _ => true
  | .hoff _ => true
  | .htgt f => f.payload.extractLsb' 0 6 == 0
  | .hsch f => decide (f.payload.toNat ≤ 3)
  | .add f => wfA f && tyIn f [0, 1, 2, 3, 4, 5, 6, 7] && flagIn f [0]
  | .sub f => wfA f && tyIn f [0, 1, 2, 3, 4, 5, 6, 7] && flagIn f [0]
  | .mul f => wfA f && tyIn f [0, 1, 2, 3, 4, 5, 6, 7] && flagIn f [0]
  | .mulhi f => wfA f && tyIn f [0, 1, 2, 3, 4, 5, 6, 7] && flagIn f [0]
  | .mad f => wfA f && tyIn f [0, 1, 2, 3, 4, 5, 6, 7] && flagIn f [0]
  | .div f => wfA f && tyIn f [0, 1, 2, 3] && flagIn f [0]
  | .rem f => wfA f && tyIn f [0, 1, 2, 3] && flagIn f [0]
  | .min f => wfA f && tyIn f [0, 1, 2, 3, 4, 5, 6, 7] && flagIn f [0]
  | .max f => wfA f && tyIn f [0, 1, 2, 3, 4, 5, 6, 7] && flagIn f [0]
  | .abs f => wfA f && noB f && tyIn f [0, 2, 4, 6] && flagIn f [0, 1]
  | .neg f => wfA f && noB f && tyIn f [0, 1, 2, 3, 4, 5, 6, 7] && (flagIn f [0] || (flagIn f [1] && tyIn f [0, 2, 4, 6]))
  | .and f => wfA f && tyIn f [0, 1, 2, 3] && flagIn f [0]
  | .or f => wfA f && tyIn f [0, 1, 2, 3] && flagIn f [0]
  | .xor f => wfA f && tyIn f [0, 1, 2, 3] && flagIn f [0]
  | .not f => wfA f && noB f && tyIn f [0, 1, 2, 3] && flagIn f [0]
  | .andn f => wfA f && tyIn f [0, 1, 2, 3] && flagIn f [0]
  | .shl f => wfA f && tyIn f [0, 1, 2, 3, 4, 5, 6, 7] && flagIn f [0]
  | .shr f => wfA f && tyIn f [0, 1, 2, 3, 4, 5, 6, 7] && flagIn f [0]
  | .sar f => wfA f && tyIn f [0, 1, 2, 3, 4, 5, 6, 7] && flagIn f [0]
  | .rotl f => wfA f && tyIn f [0, 1, 2, 3, 4, 5, 6, 7] && flagIn f [0]
  | .popc f => wfA f && noB f && tyIn f [0, 1, 2, 3] && flagIn f [0]
  | .clz f => wfA f && noB f && tyIn f [0, 1, 2, 3] && flagIn f [0]
  | .ctz f => wfA f && noB f && tyIn f [0, 1, 2, 3] && flagIn f [0]
  | .brev f => wfA f && noB f && tyIn f [0, 1, 2, 3] && flagIn f [0]
  | .bfx f => wfA f && tyIn f [0, 1, 2, 3] && flagIn f [0]
  | .bfi f => wfA f && tyIn f [0, 1, 2, 3] && flagIn f [0]
  | .cmp f => decide (f.cond.toNat ≤ 5)
  | .sel f => f.pc == 0 && tyIn f [0, 1, 2, 3] && flagIn f [0]
  | .adds f => wfA f && tyIn f [0, 1, 2, 3, 4, 5, 6, 7] && flagIn f [0]
  | .subs f => wfA f && tyIn f [0, 1, 2, 3, 4, 5, 6, 7] && flagIn f [0]
  | .dot4 f => wfA f && tyIn f [6, 7] && flagIn f [0, 1]
  | .dot2 f => wfA f && tyIn f [4, 5] && flagIn f [0, 1]
  | .ixa f => wfA f && tyIn f [0, 1, 2, 3]
  | .fsh f => wfA f && tyIn f [0, 1, 2, 3] && flagIn f [0]
  | .perm f => wfA f && tyIn f [0, 1] && flagIn f [0]
  | .lop3 f => wfA f && tyIn f [0, 1, 2, 3] && flagIn f [0]
  | .fadd f => wfA f && tyIn f [0, 1, 2, 3, 4, 5]
  | .fsub f => wfA f && tyIn f [0, 1, 2, 3, 4, 5]
  | .fmul f => wfA f && tyIn f [0, 1, 2, 3, 4, 5]
  | .fma f => wfA f && tyIn f [0, 1, 2, 3, 4, 5]
  | .fmin f => wfA f && tyIn f [0, 1, 2, 3, 4, 5] && flagIn f [0]
  | .fmax f => wfA f && tyIn f [0, 1, 2, 3, 4, 5] && flagIn f [0]
  | .fminn f => wfA f && tyIn f [0, 1, 2, 3, 4, 5] && flagIn f [0]
  | .fmaxn f => wfA f && tyIn f [0, 1, 2, 3, 4, 5] && flagIn f [0]
  | .fabs f => wfA f && noB f && tyIn f [0, 1, 2, 3, 4, 5] && flagIn f [0]
  | .fneg f => wfA f && noB f && tyIn f [0, 1, 2, 3, 4, 5] && flagIn f [0]
  | .fcmp f => decide (f.cond.toNat ≤ 13) && decide (f.ty.toNat ≤ 5)
  | .fclass f => wfA f && noB f && tyIn f [0, 1, 2, 3, 4, 5] && flagIn f [0]
  | .fdiv f => wfA f && tyIn f [0, 1, 2, 3]
  | .fsqrt f => wfA f && noB f && tyIn f [0, 1, 2, 3]
  | .frnd f => wfA f && noB f && tyIn f [0, 1, 2, 3, 4, 5]
  | .ffrac f => wfA f && noB f && tyIn f [0, 1, 2, 3, 4, 5] && flagIn f [0]
  | .fscale f => wfA f && tyIn f [0, 1, 2, 3]
  | .fgetx f => wfA f && noB f && tyIn f [0, 1, 2, 3] && flagIn f [0]
  | .fsign f => wfA f && tyIn f [0, 1, 2, 3, 4, 5] && flagIn f [0]
  | .fdot2 f => wfA f && tyIn f [4, 5]
  | .cvt f => wfA f && cvtLegal (f.s.toNat / 16) (f.s.toNat % 16) && f.mod.extractLsb' 3 2 == 0
  | .cvtsr f => wfA f && [0x12, 0x13, 0x14, 0x15].contains f.s.toNat && f.mod &&& 0x1B == 0
  | .pack f => wfA f && tyIn f [4, 5]
  | .unpack f => wfA f && tyIn f [4, 5] && flagIn f [0]
  | .qnt f => wfA f && tyIn f [0]
  | .dqnt f => wfA f && tyIn f [0, 2, 3]
  | .rcp f => wfA f && noB f && tyIn f [0, 1, 2, 3] && flagIn f [0]
  | .rsq f => wfA f && noB f && tyIn f [0, 1, 2, 3] && flagIn f [0]
  | .ex2 f => wfA f && noB f && tyIn f [0, 1, 2, 3] && flagIn f [0]
  | .lg2 f => wfA f && noB f && tyIn f [0, 1, 2, 3] && flagIn f [0]
  | .sinpi f => wfA f && noB f && tyIn f [0, 2, 3] && flagIn f [0]
  | .cospi f => wfA f && noB f && tyIn f [0, 2, 3] && flagIn f [0]
  | .tanh f => wfA f && noB f && tyIn f [0, 2, 3] && flagIn f [0]
  | .sigm f => wfA f && noB f && tyIn f [0, 2, 3] && flagIn f [0]
  | .rd _ => true
  | .wr f => f.t == 0 && f.u == 0
  | .mov f => f.pc != 3 && (f.mod == 0 || f.mod == 1)
  | .rdsys f => decide (f.slot.toNat ≤ 13)
  | .xput f => f.t == 0 && f.u == 0 && decide (f.slot.toNat ≤ 7)
  | .xget f => decide (f.slot.toNat ≤ 7)
  | .xclr f => f.t == 0 && f.u == 0 && decide (f.slot.toNat ≤ 7)
  | .gred f => wfA f && decide (f.s.toNat ≤ 5) && f.mod.getLsbD 1 == false && collType f (decide (f.s.toNat ≤ 2))
  | .gscan f => wfA f && decide (f.s.toNat ≤ 5) && f.mod.getLsbD 1 == false && collType f true
  | .vote f => wfA f && decide (f.s.toNat ≤ 2) && f.mod == 0
  | .ld f => f.pc != 3 && widthIn f [0, 1, 2, 3, 4, 5, 6] && noG f
  | .st f => f.pc != 3 && widthIn f [0, 1, 2, 3, 4] && f.t == 0
  | .lds f => f.pc != 3 && widthIn f [0, 1, 2, 3, 4, 5, 6] && noG f && f.buf == 0
  | .sts f => f.pc != 3 && widthIn f [0, 1, 2, 3, 4] && f.t == 0 && noG f && f.buf == 0
  | .ldsn f => f.pc != 3 && widthIn f [0, 1, 2, 3, 4, 5, 6] && noG f && f.buf == 0
  | .ldc f => f.pc != 3 && widthIn f [0, 1, 2, 3, 4, 5, 6] && noG f
  | .pf f => f.pc != 3 && widthIn f [0, 1] && f.t == 0 && noG f
  | .ldacq f => f.pc != 3 && widthIn f [2, 3] && noG f
  | .strel f => f.pc != 3 && widthIn f [2, 3] && f.t == 0
  | .fence f => f.t == 0 && f.mod == 0 && decide (f.ctl.toNat / 8 ≤ 2) && [1, 2, 3, 4].contains (f.ctl.toNat % 8)
  | .cwb f => f.pc != 3 && widthIn f [0, 1] && f.t == 0 && noG f
  | .zfill f => f.pc != 3 && widthIn f [0, 1, 2, 3] && f.t == 0
  | .pld f => f.pc != 3 && widthIn f [0, 1, 2, 3, 4, 5, 6] && noG f
  | .pst f => f.pc != 3 && widthIn f [0, 1, 2, 3, 4] && f.t == 0 && noG f
  | .aadd f => wfAtomic f (decide (2 ≤ (f.mod.extractLsb' 0 2).toNat))
  | .amin f => wfAtomic f (decide (2 ≤ (f.mod.extractLsb' 0 2).toNat))
  | .amax f => wfAtomic f (decide (2 ≤ (f.mod.extractLsb' 0 2).toNat))
  | .aand f => wfAtomic f (decide (2 ≤ (f.mod.extractLsb' 0 2).toNat))
  | .aor f => wfAtomic f (decide (2 ≤ (f.mod.extractLsb' 0 2).toNat))
  | .axor f => wfAtomic f (decide (2 ≤ (f.mod.extractLsb' 0 2).toNat))
  | .axchg f => wfAtomic f (decide (2 ≤ (f.mod.extractLsb' 0 2).toNat))
  | .acas f => wfAtomic f (decide (2 ≤ (f.mod.extractLsb' 0 2).toNat))
  | .afadd f => wfAtomic f (f.mod.extractLsb' 0 2 == 1)
  | .sigsub f => f.buf == 0 && [2, 3, 4].contains f.scope.toNat && f.mod &&& 0x13 == 0 && wfResult f true
  | .sigwait f => f.buf == 0 && [2, 3, 4].contains f.scope.toNat && f.mod &&& 0x13 == 0 && wfResult f true && decide ((f.mod.extractLsb' 2 2).toNat ≤ 1)
  | .mbox f => f.buf == 0 && [2, 3, 4].contains f.scope.toNat && f.mod &&& 0x33 == 0 && f.slot == 0
  | .tcopy f => decide (f.y.toNat ≤ 61) && decide (f.x.toNat ≤ 15) && (f.x.getLsbD 3 || decide (f.z.toNat ≤ 3))
  | .tstore f => decide (f.y.toNat ≤ 61) && decide (f.x.toNat ≤ 15) && (f.x.getLsbD 3 || decide (f.z.toNat ≤ 3))
  | .tcopyo f => decide (f.y.toNat ≤ 61) && decide (f.x.toNat ≤ 7) && decide (f.z.toNat ≤ 7)
  | .tcopyr f => decide (f.y.toNat ≤ 61) && decide (f.x.toNat ≤ 7) && decide (f.z.toNat / 16 ≤ 2) && decide (f.z.toNat % 16 ≤ 3)
  | .tcast f => decide (f.y.toNat ≤ 61) && decide (f.x.toNat ≤ 7)
  | .sfree f => f.slot == 0 && f.x == 0 && f.y == 0 && decide (f.z.toNat ≤ 15)
  | .spres f => f.x == 0 && f.y == 0 && decide (f.z.toNat ≤ 15)
  | .tgath f => decide (f.y.toNat ≤ 61) && decide (f.x.toNat ≤ 7) && decide (1 ≤ f.z.toNat) && decide (f.z.toNat ≤ 3)
  | .tscat f => decide (f.y.toNat ≤ 61) && decide (f.x.toNat ≤ 7) && decide (1 ≤ f.z.toNat) && decide (f.z.toNat ≤ 3)
  | .tclaim f => wfUnits f [0, 1, 2] && f.y == 0
  | .trel f => wfUnits f [0, 1, 2] && f.y == 0
  | .mma f => decide (f.y.toNat ≤ 15) && mmaCode f.z.toNat
  | .mmi f => decide (f.y.toNat ≤ 15) && decide (0x20 ≤ f.z.toNat) && decide (f.z.toNat ≤ 0x27)
  | .mmg f => decide (f.y.toNat ≤ 7) && (f.z == 4 || (decide (0x10 ≤ f.z.toNat) && decide (f.z.toNat ≤ 0x1F)) || (decide (0x24 ≤ f.z.toNat) && decide (f.z.toNat ≤ 0x27)))
  | .tsacc f => f.slot == 0 && decide (f.x.toNat % 8 ≤ f.x.toNat / 8) && decide (f.y.toNat ≤ 15) && f.z == 0
  | .tzero f => wfUnits f [1, 2] && f.y == 0
  | .tacst f => wfTacst f
  | .tacld f => decide (f.x.toNat ≤ 15) && f.y == 0 && decide (f.z.toNat ≤ 5)
  | .tfence f => f.x == 0 && f.y == 0 && f.z == 0
  | .tmode f => f.slot == 0 && f.x == 0 && f.y == 0 && decide (f.z.toNat ≤ 1)
  | .rdctl f => f.mod == 0 && ctlNumber f.ctl.toNat
  | .wrctl f => f.t == 0 && f.mod == 0 && ctlNumber f.ctl.toNat && f.ctl != 0
  | .tlbinv f => f.ctl == 0 && f.t == 0 && decide (f.mod.toNat ≤ 2)
  | .cinv f => f.ctl == 0 && f.t == 0 && decide (f.mod.toNat ≤ 1)
  | .evpost f => f.t == 0 && f.mod == 0
  | .perf f => f.mod == 0 && decide (f.ctl.toNat ≤ 4)
  | .ctxsv f => f.ctl == 0 && f.t == 0 && decide (f.mod.toNat ≤ 63)
  | .ctxld f => f.ctl == 0 && f.t == 0 && decide (f.mod.toNat ≤ 63)
  | .powerLoss .. => true
  | .writePerformedInL2 .. => true
  | .peerWriteAcknowledged .. => true
  | .hostWriteAccepted .. => true
  | .peerReadRequest .. => true
  | .bullpenProtectionExpiry .. => true

end Sys2Proof
end

