-- ==== Sys2Proof/Machine/Operands.lean ====
section
/-! DEFINITION. Operand forms: which ports a word consumes and what width each has, what token it sends, what its selector supplies
(R77 to R87, R181, R206, R251, R301), which element it takes and whether it is long-latency (R145, R146), and the system values'
widths (R201). -/
namespace Sys2Proof

/-- TYPE of a format A word (R88). -/
def FmtA.ty (f : FmtA) : Nat := (f.mod.extractLsb' 2 3).toNat
/-- MOD[1:0] of a format A word: rounding mode or flag (R89). -/
def FmtA.flag (f : FmtA) : Nat := (f.mod.extractLsb' 0 2).toNat
/-- The width code MOD[2:0] of a format M word (R251). -/
def FmtM.wcode (f : FmtM) : Nat := (f.mod.extractLsb' 0 3).toNat
/-- G of a format M word (R91). -/
def FmtM.ga (f : FmtM) : Bool := f.mod.getLsbD 3

namespace Machine

/-- The F32 column, C0 to C15 (R85). -/
def constF320 : List Nat :=
  [0x3B800000, 0x3C000000, 0x3C800000, 0x3D000000,
   0x3D800000, 0x3E000000, 0x3E800000, 0x3F000000,
   0x3F800000, 0x40000000, 0x40800000, 0x41000000,
   0x41800000, 0x42000000, 0x42800000, 0x43000000]

/-- The F32 column, C16 to C31 (R85). -/
def constF321 : List Nat :=
  [0x42C80000, 0x42FE0000, 0x437F0000, 0x43800000,
   0x447A0000, 0x447FC000, 0x44800000, 0x45000000,
   0x457FF000, 0x45800000, 0x461C4000, 0x46FFFE00,
   0x477FFF00, 0x7FFFFFFF, 0x80000000, 0x007FFFFF]

/-- The F32 column, C32 to C47 (R85). -/
def constF322 : List Nat :=
  [0x3EAAAAAB, 0x3E4CCCCD, 0x3E2AAAAB, 0x3E124925,
   0x3DE38E39, 0x3DCCCCCD, 0x3DAAAAAB, 0x3D888889,
   0x3D70F0F1, 0x3D4CCCCD, 0x3D2AAAAB, 0x3D23D70A,
   0x3CA3D70A, 0x3C23D70A, 0x3C03126F, 0x3A83126F]

/-- The F32 column, C48 to C63 (R85). -/
def constF323 : List Nat :=
  [0x40490FDB, 0x40C90FDB, 0x3FC90FDB, 0x3F490FDB,
   0x3F317218, 0x3FB8AA3B, 0x40549A78, 0x402DF854,
   0x3FB504F3, 0x3F3504F3, 0x80000000, 0x7F800000,
   0xFF800000, 0x7FC00000, 0x7F7FFFFF, 0x00800000]

/-- The F32 column (R85). -/
def constF32 : List Nat := constF320 ++ constF321 ++ constF322 ++ constF323

/-- The F64 column, C0 to C15 (R85). -/
def constF640 : List Nat :=
  [0x3F70000000000000, 0x3F80000000000000, 0x3F90000000000000, 0x3FA0000000000000,
   0x3FB0000000000000, 0x3FC0000000000000, 0x3FD0000000000000, 0x3FE0000000000000,
   0x3FF0000000000000, 0x4000000000000000, 0x4010000000000000, 0x4020000000000000,
   0x4030000000000000, 0x4040000000000000, 0x4050000000000000, 0x4060000000000000]

/-- The F64 column, C16 to C31 (R85). -/
def constF641 : List Nat :=
  [0x4059000000000000, 0x405FC00000000000, 0x406FE00000000000, 0x4070000000000000,
   0x408F400000000000, 0x408FF80000000000, 0x4090000000000000, 0x40A0000000000000,
   0x40AFFE0000000000, 0x40B0000000000000, 0x40C3880000000000, 0x40DFFFC000000000,
   0x40EFFFE000000000, 0x7FFFFFFFFFFFFFFF, 0x8000000000000000, 0x000FFFFFFFFFFFFF]

/-- The F64 column, C32 to C47 (R85). -/
def constF642 : List Nat :=
  [0x3FD5555555555555, 0x3FC999999999999A, 0x3FC5555555555555, 0x3FC2492492492492,
   0x3FBC71C71C71C71C, 0x3FB999999999999A, 0x3FB5555555555555, 0x3FB1111111111111,
   0x3FAE1E1E1E1E1E1E, 0x3FA999999999999A, 0x3FA5555555555555, 0x3FA47AE147AE147B,
   0x3F947AE147AE147B, 0x3F847AE147AE147B, 0x3F80624DD2F1A9FC, 0x3F50624DD2F1A9FC]

/-- The F64 column, C48 to C63 (R85). -/
def constF643 : List Nat :=
  [0x400921FB54442D18, 0x401921FB54442D18, 0x3FF921FB54442D18, 0x3FE921FB54442D18,
   0x3FE62E42FEFA39EF, 0x3FF71547652B82FE, 0x400A934F0979A371, 0x4005BF0A8B145769,
   0x3FF6A09E667F3BCD, 0x3FE6A09E667F3BCD, 0x8000000000000000, 0x7FF0000000000000,
   0xFFF0000000000000, 0x7FF8000000000000, 0x7FEFFFFFFFFFFFFF, 0x0010000000000000]

/-- The F64 column (R85). -/
def constF64 : List Nat := constF640 ++ constF641 ++ constF642 ++ constF643

/-- The I32 column, C0 to C15 (R85). -/
def constI320 : List Nat :=
  [0x3B800000, 0x3C000000, 0x3C800000, 0x3D000000,
   0x3D800000, 0x3E000000, 0x3E800000, 0x3F000000,
   0x00000001, 0x00000002, 0x00000004, 0x00000008,
   0x00000010, 0x00000020, 0x00000040, 0x00000080]

/-- The I32 column, C16 to C31 (R85). -/
def constI321 : List Nat :=
  [0x00000064, 0x0000007F, 0x000000FF, 0x00000100,
   0x000003E8, 0x000003FF, 0x00000400, 0x00000800,
   0x00000FFF, 0x00001000, 0x00002710, 0x00007FFF,
   0x0000FFFF, 0x7FFFFFFF, 0x80000000, 0x007FFFFF]

/-- The I32 column, C32 to C47 (R85). -/
def constI322 : List Nat :=
  [0x3EAAAAAB, 0x3E4CCCCD, 0x3E2AAAAB, 0x3E124925,
   0x3DE38E39, 0x3DCCCCCD, 0x3DAAAAAB, 0x3D888889,
   0x3D70F0F1, 0x3D4CCCCD, 0x3D2AAAAB, 0x3D23D70A,
   0x3CA3D70A, 0x3C23D70A, 0x3C03126F, 0x3A83126F]

/-- The I32 column, C48 to C63 (R85). -/
def constI323 : List Nat :=
  [0x40490FDB, 0x40C90FDB, 0x3FC90FDB, 0x3F490FDB,
   0x3F317218, 0x3FB8AA3B, 0x40549A78, 0x402DF854,
   0x3FB504F3, 0x3F3504F3, 0x80000000, 0x7F800000,
   0xFF800000, 0x7FC00000, 0x7F7FFFFF, 0x00800000]

/-- The I32 column (R85). -/
def constI32 : List Nat := constI320 ++ constI321 ++ constI322 ++ constI323

/-- The kind of element a word takes (R145). -/
inductive Element where
  | none
  | ce
  | cePair
  | me
  | sfe
  | be
deriving DecidableEq, Repr

/-- How S becomes an operand (R84): integers of 32 bits, i64, n64, or a float type code of R88. -/
inductive SelType where
  | int32
  | int64 (signed : Bool)
  | float (ty : Nat)
deriving DecidableEq, Repr

/-- The form of a word: data ports consumed with their widths (0: as wide as the producer's token), whether it has p as its own
condition, PC, whether S supplies port b, the width of its token (none: no token; 0: as wide as its targets), its own targets,
element, long latency, and whether it carries an ordinal. -/
structure Shape where
  ins : List (Nat × Nat)
  ownP : Bool
  pc : Nat
  sel : Option (Nat × SelType)
  out : Option Nat
  targets : List Nat
  elem : Element
  long : Bool
  ordinal : Bool
deriving DecidableEq, Repr

/-- Token width of an integer type (R182). -/
def intWidth (ty : Nat) : Nat := if ty == 2 || ty == 3 then 64 else 32
/-- Token width of a float type (R206). -/
def floatWidth (ty : Nat) : Nat := if ty == 1 then 64 else 32
/-- How S is read for an integer type (R84). -/
def intSel (ty : Nat) : SelType := if ty == 2 then .int64 true else if ty == 3 then .int64 false else .int32

/-- Access width in bytes of a memory width code (R251). -/
def accessBytes (code : Nat) : Nat :=
  match code with
  | 0 => 1
  | 1 => 2
  | 2 => 4
  | 3 => 8
  | 4 => 16
  | 5 => 1
  | _ => 2
/-- Token width of a memory width code (R251). -/
def accessWidth (code : Nat) : Nat := if code == 3 then 64 else if code == 4 then 128 else 32
/-- Block size in bytes of a `zfill` code (R270). -/
def zfillBytes (code : Nat) : Nat :=
  match code with
  | 0 => 64
  | 1 => 256
  | 2 => 4096
  | _ => 65536

/-- A format A word on integer operands. -/
def shapeInt (f : FmtA) (ins : List (Nat × Nat)) (sel : Bool) (out : Nat) : Shape :=
  ⟨ins, false, f.pc.toNat, if sel then some (f.s.toNat, intSel f.ty) else none, some out, [f.t.toNat],
   if intWidth f.ty == 64 then .cePair else .ce, false, false⟩

/-- A format A word on floating-point operands on a CE. -/
def shapeFloat (f : FmtA) (ins : List (Nat × Nat)) (sel : Option SelType) (out : Nat) : Shape :=
  ⟨ins, false, f.pc.toNat, sel.map fun t => (f.s.toNat, t), some out, [f.t.toNat],
   if f.ty == 1 then .cePair else .ce, false, false⟩

/-- A format A word on an SFE; long-latency in f64, and always where `long` (R146, R209). -/
def shapeSfe (f : FmtA) (ins : List (Nat × Nat)) (sel : Option SelType) (out : Nat) (long : Bool) : Shape :=
  ⟨ins, false, f.pc.toNat, sel.map fun t => (f.s.toNat, t), some out, [f.t.toNat], .sfe, long || f.ty == 1, false⟩

/-- Two equal operands a and b. -/
def ab (w : Nat) : List (Nat × Nat) := [(0, w), (1, w)]
/-- Three equal operands. -/
def abc (w : Nat) : List (Nat × Nat) := [(0, w), (1, w), (2, w)]

/-- Integer a, b with a selector. -/
def shapeAB (f : FmtA) : Shape := shapeInt f (ab (intWidth f.ty)) true (intWidth f.ty)
/-- Integer a, b, c with a selector. -/
def shapeABC (f : FmtA) : Shape := shapeInt f (abc (intWidth f.ty)) true (intWidth f.ty)
/-- Integer a alone. -/
def shapeA1 (f : FmtA) : Shape := shapeInt f [(0, intWidth f.ty)] false (intWidth f.ty)
/-- Float a, b with a selector. -/
def shapeFAB (f : FmtA) : Shape := shapeFloat f (ab (floatWidth f.ty)) (some (.float f.ty)) (floatWidth f.ty)
/-- Float a alone. -/
def shapeFA (f : FmtA) : Shape := shapeFloat f [(0, floatWidth f.ty)] none (floatWidth f.ty)
/-- A special function. -/
def shapeSfu (f : FmtA) : Shape := shapeSfe f [(0, floatWidth f.ty)] none (floatWidth f.ty) false

/-- A format M word: ports, token, long latency. -/
def shapeM (f : FmtM) (ins : List (Nat × Nat)) (out : Option Nat) (long : Bool) : Shape :=
  ⟨ins, false, f.pc.toNat, none, out, if out.isSome then [f.t.toNat] else [], .me, long, true⟩

/-- A format S word without a token. -/
def shapeS (ins : List (Nat × Nat)) (ordinal : Bool) (el : Element) : Shape := ⟨ins, false, 0, none, none, [], el, false, ordinal⟩

/-- The width of an atomic's or signal word's operand (R271). -/
def atomicWidth (f : FmtT) (float : Bool) : Nat :=
  let ty := (f.mod.extractLsb' 0 2).toNat
  if float then (if ty == 1 then 64 else 32) else if 2 ≤ ty then 64 else 32

/-- A format T word on an ME. -/
def shapeT (ins : List (Nat × Nat)) : Shape := ⟨ins, false, 0, none, none, [], .me, false, true⟩

/-- The coordinate and place ports of a copy by CW (R301). -/
def copyPorts (cw : Nat) : List (Nat × Nat) :=
  match cw with
  | 0 => [(0, 32), (2, 32)]
  | 1 => [(0, 64), (2, 32)]
  | 2 => [(0, 64), (1, 64), (2, 32)]
  | _ => [(0, 64), (1, 64), (2, 64)]

/-- A format E word. -/
def shapeE (ins : List (Nat × Nat)) : Shape := shapeS ins true .be

/-- A special function of `gred`, `gscan`: token of the operand's width (R352). -/
def collWidth (f : FmtA) : Nat :=
  if f.mod.getLsbD 0 then (if f.ty == 1 then 64 else 32) else intWidth f.ty

/-- The width of a control register (R359). -/
def ctlWidth (n : Nat) : Nat := if [3, 4, 5, 7, 8, 9, 0xA, 0xF].contains n then 64 else 32

/-- The width of a system value (R201). -/
def sysWidth (n : Nat) : Nat := if n == 13 then 64 else 32

/-- The width of a monitor of `perf` (R363). -/
def perfWidth (n : Nat) : Nat := if n == 1 || n == 2 then 64 else 32

/-- The form of every instruction word; steps that are not words have none. -/
def shape (i : Instr) : Option Shape :=
  match i with
  | .add f | .sub f | .mul f | .mulhi f | .div f | .rem f | .min f | .max f | .adds f | .subs f
  | .and f | .or f | .xor f | .andn f | .shl f | .shr f | .sar f | .rotl f | .ixa f => some (shapeAB f)
  | .bfx f => some (shapeAB f)
  | .mad f | .bfi f | .fsh f | .perm f => some (shapeABC f)
  | .abs f | .neg f | .not f | .popc f | .clz f | .ctz f | .brev f => some (shapeA1 f)
  | .lop3 f => some (shapeInt f (abc (intWidth f.ty)) false (intWidth f.ty))
  | .dot4 f | .dot2 f => some (shapeInt f (abc 32) true 32)
  | .cmp f => some ⟨ab (intWidth f.ty.toNat), false, 0, some (f.s.toNat, intSel f.ty.toNat), some 32, [f.t.toNat],
      if intWidth f.ty.toNat == 64 then .cePair else .ce, false, false⟩
  | .sel f => some { shapeAB f with ownP := true, pc := 0 }
  | .fadd f | .fsub f | .fmul f | .fmin f | .fmax f | .fminn f | .fmaxn f | .fsign f => some (shapeFAB f)
  | .fma f => some (shapeFloat f (abc (floatWidth f.ty)) (some (.float f.ty)) (floatWidth f.ty))
  | .fabs f | .fneg f | .frnd f | .ffrac f => some (shapeFA f)
  | .fclass f | .fgetx f => some (shapeFloat f [(0, floatWidth f.ty)] none 32)
  | .fcmp f => some ⟨ab (floatWidth f.ty.toNat), false, 0, some (f.s.toNat, .float f.ty.toNat), some 32, [f.t.toNat],
      if f.ty.toNat == 1 then .cePair else .ce, false, false⟩
  | .fdiv f => some (shapeSfe f (ab (floatWidth f.ty)) (some (.float f.ty)) (floatWidth f.ty) true)
  | .fsqrt f => some (shapeSfe f [(0, floatWidth f.ty)] none (floatWidth f.ty) true)
  | .fdot2 f => some (shapeFloat f (abc 32) (some (.float f.ty)) 32)
  | .fscale f => some (shapeFloat f [(0, floatWidth f.ty), (1, 32)] (some .int32) (floatWidth f.ty))
  | .cvt f =>
    let a := if cvtWidth (f.s.toNat / 16) == 64 then 64 else 32
    let o := if cvtWidth (f.s.toNat % 16) == 64 then 64 else 32
    some ⟨[(0, a)], false, f.pc.toNat, none, some o, [f.t.toNat], if a == 64 || o == 64 then .cePair else .ce, false, false⟩
  | .cvtsr f => some ⟨[(0, 32), (2, 32)], false, f.pc.toNat, none, some 32, [f.t.toNat], .ce, false, false⟩
  | .pack f => some ⟨ab 32, false, f.pc.toNat, some (f.s.toNat, .float 0), some 32, [f.t.toNat], .ce, false, false⟩
  | .unpack f | .qnt f | .dqnt f => some ⟨ab 32, false, f.pc.toNat, some (f.s.toNat, .int32), some 32, [f.t.toNat], .ce, false, false⟩
  | .rcp f | .rsq f | .ex2 f | .lg2 f | .sinpi f | .cospi f | .tanh f | .sigm f => some (shapeSfu f)
  | .rd f => some ⟨[], false, 0, none, some 0, [f.t.toNat, f.u.toNat], .be, false, false⟩
  | .wr _ => some (shapeS [(0, 0)] false .be)
  | .mov f =>
    let w := if f.mod.getLsbD 0 then 64 else 32
    some ⟨[(0, w)], false, f.pc.toNat, none, some w, [f.t.toNat, f.u.toNat], if w == 64 then .cePair else .ce, false, false⟩
  | .rdsys f => some ⟨[], false, 0, none, some (sysWidth f.slot.toNat), [f.t.toNat, f.u.toNat], .be, false, false⟩
  | .xput _ | .xclr _ => some (shapeS [(0, 32)] false .be)
  | .xget f => some ⟨[(0, 32)], false, 0, none, some 32, [f.t.toNat, f.u.toNat], .be, false, false⟩
  | .gred f | .gscan f | .vote f =>
    some ⟨[(0, collWidth f)], false, f.pc.toNat, none, some (collWidth f), [f.t.toNat], .sfe, collWidth f == 64 && f.mod.getLsbD 0, false⟩
  | .ld f | .ldc f => some (shapeM f [(0, 32)] (some (accessWidth f.wcode)) true)
  | .lds f => some (shapeM f [(0, 32)] (some (accessWidth f.wcode)) true)
  | .ldsn f => some (shapeM f [(0, 32)] (some (accessWidth f.wcode)) false)
  | .ldacq f => some (shapeM f [(0, 32)] (some (accessWidth f.wcode)) true)
  | .pld f => some (shapeM f [(0, 64)] (some (accessWidth f.wcode)) true)
  | .st f | .sts f | .strel f => some (shapeM f [(0, 32), (1, accessWidth f.wcode)] none false)
  | .pst f => some (shapeM f [(0, 64), (1, accessWidth f.wcode)] none false)
  | .pf f | .cwb f | .zfill f => some (shapeM f [(0, 32)] none false)
  | .fence _ => some (shapeS [] true .me)
  | .aadd f | .amin f | .amax f | .aand f | .aor f | .axor f | .axchg f => some (shapeT [(0, 32), (1, atomicWidth f false)])
  | .acas f => some (shapeT [(0, 32), (1, atomicWidth f false), (2, atomicWidth f false)])
  | .afadd f => some (shapeT [(0, 32), (1, atomicWidth f true)])
  | .sigsub _ | .sigwait _ | .mbox _ => some (shapeT [(0, 32), (1, 64)])
  | .tcopy f | .tstore f | .tcopyo f | .tcopyr f | .tcast f => some (shapeE (copyPorts (f.z.toNat % 4)))
  | .tgath f | .tscat f => some (shapeE (copyPorts (f.z.toNat % 4)))
  | .spres _ => some (shapeE (ab 32))
  | .tclaim _ | .mma _ | .mmi _ | .mmg _ | .tacst _ | .tacld _ | .sfree _ | .trel _ | .tsacc _ | .tzero _ | .tfence _ | .tmode _ =>
    some (shapeE [(0, 32)])
  | .nop _ => some (shapeS [] false .none)
  | .next _ | .call _ => some (shapeS [] false .be)
  | .nextp _ | .nextpu _ => some { shapeS [] false .be with ownP := true }
  | .nexti _ | .ret _ => some (shapeS [(0, 32)] false .be)
  | .calli _ => some (shapeS [(0, 64)] false .be)
  | .exit _ | .yield _ | .bar _ => some (shapeS [] false .be)
  | .spawn f => some (shapeS ((List.range (f.sb.toNat % 4)).map fun p => (p, 32)) true .be)
  | .gwait _ => some (shapeS [(0, 32), (1, 64)] false .be)
  | .trap _ | .brk _ | .cinv _ | .evpost _ => some (shapeS [(0, 32)] false .be)
  | .launch _ => some (shapeS [(0, 32)] true .be)
  | .rdctl f => some ⟨[], false, 0, none, some (ctlWidth f.ctl.toNat), [f.t.toNat], .be, false, false⟩
  | .wrctl f => some (shapeS [(0, ctlWidth f.ctl.toNat)] false .be)
  | .tlbinv f => some (shapeS [(0, if f.mod == 0 then 64 else 32)] false .be)
  | .perf f => some ⟨[], false, 0, none, some (perfWidth f.ctl.toNat), [f.t.toNat], .be, false, false⟩
  | .ctxsv _ | .ctxld _ => some (shapeS [(0, 64), (1, 32)] false .be)
  | .himm _ | .hoff _ | .htgt _ | .hsch _ => some (shapeS [] false .none)
  | _ => none

/-- A hint word (R87). -/
def isHint (i : Instr) : Bool :=
  match i with
  | .himm _ | .hoff _ | .htgt _ | .hsch _ => true
  | _ => false

/-- A value in both lanes of a packed type, or in the low bits of a scalar type (R84). -/
def spread (ty v : Nat) : Nat := if ty == 4 || ty == 5 then v + v * 2 ^ 16 else v

/-- An inline constant as an operand (R84). -/
def constOperand (t : SelType) (n : Nat) : Nat :=
  match t with
  | .int32 => constI32.getD n 0
  | .int64 sg => if sg then wrap 64 (toSigned 32 (constI32.getD n 0)) else constI32.getD n 0
  | .float ty =>
    let code := (floatLanes ty).2
    if code == 1 then constF32.getD n 0
    else if code == 0 then constF64.getD n 0
    else spread ty (if n == 63 then 2 ^ (ffmt code).m else (convert (ffmt code) 0 true (decodeF (ffmt 0) (constF64.getD n 0))).1)

/-- An immediate as an operand (R84). -/
def immOperand (t : SelType) (v : Int) : Nat :=
  match t with
  | .int32 => wrap 32 v
  | .int64 _ => wrap 64 v
  | .float ty => spread ty (round (ffmt (floatLanes ty).2) 0 (ofInt v)).1

/-- A uniform register or pair as an operand (R84). -/
def uniformOperand (t : SelType) (unif : List (BitVec 32)) (n : Nat) : Nat :=
  let k := fun i => (unif.getD i 0).toNat
  match t with
  | .int32 => k n
  | .int64 _ => k n + 2 ^ 32 * k (n + 1)
  | .float ty => if ty == 1 then k n + 2 ^ 32 * k (n + 1) else if ty == 2 || ty == 3 then k n % 2 ^ 16 else k n

/-- The operand under `himm` (R86). -/
def himmOperand (t : SelType) (v : Nat) : Nat :=
  match t with
  | .int32 => v
  | .int64 sg => if sg then wrap 64 (toSigned 32 v) else v
  | .float ty =>
    if ty == 2 || ty == 3 then v % 2 ^ 16
    else if ty == 1 then
      -- widened exactly; a NaN keeps its sign and payload
      (if bits v 23 8 == 255 then bits v 31 1 * 2 ^ 63 + 2047 * 2 ^ 52 + bits v 0 23 * 2 ^ 29
       else (round (ffmt 0) 0 (decodeF (ffmt 1) v)).1)
    else v

/-- Port b as S supplies it, or none where a token does (R83). -/
def selOperand (s : Nat) (t : SelType) (ksel : Bool) (unif : List (BitVec 32)) : Option Nat :=
  if s < 0x40 then some (if ksel then uniformOperand t unif (s + 64) else constOperand t s)
  else if s < 0x80 then some (uniformOperand t unif (s - 0x40))
  else if s < 0xC0 then some (immOperand t ((s : Int) - 0x80))
  else if s < 0xFF then some (immOperand t ((s : Int) - 0xFF))
  else none

/-- A selector that reads a register pair names an even register (R84). -/
def oddPair (s : Nat) (t : SelType) (ksel : Bool) : Bool :=
  let pair := match t with
    | .int64 _ => true
    | .float ty => ty == 1
    | .int32 => false
  pair && s % 2 == 1 && ((0x40 ≤ s && s < 0x80) || (s < 0x40 && ksel))

/-- The words of a segment, decoded; a word that does not decode is none. -/
def decodeAll (ws : List (BitVec 32)) : List (Option Instr) := ws.map fun w => (decode w).toOption

/-- The `himm` payload before index `i` (R86). -/
def himmAt (ws : List (Option Instr)) (i : Nat) : Option Nat :=
  if i == 0 then none else match ws.getD (i - 1) none with
    | some (.himm f) => some f.payload.toNat
    | _ => none

/-- The `hoff` value before index `i` (R177). -/
def hoffAt (ws : List (Option Instr)) (i : Nat) : Int :=
  if i == 0 then 0 else match ws.getD (i - 1) none with
    | some (.hoff f) => f.payload.toInt
    | _ => 0

/-- The two targets of an `htgt` after index `i` (R176). -/
def htgtAt (ws : List (Option Instr)) (i : Nat) : List Nat :=
  match ws.getD (i + 1) none with
  | some (.htgt f) => [(f.payload.extractLsb' 15 9).toNat, (f.payload.extractLsb' 6 9).toNat]
  | _ => []

/-- All targets of the word at `i` that name a port (R78, R79): consumer and port. -/
def targetsAt (ws : List (Option Instr)) (i : Nat) : List (Nat × Nat) :=
  match (ws.getD i none).bind shape with
  | some sh => if sh.out.isSome then ((sh.targets ++ htgtAt ws i).filter (· != 0)).map fun t => (t / 4, t % 4) else []
  | none => []

/-- The word at `i` takes port b from S or from a `himm` (R80, R83). -/
def selectsB (ws : List (Option Instr)) (i : Nat) (sh : Shape) : Bool :=
  match sh.sel with
  | some (s, _) => (himmAt ws i).isSome || s != 0xFF
  | none => false

/-- Ports of the word at `i` that need a token (R80): data ports, then p. -/
def needs (ws : List (Option Instr)) (i : Nat) (sh : Shape) : List Nat :=
  ((sh.ins.map (·.1)).filter fun p => !(p == 1 && selectsB ws i sh)) ++ (if sh.ownP || sh.pc != 0 then [3] else [])

/-- Stage numbers of the words (R146), in ascending index: a token of a long-latency producer crosses into a later stage. -/
def stagesFrom (ws : List (Option Instr)) : Nat → Nat → List Nat → List Nat
  | 0, _, acc => acc
  | n + 1, i, acc =>
    let st := (List.range i).foldl (fun m p =>
      if (targetsAt ws p).any (fun t => t.1 == i) then
        max m (acc.getD p 0 + (match (ws.getD p none).bind shape with
          | some sh => if sh.long then 1 else 0
          | none => 0))
      else m) 0
    stagesFrom ws n (i + 1) (acc ++ [st])

/-- Stage numbers of a segment's words (R146). -/
def stagesOf (ws : List (BitVec 32)) : List Nat := let d := decodeAll ws; stagesFrom d d.length 0 []

/-- The width of a port: 0 for one that takes its producer's width, none for one that its word does not consume (R80, R181). -/
def portWidth? (ws : List (Option Instr)) (j p : Nat) : Option Nat :=
  ((ws.getD j none).bind shape).bind fun sh =>
    if p == 3 then (if sh.ownP || sh.pc != 0 then some 32 else none)
    else (sh.ins.find? fun x => x.1 == p).map (·.2)

/-- The width of the token that a word sends; an `rd` is as wide as the ports its targets name, 32 or 64 bits (R198, R251). -/
def outWidthAt (ws : List (Option Instr)) (i : Nat) : Nat :=
  match (ws.getD i none).bind shape with
  | none => 32
  | some sh => match sh.out with
    | none => 32
    | some 0 => (((targetsAt ws i).filterMap fun t => portWidth? ws t.1 t.2).find? fun n => n == 32 || n == 64).getD 32
    | some w => w

/-- The width of the token that arrives at port a of a `wr` (R199). -/
def producerWidth (ws : List (Option Instr)) (i : Nat) : Nat :=
  match (List.range i).find? fun p => (targetsAt ws p).any (fun t => t == (i, 0)) with
  | some p => outWidthAt ws p
  | none => 32

end Machine
end Sys2Proof
end

