-- ==== Sys2Proof/Machine/Ops.lean ====
section
/-! DEFINITION. The named operations over memory, registers and records: the canonical memory, time, look-up and update of the
state's parts, page-table walks, what the dies show of placed writes, the event queue, and taking a fault: abort, park and
record, and the return from it. -/
namespace Sys2Proof.Machine

/-- The outcome of a step of this machine. -/
abbrev Out := Host.Outcome State Fault Refusal

/-! Memory in canonical form -/

/-- The addresses rise strictly. -/
def risingFrom : Nat → Memory → Bool
  | _, [] => true
  | lo, c :: r => decide (lo ≤ c.1) && risingFrom (c.1 + 1) r

/-- The canonical form: rising addresses, and no byte listed that reads as 0. [DEDUCED, log entry 14] -/
def Memory.wf (m : Memory) : Bool := risingFrom 0 m && m.all (fun c => c.2 != 0)

/-- The byte at an address; an unlisted byte reads as 0, as the wipe of R405 leaves it. [DEDUCED, log entry 14] -/
def memRead (m : Memory) (a : Nat) : Byte :=
  match m.find? (fun c => c.1 == a) with
  | some c => c.2
  | none => 0

/-- Consecutive bytes. -/
def memReadN (m : Memory) (a n : Nat) : List Byte :=
  let w := m.filter fun c => decide (a ≤ c.1) && decide (c.1 < a + n)
  (List.range n).map fun i => memRead w (a + i)

/-- The cells of a run that do not read as 0. -/
def runCells : Nat → List Byte → Memory
  | _, [] => []
  | a, b :: r => if b == 0 then runCells (a + 1) r else (a, b) :: runCells (a + 1) r

/-- Consecutive bytes written from an address on. -/
def memWrite (m : Memory) (a : Nat) (bs : List Byte) : Memory :=
  m.filter (fun c => decide (c.1 < a)) ++ runCells a bs ++ m.filter (fun c => decide (a + bs.length ≤ c.1))

/-- Several runs written in order. -/
def memWriteRuns (m : Memory) (rs : Runs) : Memory := rs.foldl (fun m r => memWrite m r.1 r.2) m

/-- Every cell of a run, zeros too, for a map of bytes that differ from the placed memory. -/
def allCells : Nat → List Byte → Memory
  | _, [] => []
  | a, b :: r => (a, b) :: allCells (a + 1) r

/-- An overlay's bytes replaced by a run. -/
def ovWrite (m : Memory) (a : Nat) (bs : List Byte) : Memory :=
  m.filter (fun c => decide (c.1 < a)) ++ allCells a bs ++ m.filter (fun c => decide (a + bs.length ≤ c.1))

/-- An overlay that also shows a run, where it does not show other bytes already. -/
def ovHide (m : Memory) (a : Nat) (bs : List Byte) : Memory :=
  let w := m.filter fun c => decide (a ≤ c.1) && decide (c.1 < a + bs.length)
  m.filter (fun c => decide (c.1 < a)) ++ (allCells a bs).map (fun c => (w.find? fun k => k.1 == c.1).getD c) ++
    m.filter (fun c => decide (a + bs.length ≤ c.1))

/-- An overlay without the bytes of the listed runs, but for those that `keep` holds. -/
def ovErase (m : Memory) (rs : Runs) (keep : Nat → Bool) : Memory :=
  m.filter fun c => keep c.1 || !rs.any (fun r => decide (r.1 ≤ c.1) && decide (c.1 < r.1 + r.2.length))

/-- A run covers an address. -/
def runHas (r : Nat × List Byte) (a : Nat) : Bool := decide (r.1 ≤ a) && decide (a < r.1 + r.2.length)
/-- Some run covers an address. -/
def runsHas (rs : Runs) (a : Nat) : Bool := rs.any fun r => runHas r a
/-- Some run touches [a, a + n). -/
def runsTouch (rs : Runs) (a n : Nat) : Bool := rs.any fun r => decide (r.1 < a + n) && decide (a < r.1 + r.2.length)
/-- Two lists of runs share a byte. -/
def runsMeet (x y : Runs) : Bool := x.any fun r => runsTouch y r.1 r.2.length

/-- Runs without the bytes that `drop` holds, split into single bytes where some are dropped. -/
def runsWithout (rs : Runs) (drop : Nat → Bool) : Runs :=
  rs.flatMap fun r =>
    if (List.range r.2.length).any (fun i => drop (r.1 + i)) then
      ((allCells r.1 r.2).filter fun c => !drop c.1).map fun c => (c.1, [c.2])
    else [r]

/-! Time (R4, R20, R23) -/

/-- Hub cycles since the start (R20). [DESIGN CHOICE, log entry 5] -/
def hubNow (s : State) : Nat := s.clock.tick / 2

/-- The compute die of a virtual core (R24, R25). -/
def dieOf (s : State) (vc : Nat) : Nat := (s.pkg.vct.getD vc ⟨false, 0⟩).pcore / 18

/-- The region of a virtual core's physical core (R21). -/
def regionOf (s : State) (vc : Nat) : Nat :=
  let p := (s.pkg.vct.getD vc ⟨false, 0⟩).pcore
  2 * (p / 18) + (p % 18) / 9

/-- Cycles of a region since the start (R4). -/
def regionCycles (s : State) (r : Nat) : Nat := ((s.clock.regions.getD r ⟨0, 0, 0, 0, 0⟩).acc) / 4000

/-- Cycles of a virtual core. [DESIGN CHOICE, log entry 5] -/
def coreNow (s : State) (vc : Nat) : Nat := regionCycles s (regionOf s vc)

/-! Monitors (R407, R408) -/

/-- A monitor block changed. -/
def modMon (s : State) (u : Nat) (f : Mon → Mon) : State := { s with pkg := { s.pkg with mons := modAt f s.pkg.mons u } }

/-- The cycle in which a block takes its samples: of its core's region, or of the hub for a die. -/
def monNow (s : State) (u : Nat) : Nat := if u < 144 then regionCycles s (u / 9) else hubNow s

/-- MCFG.EN of a configuration. -/
def monOn (v : BitVec 32) : Bool := v.getLsbD 31

/-- The bin of a sample (R408). -/
def binOf (cfg : BitVec 32) (v : Nat) : Nat := min 15 ((v - bits cfg.toNat 0 16) >>> bits cfg.toNat 16 5)

/-- A block takes samples of a source (R407). -/
def monTakes (m : Mon) (src : Nat) : Bool := monOn m.cfg && bits m.cfg.toNat 24 4 == src

/-- A sample counted in a cycle (R407, R408). [DESIGN CHOICE, log entry 79] -/
def sampleMon (now src v : Nat) (m : Mon) : Mon :=
  if !monTakes m src then m
  else
    let w : BitVec 32 := BitVec.ofNat 32 (min v 0xFFFFFFFF)
    { m with
      before := if m.before.any (fun b => b.1 == now) then m.before else some (now, m.run)
      run := { m.run with
        min := if w < m.run.min then w else m.run.min
        max := if m.run.max < w then w else m.run.max
        cnt := m.run.cnt + 1
        bins := modAt satInc m.run.bins (binOf m.cfg v) } }

/-- A sample of a source of a virtual core goes to the block of its physical core (R407). -/
def sampleCore (s : State) (vc src v : Nat) : State :=
  let u := (s.pkg.vct.getD vc ⟨false, 0⟩).pcore
  modMon s u (sampleMon (monNow s u) src v)

/-- sys.clock of a virtual core: cycles of its die's lower-numbered region (R23, R203). -/
def dieClock (s : State) (vc : Nat) : Nat := regionCycles s (2 * dieOf s vc)

/-- The counts of a context's watchdogs stand still (R374): in debug mode while a core that holds one of its groups is halted, and from
phase 1 of a quiesce. -/
def standsStill (s : State) (c : Ctx) : Bool :=
  decide (1 ≤ c.regs.phase) ||
  (c.regs.ctxCtl.getLsbD 2 && s.groups.any fun g => g.ctx == c.num && (match g.at_ with
    | .core vc => s.ap.dhalt.contains vc
    | .dugout .. => false))

/-- Ticks pass for a region: as many cycles as its clock has in 250 ps each (R20), and a new clock starts at a cycle's boundary (R23). The part of a tick
after the boundary is rounded down to 1/4,000 of a cycle. [DESIGN CHOICE, log entry 11] -/
def Region.pass (n : Nat) (r : Region) : Region :=
  let edge := (r.acc + 3999) / 4000 * 4000
  let acc := r.acc + n * r.mhz
  if r.soon == r.mhz || acc < edge then { r with acc := acc } else { r with acc := edge + (acc - edge) * r.soon / r.mhz, mhz := r.soon }

/-- Ticks pass: the hub counts one cycle for two of them, and a region as many cycles as its clock has in 250 ps each (R20, R23). -/
def passTicks (s : State) (n : Nat) : State :=
  let d := (s.clock.tick + n) / 2 - s.clock.tick / 2
  { s with
    clock := ⟨s.clock.tick + n, s.clock.regions.map (Region.pass n)⟩
    ctxs := s.ctxs.map fun c => if standsStill s c then { c with still := c.still + d } else c }

/-! Parts of the state -/

/-- A context by number. -/
def ctx? (s : State) (n : Nat) : Option Ctx := s.ctxs.find? fun c => c.num == n
/-- A context changed. -/
def modCtx (s : State) (n : Nat) (f : Ctx → Ctx) : State := { s with ctxs := modWhere (fun c => c.num == n) f s.ctxs }
/-- A grid by number. -/
def grid? (s : State) (g : Nat) : Option Grid := s.grids.find? fun x => x.id == g
/-- A grid changed. -/
def modGrid (s : State) (g : Nat) (f : Grid → Grid) : State := { s with grids := modWhere (fun x => x.id == g) f s.grids }
/-- A group by grid and linear index. -/
def group? (s : State) (g gi : Nat) : Option Group := s.groups.find? fun x => x.grid == g && x.gidx == gi
/-- A group changed. -/
def modGroup (s : State) (g gi : Nat) (f : Group → Group) : State :=
  { s with groups := modWhere (fun x => x.grid == g && x.gidx == gi) f s.groups }
/-- The resident thread in a frame. [DEDUCED, log entry 46] -/
def threadAt? (s : State) (vc frame : Nat) : Option Thread :=
  s.threads.find? fun t => t.resident && t.vc == vc && t.frame == frame
/-- A thread by its number. -/
def thread? (s : State) (uid : Nat) : Option Thread := s.threads.find? fun t => t.uid == uid
/-- A thread changed. -/
def modThread (s : State) (uid : Nat) (f : Thread → Thread) : State :=
  { s with threads := modWhere (fun t => t.uid == uid) f s.threads }
/-- A virtual core. -/
def core (s : State) (vc : Nat) : Core := s.cores.getD vc Core.reset
/-- A virtual core changed. -/
def modCore (s : State) (vc : Nat) (f : Core → Core) : State := { s with cores := modAt f s.cores vc }
/-- A compute die. -/
def die (s : State) (d : Nat) : Die := s.dies.getD d Die.reset
/-- A compute die changed. -/
def modDie (s : State) (d : Nat) (f : Die → Die) : State := { s with dies := modAt f s.dies d }
/-- A core's storage changed. -/
def modStore (s : State) (vc : Nat) (f : Storage → Storage) : State := modCore s vc fun c => { c with store := f c.store }
/-- An effect changed. -/
def modEffect (s : State) (id : Nat) (f : Effect → Effect) : State :=
  { s with effects := modWhere (fun e => e.id == id) f s.effects }
/-- The threads of a group. -/
def threadsOf (s : State) (g gi : Nat) : List Thread := s.threads.filter fun t => t.grid == g && t.gidx == gi
/-- The placement in a core's slot. -/
def placeAt? (s : State) (vc slot : Nat) : Option Placement := (core s vc).places.find? fun p => p.slot == slot
/-- A placement changed. -/
def modPlace (s : State) (vc slot : Nat) (f : Placement → Placement) : State :=
  modCore s vc fun c => { c with places := modWhere (fun p => p.slot == slot) f c.places }
/-- An object of a context. -/
def obj? (c : Ctx) (onum : Nat) : Option Obj := c.objs.find? fun o => o.onum == onum
/-- A kernel of an object. -/
def kernel? (c : Ctx) (onum kidx : Nat) : Option Kernel := (obj? c onum).bind fun o => o.kernels[kidx]?
/-- The segment-table entry that a segment pointer names in an object. -/
def Obj.seg? (o : Obj) (p : SegPtr) : Option SegEnt :=
  o.kernels[p.kidx]?.bind fun k => if p.sidx < k.count then o.segs[k.first + p.sidx]? else none
/-- The segment-table entry a segment pointer names. -/
def segEnt? (c : Ctx) (p : SegPtr) : Option SegEnt := (obj? c p.onum).bind fun o => o.seg? p
/-- The unregistered object that a grid still runs under a number (R394). -/
def goneObj? (c : Ctx) (grid onum : Nat) : Option Obj := (c.gone.find? fun o => o.obj.onum == onum && o.grids.contains grid).map (·.obj)
/-- The object that a grid's threads run under a number, registered or not (R394). -/
def objOf? (c : Ctx) (grid onum : Nat) : Option Obj := (goneObj? c grid onum).orElse fun _ => obj? c onum
/-- The core has its DHALT bit set (R370, R375). -/
def halted (s : State) (vc : Nat) : Bool := s.ap.dhalt.contains vc
/-- A fresh number. [DESIGN CHOICE, log entry 15] -/
def fresh (s : State) : Nat × State := (s.nextId, { s with nextId := s.nextId + 1 })

/-- A link word (R159). -/
def linkWord (p : SegPtr) : BitVec 32 := BitVec.ofNat 32 (p.kidx * 2 ^ 22 + p.onum * 2 ^ 12 + p.sidx)
/-- The segment pointer of a link word (R159). -/
def ofLink (w : BitVec 32) : SegPtr := ⟨bits w.toNat 12 10, bits w.toNat 22 10, bits w.toNat 0 12⟩

/-! The launch record of a grid (R110) -/

/-- `n` bytes at offset `o` of a 64-byte structure. -/
def field512 (r : BitVec 512) (o n : Nat) : Nat := bits r.toNat (8 * o) (8 * n)
/-- LFLAGS.SPEC. -/
def recSpec (r : BitVec 512) : Bool := bit (field512 r 0x1B 1) 4
/-- LFLAGS.KSEL. -/
def recKsel (r : BitVec 512) : Bool := bit (field512 r 0x1B 1) 0
/-- LFLAGS.CMODE. -/
def recCmode (r : BitVec 512) : Bool := bit (field512 r 0x1B 1) 1
/-- LFLAGS.PRIO. -/
def recPrio (r : BitVec 512) : Nat := bits (field512 r 0x1B 1) 2 2
/-- The CID of the launch. -/
def recCid (r : BitVec 512) : Nat := bits (field512 r 0x0A 2) 0 12
/-- NSLOT. -/
def recNslot (r : BitVec 512) : Nat := field512 r 0x18 1
/-- OPSL. -/
def recOpsl (r : BitVec 512) : Nat := field512 r 0x19 1
/-- SPADU. -/
def recSpadu (r : BitVec 512) : Nat := field512 r 0x1A 1
/-- FSLOT. -/
def recFslot (r : BitVec 512) : Nat := field512 r 0x1C 1
/-- Threads along x, y and z (GSHAPE). -/
def recShape (r : BitVec 512) : Nat × Nat × Nat :=
  let g := field512 r 0x14 4
  (bits g 0 10 + 1, bits g 10 10 + 1, bits g 20 10 + 1)
/-- Threads of a group. -/
def recThreads (r : BitVec 512) : Nat := let (x, y, z) := recShape r; x * y * z
/-- Groups along x, y and z of a launch with SPEC = 0. -/
def recGroups (r : BitVec 512) : Nat × Nat × Nat := (field512 r 0x0C 4 + 1, field512 r 0x10 2 + 1, field512 r 0x12 2 + 1)
/-- A signal field's index, when its V is set. -/
def sigField (v : Nat) : Option Nat := if bit v 15 then some (bits v 0 12) else none

/-- The groups of a grid as they stand: predicted while the shape is unknown (R118). [DEDUCED, log entry 39] -/
def gridGroups (g : Grid) : Nat :=
  match g.spec with
  | some sp => sp.truth.getD sp.pred
  | none => let (x, y, z) := recGroups g.raw; x * y * z

/-- The grid is speculative and its shape is not known, or its shape source has failed. -/
def provisional (g : Grid) : Bool :=
  match g.spec with
  | some sp => sp.truth.isNone
  | none => false

/-! Addresses and page tables (R227 to R231) -/

/-- A physical address of an HBM stack (R227). -/
def hbmPa (pa : Nat) : Bool := decide (pa < 2 ^ 40) && decide (pa % 2 ^ 37 < 96 * 2 ^ 30)
/-- A host physical address (R227). -/
def hostPa (pa : Nat) : Bool := decide (2 ^ 51 ≤ pa) && decide (pa < 2 ^ 52)
/-- An address that exists (R227). -/
def existsPa (pa : Nat) : Bool := hbmPa pa || hostPa pa
/-- The compute die a stack is attached to (R10, R227). -/
def homeOf (pa : Nat) : Nat := pa / 2 ^ 37 % 8

/-- V of a page-table entry (R229). -/
def pteV (e : BitVec 64) : Bool := e.getLsbD 0
/-- L. -/
def pteL (e : BitVec 64) : Bool := e.getLsbD 1
/-- R. -/
def pteR (e : BitVec 64) : Bool := e.getLsbD 3
/-- W. -/
def pteW (e : BitVec 64) : Bool := e.getLsbD 4
/-- X. -/
def pteX (e : BitVec 64) : Bool := e.getLsbD 5
/-- RTR. -/
def pteRtr (e : BitVec 64) : Bool := e.getLsbD 6
/-- MT. -/
def pteMt (e : BitVec 64) : Nat := bits e.toNat 7 2
/-- MIG. -/
def pteMig (e : BitVec 64) : Bool := e.getLsbD 15
/-- CID. -/
def pteCid (e : BitVec 64) : Nat := bits e.toNat 52 12
/-- ADDR as a physical address. -/
def pteAddr (e : BitVec 64) : Nat := bits e.toNat 16 36 * 2 ^ 16

/-- A walk's end (R227 to R229, R246): a leaf with its own address, an unmapped page, a migratable one, an ill-formed entry, or a table at an address
that does not exist. -/
inductive Walk where
  | leaf (e : BitVec 64) (large : Bool) (at_ : Nat)
  | unmapped
  | migrate (large : Bool)
  | bad
  | phys
deriving DecidableEq, Repr

/-- The hole of the physical space (R227). [DEDUCED, log entry 29] -/
def holePa (a : Nat) : Bool := decide (2 ^ 40 ≤ a) && decide (a < 2 ^ 51)

/-- A valid leaf keeps the rules of R229. [DEDUCED, log entry 29] -/
def leafOk (e : BitVec 64) (large : Bool) : Bool :=
  !e.getLsbD 2 && pteMt e != 3 && (!large || bits e.toNat 16 13 == 0) && !holePa (pteAddr e)

/-- A valid non-leaf keeps the rules of R229: only V, L and ADDR are used. [DEDUCED, log entry 29] -/
def tableOk (e : BitVec 64) : Bool := e &&& 0xFFF000000000FFFD == 1 && !holePa (pteAddr e)

/-- A run's bytes laid over those from an address on. -/
def overlayRun (a : Nat) (bs : List Byte) (r : Nat × List Byte) : List Byte :=
  (List.range bs.length).map fun i =>
    if decide (r.1 ≤ a + i) && decide (a + i < r.1 + r.2.length) then r.2.getD (a + i - r.1) 0 else bs.getD i 0

/-- Bytes as the directory gives them: the placed ones, under what some die shows and has yet to send (R231, R243). [DEDUCED, log entry 29] -/
def coherentRead (s : State) (a n : Nat) : List Byte :=
  s.effects.foldl (fun bs e => match e.st with
    | .onDie _ => e.runs.foldl (overlayRun a) bs
    | _ => bs) (memReadN s.hub.placed a n)

/-- An entry of a table, read coherently (R231). -/
def readPte (s : State) (base i : Nat) : BitVec 64 := BitVec.ofNat 64 (natLE (coherentRead s (base + 8 * i) 8))

/-- The walk of a virtual address (R228); a table that does not exist answers with an error (R227). [DEDUCED, log entry 29] -/
def walk (s : State) (ptBase : Nat) (va : Nat) : Walk :=
  if !existsPa ptBase then .phys
  else
    let e2 := readPte s ptBase (bits va 42 13)
    if !pteV e2 || pteL e2 then .unmapped
    else if !tableOk e2 then .bad
    else if !existsPa (pteAddr e2) then .phys
    else
      let i1 := bits va 29 13
      let e1 := readPte s (pteAddr e2) i1
      if !pteV e1 then (if pteMig e1 && pteL e1 then .migrate true else .unmapped)
      else if pteL e1 then (if leafOk e1 true then .leaf e1 true (pteAddr e2 + 8 * i1) else .bad)
      else if !tableOk e1 then .bad
      else if !existsPa (pteAddr e1) then .phys
      else
        let i0 := bits va 16 13
        let e0 := readPte s (pteAddr e1) i0
        if !pteV e0 then (if pteMig e0 then .migrate false else .unmapped)
        else if !pteL e0 then .unmapped
        else if leafOk e0 false then .leaf e0 false (pteAddr e1 + 8 * i0) else .bad

/-- The physical address a leaf gives (R228). -/
def leafPa (e : BitVec 64) (large : Bool) (va : Nat) : Nat :=
  if large then pteAddr e / 2 ^ 29 * 2 ^ 29 + bits va 0 29 else pteAddr e + bits va 0 16

/-- The table base of a context (R228). -/
def ptBase (c : Ctx) : Nat := bits c.regs.ptBase.toNat 16 36 * 2 ^ 16

/-! Placed writes and what each die shows (R328, R329) -/

/-- An effect that is visible on its die and not placed. -/
def pendingOn (s : State) (d : Nat) : List Effect :=
  s.effects.filter fun e => match e.st with
    | .onDie _ => dieOf s e.vc == d
    | _ => false

/-- A byte that a pending write of the die covers. -/
def ownPending (s : State) (d : Nat) : Nat → Bool :=
  let rs := (pendingOn s d).flatMap fun e => e.runs
  fun a => runsHas rs a

/-- The bytes a die shows (R328). [DESIGN CHOICE, log entry 19] -/
def dieRead (s : State) (d a n : Nat) : List Byte :=
  let ov := (die s d).overlay.filter fun c => decide (a ≤ c.1) && decide (c.1 < a + n)
  let pl := memReadN s.hub.placed a n
  (List.range n).map fun i => match ov.find? (fun c => c.1 == a + i) with
    | some c => c.2
    | none => pl.getD i 0

/-- All placed writes of other dies become visible on a die, but where its own pending writes stand (R329). [DESIGN CHOICE, log entry 19] -/
def flushDie (s : State) (d : Nat) : State :=
  let keep := ownPending s d
  modDie s d fun x => { x with overlay := x.overlay.filter (fun c => keep c.1), inbox := [] }

/-- The next placed write of other dies becomes visible on a die (R328). [DESIGN CHOICE, log entry 19] -/
def deliverOne (s : State) (d : Nat) : State :=
  match (die s d).inbox with
  | [] => s
  | m :: rest =>
    let keep := ownPending s d
    let later := fun a => rest.any fun x => runsHas x.runs a
    let rs := runsWithout m.runs keep
    let shown := rs.foldl (fun o r => ovWrite o r.1 r.2) (die s d).overlay
    modDie s d fun x => { x with overlay := ovErase shown rs later, inbox := rest }

/-- The poisoned marks after a write: a write of all 64 bytes of a sector clears its mark (R377). -/
def cleanSectors (bad : List Nat) (rs : Runs) : List Nat :=
  bad.filter fun x => !rs.any fun r => decide (r.1 ≤ 64 * x) && decide (64 * x + 64 ≤ r.1 + r.2.length)

/-- Signal words that a write touches become observations in the order of the hub (R103). -/
def noteSignals (s : State) (rs : Runs) : State :=
  let pas := (s.ctxs.flatMap fun c => c.sigs.filterMap (·.pa)).eraseDups.filter fun a => runsTouch rs a 8
  let seen := pas.map fun a => (a, BitVec.ofNat 64 (natLE (memReadN s.hub.placed a 8)))
  { s with hub := { s.hub with sigWrites := s.hub.sigWrites ++ seen } }

/-- A write takes its place at the hub: from die `d` for `some d`, seen by the other dies later; at one instant everywhere for
`none` (R328). `id` numbers the message to the other dies. [DESIGN CHOICE, log entry 19] -/
def placeRuns (s : State) (id : Nat) (src : Option Nat) (rs : Runs) : State :=
  let old := s.hub.placed
  let s1 := { s with hub := { s.hub with placed := memWriteRuns old rs, badSectors := cleanSectors s.hub.badSectors rs } }
  let s2 := (List.range s.dies.length).foldl (fun s d =>
    let keep := ownPending s d
    match src with
    | none => modDie (flushDie s d) d fun x => { x with overlay := ovErase x.overlay rs keep }
    | some o =>
      if d == o then
        modDie s d fun x => { x with
          overlay := ovErase x.overlay rs keep
          inbox := x.inbox.map (fun m => { m with runs := runsWithout m.runs (runsHas rs) }) }
      else
        let out := runsWithout rs keep
        modDie s d fun x =>
          let hidden := out.foldl (fun o r => ovHide o r.1 (memReadN old r.1 r.2.length)) x.overlay
          { x with overlay := hidden, inbox := x.inbox ++ [⟨id, out⟩] }) s1
  noteSignals s2 rs

/-- The home stack's die is offline, until its re-admission ends (R388). -/
def homeOffline (s : State) (pa : Nat) : Bool :=
  hbmPa pa && ((die s (homeOf pa)).st == .offline || (die s (homeOf pa)).st == .readmitting || s.pkg.offStacks.contains (homeOf pa))

/-- The L3 holds the line of an address (R244). -/
def inL3 (s : State) (pa : Nat) : Bool := s.hub.l3.any fun l => l.line == pa / 256

/-- The virtual die that runs on a compute die. -/
def vdieOf (s : State) (d : Nat) : Nat := (firstBelow (fun v => dieOf s (16 * v) == d) 8).getD d

/-! The L3 and the slices (R10, R243 to R245). The model's bytes stand in the placed memory and in what the dies show; the tags say which
lines are held, which sectors are dirty and which lines are all zeros. A full cache gives up the line it has held longest. -/

/-- The sectors of a line that `n` bytes from offset `o` touch. -/
def sectorsOf (o n : Nat) : BitVec 4 := BitVec.ofNat 4 ((List.range 4).foldl (fun m k => if o < 64 * k + 64 && 64 * k < o + n then m + 2 ^ k else m) 0)

/-- The sectors of a line that `n` bytes from offset `o` cover whole. -/
def wholeSectors (o n : Nat) : BitVec 4 := BitVec.ofNat 4 ((List.range 4).foldl (fun m k => if o ≤ 64 * k && 64 * k + 64 ≤ o + n then m + 2 ^ k else m) 0)

/-- The dirty mask of `n` bytes from offset `o` of a line (R243). -/
def dirtyMask (o n : Nat) : BitVec 256 := BitVec.ofNat 256 ((2 ^ n - 1) * 2 ^ o)

/-- The sectors in which a dirty mask has a byte. -/
def dirtySectors (m : BitVec 256) : BitVec 4 :=
  BitVec.ofNat 4 ((List.range 4).foldl (fun r k => if bits m.toNat (64 * k) 64 != 0 then r + 2 ^ k else r) 0)

/-- The dirty mask with every sector in which it has a byte whole: what a write-back sends (R243). -/
def wholeMask (m : BitVec 256) : BitVec 256 :=
  BitVec.ofNat 256 ((List.range 4).foldl (fun r k => if bits m.toNat (64 * k) 64 != 0 then r + (2 ^ 64 - 1) * 2 ^ (64 * k) else r) 0)

/-- The L3 without its oldest line once it is over its size; a dirty line of an offline home stays (R388). [DESIGN CHOICE, log entry 73] -/
def trimL3 (s : State) (l : List L2Line) : List L2Line :=
  if l.length ≤ l3Size then l
  else match l.find? fun x => x.dirty == 0 || !homeOffline s (256 * x.line) with
    | some x => l.filter fun y => y.line != x.line
    | none => l

/-- A line of an HBM home passes through the L3: it is held there from now on, with more dirty bytes, and with its Z flag where that is told
(R244, R245). A line that joins takes a place that the wipe left while there is one. -/
def touchL3 (s : State) (line : Nat) (dirty : BitVec 256) (z : Option Bool) : State :=
  if !hbmPa (256 * line) then s
  else
    let mark : L2Line → L2Line := fun l => { l with dirty := l.dirty ||| dirty, z := z.getD l.z }
    let l := s.hub.l3
    if (l.any fun x => x.line == line) then { s with hub := { s.hub with l3 := modWhere (fun x => x.line == line) mark l } }
    else { s with hub := { s.hub with l3 := trimL3 s (l ++ [⟨line, 0xF, dirty, z.getD false⟩]), l3Wiped := s.hub.l3Wiped - 1 } }

/-- The line of a die's slice. -/
def l2Find (s : State) (d line : Nat) : Option L2Line := (die s d).l2.find? fun l => l.line == line

/-- The dirty sectors of a line in a slice go to the L3, each as a whole (R243, R245). -/
def writeBackFrom (s : State) (line d : Nat) : State :=
  match l2Find s d line with
  | some l =>
    if l.dirty == 0 then s
    else
      let clean : L2Line → L2Line := fun l => { l with dirty := 0 }
      modDie (touchL3 s line (wholeMask l.dirty) (some l.z)) d fun x => { x with l2 := modWhere (fun l => l.line == line) clean x.l2 }
  | none => s

/-- The dirty sectors of a line in every slice go to the L3 (R243, R269). -/
def writeBackLine (s : State) (line : Nat) : State := (List.range s.dies.length).foldl (fun s d => writeBackFrom s line d) s

/-- The slices but one give a line up, their dirty sectors first: it is writable there alone (R243). -/
def dropLine (s : State) (line : Nat) (but : Option Nat) : State :=
  (List.range s.dies.length).foldl (fun s d =>
    if but == some d then s else modDie (writeBackFrom s line d) d fun x => { x with l2 := x.l2.filter fun l => l.line != line }) s

/-- A line joins a slice, whose oldest leaves when it is over its size (R10, R243). [DESIGN CHOICE, log entry 73] -/
def insertL2 (s : State) (d : Nat) (l : L2Line) : State :=
  let s1 := match (die s d).l2 with
    | o :: r => if l2Size ≤ r.length + 1 then modDie (writeBackFrom s o.line d) d fun x => { x with l2 := x.l2.drop 1 } else s
    | [] => s
  modDie s1 d fun x => { x with l2 := x.l2 ++ [l], l2Wiped := x.l2Wiped - 1 }

/-- The Z flag of a line in the L3. -/
def l3Zero (s : State) (line : Nat) : Bool := s.hub.l3.any fun l => l.line == line && l.z

/-- A die reads a sector: the line is readable in its slice and, where it had to be fetched, passes through the L3 (R243, R244). -/
def touchLine (s : State) (d pa : Nat) : State :=
  let line := pa / 256
  let sec := sectorsOf (pa % 256) 1
  match l2Find s d line with
  | some l =>
    if l.valid &&& sec == sec then s
    else modDie (touchL3 (writeBackLine s line) line 0 none) d fun x => { x with
      l2 := modWhere (fun l => l.line == line) (fun l => { l with valid := l.valid ||| sec }) x.l2 }
  | none =>
    let s1 := touchL3 (writeBackLine s line) line 0 none
    insertL2 s1 d ⟨line, sec, 0, l3Zero s1 line⟩

/-- The Z flag after a write of bytes at an offset of a line: whole lines of zeros set it, any byte that is not 0 clears it (R245). -/
def zAfter (z : Bool) (bs : List Byte) : Bool := if bs.any (· != 0) then false else z || decide (256 ≤ bs.length)

/-- A write fetches the line first: it writes less than a whole sector that the slice does not hold (R243). -/
def fetchesFirst (held : Option L2Line) (o n : Nat) : Bool :=
  let valid := match held with
    | some l => l.valid
    | none => 0
  sectorsOf o n &&& ~~~(wholeSectors o n ||| valid) != 0

/-- A die writes bytes at an offset of a line (R243, R245). -/
def writeL2 (s : State) (d line o : Nat) (bs : List Byte) : State :=
  let secs := sectorsOf o bs.length
  let s1 := dropLine s line (some d)
  let s2 := if fetchesFirst (l2Find s1 d line) o bs.length then touchL3 s1 line 0 none else s1
  match l2Find s2 d line with
  | some _ => modDie s2 d fun x => { x with
      l2 := modWhere (fun l => l.line == line) (fun l => ⟨l.line, l.valid ||| secs, l.dirty ||| dirtyMask o bs.length, zAfter l.z bs⟩) x.l2 }
  | none => insertL2 s2 d ⟨line, secs, dirtyMask o bs.length, zAfter (l3Zero s2 line) bs⟩

/-- The hub writes bytes at an offset of a line: the slices give it up, and the L3 holds it (R243 to R245). -/
def writeL3 (s : State) (line o : Nat) (bs : List Byte) : State :=
  let s1 := dropLine s line none
  touchL3 s1 line (dirtyMask o bs.length) (some (zAfter (l3Zero s1 line) bs))

/-- A run cut at lines of 256 bytes: line, offset, bytes. -/
def lineParts : Nat → Nat → List Byte → List (Nat × Nat × List Byte)
  | 0, _, _ => []
  | k + 1, a, bs =>
    let n := min bs.length (256 - a % 256)
    if n == 0 then [] else (a / 256, a % 256, bs.take n) :: lineParts k (a + n) (bs.drop n)

/-- Every line of written runs becomes dirty in a die's slice (R243). -/
def dirtyRuns (s : State) (d : Nat) (rs : Runs) : State :=
  rs.foldl (fun s r => (lineParts (r.2.length / 256 + 2) r.1 r.2).foldl (fun s p => writeL2 s d p.1 p.2.1 p.2.2) s) s

/-- Runs that the hub writes pass through the L3 (R244). -/
def hubRuns (s : State) (rs : Runs) : State :=
  rs.foldl (fun s r => (lineParts (r.2.length / 256 + 2) r.1 r.2).foldl (fun s p => writeL3 s p.1 p.2.1 p.2.2) s) s

/-- Lines that the hub reads pass through the L3 (R244). -/
def hubReads (s : State) (a n : Nat) : State :=
  (List.range ((a + n + 255) / 256 - a / 256)).foldl (fun s k => touchL3 (writeBackLine s (a / 256 + k)) (a / 256 + k) 0 none) s

/-- A read by a die misses everywhere and its home is offline (R388): neither its slice, nor the L3, nor a slice that has written it holds the
sector. A page of memory type 1 bypasses them all (R244). -/
def homeMisses (s : State) (d mt pa : Nat) : Bool :=
  let sec := sectorsOf (pa % 256) 1
  homeOffline s pa && !(mt == 0 && (inL3 s pa || ((l2Find s d (pa / 256)).any fun l => l.valid &&& sec == sec) ||
    s.dies.any fun x => x.l2.any fun l => l.line == pa / 256 && dirtySectors l.dirty &&& sec == sec))

/-- A sector of a range misses everywhere and its home is offline. -/
def rangeMisses (s : State) (d mt a n : Nat) : Bool :=
  (List.range ((a + n + 63) / 64 - a / 64)).any fun k => homeMisses s d mt (max a (64 * (a / 64 + k)))

/-- The home of a range is offline and the L3 does not hold every line of it (R388). [DESIGN CHOICE, log entry 57] -/
def rangeAway (s : State) (pa n : Nat) : Bool :=
  (List.range ((pa + n + 255) / 256 - pa / 256)).any fun k =>
    let a := max pa ((pa / 256 + k) * 256)
    homeOffline s a && !inL3 s a

/-- What the hub would reach at a range on a page of a memory type is away (R230, R388): only lines of type 0 can be in the L3.
[DESIGN CHOICE, log entry 57] -/
def farAway (s : State) (mt pa n : Nat) : Bool := if mt == 0 then rangeAway s pa n else homeOffline s pa

/-- A write of the hub itself, through the L3: seen everywhere at once (R104, R244, R368). -/
def hubWrite (s : State) (pa : Nat) (bs : List Byte) : State := placeRuns (hubRuns s [(pa, bs)]) 0 none [(pa, bs)]

/-- A write of the hub to a page of a memory type: only lines of type 0 pass through the L3 (R230, R244). -/
def hubPut (s : State) (mt pa : Nat) (bs : List Byte) : State := if mt == 0 then hubWrite s pa bs else placeRuns s 0 none [(pa, bs)]

/-- A read of the hub from a page of a memory type (R230, R244). -/
def hubTouch (s : State) (mt pa n : Nat) : State := if mt == 0 then hubReads s pa n else s

/-- The hub's read of placed memory. -/
def hubRead (s : State) (pa n : Nat) : List Byte := memReadN s.hub.placed pa n

/-- The place of an effect in its die's sending order; 0 for one that the die does not show. -/
def sendPos (e : Effect) : Nat :=
  match e.st with
  | .onDie n => n
  | _ => 0

/-- The hub places what a die sends first, once that lies before position `n` (R328). -/
def placeFirst (s : State) (d n : Nat) : State :=
  match leastBy sendPos (pendingOn s d) with
  | some e => if sendPos e < n then modEffect (placeRuns s e.id (some d) e.runs) e.id fun x => { x with st := .placed } else s
  | none => s

/-- The die's pending writes that touch bytes are placed, with those it sends before them (R243, R328). -/
def placeTouching (s : State) (a n d : Nat) : State :=
  let l := pendingOn s d
  let upTo := ((l.filter fun e => runsTouch e.runs a n).map fun e => sendPos e + 1).foldl max 0
  l.foldl (fun s _ => placeFirst s d upTo) s

/-- The table entries that a walk reads (R228, R231). -/
def walkAddrs (s : State) (base va : Nat) : List Nat :=
  if !existsPa base then []
  else
    let e2 := readPte s base (bits va 42 13)
    let a2 := base + 8 * bits va 42 13
    if !pteV e2 || pteL e2 || !tableOk e2 || !existsPa (pteAddr e2) then [a2]
    else
      let e1 := readPte s (pteAddr e2) (bits va 29 13)
      let a1 := pteAddr e2 + 8 * bits va 29 13
      if !pteV e1 || pteL e1 || !tableOk e1 || !existsPa (pteAddr e1) then [a2, a1] else [a2, a1, pteAddr e1 + 8 * bits va 16 13]

/-- A walk reads its entries through the L3 (R231, R244). -/
def walkReads (s : State) (base va : Nat) : State := (walkAddrs s base va).foldl (fun s a => hubReads s a 8) s

/-- The memory type of the page of an address. -/
def hubMt (s : State) (c : Ctx) (va : Nat) : Nat :=
  match walk s (ptBase c) va with
  | .leaf e _ _ => pteMt e
  | _ => 0

/-- A page-table entry's bits set by one OR at the hub, on the entry as it stands: writes of it that a slice still holds are placed first (R230,
R231). [DEDUCED, log entry 29] -/
def orPte (s : State) (at_ : Nat) (e m : BitVec 64) : State :=
  if e &&& m == m then s
  else hubWrite ((List.range s.dies.length).foldl (fun s d => placeTouching s at_ 8 d) s) at_ (bytesLE 8 (e ||| m).toNat)

/-- What a hub unit needs of a page (R451). -/
structure HubNeed where
  r : Bool
  w : Bool
  cid : Option Nat
  noHost : Bool

/-- The page of a hub access that waits holds an address. -/
def HubStall.covers (m : HubStall) (ctx va : Nat) : Bool :=
  m.ctx == ctx && (if m.large then m.va / 2 ^ 29 == va / 2 ^ 29 else m.va / 2 ^ 16 == va / 2 ^ 16)

/-- The pages at which accesses of the act have stopped. -/
def setStalls (s : State) (l : List HubStall) : State := { s with hub := { s.hub with stalls := l } }

/-- An access of the act stops at a migratable page (R451). -/
def stallAt (s : State) (m : HubStall) : State := setStalls s (s.hub.stalls ++ [m])

/-- An access of the act has stopped. -/
def stalled (s : State) : Bool := !s.hub.stalls.isEmpty

/-- Translate for a hub unit (R451): the walk sets A, and D when it serves a write (`wr`) that may be made (R230). `none` when it fails, and when it
waits: the page is migratable, or FU_DONE has yet to name it; then the page is noted. -/
def hubTranslate (s : State) (c : Ctx) (va : Nat) (need : HubNeed) (wr : Bool) : State × Option Nat :=
  if 2 ^ 55 ≤ va then (s, none)
  else match s.hub.migr.find? fun m => m.covers c.num va with
  | some m => (stallAt s m, none)
  | none =>
    let s0 := walkReads s (ptBase c) va
    match walk s (ptBase c) va with
    | .leaf e large at_ =>
      let ok := existsPa (leafPa e large va) && (!need.r || pteR e) && (!need.w || pteW e) && (!need.noHost || pteMt e != 2) &&
        (match need.cid with
         | some k => pteCid e == 0 || pteCid e == k
         | none => true)
      let s1 := orPte s0 at_ e (if ok && wr then 0x600 else 0x200)
      (s1, if ok then some (leafPa e large va) else none)
    | .migrate large => (stallAt s0 ⟨c.num, va, large⟩, none)
    | _ => (s0, none)

/-- Bytes of a context's memory read by a hub unit. -/
def hubReadVa (s : State) (c : Ctx) (va n : Nat) (need : HubNeed) : State × Option (List Byte) :=
  let n1 := min n (65536 - va % 65536)
  let (s1, p1) := hubTranslate s c va need false
  match p1 with
  | none => (s1, none)
  | some pa =>
    if n1 == n then (hubTouch s1 (hubMt s1 c va) pa n, some (hubRead s1 pa n))
    else
      let (s2, p2) := hubTranslate s1 c (va + n1) need false
      match p2 with
      | none => (s2, none)
      | some pb =>
        (hubTouch (hubTouch s2 (hubMt s2 c va) pa n1) (hubMt s2 c (va + n1)) pb (n - n1), some (hubRead s2 pa n1 ++ hubRead s2 pb (n - n1)))

/-- Bytes of a context's memory written by a hub unit; `false` when the access fails. -/
def hubWriteVa (s : State) (c : Ctx) (va : Nat) (bs : List Byte) (need : HubNeed) : State × Bool :=
  let (s1, p) := hubTranslate s c va need true
  match p with
  | none => (s1, false)
  | some pa => (hubPut s1 (hubMt s1 c va) pa bs, true)

/-! Records and the event queue (R365 to R369) -/

/-- The 32 bytes of a record (R365). -/
def recBytes (r : EvRec) : List Byte :=
  bytesLE 1 r.kind ++ bytesLE 1 r.cause ++ bytesLE 2 r.ctx ++ bytesLE 1 r.vcore ++ bytesLE 1 r.fl ++ bytesLE 2 r.slot ++
  bytesLE 4 r.ptr.toNat ++ bytesLE 4 r.detail.toNat ++ bytesLE 8 r.addr ++ bytesLE 4 r.data.toNat ++ bytesLE 4 r.seq.toNat

/-- The continuation record of an ack loss (R366): data, operand, and the old value in all of its 8 bytes. [DEDUCED, log entry 50] -/
def contBytes (l : List (BitVec 64)) : List Byte :=
  bytesLE 8 0x11 ++ bytesLE 8 (l.getD 0 0).toNat ++ bytesLE 8 (l.getD 1 0).toNat ++ bytesLE 8 (l.getD 2 0).toNat

/-- The records in which a fault is posted: itself, and directly after it the continuation where it has one (R366). -/
def recParts (r : EvRec) : List EvRec :=
  if r.cont.isEmpty then [r] else [{ r with cont := [] }, ⟨0x11, 0, r.ctx, 0, 0, 0, 0, 0, 0, 0, 0, r.cont⟩]

/-- A record's bytes in the queue. -/
def partBytes (r : EvRec) (seq : BitVec 32) : List Byte :=
  if r.kind == 0x11 then contBytes r.cont else recBytes { r with seq := seq }

/-- Places that a record needs in the queue: one whose continuation follows needs both (R366). -/
def partRoom (r : EvRec) : Nat := if r.kind == 5 then 2 else 1

/-- The rights the hub needs on the event queue (R451). -/
def evNeed : HubNeed := ⟨true, true, none, false⟩

/-- Write one record of 32 bytes into the event queue and advance TAIL (R368); `false` when it cannot be posted, or when `n` records find no
space. -/
def putEvent (s : State) (c : Ctx) (n : Nat) (bytes : BitVec 32 → List Byte) : State × Bool :=
  let d := c.regs.evqBase.toNat
  let (s1, r) := hubReadVa s c d 32 evNeed
  match r with
  | none => (s1, false)
  | some bs =>
    let v := natLE bs
    let base := bits v 0 64
    let lcap := bits v 64 8
    let tail := bits v 128 64
    let head := bits v 192 64
    let ok := decide (base < 2 ^ 55) && base % 64 == 0 && decide (4 ≤ lcap) && decide (lcap ≤ 20) && bits v 72 8 == 1 && bits v 80 48 == 0
      && decide (tail - head + n ≤ 2 ^ lcap)
    if !ok then (s1, false)
    else
      let seq := match ctx? s c.num with
        | some x => x.evSeq
        | none => 0
      let (s2, w) := hubWriteVa s1 c (base + 32 * (tail % 2 ^ lcap)) (bytes seq) evNeed
      if !w then (s2, false)
      else
        let (s3, t) := hubWriteVa s2 c (d + 0x10) (bytesLE 8 (tail + 1)) evNeed
        if t then (modCtx s3 c.num fun x => { x with evSeq := x.evSeq + 1 }, true) else (s3, false)

/-- Write one record of a fault. -/
def writePart (s : State) (c : Ctx) (r : EvRec) : State × Bool := putEvent s c (partRoom r) (partBytes r)

/-- Records written in order, and those left when one cannot be (R369). -/
def writeParts (c : Ctx) : List EvRec → State → State × List EvRec
  | [], s => (s, [])
  | r :: rest, s => match writePart s c r with
    | (s1, true) => writeParts c rest s1
    | (s1, false) => (s1, r :: rest)

/-- Records that cannot be posted are held, up to 64 of them; beyond that they only count (R369). A record and its continuation are held together or
not at all. [DEDUCED, log entry 50] -/
def holdParts (s : State) (n : Nat) (l : List EvRec) : State :=
  modCtx s n fun c => if c.evHeld.length + l.length ≤ 64 then { c with evHeld := c.evHeld ++ l }
    else { c with evOver := min (c.evOver + l.length) 0xFFFFFFFF }

/-- A fault's records are held. -/
def holdEvent (s : State) (n : Nat) (r : EvRec) : State := holdParts s n (recParts r)

/-- A record about a context and no thread. -/
def plainRec (ctx kind cause : Nat) (detail : BitVec 32) (addr : Nat) (data : BitVec 32) : EvRec :=
  ⟨kind, cause, ctx, 0xFF, 0, 0, 0, detail, addr, data, 0, []⟩

/-- The request for a page at which a hub access stopped (R366, R451): a record that names no thread. [DEDUCED, log entry 50] -/
def stallRec (m : HubStall) : EvRec := plainRec m.ctx 1 2 0 m.va 0

/-- Requests for pages of an event queue itself: their records are held with the others (R369, R451). [DEDUCED, log entry 27] -/
def holdRequests (s : State) (l : List HubStall) : State :=
  l.foldl (fun s m => if s.hub.migr.any fun x => x.covers m.ctx m.va then s
    else holdEvent { s with hub := { s.hub with migr := s.hub.migr ++ [m] } } m.ctx (stallRec m)) s

/-- Post a record to its context's event queue, or hold it (R368, R369); it is held too while a page of the queue migrates (R451). -/
def postEvent (s : State) (r : EvRec) : State :=
  match ctx? s r.ctx with
  | none => s
  | some c =>
    if !c.evHeld.isEmpty || c.evOver != 0 then holdEvent s r.ctx r
    else
      let (s1, left) := writeParts c (recParts r) (setStalls s [])
      let s2 := setStalls s1 s.hub.stalls
      if left.isEmpty then s2 else holdRequests (holdParts s2 r.ctx left) s1.hub.stalls

/-- A migration request is posted for each page at which hub accesses stopped, once until FU_DONE names the page (R451). [DEDUCED, log entry 27] -/
def requestPages (s : State) (l : List HubStall) : State :=
  l.foldl (fun s m => if s.hub.migr.any fun x => x.covers m.ctx m.va then s
    else postEvent { s with hub := { s.hub with migr := s.hub.migr ++ [m] } } (stallRec m)) s

/-- An act of a hub unit, all of whose accesses must be made: where one stops at a migratable page, its page is requested and nothing else
happens (R451). [DEDUCED, log entry 27] -/
def hubAct (s : State) (f : State → State) : State :=
  let s1 := f (setStalls s [])
  if stalled s1 then requestPages (setStalls s []) s1.hub.stalls else s1

/-- The pages at which accesses of an act stopped are requested; the rest of the act stands. [DEDUCED, log entry 27] -/
def flushStalls (s : State) : State := if stalled s then requestPages (setStalls s []) s.hub.stalls else s

/-- A record about a thread (R365). -/
def threadRec (t : Thread) (f : AccFault) (parked : Bool) : EvRec :=
  ⟨f.kind, f.cause, t.ctx, t.vc, if parked then 1 else 0, t.frame, linkWord t.ptr, f.detail, f.addr, f.data, 0, []⟩

/-- The detail word of a check, a successor fault or a malformed segment: code, segment index, word index (R100, R160). -/
def codeDetail (code sidx idx : Nat) : BitVec 32 := BitVec.ofNat 32 (code * 2 ^ 24 + sidx * 2 ^ 12 + idx * 2 ^ 4)

/-- The check that a word which does not decode fails (R99): 0x07 for a reserved opcode, 0x06 otherwise. -/
def decodeCode : DecodeError → Nat
  | .reserved _ => 7
  | _ => 6

/-! Waiting vectors and segment entries (R131 to R133) -/

/-- The time of a context's watchdogs: hub cycles less those in which its counts stood still (R374). -/
def watchNow (s : State) (ctx : Nat) : Nat :=
  match ctx? s ctx with
  | some c => hubNow s - c.still
  | none => hubNow s

/-- Threads whose bit is set in an entry's vector. -/
def waitingIn (s : State) (vc : Nat) (e : Entry) : List Thread :=
  s.threads.filter fun t => t.resident && t.vc == vc && t.st == .waiting && t.grid == e.grid && t.ptr == e.ptr

/-- The entry of a segment on a core. -/
def entryOf? (s : State) (vc grid : Nat) (p : SegPtr) : Option Entry :=
  (core s vc).entries.find? fun e => e.grid == grid && e.ptr == p

/-- A configuration of the bullpen. -/
def bullpen? (s : State) (vc ctx addr cid : Nat) : Option BullEnt :=
  (core s vc).bullpen.find? fun b => b.conf.ctx == ctx && b.conf.addr == addr && b.conf.cid == cid

/-- The CIDF of a grid's launch, which governs its threads' accesses (R158). -/
def gridCid (s : State) (grid : Nat) : Nat := ((grid? s grid).map fun g => recCid g.raw).getD 0

/-- The header address of a segment in an object, and the object's CID. A segment that has only a Palair form is named by the address of that form. -/
def Obj.segAddr? (o : Obj) (p : SegPtr) : Option (Nat × Nat) :=
  (o.seg? p).map fun e => (o.addr + (if e.hdr == 0xFFFFFFFF then e.pal else e.hdr), o.cid)

/-- The header address and CID of a segment that a grid's threads run, its object registered or not (R394). [DESIGN CHOICE, log entry 72] -/
def segAddr? (s : State) (ctx grid : Nat) (p : SegPtr) : Option (Nat × Nat) :=
  (ctx? s ctx).bind fun c => (objOf? c grid p.onum).bind fun o => o.segAddr? p

/-- The object of a segment that a grid's threads run has been unregistered (R179). -/
def segGone (s : State) (ctx grid : Nat) (p : SegPtr) : Bool :=
  match ctx? s ctx with
  | some c => (goneObj? c grid p.onum).isSome || (obj? c p.onum).isNone
  | none => true

/-- The core starts a fetch of a segment's configuration that it neither holds nor fetches under the CIDF of that grid's launch (R140, R234), and
that has not failed on it (R101). [DEDUCED, log entry 43] -/
def startFetch (s : State) (vc ctx grid : Nat) (p : SegPtr) : State :=
  let at_ := segAddr? s ctx grid p
  let (addr, cid) := at_.getD (0, 0)
  let cidf := gridCid s grid
  let failed := (core s vc).failed.any fun f => f.ctx == ctx && f.ptr == p && f.grid.isNone && !f.retry
  let held := at_.any fun a => (bullpen? s vc ctx a.1 a.2).isSome
  if failed || held || (core s vc).fetches.any (fun f => f.ctx == ctx && f.ptr == p && f.cidf == cidf && f.addr == addr && f.cid == cid) then s
  else
    let (id, s1) := fresh s
    let s2 := modCore s1 vc fun c => { c with fetches := c.fetches ++ [⟨id, ctx, p, addr, cid, cidf⟩] }
    modCtx s2 ctx fun c =>
      if c.mons.any (fun m => m.vc == vc) then
        { c with mons := modWhere (fun m => m.vc == vc) (fun m => { m with bpMiss := m.bpMiss + 1 }) c.mons }
      else { c with mons := c.mons ++ [⟨vc, 0, 0, 0, 1, 0⟩] }

/-- The thread may have become admissible: where its segment's configuration has left the bullpen, the fetch starts (R133, R140).
[DEDUCED, log entry 44] -/
def wantConf (s : State) (uid : Nat) : State :=
  match thread? s uid with
  | some t => if t.st == .waiting && t.resident then startFetch s t.vc t.ctx t.grid t.ptr else s
  | none => s

/-- Raise a monitor of a context on a core (R363). -/
def bumpMon (s : State) (vc ctx : Nat) (f : PerfMon → PerfMon) : State :=
  modCtx s ctx fun c =>
    if c.mons.any (fun m => m.vc == vc) then { c with mons := modWhere (fun m => m.vc == vc) f c.mons }
    else { c with mons := c.mons ++ [f ⟨vc, 0, 0, 0, 0, 0⟩] }

/-- The thread's bit is set in the vector of an entry, in which its yield may still have to show (R132, R138). -/
def joinEntry (s : State) (t : Thread) (idx : Nat) : State :=
  let mark : Entry → Entry := fun e => { e with yielded := e.yielded || t.owesYield }
  let s1 := modCore s t.vc fun c => { c with entries := modWhere (fun x => x.idx == idx) mark c.entries }
  let now := coreNow s t.vc
  startFetch (modThread s1 t.uid fun t => { t with st := .waiting, inst := none, owesYield := false, bitAt := some now }) t.vc t.ctx t.grid t.ptr

/-- The thread's bit is set in the vector of its segment's entry, which is allocated if need be (R132); with 256 entries in use the
thread is unassigned; where the segment's configuration has failed on the core the thread parks with that record (R101). -/
def setWaiting (s : State) (uid : Nat) : State :=
  match thread? s uid with
  | none => s
  | some t =>
    let c := core s t.vc
    match c.failed.find? fun f => f.ctx == t.ctx && f.ptr == t.ptr && !f.retry && (f.grid == none || f.grid == some t.grid) with
    | some f => modThread s uid fun t => { t with
        st := .parked, inst := none, parkAt := watchNow s t.ctx
        kept := some { f.kept with slot := t.frame, ptr := linkWord t.ptr, vcore := t.vc, fl := 1 } }
    | none =>
      match entryOf? s t.vc t.grid t.ptr with
      | some e =>
        let s1 := if (waitingIn s t.vc e).isEmpty then
            modCore s t.vc fun c => { c with entries := modWhere (fun x => x.idx == e.idx) (fun x => { x with stamp := dieClock s t.vc }) c.entries }
          else s
        joinEntry s1 t e.idx
      | none =>
        match firstBelow (fun i => !c.entries.any (fun e => e.idx == i)) 256 with
        | none => modThread s uid fun t => { t with st := .unassigned, inst := none }
        | some i =>
          joinEntry (modCore s t.vc fun c => { c with entries := c.entries ++ [⟨i, t.grid, t.ptr, dieClock s t.vc, false⟩] }) t i

/-- An entry is free: vector empty, not placed, no admitted thread of it that has yet to commit, one held at commit among them (R121, R132). -/
def entryFree (s : State) (vc : Nat) (e : Entry) : Bool :=
  (waitingIn s vc e).isEmpty && !(core s vc).places.any (fun p => p.entry == e.idx) &&
  !s.threads.any fun t => t.resident && t.vc == vc && t.st == .held && t.grid == e.grid && t.ptr == e.ptr

/-- A free entry goes to the unassigned thread with the lowest frame, with every unassigned thread of the same segment (R132). -/
def giveEntry (s : State) (vc : Nat) : State :=
  let un := s.threads.filter fun t => t.resident && t.vc == vc && t.st == .unassigned
  match leastBy (fun t => t.frame) un with
  | none => s
  | some t => (un.filter fun x => x.grid == t.grid && x.ptr == t.ptr).foldl (fun s x => setWaiting s x.uid) s

/-- Free entries leave, and each place goes to an unassigned thread while there is one (R132). -/
def settleEntries (s : State) (vc : Nat) : State :=
  let s1 := modCore s vc fun c => { c with entries := c.entries.filter fun e => !entryFree s vc e }
  (List.range (256 - (core s1 vc).entries.length)).foldl (fun s _ => giveEntry s vc) s1

/-! Taking a fault (R151, R246, R366, R367) -/

/-- Abort(): every value and effect of the instance is discarded and the frame stands as at admission (R151). -/
def abortInst (s : State) (uid : Nat) : State :=
  match thread? s uid with
  | some t =>
    -- an answer to a request of the aborted attempt is discarded (R152, R254)
    let s1 := { s with replies := s.replies.filter fun r => !(r.vc == t.vc && r.uid == uid && r.idx < 128) }
    if t.inst.isSome then bumpMon (modThread s1 uid fun t => { t with inst := none }) t.vc t.ctx
      fun m => { m with aborts := m.aborts + 1 } else s
  | none => s

/-- Take a fault that parks: the instance aborts with no side effects, the thread parks at its segment's start and keeps the record,
and the hub posts a copy of it (R246, R366, R367). -/
def takeFault (s : State) (uid : Nat) (f : AccFault) : State :=
  match thread? s uid with
  | none => s
  | some t =>
    -- the datum of a migration request only tells a large page from a small one here (R246)
    let migr := f.kind == 1 && f.cause == 2
    let r := threadRec t (if migr then { f with data := 0 } else f) true
    let s1 := abortInst s uid
    let s2 := modThread s1 uid fun t => { t with st := .parked, wait := none, kept := some r, parkAt := watchNow s t.ctx, parkLarge := migr && f.data == 1 }
    settleEntries (postEvent s2 r) t.vc

/-- A thread parked on a malformed segment is being resumed: its core may try the segment's configuration again (R101, R371). -/
def retrySegment (s : State) (t : Thread) : State :=
  if (t.kept.map (·.kind)) != some 3 then s
  else modCore s t.vc fun c => { c with
    failed := modWhere (fun f => f.ctx == t.ctx && f.ptr == t.ptr) (fun f => { f with retry := true }) c.failed }

/-- Return from a fault: the thread resumes at its segment pointer; its bit is set and the instance runs again (R132, R371). -/
def resumeThread (s : State) (uid : Nat) : State :=
  match thread? s uid with
  | none => s
  | some t => setWaiting (modThread (retrySegment s t) uid fun t => { t with kept := none }) uid

/-! Effects -/

/-- The fields of a command's word. -/
def cmdE (w : BitVec 32) : FmtE := readFmtE w
/-- The opcode of a command's word. -/
def cmdOp (w : BitVec 32) : Nat := (w.extractLsb' 24 8).toNat
/-- The opcode of a copy. -/
def copyOp (c : Copy) : Nat := cmdOp c.word
/-- The copy goes through a channel (R308). -/
def viaChannel (c : Copy) : Bool := (copyOp c == 0xC0 || copyOp c == 0xC1) && bit (cmdE c.word).x.toNat 3

/-- Scopes of R91: an effect is performed at the scope (R322). -/
def performedAt (s : State) (scope : Nat) (e : Effect) : Bool :=
  let seen := e.st == .placed && !s.dies.any fun d => d.inbox.any fun m => m.id == e.id
  match e.kind with
  | .peer .. => decide (scope < 4) || e.accepted
  | .fence _ => e.landed
  | .launch => e.landed
  | .event _ => e.landed
  | .writeBack _ => e.landed
  | .spad .. => e.st == .placed
  | .spadStore _ => e.st == .placed
  | .result .. => true
  | .image .. => true
  | _ =>
    let onDie := match e.st with
      | .committed => false
      | _ => true
    if scope ≤ 2 then onDie else if scope == 3 then seen else seen && (e.mt != 2 || e.accepted)

/-- The acknowledgement of a `.ga` effect has come, or it needs none (R262). -/
def ackDone (e : Effect) : Bool := !e.ga || e.acked

/-- Effect `x` is earlier in thread order than effect `e` of the same thread (R323). -/
def earlier (x e : Effect) : Bool := x.uid == e.uid && (decide (x.seq < e.seq) || (x.seq == e.seq && decide (x.ord < e.ord)))

/-- A copy through a channel that was committed before effect `e` of the same thread (R337). -/
def channelBefore (c : Copy) (e : Effect) : Bool :=
  viaChannel c && c.uid == e.uid && (decide (c.seq < e.seq) || (c.seq == e.seq && decide (c.ord < e.ord)))

/-- Every earlier effect of the thread of `e` is performed at a scope and acknowledged (R262, R265); at .s its earlier channel copies are done
too (R337). -/
def releasedAt (s : State) (scope : Nat) (e : Effect) : Bool :=
  (s.effects.all fun x => !earlier x e || (performedAt s scope x && ackDone x)) &&
  (scope != 4 || !(core s e.vc).copies.any fun c => channelBefore c e)

/-- Effects that nothing waits for any more leave the list: performed at .s, acknowledged, and landed. -/
def sweepEffects (s : State) : State :=
  { s with effects := s.effects.filter fun e => !(performedAt s 4 e && ackDone e && e.landed) }

end Sys2Proof.Machine
end

