-- ==== Sys2Proof/Machine/Access.lean ====
section
/-! DEFINITION. Addresses and access checks (R227 to R238, R246): buffer addresses, scratchpad offsets, translation through the TLBs,
the rights and identity checks, and the bytes a load returns (R242, R255, R257). -/
namespace Sys2Proof.Machine

/-- Where an address formation ends (R233, R234). -/
inductive Addr where
  /-- out of bounds under OOB = 0: a read gives 0, a write is dropped -/
  | out
  | fault (f : AccFault)
  | va (a : Nat)
deriving DecidableEq, Repr

/-- What an access needs of the record (R234). -/
inductive Need where
  | read
  | write
  | atomic
deriving DecidableEq, Repr

/-- A protection fault (R366). -/
def prot (cause addr : Nat) : AccFault := ⟨2, cause, 0, addr, 0⟩
/-- A translation fault (R366). -/
def transFault (cause addr : Nat) : AccFault := ⟨1, cause, 0, addr, 0⟩

/-- BASE of a buffer record (R232). -/
def bufBase (r : BitVec 128) : Nat := bits r.toNat 0 64
/-- EXTENT. -/
def bufExtent (r : BitVec 128) : Nat := bits r.toNat 64 32
/-- STRIDE. -/
def bufStride (r : BitVec 128) : Nat := bits r.toNat 96 16
/-- ATTR. -/
def bufAttr (r : BitVec 128) : Nat := bits r.toNat 112 8
/-- RGT. -/
def bufRgt (r : BitVec 128) : Nat := bits r.toNat 120 8

/-- The swizzle of an offset (R233): o[3+s:4] xor o[6+s:7]. -/
def swizzle (sw o : Nat) : Nat := if sw == 0 then o else o ^^^ (bits o 7 sw) * 16

/-- A buffer record keeps its rules (R232, R233). -/
def bufOk (r : BitVec 128) : Bool :=
  bufBase r % 16 == 0 && decide (bufBase r < 2 ^ 55) && bufStride r != 0 && decide (bufAttr r < 8) && decide (bufRgt r < 8)

/-- The record's rights cover an access (R234). -/
def bufRight (r : BitVec 128) (n : Need) : Bool :=
  match n with
  | .read => bit (bufRgt r) 0
  | .write => bit (bufRgt r) 1
  | .atomic => bit (bufRgt r) 0 && bit (bufRgt r) 1 && bit (bufRgt r) 2

/-- BufAddr of R233 with steps 1 to 4 of R234. -/
def bufAddr (r : BitVec 128) (idx : Nat) (hoff : Int) (w : Nat) (need : Need) : Addr :=
  if !bufOk r then .fault (prot 1 0)
  else if !bufRight r need then .fault (prot 2 0)
  else
    let i : Int := (idx : Int) + hoff
    let st : Int := (bufStride r : Nat)
    if i < 0 || (bufExtent r : Int) ≤ i || (bufExtent r : Int) * st < i * st + w then
      (if bit (bufAttr r) 2 then .fault (prot 3 0) else .out)
    else
      let o := swizzle (bits (bufAttr r) 0 2) (i.toNat * bufStride r)
      let va := bufBase r + o
      if 2 ^ 55 ≤ va then .fault (prot 4 va)
      else if va % w != 0 then .fault (prot 5 va)
      else .va va

/-- A scratchpad offset checked (R237): the offset within the group's units. -/
def spadAddr (units : Nat) (off : Int) (w : Nat) : Addr :=
  if off < 0 || ((units * 16384 : Nat) : Int) < off + w then .fault (prot 7 0)
  else if off.toNat % w != 0 then .fault (prot 5 0)
  else .va off.toNat

/-- A TLB's entry for an address (R231). -/
def tlbFind (l : List TlbEnt) (ctx va : Nat) : Option TlbEnt :=
  l.find? fun e => e.ctx == ctx && (if e.large then e.page / 8192 == va / 2 ^ 29 else e.page == va / 2 ^ 16)

/-- The core's TLB, then the die's (R231). -/
def tlbLookup (s : State) (vc ctx va : Nat) : Option TlbEnt :=
  match tlbFind (core s vc).tlb ctx va with
  | some e => some e
  | none => tlbFind (die s (dieOf s vc)).tlb ctx va

/-- Steps 6 and 7 of R234 on a leaf, then the existence of the physical address (R227). -/
def pageCheck (e : BitVec 64) (large : Bool) (cidf va : Nat) (need : Need) : Except AccFault (Nat × Nat) :=
  let right := match need with
    | .read => pteR e
    | .write => pteW e
    | .atomic => pteR e && pteW e
  if !right then .error (prot 2 va)
  else if pteCid e != 0 && pteCid e != cidf then .error (prot 6 va)
  else
    let pa := leafPa e large va
    if !existsPa pa then .error (prot 8 va) else .ok (pa, pteMt e)

/-- A translated access: a miss, a failure, or the physical address with its memory type (R234). -/
inductive Xlat where
  | miss
  | fault (f : AccFault)
  | pa (a mt : Nat)
deriving DecidableEq, Repr

/-- Translate an access of a thread's instance; a page whose walk failed for the instance answers its fault (R234, R246). -/
def translate (s : State) (t : Thread) (cidf va : Nat) (need : Need) : Xlat :=
  match tlbLookup s t.vc t.ctx va with
  | some e => match pageCheck e.pte e.large cidf va need with
    | .ok (pa, mt) => .pa pa mt
    | .error f => .fault f
  | none =>
    match (t.inst.map (·.badPages)).getD [] |>.find? fun p => p.1 == va / 2 ^ 16 && p.2.kind != 0 with
    | some p => .fault { p.2 with addr := va }
    | none => .miss

/-- A miss is put before the walkers, once for a page (R231). -/
def addMiss (s : State) (t : Thread) (cidf va : Nat) (need : Need) : State :=
  let m : Miss := ⟨t.ctx, va / 2 ^ 16, need != .read, need == .atomic, cidf, t.vc⟩
  if s.hub.misses.contains m || 16384 ≤ s.hub.misses.length then s
  else { s with hub := { s.hub with misses := s.hub.misses ++ [m] } }

/-- The line of a core's L1 (R242). -/
def l1Find (c : Core) (ctx line : Nat) : Option L1Line := c.l1.find? fun l => l.ctx == ctx && l.line == line

/-- The thread's committed stores in flight that no die shows yet, in thread order (R255). -/
def inFlight (s : State) (uid : Nat) : List Effect :=
  s.effects.filter fun e => e.uid == uid && e.st == .committed && (match e.kind with
    | .store => true
    | _ => false)

/-- An atomic of the thread in flight that touches a load's bytes: the load waits for it (R255, R323). -/
def atomicInFlight (s : State) (uid pa n : Nat) : Bool :=
  s.effects.any fun e => e.uid == uid && (match e.kind with
    | .atomic .. => e.st == .committed && runsTouch e.runs pa n
    | _ => false)

/-- Bytes with the thread's own stores in flight laid over them (R255). -/
def forward (s : State) (uid pa : Nat) (bs : List Byte) : List Byte :=
  (inFlight s uid).foldl (fun bs e => e.runs.foldl (fun bs r =>
    (List.range bs.length).map fun i => if runHas r (pa + i) then r.2.getD (pa + i - r.1) 0 else bs.getD i 0) bs) bs

/-- A line joins an L1 of 512 sets of 8 ways; of a full set the line that joined it first leaves (R242). [DESIGN CHOICE, log entry 73] -/
def l1Insert (c : Core) (l : L1Line) : Core :=
  let set := c.l1.filter fun x => x.line % 512 == l.line % 512
  let keep := match set with
    | o :: _ => if 8 ≤ set.length then c.l1.filter (fun x => x != o) else c.l1
    | [] => c.l1
  { c with l1 := keep ++ [l] }

/-- Bytes read by a load of at most 16 bytes within one line, at a physical address (R242, R255, R257, R377, R388): a fault, or
the bytes and the state with the line filled. -/
def readGlobal (s : State) (t : Thread) (pa mt n va : Nat) : State × Except AccFault (List Byte) :=
  if mt == 0 then
    match l1Find (core s t.vc) t.ctx (pa / 64) with
    | some l => (s, .ok (forward s t.uid pa ((List.range n).map fun i => l.bytes.getD (pa % 64 + i) 0)))
    | none =>
      if homeMisses s (dieOf s t.vc) 0 pa then (s, .error ⟨6, 0, BitVec.ofNat 32 (vdieOf s (homeOf pa)), va, 0⟩)
      else if s.hub.badSectors.contains (pa / 64) then (s, .error ⟨0x0A, 1, 0, va, 0⟩)
      else
        let d := dieOf s t.vc
        let line := dieRead s d (pa / 64 * 64) 64
        let s1 := modCore (touchLine s d pa) t.vc fun c => l1Insert c ⟨t.ctx, pa / 64, line⟩
        (s1, .ok (forward s t.uid pa ((List.range n).map fun i => line.getD (pa % 64 + i) 0)))
  else
    if homeOffline s pa then (s, .error ⟨6, 0, BitVec.ofNat 32 (vdieOf s (homeOf pa)), va, 0⟩)
    else if s.hub.badSectors.contains (pa / 64) then (s, .error ⟨0x0A, 1, 0, va, 0⟩)
    else (s, .ok (forward s t.uid pa (memReadN s.hub.placed pa n)))

/-- An acquire at .g or wider invalidates the L1 lines of the context on the core (R242). -/
def invalidateL1 (s : State) (vc ctx : Nat) : State := modCore s vc fun c => { c with l1 := c.l1.filter fun l => l.ctx != ctx }

/-- An acquire of a core for a context at a scope (R242, R264, R325): at .g or wider the L1 lines go, and at .p or .s, whose releases the hub orders,
the die shows every write that the hub has placed. -/
def acquireOn (s : State) (vc ctx scope : Nat) : State :=
  if scope == 0 then s else invalidateL1 (if 3 ≤ scope then flushDie s (dieOf s vc) else s) vc ctx

/-- A core's scratchpad as it stood before the writes of this cycle (R240). -/
def cycleStart (s : State) (vc : Nat) : CycleStart :=
  let st := (core s vc).store
  let fresh : CycleStart := ⟨coreNow s vc, st.spad, st.absent, []⟩
  match st.before with
  | some b => if b.cycle == coreNow s vc then b else fresh
  | none => fresh

/-- Bytes of a core's scratchpad as a read finds them in this cycle: those from before the writes of the cycle (R240), and, in a line whose presence
a copy has restored in the cycle, those from after them (R241). -/
def spadBytes (s : State) (vc p n : Nat) : List Byte :=
  let b := cycleStart s vc
  let st := (core s vc).store
  let old := memReadN b.spad p n
  let new := memReadN st.spad p n
  let restored : Nat → Bool := fun l => b.absent.any (fun a => a.1 == l) && !st.absent.any fun a => a.1 == l
  (List.range n).map fun i => if restored ((p + i) / 64) then new.getD i 0 else old.getD i 0

/-- Bytes of a group's scratchpad at an offset, as a load reads them (R237, R240). -/
def spadRead (s : State) (vc base off n : Nat) : List Byte := spadBytes s vc (base * 16384 + off) n

/-- Bytes written to a group's scratchpad at an offset (R240); a store of a whole line clears its error mark (R378). -/
def spadWrite (s : State) (vc base off : Nat) (bs : List Byte) : State :=
  let p := base * 16384 + off
  let start := cycleStart s vc
  modStore s vc fun st => { st with
    spad := memWrite st.spad p bs
    before := some start
    badLines := st.badLines.filter fun l => !(decide (p ≤ 64 * l) && decide (64 * l + 64 ≤ p + bs.length)) }

/-- A store or an atomic of the thread itself has reached the core's banks in this cycle (R240). -/
def noteLate (s : State) (vc uid : Nat) : State :=
  let b := cycleStart s vc
  modStore s vc fun st => { st with before := some { b with late := uid :: b.late } }

/-- A read of the thread's scratchpad has to come after a write of its own in this cycle, and is not served in it (R240, R255). -/
def ownLate (s : State) (vc uid : Nat) : Bool := (cycleStart s vc).late.contains uid

/-- A 64-byte line of a core's scratchpad is present to a read: a line whose presence a copy restores is so from the next cycle on (R240, R241). -/
def linePresent (s : State) (vc line : Nat) : Bool :=
  !(core s vc).store.absent.any (fun a => a.1 == line) && !(cycleStart s vc).absent.any fun a => a.1 == line

/-- The scratchpad bytes of an effect that acts at the banks: the first, and how many (R334). -/
def scratchSpan (e : Effect) : Option (Nat × Nat) :=
  match e.kind with
  | .spad _ _ w .. => some (e.va, w)
  | .spadStore bs => some (e.va, bs.length)
  | _ => none

/-- A scratchpad store or atomic that has passed on and has yet to reach its bank. [DEDUCED, log entry 25] -/
def scratchOwed (e : Effect) : Bool := (scratchSpan e).isSome && e.st != .placed

/-- A read of bytes [p, p + n) by a thread has to wait for its own earlier scratchpad stores and atomics (R255, R323, R324). -/
def ownScratch (s : State) (vc uid p n : Nat) : Bool :=
  ownLate s vc uid || s.effects.any fun e => e.uid == uid && scratchOwed e &&
    (scratchSpan e).any fun r => decide (r.1 < p + n) && decide (p < r.1 + r.2)

/-- A line's presence bit is cleared by one more copy (R241). -/
def clearLine (s : State) (vc line : Nat) : State :=
  modStore s vc fun st =>
    if st.absent.any (fun a => a.1 == line) then { st with absent := modWhere (fun a => a.1 == line) (fun a => (a.1, a.2 + 1)) st.absent }
    else { st with absent := st.absent ++ [(line, 1)] }

/-- A copy that held a line's presence clear is done with it; the line is present when none is left (R241). -/
def restoreLine (s : State) (vc line : Nat) : State :=
  let start := cycleStart s vc
  modStore s vc fun st => { st with
    before := some start
    absent := (modWhere (fun a => a.1 == line) (fun a => (a.1, a.2 - 1)) st.absent).filter fun a => a.2 != 0 }

end Sys2Proof.Machine
end

