-- ==== Sys2Proof/Config.lean ====
section
/-! DEFINITION. The values the manual leaves open, as opaque constants: nothing can evaluate them or prove a value of them. -/
namespace Sys2Proof.Config

/-- The bits a special-function instruction gives before its bound is imposed (R223 fixes only a bound on the error):
opcode, format code of R88 and operand bits. [DESIGN CHOICE, log entry 16] -/
opaque sfuRaw : Nat → Nat → Dbl → Dbl

/-- Whether an RSA-3072 signature (PSS, SHA-384) verifies over bytes with the given SHA-384 (R403). [DESIGN CHOICE, log entry 17] -/
opaque rsaVerifies : BitVec 384 → BitVec 3072 → Bool

/-- Whether an SLH-DSA-SHA2-192s signature verifies over bytes with the given SHA-384 (R403). [DESIGN CHOICE, log entry 17] -/
opaque slhVerifies : BitVec 384 → List Byte → Bool

/-- The RSA-3072 signature the controller makes over an attestation report (R406). [DESIGN CHOICE, log entry 17] -/
opaque rsaSign : List Byte → BitVec 3072

/-- One byte of the SLH-DSA signature the controller makes over an attestation report (R406). [DESIGN CHOICE, log entry 17] -/
opaque slhSignByte : List Byte → Nat → Byte

/-- What the context image has no place for comes back from a restore as an open value: of the restored command, thread or grid with a number, the
value with an index (R299, R383 to R386). [DESIGN CHOICE, log entry 64] -/
opaque unsaved : Nat → Nat → Nat

/-- The errata bits that the translator consults, which a translation's dependence mask records (R68). [DESIGN CHOICE, log entry 70] -/
opaque errataConsulted : BitVec 64

/-- The way of its set in which a cache line lies, by its number: the manual gives the caches no sets (R409). [DESIGN CHOICE, log entry 59] -/
opaque wayOf : Nat → Nat

end Sys2Proof.Config
end

