-- ==== Sys2Proof/Machine/Sfu.lean ====
section
/-! DEFINITION. The special functions (R222 to R224). The exact points are given exactly. Everywhere else the manual fixes only a bound on
the error, so the result is an open value held to that bound: the exact result is enclosed by fixed-point arithmetic, and the open
value stands when it lies within the bound of the whole enclosure (otherwise the correctly rounded result stands). -/
namespace Sys2Proof.Machine

/-- Fraction bits of the fixed-point enclosures. -/
def fixP : Nat := 288
/-- ln 2 with `fixP` fraction bits. -/
def fixLn2 : Int := 0xb17217f7d1cf79abc9e3b39803f2f6af40f343267298b62d8a0d175b8baafa2be7b87620
/-- π with `fixP` fraction bits. -/
def fixPi : Int := 0x3243f6a8885a308d313198a2e03707344a4093822299f31d0082efa98ec4e6c89452821e6
/-- 1 with `fixP` fraction bits. -/
def fixOne : Int := (2 ^ fixP : Nat)

/-- A fixed-point product. -/
def fixMul (a b : Int) : Int := (a * b) >>> fixP
/-- A fixed-point quotient. -/
def fixDiv (a b : Int) : Int := (a * fixOne) / b

/-- The Taylor sum of e^x − 1 from the term x^k / k! on. -/
def expTail (x : Int) : Nat → Nat → Int → Int
  | 0, _, _ => 0
  | n + 1, k, t => t + expTail x n (k + 1) (fixMul t x / ((k : Int) + 1))

/-- e^x − 1 for a fixed-point x of magnitude at most 1. -/
def fixExpm1 (x : Int) : Int := expTail x 70 1 x

/-- The sum of z^(2j+1) / (2j+1). -/
def atanhTail (z2 : Int) : Nat → Nat → Int → Int
  | 0, _, _ => 0
  | n + 1, k, t => t / (k : Int) + atanhTail z2 n (k + 2) (fixMul t z2)

/-- ln u for a fixed-point u from 3/4 to 3/2. -/
def fixLn (u : Int) : Int := let z := fixDiv (u - fixOne) (u + fixOne); 2 * atanhTail (fixMul z z) 70 1 z

/-- The Taylor sum of sin y. -/
def sinTail (y2 : Int) : Nat → Nat → Int → Int
  | 0, _, _ => 0
  | n + 1, k, t => t + sinTail y2 n (k + 2) (-(fixMul t y2 / (((k : Int) + 1) * ((k : Int) + 2))))

/-- sin(π r) for a fixed-point r from 0 to 1/2. -/
def fixSinPi (r : Int) : Int := let y := fixMul r fixPi; sinTail (fixMul y y) 45 1 y

/-- m × 2^e in fixed point, rounded down. -/
def toFix (s : Bool) (m : Nat) (e : Int) : Int :=
  let v : Int := ((shiftLeft m (e + fixP)).1 : Nat)
  if s then -v else v

/-- An enclosed positive magnitude: significand and exponent, within one part in 2^100. -/
abbrev Enc := Nat × Int

/-- 2^x for a fixed-point x of either sign. -/
def encExp2 (x : Int) : Enc :=
  let n := x >>> fixP
  let f := x - n * fixOne
  ((fixOne + fixExpm1 (fixMul f fixLn2)).toNat, n - fixP)

/-- e^x for a value, its exponent held to the range in which results differ from 0 and infinity. -/
def encExp (s : Bool) (m : Nat) (e : Int) : Enc :=
  if 14 < (m.log2 : Int) + e then (1, if s then -100000 else 100000) else encExp2 (fixDiv (toFix s m e) fixLn2)

/-- log2 of m × 2^e as a sign and a magnitude. -/
def encLog2 (m : Nat) (e : Int) : Bool × Enc :=
  let l := m.log2
  let u0 := toFix false m (-(l : Int))
  let up := fixOne * 3 < u0 * 2
  let u := if up then u0 / 2 else u0
  let k : Int := e + l + (if up then 1 else 0)
  let v := k * fixOne + fixDiv (fixLn u) fixLn2
  (v < 0, (v.natAbs, -(fixP : Int)))

/-- The value of sin(π x) for x reduced to r in [0, 2) units of 2^−fixP, as a sign and a magnitude. -/
def encSin (r : Int) : Bool × Enc :=
  let neg := fixOne ≤ r
  let r1 := if neg then r - fixOne else r
  let r2 := if fixOne < 2 * r1 then fixOne - r1 else r1
  (neg, ((fixSinPi r2).natAbs, -(fixP : Int)))

/-- x mod 2 in fixed point, for an x whose fraction fits. -/
def mod2Fix (s : Bool) (m : Nat) (e : Int) : Int :=
  let v := toFix s m e
  v % (2 * fixOne)

/-- tanh of a positive value. -/
def encTanh (m : Nat) (e : Int) : Enc :=
  if (m.log2 : Int) + e < -2 then
    let t := fixExpm1 (2 * toFix false m e)
    ((fixDiv t (t + 2 * fixOne)).toNat, -(fixP : Int))
  else if 7 < (m.log2 : Int) + e then (2 ^ 200 - 1, -200)
  else
    let (a, k) := encExp true m (e + 1)
    let q := toFix false a k
    ((fixDiv (fixOne - q) (fixOne + q)).toNat, -(fixP : Int))

/-- 1 / (1 + e^−x). -/
def encSigm (s : Bool) (m : Nat) (e : Int) : Enc :=
  let (a, k) := encExp true m e
  let q := toFix false a k
  if s then ((a * 2 ^ fixP) / (fixOne + q).toNat, k) else ((fixDiv fixOne (fixOne + q)).toNat, -(fixP : Int))

/-- The distance of two magnitudes is at most B units of 2^u. [DESIGN CHOICE, log entry 16] -/
def withinUlps (b : Nat) (u : Int) (x y : Enc) : Bool :=
  let e := min u (min x.2 y.2)
  let xv : Int := (x.1 <<< (x.2 - e).toNat : Nat)
  let yv : Int := (y.1 <<< (y.2 - e).toNat : Nat)
  (xv - yv).natAbs ≤ b <<< (u - e).toNat

/-- A result that is not an exact point: the open value held to the bound B (R223). [DESIGN CHOICE, log entry 16] -/
def openResult (ft : FFmt) (b : Nat) (raw : Nat) (s : Bool) (y : Enc) : FRes :=
  if y.1 == 0 then ⟨encodeF ft s 0 0, cInexact, false⟩
  else
    let near := round ft 0 (.fin s y.1 y.2)
    if near.2 &&& cOverflow != 0 then ⟨ft.infBits s, cOverflow ||| cInexact, false⟩
    else
      let d := y.1 / 2 ^ 100 + 1
      let u := max ((y.1.log2 : Int) + y.2 - 1) ft.emin - ft.m
      let u := if (y.1 - d).log2 == y.1.log2 then max ((y.1.log2 : Int) + y.2) ft.emin - ft.m else u
      let ok := match decodeF ft raw with
        | .fin t m e => t == s && withinUlps b u (m, e) (y.1 - d, y.2) && withinUlps b u (m, e) (y.1 + d, y.2)
        | _ => false
      let r := if ok then raw % 2 ^ ft.width else near.1
      let sub := bits r ft.m ft.w == 0 && bits r 0 ft.m != 0
      ⟨r, cInexact ||| (if sub then cUnderflow else 0), false⟩

/-- The integer a dyadic number equals, if it is one. -/
def asInt (s : Bool) (m : Nat) (e : Int) : Option Int :=
  let (q, rest) := shiftLeft m e
  if rest == 0 then some (if s then -(q : Int) else q) else none

/-- m is a power of two: its exponent. -/
def asPow2 (m : Nat) (e : Int) : Option Int := if m == 2 ^ m.log2 then some ((m.log2 : Int) + e) else none

/-- An exactly known value, rounded. -/
def exactRes (ft : FFmt) (v : FV) : FRes := let r := round ft 0 v; ⟨r.1, r.2, false⟩

/-- A NaN made from a value that is not a NaN: the entries marked † (R224). -/
def badRes (ft : FFmt) : FRes := ⟨ft.canon, cInvalid, true⟩

/-- 1. -/
def fvOne (neg : Bool) : FV := .fin neg 1 0

/-- The bound B of R223 for a function and a format. -/
def sfuBound (op code : Nat) : Nat :=
  if code == 2 || code == 3 then 1 else match op with
    | 0x78 => 1
    | 0x79 => 1
    | 0x7E => 3
    | 0x7F => 3
    | _ => 2

/-- A special function on one value (R222 to R224). -/
def sfu (op ty a : Nat) : FRes :=
  let code := (floatLanes ty).2
  let ft := ffmt code
  let a := a % 2 ^ ft.width
  let raw := (Config.sfuRaw op ty (BitVec.ofNat 64 a)).toNat
  let res := openResult ft (sfuBound op code) raw
  match decodeF ft a with
  | .nan sg => ⟨ft.canon, if sg then cInvalid else 0, false⟩
  | .inf s =>
    match op with
    | 0x78 => exactRes ft (.fin s 0 0)
    | 0x79 => if s then badRes ft else exactRes ft (.fin false 0 0)
    | 0x7A => if s then exactRes ft (.fin false 0 0) else exactRes ft (.inf false)
    | 0x7B => if s then badRes ft else exactRes ft (.inf false)
    | 0x7C => badRes ft
    | 0x7D => badRes ft
    | 0x7E => exactRes ft (fvOne s)
    | _ => if s then exactRes ft (.fin false 0 0) else exactRes ft (fvOne false)
  | .fin s m e =>
    if m == 0 then
      match op with
      | 0x78 => ⟨ft.infBits s, cDivZero, false⟩
      | 0x79 => ⟨ft.infBits s, cDivZero, false⟩
      | 0x7A => exactRes ft (fvOne false)
      | 0x7B => ⟨ft.infBits true, cDivZero, false⟩
      | 0x7C => exactRes ft (.fin s 0 0)
      | 0x7D => exactRes ft (fvOne false)
      | 0x7E => exactRes ft (.fin s 0 0)
      | _ => exactRes ft (.fin false 1 (-1))
    else match op with
      | 0x78 => match asPow2 m e with
        | some k => exactRes ft (.fin s 1 (-k))
        | none => res s (2 ^ (m.log2 + 200) / m, -(m.log2 : Int) - 200 - e)
      | 0x79 =>
        if s then badRes ft
        else match asPow2 m e with
          | some k => if k % 2 == 0 then exactRes ft (.fin false 1 (-(k / 2)))
            else res false (isqrt (2 ^ 401), -201 - (k - 1) / 2 + 0)
          | none =>
            let (m, e) := if e % 2 == 0 then (m, e) else (2 * m, e - 1)
            res false (isqrt (2 ^ (2 * (m.log2 + 200)) / m), -(m.log2 : Int) - 200 - e / 2)
      | 0x7A => match asInt s m e with
        | some n => exactRes ft (.fin false 1 (max (-100000) (min 100000 n)))
        | none => if 14 < (m.log2 : Int) + e then res false (1, if s then -100000 else 100000) else res false (encExp2 (toFix s m e))
      | 0x7B =>
        if s then badRes ft
        else match asPow2 m e with
          | some k => exactRes ft (ofInt k)
          | none => let (n, y) := encLog2 m e; res n y
      | 0x7C => match asInt s m (e + 1) with
        | some h =>
          if h % 2 == 0 then exactRes ft (.fin s 0 0) else exactRes ft (fvOne ((h - 1) / 2 % 2 != 0))
        | none => let (n, y) := encSin (mod2Fix s m e); res n y
      | 0x7D => match asInt s m (e + 1) with
        | some h => if h % 2 == 0 then exactRes ft (fvOne (h / 2 % 2 != 0)) else exactRes ft (.fin false 0 0)
        | none => let (n, y) := encSin ((mod2Fix false m e + fixOne / 2) % (2 * fixOne)); res n y
      | 0x7E => res s (encTanh m e)
      | _ => res false (encSigm s m e)

end Sys2Proof.Machine
end

