-- ==== Sys2Proof/Machine/Flags.lean ====
section
/-! DEFINITION. The conditions of R38 as they gather in an instance and reach the FSLOT slot, and how poison mode turns a result into a
poison token (R44, R45). -/
namespace Sys2Proof.Machine

/-- The conditions a word raises joined to those of its instance (R38). -/
def joinConds (old : BitVec 6) (c : Nat) : BitVec 6 := old ||| BitVec.ofNat 6 c

/-- The FSLOT slot after a commit (R38): the conditions ORed into its value; a slot not present or marked counts as 0. -/
def fslotOr (sl : Slot) (c : BitVec 6) : Slot :=
  ⟨(if sl.pres && !sl.mark then sl.val else 0) ||| c.zeroExtend 32, true, false⟩

/-- The origin word of a poison token (R45). -/
def originWord (frame sidx idx : Nat) : BitVec 32 := BitVec.ofNat 32 (frame * 2 ^ 19 + sidx * 2 ^ 7 + idx)

/-- A value token (R33). -/
def valTok (v : Nat) : Tok := .val (BitVec.ofNat 128 v)

/-- A floating-point result as a token: poison in poison mode where R225 lists the case (R44). -/
def floatTok (psn : Bool) (org : BitVec 32) (r : FRes) : Tok := if psn && r.pois then .poison org else valTok r.val

end Sys2Proof.Machine
end

