-- ==== Sys2Proof/Machine/Fire.lean ====
section
/-! DEFINITION. How a word fires in the fabric for the thread in focus (R46, R79, R82, R149): its ports, the order in which poison, a
failed predicate, null and data decide its output, and the tokens it sends. Every meaning of a word goes through these. -/
namespace Sys2Proof.Machine

/-- The thread in focus, its instance, its placement, the decoded words and the index of the word that fires. -/
structure Site where
  t : Thread
  ins : Inst
  pl : Placement
  ws : List (Option Instr)
  idx : Nat

/-- Where the word in focus stands; none when no instance is there. -/
def site? (s : State) : Option Site :=
  match threadAt? s s.focus.vc s.focus.frame with
  | none => none
  | some t => match t.inst with
    | none => none
    | some ins => match placeAt? s t.vc ins.place with
      | none => none
      | some pl => some ⟨t, ins, pl, decodeAll pl.conf.words, s.focus.idx⟩

/-- The token at a port of the instance (R149). -/
def tokAt (ins : Inst) (i p : Nat) : Option Tok := (ins.toks.find? fun x => x.1 == i && x.2.1 == p).map (·.2.2)

/-- The instance has entered the word's stage (R147). -/
def inStage (x : Site) : Bool := x.ins.stages.any fun e => e.stage == x.pl.stage.getD x.idx 0

/-- A word fires for its thread once every port it consumes holds its token, and once only (R149). [DESIGN CHOICE, log entry 3] -/
def canFire (x : Site) (sh : Shape) : Bool :=
  x.t.st == .admitted && !x.ins.fired.contains x.idx && inStage x &&
  (needs x.ws x.idx sh).all fun p => (tokAt x.ins x.idx p).isSome

/-- The grid of the thread in focus selects k64 to k127 (R83). -/
def siteKsel (s : State) (x : Site) : Bool := ((grid? s x.t.grid).map fun g => recKsel g.raw).getD false
/-- The grid's uniform registers (R111). -/
def siteUnif (s : State) (x : Site) : List (BitVec 32) := ((grid? s x.t.grid).map (·.unif)).getD []

/-- What a data port holds: a token, or what S or a `himm` supplies for port b (R83, R86). -/
def portTok (s : State) (x : Site) (sh : Shape) (p : Nat) : Tok :=
  let own := (tokAt x.ins x.idx p).getD .null
  if p != 1 then own
  else match sh.sel with
    | none => own
    | some (sv, ty) => match himmAt x.ws x.idx with
      | some pay => valTok (himmOperand ty (pay * 256 + sv))
      | none => match selOperand sv ty (siteKsel s x) (siteUnif s x) with
        | some v => valTok v
        | none => own

/-- The bits of a value token. -/
def tokVal : Tok → Nat
  | .val b => b.toNat
  | _ => 0

/-- A token is true as a predicate (R82). -/
def tokTrue : Tok → Bool
  | .val b => b.getLsbD 0
  | _ => false
/-- A token is false as a predicate (R82). -/
def tokFalse : Tok → Bool
  | .val b => !b.getLsbD 0
  | _ => false

/-- The predicate control lets the word execute (R81, R82). -/
def predHolds (pc : Nat) (p : Tok) : Bool := if pc == 0 then true else if pc == 1 then tokTrue p else tokFalse p

/-- The origin of the first poisoned token of a list. -/
def firstPoison : List Tok → Option (BitVec 32)
  | [] => none
  | .poison o :: _ => some o
  | _ :: r => firstPoison r

/-- Cases 1 to 4 of R46: the token that stands for the word's output, or none when it computes. -/
def gate (pc : Nat) (p : Tok) (data : List Tok) : Option Tok :=
  match (if pc == 0 then none else firstPoison [p]) with
  | some o => some (.poison o)
  | none =>
    if !predHolds pc p then some .null
    else if data.contains .null then some .null
    else match firstPoison data with
      | some o => some (.poison o)
      | none => none

/-- The data tokens of a word in the order a, b, c (R46). -/
def dataToks (s : State) (x : Site) (sh : Shape) : List Tok := sh.ins.map fun q => portTok s x sh q.1

/-- Cases 1 to 4 of R46 for the word in focus. -/
def siteGate (s : State) (x : Site) (sh : Shape) : Option Tok :=
  gate sh.pc ((tokAt x.ins x.idx 3).getD .null) (dataToks s x sh)

/-- The value on a data port, cut to the port's width. -/
def portVal (s : State) (x : Site) (sh : Shape) (p : Nat) : Nat :=
  match sh.ins.find? (fun q => q.1 == p) with
  | some (_, w) => let v := tokVal (portTok s x sh p); if w == 0 then v else v % 2 ^ w
  | none => 0

/-- The instance after a word has fired: its token at every target, its conditions joined (R79). -/
def fireInst (ins : Inst) (ws : List (Option Instr)) (i : Nat) (tok : Tok) (conds : Nat) : Inst :=
  { ins with
    toks := ins.toks ++ (targetsAt ws i).map (fun t => (t.1, t.2, tok))
    fired := ins.fired ++ [i]
    conds := joinConds ins.conds conds }

/-- Every token that passes from a word of an earlier stage to a word of stage `n` stands at its port: the hidden stage slots that feed the
stage are present (R146, R147). -/
def stageFed (ws : List (Option Instr)) (stage : List Nat) (ins : Inst) (n : Nat) : Bool :=
  (List.range ws.length).all fun i => !decide (stage.getD i 0 < n) ||
    (targetsAt ws i).all fun t => stage.getD t.1 0 != n || (tokAt ins t.1 t.2).isSome

/-- The cycle at which the stage slots of the next stage became present is noted (R148). -/
def noteReady (now : Nat) (ws : List (Option Instr)) (stage : List Nat) (ins : Inst) : Inst :=
  let n := ins.stages.length
  if ins.readyAt.isNone && stage.any (fun k => decide (n ≤ k)) && stageFed ws stage ins n then { ins with readyAt := some now } else ins

/-- The word in focus sends a token to all of its targets (R79). -/
def emit (s : State) (x : Site) (tok : Tok) (conds : Nat) : State :=
  let ins := noteReady (coreNow s x.t.vc) x.ws x.pl.stage (fireInst x.ins x.ws x.idx tok conds)
  modThread s x.t.uid fun t => { t with inst := some ins }

/-- The origin word of poison that the word in focus makes (R45). -/
def siteOrigin (x : Site) : BitVec 32 := originWord x.t.frame x.t.ptr.sidx x.idx

/-- A word of the fabric fires: it computes from its operands a token and conditions, unless R46 decides its output before. A word that
cannot fire yet waits. -/
def fireWith (i : Instr) (s : State) (f : Site → Shape → Tok × Nat) : Out :=
  match site? s, shape i with
  | some x, some sh =>
    if canFire x sh then
      match siteGate s x sh with
      | some tok => .next (emit s x tok 0)
      | none => let r := f x sh; .next (emit s x r.1 r.2)
    else .next s
  | _, _ => .next s

/-- A word whose result is a function of the operand bits on ports a, b and c (R183). -/
def fireInt (i : Instr) (s : State) (f : Nat → Nat → Nat → Nat) : Out :=
  fireWith i s fun x sh => (valTok (f (portVal s x sh 0) (portVal s x sh 1) (portVal s x sh 2)), 0)

/-- A floating-point word: result, conditions and poison mode (R38, R44, R208). -/
def fireFloat (i : Instr) (s : State) (f : Nat → Nat → Nat → FRes) : Out :=
  fireWith i s fun x sh =>
    let r := f (portVal s x sh 0) (portVal s x sh 1) (portVal s x sh 2)
    (floatTok x.ins.psn (siteOrigin x) r, r.conds)

/-- A word whose effect takes place at commit, or that decides the successor: it fires once its ports hold their tokens, and sends
nothing (R146, R157). [DEDUCED, log entry 6] -/
def fireSink (i : Instr) (s : State) : Out :=
  match site? s, shape i with
  | some x, some sh => if canFire x sh then .next (emit s x .null 0) else .next s
  | _, _ => .next s

/-- A hint or `nop` takes no element and never fires (R145, R167, R174): nothing happens. -/
def fireNothing (_ : Instr) (s : State) : Out := .next s

end Sys2Proof.Machine
end

