-- ==== Sys2Proof/Machine/Move.lean ====
section
/-! DEFINITION. Live values and moves (R197 to R203): `rd`, `wr`, `mov`, `rdsys`. -/
namespace Sys2Proof.Machine

/-- What `rd` sends for slot `n` at a width (R47, R198, R45): a marked slot gives poison with the stored origin. -/
def rdTok (slots : List Slot) (n width : Nat) : Tok :=
  let lo := slots.getD n Slot.empty
  let hi := slots.getD (n + 1) Slot.empty
  if lo.mark then .poison lo.val
  else if width == 64 then
    (if hi.mark then .poison hi.val else valTok (lo.val.toNat + hi.val.toNat * 2 ^ 32))
  else valTok lo.val.toNat

/-- The slots that an access of a width covers (R198, R199). -/
def slotsOf (n width : Nat) : List Nat := if width == 64 then [n, n + 1] else [n]

/-- A thread reads slots: where one of them holds a landed engine status it acquires at .g (R291, R327). -/
def statusAcquire (s : State) (t : Thread) (ns : List Nat) : State :=
  if ns.any t.statusAt.contains then invalidateL1 s t.vc t.ctx else s

/-- `rd` (R198): the slot as it stood at admission. Reading a slot in which an error was found parks the thread (R378). [DEDUCED, log entry 40] -/
def execRd (f : FmtL) (s : State) : Out :=
  match site? s, shape (.rd f) with
  | some x, some sh =>
    if canFire x sh then
      let w := outWidthAt x.ws x.idx
      if (slotsOf f.slot.toNat w).any x.t.lvsBad.contains then .next (takeFault s x.t.uid ⟨0x0A, 2, 0, 0, 0⟩)
      else .next (emit (statusAcquire s x.t (slotsOf f.slot.toNat w)) x (rdTok x.ins.slots0 f.slot.toNat w) 0)
    else .next s
  | _, _ => .next s

/-- Slot `n` (and `n + 1` where wide) of a frame written: presence set, marks cleared (R199, R273). -/
def putSlots (slots : List Slot) (n : Nat) (wide : Bool) (v : Nat) : List Slot :=
  let s1 := setAt slots n ⟨BitVec.ofNat 32 v, true, false⟩
  if wide then setAt s1 (n + 1) ⟨BitVec.ofNat 32 (v / 2 ^ 32), true, false⟩ else s1

/-- A thread's slots written by a later landing; error marks of the slots go (R273, R312, R378). -/
def landSlots (s : State) (uid n : Nat) (wide : Bool) (v : Nat) : State :=
  wantConf (modThread s uid fun t => if t.st == .exited then t else { t with
    slots := putSlots t.slots n wide v
    statusAt := t.statusAt.filter fun k => !(slotsOf n (if wide then 64 else 32)).contains k
    lvsBad := t.lvsBad.filter fun k => !(slotsOf n (if wide then 64 else 32)).contains k }) uid

/-- `wr` (R199): its slot is written at commit. -/
def execWr (f : FmtL) (s : State) : Out := fireSink (.wr f) s

/-- `mov` (R200): the token of port a, unchanged. -/
def execMov (f : FmtB) (s : State) : Out :=
  match site? s, shape (.mov f) with
  | some x, some sh =>
    if canFire x sh then
      match siteGate s x sh with
      | some tok => .next (emit s x tok 0)
      | none => .next (emit s x (portTok s x sh 0) 0)
    else .next s
  | _, _ => .next s

/-- A group's coordinates in its grid (R110, R118). -/
def groupCoords (g : Grid) (gi : Nat) : Nat × Nat × Nat :=
  if g.spec.isSome then (gi, 0, 0)
  else let (x, y, _) := recGroups g.raw; (gi % x, gi / x % y, gi / (x * y))

/-- The grid's group counts along the dimensions; along x as sampled for a speculative launch (R118, R201). -/
def gridDims (g : Grid) (ngrpx : Nat) : Nat × Nat × Nat :=
  if g.spec.isSome then (ngrpx, 1, 1) else recGroups g.raw

/-- The system values of R201 for a thread's instance; all but sys.clock as they stood at admission (R202, R203). -/
def sysValue (s : State) (t : Thread) (ins : Inst) (n : Nat) : Nat :=
  match grid? s t.grid with
  | none => 0
  | some g =>
    let (cx, cy, cz) := groupCoords g t.gidx
    let (nx, ny, nz) := gridDims g ins.ngrpx
    match n with
    | 0 => t.tid
    | 1 => recThreads g.raw
    | 2 => cx % 2 ^ 32
    | 3 => cy % 2 ^ 32
    | 4 => cz % 2 ^ 32
    | 5 => nx % 2 ^ 32
    | 6 => ny % 2 ^ 32
    | 7 => nz % 2 ^ 32
    | 8 => t.vc
    | 9 => t.vc / 16
    | 10 => t.frame
    | 11 => ins.prov.toNat
    | 12 => (if g.spec.isSome then ins.shape else nx * ny * nz) % 2 ^ 32
    | _ => dieClock s t.vc % 2 ^ 64

/-- `rdsys` (R201). [DEDUCED, log entry 40] -/
def execRdsys (f : FmtL) (s : State) : Out :=
  fireWith (.rdsys f) s fun x _ => (valTok (sysValue s x.t x.ins f.slot.toNat), 0)

end Sys2Proof.Machine
end

