-- ==== Sys2Proof/Machine/Sync.lean ====
section
/-! DEFINITION. Exchange, group operations, signals and system control in the fabric (R345 to R364). `xget`, `rdctl` and `perf` act when
they fire; the others hand their operands on to the commit of their instance. -/
namespace Sys2Proof.Machine

/-- A live thread: it has not exited (R351). -/
def liveThread (t : Thread) : Bool := t.st != .exited

/-- The exchange slots of a group's threads from before the commits of the current cycle, for those that have committed in it (R351). -/
def xsOldNow (s : State) (vc : Nat) : List XsOld :=
  let k := (core s vc).cycle
  if k.commitAt.any fun c => c.1 == coreNow s vc then k.xsOld else []

/-- The exchange slots of the live member of a thread's group whose sys.tid is `tid`, as they stood before the cycle's commits (R351). -/
def xsShown? (s : State) (t : Thread) (tid : Nat) : Option (List Slot) :=
  match (xsOldNow s t.vc).find? fun o => o.grid == t.grid && o.gidx == t.gidx && o.tid == tid with
  | some o => some o.xs
  | none => ((threadsOf s t.grid t.gidx).find? fun m => m.tid == tid && liveThread m).map (·.xs)

/-- What `xget` reads (R351): the slot `n` of the live member of the group whose sys.tid is `tid`. -/
def xgetTok (s : State) (t : Thread) (tid n : Nat) : Tok :=
  match xsShown? s t tid with
  | none => .null
  | some xs =>
    let sl := xs.getD n Slot.empty
    if !sl.pres then .null else if sl.mark then .poison sl.val else valTok sl.val.toNat

/-- `xput` (R350): fills the thread's own exchange slot at commit. -/
def execXput (f : FmtL) (s : State) : Out := fireSink (.xput f) s
/-- `xget` (R351): reads at once. -/
def execXget (f : FmtL) (s : State) : Out :=
  fireWith (.xget f) s fun x sh => (xgetTok s x.t (portVal s x sh 0) (f.slot.toNat % 8), 0)
/-- `xclr` (R350): empties the thread's own exchange slot at commit. -/
def execXclr (f : FmtL) (s : State) : Out := fireSink (.xclr f) s
/-- `gred` (R352 to R354): contributes at commit; its `wr` is deferred to the completion. -/
def execGred (f : FmtA) (s : State) : Out := fireSink (.gred f) s
/-- `gscan` (R352 to R354): contributes at commit; its `wr` is deferred to the completion. -/
def execGscan (f : FmtA) (s : State) : Out := fireSink (.gscan f) s
/-- `vote` (R352 to R354): contributes at commit; its `wr` is deferred to the completion. -/
def execVote (f : FmtA) (s : State) : Out := fireSink (.vote f) s
/-- `sigsub` (R355): subtracts from a signal after commit. -/
def execSigsub (f : FmtT) (s : State) : Out := fireSink (.sigsub f) s
/-- `sigwait` (R355): holds the thread's move after commit. -/
def execSigwait (f : FmtT) (s : State) : Out := fireSink (.sigwait f) s
/-- `mbox` (R355): writes a signal after commit. -/
def execMbox (f : FmtT) (s : State) : Out := fireSink (.mbox f) s

/-- LOCK of an entry (R25): the virtual core holds a resident group, a placed segment, or an engine command in flight. -/
def vctLocked (s : State) (vc : Nat) : Bool :=
  s.groups.any (fun g => g.at_ == .core vc && g.st != .retired && g.st != .squashed) ||
  !(core s vc).places.isEmpty || !(core s vc).copies.isEmpty || (core s vc).ops.any (fun o => o.st == .pending)

/-- A virtual core table entry as a register (R25): V, LOCK, PCORE, PDIE. -/
def vctWord (s : State) (n : Nat) : Nat :=
  let e := s.pkg.vct.getD n ⟨false, 0⟩
  e.v.toNat * 2 ^ 31 + (vctLocked s n).toNat * 2 ^ 30 + e.pcore * 2 ^ 16 + e.pcore / 18 * 2 ^ 8

/-- A context-scoped register (R359, R360); FU_DONE reads 0. -/
def ctxReg (r : CtxRegs) (n : Nat) : Nat :=
  match n with
  | 2 => r.ctxCtl.toNat
  | 3 => r.ptBase.toNat
  | 4 => r.qtabBase.toNat
  | 5 => r.sigtBase.toNat
  | 6 => r.sigtN.toNat
  | 7 => r.predBase.toNat
  | 8 => r.raltBase.toNat
  | 9 => r.chtBase.toNat
  | 10 => r.evqBase.toNat
  | 11 => r.wdLimit.toNat
  | 12 => r.dgLimit.toNat
  | 13 => r.barLimit.toNat
  | 14 => r.policy.toNat
  | 16 => r.req.toNat * 2 ^ 31 + r.phase
  | _ => 0

/-- A control register as a context reads it (R359): CTX_ID, CSEL, a register of the context CSEL names, or a VCT entry. -/
def readCtl (s : State) (ctx n : Nat) : Nat :=
  match ctx? s ctx with
  | none => 0
  | some c =>
    if n == 0 then ctx
    else if n == 1 then c.regs.csel.toNat
    else if 0x80 ≤ n then vctWord s (n - 0x80)
    else match ctx? s (c.regs.csel.toNat % 2 ^ 16) with
      | some d => ctxReg d.regs n
      | none => 0

/-- `rdctl` (R361): samples the register when it fires. -/
def execRdctl (f : FmtS) (s : State) : Out := fireWith (.rdctl f) s fun x _ => (valTok (readCtl s x.t.ctx f.ctl.toNat), 0)
/-- `wrctl` (R361): writes at commit. -/
def execWrctl (f : FmtS) (s : State) : Out := fireSink (.wrctl f) s
/-- `tlbinv` (R362): invalidates at commit. -/
def execTlbinv (f : FmtS) (s : State) : Out := fireSink (.tlbinv f) s
/-- `cinv` (R362): invalidates at commit. -/
def execCinv (f : FmtS) (s : State) : Out := fireSink (.cinv f) s
/-- `evpost` (R363): posts a record at commit. -/
def execEvpost (f : FmtS) (s : State) : Out := fireSink (.evpost f) s

/-- A monitor of the executing context on the thread's core (R363). -/
def perfValue (s : State) (vc ctx n : Nat) : Nat :=
  match (ctx? s ctx).bind fun c => c.mons.find? fun m => m.vc == vc with
  | none => 0
  | some m => match n with
    | 0 => m.miss.toNat
    | 1 => m.admits.toNat
    | 2 => m.commits.toNat
    | 3 => m.bpMiss.toNat
    | _ => m.aborts.toNat

/-- `perf` (R363). -/
def execPerf (f : FmtS) (s : State) : Out := fireWith (.perf f) s fun x _ => (valTok (perfValue s x.t.vc x.t.ctx f.ctl.toNat), 0)
/-- `ctxsv` (R364): writes a context image after commit. -/
def execCtxsv (f : FmtS) (s : State) : Out := fireSink (.ctxsv f) s
/-- `ctxld` (R364): builds a context after commit. -/
def execCtxld (f : FmtS) (s : State) : Out := fireSink (.ctxld f) s

end Sys2Proof.Machine
end

