-- ==== Sys2Proof/Machine/Group.lean ====
section
/-! DEFINITION. What a group's threads wait for together (R102 to R104, R347 to R356): signals and their watch entries, barriers,
collectives, `gwait`, and the end of each wait. -/
namespace Sys2Proof.Machine

/-! Signals -/

/-- The rights that watching a signal needs (R451). -/
def sigNeed : HubNeed := ⟨true, true, none, true⟩

/-- The record of an invalid signal entry (R102, R366). -/
def sigFault (ctx n : Nat) : EvRec := plainRec ctx 2 11 0 0 (BitVec.ofNat 32 n)

/-- The physical address of a signal's word, watched from now on; an entry that fails stays invalid and is reported once (R102);
one whose page migrates is read again later (R451). -/
def watchSignal (s : State) (ctx n : Nat) : State × Option Nat :=
  match ctx? s ctx with
  | none => (s, none)
  | some c =>
    if c.regs.sigtN.toNat ≤ n then (s, none)
    else match c.sigs.find? fun e => e.n == n with
      | some e => (s, e.pa)
      | none =>
        let keep : State → Option Nat → State := fun s pa => modCtx s ctx fun c => { c with sigs := c.sigs ++ [⟨n, pa⟩] }
        let bad : State → State × Option Nat := fun s => (postEvent (keep s none) (sigFault ctx n), none)
        match hubReadVa s c (c.regs.sigtBase.toNat + 8 * n) 8 ⟨true, false, none, false⟩ with
        | (s1, none) => if stalled s1 then (s1, none) else bad s1
        | (s1, some bs) =>
          let v := natLE bs
          if v % 8 != 1 || 2 ^ 55 ≤ v then bad s1
          else match hubTranslate s1 c (v - 1) sigNeed false with
            | (s2, none) => if stalled s2 then (s2, none) else bad s2
            | (s2, some pa) => (keep s2 (some pa), some pa)

/-- The value of the word at a physical address, in the hub's order. -/
def wordAt (s : State) (pa : Nat) : BitVec 64 := BitVec.ofNat 64 (natLE (hubRead s pa 8))

/-- A signal's current value; none for an invalid entry. -/
def signalValue (s : State) (ctx n : Nat) : State × Option (BitVec 64) :=
  match watchSignal s ctx n with
  | (s1, some pa) => (s1, some (wordAt s1 pa))
  | (s1, none) => (s1, none)

/-! Waits -/

/-- A thread of the group that barriers and collectives count (R347). -/
def counted (t : Thread) : Bool := !t.detached && t.st != .exited

/-- Everything the thread passed on before is performed at .g and acknowledged: what a releasing scratchpad atomic waits for (R262, R265).
[DEDUCED, log entry 25] -/
def settledG (s : State) (uid : Nat) : Bool :=
  s.effects.all fun e => e.uid != uid || (performedAt s 1 e && ackDone e)

/-- Everything the thread passed on before is performed at .g: its arrival's release, which waits for no acknowledgement (R262, R348, R354).
[DEDUCED, log entry 25] -/
def performedG (s : State) (uid : Nat) : Bool := s.effects.all fun e => e.uid != uid || performedAt s 1 e

/-- All the group's counted members are in a list, and each of these has its release done. -/
def allArrived (s : State) (g gi : Nat) (l : List Nat) : Bool :=
  !l.isEmpty && ((threadsOf s g gi).all fun t => !counted t || l.contains t.uid) && l.all (performedG s)

/-- A thread's waits that satisfy `p` are over. -/
def endWaits (s : State) (uid : Nat) (p : Wait → Bool) : State :=
  modThread s uid fun t => { t with wait := t.wait.map fun w => { w with waits := w.waits.filter fun x => !p x } }

/-- An acquire at a scope for every core that holds the group: it is on one (R348, R356). -/
def groupAcquire (s : State) (gr : Group) (scope : Nat) : State :=
  match gr.at_ with
  | .core vc => acquireOn s vc gr.ctx scope
  | .dugout .. => s

/-- A barrier generation completes when every counted member has arrived (R347, R348). -/
def settleBar (s : State) (g gi n : Nat) : State :=
  match group? s g gi with
  | none => s
  | some gr =>
    let b := gr.bars.getD n ⟨0, [], 0, false, 0⟩
    if !allArrived s g gi b.arrived then s
    else
      let s1 := b.arrived.foldl (fun s u => endWaits s u (· == .bar n)) s
      modGroup (groupAcquire s1 gr 1) g gi fun x => { x with bars := setAt x.bars n ⟨b.gen + 1, [], 0, false, 0⟩ }

/-- The kind of a collective's wait. -/
def isCollWait : Wait → Bool
  | .coll .. => true
  | _ => false

/-! Collectives (R49, R51, R352 to R354) -/

/-- What a collective computes: 0 add, 1 min, 2 max, 3 and, 4 or, 5 xor; its class and type. -/
structure CollOp where
  op : Nat
  float : Bool
  ty : Nat

/-- Two values combined (R51, R354); the float adds, minima and maxima of `gred` and `gscan` raise none of the conditions of R38.
[DESIGN CHOICE, log entry 78] -/
def combine (o : CollOp) (a b : Nat) : Nat :=
  if o.float then
    let ft := ffmt (floatLanes o.ty).2
    match o.op with
    | 0 => (laneFadd 0 ft a b 0).val
    | 1 => (laneMinMax false false ft a b 0).val
    | _ => (laneMinMax true false ft a b 0).val
  else
    let w := intWidth o.ty
    let sg := o.ty == 0 || o.ty == 2
    match o.op with
    | 0 => laneAdd w sg a b 0
    | 1 => laneMinOp w sg a b 0
    | 2 => laneMaxOp w sg a b 0
    | 3 => a &&& b
    | 4 => a ||| b
    | _ => a ^^^ b

/-- The result over no value, for an exclusive scan (R354). -/
def identity (o : CollOp) : Nat :=
  if o.float then
    let ft := ffmt (floatLanes o.ty).2
    match o.op with
    | 0 => 0
    | 1 => ft.infBits false
    | _ => ft.infBits true
  else
    let w := intWidth o.ty
    let sg := o.ty == 0 || o.ty == 2
    match o.op with
    | 1 => wrap w (laneMax w sg)
    | 2 => wrap w (laneMin w sg)
    | _ => 0

/-- The first value of a reduction: a NaN becomes the canonical one (R30, R51). -/
def firstValue (o : CollOp) (a : Nat) : Nat :=
  let ft := ffmt (floatLanes o.ty).2
  if o.float && (decodeF ft a).isNan then ft.canon else a

/-- The reduction of values in the order of a list (R51). -/
def reduceList (o : CollOp) : List Nat → Nat
  | [] => identity o
  | a :: r => r.foldl (combine o) (firstValue o a)

/-- The operation of a `gred` by S (R90): add, min, max, and, or, xor. -/
def gredOp (f : FmtA) : CollOp := ⟨f.s.toNat, f.mod.getLsbD 0, f.ty⟩
/-- The operation of a `gscan` by S (R90): add, min, max, each inclusive then exclusive. -/
def gscanOp (f : FmtA) : CollOp := ⟨f.s.toNat / 2, f.mod.getLsbD 0, f.ty⟩

/-- Insertion by thread id. -/
def insertByTid (c : Contrib) : List Contrib → List Contrib
  | [] => [c]
  | d :: r => if c.tid < d.tid then c :: d :: r else d :: insertByTid c r

/-- Contributions in ascending thread id (R51). -/
def byTid (l : List Contrib) : List Contrib := l.foldl (fun r c => insertByTid c r) []

/-- The values of a list of contributions, nulls left out. -/
def contribVals (l : List Contrib) : List Nat := l.filterMap fun c => match c.tok with
  | .val b => some b.toNat
  | _ => none

/-- What a contributing thread receives when a collective completes (R49, R353, R354); null for a null contribution. -/
def collResult (i : Instr) (cs : List Contrib) (c : Contrib) : Tok :=
  if c.tok == .null then .null
  else match i with
    | .gred f => match firstPoison (cs.map (·.tok)) with
      | some o => .poison o
      | none => valTok (reduceList (gredOp f) (contribVals cs))
    | .gscan f =>
      let inRange : Contrib → Bool := fun d => if f.s.toNat % 2 == 0 then decide (d.tid ≤ c.tid) else decide (d.tid < c.tid)
      match firstPoison ((cs.filter inRange).map (·.tok)) with
      | some o => .poison o
      | none => valTok (reduceList (gscanOp f) (contribVals ((byTid cs).filter inRange)))
    | .vote f => match firstPoison (cs.map (·.tok)) with
      | some o => .poison o
      | none =>
        let ones := ((contribVals cs).filter fun v => v % 2 == 1).length
        match f.s.toNat with
        | 0 => valTok (if ones == 0 then 0 else 1)
        | 1 => valTok (if ones == (contribVals cs).length then 1 else 0)
        | _ => valTok ones
    | _ => .null

/-- A slot of a thread takes a token as `wr` does (R47, R199). -/
def wrTok (t : Thread) (n : Nat) (wide : Bool) (tok : Tok) : Thread :=
  let other : Nat → Bool := fun k => !(slotsOf n (if wide then 64 else 32)).contains k
  let t1 := { t with lvsBad := t.lvsBad.filter other, statusAt := t.statusAt.filter other }
  match tok with
  | .null => t
  | .val b => { t1 with slots := putSlots t.slots n wide b.toNat }
  | .poison o =>
    let s1 := setAt t.slots n ⟨o, true, true⟩
    { t1 with slots := if wide then setAt s1 (n + 1) ⟨o, true, true⟩ else s1 }

/-- A wait belongs to the collective of the word at an index; one that a context image brought back names no index (R385). -/
def waitsColl (idx : Nat) (x : Wait) : Bool :=
  match x with
  | .coll i _ _ => i == idx || decide (128 ≤ i)
  | _ => false

/-- A collective's result lands in the deferred slot of each contributing thread, and its wait ends (R353, R354). -/
def landColl (s : State) (i : Instr) (co : Coll) (c : Contrib) : State :=
  modThread s c.uid fun t => match t.wait with
    | none => t
    | some w =>
      let mine : Wait → Bool := waitsColl co.idx
      let t1 := w.waits.foldl (fun t x => match x with
        | .coll _ slot wide => if mine x && slot < 64 then wrTok t slot wide (collResult i co.contribs c) else t
        | _ => t) t
      { t1 with wait := some { w with waits := w.waits.filter fun x => !mine x } }

/-- A collective completes when every counted member has contributed (R354). -/
def settleColl (s : State) (g gi : Nat) (co : Coll) : State :=
  match group? s g gi, (decode co.word).toOption with
  | some gr, some i =>
    if !allArrived s g gi (co.contribs.map (·.uid)) then s
    else
      let s1 := co.contribs.foldl (fun s c => landColl s i co c) s
      let next : Coll → Coll := fun x => if x.ptr == co.ptr && x.idx == co.idx then { x with gen := x.gen + 1, contribs := [], told := false } else x
      modGroup (groupAcquire s1 gr 1) g gi fun x => { x with colls := x.colls.map next }
  | _, _ => s

/-! Group waits and signal waits (R355, R356) -/

/-- A fully arrived `gwait` whose condition holds for a value: every arrived thread moves on, and the group acquires at its scope. -/
def passGwait (s : State) (gr : Group) : State :=
  let s1 := gr.gw.arrived.foldl (fun s u => endWaits s u (· == .gwait)) s
  modGroup (groupAcquire s1 gr gr.gwScope) gr.grid gr.gidx fun x => { x with gw := ⟨x.gw.gen + 1, [], 0, false, 0⟩, wantIn := x.wantIn || (match x.at_ with
    | .dugout .. => true
    | .core _ => false) }

/-- The `gwait` of a group tested against the value current now. -/
def settleGwait (s : State) (g gi : Nat) : State :=
  match group? s g gi with
  | none => s
  | some gr =>
    if !allArrived s g gi gr.gw.arrived then s
    else match signalValue s gr.ctx gr.gwSig with
      | (s1, some v) => if v ≤ gr.gwThr then passGwait s1 gr else s1
      | (s1, none) => s1

/-- A group in a dugout is wanted back (R247, R356). -/
def wakeGroup (s : State) (g gi : Nat) : State :=
  modGroup s g gi fun x => { x with wantIn := x.wantIn || (match x.at_ with
    | .dugout .. => true
    | .core _ => false) }

/-- Results in slots, each of a width in bytes, share a slot (R273). -/
def slotsMeet (a b : Nat × Nat) : Bool :=
  decide (a.1 < b.1 + (b.2 + 3) / 4) && decide (b.1 < a.1 + (a.2 + 3) / 4)

/-- The slot in which an effect's result lands, and its width in bytes. -/
def resultSlot? (e : Effect) : Option (Nat × Nat) :=
  match e.kind with
  | .atomic _ _ w _ _ k | .spad _ _ w _ _ k | .result w k => if k < 64 then some (k, w) else none
  | _ => none

/-- A result of a thread's instance at an ordinal, aimed at a slot, has to wait: another of a lower ordinal has yet to land there, or a collective's
deferred `wr` (R273, R352). [DEDUCED, log entry 20] -/
def resultWaits (s : State) (uid seq ord : Nat) (k : Nat × Nat) : Bool :=
  (s.effects.any fun y => y.uid == uid && (decide (y.seq < seq) || (y.seq == seq && decide (y.ord < ord))) && !y.landed &&
    (resultSlot? y).any (slotsMeet k)) ||
  (thread? s uid).any fun t => t.wait.any fun m => m.waits.any fun x => match x with
    | .coll _ slot wide => decide (slot < 64) && slotsMeet k (slot, if wide then 8 else 4)
    | .sig o _ _ slot _ _ => decide (slot < 64) && decide (o < ord) && slotsMeet k (slot, 8)
    | _ => false

/-- A result that comes out of turn: it lands once those before it have (R273). The state and the effect's number. -/
def queueResult (s : State) (t : Thread) (seq ord slot : Nat) (v : BitVec 64) : State × Nat :=
  let (id, s1) := fresh s
  let e : Effect :=
    { id := id, ctx := t.ctx, grid := t.grid, gidx := t.gidx, vc := t.vc, uid := t.uid, frame := t.frame, seq := seq, ord := ord, ptr := t.ptr
      idx := 0, kind := .result 8 slot, va := 0, width := 8, mt := 0, ga := false, rel := 0, acq := 0, runs := [], old := v, st := .placed
      seenEf := 0, acked := false, accepted := false, landed := false, lost := false, tries := 0, sentAt := none }
  ({ s1 with effects := s1.effects ++ [e] }, id)

/-- A `sigwait` is satisfied by a value: its result lands, or waits for its turn, and the wait is over (R273, R355). -/
def passSigWait (s : State) (t : Thread) (x : Wait) (ord slot : Nat) (v : BitVec 64) : State :=
  if slot < 64 then
    if resultWaits s t.uid (t.seq - 1) ord (slot, 8) then
      let r := queueResult s t (t.seq - 1) ord slot v
      modThread r.1 t.uid fun t => { t with wait := t.wait.map fun w => { w with waits := w.waits.map fun y => if y == x then .effect r.2 else y } }
    else endWaits (landSlots s t.uid slot true v.toNat) t.uid (· == x)
  else endWaits s t.uid (· == x)

/-- A waiting thread's `sigwait`, or its own `gwait`, tested against a value of a signal (R355, R356). -/
def testSigWait (s : State) (t : Thread) (n : Nat) (v : BitVec 64) : State :=
  match t.wait with
  | none => s
  | some w => w.waits.foldl (fun s x => match x with
    | .sig ord k thr slot acq w =>
      let scope := if acq then (readFmtT w).scope.toNat else 0
      if k == n && v ≤ thr then passSigWait (wakeGroup (acquireOn s t.vc t.ctx scope) t.grid t.gidx) t x ord slot v
      else s
    | .ownGwait k thr w =>
      if k == n && v ≤ thr then endWaits (wakeGroup (acquireOn s t.vc t.ctx ((readFmtS w).ctl.toNat % 8)) t.grid t.gidx) t.uid (· == x) else s
    | _ => s) s

/-- The waits of one group tested again: barriers, collectives, `gwait` (R347, R354, R356). -/
def settleGroup (s : State) (g gi : Nat) : State :=
  match group? s g gi with
  | none => s
  | some gr =>
    let s1 := (List.range 4).foldl (fun s n => if (gr.bars.getD n ⟨0, [], 0, false, 0⟩).arrived.isEmpty then s else settleBar s g gi n) s
    let s2 := gr.colls.foldl (fun s co => if co.contribs.isEmpty then s else settleColl s g gi co) s1
    if gr.gw.arrived.isEmpty then s2 else settleGwait s2 g gi

/-- Every group in which somebody has arrived. -/
def settleGroups (s : State) : State :=
  s.groups.foldl (fun s gr =>
    if gr.bars.any (fun b => !b.arrived.isEmpty) || gr.colls.any (fun c => !c.contribs.isEmpty) || !gr.gw.arrived.isEmpty then
      settleGroup s gr.grid gr.gidx
    else s) s

/-- A wait is over by itself once its effect has landed or has left the list (R273). -/
def waitOver (s : State) (w : Wait) : Bool :=
  match w with
  | .effect id => match s.effects.find? fun e => e.id == id with
    | some e => e.landed && ackDone e
    | none => true
  | _ => false

/-! Exit (R164, R389) -/

/-- The slots of the thread's frame into which commands will still write a status (R164, R312, R364). -/
def statusOwed (s : State) (t : Thread) : List Nat :=
  ((core s t.vc).copies.filter fun c => c.uid == t.uid).map (fun c => (cmdE c.word).slot.toNat) ++
  ((core s t.vc).ops.filter fun o => o.uid == t.uid && o.st == .pending && [0xD7, 0xD8, 0xD9].contains (cmdOp o.word)).map
    (fun o => (cmdE o.word).slot.toNat) ++
  s.effects.filterMap fun e => match e.kind with
    | .image _ _ slot => if e.uid == t.uid && !e.landed then some slot else none
    | _ => none

/-- A command that will still write a status into a slot of the thread's frame (R164). -/
def frameBusy (s : State) (t : Thread) : Bool := !(statusOwed s t).isEmpty

/-- An acknowledgement that the thread awaits or has lost: it holds its group's retirement (R333, R389). -/
def ackOwed (s : State) (t : Thread) : Bool := !t.ackLost.isEmpty || s.effects.any fun e => e.uid == t.uid && !ackDone e

/-- The thread's group is being squashed: its resources are released when it reaches the squashed state (R125). -/
def squashing (s : State) (t : Thread) : Bool := ((group? s t.grid t.gidx).map (·.st)) == some .squashing

/-- Frames of exited threads return to the pool once nothing will write them (R164). A thread whose frame has gone is kept, without it, while it
is owed an acknowledgement (R333). [DESIGN CHOICE, log entry 24] -/
def freeFrames (s : State) : State :=
  let gone : Thread → Bool := fun t => t.st == .exited && !frameBusy s t && !squashing s t
  { s with threads := (s.threads.filter fun t => !gone t || ackOwed s t).map fun t => if gone t then { t with resident := false } else t }

/-- A thread's slots as at creation and after `exit`: nothing present, nothing marked (R129, R164, R350). -/
def clearFrame (t : Thread) : Thread :=
  { t with slots := List.replicate 64 Slot.empty, xs := List.replicate 8 Slot.empty, lvsBad := [], statusAt := [], inst := none, wait := none, kept := none }

/-- The thread leaves as at `exit` (R164, R371): its slots are no longer present, and barriers no longer count it. -/
def leaveThread (s : State) (uid : Nat) : State :=
  match thread? s uid with
  | none => s
  | some t =>
    let s1 := modThread s uid fun t => { clearFrame t with st := .exited }
    let s2 := modGroup s1 t.grid t.gidx fun g =>
      { g with bars := g.bars.map (fun b => { b with arrived := b.arrived.filter (· != uid) }), gw := { g.gw with arrived := g.gw.arrived.filter (· != uid) } }
    freeFrames (settleEntries (settleGroup s2 t.grid t.gidx) t.vc)

/-- Waits on signals evaluate their condition at once, against the value then current (R355). -/
def testNow (s : State) (uid : Nat) (ws : List Wait) : State :=
  ws.foldl (fun s w => match w with
    | .sig _ n .. | .ownGwait n .. => match thread? s uid with
      | some t => match signalValue s t.ctx n with
        | (s1, some v) => testSigWait s1 t n v
        | (s1, none) => s1
      | none => s
    | _ => s) s

end Sys2Proof.Machine
end

