-- ==== Sys2Proof/Machine/Memory.lean ====
section
/-! DEFINITION. Loads, stores, cache control and atomics in the fabric (R250 to R276). A load issues its request when it fires; a
word that acts at commit hands its operands on, and the commit of its instance (R151) makes its effect. -/
namespace Sys2Proof.Machine

/-- What a load does when it fires (R254): a token at once, or a request at an address. -/
inductive LoadAct where
  | tok (t : Tok)
  | req (va : Nat) (st : LoadSt)
deriving DecidableEq, Repr

/-- The value of a loaded number of bytes as a token's bits (R251): sign-extended to 32 bits for the codes 5 and 6. -/
def extendLoad (code v : Nat) : Nat :=
  if code == 5 then wrap 32 (toSigned 8 v) else if code == 6 then wrap 32 (toSigned 16 v) else v

/-- The instance after a load has issued its request in a core cycle: no token yet (R254). -/
def issueInst (ins : Inst) (i va : Nat) (st : LoadSt) (now : Nat) : Inst :=
  { ins with fired := ins.fired ++ [i], loads := ins.loads ++ [⟨i, va, st, now⟩] }

/-- A load fires: a poison index gives poison, a failed predicate or a null index null, and otherwise `f` says what is read (R254). -/
def fireLoad (i : Instr) (s : State) (f : Site → Shape → State × LoadAct) : Out :=
  match site? s, shape i with
  | some x, some sh =>
    if canFire x sh then
      match siteGate s x sh with
      | some tok => .next (emit s x tok 0)
      | none =>
        let r := f x sh
        match r.2 with
        | .tok t => .next (emit r.1 x t 0)
        | .req va st => .next (modThread r.1 x.t.uid fun t => { t with inst := some (issueInst x.ins x.idx va st (coreNow s x.t.vc)) })
    else .next s
  | _, _ => .next s

/-- The buffer record a word names, from the grid's table (R111). -/
def bufOf (s : State) (t : Thread) (n : Nat) : BitVec 128 := ((grid? s t.grid).map fun g => g.bufs.getD n 0).getD 0

/-- The CID that governs a thread's accesses: the CIDF of its launch (R158). -/
def cidfOf (s : State) (t : Thread) : Nat := ((grid? s t.grid).map fun g => recCid g.raw).getD 0

/-- Scratchpad units of a thread's group, and their base. -/
def unitsOf (s : State) (t : Thread) : Nat × Nat :=
  ((group? s t.grid t.gidx).map fun g => (g.spadUnits, g.spadBase)).getD (0, 0)

/-- A global read fires: BufAddr, then translation; a miss waits for a walk (R231, R234, R253). -/
def globalLoad (s : State) (x : Site) (buf idx w : Nat) : State × LoadAct :=
  match bufAddr (bufOf s x.t buf) idx (hoffAt x.ws x.idx) w .read with
  | .out => (s, .tok (valTok 0))
  | .fault e => (s, .req 0 (.failed e))
  | .va va =>
    match translate s { x.t with inst := some x.ins } (cidfOf s x.t) va .read with
    | .fault e => (s, .req va (.failed e))
    | .miss => (addMiss s x.t (cidfOf s x.t) va .read, .req va .pending)
    | .pa .. => (s, .req va .pending)

/-- A scratchpad offset with `hoff` added (R252, R253). -/
def scratchAddr (s : State) (x : Site) (off w : Nat) : Addr := spadAddr (unitsOf s x.t).1 ((off : Int) + hoffAt x.ws x.idx) w

/-- The lines of a group's scratchpad that an access touches, and whether one of them holds an uncorrectable error (R378). -/
def badScratch (s : State) (t : Thread) (off w : Nat) : Bool :=
  let p := (unitsOf s t).2 * 16384 + off
  (core s t.vc).store.badLines.any fun l => decide (64 * l < p + w) && decide (p < 64 * l + 64)

/-- `ld` (R257). -/
def execLd (f : FmtM) (s : State) : Out :=
  fireLoad (.ld f) s fun x sh => globalLoad s x f.buf.toNat (portVal s x sh 0) (accessBytes f.wcode)

/-- `st` (R260): stores at commit. -/
def execSt (f : FmtM) (s : State) : Out := fireSink (.st f) s

/-- `lds` (R258): reads once its line is present. -/
def execLds (f : FmtM) (s : State) : Out :=
  fireLoad (.lds f) s fun x sh =>
    match scratchAddr s x (portVal s x sh 0) (accessBytes f.wcode) with
    | .va o => (s, .req o .pending)
    | .fault e => (s, .req 0 (.failed e))
    | .out => (s, .tok (valTok 0))

/-- `sts` (R260): stores at commit. -/
def execSts (f : FmtM) (s : State) : Out := fireSink (.sts f) s

/-- `ldsn` (R258): reads at once, whatever the presence bit, but after the thread's own earlier stores (R255).
[DESIGN CHOICE, log entry 21; DESIGN CHOICE, log entry 38] -/
def execLdsn (f : FmtM) (s : State) : Out :=
  fireLoad (.ldsn f) s fun x sh =>
    let w := accessBytes f.wcode
    match scratchAddr s x (portVal s x sh 0) w with
    | .va o =>
      if badScratch s x.t o w then (s, .req o (.failed ⟨0x0A, 3, 0, o, 0⟩))
      else if ownScratch s x.t.vc x.t.uid ((unitsOf s x.t).2 * 16384 + o) w then (s, .req o .pending)
      else (s, .tok (valTok (extendLoad f.wcode (natLE (spadRead s x.t.vc (unitsOf s x.t).2 o w)))))
    | .fault e => (s, .req 0 (.failed e))
    | .out => (s, .tok (valTok 0))

/-- `ldc` (R257): reads as `ld` does. [DESIGN CHOICE, log entry 38] -/
def execLdc (f : FmtM) (s : State) : Out :=
  fireLoad (.ldc f) s fun x sh => globalLoad s x f.buf.toNat (portVal s x sh 0) (accessBytes f.wcode)

/-- `pf` (R268): brings a line in when every check passes, and otherwise does nothing; a program sees no difference. [DESIGN CHOICE, log entry 21] -/
def execPf (f : FmtM) (s : State) : Out :=
  match site? s, shape (.pf f) with
  | some x, some sh =>
    if canFire x sh then
      let s1 := match siteGate s x sh with
        | some _ => s
        | none => match bufAddr (bufOf s x.t f.buf.toNat) (portVal s x sh 0) (hoffAt x.ws x.idx) 1 .read with
          | .va va => match translate s x.t (cidfOf s x.t) va .read with
            | .pa pa 0 =>
              let d := dieOf s x.t.vc
              if homeMisses s d 0 pa || s.hub.badSectors.contains (pa / 64) then s
              else if f.wcode == 0 then (readGlobal s x.t pa 0 1 va).1
              else touchLine s d pa
            | _ => s
          | _ => s
      .next (emit s1 x .null 0)
    else .next s
  | _, _ => .next s

/-- `ldacq` (R264): a load through b0 to b3 that acquires when its value is read. -/
def execLdacq (f : FmtM) (s : State) : Out :=
  fireLoad (.ldacq f) s fun x sh => globalLoad s x (f.buf.toNat % 4) (portVal s x sh 0) (accessBytes f.wcode)

/-- `strel` (R265): a releasing store at commit. -/
def execStrel (f : FmtM) (s : State) : Out := fireSink (.strel f) s

/-- `fence` (R267): acts at its ordinal at commit. -/
def execFence (f : FmtS) (s : State) : Out := fireSink (.fence f) s

/-- `cwb` (R269): writes back at commit. -/
def execCwb (f : FmtM) (s : State) : Out := fireSink (.cwb f) s

/-- `zfill` (R270): writes zeros at commit. -/
def execZfill (f : FmtM) (s : State) : Out := fireSink (.zfill f) s

/-- The entry of a channel (R248): peer package, peer context, order mode, CID; none when it is not valid. -/
def channelOf (bs : List Byte) : Option (Nat × Nat × Bool × Nat) :=
  let v := natLE bs
  if bits v 32 8 % 2 == 1 && bits v 34 6 == 0 && bits v 40 8 == 0 && bits v 60 68 == 0 then
    some (bits v 0 16, bits v 16 16, bit v 33, bits v 48 12)
  else none

/-- The read of a channel's entry, whose walk sets A (R230, R248). -/
def readChannelEnt (s : State) (ctx ch : Nat) : State × Option (Nat × Nat × Bool × Nat) :=
  match ctx? s ctx with
  | none => (s, none)
  | some c =>
    let r := hubReadVa s c (c.regs.chtBase.toNat + 16 * ch) 16 ⟨true, false, none, false⟩
    (r.1, r.2.bind channelOf)

/-- Address of a package's entry in the route table (R398). -/
def routePa (s : State) (pkg : Nat) : Nat := bits s.ap.prtBase.toNat 16 36 * 2 ^ 16 + 32 * (pkg % 4096)

/-- The fibres toward a package in the route table at PRT_BASE, without those that have failed (R398, R399, R401). -/
def routeMask (s : State) (pkg : Nat) : Nat :=
  let m := natLE (hubRead s (routePa s pkg) 32)
  s.pkg.spares.deadFibres.foldl (fun m f => if bit m f then m - 2 ^ f else m) m

/-- A channel that a flow may leave on: a valid entry toward a package that some fibre reaches (R248, R249, R398). The entry and the route are read
through the L3 (R244). -/
def openChannel (s : State) (ctx ch : Nat) : State × Option (Nat × Nat × Bool × Nat) :=
  match readChannelEnt s ctx ch with
  | (s1, some c) => (hubReads s1 (routePa s1 c.1) 32, if routeMask s1 c.1 != 0 then some c else none)
  | (s1, none) => (s1, none)

/-- The next sequence number of a channel's flow (R336). -/
def flowSeq (s : State) (ctx ch : Nat) : Nat := ((ctx? s ctx).map fun c => c.fseq.getD ch 0).getD 0

/-- A write leaves on a channel's flow under its next sequence number (R336). -/
def bumpFlow (s : State) (ctx ch : Nat) : State :=
  modCtx s ctx fun c => { c with fseq := setAt c.fseq ch ((c.fseq.getD ch 0 + 1) % 2 ^ 64) }

/-- `pld` (R253, R259): the local checks are alignment and a valid channel entry; the far end answers later. -/
def execPld (f : FmtM) (s : State) : Out :=
  fireLoad (.pld f) s fun x sh =>
    let va := portVal s x sh 0
    if va % accessBytes f.wcode != 0 then (s, .req va (.failed (prot 5 va)))
    else
      let c := openChannel s x.t.ctx f.buf.toNat
      (c.1, .req va (if c.2.isSome then .pending else .failed (prot 9 va)))

/-- `pst` (R263): writes at the peer after commit. -/
def execPst (f : FmtM) (s : State) : Out := fireSink (.pst f) s

/-- `aadd` (R272): performed after commit. -/
def execAadd (f : FmtT) (s : State) : Out := fireSink (.aadd f) s
/-- `amin` (R272): performed after commit. -/
def execAmin (f : FmtT) (s : State) : Out := fireSink (.amin f) s
/-- `amax` (R272): performed after commit. -/
def execAmax (f : FmtT) (s : State) : Out := fireSink (.amax f) s
/-- `aand` (R272): performed after commit. -/
def execAand (f : FmtT) (s : State) : Out := fireSink (.aand f) s
/-- `aor` (R272): performed after commit. -/
def execAor (f : FmtT) (s : State) : Out := fireSink (.aor f) s
/-- `axor` (R272): performed after commit. -/
def execAxor (f : FmtT) (s : State) : Out := fireSink (.axor f) s
/-- `axchg` (R272): performed after commit. -/
def execAxchg (f : FmtT) (s : State) : Out := fireSink (.axchg f) s
/-- `acas` (R272): performed after commit. -/
def execAcas (f : FmtT) (s : State) : Out := fireSink (.acas f) s
/-- `afadd` (R272): performed after commit. -/
def execAfadd (f : FmtT) (s : State) : Out := fireSink (.afadd f) s

end Sys2Proof.Machine
end

