-- ==== Sys2Proof/Machine/Effects.lean ====
section
/-! DEFINITION. How committed effects are performed, placed and acknowledged (R261 to R275, R322 to R337), and how loads return and walks
end (R231, R246, R254): the meanings of the memory steps of the opcode table. -/
namespace Sys2Proof.Machine

/-- An effect by number. -/
def effect? (s : State) (id : Nat) : Option Effect := s.effects.find? fun e => e.id == id

/-- The new value of an atomic (R272): opcode, type code, old value, operand, third operand. -/
def atomicNew (op ty w : Nat) (v b c : Nat) : Nat :=
  let n := 8 * w
  let sg := ty == 0 || ty == 2
  match op with
  | 0xB0 => (v + b) % 2 ^ n
  | 0xB1 => laneMinOp n sg v b 0
  | 0xB2 => laneMaxOp n sg v b 0
  | 0xB3 => v &&& b
  | 0xB4 => v ||| b
  | 0xB5 => v ^^^ b
  | 0xB6 => b
  | 0xB7 => if v == b then c else v
  | 0xB8 =>
    -- TYPE of afadd: 0 f32, 1 f64, 2 f16x2, 3 bf16x2; in the float table of R88 f64 is 1, f32 is 0, the packed types 4 and 5
    (onFloatLanes (if ty ≤ 1 then ty else ty + 2) (laneFadd 0) v b 0).val
  | 0xB9 => wrap n ((v : Int) - b)
  | _ => b

/-- The new bytes of an atomic over its old ones. -/
def atomicRun (op ty w : Nat) (b c : BitVec 64) (old : List Byte) : List Byte :=
  bytesLE w (atomicNew op ty w (natLE old) (b.toNat % 2 ^ (8 * w)) (c.toNat % 2 ^ (8 * w)))

/-- A fence of kind release or full that an effect comes after has yet to be satisfied (R267). -/
def fenced (s : State) (e : Effect) : Bool :=
  s.effects.any fun x => earlier x e && !x.landed && (match x.kind with
    | .fence k => k == 1 || k == 2
    | _ => false)

/-- An acquiring atomic that an effect comes after has yet to be performed (R264, R274). -/
def acquireAhead (s : State) (e : Effect) : Bool := s.effects.any fun x => earlier x e && x.acq != 0 && x.st != .placed

/-- What the thread has passed on before holds the effect back: a fence, or an acquire (R264, R267). -/
def heldBack (s : State) (e : Effect) : Bool := fenced s e || acquireAhead s e

/-- The effect may not yet be performed: what comes before it holds it back, or its own release (R264, R265, R267). -/
def blocked (s : State) (e : Effect) : Bool := heldBack s e || (e.rel != 0 && !releasedAt s e.rel e)

/-- An earlier effect of the same core or of the same thread that writes a byte of this one and has not gone so far (R261). -/
def overtakes (s : State) (e : Effect) (gone : EffSt → Bool) : Bool :=
  s.effects.any fun x => (x.vc == e.vc || x.uid == e.uid) && decide (x.id < e.id) && !gone x.st && runsMeet x.runs e.runs

/-- The home of an effect is offline and no cache holds its lines, or its page bypasses them: it waits at the hub (R244, R388). -/
def homeWaits (s : State) (e : Effect) : Bool := e.runs.any fun r => rangeMisses s (dieOf s e.vc) e.mt r.1 r.2.length

/-- The issuing core's L1 lines take the bytes of a store (R242). -/
def updateL1 (s : State) (vc ctx : Nat) (rs : Runs) : State :=
  modCore s vc fun c => { c with l1 := c.l1.map fun l =>
    if l.ctx != ctx then l
    else { l with bytes := (List.range 64).map fun i =>
      match rs.findRev? (fun r => runHas r (64 * l.line + i)) with
      | some r => r.2.getD (64 * l.line + i - r.1) 0
      | none => l.bytes.getD i 0 } }

/-- The cores that an effect of a thread concerns: that of its commit, and the one to which the thread has come since (R255, R324, R327). -/
def ownCores (s : State) (e : Effect) : List Nat :=
  match thread? s e.uid with
  | some t => if t.resident && t.vc != e.vc then [e.vc, t.vc] else [e.vc]
  | none => [e.vc]

/-- The thread's L1 lines take the bytes of a store (R242, R255). -/
def updateOwn (s : State) (e : Effect) (rs : Runs) : State := (ownCores s e).foldl (fun s vc => updateL1 s vc e.ctx rs) s

/-- The thread acquires by an effect (R242, R264, R327). -/
def acquireOwn (s : State) (e : Effect) (scope : Nat) : State := (ownCores s e).foldl (fun s vc => acquireOn s vc e.ctx scope) s

/-- A record about an effect's thread that parks nobody (R377). -/
def effectRec (e : Effect) (kind cause : Nat) (detail : BitVec 32) (fl : Nat) : EvRec :=
  ⟨kind, cause, e.ctx, e.vc, fl, e.frame, linkWord e.ptr, detail, e.va, 0, 0, []⟩

/-- An atomic on a poisoned sector is performed and reported (R377). -/
def reportPoisoned (s : State) (e : Effect) : State :=
  if e.runs.any (fun r => s.hub.badSectors.contains (r.1 / 64)) then postEvent s (effectRec e 0x0A 1 0 0) else s

/-- An atomic reads the placed value just before its own write, and takes its place (R272, R324). -/
def performAtomic (s : State) (e : Effect) (src : Option Nat) : State :=
  match e.kind, e.runs with
  | .atomic op ty w b c slot, r :: _ =>
    let old := hubRead s r.1 w
    let new := [(r.1, atomicRun op ty w b c old)]
    let s0 := match src with
      | some d => dirtyRuns s d new
      | none => if e.mt == 0 then hubRuns s new else s
    let s1 := reportPoisoned (placeRuns s0 e.id src new) e
    let s2 := modEffect s1 e.id fun x => { x with
      st := .placed, runs := new, old := BitVec.ofNat 64 (natLE old), landed := decide (64 ≤ slot), acked := x.acked || x.mt != 0 }
    acquireOwn (updateOwn s2 e new) e e.acq
  | _, _ => s

/-- An atomic at a byte of a core's scratchpad: the state after, and the old value (R275). [DEDUCED, log entry 25] -/
def bankAtomic (s : State) (vc p op ty w : Nat) (b c : BitVec 64) : State × Nat :=
  let old := memReadN (core s vc).store.spad p w
  (spadWrite s vc 0 p (atomicRun op ty w b c old), natLE old)

/-- A store or atomic that left before number `id` has yet to reach bytes [p, p + n) of the core's scratchpad, or is the thread's own: its scratchpad
writes are performed in commit order (R240, R261, R334). [DEDUCED, log entry 25] -/
def scratchAhead (s : State) (vc uid id p n : Nat) : Bool :=
  s.effects.any fun x => decide (x.id < id) && scratchOwed x &&
    (x.uid == uid || (x.vc == vc && (scratchSpan x).any fun r => decide (r.1 < p + n) && decide (p < r.1 + r.2)))

/-- An effect acts at the banks of the scratchpad: a store, or an atomic with its acquire (R240, R275). -/
def actAtBank (s : State) (e : Effect) : State :=
  match e.kind with
  | .spad op ty w b c slot =>
    let (s1, old) := bankAtomic s e.vc e.va op ty w b c
    let s2 := modEffect s1 e.id fun x => { x with st := .placed, old := BitVec.ofNat 64 old, landed := decide (64 ≤ slot) }
    acquireOwn (noteLate s2 e.vc e.uid) e e.acq
  | .spadStore bs => noteLate (modEffect (spadWrite s e.vc 0 e.va bs) e.id fun x => { x with st := .placed, landed := true }) e.vc e.uid
  | _ => s

/-- A scratchpad store or atomic may act: nothing holds it back, and it is next at its bytes and in its thread (R240, R267, R334). -/
def mayActAtBank (s : State) (e : Effect) : Bool :=
  scratchOwed e && !blocked s e && (scratchSpan e).any fun r => !scratchAhead s e.vc e.uid e.id r.1 r.2

/-- The effects numbered below `e` and of its context that are launches all lie in the direct queue: records enter it in the order of the commits
(R109). -/
def launchNext (s : State) (e : Effect) : Bool :=
  !s.effects.any fun x => x.ctx == e.ctx && decide (x.id < e.id) && x.kind == .launch && !x.landed

/-- The die sends this write next: nothing that became visible on the die before it waits (R328). -/
def sendsNext (s : State) (d n : Nat) : Bool :=
  !(pendingOn s d).any fun x => match x.st with
    | .onDie m => decide (m < n)
    | _ => false

/-- Writes that the thread's die showed when it committed the effect, and that the hub has yet to place: the thread may have read them (R325). -/
def shownPlaced (s : State) (e : Effect) : Bool := sendsNext s (dieOf s e.vc) e.seenEf

/-- Stores of the thread before effect `e` that touch its line of 256 bytes have yet to reach a slice or the hub (R269). -/
def lineOwed (s : State) (e : Effect) : Bool :=
  s.effects.any fun x => earlier x e && x.st == .committed && runsTouch x.runs (e.va / 256 * 256) 256

/-- What an effect that waits only for the thread's earlier effects does when they are performed: a fence is satisfied (that of a `spawn` waits for no
acknowledgement, R163, R262), a launch record reaches the direct queue, a software event is posted, a write-back is done, a scratchpad store or atomic acts at its bank, and a write that
the hub performs may be sent (R261, R267, R269, R275, R331, R357, R363). -/
def settleOne (s : State) (e : Effect) : State :=
  if e.landed then s
  else match e.kind with
    | .fence k =>
      if (releasedAt s e.rel e && (e.rel < 3 || shownPlaced s e)) || (k == 3 && s.effects.all fun x => !earlier x e || performedAt s e.rel x) then
        let s1 := modEffect s e.id fun x => { x with landed := true }
        if k == 2 then acquireOwn s1 e e.rel else s1
      else s
    | .launch =>
      if releasedAt s 3 e && !heldBack s e && shownPlaced s e && launchNext s e && !farAway s e.mt e.va 64 then
        let raw := BitVec.ofNat 512 (natLE (hubRead s e.va 64))
        let s1 := modCtx (hubTouch s e.mt e.va 64) e.ctx fun c => { c with direct := c.direct ++ [raw], directN := c.directN + 1 }
        modEffect s1 e.id fun x => { x with landed := true }
      else s
    | .event r =>
      if releasedAt s 4 e && !heldBack s e && shownPlaced s e then postEvent (modEffect s e.id fun x => { x with landed := true }) r else s
    | .writeBack hbm =>
      if heldBack s e || lineOwed s e then s
      else
        let line := e.va / 256
        let s1 := writeBackLine s line
        let clean : L2Line → L2Line := fun l => if l.line == line then { l with dirty := 0 } else l
        let s2 := if hbm && !homeOffline s e.va then { s1 with hub := { s1.hub with l3 := s1.hub.l3.map clean } } else s1
        modEffect s2 e.id fun x => { x with landed := true }
    | .spad .. | .spadStore _ => if mayActAtBank s e then actAtBank s e else s
    | _ => s

/-- A write of a signal (R355). The umpire orders it, and it is in no order with the die's other writes but by its release (R323, R440).
[DESIGN CHOICE, log entry 24] -/
def isSignal (e : Effect) : Bool :=
  match e.kind with
  | .atomic op .. => op == 0xB9 || op == 0xBB
  | _ => false

/-- An acknowledgement of the thread has been lost before effect `e`: its later `.ga` writes stay pending (R333). -/
def ackBefore (s : State) (e : Effect) : Bool := s.effects.any fun x => earlier x e && x.lost && !x.acked

/-- An earlier `.ga` write of the die, by number, is not sent yet (R328); one held back by an acknowledgement that is lost holds back its own thread
alone (R333). [DESIGN CHOICE, log entry 24] -/
def gaAhead (s : State) (d : Nat) (e : Effect) : Bool :=
  !isSignal e && s.effects.any fun x =>
    x.ga && !isSignal x && x.st == .committed && dieOf s x.vc == d && decide (x.id < e.id) && !x.lost && !x.runs.isEmpty && !ackBefore s x

/-- A write that the hub or the host performs leaves its die (R328, R329): after every `.ef` write that the die showed at its commit, after those of the
die that touch its bytes, and after the die's earlier such writes. [DESIGN CHOICE, log entry 24] -/
def maySend (s : State) (e : Effect) : Bool :=
  let d := dieOf s e.vc
  e.st == .committed && (e.ga || e.mt != 0) && !e.runs.isEmpty && !e.lost && !blocked s e && ((isSignal e && e.rel == 0) || sendsNext s d e.seenEf)
    && !(pendingOn s d).any (fun x => runsMeet x.runs e.runs) && !overtakes s e (fun x => x == .placed) && !ackBefore s e && !gaAhead s d e

/-- The acknowledgement of a write is counted from its sending: a write that something still holds back is not sent (R331, R373).
[DESIGN CHOICE, log entry 24] -/
def noteSent (s : State) (e : Effect) : State :=
  if e.ga && e.st == .committed && !e.lost then
    let at_ := if maySend s e then some (e.sentAt.getD (hubNow s)) else none
    if at_ == e.sentAt then s else modEffect s e.id fun x => { x with sentAt := at_ }
  else s

/-- The effects that wait only for earlier ones, in commit order; then those that nothing waits for any more leave the list, and the
waits of groups that counted on them are tested again. -/
def settleEffects (s : State) : State :=
  freeFrames (settleGroups (sweepEffects (s.effects.foldl (fun s e => match effect? s e.id with
    | some x => noteSent (settleOne s x) x
    | none => s) s)))

/-- A store or copy write becomes visible on its die (R243, R328, R329). -/
def showOnDie (s : State) (e : Effect) : State :=
  let d := dieOf s e.vc
  let n := (die s d).sendN
  let s0 := modDie s d fun x => { x with
    overlay := e.runs.foldl (fun o r => ovWrite o r.1 r.2) x.overlay
    inbox := x.inbox.map (fun m => { m with runs := runsWithout m.runs (runsHas e.runs) })
    sendN := n + 1 }
  -- a sector written whole is no longer poisoned (R377)
  let s1 := { s0 with hub := { s0.hub with badSectors := cleanSectors s0.hub.badSectors e.runs } }
  let s2 := modEffect s1 e.id fun x => { x with st := .onDie n }
  updateOwn (dirtyRuns s2 d e.runs) e e.runs

/-- An effect is performed in its die's L2 slice (WRITE_PERFORMED_IN_L2; R274, R328): a store, zero-fill or copy write becomes visible on
its die; an atomic with G = 0 has its line writable once all the die has written before is placed, and takes its place at once. -/
def performInL2 (s : State) (e : Effect) : State :=
  if e.st != .committed || e.ga || e.mt != 0 || e.runs.isEmpty || blocked s e || homeWaits s e
    || overtakes s e (fun x => x != .committed) then s
  else
    let d := dieOf s e.vc
    match e.kind with
    | .store => settleEffects (showOnDie s e)
    | .copy => settleEffects (showOnDie s e)
    | .atomic .. => if (pendingOn s d).isEmpty then settleEffects (performAtomic (flushDie s d) e (some d)) else s
    | _ => s

/-- WRITE_PERFORMED_IN_L2 (R328). -/
def execWritePerformedInL2 (e : Nat) (s : State) : Out :=
  match effect? s e with
  | some x => .next (performInL2 s x)
  | none => .next s

/-- An effect may take its place at the hub (R328, R329, R388): a write visible on its die in the die's sending order; a write that the hub or the host
performs once it is sent; neither while its home is away. -/
def mayPlace (s : State) (e : Effect) : Bool :=
  match e.st with
  | .placed => false
  | .onDie n => sendsNext s (dieOf s e.vc) n && !homeWaits s e
  | .committed => maySend s e && !homeWaits s e

/-- One placement of the hub (R328): an effect takes its place, at one instant on every die for what the umpire orders. -/
def placeEffect (s : State) (e : Effect) : State :=
  if !mayPlace s e then s
  else match e.st, e.kind with
    | .onDie _, _ => settleEffects (modEffect (placeRuns s e.id (some (dieOf s e.vc)) e.runs) e.id fun x => { x with st := .placed })
    | _, .atomic .. => settleEffects (performAtomic s e none)
    | _, .store | _, .copy =>
      let s0 := if e.mt == 0 then hubRuns s e.runs else s
      let s1 := modEffect (placeRuns s0 e.id none e.runs) e.id fun x => { x with st := .placed, acked := x.acked || x.mt != 0 }
      settleEffects (updateOwn s1 e e.runs)
    | _, _ => s

/-- WRITE_PLACEMENT (R328): the hub places an effect, or a die sees the next placed write of the others. -/
def execWritePlacement (m : PlaceMode) (s : State) : Out :=
  match m with
  | .place e => match effect? s e with
    | some x => .next (placeEffect s x)
    | none => .next s
  | .deliver d => .next (settleEffects (deliverOne s d))

/-- GA_ACKNOWLEDGE (R262): the umpire's answer to a placed `.ga` write reaches the core. -/
def execGaAcknowledge (e : Nat) (s : State) : Out :=
  match effect? s e with
  | some x =>
    if x.ga && x.st == .placed && !x.acked && !x.lost then .next (settleEffects (modEffect s e fun x => { x with acked := true })) else .next s
  | none => .next s

/-- The watchdog limit of a context (R359). -/
def wdLimit (s : State) (ctx : Nat) : Nat := ((ctx? s ctx).map fun c => c.regs.wdLimit.toNat).getD 0

/-- No acknowledgement has come within WD_LIMIT of the last sending (R331): of a write that has been placed, or that is on its way and does not wait
for its home (R388). -/
def ackOverdue (s : State) (e : Effect) : Bool :=
  e.ga && !e.acked && !e.lost && (e.st == .placed || mayPlace s e) && e.sentAt.any fun c => decide (c + wdLimit s e.ctx ≤ hubNow s)

/-- ACK_RETRY (R331): the write is sent again under its tag; a copy already placed is only answered. -/
def execAckRetry (e : Nat) (s : State) : Out :=
  match effect? s e with
  | some x =>
    if ackOverdue s x && decide (x.tries < 3) then
      .next (modEffect s e fun x => { x with tries := x.tries + 1, sentAt := some (hubNow s) })
    else .next s
  | none => .next s

/-- The record of a lost acknowledgement with its continuation (R332, R366). The data of an atomic that has not been placed are what it was to write
where that needs no old value: the new value of `acas`, and otherwise its operand. [DESIGN CHOICE, log entry 24] -/
def ackLossRec (e : Effect) (st : Nat) : EvRec :=
  let d := BitVec.ofNat 32 (st * 2 ^ 30 + e.ord * 2 ^ 24 + e.ptr.sidx * 2 ^ 12 + e.idx * 2 ^ 4)
  let written := BitVec.ofNat 64 (natLE ((e.runs.headD (0, [])).2.take 8))
  let (data, opnd, old) := match e.kind with
    | .atomic op _ _ b c _ => (if e.st == .placed then written else if op == 0xB7 then c else b, b, if st == 0 then e.old else 0)
    | _ => (written, 0, 0)
  ⟨5, 0, e.ctx, e.vc, 4, e.frame, linkWord e.ptr, d, e.va, BitVec.ofNat 32 e.width, 0, [data, opnd, old]⟩

/-- The thread parks with the ack-loss record that is already posted (R333). -/
def parkAckLoss (s : State) (t : Thread) (r : EvRec) : State :=
  let s1 := abortInst s t.uid
  settleEntries (modThread s1 t.uid fun t => { t with
    st := .parked, wait := none, kept := some { r with fl := 5, slot := t.frame, vcore := t.vc, ptr := linkWord t.ptr }
    parkAt := watchNow s t.ctx, parkLarge := false }) t.vc

/-- A thread that waits at commit, for a resource or for its group to be confirmed, aborts that commit (R333). [DESIGN CHOICE, log entry 24] -/
def abortAtCommit (s : State) (uid : Nat) (r : EvRec) : State :=
  match thread? s uid with
  | some t => if t.st == .held || (t.inst.bind (·.commitAt)).isSome then parkAckLoss s t r else s
  | none => s

/-- The fault unit settles a write's fate (R331 to R333): a tag not in the log, or whose log cannot be read, is fenced, so the write is never
placed from then on; a record is posted, and its thread parks at its next commit, or at once where it waits at one. Where the thread is gone with its
group, nobody is left to settle the loss, and nothing waits for it. [DESIGN CHOICE, log entry 24] -/
def resolveAckLoss (s : State) (e : Effect) (readable : Bool) : State :=
  let placed := e.st == .placed
  let r := ackLossRec e (if !readable then 2 else if placed then 0 else 1)
  let orphan := (thread? s e.uid).isNone
  let s1 := modEffect s e.id fun x => { x with
    lost := true, st := .placed, runs := if placed then x.runs else [], acked := orphan, accepted := x.accepted || orphan, landed := x.landed || orphan }
  let s2 := modThread s1 e.uid fun t => { t with ackLost := t.ackLost ++ [e.id], ackRec := some (t.ackRec.getD r) }
  settleEffects (abortAtCommit (postEvent s2 r) e.uid r)

/-- The effects that a thread's lost acknowledgements hold back proceed (R333); the lost atomic's slot stays as it is.
[DESIGN CHOICE, log entry 24; DEDUCED, log entry 49] -/
def settleAckLoss (s : State) (t : Thread) : State :=
  let free : Effect → Effect := fun e => if t.ackLost.contains e.id then { e with acked := true, accepted := true, landed := true } else e
  let s1 := { s with effects := s.effects.map free }
  settleEffects (modThread s1 t.uid fun t => { t with ackLost := [], ackRec := none })

/-- ACK_LOSS_RESOLUTION (R331): after the third unanswered retry. [DESIGN CHOICE, log entry 24] -/
def execAckLossResolution (e : Nat) (readable : Bool) (s : State) : Out :=
  match effect? s e with
  | some x => if ackOverdue s x && x.tries == 3 then .next (resolveAckLoss s x readable) else .next s
  | none => .next s

/-- ATOMIC_RESULT_LAND (R273): a result reaches its slot once its atomic is performed and, for a `.ga` atomic, acknowledged, and once the results of
lower ordinals and the deferred `wr` aimed at the slot have. [DEDUCED, log entry 20] -/
def execAtomicResultLand (e : Nat) (s : State) : Out :=
  match effect? s e with
  | some x =>
    match resultSlot? x with
    | some (slot, w) =>
      if x.landed || x.st != .placed || !ackDone x || resultWaits s x.uid x.seq x.ord (slot, w) then .next s
      else .next (settleEffects (modEffect (landSlots s x.uid slot (w == 8) x.old.toNat) e fun y => { y with landed := true }))
    | none => .next s
  | none => .next s

/-- A channel of this context names the issuing package and context with the same order mode (R248): the state after the reads of its entries, up to
the one that does. [DEDUCED, log entry 28] -/
def flowAccepted (s : State) (ctx pkg pctx : Nat) (ordered : Bool) : State × Bool :=
  (List.range 16).foldl (fun r ch =>
    if r.2 then r
    else
      let k := readChannelEnt r.1 ctx ch
      (k.1, k.2.any fun c => c.1 == pkg && c.2.1 == pctx && c.2.2.1 == ordered)) (s, false)

/-- How the far end answers an access of a peer: the step of R234 that fails (0: the flow is not accepted), and for a page without an error
reply the physical address. -/
abbrev FarAnswer := State × Except Nat Nat

/-- One page of an arriving access: rights and CID under steps 5 to 7 of R234, and the existence of the address (R227, R230, R249). The walk
sets A, and D for a write that may be made. [DEDUCED, log entry 28] -/
def farPage (s0 : State) (c : Ctx) (write : Bool) (cid va : Nat) : FarAnswer :=
  let s := walkReads s0 (ptBase c) va
  match walk s (ptBase c) va with
  | .leaf e large at_ =>
    let right := if write then pteW e else pteR e
    let mine := pteCid e == 0 || pteCid e == cid
    let s1 := orPte s at_ e (if write && right && mine then 0x600 else 0x200)
    (s1, if !right then .error 6 else if !mine then .error 7
      else if !existsPa (leafPa e large va) then .error 8 else .ok (leafPa e large va))
  | .phys => (s, .error 8)
  | _ => (s, .error 5)

/-- The checks that an arriving access of `n` bytes passes, in the order of R234, and its physical address (R249): the flow, the range of all its
bytes, for `pst` and `pld` its alignment, then its page, or both of its pages. [DEDUCED, log entry 28] -/
def farCheck (s : State) (ctx pkg pctx : Nat) (ordered copy write : Bool) (cid va n : Nat) : FarAnswer :=
  match ctx? s ctx with
  | none => (s, .error 0)
  | some c =>
    let (s0, known) := flowAccepted s ctx pkg pctx ordered
    if !known then (s0, .error 0)
    else if 2 ^ 55 < va + n || (!copy && va % max n 1 != 0) then (s0, .error 4)
    else match farPage s0 c write cid va with
      | (s1, .ok pa) =>
        if va / 65536 == (va + n - 1) / 65536 then (s1, .ok pa)
        else match farPage s1 c write cid (va + n - 1) with
          | (s2, .ok _) => (s2, .ok pa)
          | r => r
      | r => r

/-- The event about a refused peer access (R249). -/
def peerRec (ctx code va : Nat) : EvRec := plainRec ctx 2 9 (BitVec.ofNat 32 code) va 0

/-- The pieces of an access in each of its pages: virtual address and how many bytes. -/
def pagePieces (va n : Nat) : List (Nat × Nat) :=
  let n1 := min n (65536 - va % 65536)
  if n1 == n then [(va, n)] else [(va, n1), (va + n1, n - n1)]

/-- A piece of an arriving access: physical address, how many bytes, and the memory type of its page. -/
abbrev FarPiece := Nat × Nat × Nat

/-- The pieces of an access that has passed its checks. -/
def farPieces (s : State) (ctx va n : Nat) : List FarPiece :=
  (pagePieces va n).filterMap fun p => (ctx? s ctx).bind fun c => match walk s (ptBase c) p.1 with
    | .leaf e large _ => some (leafPa e large p.1, p.2, pteMt e)
    | _ => none

/-- The home of one of the pieces is offline and no cache holds its lines (R388). -/
def piecesAway (s : State) (l : List FarPiece) : Bool := l.any fun p => farAway s p.2.2 p.1 p.2.1

/-- The flow of an arriving write performs this number next: the one after the last. Numbers count from 0 and each is sent once, so that a flow not seen
before starts with 0, and a 0 that comes later begins a new count (R336). [DEDUCED, log entry 28] -/
def flowNext (s : State) (w : PeerWrite) : Bool :=
  !w.ordered || w.seq == 0 || s.hub.peerFlows.any fun f => f.1 == (w.pkg, w.pctx, w.chan) && f.2 == w.seq

/-- The flow has performed, or dropped, an arriving write, and answers it (R249, R336). -/
def flowDone (s : State) (w : PeerWrite) (ok : Bool) : State :=
  let key := (w.pkg, w.pctx, w.chan)
  { s with hub := { s.hub with
    peerAcks := s.hub.peerAcks ++ [(w.pkg, w.pctx, ok)]
    peerFlows := if w.ordered then (s.hub.peerFlows.filter fun f => f.1 != key) ++ [(key, w.seq + 1)] else s.hub.peerFlows } }

/-- Bytes laid on pieces of memory, those of one memory type where that is told. -/
def pieceRuns (mt : Option Nat) : List FarPiece → List Byte → Runs
  | [], _ => []
  | p :: r, bs =>
    let rest := pieceRuns mt r (bs.drop p.2.1)
    if mt.all (· == p.2.2) then (p.1, bs.take p.2.1) :: rest else rest

/-- PEER_WRITE_PERFORM (R249, R336): a write arriving from a peer is performed as a `.ga` write of this package and acknowledged, in the order of its
flow where that is ordered, or dropped whole with an event. -/
def execPeerWritePerform (w : PeerWrite) (s : State) : Out :=
  if !flowNext s w then .next s
  else match farCheck s w.ctx w.pkg w.pctx w.ordered w.copy true w.cid.toNat w.va w.data.length with
  | (s1, .error code) => .next (postEvent (flowDone s1 w false) (peerRec w.ctx code w.va))
  | (s1, .ok _) =>
    let ps := farPieces s1 w.ctx w.va w.data.length
    if piecesAway s ps then .next s
    else .next (flowDone (placeRuns (hubRuns s1 (pieceRuns (some 0) ps w.data)) 0 none (pieceRuns none ps w.data)) w true)

/-- PEER_READ_REQUEST (R249): the answer is the bytes at this instant, or nothing where the read is refused; a channel copy's refusal posts an
event, a `pld`'s is told to the issuer alone. -/
def execPeerReadRequest (r : PeerRead) (s : State) : Out :=
  let out : State → List Byte → State := fun s bs => { s with hub := { s.hub with peerOut := s.hub.peerOut ++ [bs] } }
  match farCheck s r.ctx r.pkg r.pctx r.ordered r.copy false r.cid.toNat r.va r.len with
  | (s1, .error code) => .next (out (if r.copy then postEvent s1 (peerRec r.ctx code r.va) else s1) [])
  | (s1, .ok _) =>
    let ps := farPieces s1 r.ctx r.va r.len
    if piecesAway s ps then .next (out s [])
    else .next (out (ps.foldl (fun s p => hubTouch s p.2.2 p.1 p.2.1) s1) (ps.flatMap fun p => hubRead s1 p.1 p.2.1))

/-- The copy that made a refused write stops with the code 0x0A (R308); effects of copies carry 128 + the copy's number as their index. -/
def refuseCopy (s : State) (e : Effect) : State :=
  let mine : Copy → Bool := fun c => c.uid == e.uid && 128 + c.id == e.idx
  let stop : Copy → Copy := fun c => { c with code := 0x0A, stopped := true }
  modCore s e.vc fun k => { k with copies := modWhere mine stop k.copies }

/-- An earlier write of the same ordered flow has yet to be performed or dropped at the far end (R336). -/
def flowAhead (s : State) (e : Effect) : Bool :=
  match e.kind with
  | .peer ch _ _ _ true _ => s.effects.any fun x => x.ctx == e.ctx && decide (x.id < e.id) && !x.accepted && (match x.kind with
      | .peer c .. => c == ch
      | _ => false)
  | _ => false

/-- PEER_FLOW_REFUSED (R249): a `pst` or channel copy write is refused at the far end; it is dropped whole and an event is posted. -/
def execPeerFlowRefused (e code : Nat) (s : State) : Out :=
  match effect? s e with
  | some x => match x.kind with
    | .peer .. =>
      if x.accepted || blocked s x || flowAhead s x then .next s
      else
        let s1 := modEffect s e fun x => { x with accepted := true, st := .placed, landed := true }
        .next (settleEffects (postEvent (refuseCopy s1 x) (peerRec x.ctx code x.va)))
    | _ => .next s
  | none => .next s

/-- PEER_WRITE_ACKNOWLEDGED (R337): the far end has performed a write of this package. [DESIGN CHOICE, log entry 23] -/
def execPeerWriteAcknowledged (e : Nat) (s : State) : Out :=
  match effect? s e with
  | some x => match x.kind with
    | .peer .. =>
      if x.accepted || blocked s x || flowAhead s x then .next s
      else .next (settleEffects (modEffect s e fun x => { x with accepted := true, st := .placed, landed := true }))
    | _ => .next s
  | none => .next s

/-- HOST_WRITE_ACCEPTED (R337): the host has taken a write to a page of memory type 2. [DESIGN CHOICE, log entry 23] -/
def execHostWriteAccepted (e : Nat) (s : State) : Out :=
  match effect? s e with
  | some x => if x.mt == 2 && x.st == .placed && !x.accepted then .next (settleEffects (modEffect s e fun x => { x with accepted := true })) else .next s
  | none => .next s

/-! Walks and loads -/

/-- A TLB with one entry more, the oldest leaving when it is full (R231). [DESIGN CHOICE, log entry 73] -/
def tlbAdd (cap : Nat) (l : List TlbEnt) (e : TlbEnt) : List TlbEnt :=
  let l1 := l.filter (fun x => x != e) ++ [e]
  l1.drop (l1.length - cap)

/-- The bits that a walk sets for the misses it serves (R230): A, and D when some write of them passes its rights and its CID. -/
def walkBits (e : BitVec 64) (ms : List Miss) : BitVec 64 :=
  if ms.any (fun m => m.write && pteW e && (!m.atomic || pteR e) && (pteCid e == 0 || pteCid e == m.cidf)) then 0x600 else 0x200

/-- A failed walk is told to the instances on the missing cores that wait on the page (R246). -/
def tellBadPage (s : State) (ctx page : Nat) (vcs : List Nat) (f : AccFault) : State :=
  { s with threads := s.threads.map fun t =>
    match t.inst with
    | some ins =>
      if t.resident && t.ctx == ctx && vcs.contains t.vc &&
          (ins.badPages.any (fun p => p.1 == page && p.2.kind == 0) || ins.loads.any (fun l => l.st == .pending && l.va / 2 ^ 16 == page)) then
        { t with inst := some { ins with badPages := ins.badPages ++ [(page, f)] } }
      else t
    | none => t }

/-- PAGE_WALK (R231, R246): a walker ends the walk of a page for every miss outstanding on it. -/
def pageWalk (s00 : State) (ctx page : Nat) : State :=
  let ms := s00.hub.misses.filter fun m => m.ctx == ctx && m.page == page
  match ctx? s00 ctx with
  | none => s00
  | some c =>
    if ms.isEmpty then s00
    else
      let s := walkReads s00 (ptBase c) (page * 2 ^ 16)
      let s0 := { s with hub := { s.hub with misses := s.hub.misses.filter fun m => !(m.ctx == ctx && m.page == page) } }
      let vcs := (ms.map (·.vc)).eraseDups
      let fail : Nat → BitVec 32 → State := fun cause large => tellBadPage s0 ctx page vcs { transFault cause 0 with data := large }
      match walk s (ptBase c) (page * 2 ^ 16) with
      | .leaf e large at_ =>
        let m := walkBits e ms
        let s1 := orPte s0 at_ e m
        let ent : TlbEnt := ⟨ctx, page, large, e ||| m⟩
        vcs.foldl (fun s vc =>
          modDie (modCore s vc fun k => { k with tlb := tlbAdd 128 k.tlb ent }) (dieOf s vc) fun d => { d with tlb := tlbAdd 8192 d.tlb ent }) s1
      | .unmapped => fail 1 0
      | .migrate large => fail 2 (if large then 1 else 0)
      | .bad => fail 3 0
      | .phys => tellBadPage s0 ctx page vcs (prot 8 0)

/-- PAGE_WALK (R231). -/
def execPageWalk (ctx page : Nat) (s : State) : Out := .next (pageWalk s ctx page)

/-- The thread's load at an index has this outcome (R254). -/
def setLoad (s : State) (t : Thread) (ins : Inst) (i : Nat) (st : LoadSt) (toks : List (Nat × Nat × Tok)) : State :=
  let ins1 := { ins with
    loads := modWhere (fun l => l.idx == i) (fun l => { l with st := st }) ins.loads
    toks := ins.toks ++ toks }
  let ins2 := match placeAt? s t.vc ins.place with
    | some pl => noteReady (coreNow s t.vc) (decodeAll pl.conf.words) pl.stage ins1
    | none => ins1
  modThread s t.uid fun t => { t with inst := some ins2 }

/-- A load's value reaches its targets, and its latency is sampled (R254, R407). -/
def returnLoad (s : State) (t : Thread) (ins : Inst) (ws : List (Option Instr)) (i : Nat) (v : Nat) : State :=
  let issued := ((ins.loads.find? fun l => l.idx == i).map (·.at_)).getD 0
  setLoad (sampleCore s t.vc 0 (coreNow s t.vc - issued)) t ins i .done ((targetsAt ws i).map fun k => (k.1, k.2, valTok v))

/-- A global load's request is served (R255 to R257, R264). -/
def returnGlobal (s : State) (t : Thread) (ins : Inst) (ws : List (Option Instr)) (l : LoadReq) (code : Nat) (acq : Bool) : State :=
  match translate s t (cidfOf s t) l.va .read with
  | .miss => addMiss s t (cidfOf s t) l.va .read
  | .fault f => setLoad s t ins l.idx (.failed f) []
  | .pa pa mt =>
    if atomicInFlight s t.uid pa (accessBytes code) then s
    else
      -- a word of memory type 1 or 2 is read as the hub has placed it, so that the acquire waits for the die to show what came before (R325)
      let s0 := if acq then acquireOn s t.vc t.ctx (if mt == 0 then 1 else 4) else s
      match readGlobal s0 t pa mt (accessBytes code) l.va with
      | (s1, .ok bs) => returnLoad s1 t ins ws l.idx (extendLoad code (natLE bs))
      | (s1, .error f) => setLoad s1 t ins l.idx (.failed f) []

/-- A scratchpad load is served once its line is present, where it waits for that, and after the thread's own earlier stores (R241, R255, R258). -/
def returnScratch (s : State) (t : Thread) (ins : Inst) (ws : List (Option Instr)) (l : LoadReq) (code : Nat) (waits : Bool) : State :=
  let w := accessBytes code
  let base := (unitsOf s t).2
  let p := base * 16384 + l.va
  if (waits && !linePresent s t.vc (p / 64)) || ownScratch s t.vc t.uid p w then s
  else if badScratch s t l.va w then setLoad s t ins l.idx (.failed ⟨0x0A, 3, 0, l.va, 0⟩) []
  else returnLoad s t ins ws l.idx (extendLoad code (natLE (spadRead s t.vc base l.va w)))

/-- A peer load is served by the far end's answer (R249, R259). [DESIGN CHOICE, log entry 22] -/
def returnPeer (s : State) (t : Thread) (ins : Inst) (ws : List (Option Instr)) (l : LoadReq) (code : Nat) : State :=
  match s.replies.find? fun r => r.vc == t.vc && r.uid == t.uid && r.idx == l.idx with
  | none => s
  | some r =>
    let s1 := { s with replies := s.replies.filter fun x => x != r }
    match r.refused with
    | some k => setLoad s1 t ins l.idx (.failed ⟨2, 9, BitVec.ofNat 32 k, l.va, 0⟩) []
    | none => returnLoad s1 t ins ws l.idx (extendLoad code (natLE (r.data.take (accessBytes code))))

/-- LOAD_RETURN (R254): the request of a thread's load at an index is served. -/
def loadReturn (s : State) (vc frame idx : Nat) : State :=
  match threadAt? s vc frame with
  | none => s
  | some t => match t.inst with
    | none => s
    | some ins => match placeAt? s vc ins.place, ins.loads.find? (fun l => l.idx == idx && l.st == .pending) with
      | some pl, some l =>
        let ws := decodeAll pl.conf.words
        match ws.getD idx none with
        | some (.ld f) => returnGlobal s t ins ws l f.wcode false
        | some (.ldc f) => returnGlobal s t ins ws l f.wcode false
        | some (.ldacq f) => returnGlobal s t ins ws l f.wcode true
        | some (.lds f) => returnScratch s t ins ws l f.wcode true
        | some (.ldsn f) => returnScratch s t ins ws l f.wcode false
        | some (.pld f) => returnPeer s t ins ws l f.wcode
        | _ => s
      | _, _ => s

/-- LOAD_RETURN (R254). -/
def execLoadReturn (vc frame idx : Nat) (s : State) : Out := .next (loadReturn s vc frame idx)

end Sys2Proof.Machine
end

