-- ==== Sys2Proof/Machine/Matrix.lean ====
section
/-! DEFINITION. The sums of the matrix engine (R52 to R55, R293 to R298, R313 to R318): element formats of operand slots, exact run sums,
group sums with zero points, scales, and the conversions of accumulator moves. -/
namespace Sys2Proof.Machine

/-- Width in bits of an element format: the `cvt` codes, 0x10 q8, 0x11 q4, 0x12 i4 (R34, R235, R309). -/
def elemBits (ety : Nat) : Nat := if ety ≤ 0xF then cvtWidth ety else if ety == 0x10 then 8 else 4

/-- A tile operand's formats (R313): A, B, K, the cell kind (0 FP64, 1 FP32, 2 INT32). -/
structure TileFmt where
  a : Nat
  b : Nat
  k : Nat
  cell : Nat
deriving DecidableEq, Repr

/-- The narrow floats of the format codes 0x10 to 0x1F. -/
def narrowFmt (n : Nat) : Nat := 4 + n % 4

/-- The format code of `mma`, `mmi`, `mmg` (R313). -/
def tileFmt (z : Nat) : TileFmt :=
  match z with
  | 0x00 => ⟨0, 0, 16, 0⟩
  | 0x01 => ⟨1, 1, 32, 1⟩
  | 0x02 => ⟨3, 3, 64, 1⟩
  | 0x03 => ⟨2, 2, 64, 1⟩
  | 0x04 => ⟨8, 8, 256, 1⟩
  | 0x20 => ⟨0xF, 0xF, 128, 2⟩
  | 0x21 => ⟨0xF, 0x12, 128, 2⟩
  | 0x22 => ⟨0x12, 0xF, 128, 2⟩
  | 0x23 => ⟨0x12, 0x12, 256, 2⟩
  | 0x24 => ⟨0x10, 0x10, 128, 2⟩
  | 0x25 => ⟨0x10, 0x11, 128, 2⟩
  | 0x26 => ⟨0x11, 0x10, 128, 2⟩
  | 0x27 => ⟨0x11, 0x11, 256, 2⟩
  | _ => ⟨narrowFmt (z / 4), narrowFmt z, 128, 1⟩

/-- K of a fill format (R295). -/
def fillK (fmt : Nat) : Nat :=
  match fmt with
  | 0 => 16
  | 1 => 32
  | 2 => 64
  | 3 => 64
  | 8 => 256
  | 0x11 => 256
  | 0x12 => 256
  | _ => 128

/-- Elements of a quantisation group by its code (R235). -/
def groupLen (qg : Nat) : Nat := 32 * 2 ^ qg

/-- Little-endian bytes as 4-byte or 8-byte cells. -/
def cellsOf (w : Nat) : Nat → List Byte → List Nat
  | 0, _ => []
  | n + 1, bs => natLE (bs.take w) :: cellsOf w n (bs.drop w)

/-- The codes of line `i` of a slot, `k` of them (R293). -/
def lineCodes (tile : Memory) (fmt k i : Nat) : List Nat :=
  let es := elemBits fmt
  let kk := fillK fmt
  let bytes := kk * es / 8
  let v := natLE (memReadN tile (i * bytes) bytes)
  (List.range k).map fun j => bits v (j * es) es

/-- The side-area entry of group `g` of line `i` (R293). -/
def sideEntry (side : Memory) (i g : Nat) : Nat := natLE (memReadN side (4 * (8 * i + g)) 4)

/-- The zero point of a descriptor (R35). -/
def zeroPoint (fmt d : Nat) : Nat := if fmt == 0x11 then bits d 16 4 else bits d 16 8

/-- The integer values of line `i` of a slot, zero points applied within each group (R33, R35, R53). -/
def lineInts (sl : OpSlot) (k i : Nat) : List Int :=
  let cs := lineCodes sl.tile sl.fmt k i
  if sl.fmt == 0xF then cs.map (toSigned 8)
  else if sl.fmt == 0x12 then cs.map (toSigned 4)
  else
    let zs := (List.range 8).map fun g => (zeroPoint sl.fmt (sideEntry sl.side i g) : Int)
    (cs.zip (List.range k)).map fun p => (p.1 : Int) - zs.getD (p.2 / groupLen sl.qg) 0

/-- The floating-point values of line `i` of a slot. -/
def lineFloats (sl : OpSlot) (k i : Nat) : List FV := (lineCodes sl.tile sl.fmt k i).map (decodeF (ffmt sl.fmt))

/-- A value rounded to a format, to nearest even. -/
def roundV (f : FFmt) (v : FV) : FV := decodeF f (round f 0 v).1

/-- The exact run sum of products (R52): −0 only when every product is −0. -/
def runSum : List FV → FV
  | [] => .fin false 0 0
  | [v] => v
  | v :: r => addV 0 v (runSum r)

/-- Products of two lines. -/
def products (x y : List FV) : List FV := x.zipWith mulV y

/-- A value is a zero (R55). -/
def allZero (l : List FV) : Bool := l.all (·.isZero)

/-- Runs of eight elements. -/
def runsOf : Nat → List FV → List (List FV)
  | 0, _ => []
  | n + 1, l => l.take 8 :: runsOf n (l.drop 8)

/-- A cell of a floating-point `mma` (R52): one FMA per element for f64 and f32, exact runs of eight otherwise. -/
def mmaCell (cell : Nat) (runs : Bool) (c : Nat) (ps : List FV) : Nat :=
  let f := ffmt cell
  let v := if runs then
      (runsOf (ps.length / 8) ps).foldl (fun c r => roundV f (addV 0 c (roundV f (runSum r)))) (decodeF f c)
    else ps.foldl (fun c p => roundV f (addV 0 p c)) (decodeF f c)
  (round f 0 v).1

/-- A cell of a floating-point `mmg` (R54): the run rule from the first run's rounded sum. -/
def mmgCell (ps : List FV) : Nat :=
  let f := ffmt 1
  match runsOf (ps.length / 8) ps with
  | [] => 0
  | r :: rs => (round f 0 (rs.foldl (fun c r => roundV f (addV 0 c (roundV f (runSum r)))) (roundV f (runSum r)))).1

/-- A dot product of integers. -/
def intDotSum (x y : List Int) : Int := (x.zipWith (· * ·) y).foldl (· + ·) 0

/-- An e8m0 or f16 scale as a value (R35, R296). -/
def scaleV (e8 : Bool) (v : BitVec 16) : FV := if e8 then ofE8m0 v.toNat else decodeF (ffmt 2) v.toNat

/-- A finite scale. -/
def finiteV : FV → Bool
  | .fin .. => true
  | _ => false

/-- One cell of a `tsacc` (R54, R55, R298, R316): the scaled sums of the partial tiles in ascending order. Skipping a zero term changes nothing but in a
cell all of whose terms are zero, which keeps its value. -/
def tsaccCell (skip : Bool) (c : Nat) (terms : List (FV × FV × FV)) : Nat :=
  let f := ffmt 1
  let term : FV × FV × FV → FV := fun t => mulV (mulV t.1 t.2.1) t.2.2
  if skip && terms.all (fun t => (term t).isZero) then c
  else (round f 0 (terms.foldl (fun c t => roundV f (addV 0 c (roundV f (term t)))) (decodeF f c))).1

/-- Cells written back as bytes of width `w`, from an offset, over what stands there. -/
def cellMem (w : Nat) (vs : List Nat) : Memory := runCells 0 (vs.flatMap (bytesLE w))

/-- The 1,024 cells of an accumulator. -/
def accCells (t : Tile) : List Nat := cellsOf 8 1024 (memReadN t.cells 0 8192)
/-- The 1,024 cells of a partial tile. -/
def partCells (t : Tile) : List Nat := cellsOf 4 1024 (memReadN t.cells 0 4096)

/-- An accumulator's cells with their 32-bit parts replaced (R292). -/
def withLow (old new : List Nat) : List Nat := old.zipWith (fun o n => o / 2 ^ 32 * 2 ^ 32 + n % 2 ^ 32) new

/-- The cells of an `mma` or `mmi` on an accumulator (R52, R53, R55, R315). -/
def mmaCells (tf : TileFmt) (skip : Bool) (a b : OpSlot) (old : List Nat) : List Nat :=
  let rows := List.range 32
  if tf.cell == 2 then
    let xa := rows.map fun i => lineInts a tf.k i
    let xb := rows.map fun j => lineInts b tf.k j
    withLow old ((xa.flatMap fun x => xb.map fun y => intDotSum x y).zipWith (fun d o => wrap 32 (d + (o % 2 ^ 32 : Nat))) old)
  else
    let xa := rows.map fun i => lineFloats a tf.k i
    let xb := rows.map fun j => lineFloats b tf.k j
    let runs := tf.a != 0 && tf.a != 1
    let fc := if tf.cell == 0 then 0 else 1
    let new := (xa.flatMap fun x => xb.map fun y => products x y).zipWith (fun ps o =>
      let c := if tf.cell == 0 then o else o % 2 ^ 32
      if skip && allZero ps then c else mmaCell fc runs c ps) old
    if tf.cell == 0 then new else withLow old new

/-- The cells of partial tile `g` of an `mmg` (R53, R54). -/
def mmgCells (tf : TileFmt) (len g : Nat) (a b : OpSlot) : List Nat :=
  let rows := List.range 32
  if tf.cell == 2 then
    let xa := rows.map fun i => ((lineInts a tf.k i).drop (g * len)).take len
    let xb := rows.map fun j => ((lineInts b tf.k j).drop (g * len)).take len
    xa.flatMap fun x => xb.map fun y => wrap 32 (intDotSum x y)
  else
    let xa := rows.map fun i => ((lineFloats a tf.k i).drop (g * len)).take len
    let xb := rows.map fun j => ((lineFloats b tf.k j).drop (g * len)).take len
    xa.flatMap fun x => xb.map fun y => mmgCell (products x y)

/-- The scales that an `mmg` copies from group `g` of a slot (R296): the f16 SCALE, or the e8m0 byte. -/
def groupScales (sl : OpSlot) (g : Nat) : List (BitVec 16) :=
  (List.range 32).map fun i =>
    let d := sideEntry sl.side i g
    BitVec.ofNat 16 (if 0x10 ≤ sl.fmt then d else d % 256)

/-- The partial tile `g` that an `mmg` writes (R296, R315). -/
def mmgTile (tf : TileFmt) (len g : Nat) (a b : OpSlot) (bad : Bool) (t : Tile) : Tile :=
  { t with cells := cellMem 4 (mmgCells tf len g a b), sa := groupScales a g, sb := groupScales b g
           fp := tf.cell != 2, e8 := tf.cell != 2, bad := bad || t.bad }

/-- The cells of a `tsacc` (R54, R316). -/
def tsaccCells (skip : Bool) (pts : List Tile) (old : List Nat) : List Nat :=
  let ps := pts.map fun p => (p, partCells p)
  withLow old ((List.range 1024).zipWith (fun n o =>
    tsaccCell skip (o % 2 ^ 32) (ps.map fun p =>
      let v := p.2.getD n 0
      ((if p.1.fp then decodeF (ffmt 1) v else ofInt (toSigned 32 v)),
       scaleV p.1.e8 (p.1.sa.getD (n / 32) 0), scaleV p.1.e8 (p.1.sb.getD (n % 32) 0)))) old)

/-- Bytes of an element that `tacst` or `tacld` moves (R318). -/
def moveBytes (code : Nat) : Nat := if code == 0 then 8 else if code == 3 || code == 4 then 2 else 4

/-- A cell as `tacst` writes it (R318). [DESIGN CHOICE, log entry 38] -/
def tacstCell (code : Nat) (sat : Bool) (c : Nat) : Nat :=
  match code with
  | 0 => c
  | 1 => (convert (ffmt 1) 0 sat (decodeF (ffmt 0) c)).1
  | 3 => (convert (ffmt 2) 0 sat (decodeF (ffmt 1) (c % 2 ^ 32))).1
  | 4 => (convert (ffmt 3) 0 sat (decodeF (ffmt 1) (c % 2 ^ 32))).1
  | _ => c % 2 ^ 32

/-- A cell as `tacld` loads it (R318): a 32-bit cell leaves bits [63:32] at 0. -/
def tacldCell (code : Nat) (v : Nat) : Nat :=
  match code with
  | 1 => (round (ffmt 0) 0 (decodeF (ffmt 1) v)).1
  | 3 => (round (ffmt 1) 0 (decodeF (ffmt 2) v)).1
  | 4 => (round (ffmt 1) 0 (decodeF (ffmt 3) v)).1
  | _ => v

end Sys2Proof.Machine
end

