-- ==== Sys2Proof/Machine/Tiles.lean ====
section
/-! DEFINITION. The matrix engine at work (R292 to R299, R313 to R320): which units an op names, when it may fire, what it writes, claims and
releases in issue order, `tacst`, and the statuses that land. -/
namespace Sys2Proof.Machine

/-- A status word lands in the slot of its thread (R285, R312, R321). While another command that names the slot has yet to land, the slot stays not
present. -/
def landStatus (s : State) (uid slot : Nat) (word : Nat) : State :=
  match thread? s uid with
  | none => s
  | some t =>
    if t.st == .exited then s
    else
      let note : Thread → Thread := fun t => { t with statusAt := slot :: t.statusAt.filter (· != slot) }
      let hide : Thread → Thread := fun t => { t with slots := modAt (fun l => { l with pres := false }) t.slots slot }
      let s1 := modThread (landSlots s uid slot false word) uid note
      if (statusOwed s t).contains slot then modThread s1 uid hide else s1

/-- A status word of a copy, `spres`, `tacst` or `tacld` (R285). -/
def statusWord (code clip : Nat) : Nat :=
  2 ^ 31 + (if code == 0 then 0 else 2 ^ 30) + code * 2 ^ 24 + min clip 0xFFFFFF

/-- A unit: kind 0 operand slot (physical), 1 accumulator, 2 partial tile (R300). -/
abbrev EUnit := Nat × Nat

/-- The physical slot of a group's operand slot (R292); none at or above OPSL. -/
def physSlot? (s : State) (g gi n : Nat) : Option Nat := (group? s g gi).bind fun gr => gr.opsl[n]?

/-- The units of a claim, release or zero: KIND, first unit, count. -/
def rangeUnits (s : State) (g gi : Nat) (f : FmtE) : List EUnit :=
  let kind := f.x.toNat / 16
  (List.range (f.z.toNat + 1)).filterMap fun i =>
    let n := f.slot.toNat + i
    if kind == 0 then (physSlot? s g gi n).map fun p => (0, p) else some (kind, n)

/-- Partial tiles that an `mmg` counts as naming (R295). -/
def mmgNames (f : FmtE) : List EUnit :=
  let n := f.y.toNat % 8
  ((List.range ((tileFmt f.z.toNat).k / 32)).map fun i => (2, n + i)).filter fun u => decide (u.2 ≤ 7)

/-- Every unit that a matrix command names (R295). -/
def opUnits (s : State) (o : Op) : List EUnit :=
  let f := cmdE o.word
  let slots := [f.slot.toNat, f.x.toNat].filterMap fun n => (physSlot? s o.grid o.gidx n).map fun p => ((0, p) : EUnit)
  match cmdOp o.word with
  | 0xD0 => rangeUnits s o.grid o.gidx f
  | 0xD1 => rangeUnits s o.grid o.gidx f
  | 0xD2 => slots ++ [(1, f.y.toNat % 16)]
  | 0xD3 => slots ++ [(1, f.y.toNat % 16)]
  | 0xD4 => slots ++ mmgNames f
  | 0xD5 => ((List.range (f.x.toNat / 8 + 1 - f.x.toNat % 8)).map fun i => (2, f.x.toNat % 8 + i)) ++ [(1, f.y.toNat % 16)]
  | 0xD6 => rangeUnits s o.grid o.gidx f
  | 0xD8 => [(1, f.x.toNat % 16)]
  | _ => []

/-- An op of the matching store: the tile ops, `tzero` and `tacld` (R295, R317, R318). -/
def inStore (o : Op) : Bool := o.st == .pending && [0xD2, 0xD3, 0xD4, 0xD5, 0xD6, 0xD8].contains (cmdOp o.word)

/-- Pending commands of the core issued before `o`. -/
def issuedBefore (s : State) (vc : Nat) (o : Op) : List Op := (core s vc).ops.filter fun x => decide (x.id < o.id) && x.st == .pending

/-- An earlier-issued command on a unit of `o` is pending; two ops that only read an operand slot do not wait for each other. -/
def unitBusy (s : State) (vc : Nat) (o : Op) : Bool :=
  let us := opUnits s o
  let claims : Op → Bool := fun x => cmdOp x.word == 0xD0 || cmdOp x.word == 0xD1
  (issuedBefore s vc o).any fun x => (opUnits s x).any fun u => us.contains u && (u.1 != 0 || claims x || claims o)

/-- An operand slot of the core. -/
def opSlot (s : State) (vc p : Nat) : OpSlot := (core s vc).store.slots.getD p OpSlot.reset
/-- An accumulator. -/
def accTile (s : State) (vc n : Nat) : Tile := (core s vc).store.accs.getD n Tile.reset
/-- A partial tile. -/
def ptTile (s : State) (vc n : Nat) : Tile := (core s vc).store.pts.getD n Tile.reset
/-- An operand slot changed. -/
def modSlot (s : State) (vc p : Nat) (f : OpSlot → OpSlot) : State := modStore s vc fun st => { st with slots := modAt f st.slots p }
/-- An accumulator changed. -/
def modAcc (s : State) (vc n : Nat) (f : Tile → Tile) : State := modStore s vc fun st => { st with accs := modAt f st.accs n }
/-- A partial tile changed. -/
def modPt (s : State) (vc n : Nat) (f : Tile → Tile) : State := modStore s vc fun st => { st with pts := modAt f st.pts n }

/-- The scratchpad of a group: its base in bytes and its size. -/
def spadOf (s : State) (g gi : Nat) : Nat × Nat := ((group? s g gi).map fun x => (x.spadBase * 16384, x.spadUnits * 16384)).getD (0, 0)

/-- Physical lines of a region of a group's scratchpad. -/
def regionLines (base off n : Nat) : List Nat := (List.range (ceilDiv n 64)).map fun i => (base + off) / 64 + i

/-- Bytes that a `tacst` or `tacld` moves (R318). -/
def moveSize (code : Nat) : Nat := 1024 * moveBytes code

/-- A `tacst` or `tacld` region is a multiple of 64 and inside the group's units (R318). -/
def moveOk (s : State) (o : Op) : Bool :=
  o.off % 64 == 0 && decide (o.off + moveSize (cmdE o.word).z.toNat ≤ (spadOf s o.grid o.gidx).2)

/-- A matrix op may fire (R295, R315 to R318); a `tacld` reads after the writes of its thread in the cycle (R240). -/
def opReady (s : State) (vc : Nat) (o : Op) : Bool :=
  inStore o && !unitBusy s vc o &&
  (match cmdOp o.word with
   | 0xD2 | 0xD3 | 0xD4 =>
     let f := cmdE o.word
     [f.slot.toNat, f.x.toNat].all fun n => match physSlot? s o.grid o.gidx n with
       | some p => (opSlot s vc p).st == .full && (opSlot s vc p).tag == o.tag
       | none => false
   | 0xD8 => !moveOk s o || (!ownLate s vc o.uid &&
      (regionLines (spadOf s o.grid o.gidx).1 o.off (moveSize (cmdE o.word).z.toNat)).all (linePresent s vc))
   | _ => true)

/-- A command leaves the core's list. -/
def dropOp (s : State) (vc id : Nat) : State := modCore s vc fun c => { c with ops := c.ops.filter fun x => x.id != id }

/-- FireWithoutWriting (R315): the code waits for the group's next `tfence`. -/
def fireBarren (s : State) (vc : Nat) (o : Op) (code : Nat) : State :=
  let (n, s1) := fresh s
  modCore s1 vc fun c => { c with ops := modWhere (fun x => x.id == o.id) (fun x => { x with st := .barren code n }) c.ops }

/-- The group holds an accumulator or partial tile (R292). -/
def holds (s : State) (vc g gi : Nat) (u : EUnit) : Bool :=
  (if u.1 == 1 then accTile s vc u.2 else ptTile s vc u.2).holder == some (g, gi)

/-- A tile op fires on its operand slots (R315). -/
def fireTile (s : State) (vc : Nat) (o : Op) : State :=
  let f := cmdE o.word
  let tf := tileFmt f.z.toNat
  let a := opSlot s vc ((physSlot? s o.grid o.gidx f.slot.toNat).getD 0)
  let b := opSlot s vc ((physSlot? s o.grid o.gidx f.x.toNat).getD 0)
  if a.fmt != tf.a || b.fmt != tf.b then fireBarren s vc o 0x10
  else
    let bad := a.bad || b.bad
    let skip := o.zsk && b.finite
    if cmdOp o.word != 0xD4 then
      let t := accTile s vc (f.y.toNat % 16)
      let cells := cellMem 8 (mmaCells tf skip a b (accCells t))
      dropOp (modAcc s vc (f.y.toNat % 16) fun t => { t with cells := cells, bad := t.bad || bad }) vc o.id
    else
      let len := if tf.cell == 2 then groupLen a.qg else 32
      let n := f.y.toNat % 8
      let m := tf.k / len
      if tf.cell == 2 && a.qg != b.qg then fireBarren s vc o 0x11
      else if 7 < n + m - 1 || (List.range m).any (fun g => !holds s vc o.grid o.gidx (2, n + g)) then fireBarren s vc o 0x12
      else dropOp ((List.range m).foldl (fun s g => modPt s vc (n + g) (mmgTile tf len g a b bad)) s) vc o.id

/-- A unit zeroed (R317): for a partial tile every scale becomes 1.0 and its cells count as INT32. -/
def zeroTile (part : Bool) (t : Tile) : Tile :=
  if part then { t with cells := [], sa := List.replicate 32 0x3C00, sb := List.replicate 32 0x3C00, fp := false, e8 := false, bad := false }
  else { t with cells := [], bad := false }

/-- A matrix op fires (R315 to R318). -/
def fireOp (s : State) (vc : Nat) (o : Op) : State :=
  let f := cmdE o.word
  match cmdOp o.word with
  | 0xD5 =>
    let ps := (List.range (f.x.toNat / 8 + 1 - f.x.toNat % 8)).map fun i => ptTile s vc (f.x.toNat % 8 + i)
    let t := accTile s vc (f.y.toNat % 16)
    let cells := cellMem 8 (tsaccCells o.zsk ps (accCells t))
    dropOp (modAcc s vc (f.y.toNat % 16) fun t => { t with cells := cells, bad := t.bad || ps.any (·.bad) }) vc o.id
  | 0xD6 =>
    dropOp ((rangeUnits s o.grid o.gidx f).foldl (fun s u => if u.1 == 1 then modAcc s vc u.2 (zeroTile false) else modPt s vc u.2 (zeroTile true)) s) vc o.id
  | 0xD8 =>
    let code := f.z.toNat
    let (base, _) := spadOf s o.grid o.gidx
    if !moveOk s o then landStatus (dropOp s vc o.id) o.uid f.slot.toNat (statusWord 5 0)
    else
      let w := moveBytes code
      let bs := spadBytes s vc (base + o.off) (moveSize code)
      let cells := cellMem 8 ((cellsOf w 1024 bs).map (tacldCell code))
      let bad := (regionLines base o.off (moveSize code)).any (core s vc).store.badLines.contains
      landStatus (dropOp (modAcc s vc (f.x.toNat % 16) fun t => { t with cells := cells, bad := bad }) vc o.id) o.uid f.slot.toNat (statusWord 0 0)
  | _ => fireTile s vc o

/-- A unit passes to a group; where a group of another context held it last it holds zeros (R292, R314). -/
def takeTile (ctx g gi : Nat) (t : Tile) : Tile :=
  if t.holder == some (g, gi) then t
  else if t.ctx == ctx then { t with holder := some (g, gi) }
  else { Tile.reset with holder := some (g, gi), ctx := ctx }

/-- An accumulator or partial tile claimed (R314). [DEDUCED, log entry 36] -/
def claimUnit (s : State) (vc ctx g gi : Nat) (u : EUnit) : State :=
  if u.1 == 1 then modAcc s vc u.2 (takeTile ctx g gi) else modPt s vc u.2 (takeTile ctx g gi)

/-- A claim or release of units takes effect (R292, R314). -/
def applyClaim (s : State) (vc : Nat) (o : Op) : State :=
  let us := rangeUnits s o.grid o.gidx (cmdE o.word)
  let claim := cmdOp o.word == 0xD0
  dropOp (us.foldl (fun s u =>
    if u.1 == 0 then modSlot s vc u.2 fun x => { x with st := .empty, tag := if claim then o.tag else x.tag }
    else if claim then claimUnit s vc o.ctx o.grid o.gidx u
    else
      let rel : Tile → Tile := fun t => if t.holder == some (o.grid, o.gidx) then { t with holder := none } else t
      if u.1 == 1 then modAcc s vc u.2 rel else modPt s vc u.2 rel) s) vc o.id

/-- Claims and releases, each of one unit, take effect in issue order once their wait is over (R314). [DEDUCED, log entry 36] -/
def settleOps (s : State) (vc : Nat) : State :=
  (core s vc).ops.foldl (fun s o =>
    if o.st == .pending && (cmdOp o.word == 0xD0 || cmdOp o.word == 0xD1) && !unitBusy s vc o
        && !(core s vc).copies.any (fun c => o.seenCopies.contains c.id) then applyClaim s vc o else s) s

/-- TILE_OP_FIRE (R295): among the ops that are ready, the earliest issued fires. -/
def execTileOpFire (vc : Nat) (s : State) : Out :=
  match ((core s vc).ops.filter (opReady s vc)).head? with
  | some o => .next (freeFrames (settleOps (fireOp s vc o) vc))
  | none => .next s

/-- A command of a group other than the one named still has to act on an accumulator or partial tile (R314, R321). -/
def opsMeet (s : State) (vc grid gidx : Nat) (u : EUnit) : Bool :=
  (core s vc).ops.any fun o => o.st == .pending && !(o.grid == grid && o.gidx == gidx) && (opUnits s o).contains u

/-- The core that holds a matrix command. -/
def opCore? (s : State) (id : Nat) : Option (Nat × Op) :=
  (List.range s.cores.length).findSome? fun vc => ((core s vc).ops.find? fun o => o.id == id).map fun o => (vc, o)

/-- `tacst` reads its unit, writes its lines, which become present, and lands its status (R318, R378). [DESIGN CHOICE, log entry 38] -/
def storeAcc (s : State) (vc : Nat) (o : Op) : State :=
  let f := cmdE o.word
  let code := f.z.toNat
  let (base, _) := spadOf s o.grid o.gidx
  let part := f.x.toNat / 16 == 2
  let t := if part then ptTile s vc (f.x.toNat % 16) else accTile s vc (f.x.toNat % 16)
  if !moveOk s o then landStatus (dropOp s vc o.id) o.uid f.slot.toNat (statusWord 5 0)
  else
    let lines := regionLines base o.off (moveSize code)
    let s1 := if t.bad then s
      else
        let cells := if part then partCells t else accCells t
        spadWrite s vc 0 (base + o.off) (cells.flatMap fun c => bytesLE (moveBytes code) (tacstCell code (f.y.getLsbD 0) c))
    let s2 := lines.foldl (fun s l => restoreLine s vc l) s1
    landStatus (dropOp s2 vc o.id) o.uid f.slot.toNat (statusWord (if t.bad then 0x0C else 0) 0)

/-- ACCUMULATOR_STORE_DONE (R318): a `tacst` ends. -/
def execAccumulatorStoreDone (o : Nat) (s : State) : Out :=
  match opCore? s o with
  | some (vc, x) => if cmdOp x.word == 0xD7 && x.st == .pending then .next (freeFrames (storeAcc s vc x)) else .next s
  | none => .next s

/-- The ops that fired without writing and that a `tfence` reports, in firing order (R319). -/
def barrenBefore (s : State) (vc : Nat) (o : Op) : List (Nat × Nat) :=
  (core s vc).ops.filterMap fun x => match x.st with
    | .barren code n => if x.grid == o.grid && x.gidx == o.gidx && x.id < o.id then some (n, code) else none
    | .pending => none

/-- A `tfence` lands: the code of the first op that fired without writing, and how many did (R319). -/
def landTfence (s : State) (vc : Nat) (o : Op) : State :=
  let bs := barrenBefore s vc o
  let gr := group? s o.grid o.gidx
  let code0 := (gr.map (·.tfCode)).getD 0
  let n := bs.length + (gr.map (·.tfCount)).getD 0
  let code := if code0 != 0 then code0 else ((leastBy (fun b => b.1) bs).map (·.2)).getD 0
  let word := 2 ^ 31 + (if n == 0 then 0 else 2 ^ 30) + code * 2 ^ 24 + min n 0xFFFFFF
  let gone : Op → Bool := fun x => x.grid == o.grid && x.gidx == o.gidx && x.id < o.id && x.st != .pending
  let s1 := modCore s vc fun c => { c with ops := c.ops.filter fun x => !gone x }
  let s2 := modGroup s1 o.grid o.gidx fun g => { g with tfCode := 0, tfCount := 0 }
  landStatus (dropOp s2 vc o.id) o.uid (cmdE o.word).slot.toNat word

/-- TFENCE_STATUS_LAND (R319): once every op of the group issued before the fence has finished. -/
def execTfenceStatusLand (o : Nat) (s : State) : Out :=
  match opCore? s o with
  | some (vc, x) =>
    let waits := (issuedBefore s vc x).any fun y => y.grid == x.grid && y.gidx == x.gidx && cmdOp y.word != 0xD0 && cmdOp y.word != 0xD1
    if cmdOp x.word == 0xD9 && !waits then .next (freeFrames (landTfence s vc x)) else .next s
  | none => .next s

end Sys2Proof.Machine
end

