-- ==== Sys2Proof/Machine/Copies.lean ====
section
/-! DEFINITION. The copy engines at work (R278 to R291, R307 to R311): layout records, boxes and their elements, the checks at the start, the
lines a copy writes, its end, and the permits of volleys. -/
namespace Sys2Proof.Machine

/-! Layout records (R235, R236) -/

/-- The fields of a layout record (R235). -/
structure Lay where
  base : Nat
  ety : Nat
  rank : Nat
  fillk : Nat
  swz : Nat
  qg : Nat
  fillv : Nat
  dims : List Nat
  strs : List Nat
  doff : Int

/-- A layout record's fields; STR0 stands for 0. -/
def layOf (r : BitVec 512) : Lay :=
  { base := field512 r 0 8, ety := field512 r 8 1, rank := field512 r 9 1, fillk := field512 r 0x0A 1
    swz := field512 r 0x0B 1 % 4, qg := field512 r 0x0B 1 / 4 % 4, fillv := field512 r 0x0C 4
    dims := (List.range 5).map fun d => field512 r (0x10 + 4 * d) 4
    strs := 0 :: (List.range 4).map fun d => field512 r (0x24 + 4 * d) 4
    doff := toSigned 32 (field512 r 0x34 4) }

/-- The check of R236 that a record as read fails; 0 for none. -/
def layCode (r : BitVec 512) : Nat :=
  let l := layOf r
  let free := (List.range 5).all fun d => decide (d < l.rank) || (l.dims.getD d 0 == 0 && l.strs.getD d 0 == 0)
  if 2 ^ 55 ≤ l.base || l.base % 16 != 0 || 0x20 ≤ l.ety || 4 ≤ l.fillk || 16 ≤ field512 r 0x0B 1 || field512 r 0x38 8 != 0 then 1
  else if l.rank == 0 || 5 < l.rank || !free then 2
  else if 0x11 < l.ety || l.fillk == 3 || (l.qg == 3 && 0x10 ≤ l.ety) then 3
  else 0

/-- The fill value of clipped elements (R282). -/
def fillValue (l : Lay) : Nat :=
  if l.fillk == 0 then 0
  else if l.fillk == 2 then l.fillv % 2 ^ elemBits l.ety
  else if l.ety ≤ 5 then (ffmt l.ety).canon
  else if l.ety == 6 || l.ety == 7 then 0x1F
  else if l.ety == 8 then 7
  else if l.ety == 9 then 0xFF
  else 0

/-! The box (R281, R287, R303) -/

/-- A gather or a scatter (R287). -/
def isRows (c : Copy) : Bool := copyOp c == 0xC7 || copyOp c == 0xC8
/-- The copy writes global memory. -/
def isOut (c : Copy) : Bool := copyOp c == 0xC1 || copyOp c == 0xC8
/-- The channel number. -/
def copyChannel (c : Copy) : Nat := (cmdE c.word).z.toNat / 4

/-- The box extents B0 to B4 (R303). -/
def boxExt (c : Copy) : List Nat :=
  let w := fun i => (c.box.getD i 0).toNat
  [bits (w 0) 0 16 + 1, bits (w 0) 16 16 + 1, bits (w 1) 0 16 + 1, bits (w 1) 16 16 + 1, bits (w 2) 0 16 + 1]

/-- Elements of the box. -/
def boxCount (c : Copy) : Nat := (boxExt c).foldl (· * ·) 1

/-- Rows, and elements of each: a copy through a box is one row. -/
def rowsOf (c : Copy) : Nat × Nat := if isRows c then ((boxExt c).getD 1 1, (boxExt c).getD 0 1) else (1, boxCount c)

/-- Bytes of a row in the scratchpad. -/
def rowBytes (l : Lay) (c : Copy) : Nat := ceilDiv ((rowsOf c).2 * elemBits l.ety) 8

/-- Bytes of the copy's scratchpad region (R283, R287). -/
def copyBytes (l : Lay) (c : Copy) : Nat := (rowsOf c).1 * rowBytes l c

/-- The box keeps R281 and R303. -/
def boxOk (l : Lay) (c : Copy) : Bool :=
  let ext := boxExt c
  let free := (List.range 5).all fun d => decide (d < l.rank) || (isRows c && d == 1) || (ext.getD d 1 == 1 && c.coords.getD d 0 == 0)
  bits ((c.box.getD 2 0).toNat) 16 16 == 0 && free && decide (boxCount c ≤ 2 ^ 24) &&
  (!isRows c || (decide (2 ≤ l.rank) && decide (ext.getD 1 1 ≤ 256) && ext.drop 2 == [1, 1, 1]))

/-- The place keeps R283, and the index list lies inside the group's units (R310). -/
def placeOk (s : State) (l : Lay) (c : Copy) : Bool :=
  let size := (spadOf s c.grid c.gidx).2
  let p := c.placeW.toNat
  if [0xC0, 0xC1, 0xC3, 0xC7, 0xC8].contains (copyOp c) then
    p % 64 == 0 && rowBytes l c % 64 == 0 && decide (p + copyBytes l c ≤ size) &&
    (!isRows c || (c.listOff % 4 == 0 && decide (c.listOff + 4 * (rowsOf c).1 ≤ size)))
  else true

/-- Physical scratchpad lines that the copy's destination covers within the group's units; their presence clears at commit, whether the record will
pass its checks or not (R280). A record that could not be read, or whose element type is reserved, gives the destination no size.
[DEDUCED, log entry 74] -/
def destLines (s : State) (c : Copy) : List Nat :=
  match c.layout with
  | none => []
  | some r =>
    if 0x11 < (layOf r).ety || !([0xC0, 0xC3, 0xC7].contains (copyOp c)) then []
    else
      let (base, size) := spadOf s c.grid c.gidx
      let p := c.placeW.toNat
      let e := min (p + copyBytes (layOf r) c) size
      if e ≤ p then [] else (List.range ((e + 63) / 64 - p / 64)).map fun i => base / 64 + p / 64 + i

/-! Fills of operand slots (R293, R294, R309) -/

/-- The operand slot, by the group's number, and the tag that the place word of a `tcopyo` names (R301). -/
def fillSlot (c : Copy) : Nat := bits c.placeW.toNat 0 6
/-- The fill tag. -/
def fillTag (c : Copy) : Nat := bits c.placeW.toNat 8 6
/-- I4 of a `tcopyo`. -/
def fillI4 (c : Copy) : Bool := bit (cmdE c.word).z.toNat 2
/-- The fill format (R309). -/
def fillFmt (l : Lay) (c : Copy) : Nat := if fillI4 c then 0x12 else l.ety
/-- The fill writes a side area (R293). -/
def hasSide (fmt : Nat) : Bool := (decide (4 ≤ fmt) && decide (fmt ≤ 8)) || fmt == 0x10 || fmt == 0x11
/-- Elements of a group of a format's side area (R284). -/
def sideGroup (l : Lay) (fmt : Nat) : Nat := if 0x10 ≤ fmt then groupLen l.qg else 32

/-- The element formats a copy kind accepts (R307). -/
def etypeOk (l : Lay) (c : Copy) : Bool :=
  match copyOp c with
  | 0xC2 => (decide (l.ety ≤ 8) || [0xF, 0x10, 0x11].contains l.ety) && (!fillI4 c || l.ety == 0x11)
  | 0xC3 => [1, 2, 3, 0xA, 0xB].contains l.ety
  | _ => true

/-- The checks of a `tcopyo` that need the fill format (R307). -/
def fillOk (l : Lay) (c : Copy) : Bool :=
  let f := fillFmt l c
  let q := f == 0x10 || f == 0x11
  let ext := boxExt c
  ext.getD 0 1 == fillK f && boxCount c == 32 * fillK f &&
  (!(q || (hasSide f && l.doff != 0)) || c.coords.getD 0 0 % (sideGroup l f : Int) == 0) && (!q || l.doff != 0)

/-! Volleys (R288, R289, R311) -/

/-- The virtual cores that the mask of a `tcast` names. -/
def castCores (s : State) (c : Copy) : List Nat :=
  let vd := ((group? s c.grid c.gidx).map (·.vd)).getD 0
  ((List.range 16).filter fun i => bit c.placeW.toNat i).map fun i => 16 * vd + i

/-- The volley id of a `tcast`. -/
def castId (c : Copy) : Nat := (cmdE c.word).z.toNat / 4

/-- The open ring of a grid and a volley id on a core. -/
def ring? (s : State) (vc grid v : Nat) : Option Ring := (core s vc).rings.find? fun r => r.grid == grid && r.v == v

/-- A ring changed. -/
def modRing (s : State) (vc grid v : Nat) (f : Ring → Ring) : State :=
  modCore s vc fun k => { k with rings := modWhere (fun r => r.grid == grid && r.v == v) f k.rings }

/-- The ring belongs to a group that has left the core for a dugout (R289). -/
def ringAway (s : State) (vc grid v : Nat) : Bool :=
  s.groups.any fun g => g.grid == grid && (match g.at_, g.saved with
    | .dugout _ k, some sv => k == vc && sv.rings.any (fun r => r.v == v)
    | _, _ => false)

/-- The receiving tiles of a volley: core and physical byte offset (R288). -/
def castTargets (s : State) (c : Copy) : List (Nat × Nat) :=
  (castCores s c).filterMap fun vc => (ring? s vc c.grid (castId c)).map fun r =>
    (vc, (spadOf s r.grid r.gidx).1 + r.off + r.wc % r.dp * r.tb)

/-- The box is exactly one tile of every receiver (R311). -/
def castSize (s : State) (l : Lay) (c : Copy) : Bool :=
  copyOp c != 0xC4 || (castCores s c).all fun vc => match ring? s vc c.grid (castId c) with
    | some r => boxCount c * elemBits l.ety == 8 * r.tb
    | none => false

/-! Starting (R279, R280, R307) -/

/-- A receiver of a volley has no ring of its pair, or one that is bound to another group (R289). -/
def castUnbound (s : State) (c : Copy) : Bool :=
  let ks := castCores s c
  ks.isEmpty || ks.any fun k => match ring? s k c.grid (castId c) with
    | some r => r.bound.isSome && r.bound != some c.gidx
    | none => !ringAway s k c.grid (castId c)

/-- The check that a copy fails at its start, in the order of R307, a volley's rings first (R289); 0 for none. -/
def startCode (s : State) (c : Copy) : Nat :=
  match c.layout with
  | none => 4
  | some r =>
    let l := layOf r
    if copyOp c == 0xC4 && castUnbound s c then 9
    else if layCode r != 0 then layCode r
    else if !boxOk l c || !castSize s l c then 6
    else if !placeOk s l c then 5
    else if !etypeOk l c then 0x0B
    else if copyOp c == 0xC2 && !fillOk l c then 6
    else if copyOp c == 0xC2 && (physSlot? s c.grid c.gidx (fillSlot c)).isNone then 0x0D
    else 0

/-- A copy of a core changed. -/
def modCopy (s : State) (vc id : Nat) (f : Copy → Copy) : State :=
  modCore s vc fun k => { k with copies := modWhere (fun c => c.id == id) f k.copies }

/-- The copy that an engine runs. -/
def runningOn (s : State) (vc eng : Nat) : Option Copy := (core s vc).copies.find? fun c => c.st == .running eng

/-- The quiesce phase of a context. -/
def phaseOf (s : State) (ctx : Nat) : Nat := ((ctx? s ctx).map (·.regs.phase)).getD 0

/-- A fill waits while a pending op names its slot under another tag, and for claims issued before it (R294, R314). -/
def fillWaits (s : State) (vc : Nat) (c : Copy) : Bool :=
  match physSlot? s c.grid c.gidx (fillSlot c) with
  | none => false
  | some p => (core s vc).ops.any fun o => o.st == .pending && (opUnits s o).contains (0, p) &&
      (if cmdOp o.word == 0xD0 || cmdOp o.word == 0xD1 then !o.seenCopies.contains c.id else o.tag != fillTag c)

/-- The group is being squashed: its committed copies to global memory run on, before the cut of a quiesce too (R125, R385). -/
def squashes (s : State) (g gi : Nat) : Bool := (group? s g gi).any fun x => x.st == .squashing

/-- Copies of the context start on the core: no quiesce has settled them and its die is not reset; those of a squashing group go on until the cut, and
until the die has drained (R125, R381, R387). -/
def copyMayRun (s : State) (vc : Nat) (c : Copy) : Bool :=
  let st := (die s (dieOf s vc)).st
  (decide (phaseOf s c.ctx < 3) && st == .running) || (squashes s c.grid c.gidx && (st == .running || st == .draining))

/-- A queued copy is ready to start (R279, R289, R291, R299): a volley waits while a receiver sits in a dugout. -/
def copyReady (s : State) (vc : Nat) (c : Copy) : Bool :=
  (match c.st with
   | .running _ => false
   | .permitted => !(castCores s c).any fun k => ringAway s k c.grid (castId c)
   | .queued => copyOp c != 0xC4
   | .reread told => told.isNone) &&
  copyMayRun s vc c && !(copyOp c == 0xC2 && fillWaits s vc c) &&
  s.effects.all fun e => !(e.uid == c.uid && (decide (e.seq < c.seq) || (e.seq == c.seq && decide (e.ord < c.ord)))) || performedAt s 1 e

/-! Translation for a copy (R280) -/

/-- What a copy's access to a page comes to. -/
inductive CopyPage where
  | pa (a mt : Nat)
  | stop (code : Nat)
  | migrate (large : Bool)
deriving DecidableEq, Repr

/-- The checks of a page for a copy (R280): 7 for a translation fault, 8 for the others. -/
def copyCheck (e : BitVec 64) (large : Bool) (cid va : Nat) (need : Need) : CopyPage :=
  match pageCheck e large cid va need with
  | .ok (pa, mt) => .pa pa mt
  | .error _ => .stop 8

/-- A copy's access translated: through the TLBs, or by a walk that fills them (R231, R280). -/
def copyXlat (s : State) (vc ctx grid va : Nat) (need : Need) : State × CopyPage :=
  let cid := gridCid s grid
  match tlbLookup s vc ctx va, ctx? s ctx with
  | some e, _ => (s, copyCheck e.pte e.large cid va need)
  | none, none => (s, .stop 7)
  | none, some c =>
    let s0 := walkReads s (ptBase c) va
    match walk s (ptBase c) va with
    | .leaf e large at_ =>
      let m := walkBits e [⟨ctx, va / 2 ^ 16, need != .read, need == .atomic, cid, vc⟩]
      let ent : TlbEnt := ⟨ctx, va / 2 ^ 16, large, e ||| m⟩
      let s1 := modCore (orPte s0 at_ e m) vc fun k => { k with tlb := tlbAdd 128 k.tlb ent }
      (modDie s1 (dieOf s vc) fun d => { d with tlb := tlbAdd 8192 d.tlb ent }, copyCheck e large cid va need)
    | .migrate large => (s0, .migrate large)
    | .phys => (s0, .stop 8)
    | _ => (s0, .stop 7)

/-- A migration request for a copy: a record that parks nobody and names no thread (R246, R280, R365). [DEDUCED, log entry 50] -/
def copyMigrate (s : State) (ctx va : Nat) : State := postEvent s (plainRec ctx 1 2 0 va 0)

/-- How the reading of a layout record ends (R280). -/
inductive LayRead where
  | got (r : Option (BitVec 512))
  | wait
  | migrate (large : Bool)
deriving DecidableEq, Repr

/-- The layout record that a command names is read, over it the thread's stores in flight and `own`, what the instance stores at lower ordinals
(R235, R280, R291, R307). An atomic of the thread in flight on the record is waited for (R255). -/
def readLayout (s : State) (vc ctx grid uid dn : Nat) (own : Runs) : State × LayRead :=
  let va := (((grid? s grid).map fun (g : Grid) => g.dptrs.getD dn 0).getD 0).toNat
  if va % 64 != 0 || 2 ^ 55 ≤ va then (s, .got none)
  else match copyXlat s vc ctx grid va .read with
    | (s1, .pa pa mt) =>
      if homeMisses s1 (dieOf s vc) mt pa || atomicInFlight s1 uid pa 64 then (s1, .wait)
      else if s1.hub.badSectors.contains (pa / 64) then (s1, .got none)
      else
        let bs := if mt == 0 then dieRead s1 (dieOf s vc) pa 64 else hubRead s1 pa 64
        let s2 := if mt == 0 then touchLine s1 (dieOf s vc) pa else s1
        (s2, .got (some (BitVec.ofNat 512 (natLE (own.foldl (overlayRun pa) (forward s1 uid pa bs))))))
    | (s1, .stop _) => (s1, .got none)
    | (s1, .migrate large) => (s1, .migrate large)

/-- The address of a copy's layout record. -/
def layoutVa (s : State) (c : Copy) : Nat := (((grid? s c.grid).map fun (g : Grid) => g.dptrs.getD ((cmdE c.word).x.toNat % 8) 0).getD 0).toNat

/-- The clear lines that a restored copy holds shrink to those of its destination, once its record tells which they are (R299). The image gives the
presence bits, not the copy that cleared each. [DEDUCED, log entry 66] -/
def trimCleared (s : State) (vc : Nat) (c : Copy) (r : Option (BitVec 512)) : State :=
  match c.layout, r with
  | none, some _ =>
    let mine := destLines s { c with layout := r }
    let s1 := (c.cleared.filter fun l => !mine.contains l).foldl (fun s l => restoreLine s vc l) s
    modCopy s1 vc c.id fun c => { c with cleared := c.cleared.filter mine.contains }
  | _, _ => s

/-- A copy that comes back from a resume or a restore reads its layout record again (R299). -/
def rereadCopy (s : State) (vc : Nat) (c : Copy) : State :=
  match readLayout s vc c.ctx c.grid c.uid ((cmdE c.word).x.toNat % 8) [] with
  | (s1, .got r) => modCopy (trimCleared s1 vc c r) vc c.id fun c => { c with layout := r, st := .queued }
  | (s1, .wait) => s1
  | (s1, .migrate large) => modCopy (copyMigrate s1 c.ctx (layoutVa s c)) vc c.id fun k => { k with st := .reread (some (layoutVa s c, large)) }

/-- The start of a copy whose checks have passed: a fill takes its slot, a volley its tiles (R289, R294, R309). -/
def startEffects (s : State) (vc : Nat) (c : Copy) : State :=
  if copyOp c == 0xC2 then
    match c.layout, physSlot? s c.grid c.gidx (fillSlot c) with
    | some r, some p => modSlot s vc p fun x => { x with
        st := .filling, tag := fillTag c, fmt := fillFmt (layOf r) c, qg := (layOf r).qg, bad := false }
    | _, _ => s
  else if copyOp c == 0xC4 then
    let ts := castTargets s c
    let n := match c.layout with
      | some r => copyBytes (layOf r) c / 64
      | none => 0
    let s1 := (castCores s c).foldl (fun s k => modRing s k c.grid (castId c) fun r => { r with wc := r.wc + 1 }) s
    let s2 := ts.foldl (fun s t => (List.range n).foldl (fun s i => clearLine s t.1 (t.2 / 64 + i)) s) s1
    modCopy s2 vc c.id fun c => { c with targets := ts }
  else s

/-- A stopped copy (R280). -/
def stopCopy (s : State) (vc id code clip : Nat) : State :=
  modCopy s vc id fun c => { c with code := code, clip := c.clip + clip, stopped := true }

/-- A channel copy whose flow is refused here, at an address, stops with an event (R249, R398, R399). -/
def refuseFlow (s : State) (vc : Nat) (c : Copy) (va clip : Nat) : State := postEvent (stopCopy s vc c.id 0x0A clip) (peerRec c.ctx 0 va)

/-- An engine takes a copy: the checks run, and a copy that fails one ends before it writes a byte (R280). -/
def startCopy (s : State) (vc eng : Nat) (c : Copy) : State :=
  let code := startCode s c
  let s1 := modCopy s vc c.id fun c => { c with st := .running eng, pos := 0, clip := 0, code := code, stopped := code != 0, finite := true, waits := none }
  if code != 0 then s1
  else if !viaChannel c then startEffects s1 vc { c with st := .running eng }
  else match openChannel s1 c.ctx (copyChannel c) with
    | (s2, some _) => startEffects s2 vc { c with st := .running eng }
    | (s2, none) => refuseFlow s2 vc c 0 0

/-- COPY_START (R279): an idle engine takes the oldest entry that is ready; engine 0 takes first when both are idle. -/
def execCopyStart (vc eng : Nat) (s : State) : Out :=
  if 2 ≤ eng || (runningOn s vc eng).isSome || (eng == 1 && (runningOn s vc 0).isNone) then .next s
  else match (core s vc).copies.find? (copyReady s vc) with
    | none => .next s
    | some c => match c.st with
      | .reread _ => .next (rereadCopy s vc c)
      | _ => .next (startCopy s vc eng c)

/-! Elements (R281, R282) -/

/-- The place of element `k` in the box, j0 fastest (R283). -/
def boxPlace : List Nat → Nat → List Nat
  | [], _ => []
  | b :: r, k => k % b :: boxPlace r (k / b)

/-- Element coordinates of the tensor: row and place in the row (R281, R287). -/
def elemCoords (c : Copy) (index row j : Nat) : List Int :=
  let cs := (List.range 5).map fun d => c.coords.getD d 0
  if isRows c then [cs.getD 0 0 + j, index, cs.getD 2 0, cs.getD 3 0, cs.getD 4 0]
  else (cs.zip (boxPlace (boxExt c) (row * 0 + j))).map fun p => p.1 + p.2

/-- The element lies outside the tensor (R282). -/
def isClipped (l : Lay) (e : List Int) : Bool :=
  (List.range l.rank).any fun d => let x := e.getD d 0; decide (x < 0) || decide ((l.dims.getD d 0 : Int) ≤ x)

/-- An element's byte address and bit offset (R281). -/
def elemAddr (l : Lay) (e : List Int) : Nat × Nat :=
  let x := fun d => (e.getD d 0).toNat
  let b := x 0 * elemBits l.ety
  let o := b / 8 + (((List.range (l.rank - 1)).map fun d => x (d + 1) * l.strs.getD (d + 1) 0 * 16).foldl (· + ·) 0)
  (l.base + swizzle l.swz o, b % 8)

/-- Elements in one line-write step: a line's worth, a tile line for a fill, and for 6-bit elements three lines or a whole row. -/
def chunkLen (l : Lay) (c : Copy) : Nat :=
  if copyOp c == 0xC2 then (boxExt c).getD 0 1
  else if elemBits l.ety == 6 then (if isRows c then (rowsOf c).2 else 256)
  else 512 / elemBits l.ety

/-- Steps for one row. -/
def chunksPerRow (l : Lay) (c : Copy) : Nat := ceilDiv (rowsOf c).2 (chunkLen l c)

/-- The end of the copy's positions: its steps, or the elements of one that writes global memory. -/
def chunkCount (l : Lay) (c : Copy) : Nat := (rowsOf c).1 * (if isOut c then (rowsOf c).2 else chunksPerRow l c)

/-- Two neighbours of a row lie in one aligned word of 4 bytes: they go into one effect (R256, R291, R335). -/
def sameWord (l : Lay) (c : Copy) (index row j : Nat) : Bool :=
  let e := elemCoords c index row j
  let n := elemCoords c index row (j + 1)
  let (a, q) := elemAddr l e
  let (b, _) := elemAddr l n
  !isClipped l e && !isClipped l n && e.drop 1 == n.drop 1 && (a + (q + elemBits l.ety - 1) / 8) / 4 == b / 4

/-- The elements after element `j` of a row that share its aligned word of memory, at most `k`. -/
def wordTail (l : Lay) (c : Copy) (index row : Nat) : Nat → Nat → Nat
  | 0, _ => 0
  | k + 1, j => if sameWord l c index row j then wordTail l c index row k (j + 1) + 1 else 0

/-- The row index that a gather or a scatter reads from its list (R287). -/
def rowIndex (s : State) (vc : Nat) (c : Copy) (row : Nat) : Nat :=
  if isRows c then natLE (spadBytes s vc ((spadOf s c.grid c.gidx).1 + c.listOff + 4 * row) 4) else 0

/-- Row, first element in the row, number of elements of the step that comes next. A step of a copy that writes global memory ends where no aligned
word of 4 bytes goes on (R291, R335). -/
def chunkAt (s : State) (vc : Nat) (l : Lay) (c : Copy) : Nat × Nat × Nat :=
  let len := (rowsOf c).2
  if isOut c then
    let row := c.pos / len
    let j := c.pos % len
    let e := min ((j / chunkLen l c + 1) * chunkLen l c) len
    (row, j, e + wordTail l c (rowIndex s vc c row) row (min 16 (len - e)) (e - 1) - j)
  else
    let row := c.pos / chunksPerRow l c
    let j := c.pos % chunksPerRow l c * chunkLen l c
    (row, j, min (chunkLen l c) (len - j))

/-- The scratchpad byte offset, from the copy's place, of the byte in which an element of a row begins. -/
def chunkOff (l : Lay) (c : Copy) (row j : Nat) : Nat := row * rowBytes l c + j * elemBits l.ety / 8

/-- Scratchpad bytes that a step of `n` elements from element `j` of a row touches. -/
def chunkBytes (l : Lay) (j n : Nat) : Nat := ceilDiv (j * elemBits l.ety % 8 + n * elemBits l.ety) 8

/-- What has been read so far in a step: the state, pages translated, lines read, values, clipped elements, and why it stopped. -/
structure Reading where
  s : State
  pages : List (Nat × CopyPage)
  lines : List (Nat × List Byte)
  vals : List Nat
  clip : Nat
  stop : Option Nat
  wait : Bool
  migr : Option (Nat × Bool)

/-- A reading at its beginning. -/
def Reading.start (s : State) : Reading := ⟨s, [], [], [], 0, none, false, none⟩

/-- A reading goes on. -/
def Reading.going (g : Reading) : Bool := g.stop.isNone && !g.wait && g.migr.isNone

/-- An element lies below 2^55 and inside one page of 64 KiB (R281). -/
def inPage (va n : Nat) : Bool := decide (va + n ≤ 2 ^ 55) && va / 2 ^ 16 == (va + n - 1) / 2 ^ 16

/-- The physical address of `n` bytes of a copy's tensor, inside one page (R281). -/
def elemPage (g : Reading) (vc : Nat) (c : Copy) (va n : Nat) (need : Need) : Reading × Option (Nat × Nat) :=
  if !inPage va n then ({ g with stop := some 8 }, none)
  else
    let page := va / 2 ^ 16
    let (g1, r) := match g.pages.find? (fun p => p.1 == page) with
      | some p => (g, p.2)
      | none =>
        let (s1, r) := copyXlat g.s vc c.ctx c.grid (page * 2 ^ 16) need
        ({ g with s := s1, pages := g.pages ++ [(page, r)] }, r)
    match r with
    | .pa pa mt => (g1, some (pa + va % 2 ^ 16, mt))
    | .stop code => ({ g1 with stop := some code }, none)
    | .migrate large => ({ g1 with migr := some (va, large) }, none)

/-- A source line of global memory (R280, R377, R388). -/
def sourceLine (g : Reading) (vc mt line : Nat) : Reading × List Byte :=
  match g.lines.find? (fun p => p.1 == line) with
  | some p => (g, p.2)
  | none =>
    let pa := line * 64
    if homeMisses g.s (dieOf g.s vc) mt pa then ({ g with wait := true }, [])
    else if g.s.hub.badSectors.contains line then ({ g with stop := some 0x0C }, [])
    else
      let d := dieOf g.s vc
      let bs := if mt == 0 then dieRead g.s d pa 64 else hubRead g.s pa 64
      ({ g with s := if mt == 0 then touchLine g.s d pa else g.s, lines := g.lines ++ [(line, bs)] }, bs)

/-- `n` bytes of global memory for a copy, as a number; they may lie in two lines. -/
def sourceBytes (g : Reading) (vc : Nat) (c : Copy) (va n : Nat) : Reading × Nat :=
  match elemPage g vc c va n .read with
  | (g1, none) => (g1, 0)
  | (g1, some (pa, mt)) =>
    let (g2, b1) := sourceLine g1 vc mt (pa / 64)
    let n1 := min n (64 - pa % 64)
    let low := natLE ((b1.drop (pa % 64)).take n1)
    if n1 == n || !g2.going then (g2, low)
    else
      let (g3, b2) := sourceLine g2 vc mt (pa / 64 + 1)
      (g3, low + 256 ^ n1 * natLE (b2.take (n - n1)))

/-- One element read from global memory or filled (R281, R282). -/
def readElem (vc : Nat) (l : Lay) (c : Copy) (g : Reading) (e : List Int) : Reading :=
  if !g.going then g
  else if isClipped l e then { g with vals := g.vals ++ [fillValue l], clip := g.clip + 1 }
  else
    let (va, q) := elemAddr l e
    let esz := elemBits l.ety
    let (g1, v) := sourceBytes g vc c va ((q + esz + 7) / 8)
    if g1.going then { g1 with vals := g1.vals ++ [bits v q esz] } else g1

/-- The elements of the step that comes next: coordinates in stream order. -/
def chunkElems (s : State) (vc : Nat) (l : Lay) (c : Copy) : List (List Int) :=
  let (row, j, n) := chunkAt s vc l c
  let idx := rowIndex s vc c row
  (List.range n).map fun i => elemCoords c idx row (j + i)

/-- The far end's answer that a step of a channel copy waits for. -/
def copyReply? (s : State) (vc : Nat) (c : Copy) : Option PeerReply :=
  s.replies.find? fun r => r.vc == vc && r.uid == c.uid && r.idx == 128 + c.id

/-- An answer that has been taken. -/
def dropReply (s : State) (r : PeerReply) : State := { s with replies := s.replies.filter fun x => x != r }

/-- An element of a channel copy is not clipped and breaks the range of R281. -/
def farBad (l : Lay) (e : List Int) : Bool :=
  !isClipped l e && (let (va, q) := elemAddr l e; !inPage va ((q + elemBits l.ety + 7) / 8))

/-- The elements of a step read through a channel (R249, R281, R308, R398): the answer holds the dense bytes of the step; without one, a flow that
has been refused since the start stops the copy. -/
def readChannel (s : State) (vc : Nat) (l : Lay) (c : Copy) (es : List (List Int)) : Reading :=
  let g := Reading.start s
  let esz := elemBits l.ety
  let clips := (es.filter (isClipped l)).length
  if es.any (farBad l) then { g with stop := some 8, clip := ((es.takeWhile fun e => !farBad l e).filter (isClipped l)).length }
  else if clips == es.length then { g with vals := es.map fun _ => fillValue l, clip := clips }
  else match copyReply? s vc c with
    | none =>
      let k := openChannel s c.ctx (copyChannel c)
      if k.2.isSome then { g with s := k.1, wait := true }
      else { g with s := postEvent k.1 (peerRec c.ctx 0 (elemAddr l (es.headD [])).1), stop := some 0x0A }
    | some r =>
      let s1 := dropReply s r
      match r.refused with
      | some code => { g with s := postEvent s1 (peerRec c.ctx code (elemAddr l (es.headD [])).1), stop := some 0x0A }
      | none =>
        let v := natLE r.data
        { g with s := s1, clip := clips
                 vals := (es.zip (List.range es.length)).map fun p => if isClipped l p.1 then fillValue l else bits v (p.2 * esz) esz }

/-- The values of the step that comes next. -/
def readChunk (s : State) (vc : Nat) (l : Lay) (c : Copy) : Reading :=
  let es := chunkElems s vc l c
  if viaChannel c then readChannel s vc l c es else es.foldl (readElem vc l c) (Reading.start s)

/-! Writing (R241, R282, R286, R293) -/

/-- The merge of a `tcopyr` (R286). -/
def mergeElem (l : Lay) (op resident incoming : Nat) : Nat :=
  if l.ety ≤ 3 then
    let f := ffmt l.ety
    match op with
    | 0 => (laneFadd 0 f resident incoming 0).val
    | 1 => (laneMinMax false false f resident incoming 0).val
    | _ => (laneMinMax true false f resident incoming 0).val
  else
    let sg := l.ety == 0xA
    match op with
    | 0 => (resident + incoming) % 2 ^ 32
    | 1 => laneMinOp 32 sg resident incoming 0
    | _ => laneMaxOp 32 sg resident incoming 0

/-- Elements as bytes over what stands there: bits past the last element stay (R282, R283). -/
def packElems (esz : Nat) (vals : List Nat) (old : List Byte) : List Byte :=
  let nb := vals.length * esz
  let v := ofLanes esz vals
  let o := natLE old
  bytesLE old.length (v + o / 2 ^ nb * 2 ^ nb)

/-- A step's values written at a physical scratchpad offset of a core. -/
def writeSpad (s : State) (vc p : Nat) (l : Lay) (c : Copy) (vals : List Nat) : State :=
  let esz := elemBits l.ety
  let n := ceilDiv (vals.length * esz) 8
  let old := memReadN (core s vc).store.spad p n
  let new := if copyOp c == 0xC3 then
      let o := natLE old
      (vals.zip (List.range vals.length)).map fun x => mergeElem l ((cmdE c.word).z.toNat / 16) (bits o (x.2 * esz) esz) x.1
    else vals
  spadWrite s vc 0 p (packElems esz new old)

/-- A line that the copy's last write has reached is present again (R241). -/
def lineDone (s : State) (vc id line : Nat) : State :=
  match (core s vc).copies.find? fun c => c.id == id with
  | some c => if c.cleared.contains line then
      restoreLine (modCopy s vc id fun c => { c with cleared := c.cleared.erase line }) vc line else s
  | none => s

/-- A step of a copy into the scratchpad, or of a volley into every receiver. -/
def writeChunk (s : State) (vc : Nat) (l : Lay) (c : Copy) (vals : List Nat) : State :=
  let (row, j, n) := chunkAt s vc l c
  let o := chunkOff l c row j
  let lines := (ceilDiv (n * elemBits l.ety) 8 + 63) / 64
  if copyOp c == 0xC4 then
    c.targets.foldl (fun s t =>
      (List.range lines).foldl (fun s i => restoreLine s t.1 ((t.2 + o) / 64 + i)) (writeSpad s t.1 (t.2 + o) l c vals)) s
  else
    let p := (spadOf s c.grid c.gidx).1 + c.placeW.toNat + o
    (List.range lines).foldl (fun s i => lineDone s vc c.id (p / 64 + i)) (writeSpad s vc p l c vals)

/-- Bytes of a side-area entry in memory: a descriptor, or an e8m0 byte (R284). -/
def sideBytes (fmt : Nat) : Nat := if 0x10 ≤ fmt then 4 else 1
/-- The entry of a group with no element in range, and of an unscaled block (R293). -/
def sideDefault (fmt : Nat) : Nat := if 0x10 ≤ fmt then 0x3C00 else 0x7F

/-- One side-area entry of a tile line whose first element is `e` (R284, R293). -/
def readSide (vc : Nat) (l : Lay) (c : Copy) (fmt : Nat) (e : List Int) (g : Reading) (k : Nat) : Reading :=
  let len := sideGroup l fmt
  if !g.going then g
  else if fillK fmt / len ≤ k then { g with vals := g.vals ++ [0] }
  else
    let eg := (e.getD 0 0 + (k * len : Nat)) :: e.drop 1
    if l.doff == 0 || isClipped l eg then { g with vals := g.vals ++ [sideDefault fmt] }
    else
      let x := fun d => (eg.getD d 0).toNat
      let dim := fun d => l.dims.getD d 0
      let idx := ((((x 4 * dim 3 + x 3) * dim 2 + x 2) * dim 1 + x 1) * ceilDiv (dim 0) len) + x 0 / len
      let a : Int := (l.base : Int) + 16 * l.doff + (idx * sideBytes fmt : Nat)
      if a < 0 then { g with stop := some 8 }
      else
        let (g1, v) := sourceBytes g vc c a.toNat (sideBytes fmt)
        if g1.going then { g1 with vals := g1.vals ++ [v] } else g1

/-- The side area of a tile line, read after its elements. -/
def readSides (vc : Nat) (l : Lay) (c : Copy) (g : Reading) : Reading :=
  let fmt := fillFmt l c
  if !hasSide fmt || !g.going then { g with vals := [] }
  else (List.range 8).foldl (readSide vc l c fmt ((chunkElems g.s vc l c).headD [])) { g with vals := [] }

/-- A tile line is written into its slot (R293). -/
def writeTile (s : State) (vc : Nat) (l : Lay) (c : Copy) (vals side : List Nat) : State :=
  match physSlot? s c.grid c.gidx (fillSlot c) with
  | none => s
  | some p =>
    let esz := elemBits l.ety
    let n := vals.length * esz / 8
    let fin := decide (9 ≤ l.ety) || vals.all fun v => finiteV (decodeF (ffmt l.ety) v)
    let s1 := modSlot s vc p fun x => { x with
      tile := memWrite x.tile (c.pos * n) (bytesLE n (ofLanes esz vals))
      side := if side.isEmpty then x.side else memWrite x.side (32 * c.pos) (side.flatMap (bytesLE 4)) }
    modCopy s1 vc c.id fun c => { c with finite := c.finite && fin }

/-! Writes to global memory (R282, R291) -/

/-- Bits of a byte that a copy writes: physical address, memory type, mask, value. -/
structure BytePut where
  pa : Nat
  mt : Nat
  mask : Nat
  val : Nat
deriving DecidableEq, Repr

/-- One byte joined to those a step writes. -/
def addPut (l : List BytePut) (b : BytePut) : List BytePut :=
  if l.any (fun x => x.pa == b.pa) then
    modWhere (fun x => x.pa == b.pa) (fun x => { x with mask := x.mask ||| b.mask, val := x.val &&& (255 - b.mask) ||| b.val }) l
  else l ++ [b]

/-- The bytes of an element at an address and a bit offset. -/
def elemPuts (pa mt q esz v : Nat) : List BytePut :=
  (List.range ((q + esz + 7) / 8)).map fun i =>
    ⟨pa + i, mt, bits (((2 ^ esz - 1) <<< q)) (8 * i) 8, bits (v <<< q) (8 * i) 8⟩

/-- Bytes of rising addresses as runs. -/
def joinBytes : List (Nat × Byte) → Runs
  | [] => []
  | (a, b) :: r => match joinBytes r with
    | (x, bs) :: t => if x == a + 1 then (a, b :: bs) :: t else (a, [b]) :: (x, bs) :: t
    | [] => [(a, [b])]

/-- What a step of a writing copy has gathered. -/
structure Putting where
  g : Reading
  puts : List BytePut

/-- One element of a `tstore` or `tscat` (R281, R282): a clipped one is not written. -/
def putElem (vc : Nat) (l : Lay) (c : Copy) (x : Putting) (ev : List Int × Nat) : Putting :=
  if !x.g.going then x
  else if isClipped l ev.1 then { x with g := { x.g with clip := x.g.clip + 1 } }
  else
    let (va, q) := elemAddr l ev.1
    let esz := elemBits l.ety
    let n := (q + esz + 7) / 8
    if viaChannel c then
      if inPage va n then { x with puts := (elemPuts va 0 q esz ev.2).foldl addPut x.puts } else { x with g := { x.g with stop := some 8 } }
    else match elemPage x.g vc c va n .write with
      | (g1, none) => { x with g := g1 }
      | (g1, some (pa, mt)) => ⟨g1, (elemPuts pa mt q esz ev.2).foldl addPut x.puts⟩

/-- The effects that a copy has made and that are still on their way. -/
def copyEffects (s : State) (c : Copy) : List Effect :=
  s.effects.filter fun e => e.uid == c.uid && e.idx == 128 + c.id && (match e.kind with
    | .copy => true
    | .peer .. => true
    | _ => false)

/-- A copy's write becomes an effect (R291). -/
def copyEffect (s : State) (vc : Nat) (c : Copy) (kind : EffKind) (mt : Nat) (bs : List (Nat × Byte)) : State :=
  match bs, thread? s c.uid with
  | [], _ => s
  | b :: _, t =>
    let (id, s1) := fresh s
    let e : Effect :=
      { id := id, ctx := c.ctx, grid := c.grid, gidx := c.gidx, vc := vc, uid := c.uid, frame := (t.map (·.frame)).getD 0
        seq := c.seq, ord := c.ord, ptr := (t.map (·.ptr)).getD ⟨0, 0, 0⟩, idx := 128 + c.id, kind := kind, va := b.1, width := bs.length, mt := mt
        ga := false, rel := 0, acq := 0, runs := joinBytes bs, old := 0, st := .committed, seenEf := (die s (dieOf s vc)).sendN
        acked := false, accepted := false, landed := true, lost := false, tries := 0, sentAt := none }
    { s1 with effects := s1.effects ++ [e] }

/-- What joining a step's bits with those it does not write comes to: the bytes, a wait, or the far end's refusal to tell the old ones. -/
inductive Merged where
  | bytes (s : State) (bs : List (Nat × Nat × Byte))
  | wait (s : State)
  | refused (s : State)

/-- The bytes of a step with the bits that it does not write kept (R282); it waits while an own earlier write of such a byte is on its way, or
while the far end has not told the old bytes. -/
def mergePuts (s : State) (vc : Nat) (c : Copy) (puts : List BytePut) : Merged :=
  let part := puts.filter fun b => b.mask != 255
  let whole : (Nat → Nat) → List (Nat × Nat × Byte) := fun old =>
    puts.map fun b => (b.pa, b.mt, BitVec.ofNat 8 (b.val ||| (old b.pa &&& (255 - b.mask))))
  if part.isEmpty then .bytes s (whole fun _ => 0)
  else if viaChannel c then
    let va := (part.headD ⟨0, 0, 0, 0⟩).pa
    match copyReply? s vc c with
    | none =>
      let k := openChannel s c.ctx (copyChannel c)
      if k.2.isSome then .wait k.1 else .refused (postEvent k.1 (peerRec c.ctx 0 va))
    | some r => match r.refused with
      | some code => .refused (postEvent (dropReply s r) (peerRec c.ctx code va))
      | none => .bytes (dropReply s r) (whole fun a => ((part.zip r.data).find? fun p => p.1.pa == a).map (·.2.toNat) |>.getD 0)
  else if (copyEffects s c).any fun e => e.st == .committed && part.any fun b => runsHas e.runs b.pa then .wait s
  else .bytes s (whole fun a => match part.find? fun b => b.pa == a with
    | some b => natLE (if b.mt == 0 then dieRead s (dieOf s vc) a 1 else hubRead s a 1)
    | none => 0)

/-- The source lines of a step of `tstore` or `tscat` (R283). -/
def stepLines (s : State) (vc : Nat) (l : Lay) (c : Copy) : List Nat :=
  let (row, j, n) := chunkAt s vc l c
  let p := (spadOf s c.grid c.gidx).1 + c.placeW.toNat + chunkOff l c row j
  (List.range ((p + chunkBytes l j n + 63) / 64 - p / 64)).map fun i => p / 64 + i

/-- A step that could not go on: it waits, posts its migration request, or stops the copy. -/
def endReading (g : Reading) (vc : Nat) (c : Copy) : State :=
  match g.stop, g.migr with
  | some code, _ => stopCopy g.s vc c.id code g.clip
  | none, some (va, large) => modCopy (copyMigrate g.s c.ctx va) vc c.id fun c => { c with waits := some (va, large) }
  | none, none => g.s

/-- The step is done. -/
def advance (s : State) (vc id n clip : Nat) : State := modCopy s vc id fun c => { c with pos := c.pos + n, clip := c.clip + clip }

/-- The bytes of a step become effects: one for each page, or one for the channel (R291, R308, R336); `false` where the channel's flow is refused
(R249, R398, R399). -/
def putEffects (s : State) (vc : Nat) (c : Copy) (bs : List (Nat × Nat × Byte)) : State × Bool :=
  if bs.isEmpty then (s, true)
  else if viaChannel c then
    match openChannel s c.ctx (copyChannel c) with
    | (s1, some (pkg, pctx, ordered, _)) =>
      let k : EffKind := .peer (copyChannel c) pkg pctx (flowSeq s1 c.ctx (copyChannel c)) ordered true
      (copyEffect (bumpFlow s1 c.ctx (copyChannel c)) vc c k 0 (bs.map fun b => (b.1, b.2.2)), true)
    | (s1, none) => (s1, false)
  else (((bs.map fun b => b.1 / 65536).eraseDups).foldl (fun s page =>
    let mine := bs.filter fun b => b.1 / 65536 == page
    copyEffect s vc c .copy ((mine.headD (0, 0, 0)).2.1) (mine.map fun b => (b.1, b.2.2))) s, true)

/-- A step of `tstore` or `tscat`: its elements go out as effects, before a failing element too (R280, R291). It reads the scratchpad as a load does, after
the thread's own writes (R240). -/
def storeStep (s : State) (vc : Nat) (l : Lay) (c : Copy) : State :=
  let lines := stepLines s vc l c
  if !lines.all (linePresent s vc) || ownLate s vc c.uid then s
  else if lines.any (core s vc).store.badLines.contains then stopCopy s vc c.id 0x0C 0
  else
    let (row, j, n) := chunkAt s vc l c
    let esz := elemBits l.ety
    let p := (spadOf s c.grid c.gidx).1 + c.placeW.toNat + chunkOff l c row j
    let v := natLE (spadBytes s vc p (chunkBytes l j n)) / 2 ^ (j * esz % 8)
    let es := (chunkElems s vc l c).zip ((List.range n).map fun i => bits v (i * esz) esz)
    let x := es.foldl (putElem vc l c) ⟨Reading.start s, []⟩
    if x.g.wait || x.g.migr.isSome then endReading x.g vc c
    else match mergePuts x.g.s vc c x.puts with
      | .wait s1 => s1
      | .refused s1 => stopCopy s1 vc c.id 0x0A x.g.clip
      | .bytes s1 bs =>
        let (s2, sent) := putEffects s1 vc c bs
        if !sent then refuseFlow s2 vc c ((bs.headD (0, 0, 0)).1) x.g.clip
        else if x.g.going then advance s2 vc c.id n x.g.clip else endReading { x.g with s := s2 } vc c

/-- A step of a copy that reads global memory. -/
def loadStep (s : State) (vc : Nat) (l : Lay) (c : Copy) : State :=
  let g := readChunk s vc l c
  if !g.going then endReading g vc c
  else if copyOp c == 0xC2 then
    let h := readSides vc l c g
    if h.going then advance (writeTile h.s vc l c g.vals h.vals) vc c.id 1 g.clip else endReading h vc c
  else advance (writeChunk g.s vc l c g.vals) vc c.id 1 g.clip

/-- The index list's line of the step's row is present (R287). -/
def listReady (s : State) (vc : Nat) (l : Lay) (c : Copy) : Bool :=
  !isRows c || (!ownLate s vc c.uid && linePresent s vc (((spadOf s c.grid c.gidx).1 + c.listOff + 4 * (chunkAt s vc l c).1) / 64))

/-- The next line of a running copy (R241, R281, R282). -/
def copyStep (s : State) (vc : Nat) (c : Copy) : State :=
  match c.layout with
  | none => s
  | some r =>
    let l := layOf r
    if c.stopped || c.waits.isSome || chunkCount l c ≤ c.pos || !listReady s vc l c then s
    else if isOut c then storeStep s vc l c else loadStep s vc l c

/-- COPY_LINE_WRITE (R241). -/
def execCopyLineWrite (vc eng : Nat) (s : State) : Out :=
  match runningOn s vc eng with
  | some c => .next (copyStep s vc c)
  | none => .next s

/-! Ending (R280, R285, R289, R294) -/

/-- Lines of the receivers that a volley has not written (R289). -/
def unwrittenCast (c : Copy) : Nat × Nat :=
  match c.layout with
  | some r =>
    let l := layOf r
    (min (chunkOff l c 0 (c.pos * chunkLen l c) / 64) (copyBytes l c / 64), copyBytes l c / 64)
  | none => (0, 0)

/-- A copy ends: lines it has not written are present with their old contents, its slot is full or empty, its status lands (R280, R285). -/
def endCopy (s : State) (vc : Nat) (c : Copy) : State :=
  let s1 := c.cleared.foldl (fun s l => restoreLine s vc l) s
  let (a, b) := unwrittenCast c
  let s2 := c.targets.foldl (fun s t => (List.range (b - a)).foldl (fun s i => restoreLine s t.1 (t.2 / 64 + a + i)) s) s1
  let s3 := if copyOp c == 0xC2 then
      match physSlot? s2 c.grid c.gidx (fillSlot c) with
      | some p => modSlot s2 vc p fun x => { x with st := if c.code == 0 then .full else .empty, finite := c.finite }
      | none => s2
    else s2
  let s4 := modCore s3 vc fun k => { k with copies := k.copies.filter fun x => x.id != c.id }
  freeFrames (settleOps (landStatus s4 c.uid (cmdE c.word).slot.toNat (statusWord c.code c.clip)) vc)

/-- The copy has nothing more to do, and every byte it wrote is performed at .g, or taken by the far end (R291, R308). -/
def copyDone (s : State) (c : Copy) : Bool :=
  (c.stopped || (match c.layout with
    | some r => decide (chunkCount (layOf r) c ≤ c.pos)
    | none => true)) && (copyEffects s c).all fun e => performedAt s 1 e && (match e.kind with
    | .peer .. => e.accepted
    | _ => true)

/-- COPY_COMPLETE (R285). -/
def execCopyComplete (vc eng : Nat) (s : State) : Out :=
  match runningOn s vc eng with
  | some c => if copyDone s c then .next (endCopy s vc c) else .next s
  | none => .next s

/-- The core that holds a copy command. -/
def copyCore? (s : State) (id : Nat) : Option (Nat × Copy) :=
  (List.range s.cores.length).findSome? fun vc => ((core s vc).copies.find? fun c => c.id == id).map fun c => (vc, c)

/-- Another volley with its permit and not started shares a ring. -/
def permitAhead (s : State) (c : Copy) : Bool :=
  s.cores.any fun k => k.copies.any fun x =>
    x.id != c.id && x.st == .permitted && copyOp x == 0xC4 && x.grid == c.grid && castId x == castId c &&
    (castCores s x).any (castCores s c).contains

/-- The volley join looks at a waiting `tcast` (R289): no ring, or a ring bound to another group, ends it with 0x09; the first to reach a ring binds
it; the permit is granted once every receiver has room for a tile. -/
def permitVolley (s : State) (vc : Nat) (c : Copy) : State :=
  let v := castId c
  let ks := castCores s c
  if castUnbound s c then endCopy s vc { c with code := 9 }
  else
    let s1 := ks.foldl (fun s k => modRing s k c.grid v fun r => { r with bound := some c.gidx }) s
    let room := ks.all fun k => match ring? s1 k c.grid v with
      | some r => decide (r.wc - r.fc < r.dp)
      | none => false
    if room && !permitAhead s c then modCopy s1 vc c.id fun c => { c with st := .permitted } else s1

/-- VOLLEY_PERMIT (R289). -/
def execVolleyPermit (c : Nat) (s : State) : Out :=
  match copyCore? s c with
  | some (vc, x) =>
    if copyOp x == 0xC4 && x.st == .queued && decide (phaseOf s x.ctx < 3) then .next (permitVolley s vc x) else .next s
  | none => .next s

end Sys2Proof.Machine
end

