-- ==== Sys2Proof/Machine/Launch.lean ====
section
/-! DEFINITION. How work is launched and how it retires (R102 to R130, R389 to R391): queues and heads, release, speculative shapes,
the hand-out of groups, group start, squash, retirement, completion decrements, and notifications of the host. -/
namespace Sys2Proof.Machine

/-! Queues (R106 to R114) -/

/-- The dispatcher's hold on a queue, where it has one. -/
def head? (c : Ctx) (q : Nat) : Option QHead := c.heads.find? fun h => h.q == q

/-- The dispatcher's hold on a queue set. -/
def setHead (s : State) (ctx : Nat) (h : QHead) : State :=
  modCtx s ctx fun c =>
    if c.heads.any (fun x => x.q == h.q) then { c with heads := modWhere (fun x => x.q == h.q) (fun _ => h) c.heads }
    else { c with heads := c.heads ++ [h] }

/-- A queue that nobody has looked at. -/
def QHead.fresh (q : Nat) : QHead := ⟨q, false, none, 0, false, none, false⟩

/-- The rights a descriptor needs (R451). -/
def queueNeed : HubNeed := ⟨true, true, none, false⟩

/-- Address of a queue's descriptor (R106). -/
def queueVa (c : Ctx) (q : Nat) : Nat := c.regs.qtabBase.toNat + 32 * q

/-- A QUEUE fault (R108, R366). -/
def queueFault (s : State) (ctx q : Nat) : State := postEvent s (plainRec ctx 2 12 0 0 (BitVec.ofNat 32 q))

/-- EN is cleared if that write can be made, else the queue is held disabled; the fault is posted (R108). -/
def disableQueue (s : State) (c : Ctx) (q : Nat) (h : QHead) : State :=
  match hubTranslate s c (queueVa c q + 9) queueNeed true with
  | (s1, some pa) =>
    let b := ((hubRead s1 pa 1).headD 0) &&& 0xFE
    let s2 := hubPut s1 (hubMt s1 c (queueVa c q + 9)) pa [b]
    queueFault (setHead s2 c.num { h with raw := none, eligible := false, late := false }) c.num q
  | (s1, none) => queueFault (setHead s1 c.num { h with raw := none, eligible := false, off := true, late := false }) c.num q

/-- HEAD moves past a record, or the direct queue's slot frees (R107, R109). -/
def passHead (s : State) (c : Ctx) (h : QHead) : State :=
  let h1 := { h with raw := none, eligible := false }
  if h.q == 64 then modCtx (setHead s c.num h1) c.num fun c => { c with direct := c.direct.drop 1 }
  else
    match hubWriteVa s c (queueVa c h.q + 0x10) (bytesLE 8 (h.recNo + 1)) queueNeed with
    | (s1, true) => setHead s1 c.num h1
    | (s1, false) => queueFault (setHead s1 c.num { h1 with off := true }) c.num h.q

/-- The detail word of R113. -/
def launchDetail (code q recNo : Nat) : BitVec 32 := BitVec.ofNat 32 (code * 2 ^ 24 + (if q == 64 then 0xFF else q) * 2 ^ 16 + recNo % 2 ^ 16)

/-- A record is refused and consumed (R112). -/
def refuseRecord (s : State) (c : Ctx) (h : QHead) (code : Nat) : State :=
  postEvent (passHead s c h) (plainRec c.num 2 13 (launchDetail code h.q h.recNo) 0 0)

/-- Reserved bits and fields of a launch record (R110). -/
def recReserved (r : BitVec 512) : Bool :=
  let f := field512 r
  decide (2 ^ 55 ≤ f 0 8) || decide (2 ^ 10 ≤ f 8 2) || decide (2 ^ 12 ≤ f 0x0A 2) || decide (2 ^ 30 ≤ f 0x14 4) ||
  decide (2 ^ 5 ≤ f 0x1B 1) || bit (f 0x1C 1) 6 || decide (16 ≤ f 0x1D 1) || decide (2 ^ 55 ≤ f 0x20 8) ||
  [f 0x1E 2, f 0x30 2, f 0x32 2].any (fun v => bits v 12 3 != 0) ||
  (if recSpec r then bits (f 0x10 2) 12 3 != 0 else f 0x3C 4 != 0)

/-- Signal fields of a record (R110, R112). -/
def recSignals (r : BitVec 512) : List Nat :=
  let f := field512 r
  ([f 0x1E 2, f 0x30 2, f 0x32 2] ++ (if recSpec r then [f 0x10 2] else [])).filterMap sigField

/-- The first check of R112 that a record at the head fails; the table reads come at release. -/
def recCheck (c : Ctx) (r : BitVec 512) : Option Nat :=
  let f := field512 r
  let o := c.objs.find? fun o => o.addr == f 0 8
  let k := o.bind fun o => o.kernels[f 8 2]?
  let (gx, gy, gz) := recGroups r
  let spec := recSpec r
  let aff := f 0x1D 1
  [(recReserved r, 1), (o.isNone, 2), (k.isNone, 3), ((o.map (·.cid)) != some (recCid r), 4),
   (!recKsel r && (k.map fun k => bit k.kflags 0) == some true, 5), (decide (1024 < recThreads r), 6),
   (!spec && decide (2 ^ 32 < gx * gy * gz), 7),
   (recNslot r == 0 || decide (64 < recNslot r) || (bit (recFslot r) 7 && decide (recNslot r ≤ recFslot r % 64)), 8),
   (decide (96 < recSpadu r) || decide (64 < recOpsl r), 9),
   ((recSignals r).any fun n => decide (c.regs.sigtN.toNat ≤ n), 10),
   (decide (8 ≤ aff) && decide (aff ≤ 14), 11),
   (spec && (!bit (f 0x10 2) 15 || f 0x0C 4 == 0 || f 0x3C 2 == 0 || decide (f 0x0C 4 < f 0x3E 2)), 12),
   (f 0x20 8 % 64 != 0, 13)].find? (·.1) |>.map (·.2)

/-- A record's wait conditions hold now (R104, R114); a signal that has just been observed has the value observed (R103). -/
def waitsHold (s : State) (ctx : Nat) (r : BitVec 512) (seen : Option (Nat × BitVec 64)) : State × Bool :=
  [(0x30, 0x34), (0x32, 0x38)].foldl (fun (x : State × Bool) p =>
    match sigField (field512 r p.1 2) with
    | none => x
    | some n =>
      let (s1, now) := match seen.filter fun k => k.1 == n with
        | some k => (x.1, some k.2)
        | none => signalValue x.1 ctx n
      (s1, x.2 && now.any fun v => decide (v.toNat ≤ field512 r p.2 4))) (s, true)

/-- A record that is present at the head is copied, checked, and tested (R112, R114). -/
def takeHead (s : State) (c : Ctx) (h : QHead) (r : BitVec 512) : State :=
  match recCheck c r with
  | some code => refuseRecord s c h code
  | none =>
    let (s1, ok) := waitsHold s c.num r none
    setHead s1 c.num { h with raw := some r, eligible := ok }

/-- RECORD_REACHES_HEAD for a work queue (R107, R108). A BASE that is no multiple of 64 fails as a reserved bit does; a tail signal outside the table, or
with an invalid entry, is reported as R102 says and gives the queue no tail. [DESIGN CHOICE, log entry 75] -/
def workHead (s : State) (c : Ctx) (q : Nat) (h : QHead) : State :=
  match hubReadVa s c (queueVa c q) 32 queueNeed with
  | (s1, none) => disableQueue s1 c q h
  | (s1, some bs) =>
    let v := natLE bs
    let base := bits v 0 64
    let lcap := bits v 64 8
    let qfl := bits v 72 8
    let ts := bits v 80 16
    let headN := bits v 128 64
    if !bit qfl 0 || !bit ts 15 then s1
    else if 2 ^ 55 ≤ base || base % 64 != 0 || 16 < lcap || qfl != 1 || bits ts 12 3 != 0 || bits v 96 32 != 0 || bits v 192 64 != 0 then
      disableQueue s1 c q h
    else
      let n := bits ts 0 12
      let (s2, t) := signalValue s1 c.num n
      let h1 := { h with tsig := some n, recNo := headN }
      match t with
      | none => setHead s2 c.num h1
      | some t =>
        if t.toNat ≤ headN then setHead s2 c.num h1
        else if headN + 2 ^ lcap < t.toNat then disableQueue s2 c q h1
        else match hubReadVa s2 c (base + 64 * (headN % 2 ^ lcap)) 64 ⟨true, false, none, false⟩ with
          | (s3, none) => refuseRecord s3 c h1 13
          | (s3, some r) => takeHead s3 c h1 (BitVec.ofNat 512 (natLE r))

/-- RECORD_REACHES_HEAD (R112): queue 64 is the direct queue. -/
def recordReachesHead (s : State) (ctx q : Nat) : State :=
  match ctx? s ctx with
  | none => s
  | some c =>
    let h := (head? c q).getD (QHead.fresh q)
    if h.raw.isSome || h.off || 64 < q || 7 ≤ c.regs.phase then s
    else if q == 64 then
      match c.direct with
      | [] => s
      | r :: _ => takeHead s c { h with recNo := c.directN - c.direct.length } r
    else workHead s c q h

/-- RECORD_REACHES_HEAD (R112). -/
def execRecordReachesHead (ctx q : Nat) (s : State) : Out := .next (hubAct s fun s => recordReachesHead s ctx q)

/-! Units, frames and cores (R128 to R130) -/

/-- The group holds a place of a core; one that is provisional-done has given up its frames, scratchpad and slots (R125). -/
def residentOn (vc : Nat) (g : Group) : Bool :=
  g.at_ == .core vc && (g.st == .starting || g.st == .running || g.st == .squashing || g.st == .provDone)

/-- The groups resident on a core. -/
def residents (s : State) (vc : Nat) : List Group := s.groups.filter (residentOn vc)

/-- Free frames of a core below a bound, ascending (R129). -/
def freeFramesOf (s : State) (vc : Nat) : List Nat :=
  let used := (s.threads.filter fun t => t.resident && t.vc == vc).map (·.frame)
  (List.range 1984).filter fun f => !used.contains f

/-- The lowest run of free scratchpad units (R128). -/
def freeUnits? (s : State) (vc n : Nat) : Option Nat :=
  let gs := residents s vc
  if n == 0 then some 0
  else firstBelow (fun u => decide (u + n ≤ 96) && gs.all fun g => g.spadUnits == 0 || decide (u + n ≤ g.spadBase) || decide (g.spadBase + g.spadUnits ≤ u)) 96

/-- The lowest free operand slots (R128). -/
def freeSlots (s : State) (vc n : Nat) : List Nat :=
  let used := (residents s vc).flatMap (·.opsl)
  ((List.range 64).filter fun p => !used.contains p).take n

/-- A core has what a group needs free (R128), and its die's scheduler accepts groups (R387). -/
def coreFits (s : State) (vc grid frames units opsl : Nat) : Bool :=
  let gs := residents s vc
  (s.pkg.vct.getD vc ⟨false, 0⟩).v && (die s (dieOf s vc)).st == .running &&
  decide (frames ≤ (freeFramesOf s vc).length) && (freeUnits? s vc units).isSome && (freeSlots s vc opsl).length == opsl &&
  decide (gs.length < 32) && (gs.any (fun g => g.grid == grid) || decide (((gs.map (·.grid)).eraseDups).length < 32))

/-- The core of a virtual die that takes a group: the one with the fewest resident groups (R128). -/
def coreFor? (s : State) (vd grid frames units opsl : Nat) : Option Nat :=
  leastBy (fun vc => (residents s vc).length * 128 + vc) (((List.range 16).map fun i => 16 * vd + i).filter fun vc => coreFits s vc grid frames units opsl)

/-- Virtual dies with a valid entry (R116). -/
def presentDies (s : State) : List Nat :=
  (List.range 8).filter fun d => (List.range 16).any fun i => (s.pkg.vct.getD (16 * d + i) ⟨false, 0⟩).v

/-- The virtual dies that may take a group, in the order in which they are tried (R116). -/
def diesFor (s : State) (r : BitVec 512) (gi : Nat) : List Nat :=
  let ps := presentDies s
  let aff := field512 r 0x1D 1
  if ps.isEmpty then []
  else if aff == 0xF || !ps.contains aff then [ps.getD (gi % ps.length) 0]
  else ((List.range 8).map fun k => (aff + k) % 8).filter ps.contains

/-- Scratchpad units pass to a group: present, and zeros where a group of another context held them last (R237). -/
def takeUnits (s : State) (vc ctx base n : Nat) : State :=
  (List.range n).foldl (fun s i =>
    let u := base + i
    let lo := u * 16384
    modStore s vc fun st =>
      let same := (st.owner.find? fun o => o.1 == u).map (·.2) == some ctx
      let inside : Nat → Bool := fun l => decide (u * 256 ≤ l) && decide (l < u * 256 + 256)
      let gone : Host.Cell → Bool := fun c => decide (lo ≤ c.1) && decide (c.1 < lo + 16384)
      { st with
        spad := if same then st.spad else st.spad.filter fun c => !gone c
        badLines := if same then st.badLines else st.badLines.filter fun l => !inside l
        absent := st.absent.filter fun a => !inside a.1
        owner := (st.owner.filter fun o => o.1 != u) ++ [(u, ctx)] }) s

/-- Operand slots pass to a group: empty, and zeros where a group of another context held them last (R292). -/
def takeSlots (s : State) (vc ctx : Nat) (l : List Nat) : State :=
  l.foldl (fun s p => modStore s vc fun st =>
    let same := st.slotCtx.getD p 0 == ctx
    { st with
      slots := modAt (fun x => if same then { x with st := .empty, tag := 0 } else OpSlot.reset) st.slots p
      slotCtx := setAt st.slotCtx p ctx }) s

/-- A thread as its group is accepted (R129). -/
def newThread (uid : Nat) (g : Grid) (gi vc frame tid : Nat) : Thread :=
  { uid := uid, ctx := g.ctx, grid := g.id, gidx := gi, vc := vc, frame := frame, resident := true, tid := tid, detached := false, depth := 0
    ptr := ⟨g.onum, g.kidx, 0⟩, slots := List.replicate 64 Slot.empty, xs := List.replicate 8 Slot.empty, st := .starting, seq := 0
    inst := none, wait := none, kept := none, parkAt := 0, ackLost := [], ackRec := none, lvsBad := [], parkLarge := false
    owesYield := false, bitAt := none, statusAt := [] }

/-- A barrier at its start. -/
def Bar.fresh : Bar := ⟨0, [], 0, false, 0⟩

/-- GROUP_ACCEPT (R128 to R130): a core takes a group, and its resources are written once. -/
def acceptGroup (s : State) (g : Grid) (gi vd vc : Nat) : State :=
  let n := recThreads g.raw
  let base := (freeUnits? s vc (recSpadu g.raw)).getD 0
  let opsl := freeSlots s vc (recOpsl g.raw)
  let frames := (freeFramesOf s vc).take n
  let gr : Group :=
    { ctx := g.ctx, grid := g.id, gidx := gi, vd := vd, at_ := .core vc, st := .starting, startAt := coreNow s vc + 16 + ceilDiv n 64
      spadBase := base, spadUnits := recSpadu g.raw, opsl := opsl, bars := List.replicate 4 Bar.fresh, gw := Bar.fresh
      gwSig := 0, gwThr := 0, gwScope := 0, colls := [], zsk := false, tfCode := 0, tfCount := 0, wantIn := false, saved := none }
  let ts := (frames.zip (List.range n)).map fun p => newThread (s.nextId + p.2) g gi vc p.1 p.2
  let s1 := takeSlots (takeUnits s vc g.ctx base (recSpadu g.raw)) vc g.ctx opsl
  { s1 with nextId := s.nextId + n, groups := s1.groups ++ [gr], threads := s1.threads ++ ts }

/-- A grid still has groups to hand out (R116, R124, R379). -/
def handsOut (s : State) (g : Grid) : Bool :=
  decide (g.nextG < gridGroups g) && !g.ended && phaseOf s g.ctx == 0 && !(g.spec.any (·.failed))

/-- A grid's next group and the virtual die and core that accept it. -/
def acceptor? (s : State) (g : Grid) : Option (Grid × Nat × Nat) :=
  (diesFor s g.raw g.nextG).findSome? fun vd =>
    (coreFor? s vd g.id (recThreads g.raw) (recSpadu g.raw) (recOpsl g.raw)).map fun vc => (g, vd, vc)

/-- The group that goes out next: highest PRIO first, then the earliest released (R116), among the groups that one die takes in a cycle too (R130).
[DESIGN CHOICE, log entry 81] -/
def nextGroup? (s : State) : Option (Grid × Nat × Nat) :=
  (List.range 4).findSome? fun k => (s.grids.filter fun g => recPrio g.raw == 3 - k && handsOut s g).findSome? (acceptor? s)

/-! Dugouts: the way back (R247) -/

/-- A physical slot list of a restored group holds its saved slots (R385). -/
def putSlotsBack (s : State) (vc ctx : Nat) (l : List (Nat × OpSlot)) : State :=
  l.foldl (fun s p => modStore s vc fun st => { st with slots := setAt st.slots p.1 p.2, slotCtx := setAt st.slotCtx p.1 ctx }) s

/-- The accumulators and partial tiles that a saved group holds are free on a core, and no other group's command is bound to them (R321). -/
def tilesFree (s : State) (vc grid gidx : Nat) (sv : Saved) : Bool :=
  (sv.accs.all fun a => (accTile s vc a.1).holder.isNone && !opsMeet s vc grid gidx (1, a.1)) &&
  sv.pts.all fun a => (ptTile s vc a.1).holder.isNone && !opsMeet s vc grid gidx (2, a.1)

/-- No ring of the group would be a second one of its pair on the core (R288). -/
def ringsFree (s : State) (vc : Nat) (sv : Saved) : Bool := sv.rings.all fun r => (ring? s vc r.grid r.v).isNone

/-- The core that takes a dugout group back (R128, R247). -/
def returnCore? (s : State) (gr : Group) (sv : Saved) : Option Nat :=
  leastBy (fun vc => (residents s vc).length * 128 + vc) (((List.range 16).map fun i => 16 * gr.vd + i).filter fun vc =>
    coreFits s vc gr.grid (threadsOf s gr.grid gr.gidx).length gr.spadUnits gr.opsl.length && tilesFree s vc gr.grid gr.gidx sv && ringsFree s vc sv)

/-- A dugout frame returns to the pool. -/
def freeDugout (s : State) (k : Nat) : State := { s with hub := { s.hub with dugouts := s.hub.dugouts.filter fun d => d.1 != k } }

/-- A thread takes a new frame on a core; the sys.tid of a spawned one follows its frame (R163, R201). -/
def moveFrame (t : Thread) (vc frame : Nat) : Thread :=
  { t with vc := vc, frame := frame, resident := true, tid := if t.tid < 0x10000 then t.tid else 0x10000 + frame }

/-- DUGOUT_RESTORE (R247): the group comes back to a core of its virtual die, in new frames, with its scratchpad, slots, tiles, ops, copies
and rings as saved. A thread whose bit stood in a waiting vector has it set again. The core's L1 lines of the context go, and the die shows what the hub
has placed: either may be older than what the group has read or acquired (R255, R324, R356). -/
def restoreTo (s : State) (gr : Group) (sv : Saved) (vc : Nat) : State :=
  let base := (freeUnits? s vc gr.spadUnits).getD 0
  let opsl := freeSlots s vc gr.opsl.length
  let ts := threadsOf s gr.grid gr.gidx
  let place := (ts.map (·.uid)).zip (freeFramesOf s vc)
  let s1 := putSlotsBack (takeUnits s vc gr.ctx base gr.spadUnits) vc gr.ctx (opsl.zip sv.slots)
  let s2 := modStore s1 vc fun st =>
    let lo := base * 16384
    let low := st.spad.filter fun c => decide (c.1 < lo)
    let high := st.spad.filter fun c => decide (lo + gr.spadUnits * 16384 ≤ c.1)
    { st with
      spad := low ++ sv.spad.map (fun c => (c.1 + lo, c.2)) ++ high
      absent := st.absent ++ sv.absent.map fun a => (a.1 + base * 256, a.2)
      badLines := st.badLines ++ sv.badLines.map (· + base * 256)
      accs := sv.accs.foldl (fun l a => setAt l a.1 a.2) st.accs
      pts := sv.pts.foldl (fun l a => setAt l a.1 a.2) st.pts }
  let s3 := modCore s2 vc fun c => { c with
    ops := c.ops ++ sv.ops.map fun o => { o with vc := vc }
    copies := c.copies ++ sv.copies.map fun x => { x with vc := vc, cleared := x.cleared.map (· + base * 256) }
    rings := c.rings ++ sv.rings }
  let move : Thread → Thread := fun t => match place.find? fun p => p.1 == t.uid with
    | some p => moveFrame t vc p.2
    | none => t
  let s4 := modGroup { s3 with threads := s3.threads.map move } gr.grid gr.gidx fun g => { g with
    at_ := .core vc, spadBase := base, opsl := opsl, wantIn := false, saved := none }
  let s5 := match gr.at_ with
    | .dugout k _ => freeDugout s4 k
    | .core _ => s4
  ts.foldl (fun s t => if t.st == .waiting || t.st == .unassigned then setWaiting s t.uid else s) (acquireOn s5 vc gr.ctx 4)

/-- A dugout group that is wanted back and finds a core. -/
def nextReturn? (s : State) : Option (Group × Saved × Nat) :=
  s.groups.findSome? fun gr => match gr.at_, gr.saved with
    | .dugout .., some sv => if gr.wantIn && decide (phaseOf s gr.ctx == 0) then (returnCore? s gr sv).map fun vc => (gr, sv, vc) else none
    | _, _ => none

/-- GROUP_HANDOUT (R116): up to eight groups in a hub cycle; groups that return from a dugout go first (R247). -/
def execGroupHandout (s : State) : Out :=
  if s.hub.handCycle == hubNow s && 8 ≤ s.hub.handCount then .next s
  else
    let n := if s.hub.handCycle == hubNow s then s.hub.handCount + 1 else 1
    let count : State → State := fun s => { s with hub := { s.hub with handCycle := hubNow s, handCount := n } }
    match nextReturn? s with
    | some (gr, sv, vc) => .next (count (restoreTo s gr sv vc))
    | none => match nextGroup? s with
      | some (g, vd, vc) => .next (count (modGrid (acceptGroup s g g.nextG vd vc) g.id fun g => { g with nextG := g.nextG + 1 }))
      | none => .next s

/-- A group by its place in the list of groups. -/
def groupNo? (s : State) (n : Nat) : Option Group := s.groups[n]?

/-- GROUP_START (R129): the cycles after acceptance have passed, and every thread enters the vector of segment 0; the group has the acquire of its
launch's release: every write that the hub has placed is visible on the die (R105, R325). -/
def execGroupStart (g : Nat) (s : State) : Out :=
  match groupNo? s g with
  | none => .next s
  | some gr => match gr.at_ with
    | .core vc =>
      if gr.st != .starting || coreNow s vc < gr.startAt then .next s
      else
        let s1 := modGroup (invalidateL1 (flushDie s (dieOf s vc)) vc gr.ctx) gr.grid gr.gidx fun x => { x with st := .running }
        .next ((threadsOf s1 gr.grid gr.gidx).foldl (fun s t => if t.st == .starting then setWaiting s t.uid else s) s1)
    | .dugout .. => .next s

/-! Retirement (R117, R389, R390) -/

/-- Everything the grid's groups committed is performed at .s, acknowledged and taken by peers, or resolved after the loss of its acknowledgement (R331,
R390); for one group with `gi`. -/
def quiet (s : State) (grid : Nat) (gi : Option Nat) : Bool :=
  s.effects.all fun e => e.grid != grid || (match gi with
    | some n => e.gidx != n
    | none => false) || (performedAt s 4 e && ackDone e) || e.lost

/-- Every write that a die showed while a group of the grid ran there is placed: its threads may have read it (R325). -/
def seenPlaced (s : State) (g : Grid) : Bool := g.seen.all fun k => sendsNext s k.1 k.2

/-- A group of the grid is squashed and its share not yet zero-filled (R127). -/
def squashesLeft (s : State) (grid : Nat) : Bool := s.groups.any fun x => x.grid == grid && x.st == .squashing

/-- Every group of the grid is settled (R117). -/
def gridSettled (s : State) (g : Grid) : Bool :=
  (match g.spec with
   | some sp => sp.truth.isSome || sp.failed
   | none => true) && (decide (gridGroups g ≤ g.nextG) || g.spec.any (·.failed)) && !s.groups.any (fun x => x.grid == g.id)

/-- The completion signal of a grid. -/
def gridCsig (g : Grid) : Option Nat := sigField (field512 g.raw 0x1E 2)

/-- The grid stops counting toward the active grids (R117, R390). -/
def gridEnds (s : State) (g : Grid) : Bool :=
  gridSettled s g && (g.spec.any (·.failed) || (gridCsig g).isNone || (recCmode g.raw && g.owed.isEmpty && quiet s g.id none && seenPlaced s g))

/-- Grids that stop counting leave; one that owes its single decrement stays until it is made (R117, R390). -/
def closeGrids (s : State) : State :=
  let owe : Grid → Grid := fun g => if gridSettled s g && !recCmode g.raw && (gridCsig g).isSome && !g.spec.any (·.failed) then { g with owedAll := true } else g
  { s with grids := (s.grids.filter fun g => !gridEnds s g).map owe }

/-- A group's accumulators, partial tiles and rings return to the core, and what it has left in the queue of copies ends: commands of a squashed group
that have not started and write no global memory (R125, R311, R314). [DEDUCED, log entry 45] -/
def releaseUnits (s : State) (vc grid gi : Nat) : State :=
  let free : Tile → Tile := fun t => if t.holder == some (grid, gi) then { t with holder := none } else t
  let s1 := modStore s vc fun st => { st with accs := st.accs.map free, pts := st.pts.map free }
  modCore s1 vc fun c => { c with
    rings := c.rings.filter fun r => !(r.grid == grid && r.gidx == gi)
    ops := c.ops.filter fun o => !(o.grid == grid && o.gidx == gi)
    copies := c.copies.filter fun x => !(x.grid == grid && x.gidx == gi) }

/-- An effect is of the group. -/
def ofGroup (gr : Group) (e : Effect) : Bool := e.grid == gr.grid && e.gidx == gr.gidx

/-- No command of the group is left to run: none on its core, or none saved with it in its dugout (R389). -/
def commandsDone (s : State) (gr : Group) : Bool :=
  match gr.at_ with
  | .core vc => !(core s vc).ops.any (fun o => o.grid == gr.grid && o.gidx == gr.gidx && o.st == .pending) &&
      !(core s vc).copies.any (fun c => c.grid == gr.grid && c.gidx == gr.gidx)
  | .dugout .. => gr.saved.all fun sv => sv.ops.isEmpty && sv.copies.isEmpty

/-- Every thread of the group has exited and awaits neither a status nor an acknowledgement (R333, R389). An acknowledgement that is still on its way
holds the group too: its loss would (R450). -/
def threadsOver (s : State) (gr : Group) : Bool :=
  (threadsOf s gr.grid gr.gidx).all fun t => t.st == .exited && !frameBusy s t && !ackOwed s t

/-- The group may retire, on its core or in its dugout: its threads are over, no command and no scratchpad write of it is left (R260, R389).
[DESIGN CHOICE, log entry 24] -/
def groupDone (s : State) (gr : Group) : Bool :=
  gr.st == .running && threadsOver s gr && commandsDone s gr && !s.effects.any fun e => ofGroup gr e && scratchOwed e

/-- The scratchpad writes that a group has committed reach the banks before its units are given up (R260, R275). -/
def flushScratch (s : State) (gr : Group) : State :=
  s.effects.foldl (fun s e => if ofGroup gr e && scratchOwed e then modEffect (actAtBank s e) e.id fun x => { x with landed := true } else s) s

/-- What a group's lost acknowledgements held back proceeds: nobody is left to settle them (R333). -/
def forgetLost (s : State) (gr : Group) : State :=
  { s with effects := s.effects.map fun e => if ofGroup gr e && e.lost then { e with acked := true, accepted := true, landed := true } else e }

/-- The group's resources return (R389). -/
def freeGroup (s : State) (gr : Group) : State :=
  let s0 := forgetLost (flushScratch s gr) gr
  let s1 := match gr.at_ with
    | .core vc => settleOps (releaseUnits s0 vc gr.grid gr.gidx) vc
    | .dugout k _ => freeDugout s0 k
  { s1 with
    threads := s1.threads.filter fun t => !(t.grid == gr.grid && t.gidx == gr.gidx)
    groups := s1.groups.filter fun x => !(x.grid == gr.grid && x.gidx == gr.gidx) }

/-- The core of a group, or that which it left for its dugout. -/
def groupCore (gr : Group) : Nat :=
  match gr.at_ with
  | .core vc => vc
  | .dugout _ vc => vc

/-- The grid notes how far the die of an ended group had sent (R325). -/
def noteSeen (s : State) (gr : Group) (g : Grid) : Grid :=
  let d := dieOf s (groupCore gr)
  { g with seen := (d, (die s d).sendN) :: g.seen.filter fun k => k.1 != d }

/-- A group retires (R117, R389). -/
def retireGroup (s : State) (gr : Group) : State :=
  let owes : Grid → Bool := fun g => recCmode g.raw && (gridCsig g).isSome
  closeGrids (modGrid (freeGroup s gr) gr.grid fun g =>
    { noteSeen s gr g with nRet := g.nRet + 1, owed := if owes g then g.owed ++ [gr.gidx] else g.owed })

/-- A provisional group whose threads have all exited: its frames, scratchpad and slots are released, and it waits for the shape point (R125). Its
rings and tiles stay until it retires or is squashed (R311, R314). -/
def provisionalDone (s : State) (gr : Group) : State :=
  modGroup { s with threads := s.threads.filter fun t => !(t.grid == gr.grid && t.gidx == gr.gidx) } gr.grid gr.gidx fun x =>
    { x with st := .provDone, spadUnits := 0, opsl := [] }

/-- GROUP_RETIRE (R125, R389). -/
def execGroupRetire (g : Nat) (s : State) : Out :=
  match groupNo? s g with
  | none => .next s
  | some gr => match groupDone s gr, grid? s gr.grid with
    | true, some gd => .next (if provisional gd then provisionalDone s gr else retireGroup s gr)
    | _, _ => .next s

/-- The virtual address of a signal's word. -/
def signalVa (s : State) (ctx n : Nat) : Nat :=
  match ctx? s ctx with
  | some c => match (hubReadVa s c (c.regs.sigtBase.toNat + 8 * n) 8 ⟨true, false, none, false⟩).2 with
    | some bs => natLE bs / 8 * 8
    | none => 0
  | none => 0

/-- The hub subtracts 1 from a completion signal (R104, R451); the entry of the word's page takes D (R230). -/
def decrementSignal (s : State) (ctx n : Nat) : State :=
  match watchSignal s ctx n with
  | (s1, some pa) =>
    let s2 := match ctx? s1 ctx with
      | some c => (hubTranslate s1 c (signalVa s1 ctx n) sigNeed true).1
      | none => s1
    let mt := ((ctx? s2 ctx).map fun c => hubMt s2 c (signalVa s2 ctx n)).getD 0
    hubPut s2 mt pa (bytesLE 8 (wordAt s2 pa - 1).toNat)
  | (s1, none) => s1

/-- COMPLETION_DECREMENT (R117, R127, R390) for a grid: its own, or that of the first of its retired groups whose effects are all performed, once no
squashed group of the grid awaits its zero-fill; not after a cut (R381). -/
def execCompletionDecrement (k : Nat) (s : State) : Out :=
  match grid? s k with
  | none => .next s
  | some g => match gridCsig g with
    | none => .next s
    | some n =>
      if 7 ≤ phaseOf s g.ctx || squashesLeft s k || !seenPlaced s g then .next s
      else if !recCmode g.raw then
        if g.owedAll && quiet s g.id none then
          .next (hubAct s fun s => decrementSignal { s with grids := s.grids.filter fun x => x.id != k } g.ctx n)
        else .next s
      else match g.owed.find? fun gi => quiet s g.id (some gi) with
        | some gi => .next (hubAct s fun s => closeGrids (decrementSignal (modGrid s k fun x => { x with owed := x.owed.erase gi }) g.ctx n))
        | none => .next (closeGrids s)

/-! Speculative shapes (R118 to R127) -/

/-- A TABLE fault (R366, R451). -/
def tableFault (s : State) (ctx addr data : Nat) : State := postEvent s (plainRec ctx 2 16 0 addr (BitVec.ofNat 32 data))

/-- The predictor entry of a launch site (R122). -/
def predVa (c : Ctx) (raw : BitVec 512) : Nat := c.regs.predBase.toNat + 16 * (field512 raw 0x12 2 % 256)

/-- The prediction P from an entry (R122). -/
def predict (raw : BitVec 512) (e : Nat) : Nat :=
  let maxb := field512 raw 0x0C 4
  let minb := field512 raw 0x3E 2
  let mode := if bits e 0 8 ≤ 2 && bits e 8 8 == 0 then bits e 0 8 else 0
  let v : Int := match mode with
    | 0 => (bits e 32 32 : Int)
    | 1 => (bits e 64 32 : Int) + toSigned 32 (bits e 96 32)
    | _ => (maxb : Int)
  (min (max v (minb : Int)) (maxb : Int)).toNat

/-- The predictor's update at the shape point (R123); `exact` also counts an exact prediction. While its page migrates it waits (R451). -/
def updatePredictor (s : State) (c : Ctx) (raw : BitVec 512) (t : Nat) (counts exact : Bool) : State :=
  match hubTranslate (setStalls s []) c (predVa c raw) ⟨true, true, none, false⟩ true with
  | (s1, none) =>
    if stalled s1 then
      requestPages { s with hub := { s.hub with latePreds := s.hub.latePreds ++ [⟨c.num, raw, t, counts, exact⟩] } } s1.hub.stalls
    else tableFault (setStalls s1 s.hub.stalls) c.num (predVa c raw) 1
  | (s1, some pa) =>
    let e := natLE (hubRead s1 pa 16)
    let n := bits e 16 16
    let n1 := if counts && exact then min (n + 1) 65535 else n
    let mt := hubMt s1 c (predVa c raw)
    hubPut (hubTouch (setStalls s1 s.hub.stalls) mt pa 16) mt (pa + 2) (bytesLE 2 n1 ++ bytesLE 4 (bits e 32 32) ++ bytesLE 4 (min t 0xFFFFFFFF))

/-- The true count that a shape value names (R118, R119). -/
def trueCount (raw : BitVec 512) (w : Nat) : Nat := ceilDiv (w % 2 ^ 63) (field512 raw 0x3C 2)

/-- Groups lose everything they have not committed (R125): admissions stop, instances and held instances are discarded. [DEDUCED, log entry 45] -/
def squashGroup (s : State) (gr : Group) : State :=
  let dead : Thread → Bool := fun t => t.grid == gr.grid && t.gidx == gr.gidx
  let ts := s.threads.filter dead
  let s1 := ts.foldl (fun s t => abortInst s t.uid) s
  let clear : Thread → Thread := fun t => { clearFrame t with st := .exited }
  let s2 := { s1 with threads := modWhere dead clear s1.threads }
  let s3 := modGroup s2 gr.grid gr.gidx fun x => { x with
    st := .squashing, bars := List.replicate 4 Bar.fresh, gw := Bar.fresh, colls := [], wantIn := false }
  match gr.at_ with
  | .core vc => settleEntries s3 vc
  | .dugout .. => s3

/-- Every group of the grid at or above a count moves to squashing, and the groups below that were provisional-done retire (R124, R125). -/
def settleShape (s : State) (gid count : Nat) : State :=
  let s1 := s.groups.foldl (fun s gr => if gr.grid == gid && decide (count ≤ gr.gidx) && gr.st != .squashing then squashGroup s gr else s) s
  s1.groups.foldl (fun s gr => if gr.grid == gid && gr.st == .provDone then retireGroup s gr else s) s1

/-- A shape-source fault (R126, R366): every group is squashed, and the grid ends without retiring. -/
def shapeFault (s : State) (g : Grid) (cause data : Nat) : State :=
  let site := field512 g.raw 0x12 2 % 256
  let q := if g.queue == 64 then 0xFF else g.queue
  let d := BitVec.ofNat 32 (site * 2 ^ 24 + q * 2 ^ 16 + g.recNo % 2 ^ 16)
  let s1 := modGrid s g.id fun x => { x with spec := x.spec.map fun sp => { sp with failed := true } }
  closeGrids (settleShape (postEvent s1 (plainRec g.ctx 9 cause d 0 (BitVec.ofNat 32 data))) g.id 0)

/-- The shape point (R119, R124, R126). -/
def shapePoint (s : State) (g : Grid) (w : BitVec 64) : State :=
  match ctx? s g.ctx, g.spec with
  | some c, some sp =>
    let t := trueCount g.raw w.toNat
    if field512 g.raw 0x0C 4 < t then shapeFault s g 1 t
    else
      let s1 := modGrid (updatePredictor s c g.raw t true (t == sp.pred)) g.id fun x => { x with spec := some { sp with truth := some t } }
      let s2 := (s1.threads.filter fun x => x.grid == g.id).foldl (fun s x => wantConf s x.uid) s1
      closeGrids (settleShape s2 g.id t)
  | _, _ => s

/-- The shape-source count of a speculative launch (R373, R384). -/
def shapeCount (s : State) (ctx : Nat) (sp : Spec) : Nat := sp.carried + (watchNow s ctx - sp.since)

/-- SHAPE_SOURCE_TIMEOUT (R126, R373). -/
def execShapeSourceTimeout (gid : Nat) (s : State) : Out :=
  match grid? s gid with
  | none => .next s
  | some g => match g.spec with
    | some sp =>
      if sp.truth.isNone && !sp.failed && decide (phaseOf s g.ctx == 0) && decide (wdLimit s g.ctx ≤ shapeCount s g.ctx sp) then .next (shapeFault s g 2 0)
      else .next s
    | none => .next s

/-- The share of a group: start and length (R120). -/
def shareOf (sp : Spec) (gi : Nat) : Option (Nat × Nat) :=
  match sp.ralt with
  | none => none
  | some d =>
    let base := bits d.toNat 0 64
    let size := bits d.toNat 64 32
    if 2 ^ 55 ≤ base || base % 256 != 0 || size == 0 || size % 256 != 0 || bits d.toNat 96 32 ≤ gi then none else some (base + gi * size, size)

/-- Zeros over a range of a context's memory, page by page; whether every byte could be written (R127, R451). [DESIGN CHOICE, log entry 38] -/
def zeroRange (c : Ctx) (cid : Nat) : Nat → State → Nat → Nat → State × Bool
  | 0, s, _, _ => (s, true)
  | k + 1, s, va, n =>
    if n == 0 then (s, true)
    else
      let m := min n (65536 - va % 65536)
      let (s1, pa) := hubTranslate s c va ⟨false, true, some cid, false⟩ true
      let s2 := match pa with
        | some a => hubPut s1 (hubMt s1 c va) a (List.replicate m 0)
        | none => s1
      let (s3, ok) := zeroRange c cid k s2 (va + m) (n - m)
      (s3, ok && pa.isSome)

/-- The zero-fill of a squashed group's share (R125, R127). -/
def zeroShare (s : State) (g : Grid) (gi : Nat) : State :=
  match ctx? s g.ctx, g.spec.bind fun sp => shareOf sp gi with
  | some c, some (base, size) =>
    let (s1, ok) := zeroRange c (recCid g.raw) (size / 65536 + 2) s base size
    if ok then s1 else tableFault s1 g.ctx base 3
  | _, _ => s

/-- A copy of a squashing group that its zero-fill waits for: one that writes global memory, or that an engine runs (R125). -/
def squashWaits (c : Copy) : Bool :=
  isOut c || (match c.st with
    | .running _ => true
    | _ => false)

/-- Every copy and store that a squashing group committed to global memory has been performed, no engine runs a copy of it, and every op that can fire
has fired (R125, R314). -/
def squashReady (s : State) (gr : Group) : Bool :=
  gr.st == .squashing && decide (phaseOf s gr.ctx < 7) && quiet s gr.grid (some gr.gidx) && (match gr.at_ with
    | .core vc => !(core s vc).copies.any (fun c => c.grid == gr.grid && c.gidx == gr.gidx && squashWaits c) &&
        !(core s vc).ops.any (fun o => o.grid == gr.grid && o.gidx == gr.gidx && opReady s vc o)
    | .dugout .. => true)

/-- SQUASH_ZERO_FILL (R125): the share is zero-filled and the group is squashed, its resources released. -/
def execSquashZeroFill (g : Nat) (s : State) : Out :=
  match groupNo? s g with
  | none => .next s
  | some gr => match squashReady s gr, grid? s gr.grid with
    | true, some gd =>
      .next (hubAct s fun s => closeGrids (modGrid (freeGroup (zeroShare s gd gr.gidx) gr) gr.grid fun x => { x with nSquash := x.nSquash + 1 }))
    | _, _ => .next s

/-! Release (R105, R111, R115, R118 to R122) -/

/-- A table of a launch, read with its CID (R111). -/
def readTable (s : State) (c : Ctx) (cid : Nat) (va : Int) (n : Nat) : State × Option (List Byte) :=
  if va < 0 then (s, none) else hubReadVa s c va.toNat n ⟨true, false, some cid, false⟩

/-- Consecutive bytes as words of a width in bytes. -/
def wordsOf (w : Nat) : Nat → List Byte → List Nat
  | 0, _ => []
  | n + 1, bs => natLE (bs.take w) :: wordsOf w n (bs.drop w)

/-- The speculative part of a launch at release (R118, R120, R122); the state after its reads. -/
def specStart (s : State) (c : Ctx) (raw : BitVec 512) : State × Spec × Option (BitVec 64) :=
  let rh := field512 raw 0x12 2 / 256
  let va := c.regs.raltBase.toNat + 16 * rh
  let (s1, ralt) := if rh == 0xFF then (s, none)
    else match hubReadVa s c va 16 ⟨true, false, none, false⟩ with
      | (s1, some bs) => (s1, some (BitVec.ofNat 128 (natLE bs)))
      | (s1, none) => (tableFault s1 c.num va 2, none)
  let (s2, w) := match sigField (field512 raw 0x10 2) with
    | some n => signalValue s1 c.num n
    | none => (s1, none)
  match w.filter fun v => v.getLsbD 63 with
  | some v => (s2, ⟨0, none, none, ralt, watchNow s c.num, 0, false⟩, some v)
  | none =>
    let (s3, e) := match hubReadVa s2 c (predVa c raw) 16 ⟨true, true, none, false⟩ with
      | (s3, some bs) => (s3, natLE bs)
      | (s3, none) => (tableFault s3 c.num (predVa c raw) 1, 0)
    (s3, ⟨predict raw e, none, none, ralt, watchNow s c.num, 0, false⟩, none)

/-- A launch whose shape is known at release (R118): it updates LAST only, and takes the bound fault when its count is too large. -/
def knownShape (s : State) (c : Ctx) (gid : Nat) (w : BitVec 64) : State :=
  match grid? s gid with
  | none => s
  | some g =>
    let t := trueCount g.raw w.toNat
    if field512 g.raw 0x0C 4 < t then shapeFault s g 1 t
    else
      let s1 := updatePredictor s c g.raw t false false
      closeGrids (modGrid s1 gid fun x => { x with spec := x.spec.map fun sp => { sp with pred := t, truth := some t } })

/-- A head is released: its tables are read and fixed, HEAD moves on, and its grid is active (R111, R115). -/
def releaseHead (s : State) (c : Ctx) (h : QHead) (raw : BitVec 512) : State :=
  let f := field512 raw
  let utab : Int := (f 0x20 8 : Int)
  let cid := recCid raw
  let nk := if recKsel raw then 128 else 64
  let (s1, u) := readTable s c cid utab (4 * nk)
  let (s2, b) := readTable s1 c cid (utab + 16 * toSigned 32 (f 0x28 4)) 256
  let (s3, l) := readTable s2 c cid (utab + 16 * toSigned 32 (f 0x2C 4)) 64
  match u, b, l with
  | some u, some b, some l =>
    let onum := ((c.objs.find? fun o => o.addr == f 0 8).map (·.onum)).getD 0
    let (s4, sp, known) := if recSpec raw then let (x, y, z) := specStart s3 c raw; (x, some y, z) else (s3, none, none)
    let (id, s5) := fresh s4
    let g : Grid :=
      { id := id, ctx := c.num, raw := raw, unif := (wordsOf 4 nk u).map (BitVec.ofNat 32), bufs := (wordsOf 16 16 b).map (BitVec.ofNat 128)
        dptrs := (wordsOf 8 8 l).map (BitVec.ofNat 64), onum := onum, kidx := f 8 2, queue := h.q, recNo := h.recNo, nextG := 0, spec := sp
        nRet := 0, nSquash := 0, owed := [], owedAll := false, ended := false, seen := [] }
    let s6 := passHead { s5 with
      grids := s5.grids ++ [g], hub := { s5.hub with lastRelease := hubNow s + 8, rrCtx := c.num, rrQueue := h.q } } c h
    match known with
    | some w => knownShape s6 c id w
    | none => closeGrids s6
  | _, _, _ => refuseRecord s3 c h 13

/-- Where a queue stands in the round-robin order after the last release (R115). -/
def rrDistance (s : State) (ctx q : Nat) : Nat :=
  let m := 65 * 65536
  (ctx * 65 + q + m - (s.hub.rrCtx * 65 + s.hub.rrQueue) + m - 1) % m

/-- The eligible heads. -/
def eligibleHeads (s : State) : List (Ctx × QHead × BitVec 512) :=
  s.ctxs.flatMap fun c => if c.regs.phase != 0 then [] else c.heads.filterMap fun h => match h.raw with
    | some r => if h.eligible then some (c, h, r) else none
    | none => none

/-- The first head, by PRIO and then round robin, none of whose tables' pages migrates is released; the others' pages are requested (R115, R451). -/
def releaseFirst : Nat → List (Ctx × QHead × BitVec 512) → State → State
  | 0, _, s => s
  | k + 1, l, s =>
    match leastBy (fun x => (3 - recPrio x.2.2) * (65 * 65536) + rrDistance s x.1.num x.2.1.q) l with
    | none => s
    | some (c, h, r) =>
      let s1 := releaseHead (setStalls s []) c h r
      if stalled s1 then releaseFirst k (l.filter fun x => x.1.num != c.num || x.2.1.q != h.q) (requestPages (setStalls s []) s1.hub.stalls) else s1

/-- LAUNCH_RELEASE (R115): at most one in 8 hub cycles and 1,024 active grids; the highest PRIO, then round robin. -/
def execLaunchRelease (s : State) : Out :=
  if hubNow s < s.hub.lastRelease || 1024 ≤ s.grids.length then .next s
  else .next (releaseFirst (eligibleHeads s).length (eligibleHeads s) s)

/-! Signals observed (R103) -/

/-- The descriptor is looked at for an observed tail (R108): a queue that it has overrun, or whose descriptor cannot be read, is disabled; where the
descriptor's page migrates, the look is owed (R451). -/
def checkTail (s : State) (c : Ctx) (h : QHead) (v : BitVec 64) : State :=
  match hubReadVa s c (queueVa c h.q) 32 queueNeed with
  | (s1, some bs) =>
    let d := natLE bs
    if bit (bits d 72 8) 0 && decide (bits d 128 64 + 2 ^ bits d 64 8 < v.toNat) && bits d 64 8 ≤ 16 then disableQueue s1 c h.q h
    else setHead s1 c.num { h with late := false }
  | (s1, none) =>
    if s.hub.stalls.length < s1.hub.stalls.length then setHead s1 c.num { h with late := true } else disableQueue s1 c h.q h

/-- A queue's head tested at an observed write of signal `n`: eligibility, the tail, and a queue held disabled is looked at again (R108, R114). -/
def observeHead (s : State) (c : Ctx) (h : QHead) (n : Nat) (v : BitVec 64) : State :=
  let (s1, h1) := match h.raw with
    | some r =>
      if [field512 r 0x30 2, field512 r 0x32 2].any fun x => sigField x == some n then
        let (s1, ok) := waitsHold s c.num r (some (n, v))
        (s1, { h with eligible := ok })
      else (s, h)
    | none => (s, h)
  if h.tsig != some n then setHead s1 c.num h1
  else if h.off then setHead s1 c.num { h1 with off := false }
  else checkTail s1 c h1 v

/-- An entry fires: EN clears, and its message on VEC is owed (R391). -/
def fireEntry (s : State) (e : Notify) : Notify :=
  let pa := (ctx? s e.ctx.toNat).bind fun c => (c.sigs.find? fun x => x.n == bits e.nsig.toNat 0 12).bind (·.pa)
  { e with nsig := e.nsig &&& 0x7FFF, due := e.due ++ [(e.vec.toNat, pa)] }

/-- A notification entry fires at an observed value (R391). -/
def fireNotify (s : State) (ctx n : Nat) (v : BitVec 64) : State :=
  let hit : Notify → Bool := fun e => e.ctx.toNat == ctx && sigField e.nsig.toNat == some n && decide (v ≤ e.thr)
  { s with ap := { s.ap with notify := modWhere hit (fireEntry s) s.ap.notify } }

/-- A speculative grid sees a value of its shape signal (R119, R381). -/
def observeShape (s : State) (g : Grid) (n : Nat) (v : BitVec 64) : State :=
  match g.spec with
  | some sp =>
    if sp.truth.isSome || sp.failed || !v.getLsbD 63 || sigField (field512 g.raw 0x10 2) != some n then s
    else if 7 ≤ phaseOf s g.ctx then
      if sp.latched.isSome then s else modGrid s g.id fun x => { x with spec := some { sp with latched := some v } }
    else shapePoint s g v
  | none => s

/-- Signal `n` of a context is observed at a value: everything that depends on it is evaluated (R103). -/
def observeSignal (s : State) (ctx n : Nat) (v : BitVec 64) : State :=
  let s1 := fireNotify s ctx n v
  let s2 := s1.grids.foldl (fun s g => if g.ctx == ctx then observeShape s g n v else s) s1
  if 7 ≤ phaseOf s ctx then s2
  else
    let s3 := s2.threads.foldl (fun s t => if t.ctx == ctx then testSigWait s t n v else s) s2
    let s4 := s3.groups.foldl (fun s gr =>
      if gr.ctx == ctx && gr.gwSig == n && decide (v ≤ gr.gwThr) && allArrived s gr.grid gr.gidx gr.gw.arrived then passGwait s gr else s) s3
    match ctx? s4 ctx with
    | some c => c.heads.foldl (fun s h => observeHead s c h n v) s4
    | none => s4

/-- SIGNAL_WRITE_OBSERVED (R103): the oldest written value not yet observed. -/
def execSignalWriteObserved (s : State) : Out :=
  match s.hub.sigWrites with
  | [] => .next s
  | (pa, v) :: rest =>
    let s1 := { s with hub := { s.hub with sigWrites := rest } }
    .next (s1.ctxs.foldl (fun s c => c.sigs.foldl (fun s e => if e.pa == some pa then observeSignal s c.num e.n v else s) s) s1)

/-- The signal entries of a context that satisfy `p` are forgotten; those that were watched are read and watched anew at once, the invalid
ones when they are next used (R102). -/
def rewatch (s : State) (ctx : Nat) (p : SigEnt → Bool) : State :=
  match ctx? s ctx with
  | none => s
  | some c =>
    let again := (c.sigs.filter fun e => p e && e.pa.isSome).map (·.n)
    again.foldl (fun s n => (watchSignal s ctx n).1) (modCtx s ctx fun c => { c with sigs := c.sigs.filter fun e => !p e })

/-- SIGT_N_WRITE (R102): a write that would raise the package's sum above 4,096 is dropped; otherwise the entries are read again. -/
def writeSigtN (s : State) (ctx : Nat) (v : BitVec 32) : State :=
  let others := ((s.ctxs.filter fun c => c.num != ctx).map fun c => c.regs.sigtN.toNat).foldl (· + ·) 0
  if 4096 < others + v.toNat then s
  else rewatch (modCtx s ctx fun c => { c with regs := { c.regs with sigtN := v } }) ctx fun _ => true

/-- SIGT_N_WRITE (R102). -/
def execSigtNWrite (ctx : Nat) (v : BitVec 32) (s : State) : Out := .next (writeSigtN s ctx v)

/-! Tests anew (R114, R355, R356, R451) -/

/-- A queue head is tested against the current values of its signals; a tail whose look is owed is checked (R108, R114, R451). -/
def retestHead (s : State) (c : Ctx) (h : QHead) : State :=
  let (s1, h1) := match h.raw with
    | some r => let (s1, ok) := waitsHold s c.num r none; (s1, { h with eligible := ok })
    | none => (s, h)
  match h.late, h.tsig.map (signalValue s1 c.num) with
  | true, some (s2, some v) => checkTail s2 c h1 v
  | true, some (s2, none) => setHead s2 c.num h1
  | _, _ => setHead s1 c.num h1

/-- Every queue head of a context is tested against the current values of its signals (R114, R386). -/
def retestHeads (s : State) (ctx : Nat) : State :=
  match ctx? s ctx with
  | none => s
  | some c => c.heads.foldl (fun s h => retestHead s c h) s

/-- Every pending `sigwait` and `gwait` of a context is tested against the current values (R355, R356). -/
def retestWaits (s : State) (ctx : Nat) : State :=
  let s1 := s.threads.foldl (fun s t => if t.ctx != ctx then s else match t.wait with
    | some w => testNow s t.uid w.waits
    | none => s) s
  settleGroups s1

/-! Notification of the host (R391) -/

/-- An armed entry is looked at: an index outside the table or an invalid entry clears EN; a value that satisfies it fires at once. -/
def armNotify (s : State) (n : Nat) : State :=
  let e := s.ap.notify.getD n Notify.reset
  let off : State → State := fun s => { s with ap := { s.ap with notify := modAt (fun e => { e with nsig := e.nsig &&& 0x7FFF }) s.ap.notify n } }
  match sigField e.nsig.toNat with
  | none => s
  | some k =>
    match signalValue s e.ctx.toNat k with
    | (s1, none) => if stalled s1 then s1 else off s1
    | (s1, some v) => if v ≤ e.thr then
        { s1 with ap := { s1.ap with notify := modAt (fireEntry s1) s1.ap.notify n } } else s1

/-- NOTIFY_ENTRY_ARM (R391): a write of an entry's first eight bytes; reserved bits hold 0. -/
def execNotifyEntryArm (n : Nat) (w : BitVec 64) (s : State) : Out :=
  if 64 ≤ n then .next s
  else
    let put : Notify → Notify := fun e => { e with
      ctx := w.extractLsb' 0 16, nsig := w.extractLsb' 16 16 &&& 0x8FFF, vec := w.extractLsb' 32 16 &&& 0x3F }
    .next (armNotify { s with ap := { s.ap with notify := modAt put s.ap.notify n } } n)

/-- HOST_NOTIFICATION_MESSAGE (R391): one message for each firing, on the VEC that it fired with, once the write that satisfied the entry is performed
at .s. -/
def execHostNotificationMessage (n : Nat) (s : State) : Out :=
  match (s.ap.notify.getD n Notify.reset).due with
  | [] => .next s
  | (vec, pa) :: _ =>
    let onWay := pa.any fun a => s.dies.any fun d => d.inbox.any fun m => runsTouch m.runs a 8
    if onWay then .next s
    else
      let sent : Notify → Notify := fun e => { e with due := e.due.drop 1 }
      .next { s with
        ap := { s.ap with notify := modAt sent s.ap.notify n }
        hub := { s.hub with msix := s.hub.msix ++ [vec] } }

end Sys2Proof.Machine
end

