-- ==== Sys2Proof/Machine/Registers.lean ====
section
/-! DEFINITION. Writes of the control registers (R25, R26, R102, R359, R360, R379), and the return of threads from a parked state (R132, R246,
R247, R371). -/
namespace Sys2Proof.Machine

/-- A base register holds an address in bits [54:0] (R359). -/
def baseValue (v : BitVec 64) : BitVec 64 := v &&& 0x007FFFFFFFFFFFFF

/-- Reserved bits of POLICY hold 0 (R3, R134). -/
def policyValue (v : BitVec 64) : BitVec 32 := v.setWidth 32 &&& 0x00FFFF03

/-- CTX_CTL after a write: DBG and PSN are written, SUPM stays (R360). -/
def ctlValue (old : BitVec 32) (v : BitVec 64) : BitVec 32 := (old &&& 2) ||| (v.setWidth 32 &&& 5)

/-- QSC.REQ written (R379): a 1 in phase 0 starts the quiesce; the dispatcher then stops at once, which is phase 1. -/
def writeReq (s : State) (ctx : Nat) (r : Bool) : State :=
  modCtx s ctx fun c => { c with regs := { c.regs with req := r, phase := if r && c.regs.phase == 0 then 1 else c.regs.phase } }

/-- A thread that is parked returns to the waiting vector of its segment's entry; where its group sits in a dugout, the group is wanted back, and the
core on which the thread parked may try the segment's configuration again (R101, R132, R247, R371). -/
def returnThread (s : State) (uid : Nat) : State :=
  match thread? s uid with
  | none => s
  | some t =>
    if t.resident then resumeThread s uid
    else
      let s1 := modThread (retrySegment s t) uid fun t => { t with kept := none, st := .waiting }
      modGroup s1 t.grid t.gidx fun g => { g with wantIn := true }

/-- The thread is parked on the migration request of the page that holds an address (R246). -/
def parkedOnPage (ctx page : Nat) (t : Thread) : Bool :=
  t.ctx == ctx && t.st == .parked && (match t.kept with
    | some r => r.kind == 1 && r.cause == 2 && (if t.parkLarge then r.addr / 2 ^ 29 == page / 2 ^ 13 else r.addr / 2 ^ 16 == page)
    | none => false)

/-- A wait for a page's migration is over once FU_DONE names the page (R246, R280). [DEDUCED, log entry 47] -/
def stillWaits (page : Nat) (w : Option (Nat × Bool)) : Option (Nat × Bool) :=
  w.filter fun k => if k.2 then k.1 / 2 ^ 29 != page / 2 ^ 13 else k.1 / 2 ^ 16 != page

/-- Copies of a context that wait for the migration of a page try it again (R280). [DEDUCED, log entry 47] -/
def retryCopies (s : State) (ctx page : Nat) : State :=
  let again : Copy → Copy := fun c => if c.ctx != ctx then c else { c with waits := stillWaits page c.waits, st := match c.st with
    | .reread told => .reread (stillWaits page told)
    | st => st }
  { s with cores := s.cores.map fun k => { k with copies := k.copies.map again } }

/-- Instances of a context forget that the walk of a page failed (R246). -/
def forgetPage (s : State) (ctx page : Nat) : State :=
  let clean : Inst → Inst := fun i => { i with badPages := i.badPages.filter fun p => p.1 != page && !(p.2.data == 1 && p.1 / 8192 == page / 8192) }
  { s with threads := s.threads.map fun t => if t.ctx == ctx then { t with inst := t.inst.map clean } else t }

/-- The hub's accesses that wait for a page go on (R451): waiting predictor updates, the event queue, and whatever waits on signals.
[DEDUCED, log entry 27] -/
def resumeHub (s : State) (ctx page : Nat) : State :=
  let late := s.hub.latePreds.filter fun l => l.ctx == ctx
  let s1 := { s with hub := { s.hub with
    migr := s.hub.migr.filter fun m => !m.covers ctx (page * 65536), latePreds := s.hub.latePreds.filter fun l => l.ctx != ctx } }
  let s2 := modCtx s1 ctx fun c => { c with retryAt := 0 }
  let s3 := late.foldl (fun s l => match ctx? s l.ctx with
    | some c => updatePredictor s c l.raw l.truth l.counts l.exact
    | none => s) s2
  let mine := (List.range 64).filter fun n => (s.ap.notify.getD n Notify.reset).ctx.toNat == ctx
  let s4 := mine.foldl armNotify s3
  if 7 ≤ phaseOf s4 ctx then s4 else retestWaits (retestHeads s4 ctx) ctx

/-- FU_DONE (R246, R359): every thread of the context that is parked on the page resumes, and so do the hub's accesses (R451).
[DEDUCED, log entry 47] -/
def writeFuDone (s : State) (v : BitVec 64) : State :=
  let ctx := bits v.toNat 48 16
  let page := bits v.toNat 0 39
  let us := (s.threads.filter (parkedOnPage ctx page)).map (·.uid)
  let s1 := us.foldl returnThread (forgetPage (retryCopies s ctx page) ctx page)
  if s1.hub.migr.any fun m => m.covers ctx (page * 65536) then resumeHub s1 ctx page else s1

/-- FU_DONE (R246). -/
def execFuDone (v : BitVec 64) (s : State) : Out := .next (writeFuDone s v)

/-- Queues held disabled are looked at again after a write of QTAB_BASE (R108). -/
def openQueues (s : State) (ctx : Nat) : State :=
  let look : QHead → QHead := fun h => { h with off := false }
  modCtx s ctx fun c => { c with heads := c.heads.map look }

/-- A context-scoped register written (R359, R360, R361). -/
def writeCtxReg (s : State) (ctx n : Nat) (v : BitVec 64) : State :=
  let put : (CtxRegs → CtxRegs) → State := fun f => modCtx s ctx fun c => { c with regs := f c.regs }
  match n with
  | 2 => put fun r => { r with ctxCtl := ctlValue r.ctxCtl v }
  | 3 => put fun r => { r with ptBase := baseValue v }
  | 4 => openQueues (put fun r => { r with qtabBase := baseValue v }) ctx
  | 5 => rewatch (put fun r => { r with sigtBase := baseValue v }) ctx fun e => e.pa.isNone
  | 6 => writeSigtN s ctx (v.setWidth 32)
  | 7 => put fun r => { r with predBase := baseValue v }
  | 8 => put fun r => { r with raltBase := baseValue v }
  | 9 => put fun r => { r with chtBase := baseValue v }
  | 10 => put fun r => { r with evqBase := baseValue v }
  | 11 => put fun r => { r with wdLimit := v.setWidth 32 }
  | 12 => put fun r => { r with dgLimit := v.setWidth 32 }
  | 13 => put fun r => { r with barLimit := v.setWidth 32 }
  | 14 => put fun r => { r with policy := policyValue v }
  | 15 => writeFuDone s v
  | 16 => writeReq s ctx (v.getLsbD 31)
  | _ => s

/-- A write of a VCT entry may take effect (R26). -/
def vctMay (s : State) (n p : Nat) : Bool :=
  let e := s.pkg.vct.getD n ⟨false, 0⟩
  let named := (List.range s.pkg.vct.length).any fun k => k != n && (s.pkg.vct.getD k ⟨false, 0⟩).v && (s.pkg.vct.getD k ⟨false, 0⟩).pcore == p
  decide (n < 128) && !vctLocked s n && decide (p ≤ 143) && !s.pkg.fusedOff.contains p && !named && p / 18 == e.pcore / 18

/-- A virtual core goes over to another physical core. What its groups left in its scratchpad and units stays with it, since no program sees a remap
(R8, R27, R237, R292); its caches start empty, and what it keeps of a cycle of the old core's region is over. [DEDUCED, log entry 14] -/
def remapCore (s : State) (n : Nat) : State :=
  modCore s n fun c => { c with
    store := { c.store with before := none }, cycle := CycleLog.reset, tlb := [], l1 := [], bullpen := [], fetches := [], failed := [] }

/-- A VCT entry written (R25, R26): dropped whole where R26 says so. -/
def writeVct (s : State) (n : Nat) (v : BitVec 32) : State :=
  let new : VctEnt := ⟨v.getLsbD 31, bits v.toNat 16 8⟩
  let old := s.pkg.vct.getD n ⟨false, 0⟩
  if !vctMay s n new.pcore || new == old then s
  else
    let s1 := remapCore s n
    { s1 with pkg := { s1.pkg with vct := setAt s1.pkg.vct n new } }

/-- VCT_WRITE (R26). -/
def execVctWrite (n : Nat) (v : BitVec 32) (s : State) : Out := .next (writeVct s n v)

/-- `wrctl`'s write (R359, R361): CSEL, a VCT entry, or a register of the context that CSEL names; nothing where none exists. -/
def writeCtl (s : State) (ctx n : Nat) (v : BitVec 64) : State :=
  match ctx? s ctx with
  | none => s
  | some c =>
    if n == 1 then modCtx s ctx fun c => { c with regs := { c.regs with csel := v.setWidth 32 &&& 0xFFFF } }
    else if 0x80 ≤ n then writeVct s (n - 0x80) (v.setWidth 32)
    else
      let d := c.regs.csel.toNat % 2 ^ 16
      if (ctx? s d).isSome then writeCtxReg s d n v else s

/-! Invalidation (R362) -/

/-- A translation of a page: a large one covers 8,192 of them. -/
def coversPage (ctx page : Nat) (e : TlbEnt) : Bool := e.ctx == ctx && (if e.large then e.page / 8192 == page / 8192 else e.page == page)

/-- Translations that satisfy `p` leave every TLB (R231, R362). -/
def dropTlb (s : State) (p : TlbEnt → Bool) : State :=
  { s with
    cores := s.cores.map fun k => { k with tlb := k.tlb.filter fun e => !p e }
    dies := s.dies.map fun d => { d with tlb := d.tlb.filter fun e => !p e } }

/-- A page holds a signal's table entry, or the word that the entry names (R102). -/
def sigOnPage (s : State) (c : Ctx) (page : Nat) (e : SigEnt) : Bool :=
  let va := c.regs.sigtBase.toNat + 8 * e.n
  va / 2 ^ 16 == page || (match (hubReadVa s c va 8 ⟨true, false, none, false⟩).2 with
    | some bs => natLE bs / 2 ^ 16 == page
    | none => false)

/-- `tlbinv` of a context, with its mode: 0 a page, 1 the context, 2 all (R102, R361, R362). -/
def tlbInvalidate (s : State) (ctx mode va : Nat) : State :=
  let page := va / 2 ^ 16 % 2 ^ 39
  match mode with
  | 0 => match ctx? s ctx with
    | some c => rewatch (forgetPage (dropTlb s (coversPage ctx page)) ctx page) ctx (sigOnPage s c page)
    | none => s
  | 1 => rewatch (dropTlb s fun e => e.ctx == ctx) ctx fun _ => true
  | _ => s.ctxs.foldl (fun s c => rewatch s c.num fun _ => true) (dropTlb s fun _ => true)

/-- `cinv` of a context: the bullpens' configurations, of which placements in use keep their own, or lines of every L1 (R142, R362). -/
def cacheInvalidate (s : State) (ctx mode : Nat) : State :=
  if mode == 0 then { s with cores := s.cores.map fun k => { k with bullpen := k.bullpen.filter fun b => b.conf.ctx != ctx } }
  else { s with cores := s.cores.map fun k => { k with l1 := k.l1.filter fun l => l.ctx != ctx } }

end Sys2Proof.Machine
end

