-- ==== Sys2Proof/Machine/Objects.lean ====
section
/-! DEFINITION. Registration of code objects (R58 to R66, R158, R394): the reading of an object, the checks in their order, and the number
that the object gets. -/
namespace Sys2Proof.Machine

/-- Bytes of a context's memory read page by page, with `need` of every page (R59, R394); the walks set A (R230). -/
def peekBytes (c : Ctx) (need : HubNeed) : Nat → State → Nat → Nat → State × Option (List Byte)
  | 0, s, _, n => (s, if n == 0 then some [] else none)
  | k + 1, s, va, n =>
    if n == 0 then (s, some [])
    else
      let m := min n (65536 - va % 65536)
      match hubTranslate s c va need false with
      | (s1, none) => (s1, none)
      | (s1, some pa) =>
        let r := peekBytes c need k (hubReads s1 pa m) (va + m) (n - m)
        (r.1, r.2.map fun b => hubRead s1 pa m ++ b)

/-- The same for a whole range; a page that migrates makes the read fail, and no request is posted for it. [DEDUCED, log entry 26] -/
def peekRange (s : State) (c : Ctx) (need : HubNeed) (va n : Nat) : State × Option (List Byte) :=
  let r := peekBytes c need (n / 65536 + 2) s va n
  (setStalls r.1 s.hub.stalls, r.2)

/-- The little-endian field of `n` bytes at offset `o`. -/
def fieldAt (bs : List Byte) (o n : Nat) : Nat := natLE ((bs.drop o).take n)

/-- A relocation's entry (R66): field offset and whether it is legal by itself. -/
structure Reloc where
  off : Nat
  type : Nat
  reserved : Nat

/-- The relocation table of an object. -/
def relocs (bs : List Byte) : List Reloc :=
  (List.range (fieldAt bs 0x34 4)).map fun i =>
    let e := (bs.drop (fieldAt bs 0x30 4 + 16 * i)).take 16
    ⟨fieldAt e 0 4, fieldAt e 4 1, fieldAt e 5 1⟩

/-- The kernel table (R60). -/
def kernelsOf (bs : List Byte) : List Kernel :=
  (List.range (fieldAt bs 0x14 2)).map fun i =>
    let e := (bs.drop (fieldAt bs 0x18 4 + 32 * i)).take 32
    ⟨fieldAt e 0 2, fieldAt e 2 2, fieldAt e 0x0F 1⟩

/-- The segment table (R61). -/
def segsOf (bs : List Byte) : List SegEnt :=
  (List.range (fieldAt bs 0x16 2)).map fun i =>
    let e := (bs.drop (fieldAt bs 0x1C 4 + 16 * i)).take 16
    ⟨fieldAt e 0 4, fieldAt e 4 4, fieldAt e 8 4⟩

/-- Kernel and index within it of a segment-table entry (R61). -/
def segOwner (bs : List Byte) (i : Nat) : Nat × Nat :=
  let e := (bs.drop (fieldAt bs 0x1C 4 + 16 * i)).take 16
  (fieldAt e 0x0C 2, fieldAt e 0x0E 2)

/-- Check 3 of R59: reserved fields and ranges of the header. -/
def headerRanges (bs : List Byte) : Bool :=
  let h := fieldAt bs
  bits (h 6 2) 0 2 != 0 && h 6 2 / 4 == 0 && h 9 1 == 0 && h 0x0A 2 / 4096 == 0 && h 0x0E 2 == 0 && h 0x70 16 == 0 &&
  h 0x10 4 != 0 && h 0x10 4 % 16 == 0 && decide (1 ≤ h 0x14 2) && decide (h 0x14 2 ≤ 1024) && decide (1 ≤ h 0x16 2) && decide (h 0x2C 4 ≤ 65535)

/-- Every table lies inside SIZE (R58, R59). -/
def tablesInside (bs : List Byte) : Bool :=
  let h := fieldAt bs
  let size := h 0x10 4
  [h 0x18 4 + 32 * h 0x14 2, h 0x1C 4 + 16 * h 0x16 2, h 0x20 4 + h 0x24 4, h 0x28 4 + 16 * h 0x2C 4, h 0x30 4 + 16 * h 0x34 4,
   h 0x38 4 + h 0x3C 4].all fun e => decide (e ≤ size)

/-- The kernel table's entries, and the segments that each owns (R59). -/
def kernelsOk (bs : List Byte) : Bool :=
  let ks := kernelsOf bs
  let nseg := fieldAt bs 0x16 2
  let one : Nat → Bool := fun k =>
    let e := (bs.drop (fieldAt bs 0x18 4 + 32 * k)).take 32
    let first := fieldAt e 0 2
    let count := fieldAt e 2 2
    decide (1 ≤ count) && decide (count ≤ 4096) && decide (first + count ≤ nseg) && decide (fieldAt e 0x0F 1 < 2) && fieldAt e 0x14 12 == 0 &&
    (List.range count).all fun j => segOwner bs (first + j) == (k, j)
  let owners : Nat → Nat := fun i => (ks.filter fun k => decide (k.first ≤ i) && decide (i < k.first + k.count)).length
  (List.range ks.length).all one && (List.range nseg).all fun i => owners i == 1

/-- Bytes that a Diros segment covers: its header and N words (R61, R62). -/
def dirosBytes (bs : List Byte) (e : SegEnt) : Nat := 16 + 4 * (bits (fieldAt bs e.hdr 4) 17 7 + 1)

/-- A segment-table entry's forms (R59). -/
def segOk (bs : List Byte) (e : SegEnt) : Bool :=
  let size := fieldAt bs 0x10 4
  let noHdr := e.hdr == 0xFFFFFFFF
  let noPal := e.pal == 0xFFFFFFFF
  (noHdr || (e.hdr % 16 == 0 && decide (e.hdr + 16 ≤ size) && decide (e.hdr + dirosBytes bs e ≤ size))) && !(noHdr && noPal) &&
  (noPal || decide (e.pal + e.palsz ≤ size))

/-- A linkage descriptor (R59, R65). -/
def linkOk (bs : List Byte) (i : Nat) : Bool :=
  let e := (bs.drop (fieldAt bs 0x28 4 + 16 * i)).take 16
  let entry := fieldAt e 4 4
  let k := fieldAt e 8 2
  entry % 8 == 0 && decide (entry + 8 ≤ fieldAt bs 0x24 4) && fieldAt e 0x0C 4 == 0 &&
  (match (kernelsOf bs)[k]? with
   | some kn => decide (fieldAt e 0x0A 2 < kn.count)
   | none => false)

/-- Two ranges share a byte. -/
def rangesMeet (a n b m : Nat) : Bool := decide (a < b + m) && decide (b < a + n)

/-- The relocations (R66): legal types, fields inside SIZE, outside segments, the HASH field and each other. IDX and ADD serve the loader that applied
them and are not checked. [DEDUCED, log entry 31] -/
def relocsOk (bs : List Byte) : Bool :=
  let rs := relocs bs
  let segs := (segsOf bs).filter fun e => e.hdr != 0xFFFFFFFF
  (rs.all fun r => decide (r.type ≤ 4) && r.reserved == 0 && decide (r.off + 8 ≤ fieldAt bs 0x10 4) && !rangesMeet r.off 8 0x40 48 &&
    segs.all fun e => !rangesMeet r.off 8 e.hdr (dirosBytes bs e)) &&
  (List.range rs.length).all fun i => (List.range i).all fun j => match rs[i]?, rs[j]? with
    | some a, some b => !rangesMeet a.off 8 b.off 8
    | _, _ => true

/-- Check 7 of R59. -/
def tablesOk (bs : List Byte) : Bool :=
  tablesInside bs && kernelsOk bs && (segsOf bs).all (segOk bs) && (List.range (fieldAt bs 0x2C 4)).all (linkOk bs) && relocsOk bs

/-- Bytes at an offset replaced. -/
def putBytes (bs : List Byte) (o : Nat) (x : List Byte) : List Byte := bs.take o ++ x ++ bs.drop (o + x.length)

/-- The object as its hash is computed (R66): the HASH field and every field named by a relocation of TYPE 1 to 4 read as zero. -/
def hashedBytes (bs : List Byte) : List Byte :=
  ((relocs bs).filter fun r => r.type != 0).foldl (fun b r => putBytes b r.off (List.replicate 8 0)) (putBytes bs 0x40 (List.replicate 48 0))

/-- The first check of R59 that an object's bytes fail, 1 to 8. -/
def objectCheck (bs : List Byte) (fuse : Nat) : Option Nat :=
  let h := fieldAt bs
  if h 0 4 != 0x4F43594C then some 1
  else if h 4 2 != 1 then some 2
  else if !headerRanges bs then some 3
  else if h 8 1 != 1 then some 4
  else if 64 < h 0x0C 2 then some 5
  else if h 0x0C 2 < fuse then some 6
  else if !tablesOk bs then some 7
  else if sha384 (hashedBytes bs) != BitVec.ofNat 384 (h 0x40 48) then some 8
  else none

/-- An object read and checked at an address (R394): 12 when it cannot be read, else the first check that fails. [DEDUCED, log entry 31] -/
def readObject (s : State) (c : Ctx) (va : Nat) : State × Except Nat Obj :=
  match peekRange s c ⟨true, false, none, false⟩ va 128 with
  | (s1, none) => (s1, .error 12)
  | (s1, some h) =>
    let need : HubNeed := ⟨true, false, some (bits (fieldAt h 0x0A 2) 0 12), false⟩
    match peekRange s1 c need va (max 128 (fieldAt h 0x10 4)) with
    | (s2, none) => (s2, .error 12)
    | (s2, some all_) =>
      let bs := all_.take (fieldAt h 0x10 4) ++ if fieldAt h 0x10 4 < 128 then h.drop (fieldAt h 0x10 4) else []
      (s2, match objectCheck bs s.pkg.fuse with
        | some k => .error k
        | none => .ok ⟨0, va, fieldAt h 0x10 4, bits (fieldAt h 0x0A 2) 0 12, fieldAt h 0x0C 2, BitVec.ofNat 384 (fieldAt h 0x40 48), kernelsOf bs, segsOf bs⟩)

/-- OBJCMD's fields after a command (R394). [DEDUCED, log entry 31] -/
def objResult (s : State) (ctx onum check act : Nat) : State :=
  { s with ap := { s.ap with objcmd := BitVec.ofNat 16 ctx ++ BitVec.ofNat 16 (onum % 1024) ++ BitVec.ofNat 8 check ++ BitVec.ofNat 24 act } }

/-- A registration (R59, R158, R394) of the object at OBJADDR in a context. [DEDUCED, log entry 31] -/
def registerObject (s : State) (ctx : Nat) : State :=
  match ctx? s ctx with
  | none => objResult s ctx 0 10 1
  | some c => match readObject s c s.ap.objaddr.toNat with
    | (s1, .error k) => objResult s1 ctx 0 k 1
    | (s1, .ok o) => match firstBelow (fun n => !c.objs.any (fun x => x.onum == n)) 1024 with
      | none => objResult s1 ctx 0 9 1
      | some n => objResult (modCtx s1 ctx fun c => { c with objs := c.objs ++ [{ o with onum := n }] }) ctx n 0 1

/-- OBJ_REGISTER (R394). -/
def execObjRegister (ctx : Nat) (s : State) : Out := .next (registerObject s ctx)

/-- A grid runs an object: its launch named it, or a thread of it has moved there (R158). -/
def runsObject (s : State) (ctx onum : Nat) (g : Grid) : Bool :=
  g.ctx == ctx && (g.onum == onum || s.threads.any fun t => t.grid == g.id && t.ptr.onum == onum)

/-- An object leaves a context (R394): no launch, link word or address finds it, and its number is free. What core tables recorded of its failures goes,
and the grids that run it keep its layout until they need a configuration anew (R179). [DEDUCED, log entry 31] -/
def dropObject (s : State) (ctx onum : Nat) : State :=
  let users := (s.grids.filter (runsObject s ctx onum)).map (·.id)
  let s1 := modCtx s ctx fun c => { c with
    objs := c.objs.filter fun o => o.onum != onum
    gone := c.gone.filter (fun o => o.grids.any fun g => (grid? s g).isSome) ++
      (c.objs.filter fun o => o.onum == onum).map fun o => ⟨o, users.filter fun g => (goneObj? c g onum).isNone⟩ }
  { s1 with cores := s1.cores.map fun k => { k with failed := k.failed.filter fun f => !(f.ctx == ctx && f.ptr.onum == onum) } }

/-- An unregistration (R394): the object is gone at once. -/
def unregisterObject (s : State) (ctx onum : Nat) : State :=
  match ctx? s ctx with
  | none => objResult s ctx onum 10 2
  | some c =>
    if (obj? c onum).isNone then objResult s ctx onum 11 2
    else objResult (dropObject s ctx onum) ctx onum 0 2

/-- OBJ_UNREGISTER (R394). -/
def execObjUnregister (ctx onum : Nat) (s : State) : Out := .next (unregisterObject s ctx onum)

end Sys2Proof.Machine
end

