-- ==== Sys2Proof/Machine/Check.lean ====
section
/-! DEFINITION. The configuration checks of R98 and R99: header, words, ports, the segment as a whole, and what is checked again for each grid
(R141). A failure is a code and the index it reports. -/
namespace Sys2Proof.Machine

/-- A failed check: code and IDX (R99). -/
abbrev Failure := Nat × Nat

/-- The first of a list of tests that fails. -/
def firstFail (l : List (Bool × Nat)) : Option Nat := (l.find? (·.1)).map (·.2)

/-- A privileged word (R93). -/
def isPrivileged (i : Instr) : Bool :=
  match i with
  | .rdctl _ | .wrctl _ | .tlbinv _ | .cinv _ | .evpost _ | .ctxsv _ | .ctxld _ => true
  | _ => false

/-- A successor word (R157). -/
def isSuccessor (i : Instr) : Bool :=
  match i with
  | .next _ | .nextp _ | .nextpu _ | .nexti _ | .call _ | .calli _ | .ret _ | .exit _ => true
  | _ => false

/-- A collective (R352). -/
def isCollective (i : Instr) : Bool :=
  match i with
  | .gred _ | .gscan _ | .vote _ => true
  | _ => false

/-- The word carries an ordinal (R92). -/
def carriesOrdinal (i : Option Instr) : Bool := ((i.bind shape).map (·.ordinal)).getD false

/-- Ordinal-carrying words before index `i`. -/
def ordinalAt (ws : List (Option Instr)) (i : Nat) : Nat := ((ws.take i).filter carriesOrdinal).length

/-- The format M fields of a word of format M that takes an element index (R250, R252). -/
def hoffTarget (i : Instr) : Bool :=
  match i with
  | .ld _ | .st _ | .lds _ | .sts _ | .ldsn _ | .ldc _ | .pf _ | .ldacq _ | .strel _ | .cwb _ | .zfill _ => true
  | _ => false

/-- The ORD field of a word of format M or T. -/
def ordField (i : Instr) : Option Nat :=
  match i with
  | .ld f | .st f | .lds f | .sts f | .ldsn f | .ldc f | .pf f | .ldacq f | .strel f | .cwb f | .zfill f | .pld f | .pst f => some f.ord.toNat
  | .aadd f | .amin f | .amax f | .aand f | .aor f | .axor f | .axchg f | .acas f | .afadd f | .sigsub f | .sigwait f | .mbox f => some f.ord.toNat
  | _ => none

/-- A format T or format E word, `spawn` or `launch`: H0.CTO (R62). -/
def isCto (i : Instr) : Bool :=
  match i with
  | .spawn _ | .launch _ => true
  | .aadd _ | .amin _ | .amax _ | .aand _ | .aor _ | .axor _ | .axchg _ | .acas _ | .afadd _ | .sigsub _ | .sigwait _ | .mbox _ => true
  | .tcopy _ | .tstore _ | .tcopyo _ | .tcopyr _ | .tcast _ | .sfree _ | .spres _ | .tgath _ | .tscat _ => true
  | .tclaim _ | .trel _ | .mma _ | .mmi _ | .mmg _ | .tsacc _ | .tzero _ | .tacst _ | .tacld _ | .tfence _ | .tmode _ => true
  | _ => false

/-- The segment index of `calli` (R156). -/
def calliSeg (f : FmtS) : Nat := f.ctl.toNat * 16 + f.mod.toNat % 16

/-- Segment indexes that a word names (R156). -/
def segNames (i : Instr) : List Nat :=
  match i with
  | .next f => [f.sa.toNat]
  | .nextp f | .nextpu f | .call f => [f.sa.toNat, f.sb.toNat]
  | .calli f => [calliSeg f]
  | .spawn f => [f.sa.toNat]
  | _ => []

/-- The slots a result of a format T word fills (R271, R345). -/
def resultSlots (f : FmtT) (wide : Bool) : List Nat :=
  if !f.mod.getLsbD 5 then [] else if wide then [f.slot.toNat, f.slot.toNat + 1] else [f.slot.toNat]

/-- The live-value slots that a word names (check 0x0C of R99; R156, R198, R199, R271, R300, R345). -/
def namedSlots (ws : List (Option Instr)) (i : Nat) : List Nat :=
  match ws.getD i none with
  | none => []
  | some w => match w with
    | .rd f => if outWidthAt ws i == 64 then [f.slot.toNat, f.slot.toNat + 1] else [f.slot.toNat]
    | .wr f => if producerWidth ws i == 64 then [f.slot.toNat, f.slot.toNat + 1] else [f.slot.toNat]
    | .aadd f | .amin f | .amax f | .aand f | .aor f | .axor f | .axchg f | .acas f => resultSlots f (atomicWidth f false == 64)
    | .afadd f => resultSlots f (atomicWidth f true == 64)
    | .sigsub f | .sigwait f => resultSlots f true
    | .tcopy f | .tstore f | .tcopyo f | .tcopyr f | .tcast f | .spres f | .tgath f | .tscat f | .tacst f | .tacld f | .tfence f => [f.slot.toNat]
    | .ctxsv f | .ctxld f => [f.mod.toNat % 64]
    | .call _ | .calli _ => [63]
    | _ => []

/-- The check value of a header and its words (R63). -/
def hdrCheck (hdr words : List (BitVec 32)) : Nat :=
  let h3 := hdr.getD 3 0 &&& 0xFFF00000
  let vs := hdr.take 3 ++ [h3] ++ words
  let c := vs.foldl (fun (c : BitVec 20) v => c.rotateLeft 3 ^^^ (v.extractLsb' 0 20 ^^^ (v.extractLsb' 20 12).zeroExtend 20)) 0
  (c ^^^ 0x5A5A5).toNat

/-- The header checks that need no grid, codes 1 to 4 (R62, R99). -/
def headerCheck (cid : Nat) (hdr words : List (BitVec 32)) : Option Nat :=
  let h0 := (hdr.getD 0 0).toNat
  let h3 := (hdr.getD 3 0).toNat
  firstFail [(bits h0 24 8 != 0xD5, 1), (bits h0 5 3 != 0 || decide (3 < bits h0 8 3) || decide (32 < bits h0 11 6), 2),
    (bits h3 20 12 != cid, 3), (bits h3 0 20 != hdrCheck hdr words, 4)]

/-- Port b comes through S of a register pair whose number is odd (R84). -/
def badPair (ws : List (Option Instr)) (i : Nat) (sh : Shape) (ksel : Bool) : Bool :=
  match sh.sel with
  | some (s, ty) => (himmAt ws i).isNone && oddPair s ty ksel
  | none => false

/-- A word that stands at most once in a segment stands there before index `i` (R345). -/
def secondOf (ws : List (Option Instr)) (i : Nat) (w : Instr) : Bool :=
  let isBar : Option Instr → Bool := fun x => match x with
    | some (.bar _) => true
    | _ => false
  let isGwait : Option Instr → Bool := fun x => match x with
    | some (.gwait _) => true
    | _ => false
  match w with
  | .bar _ => (ws.take i).any isBar
  | .gwait _ => (ws.take i).any isGwait
  | _ => false

/-- A 64-bit `rd` or `wr` of an odd slot (R198, R199). -/
def oddSlot (ws : List (Option Instr)) (i : Nat) (w : Instr) : Bool :=
  match w with
  | .rd f => outWidthAt ws i == 64 && f.slot.toNat % 2 == 1
  | .wr f => producerWidth ws i == 64 && f.slot.toNat % 2 == 1
  | _ => false

/-- All non-zero targets of a word, those of an `htgt` too, whether or not they are legal (R176). -/
def rawTargets (ws : List (Option Instr)) (i : Nat) (sh : Shape) : List Nat :=
  if sh.out.isSome then (sh.targets ++ htgtAt ws i).filter (· != 0) else []

/-- A target that its consumer does not consume, or of another width (check 0x0B; R78, R181, R198, R199, R352). -/
def badPort (ws : List (Option Instr)) (i : Nat) (w : Instr) (t : Nat) : Bool :=
  let isWr := match ws.getD (t / 4) none with
    | some (.wr _) => true
    | _ => false
  match portWidth? ws (t / 4) (t % 4) with
  | none => true
  | some pw =>
    let ow := outWidthAt ws i
    (if pw == 0 then decide (64 < ow) else pw != ow) || (isCollective w && !(isWr && t % 4 == 0))

/-- A hint placed against R86, R87, R176, R177 and R178. -/
def badHint (ws : List (Option Instr)) (i : Nat) (w : Instr) : Bool :=
  let nxt := ws.getD (i + 1) none
  match w with
  | .himm _ => match nxt with
    | some x => isHint x || ((shape x).bind (·.sel)).isNone
    | none => true
  | .hoff _ => match nxt with
    | some x => !hoffTarget x
    | none => true
  | .htgt _ => i == 0 || (match ws.getD (i - 1) none with
    | some x => isHint x || isCollective x || ((shape x).bind (·.out)).isNone
    | none => true)
  | .hsch _ => (ws.take i).any fun x => match x with
    | some (.hsch _) => true
    | _ => false
  | _ => false

/-- An `rd` of a slot outside the live-in masks (check 0x0C). -/
def badLivein (ws : List (Option Instr)) (i : Nat) (w : Instr) (mask : Nat) : Bool :=
  match w with
  | .rd _ => (namedSlots ws i).any fun n => !bit mask n
  | _ => false

/-- The live-in mask of a header (R62). -/
def liveins (hdr : List (BitVec 32)) : Nat := (hdr.getD 1 0).toNat + 2 ^ 32 * (hdr.getD 2 0).toNat

/-- The checks of one word, in ascending code (R98, R99). -/
def wordCheck (hdr : List (BitVec 32)) (nseg : Nat) (ws : List (Option Instr)) (i : Nat) (raw : BitVec 32) : Option Nat :=
  match decode raw with
  | .error e => some (decodeCode e)
  | .ok w => match shape w with
    | none => some 6
    | some sh =>
      let ts := rawTargets ws i sh
      firstFail [
        (isPrivileged w && !bit (hdr.getD 0 0).toNat 3, 8),
        (!w.wellFormed || badPair ws i sh false || secondOf ws i w || oddSlot ws i w, 9),
        (ts.any fun t => decide (t / 4 ≤ i) || decide (ws.length ≤ t / 4), 0x0A),
        (ts.any (badPort ws i w), 0x0B),
        (badLivein ws i w (liveins hdr), 0x0C),
        ((segNames w).any fun n => decide (nseg ≤ n), 0x0D),
        (badHint ws i w, 0x0E),
        ((ordField w).any fun o => o != ordinalAt ws i, 0x0F)]

/-- Targets of the segment that name a port. -/
def namings (ws : List (Option Instr)) (j p : Nat) : Nat :=
  ((List.range ws.length).flatMap fun i => (targetsAt ws i).filter fun t => t == (j, p)).length

/-- The port checks of one consumer (R80, R99). [DESIGN CHOICE, log entry 81] -/
def portCheck (ws : List (Option Instr)) (j : Nat) : Option Nat :=
  match (ws.getD j none).bind shape with
  | none => none
  | some sh => firstFail [
      ((List.range 4).any fun p => decide (2 ≤ namings ws j p), 0x10),
      ((needs ws j sh).any (fun p => namings ws j p == 0) || (selectsB ws j sh && namings ws j 1 != 0), 0x11)]

/-- The element kind of a fabric column, 0 to 39 (R13). -/
def columnKind (c : Nat) : Element :=
  if c == 0 || c == 39 then .be else if c == 19 || c == 20 then .sfe else if c % 3 == 2 then (if c < 20 then .me else .ce)
  else if c % 3 == 1 && decide (20 < c) then .me else .ce

/-- The columns of memory elements (R13). -/
def meColumns : List Nat := (List.range 40).filter fun c => columnKind c == .me

/-- The scratchpad bank of the memory element in a column and a row (R13). -/
def bankAt (col row : Nat) : Nat := 32 * meColumns.idxOf col + row

/-- The elements of a kind in one fabric region: four rows (R13, R144). -/
def regionSites (e : Element) : Nat := 4 * ((List.range 40).filter fun c => columnKind c == e).length

/-- How many words take an element. -/
def elements (ws : List (Option Instr)) (e : Element) : Nat :=
  (ws.filter fun w => ((w.bind shape).map (·.elem)).any (· == e)).length

/-- Hidden stage slots that a thread needs (R146). -/
def hiddenSlots (ws : List (Option Instr)) (stages : List Nat) : Nat :=
  ((List.range ws.length).map fun i =>
    if (targetsAt ws i).any (fun t => decide (stages.getD i 0 < stages.getD t.1 0)) then outWidthAt ws i / 32 else 0).foldl (· + ·) 0

/-- The region check (R144, R146): a boundary element has four operation places. -/
def regionFails (ws : List (Option Instr)) (stages : List Nat) : Bool :=
  decide (regionSites .ce < elements ws .ce + 2 * elements ws .cePair) || decide (regionSites .me < elements ws .me) ||
  decide (regionSites .sfe < elements ws .sfe) || decide (4 * regionSites .be < elements ws .be) || stages.any (fun n => decide (4 ≤ n)) || decide (16 < hiddenSlots ws stages)

/-- The segment-wide checks (R99). -/
def wideCheck (hdr : List (BitVec 32)) (ws : List (Option Instr)) : Option Nat :=
  let h0 := (hdr.getD 0 0).toNat
  let is : (Instr → Bool) → Bool := fun p => ws.any fun w => w.any p
  let bars := is fun w => match w with
    | .bar _ => true
    | _ => false
  firstFail [
    ((ws.filter carriesOrdinal).length != bits h0 11 6, 0x12),
    ((ws.filter fun w => w.any isSuccessor).length != 1, 0x13),
    (bars != bit h0 0 || is isCto != bit h0 1, 0x14),
    (regionFails ws (stagesFrom ws ws.length 0 []), 0x15)]

/-- The checks that a fetched segment passes before it enters the bullpen (R98, R140): first failure and its index. -/
def configCheck (cid nseg : Nat) (hdr words : List (BitVec 32)) : Option Failure :=
  let ws := decodeAll words
  match headerCheck cid hdr words with
  | some c => some (c, 0xFF)
  | none =>
    match (List.range words.length).findSome? fun i => (wordCheck hdr nseg ws i (words.getD i 0)).map fun c => (c, i) with
    | some f => some f
    | none => match (List.range words.length).findSome? fun j => (portCheck ws j).map fun c => (c, j) with
      | some f => some f
      | none => (wideCheck hdr ws).map fun c => (c, 0xFE)

/-- The checks that depend on the grid (R141): supervisor mode, odd pairs reached through KSEL, slots at or above NSLOT. -/
def gridCheck (supm ksel : Bool) (nslot : Nat) (hdr words : List (BitVec 32)) : Option Failure :=
  let ws := decodeAll words
  if bit (hdr.getD 0 0).toNat 3 && !supm then some (5, 0xFF)
  else (List.range words.length).findSome? fun i =>
    let odd := match (ws.getD i none).bind shape with
      | some sh => badPair ws i sh ksel
      | none => false
    if odd then some (9, i)
    else if (namedSlots ws i).any fun n => decide (nslot ≤ n) then some (0x0C, i)
    else none

end Sys2Proof.Machine
end

