-- ==== Sys2Proof/Machine/Palair.lean ====
section
/-! DEFINITION. The Palair form of a segment and its translation into Diros words (R67): registers become targets, `mov` and `htgt` are inserted for
fan-out, ordinals follow program order, and the header is built. -/
namespace Sys2Proof.Machine

/-- A Palair operation (R67); `res` holds the reserved bits of its word 0. -/
structure POp where
  op : Nat
  sel : Nat
  mod : Nat
  pc : Nat
  dst : Nat
  srcs : List Nat
  aux : Nat
  res : Nat

/-- The operation in 16 bytes (R67). -/
def readPOp (b : List Byte) : POp :=
  let v := natLE (b.take 16)
  { op := bits v 24 8, sel := bits v 16 8, mod := bits v 8 8, pc := bits v 6 2, dst := bits v 48 16
    srcs := [bits v 32 16, bits v 80 16, bits v 64 16, bits v 112 16], aux := bits v 96 16, res := bits v 0 6 }

/-- `n` operations. -/
def readPOps : Nat → List Byte → List POp
  | 0, _ => []
  | n + 1, b => readPOp b :: readPOps n (b.drop 16)

/-- The formats of R76. -/
inductive Fmt where
  | a
  | b
  | c
  | l
  | m
  | n
  | e
  | t
  | h
  | s

/-- The format of a primary opcode (R93). -/
def fmtOf (op : Nat) : Fmt :=
  if [0x01, 0x02, 0x03, 0x05, 0x0B].contains op then .n
  else if op < 0x10 then .s
  else if op < 0x18 then .h
  else if op == 0x32 || op == 0x4A then .c
  else if op < 0x80 then .a
  else if op == 0x82 then .b
  else if op < 0x88 then .l
  else if op < 0x90 then .a
  else if op == 0x99 then .s
  else if op < 0xB0 then .m
  else if op < 0xC0 then .t
  else if op < 0xE0 then .e
  else .s

/-- Targets that a word of the format holds itself (R78, R79). -/
def ownTargets (op : Nat) : Nat :=
  match fmtOf op with
  | .b => 2
  | .l => 2
  | .n => 0
  | .e => 0
  | .t => 0
  | .h => 0
  | _ => 1

/-- The selector of `cmp` and `fcmp` stands in SEL where port b is a register; where it is not, SEL is the S field and MOD[6:3] the selector (R67, R90).
[DESIGN CHOICE, log entry 30] -/
def selIsCond (o : POp) : Bool := o.srcs.getD 1 0 != 0

/-- CTL and MOD of a format S word that names a slot, a buffer or a segment, which AUX gives (R67, R172): `ctxsv` and `ctxld` their status slot, `launch`
its buffer, `calli` its segment. -/
def auxS (op aux : Nat) : Option (Nat × Nat) :=
  match op with
  | 0x06 => some (aux / 16, aux % 16)
  | 0x0F => some (aux, 0)
  | 0xE6 | 0xE7 => some (0, aux)
  | _ => none

/-- The Diros word of an operation with its targets and its ordinal (R67, R76, R90). AUX gives the slot, buffer, successor index or system value;
the fields that R67 names no place for are taken from SEL, MOD and AUX. A format A operation whose port b is a register, or that has no port b, holds
0xFF in SEL: the translator copies SEL into S and does not set it. [DESIGN CHOICE, log entry 30] -/
def pWord (o : POp) (t u ord : Nat) : BitVec 32 :=
  let f := match fmtOf o.op with
    | .a => t * 2 ^ 15 + o.sel * 2 ^ 7 + o.pc * 2 ^ 5 + o.mod % 32
    | .b => t * 2 ^ 15 + u * 2 ^ 6 + o.pc * 2 ^ 4 + o.mod % 16
    | .c => if selIsCond o then t * 2 ^ 15 + 0xFF * 2 ^ 7 + o.sel % 16 * 2 ^ 3 + o.mod % 8 else t * 2 ^ 15 + o.sel * 2 ^ 7 + o.mod % 128
    | .l => t * 2 ^ 15 + u * 2 ^ 6 + o.aux % 64
    | .m => t * 2 ^ 15 + o.aux % 16 * 2 ^ 11 + ord % 32 * 2 ^ 6 + o.pc * 2 ^ 4 + o.mod % 16
    | .n => o.aux % 4096 * 2 ^ 12 + (o.sel * 256 + o.mod) % 4096
    | .e =>
      if o.op == 0xC3 then
        o.aux % 64 * 2 ^ 18 + o.aux / 4096 * 2 ^ 12 + o.mod % 64 * 2 ^ 6 + o.sel % 4 * 2 ^ 4 + o.aux / 64 % 16
      else o.aux % 64 * 2 ^ 18 + o.sel % 64 * 2 ^ 12 + o.mod % 64 * 2 ^ 6 + o.aux / 64 % 64
    | .t => o.aux % 64 * 2 ^ 18 + o.aux / 64 % 16 * 2 ^ 14 + ord % 32 * 2 ^ 9 + o.sel % 8 * 2 ^ 6 + o.mod % 64
    | .h => o.sel * 2 ^ 16 + o.aux
    | .s => match auxS o.op o.aux with
      | some (ctl, mod) => ctl % 256 * 2 ^ 16 + t * 2 ^ 7 + mod % 128
      | none => o.sel * 2 ^ 16 + t * 2 ^ 7 + o.mod % 128
  BitVec.ofNat 32 (o.op * 2 ^ 24 + f)

/-- Every bit of an operation has a place in its Diros word, and its reserved bits are 0 (R3, R67). [DESIGN CHOICE, log entry 30] -/
def pFits (o : POp) : Bool :=
  o.res == 0 && (match fmtOf o.op with
    | .a => decide (o.mod < 32) && o.aux == 0
    | .b => decide (o.mod < 16) && o.aux == 0
    | .c => o.pc == 0 && o.aux == 0 && (if selIsCond o then decide (o.sel < 16) && decide (o.mod < 8) else decide (o.mod < 128))
    | .l => o.pc == 0 && o.mod == 0 && decide (o.aux < 64)
    | .m => decide (o.mod < 16) && decide (o.aux < 16)
    | .n => o.pc == 0 && decide (o.aux < 4096) && decide (o.sel < 16)
    | .e => o.pc == 0 && decide (o.mod < 64) && (if o.op == 0xC3 then decide (o.sel < 4) && o.aux / 1024 % 4 == 0 else decide (o.sel < 64) && decide (o.aux < 4096))
    | .t => o.pc == 0 && decide (o.sel < 8) && decide (o.mod < 64) && decide (o.aux < 1024)
    | .h => o.pc == 0 && o.mod == 0
    | .s => o.pc == 0 && (match auxS o.op o.aux with
      | some (ctl, mod) => o.sel == 0 && o.mod == 0 && decide (ctl < 256) && decide (mod < 64)
      | none => decide (o.mod < 128) && o.aux == 0))

/-- The operation at an index keeps R67: its bits fit, its registers are numbered up to the count, and it writes one that no earlier operation
wrote. -/
def pOpOk (ops : List POp) (count k : Nat) : Bool :=
  match ops[k]? with
  | none => true
  | some o =>
    pFits o && decide (o.dst ≤ count) && o.srcs.all (fun r => decide (r ≤ count)) &&
    (o.dst == 0 || !(ops.take k).any fun x => x.dst == o.dst)

/-- A word of the translation before indexes are known: an operation, a `mov`, or an `htgt`, with the uses it sends to: operation and port. A use
of an inserted `mov` names it by 65,536 + its place. -/
structure PItem where
  src : Option Nat
  op : POp
  uses : List (Nat × Nat)

/-- Uses of a register by later operations. -/
def usesOf (ops : List POp) (k r : Nat) : List (Nat × Nat) :=
  if r == 0 then [] else (List.range ops.length).flatMap fun j =>
    if j ≤ k then [] else match ops[j]? with
      | some o => (List.range 4).filterMap fun p => if o.srcs.getD p 0 == r then some (j, p) else none
      | none => []

/-- The inserted `mov`: 64 bits wide where its value is (R200). -/
def movOp (wide : Bool) : POp := ⟨0x82, 0xFF, if wide then 1 else 0, 0, 0, [], 0, 0⟩
/-- The inserted `htgt`. -/
def htgtOp : POp := ⟨0x12, 0, 0, 0, 0, [], 0, 0⟩

/-- An item with its fan-out: up to two targets more through `htgt`, and a chain of `mov` beyond that (R67). `mv` is the number of the next
`mov`. [DESIGN CHOICE, log entry 30] -/
def fanOut : Nat → Nat → Option Nat → POp → Bool → List (Nat × Nat) → List PItem
  | 0, _, src, op, _, us => [⟨src, op, us⟩]
  | k + 1, mv, src, op, wide, us =>
    let n := ownTargets op.op
    if us.length ≤ n then [⟨src, op, us⟩]
    else if us.length ≤ n + 2 then [⟨src, op, us.take n⟩, ⟨none, htgtOp, us.drop n⟩]
    else
      let near := (65536 + mv, 0) :: us.take (n + 1)
      [⟨src, op, near.take n⟩, ⟨none, htgtOp, near.drop n⟩] ++ fanOut k (mv + 1) (some (65536 + mv)) (movOp wide) wide (us.drop (n + 1))

/-- The shape of an operation, as far as its own word says. -/
def pShape (o : POp) : Option Shape := (ofOpcode o.op (pWord o 0 0 0)).bind shape

/-- The token of an operation is 64 bits wide: its own word says so or, for `rd`, a port that takes it is (R198). -/
def wideOut (ops : List POp) (o : POp) (uses : List (Nat × Nat)) : Bool :=
  if o.op == 0x80 then
    uses.any fun u => ((ops[u.1]?).bind pShape).any fun sh => sh.ins.any fun p => p.1 == u.2 && p.2 == 64
  else (pShape o).any fun sh => sh.out == some 64

/-- The items of a segment in order. [DESIGN CHOICE, log entry 30] -/
def palairItems (ops : List POp) : List PItem :=
  ((List.range ops.length).foldl (fun (x : List PItem × Nat) k => match ops[k]? with
    | some o =>
      let more := fanOut 64 x.2 (some k) o (wideOut ops o (usesOf ops k o.dst)) (usesOf ops k o.dst)
      (x.1 ++ more, x.2 + (more.filter fun i => match i.src with
        | some n => decide (65536 ≤ n)
        | none => false).length)
    | none => x) ([], 0)).1

/-- Translated words: uses become targets, ordinals are counted in program order (R67). -/
def palairWords (items : List PItem) : List (BitVec 32) :=
  let at_ : Nat → Nat := fun n => (firstBelow (fun i => (items[i]?.bind (·.src)) == some n) items.length).getD 0
  (items.foldl (fun (x : List (BitVec 32) × Nat) i =>
    let ts := i.uses.map fun u => 4 * at_ u.1 + u.2
    let t := ts.getD 0 0
    let u := ts.getD 1 0
    let w := if i.op.op == 0x12 && i.src.isNone then BitVec.ofNat 32 (0x12 * 2 ^ 24 + t * 2 ^ 15 + u * 2 ^ 6)
      else pWord i.op (if 128 * 4 ≤ t then 511 else t) (if 128 * 4 ≤ u then 511 else u) x.2
    (x.1 ++ [w], if carriesOrdinal (decode w).toOption then x.2 + 1 else x.2)) ([], 0)).1

/-- The header that firmware builds for translated words (R62, R67): WIN = 3, NSO and UEX 0, SUP set where a word is privileged, and the rest as the words
are. [DESIGN CHOICE, log entry 30] -/
def palairHeader (cid : Nat) (lim0 lim1 : BitVec 32) (words : List (BitVec 32)) : List (BitVec 32) :=
  let ws := decodeAll words
  let any : (Instr → Bool) → Bool := fun p => ws.any fun w => w.any p
  let bars := any fun w => match w with
    | .bar _ => true
    | _ => false
  let h0 := 0xD5 * 2 ^ 24 + (words.length - 1) * 2 ^ 17 + (ws.filter carriesOrdinal).length * 2 ^ 11 + 3 * 2 ^ 8 +
    (any isPrivileged).toNat * 8 + (any isCto).toNat * 2 + bars.toNat
  let h := [BitVec.ofNat 32 h0, lim0, lim1, BitVec.ofNat 32 (cid * 2 ^ 20)]
  h.set 3 (BitVec.ofNat 32 (cid * 2 ^ 20 + hdrCheck h words))

/-- The translation of a Palair segment (R67): header and words, or the malformed-segment code and index. R67 gives a Palair form no codes of its own: a
wrong magic, a length and a CID that do not fit fail 0x01, 0x02 and 0x03 as a header does, an operation that breaks R67 fails 0x09 at its place, and
more than 128 words fail 0x15 at index 128. [DESIGN CHOICE, log entry 30] -/
def palairSegment (cid : Nat) (b : List Byte) : Except Failure (List (BitVec 32) × List (BitVec 32)) :=
  let h := (List.range 4).map fun i => BitVec.ofNat 32 (natLE ((b.drop (4 * i)).take 4))
  let h0 := (h.getD 0 0).toNat
  let n := bits h0 12 12 + 1
  if bits h0 24 8 != 0xA5 then .error (1, 0xFF)
  else if b.length < 16 + 16 * n then .error (2, 0xFF)
  else if (h.getD 3 0).toNat != cid * 2 ^ 20 then .error (3, 0xFF)
  else
    let ops := readPOps n (b.drop 16)
    match (List.range n).find? fun k => !pOpOk ops (bits h0 0 12) k with
    | some k => .error (9, min k 0xFF)
    | none =>
    let words := palairWords (palairItems ops)
    if 128 < words.length then .error (0x15, 128)
    else .ok (palairHeader cid (h.getD 1 0) (h.getD 2 0) words, words)

end Sys2Proof.Machine
end

