-- ==== Sys2Proof/Machine/Place.lean ====
section
/-! DEFINITION. Configurations and placements (R98 to R101, R131 to R149): the fetch of a segment into the bullpen, the choice of a segment for
a free slot, drain, admission, and re-entry into later stages. -/
namespace Sys2Proof.Machine

/-! The fetch of a segment (R140, R234) -/

/-- How a read of code memory ends. -/
inductive CodeRead where
  | got (bs : List Byte)
  | wait
  | fault (f : AccFault)
deriving DecidableEq, Repr

/-- The checks of a page for a segment fetch (R227, R234): X, the CID against the CIDF of the launch, and the existence of the address.
[DEDUCED, log entry 42] -/
def codeCheck (e : BitVec 64) (large : Bool) (cidf va : Nat) : CopyPage ⊕ AccFault :=
  if !pteX e then .inr (prot 2 va)
  else if pteCid e != 0 && pteCid e != cidf then .inr (prot 6 va)
  else if !existsPa (leafPa e large va) then .inr (prot 8 va)
  else .inl (.pa (leafPa e large va) (pteMt e))

/-- A code address translated: through the TLBs, or by a walk that fills them (R231). -/
def codeXlat (s : State) (vc ctx cidf va : Nat) : State × (CopyPage ⊕ AccFault) :=
  match tlbLookup s vc ctx va, ctx? s ctx with
  | some e, _ => (s, codeCheck e.pte e.large cidf va)
  | none, none => (s, .inr (transFault 1 va))
  | none, some c =>
    if 2 ^ 55 ≤ va then (s, .inr (prot 4 va))
    else
      let s0 := walkReads s (ptBase c) va
      match walk s (ptBase c) va with
      | .leaf e large at_ =>
        let m := walkBits e []
        let ent : TlbEnt := ⟨ctx, va / 2 ^ 16, large, e ||| m⟩
        let s1 := modCore (orPte s0 at_ e m) vc fun k => { k with tlb := tlbAdd 128 k.tlb ent }
        (modDie s1 (dieOf s vc) fun d => { d with tlb := tlbAdd 8192 d.tlb ent }, codeCheck e large cidf va)
      | .migrate large => (s0, .inr { transFault 2 va with data := if large then 1 else 0 })
      | .unmapped => (s0, .inr (transFault 1 va))
      | .bad => (s0, .inr (transFault 3 va))
      | .phys => (s0, .inr (prot 8 va))

/-- A line of code as the core's L1 or its die shows it (R140). -/
def codeLine (s : State) (vc ctx mt line : Nat) : List Byte :=
  if mt == 0 then
    match l1Find (core s vc) ctx line with
    | some l => l.bytes
    | none => dieRead s (dieOf s vc) (64 * line) 64
  else hubRead s (64 * line) 64

/-- The line of a fetch passes through the die's slice and joins the core's L1, unless the L1 holds it (R140, R242). -/
def touchCode (s : State) (vc ctx mt line : Nat) : State :=
  if mt != 0 || (l1Find (core s vc) ctx line).isSome then s
  else modCore (touchLine s (dieOf s vc) (64 * line)) vc fun c => l1Insert c ⟨ctx, line, dieRead s (dieOf s vc) (64 * line) 64⟩

/-- A line of code that the core does not hold lies at an offline home (R388). -/
def codeAway (s : State) (vc ctx mt line : Nat) : Bool :=
  homeMisses s (dieOf s vc) mt (64 * line) && !(mt == 0 && (l1Find (core s vc) ctx line).isSome)

/-- Code bytes within one page. -/
def codePage (s : State) (vc ctx cidf va n : Nat) : State × CodeRead :=
  match codeXlat s vc ctx cidf va with
  | (s1, .inr f) => (s1, .fault f)
  | (s1, .inl (.pa pa mt)) =>
    let lines := (List.range ((pa + n + 63) / 64 - pa / 64)).map fun i => pa / 64 + i
    if lines.any (codeAway s1 vc ctx mt) then (s1, .fault ⟨6, 0, BitVec.ofNat 32 (vdieOf s1 (homeOf pa)), va, 0⟩)
    else if lines.any s1.hub.badSectors.contains then (s1, .fault ⟨0x0A, 1, 0, va, 0⟩)
    else
      let s2 := lines.foldl (fun s l => touchCode s vc ctx mt l) s1
      (s2, .got (((lines.flatMap (codeLine s1 vc ctx mt)).drop (pa % 64)).take n))
  | (s1, .inl _) => (s1, .wait)

/-- Code bytes page by page, from at most so many pages. -/
def codePages : Nat → State → Nat → Nat → Nat → Nat → Nat → State × CodeRead
  | 0, s, _, _, _, _, _ => (s, .got [])
  | k + 1, s, vc, ctx, cidf, va, n =>
    let n1 := min n (65536 - va % 65536)
    match codePage s vc ctx cidf va n1 with
    | (s1, .got a) =>
      if n1 == n then (s1, .got a)
      else match codePages k s1 vc ctx cidf (va + n1) (n - n1) with
        | (s2, .got b) => (s2, .got (a ++ b))
        | r => r
    | r => r

/-- Code bytes that may reach into further pages. -/
def codeBytes (s : State) (vc ctx cidf va n : Nat) : State × CodeRead := codePages (n / 65536 + 2) s vc ctx cidf va n

/-- Little-endian words of a list of bytes. -/
def codeWords (n : Nat) (bs : List Byte) : List (BitVec 32) := (wordsOf 4 n bs).map (BitVec.ofNat 32)

/-- Threads of a segment that wait on a core, those of one grid where one is named, in ascending frame. -/
def waitersOf (s : State) (vc ctx : Nat) (p : SegPtr) (g : Option Nat) : List Thread :=
  (List.range 2048).filterMap fun f => s.threads.find? fun t =>
    t.resident && t.vc == vc && t.frame == f && t.st == .waiting && t.ctx == ctx && t.ptr == p && (g.isNone || g == some t.grid)

/-- A fetch fails on a page: the waiting threads park whose launch has the CIDF that it was made for (R140, R234). -/
def parkFetch (s : State) (vc : Nat) (k : Fetch) (f : AccFault) : State :=
  ((waitersOf s vc k.ctx k.ptr none).filter fun t => gridCid s t.grid == k.cidf).foldl (fun s t => takeFault s t.uid f) s

/-- The successor fault of a segment whose object is gone (R160, R179). -/
def goneFault (p : SegPtr) : AccFault := ⟨2, 14, codeDetail 4 p.sidx 0xFF, 0, 0⟩

/-- Every waiting thread of a segment on a core whose object has been unregistered parks, those of one grid where one is named (R179). -/
def parkGone (s : State) (vc ctx : Nat) (p : SegPtr) (g : Option Nat) : State :=
  ((waitersOf s vc ctx p g).filter fun t => segGone s t.ctx t.grid t.ptr).foldl (fun s t => takeFault s t.uid (goneFault p)) s

/-- A malformed segment (R100, R101, R367): one record, a copy kept by every thread that waits, and the failure recorded on the core.
[DEDUCED, log entry 43] -/
def malformed (s : State) (vc ctx : Nat) (p : SegPtr) (g : Option Nat) (addr : Nat) (f : Nat × Nat) : State :=
  let ts := waitersOf s vc ctx p g
  let flt : AccFault := ⟨3, 0, codeDetail f.1 p.sidx f.2, addr, 0⟩
  let r := match ts with
    | t :: _ => threadRec t flt true
    | [] => plainRec ctx 3 0 flt.detail addr 0
  let fail : Failed := ⟨ctx, p, g, r, false⟩
  let s1 := modCore s vc fun c => { c with failed := c.failed.filter (fun x => !(x.ctx == ctx && x.ptr == p && x.grid == g)) ++ [fail] }
  let s2 := ts.foldl (fun s t => modThread s t.uid fun t => { t with
    st := .parked, wait := none, kept := some (threadRec t flt true), parkAt := watchNow s t.ctx, parkLarge := false }) s1
  settleEntries (postEvent s2 r) vc

/-- What a fetch brings in: the header and the words of a segment in either form (R61, R67). -/
inductive SegRead where
  | got (hdr words : List (BitVec 32))
  | bad (f : Nat × Nat)
  | wait
  | fault (f : AccFault)

/-- The Diros form of a segment read from memory (R61, R62). -/
def readDiros (s : State) (f : Fetch) (vc addr : Nat) : State × SegRead :=
  match codeBytes s vc f.ctx f.cidf addr 16 with
  | (s1, .wait) => (s1, .wait)
  | (s1, .fault e) => (s1, .fault e)
  | (s1, .got h) =>
    let hdr := codeWords 4 h
    let n := bits (hdr.getD 0 0).toNat 17 7 + 1
    match codeBytes s1 vc f.ctx f.cidf (addr + 16) (4 * n) with
    | (s2, .wait) => (s2, .wait)
    | (s2, .fault e) => (s2, .fault e)
    | (s2, .got b) => (s2, .got hdr (codeWords n b))

/-- The firmware image that runs (R401, R403). -/
def runningFw (s : State) : FwImage := if s.pkg.useB then s.pkg.slotB.image else s.pkg.slotA.image

/-- A signature pair verifies over bytes of this hash (R403). -/
def signed (hash : BitVec 384) (rsa : BitVec 3072) (slh : List Byte) : Bool := Config.rsaVerifies hash rsa && Config.slhVerifies hash slh

/-- The bytes of a translation that its signatures cover: header and words (R403). [DESIGN CHOICE, log entry 70] -/
def translationBytes (hdr words : List (BitVec 32)) : List Byte := (hdr ++ words).flatMap fun w => bytesLE 4 w.toNat

/-- The entry that the running firmware makes for a segment (R68, R403): its key, its words and its signatures, unverified. -/
def translationOf (s : State) (f : Fetch) (hdr words : List (BitVec 32)) : Translation :=
  let fw := runningFw s
  let o := (ctx? s f.ctx).bind fun c => obj? c f.ptr.onum
  let first := (o.bind fun o => (o.kernels[f.ptr.kidx]?).map (·.first)).getD 0
  let b := translationBytes hdr words
  { hash := (o.map (·.hash)).getD 0, seg := first + f.ptr.sidx, version := fw.translator, errata := fw.errata, depends := Config.errataConsulted
    verified := false, hdr := hdr, words := words, rsa := Config.rsaSign b, slh := (List.range 16224).map (Config.slhSignByte b) }

/-- Two entries have one key (R68). -/
def sameKey (a b : Translation) : Bool := a.hash == b.hash && a.seg == b.seg && a.version == b.version && a.errata == b.errata

/-- The cache holds a translation in place of any other of its key (R68, R404). [DESIGN CHOICE, log entry 17; DESIGN CHOICE, log entry 70] -/
def noteTranslation (s : State) (t : Translation) : State :=
  { s with hub := { s.hub with translations := s.hub.translations.filter (fun x => !sameKey t x) ++ [t] } }

/-- A cached translation may be used: its signatures have been checked since the start, or verify now (R404). -/
def translationGood (t : Translation) : Bool := t.verified || signed (sha384 (translationBytes t.hdr t.words)) t.rsa t.slh

/-- The cached translation of a segment under the running firmware's key (R68). -/
def cached? (s : State) (f : Fetch) : Option Translation := s.hub.translations.find? (sameKey (translationOf s f [] []))

/-- The bytes of a Palair form: its header and the operations that it counts, within PALSZ (R61, R67). -/
def palairBytes (s : State) (f : Fetch) (vc addr size : Nat) : State × CodeRead :=
  match codeBytes s vc f.ctx f.cidf addr (min size 16) with
  | (s1, .got h) => codeBytes s1 vc f.ctx f.cidf addr (min size (16 + 16 * (bits (natLE (h.take 4)) 12 12 + 1)))
  | r => r

/-- The Palair form of a segment: its translation from the cache where that verifies, or read, translated and signed (R67, R68, R403, R404). The first
request makes the entry, so that a second one at the same time finds it. -/
def readPalair (s : State) (f : Fetch) (vc addr cid size : Nat) : State × SegRead :=
  match (cached? s f).filter translationGood with
  | some t => (noteTranslation s { t with verified := true }, .got t.hdr t.words)
  | none => match palairBytes s f vc addr size with
    | (s1, .wait) => (s1, .wait)
    | (s1, .fault e) => (s1, .fault e)
    | (s1, .got b) => match palairSegment cid b with
      | .ok (hdr, words) => (noteTranslation s1 (translationOf s f hdr words), .got hdr words)
      | .error e => (s1, .bad e)

/-- A segment's form read from memory: Diros where it has one (R67). -/
def readSegment (s : State) (f : Fetch) (vc : Nat) (e : SegEnt) (addr cid : Nat) : State × SegRead :=
  if e.hdr == 0xFFFFFFFF then readPalair s f vc addr cid e.palsz else readDiros s f vc addr

/-- A placement of the core uses a configuration (R142). -/
def confUsed (c : Core) (b : BullEnt) : Bool :=
  c.places.any fun p => p.conf.ctx == b.conf.ctx && p.conf.addr == b.conf.addr && p.conf.cid == b.conf.cid

/-- A checked configuration enters the bullpen in place of the least recently used that is neither in use nor guarded; none where every one
is (R142). [DEDUCED, log entry 44] -/
def bullpenPut? (c : Core) (b : BullEnt) : Option Core :=
  if c.bullpen.length < 64 then some { c with bullpen := c.bullpen ++ [b] }
  else match leastBy (fun x => x.lastUse) (c.bullpen.filter fun x => !confUsed c x && !x.guarded) with
    | none => none
    | some v => some { c with bullpen := c.bullpen.filter (fun x => x != v) ++ [b] }

/-- The fetch leaves the core's list. -/
def endFetch (s : State) (vc id : Nat) : State := modCore s vc fun c => { c with fetches := c.fetches.filter fun f => f.id != id }

/-- Segments of the kernel that a pointer names. -/
def segCount (c : Ctx) (p : SegPtr) : Nat := ((kernel? c p.onum p.kidx).map (·.count)).getD 0

/-! Entries and their claims (R133, R136 to R138) -/

/-- The group is confirmed, or its grid is not speculative (R121). -/
def confirmed (s : State) (t : Thread) : Bool := ((grid? s t.grid).map fun g => !provisional g).getD true

/-- A waiting thread is admissible to its entry with this configuration (R133). [DEDUCED, log entry 51] -/
def admissible (s : State) (k : Conf) (t : Thread) : Bool :=
  t.st == .waiting && (!bit (k.hdr.getD 0 0).toNat 4 || confirmed s t) &&
  (List.range 64).all fun n => !bit (liveins k.hdr) n || (t.slots.getD n Slot.empty).pres

/-- Waiting entries whose configuration was in the bullpen and has left it: their fetch starts again (R133, R139, R140). [DEDUCED, log entry 44] -/
def refetch (s : State) (vc : Nat) (old : List BullEnt) : State :=
  let gone := old.filter fun b => !(core s vc).bullpen.any fun x => x.conf == b.conf
  gone.foldl (fun s b => (s.threads.filter fun t => t.resident && t.vc == vc && t.ctx == b.conf.ctx &&
    segAddr? s t.ctx t.grid t.ptr == some (b.conf.addr, b.conf.cid) && admissible s b.conf t).foldl (fun s t => wantConf s t.uid) s) s

/-- What a fetch reads (R179, R394): the segment's address, CID and table entry, where its object is still registered there. -/
def fetchable? (c : Ctx) (f : Fetch) : Option (Nat × Nat × SegEnt) :=
  (obj? c f.ptr.onum).bind fun o => match o.segAddr? f.ptr, o.seg? f.ptr with
    | some (addr, cid), some e => if addr == f.addr && cid == f.cid then some (addr, cid, e) else none
    | _, _ => none

/-- A fetch ends: the segment is read and checked, and enters the bullpen, or its threads park (R98, R100, R101, R140, R179). -/
def fillBullpen (s : State) (vc : Nat) (f : Fetch) : State :=
  match ctx? s f.ctx with
  | none => endFetch s vc f.id
  | some c => match fetchable? c f with
    | some (addr, cid, e) =>
      match readSegment s f vc e addr cid with
      | (s1, .wait) => s1
      | (s1, .fault a) => parkFetch (endFetch s1 vc f.id) vc f a
      | (s1, .bad a) => malformed (endFetch s1 vc f.id) vc f.ctx f.ptr none addr a
      | (s1, .got hdr words) =>
        match configCheck cid (segCount c f.ptr) hdr words with
        | some a => malformed (endFetch s1 vc f.id) vc f.ctx f.ptr none addr a
        | none =>
          let k : Conf := ⟨f.ctx, addr, cid, hdr, words⟩
          -- guarded where it was fetched for a waiting entry: one with an admissible thread (R133, R142)
          let b : BullEnt := ⟨k, (waitersOf s1 vc f.ctx f.ptr none).any (admissible s1 k), coreNow s vc, coreNow s vc⟩
          if (bullpen? s1 vc f.ctx addr cid).isSome then endFetch s1 vc f.id
          else match bullpenPut? (core s1 vc) b with
          | none => s1
          | some k =>
            let clean : Failed → Bool := fun x => !(x.ctx == f.ctx && x.ptr == f.ptr && x.grid == none)
            refetch (endFetch (modCore s1 vc fun _ => { k with failed := k.failed.filter clean }) vc f.id) vc (core s1 vc).bullpen
    | none => parkGone (endFetch s vc f.id) vc f.ctx f.ptr none

/-- The core of a fetch. -/
def fetchCore? (s : State) (id : Nat) : Option (Nat × Fetch) :=
  (List.range s.cores.length).findSome? fun vc => ((core s vc).fetches.find? fun f => f.id == id).map fun f => (vc, f)

/-- BULLPEN_FILL (R140): fetch number `k` completes. -/
def execBullpenFill (k : Nat) (s : State) : Out :=
  match fetchCore? s k with
  | some (vc, f) => if (die s (dieOf s vc)).st == .offline then .next s else .next (fillBullpen s vc f)
  | none => .next s

/-- BULLPEN_PROTECTION_EXPIRY (R142): 4,096 cycles after its arrival a configuration may be replaced. -/
def execBullpenProtectionExpiry (vc : Nat) (s : State) : Out :=
  let now := coreNow s vc
  let open_ : BullEnt → BullEnt := fun b => if b.arrived + 4096 ≤ now then { b with guarded := false } else b
  .next (modCore s vc fun c => { c with bullpen := c.bullpen.map open_ })

/-- The configuration of an entry's segment in the core's bullpen. -/
def entryConf? (s : State) (vc : Nat) (e : Entry) : Option Conf :=
  match grid? s e.grid with
  | none => none
  | some g => (segAddr? s g.ctx g.id e.ptr).bind fun a => (bullpen? s vc g.ctx a.1 a.2).map (·.conf)

/-- The entry holds a placement slot. -/
def placedEntry (s : State) (vc : Nat) (e : Entry) : Bool := (core s vc).places.any fun p => p.entry == e.idx

/-- The object of an entry's segment has been unregistered (R179). -/
def entryGone (s : State) (e : Entry) : Bool := ((grid? s e.grid).map fun g => segGone s g.ctx g.id e.ptr).getD true

/-- An entry counts as waiting (R133): an admissible thread, judged by its configuration where the core holds that. -/
def entryWaits (s : State) (vc : Nat) (e : Entry) : Bool :=
  match entryConf? s vc e with
  | some k => (waitingIn s vc e).any (admissible s k)
  | none => false

/-- An entry counts as waiting and can be placed (R133, R136, R137): an admissible thread, no slot, its configuration in the bullpen. -/
def placeable (s : State) (vc : Nat) (e : Entry) : Bool := !placedEntry s vc e && entryWaits s vc e

/-- The claim level of an entry (R138). -/
def claimOf (k : Conf) (e : Entry) : Nat :=
  if e.yielded then 0
  else ((decodeAll k.words).findSome? fun w => match w with
    | some (.hsch f) => some (f.payload.toNat % 4)
    | _ => none).getD 3

/-- POLICY of a context (R134). -/
def policyOf (s : State) (ctx : Nat) : Nat := ((ctx? s ctx).map fun c => c.regs.policy.toNat).getD 0

/-- The context of an entry. -/
def entryCtx (s : State) (e : Entry) : Nat := ((grid? s e.grid).map (·.ctx)).getD 0

/-- The score of most-waiting (R137). -/
def waitScore (s : State) (vc : Nat) (e : Entry) : Nat :=
  match entryConf? s vc e with
  | none => 0
  | some k =>
    let w := ((waitingIn s vc e).filter (admissible s k)).length
    let f := match claimOf k e with
      | 0 => 0
      | 1 => 1
      | _ => 2
    w * f + (dieClock s vc - e.stamp) / 2 ^ bits (policyOf s (entryCtx s e)) 16 4

/-- The entry that a context's placements took last on a core; before any, the lowest index is next (R137). [DESIGN CHOICE, log entry 77] -/
def lastPlaced (c : Core) (ctx : Nat) : Nat := ((c.rrEntry.find? fun k => k.1 == ctx).map (·.2)).getD 255

/-- The entry that a free slot takes (R137): the next context in round-robin order, then by its policy; ties to the lower index. -/
def chooseEntry? (s : State) (vc : Nat) : Option Entry :=
  let c := core s vc
  let es := c.entries.filter (placeable s vc)
  match leastBy (fun n => (n + 65536 - c.rrCtx - 1) % 65536) (es.map (entryCtx s)) with
  | none => none
  | some ctx =>
    let mine := es.filter fun e => entryCtx s e == ctx
    match bits (policyOf s ctx) 0 2 with
    | 1 => leastBy (fun e => (e.idx + 256 - (lastPlaced c ctx + 1)) % 256) mine
    | 2 => greatestBy (fun e => waitScore s vc e * 256 + (255 - e.idx)) mine
    | _ => leastBy (fun e => e.stamp * 256 + e.idx) mine

/-- The context is in supervisor mode (R360). -/
def supervisor (s : State) (ctx : Nat) : Bool := ((ctx? s ctx).map fun c => c.regs.ctxCtl.getLsbD 1).getD false

/-- Segments that `next` and `nextp` name: their fetch starts at placement (R168). -/
def armsOf (ws : List (Option Instr)) : List Nat :=
  ws.flatMap fun w => match w with
    | some (.next f) => [f.sa.toNat]
    | some (.nextp f) => [f.sa.toNat, f.sb.toNat]
    | _ => []

/-- An entry takes a slot: the configuration is completed for its grid (R141), and the fetch of its arms starts (R168). -/
def takeSlot (s : State) (vc slot : Nat) (e : Entry) (g : Grid) (k : Conf) : State :=
  match gridCheck (supervisor s g.ctx) (recKsel g.raw) (recNslot g.raw) k.hdr k.words with
  | some a => malformed s vc g.ctx e.ptr (some g.id) k.addr a
  | none =>
    let stage := stagesOf k.words
    let pl : Placement := ⟨slot, e.idx, g.id, e.ptr, k, .configuring, coreNow s vc, 0, List.replicate 4 0, stage, []⟩
    let s1 := modCore s vc fun c => { c with
      places := c.places ++ [pl], rrCtx := g.ctx, rrEntry := (g.ctx, e.idx) :: c.rrEntry.filter (fun k => k.1 != g.ctx)
      entries := modWhere (fun x => x.idx == e.idx) (fun x => { x with yielded := false }) c.entries
      failed := c.failed.filter fun x => !(x.ctx == g.ctx && x.ptr == e.ptr && x.grid == some g.id)
      bullpen := modWhere (fun b => b.conf == k) (fun b => { b with lastUse := coreNow s vc }) c.bullpen }
    (armsOf (decodeAll k.words)).foldl (fun s n => startFetch s vc g.ctx g.id { e.ptr with sidx := n }) s1

/-- Threads admitted to a placement that run in it: one held at commit has parked (R121, R135). -/
def inFlightOf (s : State) (vc slot : Nat) : List Thread :=
  s.threads.filter fun t => t.resident && t.vc == vc && t.st == .admitted && (t.inst.map (·.place)) == some slot

/-- The thread was admitted to this very placement, not to an earlier one of the slot. -/
def admittedHere (p : Placement) (t : Thread) : Bool :=
  t.inst.any fun i => i.place == p.slot && t.grid == p.grid && t.ptr == p.ptr && decide (p.took ≤ ((i.stages.map (·.cycle)).headD 0))

/-- Threads admitted to a placement that have yet to commit, those held at commit among them (R121, R136). -/
def uncommittedOf (s : State) (vc : Nat) (p : Placement) : List Thread :=
  s.threads.filter fun t => t.resident && t.vc == vc && (t.st == .admitted || t.st == .held) && admittedHere p t

/-- Placements among some that an instance held at commit was admitted to (R121, R169). -/
def stillHeld (s : State) (vc : Nat) (l : List Placement) : List Placement :=
  l.filter fun p => !(uncommittedOf s vc p).isEmpty

/-- A draining placement frees its slot once its last admitted thread has left (R135); its entry may then free (R132). What `nextpu` has fixed in it
is kept for the instances of it that are held at commit (R169). -/
def freeSlot (s : State) (vc slot : Nat) : State :=
  match placeAt? s vc slot with
  | some p =>
    if p.st == .draining && (inFlightOf s vc slot).isEmpty then
      settleEntries (modCore s vc fun c => { c with
        places := c.places.filter fun x => x.slot != slot, ghosts := stillHeld s vc (p :: c.ghosts) }) vc
    else s
  | none => s

/-- A free slot takes an entry (R137); where the object is gone its threads park instead (R179). -/
def fillSlotAt (s : State) (vc slot : Nat) : State :=
  match chooseEntry? s vc with
  | none => s
  | some e => match grid? s e.grid with
    | none => s
    | some g => match entryConf? s vc e with
      | some k => if entryGone s e then parkGone s vc g.ctx e.ptr (some g.id) else takeSlot s vc slot e g k
      | none => s

/-- PLACEMENT_SLOT_FREE (R135, R137): a slot frees, and a free slot takes the next segment. -/
def execPlacementSlotFree (vc slot : Nat) (s : State) : Out :=
  if 8 ≤ slot then .next s
  else
    let s1 := freeSlot s vc slot
    .next (if (placeAt? s1 vc slot).isNone then fillSlotAt s1 vc slot else s1)

/-! Drain and admission (R135, R136, R143, R147, R148) -/

/-- The first cycle in which a placement admits (R143). -/
def admitFrom (p : Placement) : Nat := p.took + ceilDiv p.conf.words.length 4 + 8

/-- The placement's segment entry. -/
def placeEntry? (s : State) (vc : Nat) (p : Placement) : Option Entry := (core s vc).entries.find? fun e => e.idx == p.entry

/-- Waiting threads of a placement's entry. -/
def placeWaiting (s : State) (vc : Nat) (p : Placement) : List Thread :=
  match placeEntry? s vc p with
  | some e => waitingIn s vc e
  | none => []

/-- The condition of a context's policy under which a placement drains while another entry waits (R136). -/
def policyDrains (s : State) (vc : Nat) (p : Placement) : Bool :=
  let pol := policyOf s p.conf.ctx
  let ws := placeWaiting s vc p
  let claim := ((placeEntry? s vc p).map (claimOf p.conf)).getD 3
  let long := decide (1024 * 2 ^ bits pol 20 4 < coreNow s vc - p.took)
  match bits pol 0 2 with
  | 1 => decide ((if bits pol 8 8 == 0 then 256 else bits pol 8 8) ≤ p.admitted) || ws.isEmpty
  | 2 => !ws.any (admissible s p.conf) || claim == 0 || long
  | _ => claim == 0 || long || (ws.isEmpty && (decide (claim < 3) || (uncommittedOf s vc p).isEmpty))

/-- An admitting placement has to drain: another entry waits and its context's policy says so, or it has nothing left (R136). -/
def mustDrain (s : State) (vc : Nat) (p : Placement) : Bool :=
  ((placeWaiting s vc p).isEmpty && (uncommittedOf s vc p).isEmpty) ||
  ((core s vc).entries.any (fun e => e.idx != p.entry && placeable s vc e) && policyDrains s vc p)

/-- PLACEMENT_DRAIN (R136). -/
def execPlacementDrain (vc slot : Nat) (s : State) : Out :=
  match placeAt? s vc slot with
  | none => .next s
  | some p =>
    if p.st != .draining && decide (admitFrom p ≤ coreNow s vc) && mustDrain s vc p then
      .next (modPlace s vc slot fun p => { p with st := .draining })
    else .next s

/-- A word takes part in firing: hints and `nop` do not (R145, R167). -/
def wordFires (w : Option Instr) : Bool :=
  match w with
  | some (.nop _) => false
  | some w => !isHint w
  | none => false

/-- Every word of a stage has fired for an instance (R147). -/
def stageDone (ws : List (Option Instr)) (stage : List Nat) (ins : Inst) (n : Nat) : Bool :=
  (List.range ws.length).all fun i => stage.getD i 0 != n || !wordFires (ws.getD i none) || ins.fired.contains i

/-- The last stage of a segment. -/
def lastStage (stage : List Nat) : Nat := stage.foldl max 0

/-- The stage an instance stands in: the last it has entered. -/
def stageNow (ins : Inst) : Nat := ins.stages.length - 1

/-- An instance holds a tag of a stage (R147): it has entered it last, and has not left it. -/
def holdsTag (p : Placement) (n : Nat) (t : Thread) : Option Nat :=
  match t.inst with
  | none => none
  | some ins =>
    if stageNow ins == n && (n == lastStage p.stage || !stageDone (decodeAll p.conf.words) p.stage ins n) then
      (ins.stages.find? fun e => e.stage == n).map (·.tag) else none

/-- The lowest free tag of a stage's window (R62, R147). -/
def freeTag? (s : State) (vc : Nat) (p : Placement) (n : Nat) : Option Nat :=
  let held := (inFlightOf s vc p.slot).filterMap (holdsTag p n)
  firstBelow (fun k => !held.contains k) (8 * (bits (p.conf.hdr.getD 0 0).toNat 8 3 + 1))

/-- The instance of a thread at its admission (R149, R202). [DEDUCED, log entry 40] -/
def newInst (s : State) (t : Thread) (p : Placement) (tag : Nat) : Inst :=
  let g := grid? s t.grid
  let psn := ((ctx? s t.ctx).map fun c => c.regs.ctxCtl.getLsbD 0).getD false
  let truth := (g.bind (·.spec)).bind (·.truth)
  let ins : Inst :=
    { place := p.slot, psn := psn, prov := (g.map provisional).getD false, shape := truth.getD 0, ngrpx := (g.map gridGroups).getD 0
      slots0 := t.slots, toks := [], fired := [], loads := [], conds := 0, stages := [⟨0, tag, coreNow s t.vc⟩], badPages := []
      commitAt := none, stallTold := false, keptConf := none, readyAt := none }
  noteReady (coreNow s t.vc) (decodeAll p.conf.words) p.stage ins

/-- A thread is admitted (R147); the first admission of a spawned thread acquires (R163), and so does reading a live-in that holds a status (R291).
[DEDUCED, log entry 39] -/
def admitThread (s : State) (p : Placement) (t : Thread) (tag : Nat) : State :=
  let ins := newInst s t p tag
  let s0 := statusAcquire s t ((List.range 64).filter (bit (liveins p.conf.hdr)))
  let s1 := if t.depth != 0 && t.seq == 0 then invalidateL1 s0 t.vc t.ctx else s0
  let s2 := modThread s1 t.uid fun t => { t with st := .admitted, inst := some ins }
  let s3 := modPlace s2 t.vc p.slot fun p => { p with st := .admitting, admitted := p.admitted + 1, last := setAt p.last 0 (coreNow s t.vc + 1) }
  bumpMon s3 t.vc t.ctx fun m => { m with admits := m.admits + 1 }

/-! LVS banks (R148) -/

/-- The LVS bank of a frame (R129). -/
def lvsBank (frame : Nat) : Nat := frame % 64

/-- The bank of a frame has served an entry in this cycle (R148). -/
def bankTaken (s : State) (vc frame : Nat) : Bool :=
  let k := (core s vc).cycle
  k.lvsAt == coreNow s vc && k.lvsUsed.contains (lvsBank frame)

/-- The bank of a frame serves an entry in this cycle (R148). -/
def useBank (s : State) (vc frame : Nat) : State :=
  let now := coreNow s vc
  modCore s vc fun c =>
    let used := if c.cycle.lvsAt == now then c.cycle.lvsUsed else []
    { c with cycle := { c.cycle with lvsAt := now, lvsUsed := lvsBank frame :: used } }

/-- A thread is ready to enter stage `n` of its placement (R147). -/
def readyFor (ws : List (Option Instr)) (p : Placement) (n : Nat) (t : Thread) : Bool :=
  match t.inst with
  | none => false
  | some ins => n != 0 && stageNow ins + 1 == n && ins.readyAt.isSome && (List.range n).all fun k => stageDone ws p.stage ins k

/-- The thread that a stage takes next, with its tag (R147, R148): stage 0 the admissible thread with the lowest frame, a later stage the ready thread
whose stage slots became present first. A waiting bit counts from the cycle after it was set (R133). -/
def entrant? (s : State) (vc : Nat) (p : Placement) (n : Nat) : Option (Thread × Nat) :=
  let now := coreNow s vc
  let t := if n == 0 then leastBy (fun t => t.frame) ((placeWaiting s vc p).filter fun t => admissible s p.conf t && t.bitAt != some now)
    else leastBy (fun t => ((t.inst.bind (·.readyAt)).getD 0) * 2048 + t.frame) ((inFlightOf s vc p.slot).filter (readyFor (decodeAll p.conf.words) p n))
  match t, freeTag? s vc p n with
  | some t, some tag => if now < p.last.getD n 0 then none else some (t, tag)
  | _, _ => none

/-- A thread may not enter a stage in this cycle: its bank has served an entry, or a higher stage of the region takes it first (R148). -/
def bankWaits (s : State) (vc : Nat) (p : Placement) (n frame : Nat) : Bool :=
  bankTaken s vc frame || [1, 2, 3].any fun m => decide (n < m) && (entrant? s vc p m).any fun e => lvsBank e.1.frame == lvsBank frame

/-- THREAD_ADMIT (R148): the admissible thread with the lowest frame number enters stage 0 of a placement. -/
def execThreadAdmit (vc slot : Nat) (s : State) : Out :=
  match placeAt? s vc slot with
  | none => .next s
  | some p =>
    if p.st == .draining || coreNow s vc < admitFrom p || mustDrain s vc p || halted s vc
        || 2 ≤ phaseOf s p.conf.ctx || (die s (dieOf s vc)).st != .running then .next s
    else match entrant? s vc p 0 with
      | some (t, tag) => if bankWaits s vc p 0 t.frame then .next s else .next (useBank (admitThread s p t tag) vc t.frame)
      | none => .next s

/-- An instance enters stage `n` of its placement (R147). -/
def enterStage (s : State) (p : Placement) (t : Thread) (n tag : Nat) : State :=
  let now := coreNow s t.vc
  let enter : Inst → Inst := fun ins => noteReady now (decodeAll p.conf.words) p.stage { ins with
    stages := ins.stages ++ [⟨n, tag, now⟩], readyAt := none }
  let s1 := modThread s t.uid fun t => { t with inst := t.inst.map enter }
  modPlace s1 t.vc p.slot fun p => { p with last := setAt p.last n (now + 1) }

/-- STAGE_REENTRY (R147, R148). -/
def execStageReentry (vc slot stage : Nat) (s : State) : Out :=
  match placeAt? s vc slot with
  | none => .next s
  | some p => match stage, entrant? s vc p stage with
    | 0, _ | _, none => .next s
    | n, some (t, tag) => if bankWaits s vc p n t.frame then .next s else .next (useBank (enterStage s p t n tag) vc t.frame)

end Sys2Proof.Machine
end

