-- ==== Sys2Proof/Machine/Tested.lean ====
section
/-! DEFINITION. What a commit tests before anything of the instance passes on (R121, R151, R160, R246, R304 to R306, R346, R355 to R358, R373):
accesses, held effects, poison, traps, the successor, engine holdings and resources. -/
namespace Sys2Proof.Machine

/-- Where an instance commits: its placement, or, for a held instance whose placement may have freed, the configuration it keeps (R121). -/
def commitSite? (s : State) (t : Thread) : Option Site :=
  t.inst.bind fun ins => match ins.keptConf with
    | some k =>
      let pl : Placement := ⟨ins.place, 0, t.grid, t.ptr, k, .draining, 0, 0, [], stagesOf k.words, []⟩
      some ⟨t, ins, pl, decodeAll k.words, 0⟩
    | none => (placeAt? s t.vc ins.place).map fun pl => ⟨t, ins, pl, decodeAll pl.conf.words, 0⟩

/-- The site at another word. -/
def Site.word (x : Site) (i : Nat) : Site := { x with idx := i }

/-- Every word of the instance has fired and every load has its value (R151). -/
def allFired (x : Site) : Bool :=
  ((List.range x.ws.length).all fun i => !wordFires (x.ws.getD i none) || x.ins.fired.contains i) && x.ins.loads.all fun l => l.st == .done

/-- The index of the first load that has failed. -/
def failedLoad? (x : Site) : Option Nat :=
  leastBy id (x.ins.loads.filterMap fun l => match l.st with
    | .failed _ => some l.idx
    | _ => none)

/-- Every access below an index has been formed, and every load below it has returned: words of stages not entered form none (R246). -/
def settledBelow (x : Site) (k : Nat) : Bool :=
  ((List.range k).all fun i => !carriesOrdinal (x.ws.getD i none) || !inStage (x.word i) || x.ins.fired.contains i) &&
  x.ins.loads.all fun l => decide (k ≤ l.idx) || l.st != .pending

/-- Words whose poison raises the poison-store fault (R48). [DEDUCED, log entry 34] -/
def faultsOnPoison (i : Instr) : Bool :=
  isCto i || isSuccessor i || (match i with
    | .st _ | .sts _ | .strel _ | .zfill _ | .cwb _ | .pst _ | .gwait _ | .xclr _ | .trap _ | .brk _ => true
    | .wrctl _ | .tlbinv _ | .cinv _ | .evpost _ | .ctxsv _ | .ctxld _ => true
    | _ => false)

/-- Null on a data port of this word does not suppress it: a `spawn` (R162), and the successor words, which test their operand (R160).
[DEDUCED, log entry 34] -/
def nullRuns (i : Instr) : Bool :=
  isSuccessor i || (match i with
    | .spawn _ => true
    | _ => false)

/-- The token that stands for a commit-time word's effect, or none when it acts: words of format M and T weigh their tokens by R46, the others
poison first and null after it (R304, R346). [DEDUCED, log entry 34] -/
def actGate (s : State) (x : Site) (i : Instr) (sh : Shape) : Option Tok :=
  if (ordField i).isSome then siteGate s x sh
  else
    let ps := (if sh.ownP then [(tokAt x.ins x.idx 3).getD .null] else []) ++ dataToks s x sh
    match firstPoison ps with
    | some o => some (.poison o)
    | none => if !nullRuns i && (dataToks s x sh).contains .null then some .null else none

/-- The word at an index with its form. -/
def wordAt? (x : Site) (i : Nat) : Option (Instr × Shape) := (x.ws.getD i none).bind fun w => (shape w).map fun sh => (w, sh)

/-- The word at an index acts at commit. [DEDUCED, log entry 34] -/
def acts (s : State) (x : Site) (i : Nat) : Bool :=
  match wordAt? x i with
  | some (w, sh) => wordFires (some w) && (actGate s (x.word i) w sh).isNone
  | none => false

/-! Accesses (R246, R253, R271, R276, R355 to R357) -/

/-- What a commit-time word's access comes to: nothing, dropped out of bounds, an address in its space, a miss, a failure. -/
inductive Acc where
  | idle
  | dropped
  | global (va pa mt : Nat) (rtr : Bool)
  | scratch (off : Nat)
  | peer (va : Nat)
  | signal (n va pa : Nat)
  | miss (va : Nat) (need : Need)
  | bad (f : AccFault)
deriving DecidableEq, Repr

/-- An access through a buffer record (R233, R234). -/
def globalAcc (s : State) (x : Site) (buf w : Nat) (need : Need) (idx : Nat) : Acc :=
  match bufAddr (bufOf s x.t buf) idx (hoffAt x.ws x.idx) w need with
  | .out => .dropped
  | .fault f => .bad f
  | .va va => match translate s x.t (cidfOf s x.t) va need with
    | .miss => .miss va need
    | .fault f => .bad f
    | .pa pa mt => .global va pa mt ((tlbLookup s x.t.vc x.t.ctx va).any fun e => pteRtr e.pte)

/-- An access of the group's scratchpad (R237). -/
def scratchAcc (s : State) (x : Site) (w off : Nat) : Acc :=
  match scratchAddr s x off w with
  | .va o => .scratch o
  | .fault f => .bad f
  | .out => .dropped

/-- A signal named by a token (R355): a protection fault with cause SIGNAL outside the table or for an invalid entry. -/
def signalAcc (s : State) (ctx v : Nat) : Acc :=
  let f : AccFault := ⟨2, 11, 0, 0, BitVec.ofNat 32 v⟩
  match ctx? s ctx with
  | none => .bad f
  | some c =>
    if 4096 ≤ v || c.regs.sigtN.toNat ≤ v then .bad f
    else match (c.sigs.find? fun e => e.n == v).bind (·.pa) with
      | some pa => .signal v (signalVa s ctx v) pa
      | none => .bad f

/-- Opcode, fields and class of an atomic. -/
def atomicForm (i : Instr) : Option (Nat × FmtT × Bool) :=
  match i with
  | .aadd f => some (0xB0, f, false)
  | .amin f => some (0xB1, f, false)
  | .amax f => some (0xB2, f, false)
  | .aand f => some (0xB3, f, false)
  | .aor f => some (0xB4, f, false)
  | .axor f => some (0xB5, f, false)
  | .axchg f => some (0xB6, f, false)
  | .acas f => some (0xB7, f, false)
  | .afadd f => some (0xB8, f, true)
  | _ => none

/-- An atomic's access (R271, R274, R275): at scope .g in the scratchpad; a page of memory type 2 serves scope .s alone. -/
def atomicAcc (s : State) (x : Site) (f : FmtT) (float : Bool) (idx : Nat) : Acc :=
  let w := atomicWidth f float / 8
  if f.scope == 1 then scratchAcc s x w idx
  else match globalAcc s x f.buf.toNat w .atomic idx with
    | .global va pa mt rtr => if mt == 2 && f.scope != 4 then .bad (prot 10 va) else .global va pa mt rtr
    | a => a

/-- The operands of this member's `gwait` are used: it is detached, or the first to arrive (R356). [DEDUCED, log entry 35] -/
def gwaitUsed (s : State) (t : Thread) : Bool := t.detached || ((group? s t.grid t.gidx).map fun g => g.gw.arrived.isEmpty).getD true

/-- The access of a commit-time word. -/
def accessOf (s : State) (x : Site) (i : Instr) (sh : Shape) : Acc :=
  let a := portVal s x sh 0
  match actGate s x i sh with
  | some _ => .idle
  | none => match i with
    | .st f => globalAcc s x f.buf.toNat (accessBytes f.wcode) .write a
    | .strel f => globalAcc s x (f.buf.toNat % 4) (accessBytes f.wcode) .write a
    | .zfill f => globalAcc s x f.buf.toNat (zfillBytes f.wcode) .write a
    | .cwb f => globalAcc s x f.buf.toNat 1 .read a
    | .sts f => scratchAcc s x (accessBytes f.wcode) a
    | .pst f => if a % accessBytes f.wcode != 0 then .bad (prot 5 a) else .peer a
    | .sigsub _ | .sigwait _ | .mbox _ => signalAcc s x.t.ctx a
    | .gwait _ => if gwaitUsed s x.t then signalAcc s x.t.ctx a else .idle
    | .launch f => globalAcc s x (f.ctl.toNat % 16) 64 .read a
    | i => match atomicForm i with
      | some (_, f, float) => atomicAcc s x f float a
      | none => .idle

/-- The access at an index: a load's failure, or that of a commit-time word. -/
def accessAt (s : State) (x : Site) (i : Nat) : Acc :=
  match ((x.ins.loads.find? fun l => l.idx == i).map fun (l : LoadReq) => l.st) with
  | some (.failed f) => .bad f
  | some _ => .idle
  | none => match wordAt? x i with
    | some (w, sh) => if wordFires (some w) then accessOf s (x.word i) w sh else .idle
    | none => .idle

/-- Signals that the instance's words name are watched from now on (R102). -/
def watchNamed (s : State) (x : Site) : State :=
  (List.range x.ws.length).foldl (fun s i => match wordAt? x i with
    | some (w, sh) =>
      let named := match w with
        | .sigsub _ | .sigwait _ | .mbox _ => true
        | .gwait _ => gwaitUsed s x.t
        | _ => false
      if named && (actGate s (x.word i) w sh).isNone && portVal s (x.word i) sh 0 < 4096 then
        (watchSignal s x.t.ctx (portVal s (x.word i) sh 0)).1 else s
    | none => s) s

/-- The first access that fails, once those before it have been translated (R246). [DEDUCED, log entry 33] -/
inductive Scan where
  | clear
  | wait
  | bad (f : AccFault)
deriving DecidableEq, Repr

/-- The accesses in ascending index. -/
def scanAcc : List Acc → Scan
  | [] => .clear
  | .miss .. :: _ => .wait
  | .bad f :: _ => .bad f
  | _ :: r => scanAcc r

/-- Every miss of the instance goes before the walkers, and the instance awaits its page (R231, R246). -/
def awaitPages (s : State) (x : Site) (l : List Acc) : State :=
  l.foldl (fun s a => match a with
    | .miss va need =>
      let page := va / 2 ^ 16
      let note : Inst → Inst := fun i => if i.badPages.any (fun p => p.1 == page) then i else { i with badPages := i.badPages ++ [(page, ⟨0, 0, 0, 0, 0⟩)] }
      modThread (addMiss s x.t (cidfOf s x.t) va need) x.t.uid fun t => { t with inst := t.inst.map note }
    | _ => s) s

/-! Layout records (R280) -/

/-- The fields of a copy command that reads a layout record. -/
def copyForm (i : Instr) : Option FmtE :=
  match i with
  | .tcopy f | .tstore f | .tcopyo f | .tcopyr f | .tcast f | .tgath f | .tscat f => some f
  | _ => none

/-- What the reading of the instance's layout records comes to: the state, the records by word, whether the commit waits. -/
structure LayReads where
  s : State
  recs : List (Nat × Option (BitVec 512))
  wait : Bool

/-- What the instance itself stores to global memory at ordinals below the word at index `k` (R151, R307). -/
def ownStores (s : State) (x : Site) (k : Nat) : Runs :=
  (List.range k).filterMap fun i => match wordAt? x i with
    | some (w, sh) =>
      let v := portVal s (x.word i) sh 1
      let put : List Byte → Option (Nat × List Byte) := fun bs => match accessOf s (x.word i) w sh with
        | .global _ pa _ _ => some (pa, bs)
        | _ => none
      if !acts s x i then none
      else match w with
        | .st f | .strel f => put (bytesLE (accessBytes f.wcode) v)
        | .zfill f => put (List.replicate (zfillBytes f.wcode) 0)
        | _ => none
    | none => none

/-- A record's page is migratable, a large one where `large` says so: one request is posted, and the commit waits (R246, R280).
[DEDUCED, log entry 50] -/
def layMigrate (s : State) (x : Site) (dn : Nat) (large : Bool) : State :=
  let va := (((grid? s x.t.grid).map fun (g : Grid) => g.dptrs.getD dn 0).getD 0).toNat
  let page := va / 2 ^ 16
  match thread? s x.t.uid with
  | none => s
  | some t =>
    if ((t.inst.map (·.badPages)).getD []).any fun p => p.1 == page && p.2.kind != 0 then s
    else
      let f := transFault 2 va
      let note : Inst → Inst := fun i => { i with badPages := i.badPages ++ [(page, { f with data := if large then 1 else 0 })] }
      copyMigrate (modThread s t.uid fun t => { t with inst := t.inst.map note }) t.ctx va

/-- A request for the record's page is posted and FU_DONE has not named it (R246, R280). -/
def layWaits (s : State) (x : Site) (dn : Nat) : Bool :=
  let va := (((grid? s x.t.grid).map fun (g : Grid) => g.dptrs.getD dn 0).getD 0).toNat
  match (thread? s x.t.uid).bind (·.inst) with
  | some i => i.badPages.any fun p => p.1 == va / 2 ^ 16 && p.2.kind == 1 && p.2.cause == 2
  | none => false

/-- The layout records of the instance's copies are read, each as the effects of lower ordinals leave it. -/
def readRecords (s : State) (x : Site) : LayReads :=
  (List.range x.ws.length).foldl (fun r i => match (x.ws.getD i none).bind copyForm with
    | none => r
    | some f =>
      if !acts r.s x i then r
      else
        let dn := f.x.toNat % 8
        if layWaits r.s x dn then { r with wait := true }
        else match readLayout r.s x.t.vc x.t.ctx x.t.grid x.t.uid dn (ownStores r.s x i) with
        | (s1, .got l) => { r with s := s1, recs := r.recs ++ [(i, l)] }
        | (s1, .wait) => { r with s := s1, wait := true }
        | (s1, .migrate large) => { r with s := layMigrate s1 x dn large, wait := true }) ⟨s, [], false⟩

/-! Copies as commands (R301, R303, R307) -/

/-- The place word and the coordinates that a copy's ports carry (R301). -/
def copyOperands (s : State) (x : Site) (i : Instr) (f : FmtE) (sh : Shape) : List Int × BitVec 32 × Nat :=
  let a := portVal s x sh 0
  let b := portVal s x sh 1
  let c := portVal s x sh 2
  let cw := f.z.toNat % 4
  let lo := fun v => toSigned 32 (bits v 0 32)
  let hi := fun v => toSigned 32 (bits v 32 32)
  let rows := match i with
    | .tgath _ | .tscat _ => true
    | _ => false
  let c1 := if rows || cw == 0 then 0 else hi a
  let c23 := if 2 ≤ cw then [lo b, hi b] else [0, 0]
  let c4 := if cw == 3 then hi c else 0
  ([lo a, c1] ++ c23 ++ [c4], BitVec.ofNat 32 (bits c 0 32), if rows then bits a 32 32 else 0)

/-- The copy that a command becomes at its commit. -/
def mkCopy (s : State) (x : Site) (i : Instr) (f : FmtE) (sh : Shape) (id ord : Nat) (layout : Option (BitVec 512)) : Copy :=
  let (cs, place, off) := copyOperands s x i f sh
  let unif := siteUnif s x
  { id := id, ctx := x.t.ctx, grid := x.t.grid, gidx := x.t.gidx, vc := x.t.vc, uid := x.t.uid, seq := x.t.seq, ord := ord
    word := x.pl.conf.words.getD x.idx 0, layout := layout, box := (List.range 3).map fun k => unif.getD (f.y.toNat + k) 0
    coords := cs, placeW := place, listOff := off, st := .queued, pos := 0, clip := 0, code := 0, stopped := false, cleared := []
    targets := [], finite := true, waits := none }

/-! Held effects (R121, R306) -/

/-- A byte range lies in the group's own share (R120). -/
def inShare (s : State) (t : Thread) (lo n : Nat) : Bool :=
  match ((grid? s t.grid).bind (·.spec)).bind fun sp => shareOf sp t.gidx with
  | some (a, len) => decide (a ≤ lo) && decide (lo + n ≤ a + len)
  | none => false

/-- The pages of a byte range, by their first address. -/
def rangePages (lo n : Nat) : List Nat := (List.range ((lo + n - 1) / 65536 + 1 - lo / 65536)).map fun k => (lo / 65536 + k) * 65536

/-- Every page of a byte range carries RTR. -/
def rtrPages (s : State) (ctx lo n : Nat) : Bool :=
  match ctx? s ctx with
  | none => false
  | some c => (rangePages lo n).all fun va => match walk s (ptBase c) va with
      | .leaf e _ _ => pteRtr e
      | _ => false

/-- The bytes of one element: its first address and how many. -/
def elemSpan (l : Lay) (e : List Int) : Nat × Nat :=
  let (a, q) := elemAddr l e
  (a, (q + elemBits l.ety + 7) / 8)

/-- The range from the lowest to the highest byte of a `tstore`'s unclipped elements (R306); none where no element is written. -/
def storeRange (l : Lay) (c : Copy) : Option (Nat × Nat) :=
  let ext := boxExt c
  if 2 ^ 24 < boxCount c then none
  else if l.swz == 0 then
    let dims := (List.range 5).map fun d =>
      let a := c.coords.getD d 0
      let b := a + ext.getD d 1 - 1
      if d < l.rank then (max a 0, min b ((l.dims.getD d 0 : Int) - 1)) else (a, b)
    if dims.any fun p => p.2 < p.1 then none
    else
      let (lo, _) := elemSpan l (dims.map (·.1))
      let (hi, n) := elemSpan l (dims.map (·.2))
      some (lo, hi + n - lo)
  else
    (List.range (boxCount c)).foldl (fun r j =>
      let e := elemCoords c 0 0 j
      if isClipped l e then r
      else
        let (a, n) := elemSpan l e
        match r with
        | none => some (a, n)
        | some (lo, m) => let lo1 := min lo a; some (lo1, max (lo + m) (a + n) - lo1)) none

/-- The range that a `tstore` writes, where its record was read and passes its checks (R306). -/
def writtenRange (c : Copy) : Option (Nat × Nat) := (c.layout.filter fun r => layCode r == 0).bind fun r => storeRange (layOf r) c

/-- A `tstore` in the context's own space is held for a provisional group (R306). -/
def storeHeld (s : State) (t : Thread) (c : Copy) : Bool :=
  (writtenRange c).any fun r => !(inShare s t r.1 r.2 && rtrPages s t.ctx r.1 r.2)

/-- The record that was read for the word at an index. -/
def recAt? (recs : List (Nat × Option (BitVec 512))) (i : Nat) : Option (BitVec 512) := ((recs.find? fun r => r.1 == i).map (·.2)).getD none

/-- For a provisional group the pages of its share that a `tstore` writes are walked, which sets A (R230, R306). -/
def walkShare (recs : List (Nat × Option (BitVec 512))) (x : Site) (s : State) (i : Nat) : State :=
  match wordAt? x i with
  | some (.tstore f, sh) =>
    if !acts s x i || bit f.x.toNat 3 then s
    else match writtenRange (mkCopy s (x.word i) (.tstore f) f sh 0 0 (recAt? recs i)) with
      | some (lo, n) =>
        if inShare s x.t lo n then (rangePages lo n).foldl (fun s va => (copyXlat s x.t.vc x.t.ctx x.t.grid va .read).1) s else s
      | none => s
  | _ => s

/-- The layout records of the instance's copies are read at their commit (R280, R307), and so are, for a provisional group, the entries of the pages that
the commit is judged by (R306). -/
def readLayouts (s : State) (x : Site) : LayReads :=
  let r := readRecords s x
  if r.wait || confirmed r.s x.t then r else { r with s := (List.range x.ws.length).foldl (walkShare r.recs x) r.s }

/-- The effect of the word at an index holds its instance while the group is provisional (R121, R276, R306). -/
def holdsInstance (s : State) (x : Site) (recs : List (Nat × Option (BitVec 512))) (i : Nat) : Bool :=
  match wordAt? x i with
  | none => false
  | some (w, sh) =>
    let y := x.word i
    if !acts s x i then false
    else match w with
      | .st _ | .strel _ | .zfill _ => match accessOf s y w sh with
        | .global va _ _ rtr =>
          let n := match w with
            | .st f | .strel f => accessBytes f.wcode
            | .zfill f => zfillBytes f.wcode
            | _ => 1
          !(inShare s x.t va n && rtr)
        | _ => false
      | .pst _ | .sigsub _ | .sigwait _ | .mbox _ | .tcast _ | .tscat _ => true
      | .launch _ => accessOf s y w sh != .dropped
      | .tcopy f => bit f.x.toNat 3
      | .tstore f => bit f.x.toNat 3 ||
          storeHeld s x.t (mkCopy s y w f sh 0 0 (recAt? recs i))
      | w => (atomicForm w).isSome && accessOf s y w sh != .dropped

/-! Poison, traps (R48, R358) -/

/-- The first word that poison reaches, with its origin (R48). -/
def poisonAt? (s : State) (x : Site) : Option (Nat × BitVec 32) :=
  (List.range x.ws.length).findSome? fun i => match wordAt? x i with
    | some (w, sh) =>
      -- the operands of a later arrival at `gwait` are ignored (R356)
      if !faultsOnPoison w || (match w with
          | .gwait _ => !gwaitUsed s x.t
          | _ => false) then none
      else match actGate s (x.word i) w sh with
        | some (.poison o) => some (i, o)
        | _ => none
    | none => none

/-- The first trap or break that acts (R358). -/
def trapAt? (s : State) (x : Site) : Option AccFault :=
  let dbg := ((ctx? s x.t.ctx).map fun c => c.regs.ctxCtl.getLsbD 2).getD false
  (List.range x.ws.length).findSome? fun i => match wordAt? x i with
    | some (.trap f, sh) => if acts s x i then some ⟨0x0B, 0, f.ctl.setWidth 32, 0, BitVec.ofNat 32 (portVal s (x.word i) sh 0)⟩ else none
    | some (.brk f, sh) => if dbg && acts s x i then some ⟨0x0C, 0, f.ctl.setWidth 32, 0, BitVec.ofNat 32 (portVal s (x.word i) sh 0)⟩ else none
    | _ => none

/-! The successor (R157 to R173) -/

/-- Where a thread goes: its successor (none at `exit`), the return segment whose link word is written, and the arm of a `nextpu`. -/
structure Succ where
  ptr : Option SegPtr
  link : Option Nat
  uniform : Option Bool
deriving DecidableEq, Repr

/-- How the test of a successor ends. -/
inductive SuccTest where
  | go (u : Succ)
  | bad (f : AccFault)
deriving DecidableEq, Repr

/-- A successor fault (R160). -/
def succFault (t : Thread) (code idx : Nat) : AccFault := ⟨2, 14, codeDetail code t.ptr.sidx idx, 0, 0⟩

/-- Segments of the thread's own kernel, whose object may have been unregistered since (R394). -/
def ownSegs (s : State) (t : Thread) : Nat :=
  (((ctx? s t.ctx).bind fun c => objOf? c t.grid t.ptr.onum).bind fun o => (o.kernels[t.ptr.kidx]?).map (·.count)).getD 0

/-- A link word is checked (R173): the code of the failure, or the segment pointer. -/
def checkLink (s : State) (ctx : Nat) (w : BitVec 32) : Except Nat SegPtr :=
  let p := ofLink w
  match ctx? s ctx with
  | none => .error 4
  | some c => match obj? c p.onum with
    | none => .error 4
    | some o => match o.kernels[p.kidx]? with
      | none => .error 5
      | some k => if k.count ≤ p.sidx then .error 3 else .ok p

/-- The segment whose header stands at an address (R172). -/
def segAt? (c : Ctx) (va : Nat) : Option SegPtr :=
  c.objs.findSome? fun o => (List.range o.kernels.length).findSome? fun k => match o.kernels[k]? with
    | none => none
    | some kn => (List.range kn.count).findSome? fun i => match o.segs[kn.first + i]? with
      | some e => if o.addr + (if e.hdr == 0xFFFFFFFF then e.pal else e.hdr) == va then some ⟨o.onum, k, i⟩ else none
      | none => none

/-- `calli`'s test (R172): operand, translation for a fetch, header. [DEDUCED, log entry 42] -/
def testCalli (s : State) (t : Thread) (tok : Tok) (idx r : Nat) : State × SuccTest :=
  match tok with
  | .val b =>
    let v := b.toNat % 2 ^ 64
    if 2 ^ 55 ≤ v || v % 16 != 0 then (s, .bad (succFault t 2 idx))
    else match codeXlat s t.vc t.ctx (cidfOf s t) v with
      | (s1, .inr f) => (s1, .bad f)
      | (s1, .inl _) => match (ctx? s1 t.ctx).bind fun c => segAt? c v with
        | some p => (s1, .go ⟨some p, some r, none⟩)
        | none => (s1, .bad (succFault t 6 idx))
  | _ => (s, .bad (succFault t 1 idx))

/-- The test of a successor word (R160, R168 to R173). -/
def testSuccWord (s : State) (x : Site) (i : Nat) (w : Instr) (sh : Shape) : State × SuccTest :=
  let t := x.t
  let here : Nat → SegPtr := fun n => { t.ptr with sidx := n }
  let y := x.word i
  let taken := tokTrue ((tokAt x.ins i 3).getD .null)
  let go : Succ → State × SuccTest := fun u => (s, .go u)
  let bad : Nat → State × SuccTest := fun code => (s, .bad (succFault t code i))
  match w with
  | .next f => go ⟨some (here f.sa.toNat), none, none⟩
  | .nextp f => go ⟨some (here (if taken then f.sa.toNat else f.sb.toNat)), none, none⟩
  | .nextpu f => go ⟨some (here (if taken then f.sa.toNat else f.sb.toNat)), none, some taken⟩
  | .call f => go ⟨some (here f.sa.toNat), some f.sb.toNat, none⟩
  | .exit _ => go ⟨none, none, none⟩
  | .nexti _ => match portTok s y sh 0 with
    | .val b =>
      let v := b.toNat % 2 ^ 32
      if 4096 ≤ v then bad 2 else if ownSegs s t ≤ v then bad 3 else go ⟨some (here v), none, none⟩
    | _ => bad 1
  | .ret _ => match portTok s y sh 0 with
    | .val b => match checkLink s t.ctx (BitVec.ofNat 32 b.toNat) with
      | .ok p => go ⟨some p, none, none⟩
      | .error code => bad code
    | _ => bad 1
  | .calli f => testCalli s t (portTok s y sh 0) i (calliSeg f)
  | _ => go ⟨none, none, none⟩

/-- The instance's successor is tested, then the depth of its `spawn` words (R160, R161). [DEDUCED, log entry 33] -/
def testSucc (s : State) (x : Site) : State × SuccTest :=
  let found := (List.range x.ws.length).findSome? fun i => match wordAt? x i with
    | some (w, sh) => if isSuccessor w then some (i, w, sh) else none
    | none => none
  let spawnAt := (List.range x.ws.length).find? fun i => match x.ws.getD i none with
    | some (.spawn _) => true
    | _ => false
  match found with
  | none => (s, .go ⟨none, none, none⟩)
  | some (i, w, sh) => match testSuccWord s x i w sh, spawnAt with
    | (s1, .go u), some k => (s1, if x.t.depth == 7 then .bad (succFault x.t 7 k) else .go u)
    | r, _ => r

/-! Engine holdings and resources (R292, R305, R373) -/

/-- The fields of a matrix command. -/
def matrixForm (i : Instr) : Option FmtE :=
  match i with
  | .tclaim f | .trel f | .mma f | .mmi f | .mmg f | .tsacc f | .tzero f | .tacst f | .tacld f => some f
  | _ => none

/-- Units of KIND 1 or 2 in a range, and the operand slots of KIND 0, by number. -/
def rangeOf (f : FmtE) : List EUnit := (List.range (f.z.toNat + 1)).map fun i => (f.x.toNat / 16, f.slot.toNat + i)

/-- Units that a group holds: one whose release is outstanding is held until earlier ops on it have fired (R305, R314). -/
def heldUnits (s : State) (vc g gi : Nat) : List EUnit :=
  (((List.range 16).map fun n => ((1, n) : EUnit)) ++ (List.range 8).map fun n => ((2, n) : EUnit)).filter (holds s vc g gi)

/-- The group has no use for one of the units that a matrix command names (R305), and the units it holds after the command. -/
def engineStep (opsl : Nat) (held : List EUnit) (i : Instr) : Bool × List EUnit :=
  let slot : Nat → Bool := fun n => decide (opsl ≤ n)
  let out : EUnit → Bool := fun u => !held.contains u
  match i with
  | .tclaim f => ((rangeOf f).any fun u => u.1 == 0 && slot u.2, held ++ (rangeOf f).filter fun u => u.1 != 0)
  | .trel f => ((rangeOf f).any fun u => u.1 == 0 && slot u.2, held.filter fun u => !(rangeOf f).contains u)
  | .mma f | .mmi f => (slot f.slot.toNat || slot f.x.toNat || out (1, f.y.toNat % 16), held)
  | .mmg f => (slot f.slot.toNat || slot f.x.toNat || out (2, f.y.toNat % 8), held)
  | .tsacc f => (out (1, f.y.toNat % 16) ||
      (List.range (f.x.toNat / 8 + 1 - f.x.toNat % 8)).any fun k => out (2, f.x.toNat % 8 + k), held)
  | .tzero f => ((rangeOf f).any out, held)
  | .tacst f => (out (f.x.toNat / 16, f.x.toNat % 16), held)
  | .tacld f => (out (1, f.x.toNat % 16), held)
  | _ => (false, held)

/-- The first matrix command that its group's holdings do not cover (R305). -/
def engineFault? (s : State) (x : Site) : Option Nat :=
  let opsl := ((group? s x.t.grid x.t.gidx).map fun g => g.opsl.length).getD 0
  ((List.range x.ws.length).foldl (fun (r : Option Nat × List EUnit) i =>
    match r.1, (x.ws.getD i none).filter fun w => (matrixForm w).isSome with
    | none, some w =>
      if !acts s x i then r
      else
        let (bad, held) := engineStep opsl r.2 w
        (if bad then some i else none, held)
    | _, _ => r) (none, heldUnits s x.t.vc x.t.grid x.t.gidx)).1

/-- Frames that spawned threads of a depth may take, in order (R155, R161). -/
def spawnFrames (s : State) (vc d : Nat) : List Nat :=
  let used := (s.threads.filter fun t => t.resident && t.vc == vc).map (·.frame)
  freeFramesOf s vc ++ ((List.range 8).map fun k => 1984 + 8 * d + k).filter fun f => !used.contains f

/-- Words of the segment that satisfy `p`. -/
def countWords (x : Site) (p : Instr → Bool) : Nat := (x.ws.filter fun w => w.any p).length

/-- What one word adds to the queues, and the reason it lacks a resource (R373): launches, copies and ops so far. -/
def lackStep (s : State) (x : Site) (n : Nat × Nat × Nat) (i : Nat) : (Nat × Nat × Nat) × Option Nat :=
  let (nl, nc, no) := n
  let k := core s x.t.vc
  match wordAt? x i with
  | none => (n, none)
  | some (w, sh) =>
    if !acts s x i then (n, none)
    else match w with
      | .launch _ =>
        if accessOf s (x.word i) w sh == .dropped then (n, none)
        else
          let here := ((ctx? s x.t.ctx).map fun c => c.direct.length).getD 0
          let coming := (s.effects.filter fun e => e.ctx == x.t.ctx && e.kind == .launch && !e.landed).length
          ((nl + 1, nc, no), if 256 ≤ here + coming + nl then some 2 else none)
      | .tclaim f =>
        let taken : EUnit → Bool := fun u => u.1 != 0 && (opsMeet s x.t.vc x.t.grid x.t.gidx u ||
          (match (if u.1 == 1 then accTile s x.t.vc u.2 else ptTile s x.t.vc u.2).holder with
           | some h => h != (x.t.grid, x.t.gidx)
           | none => false))
        (n, if (rangeOf f).any taken then some 3 else none)
      | .mma _ | .mmi _ | .mmg _ | .tsacc _ | .tzero _ | .tacld _ =>
        ((nl, nc, no + 1), if 32 ≤ (k.ops.filter inStore).length + no then some 5 else none)
      | w =>
        if (copyForm w).isNone then (n, none)
        else
          let queued := (k.copies.filter fun c => match c.st with
            | .running _ => false
            | _ => true).length
          ((nl, nc + 1, no), if 32 ≤ queued + nc then some 4 else none)

/-- The first resource that the commit lacks (R373): spawn frames, then those of its words in ascending ordinal. [DEDUCED, log entry 33] -/
def lacking? (s : State) (x : Site) : Option Nat :=
  let spawns := countWords x fun w => match w with
    | .spawn _ => true
    | _ => false
  if (spawnFrames s x.t.vc (x.t.depth + 1)).length < spawns then some 1
  else
    ((List.range x.ws.length).foldl (fun (r : (Nat × Nat × Nat) × Option Nat) i =>
      match r.2 with
      | some _ => r
      | none => lackStep s x r.1 i) ((0, 0, 0), none)).2

end Sys2Proof.Machine
end

