-- ==== Sys2Proof/Machine/Passing.lean ====
section
/-! DEFINITION. What passes on at a commit (R151, R162, R260 to R275, R304 to R320, R345 to R364): the effects at their ordinals, then the words of
the group, the hub and the context that carry none. Each answers the state and what the thread's move then waits for. -/
namespace Sys2Proof.Machine

/-- The state after a word has passed on, and what the thread's move waits for. -/
abbrev Passed := State × List Wait

/-- The site's instruction word. -/
def siteWord (x : Site) : BitVec 32 := x.pl.conf.words.getD x.idx 0

/-- An effect leaves the thread at its ordinal (R151, R261): the state and its number. [DEDUCED, log entry 6] -/
def passEffect (s : State) (x : Site) (ord : Nat) (kind : EffKind) (va w mt : Nat) (ga : Bool) (rel acq : Nat) (runs : Runs) (landed : Bool) :
    State × Nat :=
  let (id, s1) := fresh s
  let t := x.t
  let e : Effect :=
    { id := id, ctx := t.ctx, grid := t.grid, gidx := t.gidx, vc := t.vc, uid := t.uid, frame := t.frame, seq := t.seq, ord := ord, ptr := t.ptr
      idx := x.idx, kind := kind, va := va, width := w, mt := mt, ga := ga, rel := rel, acq := acq, runs := runs, old := 0, st := .committed
      seenEf := (die s (dieOf s t.vc)).sendN, acked := false, accepted := false, landed := landed, lost := false, tries := 0, sentAt := none }
  ({ s1 with effects := s1.effects ++ [e] }, id)

/-- A slot of the thread's frame is not present from now on; it keeps its bits (R285, R312, R364). -/
def clearSlot (s : State) (uid n : Nat) : State :=
  modThread s uid fun t => { t with slots := modAt (fun l => { l with pres := false }) t.slots n, statusAt := t.statusAt.filter (· != n) }

/-- The scope in BUF[3:2] of a word of the sync space (R250). -/
def syncScope (f : FmtM) : Nat := f.buf.toNat / 4 + 1

/-- SEM of a format T word acquires (R271). -/
def semAcq (f : FmtT) : Bool := f.mod.getLsbD 2
/-- SEM of a format T word releases (R271). -/
def semRel (f : FmtT) : Bool := f.mod.getLsbD 3
/-- RES of a format T word (R271). -/
def hasRes (f : FmtT) : Bool := f.mod.getLsbD 5
/-- The slot that a format T word's result goes to; 64 for none. -/
def resSlot (f : FmtT) : Nat := if hasRes f then f.slot.toNat else 64
/-- The scope at which a format T word acquires, or 0. -/
def acqScope (f : FmtT) : Nat := if semAcq f then f.scope.toNat else 0
/-- The scope at which a format T word releases, or 0. -/
def relScope (f : FmtT) : Nat := if semRel f then f.scope.toNat else 0

/-! Memory (R260 to R275) -/

/-- A store, releasing store or zero-fill of bytes at a translated address. -/
def passStore (s : State) (x : Site) (ord : Nat) (a : Acc) (bs : List Byte) (ga : Bool) (rel : Nat) : Passed :=
  match a with
  | .global va pa mt _ => ((passEffect s x ord .store va bs.length mt ga rel 0 [(pa, bs)] true).1, [])
  | _ => (s, [])

/-- A scratchpad store or atomic of the instance, which comes after all that its thread has passed on, must wait: for a release or full fence that
is not satisfied (R267), for an atomic that has yet to acquire (R274), for a scratchpad write of its thread (R334), or for one that left the core
before it and has yet to reach its bytes (R240, R261). -/
def scratchHeld (s : State) (x : Site) (p n : Nat) : Bool :=
  scratchAhead s x.t.vc x.t.uid s.nextId p n || s.effects.any fun e => e.uid == x.t.uid && ((e.acq != 0 && e.st != .placed) || (!e.landed &&
    (match e.kind with
    | .fence k => k == 1 || k == 2
    | _ => false)))

/-- A scratchpad store reaches its bank (R240, R260), now or when nothing holds it any more. -/
def passSts (s : State) (x : Site) (ord : Nat) (a : Acc) (bs : List Byte) : Passed :=
  match a with
  | .scratch o =>
    let base := (unitsOf s x.t).2
    let p := base * 16384 + o
    if scratchHeld s x p bs.length then ((passEffect s x ord (.spadStore bs) p bs.length 0 false 0 0 [] false).1, [])
    else (noteLate (spadWrite s x.t.vc base o bs) x.t.vc x.t.uid, [])
  | _ => (s, [])

/-- A write through a channel (R263): with no valid entry it is dropped and an event is posted (R249). -/
def passPst (s : State) (x : Site) (ord ch : Nat) (a : Acc) (bs : List Byte) : Passed :=
  match a with
  | .peer va => match openChannel s x.t.ctx ch with
    | (s1, some (pkg, pctx, ordered, _)) =>
      let k : EffKind := .peer ch pkg pctx (flowSeq s1 x.t.ctx ch) ordered false
      ((passEffect (bumpFlow s1 x.t.ctx ch) x ord k va bs.length 0 false 0 0 [(va, bs)] true).1, [])
    | (s1, none) => (postEvent s1 (peerRec x.t.ctx 0 va), [])
  | _ => (s, [])

/-- The slot of the deferred `wr` that the T of the collective at an index names; none where there is none (R352). -/
def deferredTo? (x : Site) (i : Nat) : Option Nat :=
  (targetsAt x.ws i).findSome? fun t => match x.ws.getD t.1 none with
    | some (.wr f) => some f.slot.toNat
    | _ => none

/-- A deferred `wr` of the instance, or a `sigwait` of a lower ordinal, is aimed at a result's slot: the result lands after it (R273, R352). -/
def resultDeferred (x : Site) (ord : Nat) (k : Nat × Nat) : Bool :=
  (List.range x.ws.length).any fun i => match x.ws.getD i none with
    | some (.sigwait f) => hasRes f && decide (ordinalAt x.ws i < ord) && slotsMeet k (f.slot.toNat, 8)
    | some (.gred f) | some (.gscan f) | some (.vote f) => (deferredTo? x i).any fun n => slotsMeet k (n, if collWidth f == 64 then 8 else 4)
    | _ => false

/-- A result of the instance lands now, or waits for those before it (R273): the state, and what the thread's move waits for. -/
def passResult (s : State) (x : Site) (ord w slot : Nat) (acq : Nat) (old : Nat) : Passed :=
  let k := (slot, w)
  if 64 ≤ slot then (acquireOn s x.t.vc x.t.ctx acq, [])
  else if resultWaits s x.t.uid x.t.seq ord k || resultDeferred x ord k then
    let r := passEffect s x ord (.result w slot) 0 w 0 false 0 0 [] false
    (acquireOn (modEffect r.1 r.2 fun e => { e with st := .placed, old := BitVec.ofNat 64 old }) x.t.vc x.t.ctx acq, [.effect r.2])
  else (acquireOn (landSlots s x.t.uid slot (w == 8) old) x.t.vc x.t.ctx acq, [])

/-- An atomic on the scratchpad (R275): at its bank now, or once nothing holds it any more: earlier effects of its thread where it releases, a fence,
or an earlier access of its bytes. [DEDUCED, log entry 25] -/
def passScratchAtomic (s : State) (x : Site) (ord op : Nat) (f : FmtT) (w off : Nat) (b c : BitVec 64) : Passed :=
  let p := (unitsOf s x.t).2 * 16384 + off
  let ty := (f.mod.extractLsb' 0 2).toNat
  if (semRel f && !settledG s x.t.uid) || scratchHeld s x p w then
    let r := passEffect s x ord (.spad op ty w b c (resSlot f)) p w 0 false (relScope f) (acqScope f) [] false
    (r.1, if hasRes f || semAcq f then [.effect r.2] else [])
  else
    let (s1, old) := bankAtomic s x.t.vc p op ty w b c
    passResult (noteLate s1 x.t.vc x.t.uid) x ord w (resSlot f) (acqScope f) old

/-- An atomic (R271 to R275); one dropped out of bounds writes nothing and returns 0. -/
def passAtomic (s : State) (x : Site) (ord op : Nat) (f : FmtT) (float : Bool) (a : Acc) (b c : BitVec 64) : Passed :=
  let w := atomicWidth f float / 8
  match a with
  | .scratch o => passScratchAtomic s x ord op f w o b c
  | .global va pa mt _ =>
    let k : EffKind := .atomic op (f.mod.extractLsb' 0 2).toNat w b c (resSlot f)
    let r := passEffect s x ord k va w mt (f.mod.getLsbD 4) (relScope f) (acqScope f) [(pa, List.replicate w 0)] false
    (r.1, if hasRes f || semAcq f then [.effect r.2] else [])
  | .dropped => passResult s x ord w (resSlot f) 0 0
  | _ => (s, [])

/-- A write of a signal (R355): performed at the hub through the umpire. -/
def passSignal (s : State) (x : Site) (ord op : Nat) (f : FmtT) (a : Acc) (b : BitVec 64) : Passed :=
  match a with
  | .signal _ va pa =>
    let r := passEffect s x ord (.atomic op 3 8 b 0 (resSlot f)) va 8 0 true (relScope f) (acqScope f) [(pa, List.replicate 8 0)] false
    (r.1, if hasRes f || semAcq f then [.effect r.2] else [])
  | _ => (s, [])

/-- A fence (R267): an acquire acts now; a release holds later effects back; a full fence also holds the thread's move. -/
def passFence (s : State) (x : Site) (ord : Nat) (f : FmtS) : Passed :=
  let kind := bits f.ctl.toNat 3 2
  let scope := bits f.ctl.toNat 0 3
  let s1 := if kind == 1 then s else acquireOn s x.t.vc x.t.ctx scope
  if kind == 0 then (s1, [])
  else
    let r := passEffect s1 x ord (.fence kind) 0 0 0 false scope 0 [] false
    (r.1, if kind == 2 then [.effect r.2] else [])

/-- `cwb` (R269): on a page of memory type 1 or 2 it completes at once. -/
def passCwb (s : State) (x : Site) (ord : Nat) (f : FmtM) (a : Acc) : Passed :=
  match a with
  | .global _ pa 0 _ => ((passEffect s x ord (.writeBack (f.wcode == 1)) pa 1 0 false 0 0 [] false).1, [])
  | _ => (s, [])

/-- `launch` (R357): a release at .p, after which the hub copies the record. -/
def passLaunch (s : State) (x : Site) (ord : Nat) (a : Acc) : Passed :=
  match a with
  | .global _ pa mt _ => ((passEffect s x ord .launch pa 64 mt false 3 0 [] false).1, [])
  | _ => (s, [])

/-! Threads (R161 to R163) -/

/-- A spawned thread in its frame, with its payload (R129, R162, R163). -/
def spawned (uid : Nat) (t : Thread) (frame sidx : Nat) (payload : List Tok) : Thread :=
  let base : Thread := { clearFrame t with
    uid := uid, frame := frame, resident := true, tid := 0x10000 + frame, detached := true, depth := t.depth + 1, ptr := { t.ptr with sidx := sidx }
    st := .moving, seq := 0, parkAt := 0, ackLost := [], ackRec := none, parkLarge := false, owesYield := false, bitAt := none, statusAt := [] }
  (payload.zip (List.range payload.length)).foldl (fun t p => wrTok t p.2 false p.1) base

/-- SpawnEffect (R162): the new thread enters its segment's vector once everything its spawner passed on before is performed at .g (R163). -/
def passSpawn (s : State) (x : Site) (ord : Nat) (f : FmtN) (payload : List Tok) : Passed :=
  match spawnFrames s x.t.vc (x.t.depth + 1) with
  | [] => (s, [])
  | frame :: _ =>
    let (uid, s1) := fresh s
    let n := spawned uid x.t frame f.sa.toNat payload
    if performedG s x.t.uid then (setWaiting { s1 with threads := s1.threads ++ [n] } uid, [])
    else
      let r := passEffect s1 x ord (.fence 3) 0 0 0 false 1 0 [] false
      ({ r.1 with threads := r.1.threads ++ [{ n with wait := some ⟨some n.ptr, false, [.effect r.2]⟩ }] }, [])

/-! Engine commands (R304 to R320) -/

/-- A copy command enters the queue (R307). -/
def passCopy (s : State) (x : Site) (ord : Nat) (i : Instr) (f : FmtE) (sh : Shape) (layout : Option (BitVec 512)) : Passed :=
  let (id, s1) := fresh s
  let c := mkCopy s1 x i f sh id ord layout
  let lines := destLines s1 c
  let s2 := lines.foldl (fun s l => clearLine s x.t.vc l) (clearSlot s1 x.t.uid f.slot.toNat)
  (modCore s2 x.t.vc fun k => { k with copies := k.copies ++ [{ c with cleared := lines }] }, [])

/-- A matrix command joins the core's commands in issue order (R295, R314, R318, R319). -/
def passOp (s : State) (x : Site) (word : BitVec 32) (a : Nat) : State :=
  let (id, s1) := fresh s
  let t := x.t
  let o : Op :=
    { id := id, ctx := t.ctx, grid := t.grid, gidx := t.gidx, vc := t.vc, uid := t.uid, word := word, tag := a % 64
      zsk := ((group? s t.grid t.gidx).map (·.zsk)).getD false, off := a, st := .pending, seenCopies := [] }
  let us := opUnits s1 o
  let fills := (core s t.vc).copies.filter fun c => copyOp c == 0xC2 && (match physSlot? s c.grid c.gidx (fillSlot c) with
    | some p => us.contains (0, p)
    | none => false)
  modCore s1 t.vc fun k => { k with ops := k.ops ++ [{ o with seenCopies := fills.map (·.id) }] }

/-- A claim or release joins the core's commands as one on a single unit of its range (R314). [DEDUCED, log entry 36] -/
def passUnit (s : State) (x : Site) (f : FmtE) (a : Nat) (u : EUnit) : State :=
  passOp s x (putFmtE ((siteWord x).extractLsb' 24 8) { f with slot := BitVec.ofNat 6 u.2, z := 0 }) a

/-- A release (R314): each unit of its range is given up for itself. -/
def passRelease (s : State) (x : Site) (f : FmtE) (a : Nat) : State := (rangeOf f).foldl (fun s u => passUnit s x f a u) s

/-- A release of the unit by the group is outstanding. -/
def releaseOut (s : State) (vc g gi : Nat) (u : EUnit) : Bool :=
  (core s vc).ops.any fun o => o.st == .pending && o.grid == g && o.gidx == gi && cmdOp o.word == 0xD1 && (rangeOf (cmdE o.word)).contains u

/-- A claim (R314), unit by unit: accumulators and partial tiles pass to the group at once, or, while the group's own release of one is
outstanding, in issue order with it, with the group holding it all along; operand slots in issue order. [DEDUCED, log entry 36] -/
def passClaim (s : State) (x : Site) (f : FmtE) (a : Nat) : State :=
  (rangeOf f).foldl (fun s u =>
    if u.1 == 0 || releaseOut s x.t.vc x.t.grid x.t.gidx u then passUnit s x f a u
    else claimUnit s x.t.vc x.t.ctx x.t.grid x.t.gidx u) s

/-- `tacst` clears its destination's presence bits at commit (R318). -/
def passTacst (s : State) (x : Site) (f : FmtE) (a : Nat) : State :=
  let (base, size) := spadOf s x.t.grid x.t.gidx
  let n := moveSize f.z.toNat
  let s1 := clearSlot s x.t.uid f.slot.toNat
  let s2 := if a % 64 == 0 && decide (a + n ≤ size) then (regionLines base a n).foldl (fun s l => clearLine s x.t.vc l) s1 else s1
  passOp s2 x (siteWord x) a

/-- `spres` (R288, R311): the ring opens, and the status lands. [DEDUCED, log entry 37] -/
def passSpres (s : State) (x : Site) (f : FmtE) (a b : Nat) : State :=
  let t := x.t
  let v := f.z.toNat % 16
  let tb := bits b 0 17
  let dp := bits b 20 4 + 1
  let code :=
    if a % 64 != 0 || (spadOf s t.grid t.gidx).2 < a + dp * tb then 5
    else if tb % 64 != 0 || tb < 64 || 65536 < tb || bits b 17 3 != 0 || bits b 24 8 != 0 then 6
    else if (ring? s t.vc t.grid v).isSome then 9
    else 0
  let s1 := if code == 0 then modCore s t.vc fun k => { k with rings := k.rings ++ [⟨t.grid, v, t.gidx, a, tb, dp, 0, 0, none⟩] } else s
  landStatus s1 t.uid f.slot.toNat (statusWord code 0)

/-- `sfree` (R290, R311). -/
def passSfree (s : State) (x : Site) (f : FmtE) : State :=
  modRing s x.t.vc x.t.grid (f.z.toNat % 16) fun r => if r.fc == r.wc then r else { r with fc := r.fc + 1 }

/-! One ordinal (R151) -/

/-- The word at an ordinal passes on. [DEDUCED, log entry 6] -/
def passWord (s : State) (x : Site) (ord : Nat) (i : Instr) (sh : Shape) (layout : Option (BitVec 512)) : Passed :=
  let v := portVal s x sh
  let d := bytesLE
  let acc := accessOf s x i sh
  match i with
  | .st f => passStore s x ord acc (d (accessBytes f.wcode) (v 1)) f.ga 0
  | .strel f => passStore s x ord acc (d (accessBytes f.wcode) (v 1)) f.ga (syncScope f)
  | .zfill f => passStore s x ord acc (List.replicate (zfillBytes f.wcode) 0) f.ga 0
  | .sts f => passSts s x ord acc (d (accessBytes f.wcode) (v 1))
  | .pst f => passPst s x ord f.buf.toNat acc (d (accessBytes f.wcode) (v 1))
  | .cwb f => passCwb s x ord f acc
  | .fence f => passFence s x ord f
  | .launch _ => passLaunch s x ord acc
  | .spawn f => passSpawn s x ord f ((List.range (f.sb.toNat % 4)).map fun p => portTok s x sh p)
  | .sigsub f => passSignal s x ord 0xB9 f acc (BitVec.ofNat 64 (v 1))
  | .mbox f => passSignal s x ord 0xBB f acc (BitVec.ofNat 64 (v 1))
  | .sigwait f => (s, [.sig ord (v 0) (BitVec.ofNat 64 (v 1)) (resSlot f) (semAcq f) (siteWord x)])
  | .tclaim f => (passClaim s x f (v 0), [])
  | .tacst f => (passTacst s x f (v 0), [])
  | .tacld f | .tfence f => (passOp (clearSlot s x.t.uid f.slot.toNat) x (siteWord x) (v 0), [])
  | .trel f => (passRelease s x f (v 0), [])
  | .mma _ | .mmi _ | .mmg _ | .tsacc _ | .tzero _ => (passOp s x (siteWord x) (v 0), [])
  | .tmode f => (modGroup s x.t.grid x.t.gidx fun g => { g with zsk := f.z.getLsbD 0 }, [])
  | .spres f => (passSpres s x f (v 0) (v 1), [])
  | .sfree f => (passSfree s x f, [])
  | i => match copyForm i, atomicForm i with
    | some f, _ => passCopy s x ord i f sh layout
    | none, some (op, f, float) => passAtomic s x ord op f float acc (BitVec.ofNat 64 (v 1)) (BitVec.ofNat 64 (v 2))
    | none, none => (s, [])

/-- The loop over ordinals (R151). -/
def passOrdinals (s : State) (x : Site) (recs : List (Nat × Option (BitVec 512))) : Passed :=
  (List.range x.ws.length).foldl (fun (r : Passed) i => match wordAt? x i with
    | some (w, sh) =>
      if sh.ordinal && acts r.1 x i then
        let p := passWord r.1 (x.word i) (ordinalAt x.ws i) w sh (recAt? recs i)
        (p.1, r.2 ++ p.2)
      else r
    | none => r) (s, [])

/-! Words without an ordinal (R346) -/

/-- What a stall record names: a code, the word and its segment (R366). -/
def stallWord (x : Site) (code : Nat) : BitVec 32 := BitVec.ofNat 32 (code + x.idx * 16 + x.t.ptr.sidx * 4096)

/-- One more thread has arrived (R347): the first arrival starts the watchdog's count. -/
def arrive (now uid : Nat) (word : BitVec 32) (b : Bar) : Bar :=
  if b.arrived.isEmpty then { b with arrived := [uid], since := now, told := false, word := word } else { b with arrived := b.arrived ++ [uid] }

/-- `bar n` (R347). -/
def passBar (s : State) (x : Site) (f : FmtS) : Passed :=
  let t := x.t
  let n := f.ctl.toNat % 4
  if t.detached then (s, [])
  else (modGroup s t.grid t.gidx fun g => { g with bars := modAt (arrive (watchNow s t.ctx) t.uid (stallWord x n)) g.bars n }, [.bar n])

/-- `gwait` (R356): the first arrival of a generation fixes the signal and the threshold; a detached member waits for itself.
[DEDUCED, log entry 35] -/
def passGwaitWord (s : State) (x : Site) (f : FmtS) (a b : Nat) : Passed :=
  let t := x.t
  let thr := BitVec.ofNat 64 b
  if t.detached then (s, [.ownGwait a thr (siteWord x)])
  else
    let first := gwaitUsed s t
    let now := watchNow s t.ctx
    let fix : Group → Group := fun g => if first then { g with gwSig := a, gwThr := thr, gwScope := f.ctl.toNat % 8 } else g
    (modGroup s t.grid t.gidx fun g => { fix g with gw := arrive now t.uid (stallWord x 4) g.gw }, [.gwait])

/-- The slot of the deferred `wr` that a collective's T names; 64 for none (R352). -/
def deferredSlot (x : Site) : Nat := (deferredTo? x x.idx).getD 64

/-- The collective of the site's word: of its place, or, for one that a context image brought back without its place, of its word (R353, R385).
[DESIGN CHOICE, log entry 64] -/
def collOf (x : Site) (k : Coll) : Bool := (k.ptr == x.t.ptr && k.idx == x.idx) || (decide (128 ≤ k.idx) && k.word == siteWord x)

/-- One contribution to a collective (R353). -/
def contribute (s : State) (x : Site) (tok : Tok) (g : Group) : Group :=
  let c : Contrib := ⟨x.t.uid, x.t.tid, tok⟩
  let now := watchNow s x.t.ctx
  let join : Coll → Coll := fun k =>
    let k1 : Coll := { k with ptr := x.t.ptr, idx := x.idx, contribs := k.contribs ++ [c] }
    if k.contribs.isEmpty then { k1 with since := now, told := false } else k1
  if g.colls.any (collOf x) then { g with colls := modWhere (collOf x) join g.colls }
  else { g with colls := g.colls ++ [⟨x.t.ptr, x.idx, siteWord x, 0, [c], now, false⟩] }

/-- `gred`, `gscan`, `vote` at commit (R353): a detached member's contribution counts for nothing. -/
def passColl (s : State) (x : Site) (f : FmtA) (sh : Shape) : Passed :=
  let t := x.t
  if t.detached then (s, [])
  else
    let tok := match siteGate s x sh with
      | some k => k
      | none => portTok s x sh 0
    (modGroup s t.grid t.gidx (contribute s x tok), [.coll x.idx (deferredSlot x) (collWidth f == 64)])

/-- `xput` (R350). -/
def passXput (s : State) (x : Site) (f : FmtL) (tok : Tok) : State :=
  let n := f.slot.toNat % 8
  match tok with
  | .null => s
  | .val b => modThread s x.t.uid fun t => { t with xs := setAt t.xs n ⟨b.setWidth 32, true, false⟩ }
  | .poison o => modThread s x.t.uid fun t => { t with xs := setAt t.xs n ⟨o, true, true⟩ }

/-- `xclr` (R350): the slot keeps its bits. -/
def passXclr (s : State) (x : Site) (f : FmtL) : State :=
  modThread s x.t.uid fun t => { t with xs := modAt (fun l => { l with pres := false, mark := false }) t.xs (f.slot.toNat % 8) }

/-- The context that CSEL of the executing context names (R359). -/
def selected (s : State) (ctx : Nat) : Nat := ((ctx? s ctx).map fun c => c.regs.csel.toNat % 2 ^ 16).getD ctx

/-- `tlbinv` (R362): .all acts whatever CSEL holds; the others do nothing where CSEL names no context. -/
def passTlbinv (s : State) (x : Site) (f : FmtS) (a : Nat) : State :=
  let c := selected s x.t.ctx
  let mode := f.mod.toNat % 4
  if mode == 2 || (ctx? s c).isSome then tlbInvalidate s c mode a else s

/-- `cinv` (R362); the configurations that have gone from under waiting entries are fetched again (R139, R140). -/
def passCinv (s : State) (x : Site) (f : FmtS) : State :=
  let c := selected s x.t.ctx
  if (ctx? s c).isSome then
    let old := (List.range s.cores.length).map fun vc => (vc, (core s vc).bullpen)
    old.foldl (fun s k => refetch s k.1 k.2) (cacheInvalidate s c (f.mod.toNat % 4))
  else s

/-- `evpost n` (R363): ordered after the thread's earlier effects are performed at .s. -/
def passEvpost (s : State) (x : Site) (f : FmtS) (a : Nat) : State :=
  let r := threadRec x.t ⟨0x10, 0, f.ctl.setWidth 32, 0, BitVec.ofNat 32 a⟩ false
  (passEffect s x (64 + x.idx) (.event r) 0 0 0 false 4 0 [] false).1

/-- `ctxsv` and `ctxld` (R364): the status slot is not present until the image's status lands. -/
def passImage (s : State) (x : Site) (f : FmtS) (save : Bool) (a b : Nat) : State :=
  let slot := f.mod.toNat % 64
  (passEffect (clearSlot s x.t.uid slot) x (64 + x.idx) (.image save (b % 2 ^ 16) slot) a 0 0 false 0 0 [] false).1

/-- Exchange writes of the instance, which come before its arrivals (R348). -/
def passExchange (s : State) (x : Site) : State :=
  (List.range x.ws.length).foldl (fun s i => match wordAt? x i with
    | some (.xput f, sh) => passXput s (x.word i) f (portTok s (x.word i) sh 0)
    | some (.xclr f, _) => if acts s x i then passXclr s (x.word i) f else s
    | _ => s) s

/-- One word that acts after the ordinals. -/
def passOther (s : State) (x : Site) (i : Instr) (sh : Shape) : Passed :=
  let v := portVal s x sh
  match i with
  | .bar f => passBar s x f
  | .wrctl f => (writeCtl s x.t.ctx f.ctl.toNat (BitVec.ofNat 64 (v 0)), [])
  | .tlbinv f => (passTlbinv s x f (v 0), [])
  | .cinv f => (passCinv s x f, [])
  | .evpost f => (passEvpost s x f (v 0), [])
  | .ctxsv f => (passImage s x f true (v 0) (v 1), [])
  | .ctxld f => (passImage s x f false (v 0) (v 1), [])
  | _ => (s, [])

/-- The words without an ordinal, in ascending index (R346). -/
def passOthers (s : State) (x : Site) : Passed :=
  (List.range x.ws.length).foldl (fun (r : Passed) i => match wordAt? x i with
    | some (.gred f, sh) | some (.gscan f, sh) | some (.vote f, sh) => let p := passColl r.1 (x.word i) f sh; (p.1, r.2 ++ p.2)
    | some (.gwait f, sh) =>
      -- later arrivals' operands are ignored (R356)
      if acts r.1 x i || !gwaitUsed r.1 x.t then
        let v := portVal r.1 (x.word i) sh
        let p := passGwaitWord r.1 (x.word i) f (v 0) (v 1)
        (p.1, r.2 ++ p.2)
      else r
    | some (w, sh) => if acts r.1 x i then let p := passOther r.1 (x.word i) w sh; (p.1, r.2 ++ p.2) else r
    | none => r) (passExchange s x, [])

end Sys2Proof.Machine
end

