-- ==== Sys2Proof/Machine/Commit.lean ====
section
/-! DEFINITION. Commit (R48, R121, R151, R160 to R173, R333, R346, R373): the tests in their order, the live-outs, the effects in ordinal order, the
words that follow them, and the thread's move to its successor or its retirement. -/
namespace Sys2Proof.Machine

/-! Live-outs (R38, R47, R151, R171, R199) -/

/-- The `wr` at an index is deferred to a collective's completion (R352). -/
def deferredWr (ws : List (Option Instr)) (i : Nat) : Bool :=
  (List.range i).any fun j => (match ws.getD j none with
    | some w => isCollective w
    | none => false) && (targetsAt ws j).contains (i, 0)

/-- The instance's `wr` words in ascending index; a null leaves its slot (R199). -/
def writeOuts (s : State) (x : Site) (t : Thread) : Thread :=
  (List.range x.ws.length).foldl (fun t i => match wordAt? x i with
    | some (.wr f, sh) => if deferredWr x.ws i then t else wrTok t f.slot.toNat (producerWidth x.ws i == 64) (portTok s (x.word i) sh 0)
    | _ => t) t

/-- The link word of `call` and `calli` goes to l63 after the live-outs (R171, R172). -/
def writeLink (x : Site) (u : Succ) (t : Thread) : Thread :=
  match u.link with
  | some r => wrTok t 63 false (valTok (linkWord { x.t.ptr with sidx := r }).toNat)
  | none => t

/-- The raised conditions are joined into the slot of FSLOT; a slot that was not present or was marked counts as 0 (R38). -/
def writeConds (s : State) (x : Site) (t : Thread) : Thread :=
  let fs := ((grid? s t.grid).map fun g => recFslot g.raw).getD 0
  if !bit fs 7 then t
  else
    let l := t.slots.getD (fs % 64) Slot.empty
    let old := if l.pres && !l.mark then l.val.toNat else 0
    wrTok t (fs % 64) false (valTok (old ||| x.ins.conds.toNat))

/-- The frame after the live-outs of a commit. -/
def commitSlots (s : State) (x : Site) (u : Succ) (t : Thread) : Thread := writeConds s x (writeLink x u (writeOuts s x t))

/-! Monitors (R165, R169, R363, R407) -/

/-- A uniformity miss counts in the context's monitor and in its core's monitor block. -/
def uniformityMiss (s : State) (vc ctx : Nat) : State :=
  let p := (s.pkg.vct.getD vc ⟨false, 0⟩).pcore
  let up : Mon → Mon := fun m => { m with run := { m.run with umiss := m.run.umiss + 1 } }
  bumpMon { s with pkg := { s.pkg with mons := modAt up s.pkg.mons p } } vc ctx fun m => { m with miss := m.miss + 1 }

/-- Another thread of the group that is not detached waits for, runs in or is parked at another segment (R165). -/
def elsewhere (s : State) (t : Thread) : Bool :=
  (threadsOf s t.grid t.gidx).any fun o => o.uid != t.uid && !o.detached && o.ptr != t.ptr &&
    (o.st == .waiting || o.st == .unassigned || o.st == .admitted || o.st == .held || o.st == .parked)

/-- A commit of `exit` in a segment that claims a uniform exit (R165). -/
def noteExit (s : State) (x : Site) (u : Succ) : State :=
  if u.ptr.isNone && bit (x.pl.conf.hdr.getD 0 0).toNat 2 && elsewhere s x.t then uniformityMiss s x.t.vc x.t.ctx else s

/-- The placement that an instance was admitted to: it stands, or it has freed and the instance was held at commit (R121, R169). -/
def ownPlace? (s : State) (t : Thread) : Option Placement :=
  greatestBy (fun p => p.took) (((core s t.vc).places ++ (core s t.vc).ghosts).filter fun p => admittedHere p t)

/-- Change a placement, or what is kept of it. -/
def modOwnPlace (s : State) (vc : Nat) (p : Placement) (f : Placement → Placement) : State :=
  let same : Placement → Bool := fun q => q.slot == p.slot && q.took == p.took
  modCore s vc fun c => { c with places := modWhere same f c.places, ghosts := modWhere same f c.ghosts }

/-- A commit of `nextpu` fixes its group's direction in the placement, or differs from it (R169). -/
def noteUniform (s : State) (x : Site) (u : Succ) : State :=
  match u.uniform, u.ptr with
  | some d, some p =>
    let t := x.t
    let s1 := startFetch s t.vc t.ctx t.grid p
    match ownPlace? s t with
    | some pl => match pl.dirs.find? fun k => k.1 == t.gidx with
      | some k => if k.2 == d then s else uniformityMiss s1 t.vc t.ctx
      | none => modOwnPlace s1 t.vc pl fun pl => { pl with dirs := pl.dirs ++ [(t.gidx, d)] }
    | none => s1
  | _, _ => s

/-! The move (R132, R164, R166, R273, R346) -/

/-- The entry of the successor has claim 0 from the commit on (R138, R166). -/
def yieldEntry (s : State) (vc grid : Nat) (p : SegPtr) : State :=
  modCore s vc fun c => { c with entries := modWhere (fun e => e.grid == grid && e.ptr == p) (fun e => { e with yielded := true }) c.entries }

/-- The last step of Commit(): the bit in the successor's waiting vector, or the retirement at `exit`. A `yield` that found no entry of the
successor at the commit is owed to the entry that the thread is given. [DEDUCED, log entry 69] -/
def finishMove (s : State) (uid : Nat) : State :=
  match thread? s uid with
  | none => s
  | some t => match t.wait with
    | none => s
    | some w => match w.succ with
      | none => leaveThread s uid
      | some p => setWaiting (modThread s uid fun t => { t with ptr := p, wait := none, owesYield := w.yields }) uid

/-- The thread moves once everything its move waits for is over (R273, R346). [DEDUCED, log entry 53] -/
def moveIfOver (s : State) (uid : Nat) : State :=
  match thread? s uid with
  | some t =>
    if t.st == .moving && t.resident && (match t.wait with
      | some w => w.waits.all (waitOver s)
      | none => false) then finishMove s uid else s
  | none => s

/-- DEFERRED_SUCCESSOR_MOVE (R346). -/
def execDeferredSuccessorMove (vc frame : Nat) (s : State) : Out :=
  match threadAt? s vc frame with
  | some t => if 7 ≤ phaseOf s t.ctx then .next s else .next (moveIfOver s t.uid)
  | none => .next s

/-! Commit (R151) -/

/-- The instance has a `yield` that counts: its successor is not `exit` (R166). -/
def instYields (x : Site) (u : Succ) : Bool :=
  u.ptr.isSome && decide (0 < countWords x fun w => match w with
    | .yield _ => true
    | _ => false)

/-- The yield of an instance shows on its successor's entry, where it has one (R138, R166). -/
def noteYield (s : State) (x : Site) (u : Succ) : State :=
  match u.ptr with
  | some p => if instYields x u then yieldEntry s x.t.vc x.t.grid p else s
  | none => s

/-- The successor has an entry on the thread's core. -/
def succHasEntry (s : State) (x : Site) (u : Succ) : Bool := u.ptr.any fun p => (entryOf? s x.t.vc x.t.grid p).isSome

/-- The core notes a commit of this cycle with the exchange slots from before it (R240, R261, R351). -/
def noteCommit (s : State) (t : Thread) : State :=
  let now := coreNow s t.vc
  let old := xsOldNow s t.vc ++ [⟨t.grid, t.gidx, t.tid, t.xs⟩]
  modCore s t.vc fun c => { c with cycle := { c.cycle with commitAt := some (now, t.frame), xsOld := old } }

/-- The instance commits: live-outs, effects, words without an ordinal, and the move. -/
def commitInst (s : State) (x : Site) (u : Succ) (recs : List (Nat × Option (BitVec 512))) : State :=
  let uid := x.t.uid
  let waited := (x.ins.commitAt.map fun a => (watchNow s x.t.ctx) - a).getD 0
  let s1 := noteYield (noteUniform (noteExit (modThread (noteCommit (sampleCore s x.t.vc 1 waited) x.t) uid (commitSlots s x u)) x u) x u) x u
  let r1 := passOrdinals s1 x recs
  let r2 := passOthers r1.1 x
  let ws := r1.2 ++ r2.2
  let yields := instYields x u && !succHasEntry s x u
  let s2 := modThread r2.1 uid fun t => { t with st := .moving, seq := t.seq + 1, inst := none, wait := some ⟨u.ptr, yields, ws⟩ }
  let s3 := bumpMon s2 x.t.vc x.t.ctx fun m => { m with commits := m.commits + 1 }
  let s4 := testNow (settleOps (settleEffects s3) x.t.vc) uid ws
  settleEntries (moveIfOver (settleGroup s4 x.t.grid x.t.gidx) uid) x.t.vc

/-- The instance aborts, and its thread runs it again (R380). -/
def rerun (s : State) (uid : Nat) : State := setWaiting (abortInst s uid) uid

/-- The context's instances are being settled: a quiesce has reached phase 2, or the die is being reset (R380, R387). -/
def settling (s : State) (t : Thread) : Bool := decide (2 ≤ phaseOf s t.ctx) || (die s (dieOf s t.vc)).st != .running

/-- A provisional group's instance with a held effect parks at commit (R121). -/
def holdInst (s : State) (x : Site) : State :=
  if settling s x.t then rerun s x.t.uid
  else
    let keep : Inst → Inst := fun i => { i with keptConf := some x.pl.conf, commitAt := none }
    modThread s x.t.uid fun t => { t with st := .held, inst := t.inst.map keep }

/-- The commit waits for a resource; the watchdog counts from the first cycle of the wait (R373). A thread that lacks frames for its `spawn`
words parks at commit (R155). -/
def waitInst (s : State) (x : Site) (reason : Nat) : State :=
  if settling s x.t then rerun s x.t.uid
  else
    let now := watchNow s x.t.ctx
    let parks := reason == 1 || x.t.st == .held
    let start : Inst → Inst := fun i => { i with
      commitAt := some (i.commitAt.getD now), keptConf := if parks then some x.pl.conf else i.keptConf }
    modThread s x.t.uid fun t => { t with st := if parks then .held else t.st, inst := t.inst.map start }

/-- The tests of a commit after its accesses, in order: layout records, held effects, poison, traps, successor, engine holdings, resources. -/
def commitTested (s : State) (x : Site) : State :=
  let uid := x.t.uid
  let l := readLayouts s x
  if l.wait then l.s
  else if !confirmed l.s x.t && (List.range x.ws.length).any (holdsInstance l.s x l.recs) then holdInst l.s x
  else match poisonAt? l.s x with
    | some (i, o) => takeFault l.s uid ⟨4, 0, BitVec.ofNat 32 i, 0, o⟩
    | none => match trapAt? l.s x with
      | some f => takeFault l.s uid f
      | none => match testSucc l.s x with
        | (s1, .bad f) => takeFault s1 uid f
        | (s1, .go u) => match engineFault? s1 x with
          | some i => takeFault s1 uid ⟨2, 15, BitVec.ofNat 32 i, 0, 0⟩
          | none => match lacking? s1 x with
            | some reason => waitInst s1 x reason
            | none => commitInst s1 x u l.recs

/-- The accesses of the instance below an index are scanned, and the commit goes on when all of them pass (R246). [DEDUCED, log entry 33] -/
def commitScan (s : State) (x : Site) (n : Nat) (whole : Bool) : State :=
  let s1 := watchNamed s x
  let l := (List.range n).map (accessAt s1 x)
  -- a signal's page migrates: the commit waits (R451)
  if stalled s1 then s1
  else match scanAcc l with
  | .bad f => takeFault s1 x.t.uid f
  | .wait => awaitPages s1 x l
  | .clear => if whole then commitTested s1 x else s1

/-- The thread may commit now: an admitted instance, one that parked for want of frames (R155), or a held one whose group is confirmed (R121).
[DEDUCED, log entry 53] -/
def mayCommit (s : State) (t : Thread) : Bool :=
  t.st == .admitted || (t.st == .held && (confirmed s t || t.inst.any fun i => i.commitAt.isSome))

/-- A thread of this frame or a higher one has committed on the core in this cycle: the commits of a cycle take ascending thread slots (R240, R261). -/
def commitPast (s : State) (vc frame : Nat) : Bool :=
  (core s vc).cycle.commitAt.any fun c => c.1 == coreNow s vc && decide (frame ≤ c.2)

/-- A thread tries to commit; `force` lets it on a halted core (R375). An access that has failed aborts the instance as soon as no access below it
can fail (R246). -/
def tryCommit (s : State) (vc frame : Nat) (force : Bool) : State :=
  match threadAt? s vc frame with
  | none => s
  | some t =>
    if !mayCommit s t || (!force && (halted s vc || commitPast s vc frame)) || decide (3 ≤ phaseOf s t.ctx) then s
    else match commitSite? s t with
      | none => s
      | some x => match allFired x, t.ackRec, failedLoad? x with
        | true, some r, _ => parkAckLoss s t r
        | true, none, _ => commitScan s x x.ws.length true
        | false, _, some k => if settledBelow x k then commitScan s x (k + 1) false else s
        | false, _, none => s

/-- THREAD_COMMIT (R151). [DEDUCED, log entry 6] -/
def execThreadCommit (vc frame : Nat) (s : State) : Out := .next (tryCommit s vc frame false)

end Sys2Proof.Machine
end

