-- ==== Sys2Proof/Machine/Faults.lean ====
section
/-! DEFINITION. Watchdog records, the event queue's retry, fault commands, debug halt, and memory errors (R349, R369 to R378). -/
namespace Sys2Proof.Machine

/-! Watchdogs (R349, R373) -/

/-- The stall record of a group (R366). -/
def barStallRec (gr : Group) (word : BitVec 32) (n : Nat) : EvRec :=
  let vc := match gr.at_ with
    | .core vc => vc
    | .dugout _ vc => vc
  ⟨7, 0, gr.ctx, vc, 2, 0, 0, word, 0, BitVec.ofNat 32 n, 0, []⟩

/-- BAR_LIMIT of a context. -/
def barLimit (s : State) (ctx : Nat) : Nat := ((ctx? s ctx).map fun c => c.regs.barLimit.toNat).getD 0

/-- A generation with an arrival has not completed within BAR_LIMIT of its first arrival, and this has not been told. -/
def barStalled (s : State) (ctx since : Nat) (told : Bool) (l : List Nat) : Bool :=
  !told && !l.isEmpty && decide (since + barLimit s ctx ≤ watchNow s ctx)

/-- What a collective's record names (R366). -/
def collWord (co : Coll) : BitVec 32 :=
  let code := match (decode co.word).toOption with
    | some (.gred _) => 5
    | some (.gscan _) => 6
    | _ => 7
  BitVec.ofNat 32 (code + co.idx * 16 + co.ptr.sidx * 4096)

/-- The stall of one wait of a group: 0 to 3 a barrier, 4 `gwait`'s arrivals, from 5 on a collective. -/
def barrierStall (s : State) (gr : Group) (w : Nat) : State :=
  let tell : (Group → Group) → BitVec 32 → Nat → State := fun f word n => postEvent (modGroup s gr.grid gr.gidx f) (barStallRec gr word n)
  if w < 4 then
    let b := gr.bars.getD w ⟨0, [], 0, true, 0⟩
    if barStalled s gr.ctx b.since b.told b.arrived then
      tell (fun g => { g with bars := modAt (fun b => { b with told := true }) g.bars w }) b.word b.arrived.length
    else s
  else if w == 4 then
    if barStalled s gr.ctx gr.gw.since gr.gw.told gr.gw.arrived && !allArrived s gr.grid gr.gidx gr.gw.arrived then
      tell (fun g => { g with gw := { g.gw with told := true } }) gr.gw.word gr.gw.arrived.length
    else s
  else match gr.colls[w - 5]? with
    | none => s
    | some co =>
      if barStalled s gr.ctx co.since co.told (co.contribs.map (·.uid)) then
        tell (fun g => { g with colls := modAt (fun k => { k with told := true }) g.colls (w - 5) }) (collWord co) co.contribs.length
      else s

/-- BARRIER_STALL (R349). -/
def execBarrierStall (g w : Nat) (s : State) : Out :=
  match groupNo? s g with
  | some gr => .next (barrierStall s gr w)
  | none => .next s

/-- A commit has waited for a resource for WD_LIMIT: one record, with the reason that is lacking now (R373). -/
def heldCommitStall (s : State) (t : Thread) : State :=
  match commitSite? s t with
  | none => s
  | some x => match x.ins.commitAt with
    | none => s
    | some from_ =>
      if x.ins.stallTold || !mayCommit s t || watchNow s t.ctx < from_ + wdLimit s t.ctx then s
      else match lacking? s x with
        | none => s
        | some reason =>
          let told : Inst → Inst := fun i => { i with stallTold := true }
          let s1 := modThread s t.uid fun t => { t with inst := t.inst.map told }
          postEvent s1 (threadRec t ⟨8, reason, BitVec.ofNat 32 reason, 0, 0⟩ false)

/-- HELD_COMMIT_STALL (R373). -/
def execHeldCommitStall (vc frame : Nat) (s : State) : Out :=
  match threadAt? s vc frame with
  | some t => .next (heldCommitStall s t)
  | none => .next s

/-! The event queue's retry (R369) -/

/-- The hub looks at the queue again: held records, oldest first, then one overflow record. -/
def retryEvents (s : State) (n : Nat) : State :=
  match ctx? s n with
  | none => s
  | some c =>
    let (s1, left) := writeParts c c.evHeld s
    let s2 := modCtx s1 n fun c => { c with evHeld := left, retryAt := hubNow s + 4096 }
    if !left.isEmpty || c.evOver == 0 then holdRequests (setStalls s2 []) s2.hub.stalls
    else match writePart s2 c (plainRec n 0x1F 0 0 0 (BitVec.ofNat 32 c.evOver)) with
      | (s3, true) => modCtx s3 n fun c => { c with evOver := 0 }
      | (s3, false) => holdRequests (setStalls s3 []) s3.hub.stalls

/-- EVENT_QUEUE_RETRY (R369). -/
def execEventQueueRetry (ctx : Nat) (s : State) : Out := .next (retryEvents s ctx)

/-! Fault commands (R370 to R372, R375) -/

/-- FCMD's fields (R371). -/
structure Fcmd where
  ctx : Nat
  vc : Nat
  frame : Nat
  kind : Nat
  lslot : Nat

/-- The fields of a written FCMD. -/
def fcmdOf (v : BitVec 64) : Fcmd :=
  let n := v.toNat
  ⟨bits n 48 16, bits n 40 8, bits n 29 11, bits n 8 8, bits n 0 6⟩

/-- The command's result, as FCMD reads (R371). -/
def fcmdResult (s : State) (v : BitVec 64) (r : Nat) : State := { s with ap := { s.ap with fcmd := v, fres := r } }

/-- The thread at a place that satisfies `p`: a resident one, or else one of a group in a dugout that had the place when it was evicted.
[DEDUCED, log entry 46] -/
def placedThread? (s : State) (f : Fcmd) (p : Thread → Bool) : Option Thread :=
  let here : Thread → Bool := fun t => t.ctx == f.ctx && t.vc == f.vc && t.frame == f.frame && p t
  match s.threads.find? fun t => t.resident && here t with
  | some t => some t
  | none => s.threads.find? fun t => !t.resident && here t

/-- A parked thread. -/
def isParked (t : Thread) : Bool := t.st == .parked

/-- A thread that is parked on an ack loss first lets its pending effects proceed (R371). -/
def proceedAckLoss (s : State) (t : Thread) : State := if (t.kept.map (·.kind)) == some 5 then settleAckLoss s t else s

/-- A thread resumes where it is (R371). -/
def resumeParked (s : State) (t : Thread) : State := returnThread (proceedAckLoss s t) t.uid

/-- A thread resumes at another segment: the one that it was parked on may be tried again, the new one only by threads parked on it (R101, R371). -/
def redirectParked (s : State) (t : Thread) (p : SegPtr) : State :=
  returnThread (modThread (retrySegment (proceedAckLoss s t) t) t.uid fun t => { t with ptr := p, kept := none }) t.uid

/-- A thread that cannot park with its ack loss: it has exited, or its move waits on the lost effect (R273, R333). [DESIGN CHOICE, log entry 24] -/
def owesSettling (t : Thread) : Bool := (t.st == .exited || t.st == .moving) && !t.ackLost.isEmpty

/-- FCMD_RESUME (R371); a thread that cannot park with its lost acknowledgement is settled by the same command (R333). [DESIGN CHOICE, log entry 24] -/
def execFcmdResume (v : BitVec 64) (s : State) : Out :=
  let f := fcmdOf v
  match placedThread? s f isParked, placedThread? s f owesSettling with
  | some t, _ => .next (fcmdResult (resumeParked s t) v 0)
  | none, some t => .next (fcmdResult (settleAckLoss s t) v 0)
  | none, none => .next (fcmdResult s v 1)

/-- FCMD_REDIRECT (R371): the link word in FARG is checked as `ret` checks it. -/
def execFcmdRedirect (v : BitVec 64) (s : State) : Out :=
  match placedThread? s (fcmdOf v) isParked with
  | none => .next (fcmdResult s v 1)
  | some t => match checkLink s t.ctx (s.ap.farg.setWidth 32) with
    | .error _ => .next (fcmdResult s v 2)
    | .ok p => .next (fcmdResult (redirectParked s t p) v 0)

/-- A group in a dugout whose threads have all exited is wanted back where commands saved with it have yet to run (R247, R389). -/
def finishAway (s : State) (g gi : Nat) : State :=
  match group? s g gi with
  | some gr => if (threadsOf s g gi).all (fun t => t.st == .exited) && !commandsDone s gr then wakeGroup s g gi else s
  | none => s

/-- FCMD_KILL_THREAD (R371): it leaves as at `exit`, with no other effect. -/
def execFcmdKillThread (v : BitVec 64) (s : State) : Out :=
  match placedThread? s (fcmdOf v) isParked with
  | none => .next (fcmdResult s v 1)
  | some t => .next (fcmdResult (finishAway (leaveThread (if t.ackLost.isEmpty then s else settleAckLoss s t) t.uid) t.grid t.gidx) v 0)

/-- Commands of a group leave its core: queued copies are discarded, running ones stop, ops go (R280, R372). [DEDUCED, log entry 45] -/
def dropCommands (s : State) (gr : Group) : State :=
  match gr.at_ with
  | .dugout .. => s
  | .core vc =>
    let mine := (core s vc).copies.filter fun c => c.grid == gr.grid && c.gidx == gr.gidx
    let s1 := mine.foldl (fun s c => endCopy s vc { c with code := if c.code == 0 then 8 else c.code, stopped := true }) s
    modCore s1 vc fun k => { k with ops := k.ops.filter fun o => !(o.grid == gr.grid && o.gidx == gr.gidx) }

/-- The record of a killed group (R366). -/
def killRec (gr : Group) (cause : Nat) : EvRec :=
  let vc := match gr.at_ with
    | .core vc => vc
    | .dugout _ vc => vc
  ⟨0x12, cause, gr.ctx, vc, 2, 0, 0, 0, 0, 0, 0, []⟩

/-- A group is killed (R372): a provisional one is squashed, any other counts as retired. What its lost acknowledgements held back proceeds (R277, R333).
[DEDUCED, log entry 45] -/
def killGroup (s : State) (gr : Group) (cause : Nat) : State :=
  let lost := (threadsOf s gr.grid gr.gidx).filter fun t => !t.ackLost.isEmpty
  let s1 := postEvent (dropCommands (lost.foldl settleAckLoss s) gr) (killRec gr cause)
  match grid? s1 gr.grid with
  | none => s1
  | some g =>
    if provisional g then squashGroup s1 gr
    else
      let s2 := retireGroup s1 gr
      match gr.at_ with
      | .core vc => settleEntries s2 vc
      | .dugout .. => s2

/-- FCMD_KILL_GROUP (R371, R372). -/
def execFcmdKillGroup (v : BitVec 64) (s : State) : Out :=
  match placedThread? s (fcmdOf v) liveThread with
  | none => .next (fcmdResult s v 1)
  | some t => match group? s t.grid t.gidx with
    | some gr => if gr.st == .squashing then .next (fcmdResult s v 1) else .next (fcmdResult (killGroup s gr 1) v 0)
    | none => .next (fcmdResult s v 1)

/-- FCMD_WRITE_SLOT (R371): the slot takes FARG; the thread stays parked. The slot of a lost atomic is written so too while the thread's move waits
on it (R333). [DESIGN CHOICE, log entry 24] -/
def execFcmdWriteSlot (v : BitVec 64) (s : State) : Out :=
  let f := fcmdOf v
  match placedThread? s f fun t => isParked t || owesSettling t with
  | none => .next (fcmdResult s v 1)
  | some t => .next (fcmdResult (landSlots s t.uid f.lslot false (s.ap.farg.toNat % 2 ^ 32)) v 0)

/-- FCMD_REPOST (R371): the kept record of every parked thread of the context, in ascending virtual core and frame. -/
def execFcmdRepost (v : BitVec 64) (s : State) : Out :=
  let f := fcmdOf v
  let ts := sortBy (fun t => t.vc * 2048 + t.frame) (s.threads.filter fun t => t.ctx == f.ctx && isParked t)
  .next (fcmdResult (ts.foldl (fun s t => match t.kept with
    | some r => postEvent s r
    | none => s) s) v 0)

/-- FCMD_RESUME_KIND (R371). -/
def execFcmdResumeKind (v : BitVec 64) (s : State) : Out :=
  let f := fcmdOf v
  let ts := s.threads.filter fun t => t.ctx == f.ctx && isParked t && (t.kept.map (·.kind)) == some f.kind
  .next (fcmdResult (ts.foldl resumeParked s) v 0)

/-- A thread of a core that waits at commit: its instance has finished its last stage. -/
def atCommit (s : State) (vc : Nat) (t : Thread) : Bool :=
  t.resident && t.vc == vc && mayCommit s t && ((commitSite? s t).map allFired).getD false

/-- FCMD_STEP (R371, R375): on a halted core the thread at commit with the lowest frame commits once. [DEDUCED, log entry 49] -/
def execFcmdStep (v : BitVec 64) (s : State) : Out :=
  let vc := (fcmdOf v).vc
  if !halted s vc then .next (fcmdResult s v 3)
  else match leastBy (fun t => t.frame) (s.threads.filter (atCommit s vc)) with
    | some t => .next (fcmdResult (tryCommit s vc t.frame true) v 0)
    | none => .next (fcmdResult s v 1)

/-- DHALT_SET (R375). -/
def execDhaltSet (vc : Nat) (s : State) : Out :=
  if vc < 128 then .next { s with ap := { s.ap with dhalt := insertNat vc s.ap.dhalt } } else .next s

/-- DHALT_CLEAR (R375): the core goes on from where it stopped. -/
def execDhaltClear (vc : Nat) (s : State) : Out := .next { s with ap := { s.ap with dhalt := s.ap.dhalt.filter (· != vc) } }

/-! Errors in arrays (R376 to R378) -/

/-- A corrected error counts in the monitor block of a core or a compute die (R376, R407). -/
def countCorrected (s : State) (u : Nat) : State :=
  let up : Mon → Mon := fun m => { m with run := { m.run with cecc := m.run.cecc + 1 } }
  { s with pkg := { s.pkg with mons := modAt up s.pkg.mons u } }

/-- PATROL_SCRUB (R376): every line is read and corrected, and no value changes; the corrected errors met since the last pass
count in their monitor blocks. [DEDUCED, log entry 48] -/
def execPatrolScrub (what : ScrubPass) (s : State) : Out := .next (what.found.foldl countCorrected s)

/-- A group's record of a poisoned unit (R366, R378). -/
def unitRec (gr : Group) (vc n : Nat) : EvRec := ⟨0x0A, 4, gr.ctx, vc, 2, 0, 0, BitVec.ofNat 32 n, 0, 0, 0, []⟩

/-- The group that holds a unit is told (R378). [DEDUCED, log entry 48] -/
def tellUnit (s : State) (vc n : Nat) (p : Group → Bool) : State :=
  match (residents s vc).find? p with
  | some gr => postEvent s (unitRec gr vc n)
  | none => s

/-- An entry in error is invalidated, and it alone; it is fetched again when it is next used, a configuration at once where a thread waits for it (R133,
R376). [DEDUCED, log entry 48] -/
def invalidateEntry (s : State) (entry : CacheEntry) : State :=
  match entry with
  | .coreTlb vc ctx page => modCore s vc fun c => { c with tlb := c.tlb.filter fun e => !coversPage ctx page e }
  | .dieTlb d ctx page => modDie s d fun x => { x with tlb := x.tlb.filter fun e => !coversPage ctx page e }
  | .l1 vc ctx line => modCore s vc fun c => { c with l1 := c.l1.filter fun l => !(l.ctx == ctx && l.line == line) }
  | .bullpen vc ctx addr cid =>
    let mine : BullEnt → Bool := fun b => b.conf.ctx == ctx && b.conf.addr == addr && b.conf.cid == cid
    refetch (modCore s vc fun c => { c with bullpen := c.bullpen.filter fun b => !mine b }) vc (core s vc).bullpen

/-- An uncorrectable error at a site (R376 to R378). [DEDUCED, log entry 48] -/
def uncorrectable (s : State) (site : ErrorSite) : State :=
  match site with
  | .memory pa =>
    if s.hub.badSectors.contains (pa / 64) then s else { s with hub := { s.hub with badSectors := s.hub.badSectors ++ [pa / 64] } }
  | .lvs vc frame slot => match threadAt? s vc frame with
    | none => s
    | some t =>
      let o := originWord frame t.ptr.sidx 0x7F
      modThread s t.uid fun t => { t with slots := modAt (fun l => ⟨o, l.pres, true⟩) t.slots slot, lvsBad := insertNat slot t.lvsBad }
  | .hiddenSlot vc frame => match threadAt? s vc frame with
    | none => s
    | some t => if t.st == .admitted || t.st == .held then takeFault s t.uid ⟨0x0A, 2, 0, 0, 0⟩ else s
  | .scratch vc p => modStore s vc fun st => { st with badLines := insertNat (p / 64) st.badLines }
  | .operandSlot vc n =>
    let s1 := modSlot s vc n fun x => { x with bad := true }
    match (residents s vc).find? fun g => g.opsl.contains n with
    | some gr => tellUnit s1 vc ((gr.opsl.findIdx? (· == n)).getD n) fun g => g.opsl.contains n
    | none => s1
  | .accumulator vc n => tellUnit (modAcc s vc n fun t => { t with bad := true }) vc n fun g => (accTile s vc n).holder == some (g.grid, g.gidx)
  | .partialTile vc n => tellUnit (modPt s vc n fun t => { t with bad := true }) vc n fun g => (ptTile s vc n).holder == some (g.grid, g.gidx)
  | .refetched entry => invalidateEntry s entry

/-- UNCORRECTABLE_ERROR (R377, R378). [DEDUCED, log entry 48] -/
def execUncorrectableError (site : ErrorSite) (s : State) : Out := .next (uncorrectable s site)

end Sys2Proof.Machine
end

