-- ==== Sys2Proof/Machine/Sections.lean ====
section
/-! DEFINITION. The sections of a context image as bytes (R383 to R385): what a group takes along when it leaves its core, its group section, and
the section's reading back. -/
namespace Sys2Proof.Machine

/-! What a group takes along (R247, R385) -/

/-- A group's part of its core: scratchpad and presence relative to its units, its operand slots, the accumulators and partial tiles it holds,
its pending commands, its queued copies and its rings. -/
def gather (s : State) (gr : Group) (vc : Nat) : Saved :=
  let k := core s vc
  let st := k.store
  let lo := gr.spadBase * 16384
  let hi := lo + gr.spadUnits * 16384
  let mine : Nat → Nat → Bool := fun g gi => g == gr.grid && gi == gr.gidx
  let held : List Tile → List (Nat × Tile) := fun l => ((List.range l.length).zip l).filter fun a => a.2.holder == some (gr.grid, gr.gidx)
  { spad := (st.spad.filter fun c => decide (lo ≤ c.1) && decide (c.1 < hi)).map fun c => (c.1 - lo, c.2)
    absent := (st.absent.filter fun a => decide (lo / 64 ≤ a.1) && decide (a.1 < hi / 64)).map fun a => (a.1 - lo / 64, a.2)
    slots := gr.opsl.map fun p => st.slots.getD p OpSlot.reset
    accs := held st.accs
    pts := held st.pts
    ops := k.ops.filter fun o => mine o.grid o.gidx && o.st == .pending
    badLines := (st.badLines.filter fun l => decide (lo / 64 ≤ l) && decide (l < hi / 64)).map (· - lo / 64)
    copies := (k.copies.filter fun c => mine c.grid c.gidx).map fun c => { c with cleared := c.cleared.map (· - lo / 64), st := .reread none }
    rings := k.rings.filter fun r => mine r.grid r.gidx }

/-- Ops of the group that fired without writing since its last `tfence` (R319, R385). -/
def barrenOf (s : State) (gr : Group) (vc : Nat) : List (Nat × Nat) :=
  (core s vc).ops.filterMap fun o => match o.st with
    | .barren code n => if o.grid == gr.grid && o.gidx == gr.gidx then some (n, code) else none
    | .pending => none

/-- TFCODE and TFCOUNT with the ops that fired without writing joined to them (R385). -/
def joinBarren (s : State) (gr : Group) (vc : Nat) : Group :=
  let bs := barrenOf s gr vc
  { gr with
    tfCode := if gr.tfCode != 0 then gr.tfCode else ((leastBy (fun b => b.1) bs).map (·.2)).getD 0
    tfCount := gr.tfCount + bs.length }

/-- What a group holds beside its threads, wherever it is. -/
def savedOf (s : State) (gr : Group) : Saved :=
  match gr.at_, gr.saved with
  | .dugout .., some sv => sv
  | .dugout _ vc, none => gather s { gr with opsl := [], spadUnits := 0 } vc
  | .core vc, _ => gather s gr vc

/-! Sections (R383, R384) -/

/-- Bytes padded with zeros to a length. -/
def padTo (n : Nat) (bs : List Byte) : List Byte := bs ++ List.replicate (n - bs.length) 0

/-- Bytes padded with zeros to the next multiple of 64 (R383). -/
def pad64 (bs : List Byte) : List Byte := padTo (ceilDiv bs.length 64 * 64) bs

/-- A section's header with a check value (R384). -/
def sectionHead (type id len : Nat) (chk : BitVec 32) : List Byte :=
  bytesLE 2 type ++ bytesLE 2 1 ++ bytesLE 4 len ++ bytesLE 4 id ++ bytesLE 4 chk.toNat

/-- A section, without its padding. -/
def sectionOf (type id : Nat) (body : List Byte) : List Byte :=
  let len := 16 + body.length
  sectionHead type id len (crc32c (sectionHead type id len 0 ++ body)) ++ body

/-! Group sections (R385) -/

/-- Bits as a number, bit n for the n-th. -/
def bitsOf (l : List Bool) : Nat := l.reverse.foldl (fun n b => 2 * n + b.toNat) 0

/-- The pending wait that a frame record holds: the first barrier, collective, `sigwait` or `gwait` (R385). -/
def savedWait? (t : Thread) : Option Wait :=
  t.wait.bind fun w => w.waits.find? fun x => match x with
    | .effect _ => false
    | _ => true

/-- The word of a format S instruction with an opcode and a CTL field (R345). -/
def ctlWord (op ctl : Nat) : BitVec 32 := BitVec.ofNat 32 (op * 2 ^ 24 + ctl * 2 ^ 16)

/-- The thread's move waits for nothing that a frame record can hold: it only has yet to be made. -/
def movesOn (t : Thread) : Bool := t.st == .moving && (savedWait? t).isNone

/-- PTR of a frame record (R385): the segment, or for a thread that has committed the successor it moves to; all ones stand for `exit`.
[DESIGN CHOICE, log entry 64] -/
def savedPtr (t : Thread) : BitVec 32 :=
  match t.wait with
  | some w => (w.succ.map linkWord).getD 0xFFFFFFFF
  | none => linkWord t.ptr

/-- The thread's contribution to a collective of its group. -/
def contribOf (gr : Group) (t : Thread) (idx : Nat) : Option (Coll × Contrib) :=
  gr.colls.findSome? fun k => if waitsColl k.idx (.coll idx 64 false) then (k.contribs.find? fun c => c.uid == t.uid).map fun c => (k, c) else none

/-- A token's low 64 bits, or a poison's origin. -/
def tokBits : Tok → Nat
  | .null => 0
  | .poison o => o.toNat
  | .val b => b.toNat % 2 ^ 64

/-- The selector S of a collective's word (R90, R345). -/
def collSel (w : BitVec 32) : Nat := (readFmtA w).s.toNat

/-- The flag byte of a contribution: [0] null and, in a bit to which the layout gives no meaning, [1] poison. [DESIGN CHOICE, log entry 64] -/
def contribFlags : Tok → Nat
  | .null => 1
  | .poison _ => 2
  | .val _ => 0

/-- The 32 bytes of a frame record's pending wait (R385). [DESIGN CHOICE, log entry 64] -/
def waitBytes (gr : Group) (t : Thread) : List Byte :=
  let put : Nat → Nat → Nat → Nat → BitVec 32 → Nat → Nat → Nat → List Byte := fun kind n slot flags word gen val sig =>
    bytesLE 1 kind ++ bytesLE 1 n ++ bytesLE 1 slot ++ bytesLE 1 flags ++ bytesLE 4 word.toNat ++ bytesLE 8 gen ++ bytesLE 8 val ++ bytesLE 4 sig ++
    bytesLE 4 0
  let ff : Nat → Nat := fun k => if k < 64 then k else 0xFF
  match savedWait? t with
  | some (.bar n) => put 1 n 0xFF 0 (ctlWord 0x09 n) (gr.bars.getD n Bar.fresh).gen 0 0
  | some (.coll idx slot _) => match contribOf gr t idx with
    | some (k, c) => put 2 (collSel k.word) (ff slot) (contribFlags c.tok) k.word k.gen (tokBits c.tok) 0
    | none => put 2 0 (ff slot) 1 0 0 0 0
  | some (.sig _ n thr slot _ word) => put 3 0 (ff slot) 0 word 0 thr.toNat n
  | some .gwait => put 4 0 0xFF 0 (ctlWord 0x0C gr.gwScope) gr.gw.gen gr.gwThr.toNat gr.gwSig
  | some (.ownGwait n thr word) => put 4 0 0xFF 0 word 0 thr.toNat n
  | some (.effect _) | none => List.replicate 32 0

/-- The kept record of a thread, or that of a lost acknowledgement it has yet to park on (R333, R367). [DESIGN CHOICE, log entry 65] -/
def faultBytes (t : Thread) : List Byte :=
  match t.kept, t.ackRec with
  | some r, _ => recBytes r
  | none, some r => recBytes r
  | none, none => List.replicate 32 0

/-- The 384 bytes of a frame record (R385). [DESIGN CHOICE, log entry 64] -/
def frameBytes (gr : Group) (t : Thread) : List Byte :=
  let xst := bitsOf (t.xs.map (·.pres)) + bitsOf (t.xs.map (·.mark)) * 2 ^ 8 + t.depth * 2 ^ 16 + t.detached.toNat * 2 ^ 24 +
    (t.st == .parked).toNat * 2 ^ 25 +
    (t.st == .waiting || t.st == .unassigned || t.st == .starting || (movesOn t && t.wait.any fun w => w.succ.isSome)).toNat * 2 ^ 26
  t.slots.flatMap (fun l => bytesLE 4 l.val.toNat) ++ bytesLE 8 (bitsOf (t.slots.map (·.pres))) ++ bytesLE 8 (bitsOf (t.slots.map (·.mark))) ++
  t.xs.flatMap (fun l => bytesLE 4 l.val.toNat) ++ bytesLE 4 xst ++ bytesLE 4 t.tid ++ bytesLE 4 (savedPtr t).toNat ++ bytesLE 4 t.frame ++
  waitBytes gr t ++ faultBytes t

/-- An operand slot's entry (R385); it has no place for a poison mark. [DEDUCED, log entry 66] -/
def slotBytes (x : OpSlot) : List Byte :=
  padTo 16 (bytesLE 1 (if x.st == .full then 1 else 0) ++ bytesLE 1 x.tag ++ bytesLE 1 x.fmt ++ bytesLE 1 x.finite.toNat ++ bytesLE 1 x.qg) ++ memReadN x.tile 0 4096 ++ memReadN x.side 0 1024

/-- A partial tile's entry (R385). -/
def ptBytes (t : Tile) : List Byte :=
  memReadN t.cells 0 4096 ++ t.sa.flatMap (fun v => bytesLE 2 v.toNat) ++ t.sb.flatMap (fun v => bytesLE 2 v.toNat) ++
  padTo 16 (bytesLE 1 t.fp.toNat ++ bytesLE 1 t.e8.toNat)

/-- A thread's index among the group's frame records. -/
def frameIndex (ts : List Thread) (uid : Nat) : Nat := (ts.findIdx? fun t => t.uid == uid).getD 0

/-- A matching-store entry (R385); it has no place for the region and the issuer of a `tacld`. [DEDUCED, log entry 66] -/
def opBytes (o : Op) : List Byte := padTo 16 (bytesLE 4 o.word.toNat ++ bytesLE 1 o.tag ++ bytesLE 1 o.zsk.toNat)

/-- A restartable copy's entry (R385); c1 of a gather or scatter holds the list's offset. [DEDUCED, log entry 66] -/
def copyEntry (ts : List Thread) (c : Copy) : List Byte :=
  let cs := if isRows c then setAt c.coords 1 (c.listOff : Int) else c.coords
  bytesLE 4 c.word.toNat ++ bytesLE 4 (frameIndex ts c.uid) ++ (List.range 5).flatMap (fun i => bytesLE 4 (wrap 32 (cs.getD i 0))) ++
  bytesLE 8 c.placeW.toNat ++ (List.range 3).flatMap (fun i => bytesLE 4 (c.box.getD i 0).toNat) ++ List.replicate 16 0

/-- A ring's entry (R385); `sec` gives the group section of a bound sender. -/
def ringEntry (sec : Nat → Nat) (r : Ring) : List Byte :=
  bytesLE 4 r.off ++ bytesLE 4 (r.tb + (r.dp - 1) * 2 ^ 20) ++ bytesLE 1 r.v ++ bytesLE 1 0 ++ bytesLE 2 r.wc ++ bytesLE 2 r.fc ++
  bytesLE 2 ((r.bound.map sec).getD 0xFFFF)

/-- The presence bits of a unit, line 0 first (R385). [DEDUCED, log entry 37] -/
def presenceBytes (sv : Saved) (u : Nat) : List Byte :=
  bytesLE 32 (bitsOf ((List.range 256).map fun i => !sv.absent.any fun a => a.1 == 256 * u + i))

/-- GST of a group section (R385). -/
def groupGst (s : State) (gr : Group) : Nat :=
  if gr.st == .provDone then 2 else if ((grid? s gr.grid).map provisional).getD false then 1 else 0

/-- The fixed part and the arrays of a group section behind its header (R385). -/
def groupBody (s : State) (gr0 : Group) (gridId : Nat) (sec : Nat → Nat) : List Byte :=
  let sv := savedOf s gr0
  let (vc, dug) := match gr0.at_ with
    | .core vc => (vc, false)
    | .dugout _ vc => (vc, true)
  let gr := if dug then gr0 else joinBarren s gr0 vc
  let ts := threadsOf s gr.grid gr.gidx
  let nslot := ((grid? s gr.grid).map fun g => recNslot g.raw).getD 0
  bytesLE 4 gridId ++ bytesLE 4 0 ++ bytesLE 8 gr.gidx ++ bytesLE 1 gr.vd ++ bytesLE 1 (vc % 16) ++ bytesLE 1 (groupGst s gr) ++
  bytesLE 1 (gr.zsk.toNat + 2 * dug.toNat) ++ bytesLE 4 ts.length ++
  bytesLE 1 nslot ++ bytesLE 1 sv.slots.length ++ bytesLE 1 gr.spadUnits ++ bytesLE 1 sv.ops.length ++
  bytesLE 1 sv.copies.length ++ bytesLE 1 sv.rings.length ++ bytesLE 2 (sv.accs.foldl (fun n a => n + 2 ^ a.1) 0) ++
  padTo 16 (bytesLE 1 (sv.pts.foldl (fun n a => n + 2 ^ a.1) 0) ++ bytesLE 1 gr.tfCode ++ bytesLE 3 (min gr.tfCount 0xFFFFFF)) ++
  (List.range 4).flatMap (fun i => let b := gr.bars.getD i Bar.fresh; bytesLE 4 b.gen ++ bytesLE 2 b.arrived.length ++ bytesLE 2 0) ++
  padTo 32 (bytesLE 4 gr.gw.gen ++ bytesLE 2 gr.gw.arrived.length ++ bytesLE 2 (if gr.gw.arrived.isEmpty then 0 else 2 ^ 15 + gr.gwSig) ++
    bytesLE 8 gr.gwThr.toNat ++ bytesLE 1 gr.gwScope) ++
  ts.flatMap (frameBytes gr) ++
  memReadN sv.spad 0 (16384 * gr.spadUnits) ++ (List.range gr.spadUnits).flatMap (presenceBytes sv) ++
  sv.slots.flatMap slotBytes ++ (sortBy (fun a => a.1) sv.accs).flatMap (fun a => memReadN a.2.cells 0 8192) ++
  (sortBy (fun a => a.1) sv.pts).flatMap (fun a => ptBytes a.2) ++
  sv.ops.flatMap opBytes ++ sv.copies.flatMap (copyEntry ts) ++ sv.rings.flatMap (ringEntry sec)

/-! Group sections read back (R386) -/

/-- A record as read (R365). -/
def readRec (b : List Byte) : EvRec :=
  let f := fun (o n : Nat) => natLE ((b.drop o).take n)
  ⟨f 0 1, f 1 1, f 2 2, f 4 1, f 5 1, f 6 2, BitVec.ofNat 32 (f 8 4), BitVec.ofNat 32 (f 0x0C 4), f 0x10 8, BitVec.ofNat 32 (f 0x18 4),
   BitVec.ofNat 32 (f 0x1C 4), []⟩

/-- Slots of values, presence and marks. -/
def readSlots (n vals pres marks : Nat) : List Slot :=
  (List.range n).map fun i => ⟨BitVec.ofNat 32 (bits vals (32 * i) 32), bit pres i, bit marks i⟩

/-- The results of a collective's word are 64 bits wide (R352). -/
def wideColl (w : BitVec 32) : Bool := collWidth (readFmtA w) == 64

/-- The pending wait of a frame record, as a move to what PTR says. [DESIGN CHOICE, log entry 64] -/
def readWait (det : Bool) (ptr : BitVec 32) (b : List Byte) : Option MoveWait :=
  let f := fun (o n : Nat) => natLE ((b.drop o).take n)
  let slot := if f 2 1 < 64 then f 2 1 else 64
  let w : BitVec 32 := BitVec.ofNat 32 (f 4 4)
  let thr : BitVec 64 := BitVec.ofNat 64 (f 0x10 8)
  let mk : Wait → Option MoveWait := fun x => some ⟨if ptr == 0xFFFFFFFF then none else some (ofLink ptr), false, [x]⟩
  match f 0 1 with
  | 1 => mk (.bar (f 1 1 % 4))
  | 2 => mk (.coll 128 slot (wideColl w))
  | 3 => mk (.sig (readFmtT w).ord.toNat (f 0x18 4) thr slot (semAcq (readFmtT w)) w)
  | 4 => mk (if det then .ownGwait (f 0x18 4) thr w else .gwait)
  | _ => none

/-- A thread's record as the image holds it, in the context that it is restored to; the continuation of an acknowledgement loss is not in it (R366,
R385). [DESIGN CHOICE, log entry 65] -/
def readKept (uid ctx : Nat) (b : List Byte) : EvRec :=
  let r := { readRec b with ctx := ctx }
  if r.kind == 5 then { r with cont := (List.range 3).map fun k => BitVec.ofNat 64 (Config.unsaved uid k) } else r

/-- The slots of a frame record whose mark names an error of the array rather than a word (R378, R385): IDX 0x7F in its origin word.
[DEDUCED, log entry 66] -/
def readBad (slots : List Slot) : List Nat :=
  (List.range slots.length).filter fun n => let l := slots.getD n Slot.empty; l.mark && bits l.val.toNat 0 7 == 0x7F

/-- A thread from its frame record; its place comes with its group's (R386). [DESIGN CHOICE, log entry 64] -/
def readFrame (uid ctx grid gidx vc now : Nat) (b : List Byte) : Thread :=
  let f := fun (o n : Nat) => natLE ((b.drop o).take n)
  let xst := f 0x130 4
  let wait := readWait (bit xst 24) (BitVec.ofNat 32 (f 0x138 4)) ((b.drop 0x140).take 32)
  let flt := (b.drop 0x160).take 32
  let r := if flt.all (· == 0) then none else some (readKept uid ctx flt)
  let parked := bit xst 25
  let slots := readSlots 64 (f 0 256) (f 0x100 8) (f 0x108 8)
  { uid := uid, ctx := ctx, grid := grid, gidx := gidx, vc := vc, frame := f 0x13C 4, resident := false, tid := f 0x134 4, detached := bit xst 24
    depth := bits xst 16 8, ptr := ofLink (BitVec.ofNat 32 (f 0x138 4)), slots := slots
    xs := readSlots 8 (f 0x110 32) (bits xst 0 8) (bits xst 8 8)
    st := if parked then .parked else if bit xst 26 then .waiting else if wait.isSome then .moving else .exited
    seq := 1, inst := none, wait := wait, kept := if parked then r else none, parkAt := now
    ackLost := if parked then [] else if r.isSome then [0] else [], ackRec := if parked then none else r, lvsBad := readBad slots, parkLarge := false
    owesYield := false, bitAt := none, statusAt := [] }

/-- An operand slot from its entry. -/
def readSlotEntry (b : List Byte) : OpSlot :=
  let f := fun (o : Nat) => natLE ((b.drop o).take 1)
  ⟨if f 0 == 1 then .full else .empty, f 1, f 2, f 3 == 1, f 4, runCells 0 ((b.drop 16).take 4096), runCells 0 ((b.drop 4112).take 1024), false⟩

/-- A partial tile from its entry, held by a group. -/
def readPart (ctx grid gidx : Nat) (b : List Byte) : Tile :=
  let sc := fun (o : Nat) => (List.range 32).map fun i => BitVec.ofNat 16 (natLE ((b.drop (o + 2 * i)).take 2))
  ⟨some (grid, gidx), ctx, runCells 0 (b.take 4096), sc 4096, sc 4160, natLE ((b.drop 4224).take 1) == 1, natLE ((b.drop 4225).take 1) == 1, false⟩

/-- A pending command from its entry; its issuer and the region of a `tacld` are open. [DESIGN CHOICE, log entry 64] -/
def readOp (id ctx grid gidx vc : Nat) (uids : List Nat) (b : List Byte) : Op :=
  let f := fun (o n : Nat) => natLE ((b.drop o).take n)
  ⟨id, ctx, grid, gidx, vc, uids.getD (Config.unsaved id 0 % uids.length) 0, BitVec.ofNat 32 (f 0 4), f 4 1, f 5 1 == 1,
    Config.unsaved id 1 % 2 ^ 32, .pending, []⟩

/-- A claim or release of a unit by its word. -/
def unitWord (w : BitVec 32) : Bool := cmdOp w == 0xD0 || cmdOp w == 0xD1

/-- Operand slots by the group's numbers that a command's word names: those of a claim or release of slots, and A and B of an op (R300, R313). -/
def cmdSlots (w : BitVec 32) : List Nat :=
  if unitWord w then (if (cmdE w).x.toNat / 16 == 0 then [(cmdE w).slot.toNat] else [])
  else if cmdOp w == 0xD2 || cmdOp w == 0xD3 || cmdOp w == 0xD4 then [(cmdE w).slot.toNat, (cmdE w).x.toNat] else []

/-- The restored fills that a restored claim or release waits for (R294, R299, R314): those that an op issued before it takes, and, where no op before
it names its slot, those on the slot. The image does not say which was issued first. [DEDUCED, log entry 66] -/
def fillsBefore (ops : List Op) (copies : List Copy) (o : Op) : List Nat :=
  if !unitWord o.word then []
  else
    let before := ops.filter fun p => decide (p.id < o.id) && !unitWord p.word
    (copies.filter fun c => copyOp c == 0xC2 && (cmdSlots o.word).contains (fillSlot c) &&
      (let users := before.filter fun p => (cmdSlots p.word).contains (fillSlot c)
       users.isEmpty || users.any fun p => p.tag == fillTag c)).map (·.id)

/-- A restartable copy from its entry: its layout record is read again (R299). -/
def readCopy (id ctx grid gidx vc : Nat) (uids : List Nat) (b : List Byte) : Copy :=
  let f := fun (o n : Nat) => natLE ((b.drop o).take n)
  let w : BitVec 32 := BitVec.ofNat 32 (f 0 4)
  let rows := cmdOp w == 0xC7 || cmdOp w == 0xC8
  { id := id, ctx := ctx, grid := grid, gidx := gidx, vc := vc, uid := uids.getD (f 4 4) 0, seq := 0, ord := 0, word := w, layout := none
    box := (List.range 3).map fun i => BitVec.ofNat 32 (f (0x24 + 4 * i) 4)
    coords := (List.range 5).map fun i => if rows && i == 1 then 0 else toSigned 32 (f (8 + 4 * i) 4)
    placeW := BitVec.ofNat 32 (f 0x1C 4), listOff := if rows then f 0x0C 4 else 0, st := .reread none, pos := 0, clip := 0, code := 0, stopped := false
    cleared := [], targets := [], finite := true, waits := none }

/-- A copy that cleared presence bits at its commit (R280). -/
def clearsLines (c : Copy) : Bool := copyOp c == 0xC0 || copyOp c == 0xC3 || copyOp c == 0xC7

/-- A ring from its entry; `owner` gives the group of a section. The counters are saved modulo 2^16, which keeps their difference (R299, R385).
[DEDUCED, log entry 66] -/
def readRing (grid gidx : Nat) (owner : Nat → Option Nat) (b : List Byte) : Ring :=
  let f := fun (o n : Nat) => natLE ((b.drop o).take n)
  ⟨grid, f 8 1, gidx, f 0 4, bits (f 4 4) 0 17, bits (f 4 4) 20 4 + 1, if f 10 2 < f 12 2 then f 10 2 + 65536 else f 10 2, f 12 2, if f 14 2 == 0xFFFF then none else owner (f 14 2)⟩

/-- Consecutive entries of `w` bytes. -/
def entries (w n : Nat) (b : List Byte) : List (List Byte) := (List.range n).map fun i => (b.drop (w * i)).take w

/-- The lines that the presence bits of a region leave clear, each held so by every restored copy that may have cleared it, until the copy's record
tells whether it did (R299). [DEDUCED, log entry 66] -/
def readAbsent (units : Nat) (b : List Byte) (copies : List Copy) : List (Nat × Nat) :=
  (List.range (256 * units)).filterMap fun l =>
    if bit (natLE ((b.drop (l / 8)).take 1)) (l % 8) then none else some (l, max 1 (copies.filter clearsLines).length)

/-- A restored copy holds the clear lines of its group that it may have cleared. -/
def holdAbsent (absent : List (Nat × Nat)) (c : Copy) : Copy := if clearsLines c then { c with cleared := absent.map (·.1) } else c

/-! Reserved bytes of an image (R3, R384, R385) -/

/-- The `n` bytes at an offset are zero. -/
def zerosAt (b : List Byte) (o n : Nat) : Bool := ((b.drop o).take n).all (· == 0)

/-- Every one of `n` entries of `w` bytes has `k` zeros at offset `o`. -/
def entriesZero (w n o k : Nat) (b : List Byte) : Bool := (entries w n b).all fun e => zerosAt e o k

/-- The reserved fields of a record are zero (R332, R365, R366): of a continuation the bytes behind its kind. [DEDUCED, log entry 68] -/
def recordOk (b : List Byte) : Bool :=
  let f := fun (o n : Nat) => natLE ((b.drop o).take n)
  if f 0 1 == 0x11 then zerosAt b 1 7
  else decide (f 5 1 < 8) && decide (f 6 2 < 2048) && (f 0 1 != 5 || f 0x0C 4 % 16 == 0) && (f 0 1 != 7 || !bit (f 0x0C 4) 3)

/-- Reserved fields of the arrays of a group section (R385); `b` starts behind its header. -/
def groupReserved (b : List Byte) : Bool :=
  let f := fun (o n : Nat) => natLE ((b.drop (o - 16)).take n)
  let (nth, opsl, units, nms, ncp, nrg) := (f 0x24 4, f 0x29 1, f 0x2A 1, f 0x2B 1, f 0x2C 1, f 0x2D 1)
  let nacc := ((List.range 16).filter (bit (f 0x2E 2))).length
  let npt := ((List.range 8).filter (bit (f 0x30 1))).length
  let a0 := b.drop 0x70
  let a1 := a0.drop (384 * nth + 16416 * units)
  let a2 := a1.drop (5136 * opsl + 8192 * nacc)
  let a3 := a2.drop (4240 * npt)
  let a4 := a3.drop (16 * nms)
  f 0x14 4 == 0 && decide (f 0x23 1 < 4) && f 0x35 11 == 0 && entriesZero 8 4 6 2 (b.drop 0x30) && f 0x71 15 == 0 &&
  (entries 384 nth a0).all (fun e => decide (natLE ((e.drop 0x130).take 4) < 2 ^ 27) && zerosAt e 0x15C 4 && recordOk ((e.drop 0x160).take 32)) && entriesZero 5136 opsl 5 11 a1 &&
  entriesZero 4240 npt 4226 14 a2 && entriesZero 16 nms 6 10 a3 && entriesZero 64 ncp 48 16 a4 && entriesZero 16 nrg 9 1 (a4.drop (64 * ncp))

/-- The reserved fields of a section, and of the records in it, are zero (R3, R110, R365, R384, R385). [DEDUCED, log entry 68] -/
def sectionReserved (type : Nat) (b : List Byte) : Bool :=
  let f := fun (o n : Nat) => natLE ((b.drop (o - 16)).take n)
  match type with
  | 1 => f 0x11C 36 == 0 && entriesZero 32 128 28 4 (b.drop 0x1130) && (entries 32 (min (f 0x110 4) 64) (b.drop 0x2130)).all recordOk
  | 2 => entriesZero 64 (b.length / 64) 2 2 b
  | 3 => !recReserved (BitVec.ofNat 512 (f 0x10 64)) && decide (f 0x3A8 4 < 8) && bits (f 0x3C0 4) 0 12 == 0 && f 0x3C4 60 == 0
  | 4 => groupReserved b
  | _ => true

end Sys2Proof.Machine
end

