-- ==== Sys2Proof/Machine/Quiesce.lean ====
section
/-! DEFINITION. Dugouts (R247), the quiesce of a context and its cut (R379 to R382), and the warm reset of a die (R387, R388). -/
namespace Sys2Proof.Machine

/-! Eviction to a dugout (R247) -/

/-- A thread keeps its group on the core: it is admissible, is admitted, waits at commit, or waits in `sigwait` (R247, R355). -/
def keepsGroup (s : State) (t : Thread) : Bool :=
  match t.st with
  | .starting | .admitted | .held => true
  | .waiting => ((entryOf? s t.vc t.grid t.ptr).bind (entryConf? s t.vc)).any fun k => admissible s k t
  | .moving => t.wait.any fun w => w.waits.any fun x => match x with
    | .sig .. => true
    | _ => false
  | .unassigned | .parked | .exited => false

/-- A volley that runs writes into the scratchpad of the group (R289). -/
def volleyInto (s : State) (gr : Group) (vc : Nat) : Bool :=
  let lo := gr.spadBase * 16384
  let hi := lo + gr.spadUnits * 16384
  s.cores.any fun k => k.copies.any fun c => c.targets.any fun t => t.1 == vc && decide (lo ≤ t.2) && decide (t.2 < hi)

/-- The group has no copy or matrix op in flight, no volley is running into it, and no scratchpad write of it pends (R247, R289).
[DEDUCED, log entry 51] -/
def groupIdle (s : State) (gr : Group) (vc : Nat) : Bool :=
  !(core s vc).copies.any (fun c => c.grid == gr.grid && c.gidx == gr.gidx) &&
  !(core s vc).ops.any (fun o => o.grid == gr.grid && o.gidx == gr.gidx && o.st == .pending) && !volleyInto s gr vc &&
  s.effects.all fun e => !ofGroup gr e || !scratchOwed e

/-- DG_LIMIT of a context. -/
def dgLimit (s : State) (ctx : Nat) : Nat := ((ctx? s ctx).map fun c => c.regs.dgLimit.toNat).getD 0

/-- Some thread has been parked, or the group has fully arrived at `gwait`, for DG_LIMIT (R247, R356). [DEDUCED, log entry 52] -/
def longParked (s : State) (gr : Group) : Bool :=
  let now := watchNow s gr.ctx
  let lim := dgLimit s gr.ctx
  (threadsOf s gr.grid gr.gidx).any (fun t => isParked t && decide (t.parkAt + lim ≤ now)) ||
  (allArrived s gr.grid gr.gidx gr.gw.arrived && decide (gr.gw.since + lim ≤ now))

/-- A group is due for a dugout (R247). [DEDUCED, log entry 51] -/
def evictable (s : State) (gr : Group) (vc : Nat) : Bool :=
  gr.st == .running && (threadsOf s gr.grid gr.gidx).all (fun t => !keepsGroup s t) && groupIdle s gr vc && longParked s gr

/-- The lowest free dugout frame (R370). -/
def freeDugoutFrame? (s : State) : Option Nat :=
  firstBelow (fun k => !s.hub.dugouts.any fun d => d.1 == k) s.ap.dgpN.toNat

/-- The order of a grid among its context's active grids, as grid sections are numbered (R383). -/
def gridOrder (s : State) (ctx id : Nat) : Nat := ((s.grids.filter fun g => g.ctx == ctx).findIdx? fun g => g.id == id).getD 0

/-- The groups of a context that an image holds, in ascending grid and group index (R383, R385). -/
def imageGroups (s : State) (ctx : Nat) : List Group :=
  sortBy (fun g => gridOrder s ctx g.grid * 2 ^ 33 + g.gidx) (s.groups.filter fun g => g.ctx == ctx && g.st != .squashing && g.st != .squashed && g.st != .retired)

/-- The number of a group's section (R385). -/
def sectionNo (s : State) (ctx grid gidx : Nat) : Nat :=
  ((imageGroups s ctx).findIdx? fun g => g.grid == grid && g.gidx == gidx).getD 0xFFFF

/-- A group's section as bytes (R385). -/
def groupSection (s : State) (gr : Group) : List Byte :=
  sectionOf 4 (sectionNo s gr.ctx gr.grid gr.gidx) (groupBody s gr (gridOrder s gr.ctx gr.grid) (sectionNo s gr.ctx gr.grid))

/-- Physical address of a dugout frame (R370). -/
def dugoutPa (s : State) (k : Nat) : Nat := bits s.ap.dgpBase.toNat 22 30 * 2 ^ 22 + k * 2 ^ 22

/-- A group's threads and what it holds leave its core for a dugout frame (R247). -/
def leaveCore (s : State) (gr : Group) (vc k : Nat) (sv : Saved) (kept : Group) : State :=
  let mine : Nat → Nat → Bool := fun g gi => g == gr.grid && gi == gr.gidx
  let away : Thread → Thread := fun t => { t with resident := false, inst := none }
  let there : Group → Group := fun x => { x with
    at_ := .dugout k vc, wantIn := false, saved := some sv, tfCode := kept.tfCode, tfCount := kept.tfCount }
  let s1 := releaseUnits s vc gr.grid gr.gidx
  { s1 with
    threads := modWhere (fun t => mine t.grid t.gidx) away s1.threads
    groups := modWhere (fun x => mine x.grid x.gidx) there s1.groups
    hub := { s1.hub with dugouts := s1.hub.dugouts ++ [(k, gr.grid, gr.gidx)] } }

/-- A group goes to a dugout frame (R247): its section is written there and its resources are released. -/
def evictTo (s : State) (gr : Group) (vc k : Nat) : State :=
  let s1 := leaveCore (hubWrite s (dugoutPa s k) (groupSection s gr)) gr vc k (gather s gr vc) (joinBarren s gr vc)
  settleEntries (settleOps s1 vc) vc

/-- DUGOUT_EVICT (R247): a group for which no frame is free stays resident. -/
def execDugoutEvict (g : Nat) (s : State) : Out :=
  match groupNo? s g with
  | none => .next s
  | some gr => match gr.at_, freeDugoutFrame? s with
    | .core vc, some k => if evictable s gr vc then .next (evictTo s gr vc k) else .next s
    | _, _ => .next s

/-! Settling instances (R380) -/

/-- The thread's instance has entered its last stage. -/
def inLastStage (s : State) (t : Thread) : Bool :=
  match t.inst with
  | some ins => match placeAt? s t.vc ins.place with
    | some pl => decide (lastStage pl.stage ≤ stageNow ins)
    | none => false
  | none => false

/-- An admitted instance is settled by the first rule that applies (R380). -/
def settleInst (s : State) (t : Thread) : State :=
  match t.inst with
  | none => s
  | some ins =>
    if halted s t.vc || ins.commitAt.isSome || t.st == .held then rerun s t.uid
    else if inLastStage s t then s
    else rerun s t.uid

/-- Every admitted instance among some threads is settled (R380, R387). -/
def settleInsts (s : State) (p : Thread → Bool) : State := (s.threads.filter p).foldl settleInst s

/-! The phases (R379 to R382) -/

/-- No instance of these threads is admitted and uncommitted. -/
def noInst (s : State) (p : Thread → Bool) : Bool := s.threads.all fun t => !p t || t.inst.isNone

/-- A copy that has started. -/
def copyRuns (c : Copy) : Bool := match c.st with
  | .running _ => true
  | _ => false

/-- Every copy of a context that runs has completed, and so has every one of its squashing groups, which are not recorded restartable (R125, R379, R381).
[DEDUCED, log entry 53] -/
def copiesSettled (s : State) (ctx : Nat) : Bool :=
  s.cores.all fun k => k.copies.all fun c => c.ctx != ctx || !(copyRuns c || squashes s c.grid c.gidx)

/-- The copies of a context that have not started are recorded restartable (R299, R381); those of a squashing group still run (R125, R385). -/
def restartable (s : State) (ctx : Nat) : State :=
  let f : Copy → Copy := fun c => if c.ctx == ctx && !copyRuns c && !squashes s c.grid c.gidx then { c with st := .reread none } else c
  { s with cores := s.cores.map fun k => { k with copies := k.copies.map f } }

/-- A matrix command of a core can still finish: an op that may fire, a `tacst`, or a `tfence` with nothing before it (R299, R379). -/
def opCanFinish (s : State) (vc : Nat) (o : Op) : Bool :=
  o.st == .pending && (opReady s vc o || cmdOp o.word == 0xD7 ||
    (cmdOp o.word == 0xD9 && !(issuedBefore s vc o).any fun y => y.grid == o.grid && y.gidx == o.gidx && cmdOp y.word != 0xD0 && cmdOp y.word != 0xD1))

/-- Every matrix op of a context has fired, or cannot. -/
def opsDone (s : State) (ctx : Nat) : Bool :=
  (List.range s.cores.length).all fun vc => (core s vc).ops.all fun o => o.ctx != ctx || !opCanFinish s vc o

/-- A committed effect is performed at .s, acknowledged or resolved, and landed (R379). -/
def effectOver (s : State) (e : Effect) : Bool := performedAt s 4 e && (ackDone e || e.lost) && (e.landed || e.lost)

/-- Every committed effect of a context is over, and no group of it is squashing. -/
def effectsOver (s : State) (ctx : Nat) : Bool :=
  s.effects.all (fun e => e.ctx != ctx || effectOver s e) && s.groups.all fun g => g.ctx != ctx || g.st != .squashing

/-- The phase of a context set. -/
def setPhase (s : State) (ctx n : Nat) : State := modCtx s ctx fun c => { c with regs := { c.regs with phase := n } }

/-- The phase's condition of R379 holds for the next phase; the cut itself sets the phase that follows it (R382). [DEDUCED, log entry 53] -/
def phaseReady (s : State) (ctx : Nat) (c : Ctx) : Bool :=
  match c.regs.phase with
  | 1 => s.groups.all fun g => g.ctx != ctx || g.st != .starting
  | 2 => noInst s fun t => t.ctx == ctx
  | 3 => copiesSettled s ctx
  | 4 => opsDone s ctx
  | 5 => effectsOver s ctx
  | _ => false

/-- What the machine does as a phase is reached: at 2 the instances settle, at 4 the queued copies are recorded restartable, at 6 the dies are
marked for the cut, and threads whose waits are over have moved before it (R273, R380 to R382). [DEDUCED, log entry 53] -/
def enterPhase (s : State) (ctx n : Nat) : State :=
  let s1 := setPhase s ctx n
  match n with
  | 2 => settleInsts s1 fun t => t.ctx == ctx
  | 4 => restartable s1 ctx
  | 6 => modCtx s1 ctx fun c => { c with cutDies := [] }
  | _ => s1

/-- QUIESCE_REQUEST (R379). -/
def execQuiesceRequest (ctx : Nat) (s : State) : Out := .next (writeReq s ctx true)

/-- QUIESCE_PHASE_ADVANCE (R379): in phase 2 instances that have come to wait settle too. -/
def execQuiescePhaseAdvance (ctx : Nat) (s : State) : Out :=
  let s0 := if phaseOf s ctx == 2 then settleInsts s fun t => t.ctx == ctx else s
  match ctx? s0 ctx with
  | none => .next s0
  | some c => if phaseReady s0 ctx c then .next (enterPhase s0 ctx (c.regs.phase + 1)) else .next s0

/-- No message of the context remains on a die (R382): its effects have left it, its completion decrements are made, no group of it is still being
squashed, no thread can still move. [DEDUCED, log entry 53] -/
def dieQuiet (s : State) (ctx d : Nat) : Bool :=
  (die s d).st == .offline ||
  (s.effects.all (fun e => e.ctx != ctx || dieOf s e.vc != d || effectOver s e) && (s.grids.all fun g => g.ctx != ctx || (!g.owedAll && g.owed.isEmpty)) &&
   (s.groups.all fun g => g.ctx != ctx || g.st != .squashing) &&
   s.threads.all fun t => t.ctx != ctx || t.st != .moving || !t.resident || dieOf s t.vc != d || (match t.wait with
     | some w => !w.waits.all (waitOver s)
     | none => true))

/-- Every die that has answered the mark of a context is still quiet, since it holds new messages (R382). -/
def answersStand (s : State) (ctx : Nat) (l : List Nat) : Bool := l.all (dieQuiet s ctx)

/-- DIE_CUT_ANSWER (R382): a die answers the mark; with the eighth answer the hub records the cut and sets PHASE = 7. [DEDUCED, log entry 53] -/
def execDieCutAnswer (ctx d : Nat) (s : State) : Out :=
  match ctx? s ctx with
  | none => .next s
  | some c =>
    let l := insertNat d c.cutDies
    if c.regs.phase != 6 || 8 ≤ d || !answersStand s ctx l then .next s
    else
      let s1 := modCtx s ctx fun c => { c with cutDies := l }
      .next (if l.length == 8 then enterPhase s1 ctx 7 else s1)

/-- Shape points latched after the cut are applied (R381). [DEDUCED, log entry 53] -/
def applyLatched (s : State) (ctx : Nat) : State :=
  s.grids.foldl (fun s g => if g.ctx != ctx then s else match g.spec.bind (·.latched) with
    | some w =>
      let clear : Grid → Grid := fun x => { x with spec := x.spec.map fun sp => { sp with latched := none } }
      shapePoint (modGrid s g.id clear) (clear g) w
    | none => s) s

/-- A context resumes (R379): PHASE returns to 0, and what was observed since the cut takes its effect. -/
def resumeCtx (s : State) (ctx : Nat) : State :=
  let s1 := modCtx s ctx fun c => { c with cutDies := [], regs := { c.regs with phase := 0 } }
  retestWaits (retestHeads (applyLatched s1 ctx) ctx) ctx

/-- QUIESCE_RESUME (R379): REQ is 0 at phase 7 or 8. -/
def execQuiesceResume (ctx : Nat) (s : State) : Out :=
  match ctx? s ctx with
  | some c => if !c.regs.req && 7 ≤ c.regs.phase then .next (resumeCtx s ctx) else .next s
  | none => .next s

/-! Warm reset of a die (R387, R388) -/

/-- The die whose reset is under way: its STATE is not 0 (R387); one whose stack has been offline since the start is not in a reset (R401). -/
def resetDie? (s : State) : Option Nat := (List.range 8).find? fun d => (die s d).st != .running && !s.pkg.offStacks.contains d

/-- The die whose STATE a read of DRST shows: the one in reset, else the one that it names. [DEDUCED, log entry 54] -/
def drstDie (s : State) : Nat := (resetDie? s).getD (s.ap.drst.toNat % 8)

/-- A die in one of the states of a reset. -/
def resetting? (s : State) (st : DieSt) : Option Nat := (resetDie? s).filter fun d => (die s d).st == st

/-- The virtual cores on a die. -/
def coresOn (s : State) (d : Nat) : List Nat := (List.range 128).filter fun vc => dieOf s vc == d

/-- A thread is resident on a die. -/
def threadOn (s : State) (d : Nat) (t : Thread) : Bool := t.resident && dieOf s t.vc == d

/-- A die's state set. -/
def setDie (s : State) (d : Nat) (st : DieSt) : State := modDie s d fun x => { x with st := st }

/-- A write of DRST with GO = 1 is dropped: STATE is not 0 (R387). -/
def drstBusy (s : State) (v : BitVec 32) : Bool := (resetDie? s).isSome || (die s (v.toNat % 8)).st != .running

/-- DRST_GO (R387): a write of DRST; one with GO = 1 while STATE is not 0 is dropped, and GO reads 1 until STATE returns to 0.
[DEDUCED, log entry 54] -/
def execDrstGo (v : BitVec 32) (s : State) : Out :=
  let w := v &&& 0x80000107
  if v.getLsbD 31 then
    if drstBusy s v then .next s
    else
      let d := v.toNat % 8
      .next (settleInsts (setDie { s with ap := { s.ap with drst := w } } d .draining) (threadOn s d))
  else .next { s with ap := { s.ap with drst := w ||| (s.ap.drst &&& 0x80000000) } }

/-- The die has drained: no instance, no running copy, no op that can finish, every effect placed, no group squashing (R387). -/
def drained (s : State) (d : Nat) : Bool :=
  noInst s (threadOn s d) &&
  (coresOn s d).all (fun vc => (core s vc).copies.all (fun c => !copyRuns c) && (core s vc).ops.all (fun o => !opCanFinish s vc o)) &&
  s.effects.all (fun e => dieOf s e.vc != d || e.lost || (performedAt s 1 e && e.landed && (e.runs.isEmpty || e.st == .placed))) &&
  s.groups.all fun g => match g.at_ with
    | .core vc => dieOf s vc != d || (g.st != .squashing && g.st != .starting)
    | .dugout .. => true

/-- A group of the die is evicted to a dugout or killed; one that finds no free frame is killed (R387). -/
def clearGroup (d : Nat) (kill : Bool) (s : State) (gr : Group) : State :=
  match gr.at_ with
  | .dugout .. => s
  | .core vc =>
    if dieOf s vc != d || gr.st == .provDone then s
    else if kill then killGroup s gr 2
    else match freeDugoutFrame? s with
      | some k => evictTo s gr vc k
      | none => killGroup s gr 2

/-- Each group of the die leaves it (R387). -/
def clearGroups (s : State) (d : Nat) (kill : Bool) : State := s.groups.foldl (clearGroup d kill) s

/-- DIE_RESET_WRITE_BACK (R387): the die has drained and its groups leave; its slice writes back every dirty sector. -/
def execDieResetWriteBack (s : State) : Out :=
  match resetting? s .draining with
  | none => .next s
  | some d =>
    let s0 := settleInsts s (threadOn s d)
    if !drained s0 d then .next s0
    else
      let s1 := clearGroups s0 d (s0.ap.drst.getLsbD 8)
      .next (setDie ((die s1 d).l2.foldl (fun s l => writeBackFrom s l.line d) s1) d .writingBack)

/-- The cores of a die are wiped, their L1 with them, and the slice by Z flags (R405); its clocks start anew (R203). [DEDUCED, log entry 54] -/
def wipeDie (s : State) (d : Nat) : State :=
  let s1 := (coresOn s d).foldl (fun s vc => modCore s vc fun _ => Core.reset) (flushDie s d)
  let s2 := modDie s1 d fun x => { x with tlb := [], l2 := [], l2Wiped := l2Size, st := .offline }
  let zero : Region → Region := fun r => { r with acc := 0 }
  { s2 with clock := { s2.clock with regions := modAt zero (modAt zero s2.clock.regions (2 * d)) (2 * d + 1) } }

/-- DIE_RESET_OFFLINE (R387): the stack enters self-refresh and the die resets, once no squashing or effect is left on it. -/
def execDieResetOffline (s : State) : Out :=
  match resetting? s .writingBack with
  | none => .next s
  | some d => if drained s d then .next (wipeDie s d) else .next s

/-- Lines of a home in the L3 are written back (R387). -/
def writeBackHome (s : State) (d : Nat) : State :=
  let clean : L2Line → L2Line := fun l => if homeOf (256 * l.line) == d then { l with dirty := 0 } else l
  { s with hub := { s.hub with l3 := s.hub.l3.map clean } }

/-- A dugout group that is wanted back returns where a core has room for it (R128, R247). -/
def bringBack (s : State) (gr : Group) : State :=
  match gr.at_, gr.saved with
  | .dugout .., some sv => if phaseOf s gr.ctx != 0 then s else match returnCore? s gr sv with
    | some vc => restoreTo s gr sv vc
    | none => s
  | _, _ => s

/-! The host's accesses (R397) -/

/-- An answer to the host: the bytes read, or no bytes for an error reply (R388, R397). -/
def hostAnswer (s : State) (bs : List Byte) : State := { s with hub := { s.hub with hostOut := s.hub.hostOut ++ [bs] } }

/-- The host's accesses are served in the order of arrival (R397): a write whose home is offline and whose line the L3 does not hold waits until
re-admission, and holds back all that come after it; a read of such a home has an error reply (R388). -/
def serveHost (s : State) : List HostReq → State
  | [] => { s with hub := { s.hub with hostWaits := [] } }
  | .write pa data :: r =>
    if rangeAway s pa data.length then { s with hub := { s.hub with hostWaits := .write pa data :: r } } else serveHost (hubWrite s pa data) r
  | .read pa n :: r =>
    if rangeAway s pa n then serveHost (hostAnswer s []) r else serveHost (hostAnswer (hubReads s pa n) (hubRead s pa n)) r

/-- Re-admission ends (R387, R388): threads parked with kind 0x06 for that home resume, the dugout groups of the virtual die return as far as there is
room and are wanted back otherwise, host accesses that waited go on (R397), the acknowledgements of writes that waited are counted anew (R331), and STATE
and GO return to 0. [DEDUCED, log entry 54] -/
def endReadmit (s : State) (d : Nat) : State :=
  let vd := vdieOf s d
  let s1 := setDie { s with ap := { s.ap with drst := s.ap.drst &&& 0x107 } } d .running
  let away : Thread → Bool := fun t => isParked t && (match t.kept with
    | some r => r.kind == 6 && r.detail.toNat % 8 == vd
    | none => false)
  let s2 := ((s1.threads.filter away).map (·.uid)).foldl returnThread s1
  let want : Group → Group := fun g => { g with wantIn := true }
  let of_ : Group → Bool := fun g => g.vd == vd && g.saved.isSome
  let s3 := { s2 with groups := modWhere of_ want s2.groups }
  let s4 := (s3.groups.filter of_).foldl bringBack s3
  let again : Effect → Effect := fun e => if e.ga && e.st == .committed && homeWaits s e then { e with sentAt := none, tries := 0 } else e
  let s5 := settleEffects { s4 with effects := s4.effects.map again }
  serveHost s5 s5.hub.hostWaits

/-- DIE_READMIT (R387): STATE 3 passes to STATE 4, in which held lines are written back to the stack; then re-admission ends. -/
def execDieReadmit (s : State) : Out :=
  match resetting? s .offline, resetting? s .readmitting with
  | some d, _ => .next (setDie (writeBackHome s d) d .readmitting)
  | none, some d => .next (endReadmit s d)
  | none, none => .next s

end Sys2Proof.Machine
end

