-- ==== Sys2Proof/Machine/Package.lean ====
section
/-! DEFINITION. The package in service: contexts created and destroyed (R392, R393), the host's accesses (R396, R397), the optical fabric and
the spares (R398, R399, R409), clocks (R22), monitors (R407, R408), keys, firmware and life cycle (R403 to R406), and power and start-up
(R400 to R402). -/
namespace Sys2Proof.Machine

/-! Contexts (R392, R393) -/

/-- CTXCMD as it reads after a command (R392). -/
def ctxResult (s : State) (ctx res act : Nat) : State :=
  { s with ap := { s.ap with ctxcmd := BitVec.ofNat 16 ctx ++ BitVec.ofNat 40 res ++ BitVec.ofNat 8 act } }

/-- A context as it is created (R359, R392): every register at its reset value, CSEL its own number. -/
def newCtx (n : Nat) (sup : Bool) : Ctx :=
  { num := n
    regs :=
      { csel := BitVec.ofNat 32 n, ctxCtl := if sup then 2 else 0, ptBase := 0, qtabBase := 0, sigtBase := 0, sigtN := 0, predBase := 0, raltBase := 0
        chtBase := 0, evqBase := 0, wdLimit := 0x00100000, dgLimit := 0x00100000, barLimit := 0x01000000, policy := 0x00040800, req := false, phase := 0 }
    objs := [], sigs := [], heads := [], direct := [], directN := 0, evSeq := 0, evHeld := [], evOver := 0, fseq := List.replicate 16 0, mons := []
    still := 0, gone := [], cutDies := [], retryAt := 0 }

/-- A create command (R392). -/
def createCtx (s : State) (sup : Bool) : State :=
  let act := if sup then 2 else 1
  if s.pkg.life == 3 then ctxResult s 0 4 act
  else match firstBelow (fun n => (ctx? s n).isNone) 1024 with
    | none => ctxResult s 0 1 act
    | some n => ctxResult { s with ctxs := s.ctxs ++ [newCtx n sup] } n 0 act

/-- CTX_CREATE (R392). -/
def execCtxCreate (s : State) : Out := .next (createCtx s false)

/-- CTX_CREATE_SUPERVISOR (R392). -/
def execCtxCreateSupervisor (s : State) : Out := .next (createCtx s true)

/-- What a core's storage keeps of a destroyed context: nothing; a later context of the same number is another one, and finds zeros (R237, R292).
[DEDUCED, log entry 62] -/
def forgetStore (ctx : Nat) (st : Storage) : Storage :=
  let wipe : Tile → Tile := fun t => if t.ctx == ctx then Tile.reset else t
  { st with
    owner := st.owner.filter fun o => o.2 != ctx
    slots := (st.slots.zip st.slotCtx).map fun x => if x.2 == ctx then OpSlot.reset else x.1
    accs := st.accs.map wipe
    pts := st.pts.map wipe }

/-- What a core holds of a context goes: entries, placements, configurations, translations, lines, commands, rings, and its units (R393).
[DEDUCED, log entry 62] -/
def forgetCore (ctx : Nat) (gids : List Nat) (k : Core) : Core :=
  { k with
    entries := k.entries.filter fun e => !gids.contains e.grid
    places := k.places.filter fun p => p.conf.ctx != ctx
    ghosts := k.ghosts.filter fun p => p.conf.ctx != ctx
    rrEntry := k.rrEntry.filter fun r => r.1 != ctx
    bullpen := k.bullpen.filter fun b => b.conf.ctx != ctx
    fetches := k.fetches.filter fun f => f.ctx != ctx
    failed := k.failed.filter fun f => f.ctx != ctx
    tlb := k.tlb.filter fun e => e.ctx != ctx
    l1 := k.l1.filter fun l => l.ctx != ctx
    copies := k.copies.filter fun c => c.ctx != ctx
    ops := k.ops.filter fun o => o.ctx != ctx
    rings := k.rings.filter fun r => !gids.contains r.grid
    store := forgetStore ctx k.store }

/-- A destroy in its order (R393): groups, grids, queues, objects, watches, records, caches and dugout frames, and the number.
[DEDUCED, log entry 62] -/
def destroyCtx (s : State) (n : Nat) : State :=
  let gids := (s.grids.filter fun g => g.ctx == n).map (·.id)
  let disarm : Notify → Notify := fun e => if e.ctx.toNat == n then { e with nsig := e.nsig &&& 0x7FFF } else e
  { s with
    groups := s.groups.filter fun g => g.ctx != n
    threads := s.threads.filter fun t => t.ctx != n
    grids := s.grids.filter fun g => g.ctx != n
    effects := s.effects.filter fun e => e.ctx != n
    cores := s.cores.map (forgetCore n gids)
    dies := s.dies.map fun d => { d with tlb := d.tlb.filter fun e => e.ctx != n }
    ctxs := s.ctxs.filter fun c => c.num != n
    ap := { s.ap with notify := s.ap.notify.map disarm }
    hub := { s.hub with
      misses := s.hub.misses.filter fun m => m.ctx != n
      dugouts := s.hub.dugouts.filter fun d => !gids.contains d.2.1
      migr := s.hub.migr.filter fun m => m.ctx != n
      latePreds := s.hub.latePreds.filter fun l => l.ctx != n } }

/-- CTX_DESTROY (R393): only at phase 7 or 8. -/
def execCtxDestroy (ctx : Nat) (s : State) : Out :=
  match ctx? s ctx with
  | none => .next (ctxResult s ctx 3 3)
  | some c => if 7 ≤ c.regs.phase then .next (ctxResult (destroyCtx s ctx) ctx 0 3) else .next (ctxResult s ctx 2 3)

/-! The host (R395 to R397) -/

/-- Every byte of a range lies in an HBM stack (R227, R396). [DESIGN CHOICE, log entry 57] -/
def hbmRange (pa n : Nat) : Bool := decide (0 < n) && hbmPa pa && hbmPa (pa + n - 1) && homeOf pa == homeOf (pa + n - 1)

/-- The physical address of a host access of `n` bytes: BAR2 is the window of 64 GiB at B2OFF (R396). -/
def hostPaOf (s : State) (a : HostAddr) (n : Nat) : Option Nat :=
  match a with
  | .bar2 off => if off + n ≤ 2 ^ 36 then some (s.ap.b2off.toNat + off) else none
  | .mem pa => some pa

/-- HOST_WRITE (R397): performed at .s in the order of arrival. [DESIGN CHOICE, log entry 57] -/
def execHostWrite (pa : HostAddr) (data : List Byte) (s : State) : Out :=
  match hostPaOf s pa data.length with
  | some a => if hbmRange a data.length then .next (serveHost s (s.hub.hostWaits ++ [.write a data])) else .next s
  | none => .next s

/-- HOST_READ (R397): a value performed at .s, once every earlier write is; a range outside HBM has an error reply. [DESIGN CHOICE, log entry 57] -/
def execHostRead (pa : HostAddr) (n : Nat) (s : State) : Out :=
  match hostPaOf s pa n with
  | some a => if hbmRange a n then .next (serveHost s (s.hub.hostWaits ++ [.read a n])) else .next (hostAnswer s [])
  | none => .next (hostAnswer s [])

/-- THL_LANE_FAILURE (R395): x16, then x8, then x4. [DEDUCED, log entry 56] -/
def execThlLaneFailure (s : State) : Out := .next { s with ap := { s.ap with thlWidth := s.ap.thlWidth - 1 } }

/-! The optical fabric and the spares (R399, R409) -/

/-- WAVELENGTH_SPARE (R399): a fibre has one spare wavelength. [DESIGN CHOICE, log entry 59] -/
def execWavelengthSpare (fibre wl : Nat) (s : State) : Out :=
  let sp := s.pkg.spares
  if 256 ≤ fibre || 8 ≤ wl || sp.waves.any (fun w => w.1 == fibre) then .next s
  else .next { s with pkg := { s.pkg with spares := { sp with waves := sp.waves ++ [(fibre, wl)] } } }

/-- A fibre's bit clears in the route entries of the packages listed (R399). -/
def clearRoutes (fibre : Nat) : List Nat → State → State
  | [], s => s
  | p :: r, s =>
    let m := natLE (hubRead s (routePa s p) 32)
    clearRoutes fibre r (if bit m fibre then hubWrite s (routePa s p) (bytesLE 32 (m - 2 ^ fibre)) else s)

/-- A fibre's bit leaves the routes to all 4,096 packages (R250, R399). -/
def clearFibre (s : State) (fibre : Nat) : State := clearRoutes fibre (List.range 4096) s

/-- FIBRE_FAILURE (R399). -/
def execFibreFailure (fibre : Nat) (s : State) : Out :=
  if 256 ≤ fibre then .next s
  else .next (clearFibre { s with pkg := { s.pkg with spares := { s.pkg.spares with deadFibres := insertNat fibre s.pkg.spares.deadFibres } } } fibre)

/-- HBM_ROW_REMAP (R409): no value changes. -/
def execHbmRowRemap (stack row : Nat) (s : State) : Out :=
  let sp := s.pkg.spares
  if 8 ≤ stack || sp.rows.contains (stack, row) then .next s
  else .next { s with pkg := { s.pkg with spares := { sp with rows := sp.rows ++ [(stack, row)] } } }

/-- PSEUDO_CHANNEL_SWITCH (R409): a stack has one spare; no value changes. [DESIGN CHOICE, log entry 59] -/
def execPseudoChannelSwitch (stack ch : Nat) (s : State) : Out :=
  let sp := s.pkg.spares
  if 8 ≤ stack || sp.channels.any (fun c => c.1 == stack) then .next s
  else .next { s with pkg := { s.pkg with spares := { sp with channels := sp.channels ++ [(stack, ch)] } } }

/-- A way of a cache empties, its dirty lines written back first (R409); a dirty line of an offline home stays in the L3 (R388). Frames of the LVS keep
their numbers and values where they move to. Which lines lie in a way is left open. [DESIGN CHOICE, log entry 59] -/
def emptyWay (s : State) (site : WaySite) (way : Nat) : State :=
  match site with
  | .l2 d =>
    let mine := ((die s d).l2.map (·.line)).filter fun n => Config.wayOf n == way
    let s1 := mine.foldl (fun s n => writeBackFrom s n d) s
    modDie s1 d fun x => { x with l2 := x.l2.filter fun l => Config.wayOf l.line != way }
  | .l3 => { s with hub := { s.hub with l3 := s.hub.l3.filter fun l => Config.wayOf l.line != way || (l.dirty != 0 && homeOffline s (256 * l.line)) } }
  | .lvs _ => s

/-- CACHE_WAY_SPARE (R409): the way's dirty lines are written back, or its frames moved, and the spare takes its place; no value changes.
[DESIGN CHOICE, log entry 59] -/
def execCacheWaySpare (site : WaySite) (way : Nat) (s : State) : Out :=
  let s1 := emptyWay s site way
  .next { s1 with pkg := { s1.pkg with spares := { s1.pkg.spares with ways := s1.pkg.spares.ways ++ [site] } } }

/-- Some core of a list lies in a region and is not halted for debug: the monitor leaves the queues of a halted core out (R22). -/
def regionHas (s : State) (region : Nat) (l : List Nat) : Bool :=
  l.any fun vc => (s.pkg.vct.getD vc ⟨false, 0⟩).v && regionOf s vc == region && !s.ap.dhalt.contains vc

/-- The next clock of a region whose outbound queues stand above their high mark: 25 MHz down to the floor (R22). -/
def stepDown (r : Region) : Nat := if r.floor + 25 ≤ r.soon then r.soon - 25 else r.soon

/-- The next clock of a region whose inbound queues stand above their high mark: 25 MHz up to the ceiling (R22). -/
def stepUp (r : Region) : Nat := if r.soon + 25 ≤ r.ceil then r.soon + 25 else r.soon

/-- CLOCK_STEP (R22, R23), with the cores whose die-link queues have stayed above their high mark. The new clock starts with the region's next cycle.
Where both stand high the clock stays. [DESIGN CHOICE, log entry 11] -/
def execClockStep (region : Nat) (high : QueueMarks) (s : State) : Out :=
  let down := regionHas s region high.out
  let up := regionHas s region high.inb
  let f : Region → Region := fun r => { r with soon := if down && !up then stepDown r else if up && !down then stepUp r else r.soon }
  .next { s with clock := { s.clock with regions := modAt f s.clock.regions region } }

/-! Monitors (R407, R408) -/

/-- A source that the block's kind lists (R407). -/
def srcOk (u src : Nat) : Bool := if u < 144 then decide (src ≤ 4) else decide (8 ≤ src) && decide (src ≤ 11)

/-- A write of MCFG (R407): a source that is not listed clears EN, and EN rising clears the counts. -/
def writeMcfg (u : Nat) (v : BitVec 32) (m : Mon) : Mon :=
  let w := v &&& (if srcOk u (bits v.toNat 24 4) then 0x8F1FFFFF else 0x0F1FFFFF)
  let run := if monOn w && !monOn m.cfg then
      { m.run with min := 0xFFFFFFFF, max := 0, cnt := 0, bins := List.replicate 16 0 }
    else m.run
  { m with cfg := w, run := run, before := if monOn w && !monOn m.cfg then none else m.before }

/-- A snapshot: every field goes to the readable shadow, without the samples of the snapshot's own cycle (R407, R408). [DESIGN CHOICE, log entry 79] -/
def snapMon (now : Nat) (m : Mon) : Mon :=
  match m.before with
  | some (c, r) => { m with shadow := if c == now then { m.run with min := r.min, max := r.max, cnt := r.cnt, bins := r.bins } else m.run }
  | none => { m with shadow := m.run }

/-- MONITOR_ENABLE (R407). -/
def execMonitorEnable (u : Nat) (v : BitVec 32) (s : State) : Out := .next (modMon s u (writeMcfg u v))

/-- MONITOR_SNAP (R408). -/
def execMonitorSnap (u : Nat) (s : State) : Out := .next (modMon s u (snapMon (monNow s u)))

/-- The level that a source of a physical core's block shows (R407): commands in its copy queue, ops in its matching store, waiting entries; none for a
source that is no level. -/
def levelOf? (s : State) (u src : Nat) : Option Nat :=
  let vc := (List.range 128).find? fun n => (s.pkg.vct.getD n ⟨false, 0⟩).v && (s.pkg.vct.getD n ⟨false, 0⟩).pcore == u
  let level : (Nat → Nat) → Option Nat := fun f => some ((vc.map f).getD 0)
  if 144 ≤ u then none
  else match src with
    | 2 => level fun vc => ((core s vc).copies.filter fun c => !copyRuns c).length
    | 3 => level fun vc => ((core s vc).ops.filter fun o => inStore o && o.st == .pending).length
    | 4 => level fun vc => ((core s vc).entries.filter fun e => entryWaits s vc e).length
    | _ => none

/-- MONITOR_SAMPLE (R407, R408): a level, sampled as it stands once in each span of 1,024 cycles; or a die's latency or occupancy, which the event
brings. A core's latencies are sampled where they end. [DESIGN CHOICE, log entry 79] -/
def execMonitorSample (u src v : Nat) (s : State) : Out :=
  let now := monNow s u
  match levelOf? s u src with
  | some n => .next (modMon s u fun m => if now / 1024 ≤ m.span then m else { sampleMon now src n m with span := now / 1024 })
  | none => .next (if 144 ≤ u then modMon s u (sampleMon now src v) else s)

/-! Keys, firmware, life cycle, attestation (R403 to R406) -/

/-- FIRMWARE_UPDATE (R403, R404): a verified image at or above the fuse count of this start goes to the slot not in use; fuses are blown up to its SECVER, and both take effect at the next start.
[DESIGN CHOICE, log entry 17] -/
def execFirmwareUpdate (img : FwImage) (s : State) : Out :=
  if !signed img.hash img.rsa img.slh || img.secver < s.pkg.fuse || 64 < img.secver then .next s
  else
    let p := s.pkg
    let p1 := if p.useB then { p with slotA := ⟨img, true⟩ } else { p with slotB := ⟨img, true⟩ }
    .next { s with pkg := { p1 with nextB := !p.useB, fuseNext := max p.fuseNext img.secver } }

/-- LIFE_CYCLE_ADVANCE (R405): only upward, by a signed command, at the next start. [DESIGN CHOICE, log entry 17] -/
def execLifeCycleAdvance (c : LifeCommand) (s : State) : Out :=
  if signed (sha384 (bytesLE 1 c.target)) c.rsa c.slh && s.pkg.lifeNext < c.target && c.target ≤ 3 then
    .next { s with pkg := { s.pkg with lifeNext := c.target } }
  else .next s

/-- The first 160 bytes of an attestation report (R406). -/
def reportHead (s : State) (nonce : BitVec 256) : List Byte :=
  let fw := runningFw s
  let vct := (List.range 128).flatMap fun n => bytesLE 4 (vctWord s n)
  bytesLE 8 0x545045525443594C ++ bytesLE 4 (0x9400 * 2 ^ 16 + 1) ++ bytesLE 1 s.pkg.life ++ bytesLE 1 s.pkg.fuse ++ bytesLE 2 fw.translator ++
  bytesLE 8 fw.errata.toNat ++ bytesLE 48 fw.hash.toNat ++ sha384Bytes vct ++ bytesLE 32 nonce.toNat ++ bytesLE 8 0

/-- An attestation report with its signatures (R406). -/
def report (s : State) (nonce : BitVec 256) : List Byte :=
  let h := reportHead s nonce
  h ++ bytesLE 384 (Config.rsaSign h).toNat ++ (List.range 16224).map (Config.slhSignByte h)

/-- ATTESTATION_REQUEST (R406): a write of ATTCMD with bit 31 set; one while the status is busy is dropped. [DEDUCED, log entry 58] -/
def execAttestationRequest (v : BitVec 32) (s : State) : Out :=
  if !v.getLsbD 31 || s.ap.attSt == 0 then .next s
  else .next { s with ap := { s.ap with attSt := 0, attNonce0 := s.ap.attNonce, attAddr0 := s.ap.attAddr.toNat } }

/-- ATTESTATION_REPORT_DONE (R406). -/
def execAttestationReportDone (s : State) : Out :=
  if s.ap.attSt != 0 then .next s
  else
    let a := s.ap.attAddr0
    let ok := a % 64 == 0 && (hbmRange a 16768 || (hostPa a && hostPa (a + 16767)))
    let s1 := if ok then hubWrite s a (report s s.ap.attNonce0) else s
    .next { s1 with ap := { s1.ap with attSt := if ok then 1 else 2 } }

/-! Power and start-up (R24, R400 to R402) -/

/-- The package without power: fuses and flash alone are as they were (R400). -/
def withoutPower (s : State) (p : Pkg) : State :=
  { State.reset with
    agenda := s.agenda, nextId := s.nextId
    pkg := { Pkg.reset with
      power := false, fusedOff := p.fusedOff, worn := p.worn, life := p.life, lifeNext := p.lifeNext, fuse := p.fuse, fuseNext := p.fuseNext
      slotA := p.slotA, slotB := p.slotB, useB := p.useB, nextB := p.nextB, starts := p.starts, bootLog := p.bootLog } }

/-- POWER_LOSS (R400): nothing survives but the fuses and the flash. [DEDUCED, log entry 61] -/
def execPowerLoss (s : State) : Out := .next (withoutPower s s.pkg)

/-- The forms of a start-up step (R402). -/
inductive StepForm where
  | normal
  | alternate
  | skipped
deriving DecidableEq, Repr

/-- FORM of a boot-log record (R402). -/
def formCode : StepForm → Nat
  | .normal => 0
  | .alternate => 1
  | .skipped => 2

/-- A step has an alternate form (R401). -/
def hasAlternate (k : Nat) : Bool := [1, 3, 4, 5, 7, 8].contains k

/-- A step is mandatory (R401). -/
def mandatory (k : Nat) : Bool := [1, 2, 6, 9].contains k

/-- The form of a step, from its record of the previous start (R401). -/
def formOf (p : Pkg) (k : Nat) : StepForm :=
  match p.bootLog.find? fun r => r.start == p.starts && r.step == k with
  | none => .normal
  | some r => if r.result == 0 then .normal else if !hasAlternate k || r.form == 1 then .skipped else .alternate

/-- The physical cores of a die that are exposed, in ascending index (R24). -/
def exposedCores (off : List Nat) (d : Nat) : List Nat :=
  let region : Nat → List Nat := fun r => ((List.range 9).map fun i => 18 * d + 9 * r + i).filter fun p => !off.contains p
  let f0 := region 0
  let f1 := region 1
  let e := min 16 (f0.length + f1.length)
  let e0 := min f0.length (max 8 (e - f1.length))
  f0.take e0 ++ f1.take (e - e0)

/-- The virtual core table that a start builds (R24): cores fused off, and those marked worn, are left out. An absent entry names the first core of its
die. [DESIGN CHOICE, log entry 9] -/
def buildVct (off : List Nat) : List VctEnt :=
  (List.range 128).map fun n => match (exposedCores off (n / 16))[n % 16]? with
    | some p => ⟨true, p⟩
    | none => ⟨false, 18 * (n / 16)⟩

/-- The slot that a form of step 1 verifies: the one to run, or the other. [DEDUCED, log entry 60] -/
def slotFor (p : Pkg) (alt : Bool) : Bool := if alt then !p.nextB else p.nextB

/-- Whether a step passes in a form, given what the hardware finds (R401). [DEDUCED, log entry 60] -/
def stepPasses (p : Pkg) (r : StartFindings) (k : Nat) (alt : Bool) : Bool :=
  let slot := if slotFor p alt then p.slotB else p.slotA
  !(if alt then r.failAlternate else r.failNormal).contains k && (k != 1 || (slot.good && decide (p.fuseNext ≤ slot.image.secver)))

/-- What a step leaves (R24, R401, R405) once it has passed, failed, or been skipped. [DEDUCED, log entry 60] -/
def stepEffect (p : Pkg) (r : StartFindings) (k : Nat) (form : StepForm) (ok : Bool) : Pkg :=
  let sp := p.spares
  let alt := form == .alternate
  match k with
  | 1 => if ok then { p with useB := slotFor p alt, nextB := slotFor p alt } else p
  | 2 => if ok then { p with life := p.lifeNext, fuse := p.fuseNext } else p
  | 3 =>
    if ok && alt then { p with spares := { sp with channels := r.badStacks.map fun m => (m, 0) } }
    else if ok then p else { p with offStacks := r.badStacks }
  | 4 => { p with ringDown := r.ringLinkDown.toList }
  | 5 =>
    let worn := if alt then p.worn ++ r.badCores.filter (fun c => !p.worn.contains c) else p.worn
    { p with worn := worn, vct := buildVct (p.fusedOff ++ worn) }
  | 7 => if alt then { p with spares := { sp with deadFibres := r.badFibres } } else p
  | _ => p

/-- The unit that a record names: the first one found failing, a core by its die (R402). -/
def unitOf (r : StartFindings) (k : Nat) : Nat :=
  match k with
  | 3 => r.badStacks.headD 0xFF
  | 4 => r.ringLinkDown.getD 0xFF
  | 5 => (r.badCores.map (· / 18)).headD 0xFF
  | 7 => (r.badFibres.map (· / 64)).headD 0xFF
  | _ => 0xFF

/-- One step of a start: the package after it, and whether the start may go on (R401, R402). [DEDUCED, log entry 60] -/
def startStep (r : StartFindings) (n : Nat) (x : Pkg × Bool) (k : Nat) : Pkg × Bool :=
  let (p, going) := x
  if !going then x
  else if r.lostAt == some k then
    let form := formOf { p with starts := n - 1 } k
    -- the record as the controller writes it before the step begins
    ({ p with bootLog := p.bootLog ++ [⟨n, k, formCode form, 2, 0xFF, 0⟩], power := false }, false)
  else
    let form := formOf { p with starts := n - 1 } k
    let ran := form != .skipped
    let ok := ran && stepPasses p r k (form == .alternate)
    let log : BootRec := ⟨n, k, formCode form, if !ran then 2 else if ok then 0 else 1, if ok then 0xFF else unitOf r k, 0⟩
    let p1 := stepEffect { p with bootLog := p.bootLog ++ [log] } r k form ok
    if !ok && mandatory k then ({ p1 with recovery := true }, false) else (p1, true)

/-- A package before a start's first step: what flash and fuses hold. [DEDUCED, log entry 61] -/
def bootPkg (p : Pkg) : Pkg :=
  { Pkg.reset with
    power := true, recovery := false, fusedOff := p.fusedOff, worn := p.worn, life := p.life, lifeNext := p.lifeNext, fuse := p.fuse, fuseNext := p.fuseNext
    slotA := p.slotA, slotB := p.slotB, useB := p.useB, nextB := p.nextB, starts := p.starts + 1
    bootLog := p.bootLog.filter (fun b => decide (p.starts < b.start + 15)), vct := buildVct p.fusedOff }

/-- An entry of the running firmware passes to an update that keeps the translator version, unless the change of the errata mask touches what its
translation depends on; others stay as they are (R68). -/
def keepTranslation (old new : FwImage) (t : Translation) : Option Translation :=
  if old.translator != new.translator || t.version != old.translator || t.errata != old.errata then some { t with verified := false }
  else if (old.errata ^^^ new.errata) &&& t.depends != 0 then none
  else some { t with verified := false, errata := new.errata }

/-- The translations that a start keeps: none after power loss; else those that the firmware's change does not invalidate, unverified (R68, R404).
[DEDUCED, log entry 60; DESIGN CHOICE, log entry 70] -/
def keptTranslations (s : State) (old new : FwImage) : List Translation :=
  if !s.pkg.power then [] else s.hub.translations.filterMap (keepTranslation old new)

/-- POWER_ON_START (R401): the steps in order, each logged; a mandatory step that fails or is skipped leaves the recovery state, and a loss of power
in a step leaves the log as it stands. [DEDUCED, log entry 60] -/
def execPowerOnStart (r : StartFindings) (s : State) : Out :=
  let n := s.pkg.starts + 1
  let (p, _) := ((List.range 9).map (· + 1)).foldl (startStep r n) (bootPkg s.pkg, true)
  if !p.power then .next (withoutPower s p) else
  let s1 := { State.reset with agenda := s.agenda, nextId := s.nextId, pkg := p }
  let s2 := p.offStacks.foldl (fun s d => modDie s d fun x => { x with st := .offline }) s1
  let thl := match p.bootLog.find? fun b => b.start == n && b.step == 8 with
    | some b => if b.result != 0 then 0 else if b.form == 1 then 2 else 3
    | none => 0
  .next { s2 with
    ap := { s2.ap with thlWidth := thl }
    hub := { s2.hub with translations := keptTranslations s (runningFw s) (runningFw s1) } }

end Sys2Proof.Machine
end

