-- ==== Sys2Proof/Machine/Aperture.lean ====
section
/-! DEFINITION. The management aperture as a register block (R370, R391 to R408): what a write of each register does, and what a read returns. -/
namespace Sys2Proof.Machine

/-- A write of FCMD acts by its ACT (R371); the other values of ACT do nothing. [DEDUCED, log entry 49] -/
def writeFcmd (v : BitVec 64) (s : State) : Out :=
  match bits v.toNat 16 4 with
  | 0 => execFcmdResume v s
  | 1 => execFcmdRedirect v s
  | 2 => execFcmdKillThread v s
  | 3 => execFcmdKillGroup v s
  | 4 => execFcmdWriteSlot v s
  | 5 => execFcmdRepost v s
  | 6 => execFcmdResumeKind v s
  | 7 => execFcmdStep v s
  | _ => .next s

/-- A write of DHALT0 or DHALT1: 64 virtual cores from `base` on (R370, R375). -/
def writeDhalt (s : State) (base : Nat) (v : BitVec 64) : State :=
  let keep := s.ap.dhalt.filter fun n => !(decide (base ≤ n) && decide (n < base + 64))
  { s with ap := { s.ap with dhalt := ((List.range 64).filter fun i => v.getLsbD i).foldl (fun l i => insertNat (base + i) l) keep } }

/-- A write of CTXCMD acts by its ACT (R392, R393). -/
def writeCtxcmd (v : BitVec 64) (s : State) : Out :=
  match bits v.toNat 0 4 with
  | 1 => execCtxCreate s
  | 2 => execCtxCreateSupervisor s
  | 3 => execCtxDestroy (bits v.toNat 48 16) s
  | _ => .next s

/-- A write of OBJCMD acts by its ACT (R394). -/
def writeObjcmd (v : BitVec 64) (s : State) : Out :=
  match bits v.toNat 0 4 with
  | 1 => execObjRegister (bits v.toNat 48 16) s
  | 2 => execObjUnregister (bits v.toNat 48 16) (bits v.toNat 32 10) s
  | _ => .next s

/-- Eight bytes of ATTNONCE (R406). -/
def writeNonce (s : State) (i : Nat) (v : BitVec 64) : State :=
  let old := s.ap.attNonce.toNat
  let new := old - bits old (64 * i) 64 * 2 ^ (64 * i) + v.toNat * 2 ^ (64 * i)
  { s with ap := { s.ap with attNonce := BitVec.ofNat 256 new } }

/-- A dugout frame is in use: writes of DGP_BASE and DGP_N are dropped (R370). -/
def dugoutsInUse (s : State) : Bool := !s.hub.dugouts.isEmpty

/-- The threshold of a notification entry (R391). -/
def writeThr (s : State) (n : Nat) (v : BitVec 64) : State :=
  { s with ap := { s.ap with notify := modAt (fun e => { e with thr := v }) s.ap.notify n } }

/-- A register of the window, of the context that CWSEL names (R370). -/
def writeWindow (s : State) (n : Nat) (v : BitVec 64) : State :=
  let ctx := s.ap.cwsel.toNat % 2 ^ 16
  if (ctx? s ctx).isNone then s
  else if n == 1 then modCtx s ctx fun c => { c with regs := { c.regs with csel := v.setWidth 32 &&& 0xFFFF } }
  else writeCtxReg s ctx n v

/-- A monitor's register at an offset in its block: only MCFG is written (R407). -/
def writeMonBlock (s : State) (off : Nat) (v : BitVec 32) : State :=
  let u := (off - 0x10000) / 128
  if off % 128 != 0 then s
  else modMon s u fun m => writeMcfg u v (if v.getLsbD 30 then snapMon (monNow s u) m else m)

/-- A write of the aperture at an offset (R370, R391 to R407); a register that is read only, and an offset that holds none, ignore it (R3).
[DEDUCED, log entry 55] -/
def apWrite (off : Nat) (v : BitVec 64) (s : State) : Out :=
  let w : BitVec 32 := v.setWidth 32
  let put : (Aperture → Aperture) → Out := fun f => .next { s with ap := f s.ap }
  match off with
  | 0x000 => if s.pkg.recovery then .next s else writeFcmd v s
  | 0x008 => put fun a => { a with farg := v }
  | 0x010 => .next (writeDhalt s 0 v)
  | 0x018 => .next (writeDhalt s 64 v)
  | 0x020 => execDrstGo w s
  | 0x028 => if dugoutsInUse s then .next s else put fun a => { a with dgpBase := v &&& 0x000FFFFFFFC00000 }
  | 0x030 => if dugoutsInUse s || w > 4096 then .next s else put fun a => { a with dgpN := w }
  | 0x038 => put fun a => { a with cwsel := w &&& 0xFFFF }
  | 0x048 => put fun a => { a with pkgnum := w &&& 0xFFF }
  | 0x050 => put fun a => { a with prtBase := v &&& 0x000FFFFFFFFF0000 }
  | 0x060 => execAttestationRequest w s
  | 0x068 => put fun a => { a with attAddr := v }
  | 0x070 => put fun a => { a with b2off := v &&& 0x000000F000000000 }
  | 0x078 => writeCtxcmd v s
  | 0x080 => put fun a => { a with objaddr := baseValue v }
  | 0x088 => writeObjcmd v s
  | _ =>
    if 0x0A0 ≤ off && off < 0x0C0 && off % 8 == 0 then .next (writeNonce s ((off - 0x0A0) / 8) v)
    else if 0x100 ≤ off && off < 0x500 && off % 16 == 0 then execNotifyEntryArm ((off - 0x100) / 16) v s
    else if 0x100 ≤ off && off < 0x500 && off % 16 == 8 then .next (writeThr s ((off - 0x100) / 16) v)
    else if 0x800 ≤ off && off ≤ 0x880 && off % 8 == 0 then .next (writeWindow s ((off - 0x800) / 8) v)
    else if 0x10000 ≤ off && off < 0x10000 + 128 * 152 then .next (writeMonBlock s off w)
    else .next s

/-- REGISTER_WRITE (R370). -/
def execRegisterWrite (off : Nat) (v : BitVec 64) (s : State) : Out := apWrite off v s

/-! Reads -/

/-- STATE of DRST (R387). -/
def dieStNo : DieSt → Nat
  | .running => 0
  | .draining => 1
  | .writingBack => 2
  | .offline => 3
  | .readmitting => 4

/-- A field of a monitor block at an offset in it, as the shadow holds it (R407, R408). -/
def readMon (m : Mon) (o : Nat) : Nat :=
  match o with
  | 0x00 => m.cfg.toNat
  | 0x08 => m.shadow.min.toNat
  | 0x0C => m.shadow.max.toNat
  | 0x10 => m.shadow.cnt.toNat
  | 0x18 => m.shadow.umiss.toNat
  | 0x1C => m.shadow.cecc.toNat
  | _ => if 0x20 ≤ o && o < 0x60 && o % 4 == 0 then (m.shadow.bins.getD ((o - 0x20) / 4) 0).toNat else 0

/-- The 16 bytes of a boot-log record (R402). -/
def bootBytes (r : BootRec) : List Byte :=
  bytesLE 4 r.start ++ bytesLE 1 r.step ++ bytesLE 1 r.form ++ bytesLE 1 r.result ++ bytesLE 1 r.unit ++ bytesLE 8 r.detail.toNat

/-- The record of step `k` of the start that lies at place `p` of the log, oldest first; zeros where there is none. -/
def bootAt (s : State) (p k : Nat) : List Byte :=
  let starts := (s.pkg.bootLog.map (·.start)).eraseDups
  match (starts[p]?).bind fun n => s.pkg.bootLog.find? fun r => r.start == n && r.step == k with
  | some r => bootBytes r
  | none => List.replicate 16 0

/-- RETRY of THL_STAT: resends among the last 2^20 flits, saturating at 63 (R395). -/
def thlRetry (s : State) : Nat := min 63 (s.ap.thlResent.filter fun k => decide (s.ap.thlSent < k + 2 ^ 20)).length

/-- What a read of the aperture returns (R370, R391 to R407). -/
def apRead (s : State) (off : Nat) : Nat :=
  let a := s.ap
  let halts : Nat → Nat := fun base => bitsOf ((List.range 64).map fun i => a.dhalt.contains (base + i))
  match off with
  | 0x000 => a.fres
  | 0x008 => a.farg.toNat
  | 0x010 => halts 0
  | 0x018 => halts 64
  | 0x020 => a.drst.toNat + dieStNo (die s (drstDie s)).st * 2 ^ 12
  | 0x028 => a.dgpBase.toNat
  | 0x030 => a.dgpN.toNat
  | 0x038 => a.cwsel.toNat
  | 0x040 => a.thlWidth * 2 ^ 6 + thlRetry s
  | 0x048 => a.pkgnum.toNat
  | 0x050 => a.prtBase.toNat
  | 0x058 => s.pkg.life
  | 0x05C => s.pkg.fuse
  | 0x060 => a.attSt
  | 0x068 => a.attAddr.toNat
  | 0x070 => a.b2off.toNat
  | 0x078 => a.ctxcmd.toNat
  | 0x080 => a.objaddr.toNat
  | 0x088 => a.objcmd.toNat
  | _ =>
    let e := a.notify.getD ((off - 0x100) / 16) Notify.reset
    if 0x0A0 ≤ off && off < 0x0C0 && off % 8 == 0 then bits a.attNonce.toNat (8 * (off - 0x0A0)) 64
    else if 0x100 ≤ off && off < 0x500 && off % 16 == 0 then e.ctx.toNat + e.nsig.toNat * 2 ^ 16 + e.vec.toNat * 2 ^ 32
    else if 0x100 ≤ off && off < 0x500 && off % 16 == 8 then e.thr.toNat
    else if 0x800 ≤ off && off ≤ 0x880 && off % 8 == 0 then
      match ctx? s (a.cwsel.toNat % 2 ^ 16) with
      | some c => let n := (off - 0x800) / 8; if n == 0 then c.num else if n == 1 then c.regs.csel.toNat else ctxReg c.regs n
      | none => 0
    else if 0x10000 ≤ off && off < 0x10000 + 128 * 152 then
      readMon (s.pkg.mons.getD ((off - 0x10000) / 128) Mon.reset) ((off - 0x10000) % 128)
    else if 0x20000 ≤ off && off < 0x21000 && off % 8 == 0 then
      fieldAt (bootAt s ((off - 0x20000) / 256) ((off - 0x20000) % 256 / 16)) (off % 16) 8
    else 0

end Sys2Proof.Machine
end

