-- ==== Sys2Proof/Machine/Control.lean ====
section
/-! DEFINITION. Successors, calls, thread life and hints in the fabric (R156 to R178): each word fires once its ports hold their
tokens; what it decides takes effect at commit. -/
namespace Sys2Proof.Machine

/-- `nop` (R167: consumes and produces nothing, takes no element). -/
def execNop (f : FmtS) (s : State) : Out := fireNothing (.nop f) s
/-- `next` (R168: the successor is SA, at commit). -/
def execNext (f : FmtN) (s : State) : Out := fireSink (.next f) s
/-- `nextp` (R168: the successor is SA or SB by the p token, at commit). -/
def execNextp (f : FmtN) (s : State) : Out := fireSink (.nextp f) s
/-- `nextpu` (R169: as `nextp`, with a direction fixed for each group and placement at commit). -/
def execNextpu (f : FmtN) (s : State) : Out := fireSink (.nextpu f) s
/-- `nexti` (R170: the successor is named by the token, at commit). -/
def execNexti (f : FmtS) (s : State) : Out := fireSink (.nexti f) s
/-- `call` (R171: moves and writes the link word at commit). -/
def execCall (f : FmtN) (s : State) : Out := fireSink (.call f) s
/-- `calli` (R172: moves to a code address and writes the link word at commit). -/
def execCalli (f : FmtS) (s : State) : Out := fireSink (.calli f) s
/-- `ret` (R173: moves to the return point at commit). -/
def execRet (f : FmtS) (s : State) : Out := fireSink (.ret f) s
/-- `exit` (R164: retires the thread at commit). -/
def execExit (f : FmtS) (s : State) : Out := fireSink (.exit f) s
/-- `bar` (R347: the thread arrives at commit). -/
def execBar (f : FmtS) (s : State) : Out := fireSink (.bar f) s
/-- `yield` (R166: lowers the claim of the successor entry at commit). -/
def execYield (f : FmtS) (s : State) : Out := fireSink (.yield f) s
/-- `spawn` (R162: creates a thread at its ordinal at commit). -/
def execSpawn (f : FmtN) (s : State) : Out := fireSink (.spawn f) s
/-- `gwait` (R356: the thread arrives at commit). -/
def execGwait (f : FmtS) (s : State) : Out := fireSink (.gwait f) s
/-- `trap` (R358: parks the thread at commit). -/
def execTrap (f : FmtS) (s : State) : Out := fireSink (.trap f) s
/-- `brk` (R358: parks the thread at commit in debug mode). -/
def execBrk (f : FmtS) (s : State) : Out := fireSink (.brk f) s
/-- `launch` (R357: queues a launch record at its ordinal at commit). -/
def execLaunch (f : FmtS) (s : State) : Out := fireSink (.launch f) s
/-- `himm` (R175: supplies port b of the word after it; it takes no element and never fires). -/
def execHimm (f : FmtH) (s : State) : Out := fireNothing (.himm f) s
/-- `hoff` (R177: adds to the element index of the word after it; it takes no element and never fires). -/
def execHoff (f : FmtH) (s : State) : Out := fireNothing (.hoff f) s
/-- `htgt` (R176: gives two targets more to the word before it; it takes no element and never fires). -/
def execHtgt (f : FmtH) (s : State) : Out := fireNothing (.htgt f) s
/-- `hsch` (R178: sets the claim level of its segment; it takes no element and never fires). -/
def execHsch (f : FmtH) (s : State) : Out := fireNothing (.hsch f) s

end Sys2Proof.Machine
end

