-- ==== Sys2Proof/Machine/Engines.lean ====
section
/-! DEFINITION. Engine commands in the fabric (R300 to R320): each hands its operands on when its ports hold their tokens, and the commit of its
instance checks it and hands it to the engines. -/
namespace Sys2Proof.Machine

/-- `tcopy` (R308: queues a copy into the scratchpad, at its ordinal at commit). -/
def execTcopy (f : FmtE) (s : State) : Out := fireSink (.tcopy f) s
/-- `tstore` (R308: queues a copy out of the scratchpad, at its ordinal at commit). -/
def execTstore (f : FmtE) (s : State) : Out := fireSink (.tstore f) s
/-- `tcopyo` (R309: queues a fill of an operand slot, at its ordinal at commit). -/
def execTcopyo (f : FmtE) (s : State) : Out := fireSink (.tcopyo f) s
/-- `tcopyr` (R310: queues a reducing copy, at its ordinal at commit). -/
def execTcopyr (f : FmtE) (s : State) : Out := fireSink (.tcopyr f) s
/-- `tcast` (R311: queues a volley, at its ordinal at commit). -/
def execTcast (f : FmtE) (s : State) : Out := fireSink (.tcast f) s
/-- `sfree` (R311: frees ring tiles, at its ordinal at commit). -/
def execSfree (f : FmtE) (s : State) : Out := fireSink (.sfree f) s
/-- `spres` (R311: opens a ring, at its ordinal at commit). -/
def execSpres (f : FmtE) (s : State) : Out := fireSink (.spres f) s
/-- `tgath` (R310: queues a gather, at its ordinal at commit). -/
def execTgath (f : FmtE) (s : State) : Out := fireSink (.tgath f) s
/-- `tscat` (R310: queues a scatter, at its ordinal at commit). -/
def execTscat (f : FmtE) (s : State) : Out := fireSink (.tscat f) s
/-- `tclaim` (R314: claims units, at its ordinal at commit). -/
def execTclaim (f : FmtE) (s : State) : Out := fireSink (.tclaim f) s
/-- `trel` (R314: releases units, at its ordinal at commit). -/
def execTrel (f : FmtE) (s : State) : Out := fireSink (.trel f) s
/-- `mma` (R315: a matrix op into an accumulator, at its ordinal at commit). -/
def execMma (f : FmtE) (s : State) : Out := fireSink (.mma f) s
/-- `mmi` (R315: an integer matrix op into an accumulator, at its ordinal at commit). -/
def execMmi (f : FmtE) (s : State) : Out := fireSink (.mmi f) s
/-- `mmg` (R315: a grouped matrix op into partial tiles, at its ordinal at commit). -/
def execMmg (f : FmtE) (s : State) : Out := fireSink (.mmg f) s
/-- `tsacc` (R316: scales and accumulates partial tiles, at its ordinal at commit). -/
def execTsacc (f : FmtE) (s : State) : Out := fireSink (.tsacc f) s
/-- `tzero` (R317: clears a unit, at its ordinal at commit). -/
def execTzero (f : FmtE) (s : State) : Out := fireSink (.tzero f) s
/-- `tacst` (R318: stores an accumulator to the scratchpad, at its ordinal at commit). -/
def execTacst (f : FmtE) (s : State) : Out := fireSink (.tacst f) s
/-- `tacld` (R318: loads an accumulator from the scratchpad, at its ordinal at commit). -/
def execTacld (f : FmtE) (s : State) : Out := fireSink (.tacld f) s
/-- `tfence` (R319: reports the matrix ops before it, at its ordinal at commit). -/
def execTfence (f : FmtE) (s : State) : Out := fireSink (.tfence f) s
/-- `tmode` (R320: sets zero-skipping, at its ordinal at commit). -/
def execTmode (f : FmtE) (s : State) : Out := fireSink (.tmode f) s

end Sys2Proof.Machine
end

