-- ==== Sys2Proof/Machine/Float.lean ====
section
/-! DEFINITION. The floating-point, conversion, quantisation and special-function words (R205 to R225): each gives `fireFloat` the
function of its operands. -/
namespace Sys2Proof.Machine

/-- a + b (R210). -/
def execFadd (f : FmtA) (s : State) : Out := fireFloat (.fadd f) s (onFloatLanes f.ty (laneFadd f.flag))

/-- a - b (R210). -/
def execFsub (f : FmtA) (s : State) : Out := fireFloat (.fsub f) s (onFloatLanes f.ty (laneFsub f.flag))

/-- a * b (R210). -/
def execFmul (f : FmtA) (s : State) : Out := fireFloat (.fmul f) s (onFloatLanes f.ty (laneFmul f.flag))

/-- a * b + c with one rounding (R210). -/
def execFma (f : FmtA) (s : State) : Out := fireFloat (.fma f) s (onFloatLanes f.ty (laneFma f.flag))

/-- The smaller; a NaN wins (R212). -/
def execFmin (f : FmtA) (s : State) : Out := fireFloat (.fmin f) s (onFloatLanes f.ty (laneMinMax false false))

/-- The larger; a NaN wins (R212). -/
def execFmax (f : FmtA) (s : State) : Out := fireFloat (.fmax f) s (onFloatLanes f.ty (laneMinMax true false))

/-- The smaller; a NaN is missing (R212). -/
def execFminn (f : FmtA) (s : State) : Out := fireFloat (.fminn f) s (onFloatLanes f.ty (laneMinMax false true))

/-- The larger; a NaN is missing (R212). -/
def execFmaxn (f : FmtA) (s : State) : Out := fireFloat (.fmaxn f) s (onFloatLanes f.ty (laneMinMax true true))

/-- The sign bit cleared (R213). -/
def execFabs (f : FmtA) (s : State) : Out := fireFloat (.fabs f) s (onFloatLanes f.ty laneFabs)

/-- The sign bit inverted (R213). -/
def execFneg (f : FmtA) (s : State) : Out := fireFloat (.fneg f) s (onFloatLanes f.ty laneFneg)

/-- Compare (R215). -/
def execFcmp (f : FmtC) (s : State) : Out := fireFloat (.fcmp f) s fun a b _ => fcmp f.ty.toNat f.cond.toNat a b

/-- Class mask (R214). -/
def execFclass (f : FmtA) (s : State) : Out := fireFloat (.fclass f) s fun a _ _ => fclass f.ty a

/-- a / b (R210). -/
def execFdiv (f : FmtA) (s : State) : Out := fireFloat (.fdiv f) s (onFloatLanes f.ty (laneFdiv f.flag))

/-- Square root (R210). -/
def execFsqrt (f : FmtA) (s : State) : Out := fireFloat (.fsqrt f) s (onFloatLanes f.ty (laneFsqrt f.flag))

/-- Round to an integral value (R216). -/
def execFrnd (f : FmtA) (s : State) : Out := fireFloat (.frnd f) s (onFloatLanes f.ty (laneFrnd f.flag))

/-- a - Trunc(a) (R216). -/
def execFfrac (f : FmtA) (s : State) : Out := fireFloat (.ffrac f) s (onFloatLanes f.ty laneFfrac)

/-- a * 2^n (R217). -/
def execFscale (f : FmtA) (s : State) : Out := fireFloat (.fscale f) s fun a b _ => fscale f.flag f.ty a b

/-- floor(log2 |a|) (R217). -/
def execFgetx (f : FmtA) (s : State) : Out := fireFloat (.fgetx f) s fun a _ _ => fgetx f.ty a

/-- a with the sign of b (R213). -/
def execFsign (f : FmtA) (s : State) : Out := fireFloat (.fsign f) s (onFloatLanes f.ty laneFsign)

/-- Two products and c, rounded once to f32 (R211). -/
def execFdot2 (f : FmtA) (s : State) : Out := fireFloat (.fdot2 f) s fun a b c => fdot2 f.flag f.ty a b c

/-- Conversion (R218). -/
def execCvt (f : FmtA) (s : State) : Out := fireFloat (.cvt f) s fun a _ _ => cvt (f.s.toNat / 16) (f.s.toNat % 16) f.flag (f.mod.getLsbD 2) a

/-- Stochastic rounding (R219). -/
def execCvtsr (f : FmtA) (s : State) : Out := fireFloat (.cvtsr f) s fun a _ c => cvtsr (f.s.toNat % 16) (f.mod.getLsbD 2) a c

/-- Two f32 values into one packed word (R220). -/
def execPack (f : FmtA) (s : State) : Out := fireFloat (.pack f) s fun a b _ => packF f.flag f.ty a b

/-- One lane widened to f32 (R220). -/
def execUnpack (f : FmtA) (s : State) : Out := fireFloat (.unpack f) s fun a b _ => unpackF f.ty a b

/-- Quantise to a group code (R221). -/
def execQnt (f : FmtA) (s : State) : Out := fireFloat (.qnt f) s fun a b _ => qnt f.flag a b

/-- Value of a group code (R221). -/
def execDqnt (f : FmtA) (s : State) : Out := fireFloat (.dqnt f) s fun a b _ => dqnt f.flag f.ty a b

/-- 1/x (R222 to R224). -/
def execRcp (f : FmtA) (s : State) : Out := fireFloat (.rcp f) s fun a _ _ => sfu 0x78 f.ty a

/-- 1/sqrt x (R222 to R224). -/
def execRsq (f : FmtA) (s : State) : Out := fireFloat (.rsq f) s fun a _ _ => sfu 0x79 f.ty a

/-- 2^x (R222 to R224). -/
def execEx2 (f : FmtA) (s : State) : Out := fireFloat (.ex2 f) s fun a _ _ => sfu 0x7A f.ty a

/-- log2 x (R222 to R224). -/
def execLg2 (f : FmtA) (s : State) : Out := fireFloat (.lg2 f) s fun a _ _ => sfu 0x7B f.ty a

/-- sin(pi x) (R222 to R224). -/
def execSinpi (f : FmtA) (s : State) : Out := fireFloat (.sinpi f) s fun a _ _ => sfu 0x7C f.ty a

/-- cos(pi x) (R222 to R224). -/
def execCospi (f : FmtA) (s : State) : Out := fireFloat (.cospi f) s fun a _ _ => sfu 0x7D f.ty a

/-- tanh x (R222 to R224). -/
def execTanh (f : FmtA) (s : State) : Out := fireFloat (.tanh f) s fun a _ _ => sfu 0x7E f.ty a

/-- 1/(1 + e^-x) (R222 to R224). -/
def execSigm (f : FmtA) (s : State) : Out := fireFloat (.sigm f) s fun a _ _ => sfu 0x7F f.ty a

end Sys2Proof.Machine
end

