-- ==== Sys2Proof/Machine/Image.lean ====
section
/-! DEFINITION. Context images (R364, R383 to R386): `ctxsv` writes one, `ctxld` checks one and builds its context. -/
namespace Sys2Proof.Machine

/-! Saving (R383 to R385) -/

/-- A resident monitor's 32 bytes (R384). -/
def monBytes (c : Ctx) (vc : Nat) : List Byte :=
  match c.mons.find? fun m => m.vc == vc with
  | some m => bytesLE 4 m.miss.toNat ++ bytesLE 4 m.bpMiss.toNat ++ bytesLE 8 m.admits.toNat ++ bytesLE 8 m.commits.toNat ++ bytesLE 4 m.aborts.toNat ++ bytesLE 4 0
  | none => List.replicate 32 0

/-- Held records as entries of 32 bytes, a continuation as one of its own (R366, R384). [DEDUCED, log entry 67] -/
def heldEntries (c : Ctx) : List (List Byte) := c.evHeld.map fun r => partBytes r r.seq

/-- The predictor table of a context (R122, R384), zeros where it cannot be read. [DEDUCED, log entry 67] -/
def predTable (s : State) (c : Ctx) : State × List Byte :=
  let r := peekRange s c ⟨true, false, none, false⟩ c.regs.predBase.toNat 4096
  (r.1, r.2.getD (List.replicate 4096 0))

/-- The context section behind its header, with the predictor table as read (R384). -/
def ctxBody (c : Ctx) (pred : List Byte) : List Byte :=
  let reg : Nat → Nat := fun n => if n == 0 || n == 1 || n == 15 then 0 else ctxReg c.regs n
  let held := heldEntries c
  (List.range 16).flatMap (fun n => bytesLE 8 (reg n)) ++ (List.range 16).flatMap (fun i => bytesLE 8 (c.fseq.getD i 0)) ++
  bytesLE 4 (min held.length 64) ++ bytesLE 4 (c.evOver + (held.length - 64)) ++ bytesLE 4 c.direct.length ++ List.replicate 36 0 ++
  pred ++ (List.range 128).flatMap (monBytes c) ++ padTo 2048 ((held.take 64).flatMap id) ++
  padTo 16384 ((c.direct.take 256).flatMap fun r => bytesLE 64 r.toNat)

/-- An object's entry of 64 bytes (R384). -/
def objEntry (o : Obj) : List Byte :=
  bytesLE 2 o.onum ++ bytesLE 2 0 ++ bytesLE 2 o.secver ++ bytesLE 2 o.cid ++ bytesLE 8 o.addr ++ bytesLE 48 o.hash.toNat

/-- The grid section behind its header (R384). -/
def gridBody (s : State) (g : Grid) : List Byte :=
  let sp := g.spec
  let known := sp.any fun x => x.truth.isSome
  let latched := sp.bind (·.latched)
  let truth := match latched with
    | some w => trueCount g.raw w.toNat
    | none => (sp.bind (·.truth)).getD 0
  let tail := known && decide (g.nextG < gridGroups g)
  let shw := match sp with
    | some x => if known then 0 else shapeCount s g.ctx x
    | none => 0
  bytesLE 64 g.raw.toNat ++ padTo 512 (g.unif.flatMap fun v => bytesLE 4 v.toNat) ++ padTo 256 (g.bufs.flatMap fun v => bytesLE 16 v.toNat) ++
  padTo 64 (g.dptrs.flatMap fun v => bytesLE 8 v.toNat) ++ bytesLE 8 g.nextG ++ bytesLE 8 (g.nRet + g.nSquash) ++
  bytesLE 4 ((sp.map (·.pred)).getD 0) ++ bytesLE 4 truth ++ bytesLE 4 (known.toNat + 2 * tail.toNat + 4 * latched.isSome.toNat) ++ bytesLE 4 shw ++
  bytesLE 16 (((sp.bind (·.ralt)).map (·.toNat)).getD 0) ++ bytesLE 4 (g.kidx * 2 ^ 22 + g.onum * 2 ^ 12) ++
  List.replicate 60 0

/-- VCN's byte for a virtual die (R383). -/
def vcnByte (gs : List Group) (d : Nat) : Nat :=
  (gs.filterMap fun g => if g.vd != d then none else match g.at_ with
    | .core vc => some (vc % 16 + 1)
    | .dugout _ vc => some (vc % 16 + 1)).foldl max 0

/-- The part's number and stepping (R383). -/
def partWord : Nat := 0x9400 * 2 ^ 16 + 1

/-- The image's header (R383). -/
def imageHead (s : State) (c : Ctx) (size nsec nobj ngrid : Nat) (gs : List Group) : List Byte :=
  let fw := runningFw s
  let make : BitVec 32 → List Byte := fun chk =>
    padTo 256 (bytesLE 8 0x474D49585443594C ++ bytesLE 2 1 ++ bytesLE 2 0 ++ bytesLE 4 partWord ++ bytesLE 8 size ++ bytesLE 4 nsec ++ bytesLE 1 1 ++ bytesLE 3 0 ++
      (List.range 8).flatMap (fun d => bytesLE 1 (vcnByte gs d)) ++ bytesLE 4 fw.fwver ++ bytesLE 2 s.pkg.fuse ++ bytesLE 2 c.num ++ bytesLE 4 nobj ++
      bytesLE 4 ngrid ++ bytesLE 4 gs.length ++ bytesLE 4 chk.toNat)
  make (crc32c (make 0))

/-- The image of a context with its predictor table as read (R383). -/
def imageOf (s : State) (c : Ctx) (pred : List Byte) : List Byte :=
  let grids := s.grids.filter fun g => g.ctx == c.num
  let gs := imageGroups s c.num
  let secs := sectionOf 1 0 (ctxBody c pred) :: sectionOf 2 0 (c.objs.flatMap objEntry) ::
    ((List.range grids.length).zip grids).map (fun p => sectionOf 3 p.1 (gridBody s p.2)) ++ gs.map (groupSection s) ++ [sectionOf 15 0 []]
  let body := secs.flatMap pad64
  imageHead s c (256 + body.length) secs.length c.objs.length grids.length gs ++ body

/-- Bytes of a context's memory written page by page; whether every byte could be (R364). -/
def putRange (c : Ctx) : Nat → State → Nat → List Byte → State × Bool
  | 0, s, _, bs => (s, bs.isEmpty)
  | k + 1, s, va, bs =>
    if bs.isEmpty then (s, true)
    else
      let m := min bs.length (65536 - va % 65536)
      match hubTranslate s c va ⟨false, true, none, false⟩ true with
      | (s1, none) => (s1, false)
      | (s1, some pa) => putRange c k (hubWrite s1 pa (bs.take m)) (va + m) (bs.drop m)

/-- Every page of a range can be written. -/
def canPut (s : State) (c : Ctx) (va n : Nat) : Bool := (peekRange s c ⟨false, true, none, false⟩ va n).2.isSome

/-- A status word of `ctxsv` or `ctxld` (R364). -/
def imageStatus (code bytes : Nat) : Nat := 2 ^ 31 + (if code == 0 then 0 else 2 ^ 30) + code * 2 ^ 24 + min (ceilDiv bytes 65536) 0xFFFFFF

/-- `ctxsv` of a context to an address of the executing context (R364, R379, R383): the state after, and the status word. -/
def saveImage (s : State) (ctx tctx va : Nat) : State × Nat :=
  match ctx? s ctx, ctx? s tctx with
  | some c, some t =>
    if t.regs.phase < 7 then (s, imageStatus 1 0)
    else
      let (s1, pred) := predTable s t
      let bs := imageOf s1 t pred
      if va % 65536 != 0 || !canPut s1 c va bs.length then (s1, imageStatus 3 0)
      else (setPhase (putRange c (bs.length / 65536 + 2) s1 va bs).1 tctx 8, imageStatus 0 bs.length)
  | _, _ => (s, imageStatus 1 0)

/-! Restoring (R386) -/

/-- A section as read: type, number, its bytes behind the header. -/
structure Sec where
  type : Nat
  id : Nat
  body : List Byte

/-- The sections of an image behind its header, `none` when a header, a check value or a reserved field is wrong (R3, R384). [DEDUCED, log entry 68] -/
def readSecs : Nat → List Byte → Option (List Sec)
  | 0, _ => some []
  | n + 1, b =>
    let len := fieldAt b 4 4
    if len < 16 || b.length < len || fieldAt b 2 2 != 1 then none
    else
      let type := fieldAt b 0 2
      let id := fieldAt b 8 4
      let body := (b.take len).drop 16
      if crc32c (sectionHead type id len 0 ++ body) != BitVec.ofNat 32 (fieldAt b 12 4) || !sectionReserved type body then none
      else (readSecs n (b.drop (ceilDiv len 64 * 64))).map fun r => ⟨type, id, body⟩ :: r

/-- The header's checks (R386), its reserved fields among them (R3). [DEDUCED, log entry 68] -/
def headOk (s : State) (h : List Byte) : Bool :=
  fieldAt h 0 8 == 0x474D49585443594C && fieldAt h 8 2 == 1 && zerosAt h 0x0A 2 && zerosAt h 0x1D 3 && zerosAt h 0x40 192 && fieldAt h 0x0C 4 == partWord && fieldAt h 0x1C 1 == 1 &&
  crc32c (putBytes h 0x3C (List.replicate 4 0)) == BitVec.ofNat 32 (fieldAt h 0x3C 4) &&
  (List.range 8).all fun d => decide (fieldAt h (0x20 + d) 1 ≤ ((List.range 16).filter fun i => (s.pkg.vct.getD (16 * d + i) ⟨false, 0⟩).v).length)

/-- The context's registers from CREG; CSEL and SUPM stay the target's (R384, R386). -/
def readCreg (old : CtxRegs) (b : List Byte) : CtxRegs :=
  let r := fun (n : Nat) => BitVec.ofNat 64 (fieldAt b (8 * n) 8)
  { old with
    ctxCtl := ctlValue old.ctxCtl (r 2), ptBase := baseValue (r 3), qtabBase := baseValue (r 4), sigtBase := baseValue (r 5), sigtN := (r 6).setWidth 32
    predBase := baseValue (r 7), raltBase := baseValue (r 8), chtBase := baseValue (r 9), evqBase := baseValue (r 10), wdLimit := (r 11).setWidth 32
    dgLimit := (r 12).setWidth 32, barLimit := (r 13).setWidth 32, policy := policyValue (r 14), req := true, phase := 7 }

/-- A held record from its entry (R366), in the context that it is restored to. [DEDUCED, log entry 67] -/
def readHeld (ctx : Nat) (b : List Byte) : EvRec :=
  if fieldAt b 0 1 == 0x11 then
    { plainRec ctx 0x11 0 0 0 0 with cont := [8, 0x10, 0x18].map fun o => BitVec.ofNat 64 (fieldAt b o 8) }
  else { readRec b with ctx := ctx }

/-- A context's monitors from the section (R384). -/
def readMons (b : List Byte) : List PerfMon :=
  (List.range 128).filterMap fun vc =>
    let e := (b.drop (32 * vc)).take 32
    if e.all (· == 0) then none
    else some ⟨vc, BitVec.ofNat 32 (fieldAt e 0 4), BitVec.ofNat 64 (fieldAt e 8 8), BitVec.ofNat 64 (fieldAt e 16 8), BitVec.ofNat 32 (fieldAt e 4 4),
      BitVec.ofNat 32 (fieldAt e 24 4)⟩

/-- The context section read into a context (R386); `b` starts behind the section's header. The image does not hold the count behind REC of the direct
queue (R113): it goes on as if the records in the queue had been the first. [DEDUCED, log entry 67] -/
def readCtx (c : Ctx) (b : List Byte) : Ctx :=
  let at_ := fun (o n : Nat) => fieldAt b (o - 16) n
  let part := fun (o n : Nat) => (b.drop (o - 16)).take n
  let dq := at_ 0x118 4
  { c with
    regs := readCreg c.regs (part 0x10 128), fseq := (List.range 16).map fun i => at_ (0x90 + 8 * i) 8
    evHeld := (entries 32 (min (at_ 0x110 4) 64) (part 0x2140 2048)).map (readHeld c.num), evOver := at_ 0x114 4
    direct := (entries 64 (min dq 256) (part 0x2940 16384)).map fun e => BitVec.ofNat 512 (natLE e), directN := dq
    mons := readMons (part 0x1140 4096), sigs := [], heads := [], cutDies := List.range 8 }

/-- The objects of an image, each read and checked at its saved number; `none` when one fails (R386). [DEDUCED, log entry 32] -/
def readObjs (c : Ctx) : List (List Byte) → State → State × Option (List Obj)
  | [], s => (s, some [])
  | e :: r, s => match readObject s c (fieldAt e 8 8) with
    | (s1, .ok o) =>
      let l := readObjs c r s1
      (l.1, l.2.map fun l => { o with onum := fieldAt e 0 2 } :: l)
    | (s1, .error _) => (s1, none)

/-- A grid from its section (R384); `b` starts behind the section's header. Its queue and record number, which a record of R126 names, are not in the
image. [DESIGN CHOICE, log entry 64] -/
def readGrid (s : State) (id ctx : Nat) (b : List Byte) : Grid :=
  let at_ := fun (o n : Nat) => fieldAt b (o - 16) n
  let raw : BitVec 512 := BitVec.ofNat 512 (at_ 0x10 64)
  let fl := at_ 0x3A8 4
  let t := at_ 0x3A4 4
  let w : BitVec 64 := BitVec.ofNat 64 (2 ^ 63 + t * field512 raw 0x3C 2)
  let sp : Spec :=
    { pred := at_ 0x3A0 4, truth := if bit fl 0 then some t else none, latched := if bit fl 2 then some w else none
      ralt := if field512 raw 0x12 2 / 256 == 0xFF then none else some (BitVec.ofNat 128 (at_ 0x3B0 16))
      since := watchNow s ctx, carried := at_ 0x3AC 4, failed := false }
  { id := id, ctx := ctx, raw := raw, unif := (wordsOf 4 (if recKsel raw then 128 else 64) ((b.drop 0x40).take 512)).map (BitVec.ofNat 32)
    bufs := (wordsOf 16 16 ((b.drop 0x240).take 256)).map (BitVec.ofNat 128), dptrs := (wordsOf 8 8 ((b.drop 0x340).take 64)).map (BitVec.ofNat 64)
    onum := bits (at_ 0x3C0 4) 12 10, kidx := bits (at_ 0x3C0 4) 22 10, queue := Config.unsaved id 0 % 65, recNo := Config.unsaved id 1 % 2 ^ 16, nextG := at_ 0x390 8
    spec := if recSpec raw then some sp else none, nRet := at_ 0x398 8, nSquash := 0, owed := [], owedAll := false, ended := false, seen := [] }

/-- Arrivals of a wait among restored threads, in the order of their frame records. [DEDUCED, log entry 67] -/
def arrivals (ts : List Thread) (w : Wait) : List Nat := (ts.filter fun t => t.wait.any fun m => m.waits.contains w).map (·.uid)

/-- The contributions that the frame records of a group hold, as collectives of a word and a generation: the records do not say where the word stands,
which the next contribution tells (R353, R385). [DEDUCED, log entry 67] -/
def readColls (now : Nat) (ts : List (Thread × List Byte)) : List Coll :=
  ts.foldl (fun l p =>
    let b := (p.2.drop 0x140).take 32
    if fieldAt b 0 1 != 2 then l
    else
      let fl := fieldAt b 3 1
      let v := fieldAt b 0x10 8
      let tok : Tok := if bit fl 0 then .null else if bit fl 1 then .poison (BitVec.ofNat 32 v) else .val (BitVec.ofNat 128 v)
      let c : Contrib := ⟨p.1.uid, p.1.tid, tok⟩
      let w : BitVec 32 := BitVec.ofNat 32 (fieldAt b 4 4)
      let mine : Coll → Bool := fun k => k.word == w && k.gen == fieldAt b 8 8
      if l.any mine then modWhere mine (fun k => { k with contribs := k.contribs ++ [c] }) l
      else l ++ [⟨p.1.ptr, 128, w, fieldAt b 8 8, [c], now, false⟩]) []

/-- A thread parked on a migration request is told by the page table whether the page is a large one (R246). [DESIGN CHOICE, log entry 65] -/
def sizePark (s : State) (t : Thread) : Thread :=
  match t.kept, ctx? s t.ctx with
  | some r, some c => match walk s (ptBase c) r.addr with
    | .migrate large => { t with parkLarge := large && r.kind == 1 && r.cause == 2 }
    | _ => t
  | _, _ => t

/-- Where a restored group's numbers come from: its context, the numbers given to the image's grids, and grid and index of each group section. -/
structure Rebuild where
  ctx : Nat
  gids : List Nat
  owners : List (Nat × Nat)

/-- A group section rebuilt as a group that sits in dugout `k` (R385, R386); `b` starts behind the section's header. -/
def readGroup (s : State) (rb : Rebuild) (k : Nat) (b : List Byte) : State :=
  let f := fun (o n : Nat) => fieldAt b (o - 16) n
  let ctx := rb.ctx
  let grid := rb.gids.getD (f 0x10 4) 0
  let gidx := f 0x18 8
  let vc := 16 * (f 0x20 1 % 8) + f 0x21 1 % 16
  let now := watchNow s ctx
  let nth := f 0x24 4
  let (opsl, units, nms) := (f 0x29 1, f 0x2A 1, f 0x2B 1)
  let (ncp, nrg) := (f 0x2C 1, f 0x2D 1)
  let acl := (List.range 16).filter (bit (f 0x2E 2))
  let ptl := (List.range 8).filter (bit (f 0x30 1))
  let frames := entries 384 nth (b.drop 0x70)
  let a1 := b.drop (0x70 + 384 * nth)
  let a2 := a1.drop (16384 * units)
  let a3 := a2.drop (32 * units)
  let a4 := a3.drop (5136 * opsl)
  let a5 := a4.drop (8192 * acl.length)
  let a6 := a5.drop (4240 * ptl.length)
  let a7 := a6.drop (16 * nms)
  let a8 := a7.drop (64 * ncp)
  let base := s.nextId
  let ts := ((List.range nth).zip frames).map fun p => (sizePark s (readFrame (base + p.1) ctx grid gidx vc now p.2), p.2)
  let uids := ts.map fun p => p.1.uid
  let only := ts.map (·.1)
  let copies0 := ((List.range ncp).zip (entries 64 ncp a7)).map fun p => readCopy (base + nth + nms + p.1) ctx grid gidx vc uids p.2
  let absent := readAbsent units a2 copies0
  let copies := copies0.map (holdAbsent absent)
  let ops0 := ((List.range nms).zip (entries 16 nms a6)).map fun p => readOp (base + nth + p.1) ctx grid gidx vc uids p.2
  let ops := ops0.map fun o => { o with seenCopies := fillsBefore ops0 copies o }
  let owner : Nat → Option Nat := fun n => (rb.owners[n]?).map (·.2)
  let sv : Saved :=
    { spad := runCells 0 (a1.take (16384 * units)), absent := absent, badLines := [], slots := (entries 5136 opsl a3).map readSlotEntry
      accs := (acl.zip (entries 8192 acl.length a4)).map fun p =>
        (p.1, { Tile.reset with holder := some (grid, gidx), ctx := ctx, cells := runCells 0 p.2 })
      pts := (ptl.zip (entries 4240 ptl.length a5)).map fun p => (p.1, readPart ctx grid gidx p.2)
      ops := ops, copies := copies, rings := (entries 16 nrg a8).map (readRing grid gidx owner) }
  let gwS := f 0x66 2
  let bar : Nat → Bar := fun i =>
    let arr := arrivals only (.bar i)
    ⟨f (0x40 + 8 * i) 4, arr, now, false, BitVec.ofNat 32 i⟩
  let gr : Group :=
    { ctx := ctx, grid := grid, gidx := gidx, vd := f 0x20 1 % 8, at_ := .dugout k vc, st := if f 0x22 1 == 2 then .provDone else .running, startAt := 0
      spadBase := 0, spadUnits := units, opsl := List.range opsl, bars := (List.range 4).map bar
      gw := ⟨f 0x60 4, arrivals only .gwait, now, false, 4⟩, gwSig := bits gwS 0 12, gwThr := BitVec.ofNat 64 (f 0x68 8), gwScope := f 0x70 1
      colls := readColls now ts, zsk := bit (f 0x23 1) 0, tfCode := f 0x31 1, tfCount := f 0x32 3, wantIn := true, saved := some sv }
  { s with nextId := base + nth + nms + ncp, groups := s.groups ++ [gr], threads := s.threads ++ only }

/-- The core of a restored group: its own where that fits, else another of its virtual die (R386). -/
def homeFor? (s : State) (gr : Group) (sv : Saved) (vc : Nat) : Option Nat :=
  if coreFits s vc gr.grid (threadsOf s gr.grid gr.gidx).length gr.spadUnits gr.opsl.length && tilesFree s vc gr.grid gr.gidx sv && ringsFree s vc sv then some vc
  else returnCore? s gr sv

/-- A restored group is placed: on its core, on another of its virtual die, or in a dugout frame (R386). -/
def placeGroup (s : State) (gr : Group) : State :=
  match gr.at_, gr.saved with
  | .dugout k vc, some sv =>
    if gr.st == .provDone then modGroup (freeDugout s k) gr.grid gr.gidx fun g => { g with at_ := .core vc, saved := none, wantIn := false }
    else match homeFor? s gr sv vc with
      | some home => restoreTo s gr sv home
      | none =>
      let s1 := if k < s.ap.dgpN.toNat then hubWrite s (dugoutPa s k) (groupSection s gr) else s
      { s1 with hub := { s1.hub with dugouts := s1.hub.dugouts ++ [(k, gr.grid, gr.gidx)] } }
  | _, _ => s

/-- One group section: rebuilt and placed. [DEDUCED, log entry 68] -/
def restoreGroup (rb : Rebuild) (s : State) (b : List Byte) : State :=
  let k := (freeDugoutFrame? s).getD (4096 + s.nextId)
  let s1 := readGroup s rb k b
  match s1.groups.getLast? with
  | some gr => placeGroup s1 gr
  | none => s1

/-- The context is rebuilt from checked sections (R386). [DEDUCED, log entry 32] -/
def rebuild (s : State) (t : Ctx) (secs : List Sec) (c1 : Ctx) (objs : List Obj) : State :=
  let s1 := modCtx s t.num fun _ => { c1 with objs := objs }
  let pred := ((secs.headD ⟨0, 0, []⟩).body.drop 0x130).take 4096
  let s2 := (putRange c1 2 s1 c1.regs.predBase.toNat pred).1
  let gsecs := secs.filter fun x => x.type == 3
  let s3 := gsecs.foldl (fun s x => { s with nextId := s.nextId + 1, grids := s.grids ++ [readGrid s s.nextId t.num x.body] }) s2
  let gids := (List.range gsecs.length).map (· + s2.nextId)
  let groups := secs.filter fun x => x.type == 4
  let owners := groups.map fun x => (gids.getD (fieldAt x.body 0 4) 0, fieldAt x.body 8 8)
  groups.foldl (fun s x => restoreGroup ⟨t.num, gids, owners⟩ s x.body) s3

/-- A context that `ctxld` may fill: it holds no group, queue or registered object (R386). -/
def ctxEmpty (s : State) (t : Ctx) : Bool :=
  t.objs.isEmpty && t.direct.isEmpty && t.heads.all (fun h => h.raw.isNone) && !s.grids.any (fun g => g.ctx == t.num) && !s.groups.any fun g => g.ctx == t.num

/-- `ctxld` of a context from an address of the executing context (R364, R386): the state after, and the status word. [DEDUCED, log entry 68] -/
def loadImage (s : State) (ctx tctx va : Nat) : State × Nat :=
  let need : HubNeed := ⟨true, false, none, false⟩
  match ctx? s ctx, ctx? s tctx with
  | some c, some t =>
    if !ctxEmpty s t then (s, imageStatus 2 0)
    else match (if va % 65536 == 0 then peekRange s c need va 256 else (s, none)) with
      | (s1, none) => (s1, imageStatus 3 0)
      | (s1, some h) =>
        if !headOk s h then (s1, imageStatus 4 0)
        else
          let size := fieldAt h 0x10 8
          match (if size ≤ 2 ^ 40 then peekRange s1 c need va size else (s1, none)) with
          | (s2, none) => (s2, imageStatus 3 0)
          | (s2, some bs) => match readSecs (fieldAt h 0x18 4) (bs.drop 256) with
            | none => (s2, imageStatus 4 0)
            | some secs =>
              let c1 := readCtx t (secs.headD ⟨0, 0, []⟩).body
              let others := ((s.ctxs.filter fun x => x.num != tctx).map fun x => x.regs.sigtN.toNat).foldl (· + ·) 0
              if (secs.headD ⟨0, 0, []⟩).type != 1 then (s2, imageStatus 4 0)
              else if 4096 < others + c1.regs.sigtN.toNat then (s2, imageStatus 5 0)
              else match readObjs c1 (entries 64 (fieldAt h 0x30 4) ((secs.getD 1 ⟨0, 0, []⟩).body)) s2 with
                | (s3, none) => (s3, imageStatus 4 0)
                | (s3, some objs) => (rebuild s3 t secs c1 objs, imageStatus 0 size)
  | _, _ => (s, imageStatus 2 0)

/-- IMAGE_STATUS_LAND (R364): a `ctxsv` or `ctxld` ends and its status lands. -/
def execImageStatusLand (k : Nat) (s : State) : Out :=
  match effect? s k with
  | none => .next s
  | some e => match e.kind with
    | .image save tctx slot =>
      if e.landed || fenced s e then .next s
      else
        let (s1, w) := if save then saveImage s e.ctx tctx e.va else loadImage s e.ctx tctx e.va
        .next (settleEffects (landStatus (modEffect s1 k fun x => { x with landed := true }) e.uid slot w))
    | _ => .next s

end Sys2Proof.Machine
end

