-- ==== Sys2Proof/Machine/Integer.lean ====
section
/-! DEFINITION. The integer, logic, bit-field, compare and select words (R185 to R196): each gives `fireInt` the function of its
lanes. -/
namespace Sys2Proof.Machine

/-- (a + b) mod 2^w in each lane (R185). -/
def execAdd (f : FmtA) (s : State) : Out := fireInt (.add f) s (onLanes f.ty laneAdd)

/-- (a - b) mod 2^w in each lane (R185). -/
def execSub (f : FmtA) (s : State) : Out := fireInt (.sub f) s (onLanes f.ty laneSub)

/-- (a * b) mod 2^w in each lane (R185). -/
def execMul (f : FmtA) (s : State) : Out := fireInt (.mul f) s (onLanes f.ty laneMul)

/-- The high half of the exact product (R185). -/
def execMulhi (f : FmtA) (s : State) : Out := fireInt (.mulhi f) s (onLanes f.ty laneMulhi)

/-- (a * b + c) mod 2^w in each lane (R185). -/
def execMad (f : FmtA) (s : State) : Out := fireInt (.mad f) s (onLanes f.ty laneMad)

/-- Quotient, truncated (R186). -/
def execDiv (f : FmtA) (s : State) : Out := fireInt (.div f) s (onLanes f.ty laneDiv)

/-- Remainder (R186). -/
def execRem (f : FmtA) (s : State) : Out := fireInt (.rem f) s (onLanes f.ty laneRem)

/-- The smaller under the signedness of the type (R185). -/
def execMin (f : FmtA) (s : State) : Out := fireInt (.min f) s (onLanes f.ty laneMinOp)

/-- The larger (R185). -/
def execMax (f : FmtA) (s : State) : Out := fireInt (.max f) s (onLanes f.ty laneMaxOp)

/-- Absolute value; MOD[0] saturates (R187). -/
def execAbs (f : FmtA) (s : State) : Out := fireInt (.abs f) s (onLanes f.ty (laneAbs (f.flag % 2 == 1)))

/-- Negation; MOD[0] saturates (R187). -/
def execNeg (f : FmtA) (s : State) : Out := fireInt (.neg f) s (onLanes f.ty (laneNeg (f.flag % 2 == 1)))

/-- a AND b (R188). -/
def execAnd (f : FmtA) (s : State) : Out := fireInt (.and f) s (onLanes f.ty laneAnd)

/-- a OR b (R188). -/
def execOr (f : FmtA) (s : State) : Out := fireInt (.or f) s (onLanes f.ty laneOr)

/-- a XOR b (R188). -/
def execXor (f : FmtA) (s : State) : Out := fireInt (.xor f) s (onLanes f.ty laneXor)

/-- NOT a (R188). -/
def execNot (f : FmtA) (s : State) : Out := fireInt (.not f) s (onLanes f.ty laneNot)

/-- a AND NOT b (R188). -/
def execAndn (f : FmtA) (s : State) : Out := fireInt (.andn f) s (onLanes f.ty laneAndn)

/-- Shift left (R189). -/
def execShl (f : FmtA) (s : State) : Out := fireInt (.shl f) s (onLanes f.ty laneShl)

/-- Logical shift right (R189). -/
def execShr (f : FmtA) (s : State) : Out := fireInt (.shr f) s (onLanes f.ty laneShr)

/-- Arithmetic shift right (R189). -/
def execSar (f : FmtA) (s : State) : Out := fireInt (.sar f) s (onLanes f.ty laneSar)

/-- Rotate left (R189). -/
def execRotl (f : FmtA) (s : State) : Out := fireInt (.rotl f) s (onLanes f.ty laneRotl)

/-- Number of one bits (R190). -/
def execPopc (f : FmtA) (s : State) : Out := fireInt (.popc f) s (onLanes f.ty lanePopc)

/-- Zero bits above the highest one (R190). -/
def execClz (f : FmtA) (s : State) : Out := fireInt (.clz f) s (onLanes f.ty laneClz)

/-- Zero bits below the lowest one (R190). -/
def execCtz (f : FmtA) (s : State) : Out := fireInt (.ctz f) s (onLanes f.ty laneCtz)

/-- Bits in reverse (R190). -/
def execBrev (f : FmtA) (s : State) : Out := fireInt (.brev f) s (onLanes f.ty laneBrev)

/-- Field extraction (R191). -/
def execBfx (f : FmtA) (s : State) : Out := fireInt (.bfx f) s (onLanes f.ty laneBfx)

/-- Field insertion (R191). -/
def execBfi (f : FmtA) (s : State) : Out := fireInt (.bfi f) s (onLanes f.ty laneBfi)

/-- Compare (R193). -/
def execCmp (f : FmtC) (s : State) : Out := fireInt (.cmp f) s fun a b _ => intCmp f.ty.toNat f.cond.toNat a b

/-- The token `sel` forwards (R194). -/
def selTok (p a b : Tok) : Tok :=
  match p with
  | .poison o => .poison o
  | .null => if a == .null then b else a
  | .val v => if v.getLsbD 0 then a else b

/-- Select (R194): the word forwards one of its tokens, whatever the others are. -/
def execSel (f : FmtA) (s : State) : Out :=
  match site? s, shape (.sel f) with
  | some x, some sh =>
    if canFire x sh then .next (emit s x (selTok ((tokAt x.ins x.idx 3).getD .null) (portTok s x sh 0) (portTok s x sh 1)) 0) else .next s
  | _, _ => .next s

/-- Saturating sum (R185). -/
def execAdds (f : FmtA) (s : State) : Out := fireInt (.adds f) s (onLanes f.ty laneAdds)

/-- Saturating difference (R185). -/
def execSubs (f : FmtA) (s : State) : Out := fireInt (.subs f) s (onLanes f.ty laneSubs)

/-- Sum of four byte products and c (R195). -/
def execDot4 (f : FmtA) (s : State) : Out := fireInt (.dot4 f) s (intDot f.ty (f.flag % 2 == 1))

/-- Sum of two half products and c (R195). -/
def execDot2 (f : FmtA) (s : State) : Out := fireInt (.dot2 f) s (intDot f.ty (f.flag % 2 == 1))

/-- a + b * 2^s (R196). -/
def execIxa (f : FmtA) (s : State) : Out := fireInt (.ixa f) s (onLanes f.ty (laneIxa f.flag))

/-- Funnel shift (R192). -/
def execFsh (f : FmtA) (s : State) : Out := fireInt (.fsh f) s (onLanes f.ty laneFsh)

/-- Byte selection (R192). -/
def execPerm (f : FmtA) (s : State) : Out := fireInt (.perm f) s (onLanes f.ty lanePerm)

/-- Any function of three bits, from the table in S (R188). -/
def execLop3 (f : FmtA) (s : State) : Out := fireInt (.lop3 f) s (onLanes f.ty (laneLop3 f.s.toNat))

end Sys2Proof.Machine
end

