-- ==== Sys2Proof/Machine/Dispatch.lean ====
section
/-! DEFINITION. The dispatch from an instruction or step of the opcode table to its meaning: one arm for each constructor of
`Instr`. -/
namespace Sys2Proof.Machine

/-- The meaning of every row of the opcode table. -/
def exec (i : Instr) (s : State) : Host.Outcome State Fault Refusal :=
  match i with
  | .signalWriteObserved => Sys2Proof.Machine.execSignalWriteObserved s
  | .recordReachesHead ctx q => Sys2Proof.Machine.execRecordReachesHead ctx q s
  | .launchRelease => Sys2Proof.Machine.execLaunchRelease s
  | .groupHandout => Sys2Proof.Machine.execGroupHandout s
  | .groupStart g => Sys2Proof.Machine.execGroupStart g s
  | .shapeSourceTimeout gid => Sys2Proof.Machine.execShapeSourceTimeout gid s
  | .squashZeroFill g => Sys2Proof.Machine.execSquashZeroFill g s
  | .groupRetire g => Sys2Proof.Machine.execGroupRetire g s
  | .completionDecrement k => Sys2Proof.Machine.execCompletionDecrement k s
  | .notifyEntryArm n w => Sys2Proof.Machine.execNotifyEntryArm n w s
  | .hostNotificationMessage n => Sys2Proof.Machine.execHostNotificationMessage n s
  | .bullpenFill k => Sys2Proof.Machine.execBullpenFill k s
  | .placementSlotFree vc slot => Sys2Proof.Machine.execPlacementSlotFree vc slot s
  | .placementDrain vc slot => Sys2Proof.Machine.execPlacementDrain vc slot s
  | .threadAdmit vc slot => Sys2Proof.Machine.execThreadAdmit vc slot s
  | .stageReentry vc slot stage => Sys2Proof.Machine.execStageReentry vc slot stage s
  | .loadReturn vc frame idx => Sys2Proof.Machine.execLoadReturn vc frame idx s
  | .threadCommit vc frame => Sys2Proof.Machine.execThreadCommit vc frame s
  | .atomicResultLand e => Sys2Proof.Machine.execAtomicResultLand e s
  | .deferredSuccessorMove vc frame => Sys2Proof.Machine.execDeferredSuccessorMove vc frame s
  | .pageWalk ctx page => Sys2Proof.Machine.execPageWalk ctx page s
  | .fuDone v => Sys2Proof.Machine.execFuDone v s
  | .dugoutEvict g => Sys2Proof.Machine.execDugoutEvict g s
  | .writePlacement m => Sys2Proof.Machine.execWritePlacement m s
  | .gaAcknowledge e => Sys2Proof.Machine.execGaAcknowledge e s
  | .ackRetry e => Sys2Proof.Machine.execAckRetry e s
  | .ackLossResolution e readable => Sys2Proof.Machine.execAckLossResolution e readable s
  | .peerWritePerform w => Sys2Proof.Machine.execPeerWritePerform w s
  | .peerFlowRefused e code => Sys2Proof.Machine.execPeerFlowRefused e code s
  | .copyStart vc eng => Sys2Proof.Machine.execCopyStart vc eng s
  | .copyLineWrite vc eng => Sys2Proof.Machine.execCopyLineWrite vc eng s
  | .copyComplete vc eng => Sys2Proof.Machine.execCopyComplete vc eng s
  | .volleyPermit c => Sys2Proof.Machine.execVolleyPermit c s
  | .tileOpFire vc => Sys2Proof.Machine.execTileOpFire vc s
  | .accumulatorStoreDone o => Sys2Proof.Machine.execAccumulatorStoreDone o s
  | .tfenceStatusLand o => Sys2Proof.Machine.execTfenceStatusLand o s
  | .barrierStall g w => Sys2Proof.Machine.execBarrierStall g w s
  | .heldCommitStall vc frame => Sys2Proof.Machine.execHeldCommitStall vc frame s
  | .eventQueueRetry ctx => Sys2Proof.Machine.execEventQueueRetry ctx s
  | .fcmdResume v => Sys2Proof.Machine.execFcmdResume v s
  | .fcmdRedirect v => Sys2Proof.Machine.execFcmdRedirect v s
  | .fcmdKillThread v => Sys2Proof.Machine.execFcmdKillThread v s
  | .fcmdKillGroup v => Sys2Proof.Machine.execFcmdKillGroup v s
  | .fcmdWriteSlot v => Sys2Proof.Machine.execFcmdWriteSlot v s
  | .fcmdRepost v => Sys2Proof.Machine.execFcmdRepost v s
  | .fcmdResumeKind v => Sys2Proof.Machine.execFcmdResumeKind v s
  | .fcmdStep v => Sys2Proof.Machine.execFcmdStep v s
  | .dhaltSet vc => Sys2Proof.Machine.execDhaltSet vc s
  | .dhaltClear vc => Sys2Proof.Machine.execDhaltClear vc s
  | .quiesceRequest ctx => Sys2Proof.Machine.execQuiesceRequest ctx s
  | .quiescePhaseAdvance ctx => Sys2Proof.Machine.execQuiescePhaseAdvance ctx s
  | .dieCutAnswer ctx die => Sys2Proof.Machine.execDieCutAnswer ctx die s
  | .quiesceResume ctx => Sys2Proof.Machine.execQuiesceResume ctx s
  | .imageStatusLand k => Sys2Proof.Machine.execImageStatusLand k s
  | .drstGo v => Sys2Proof.Machine.execDrstGo v s
  | .dieResetWriteBack => Sys2Proof.Machine.execDieResetWriteBack s
  | .dieResetOffline => Sys2Proof.Machine.execDieResetOffline s
  | .dieReadmit => Sys2Proof.Machine.execDieReadmit s
  | .ctxCreate => Sys2Proof.Machine.execCtxCreate s
  | .ctxCreateSupervisor => Sys2Proof.Machine.execCtxCreateSupervisor s
  | .ctxDestroy ctx => Sys2Proof.Machine.execCtxDestroy ctx s
  | .objRegister ctx => Sys2Proof.Machine.execObjRegister ctx s
  | .objUnregister ctx onum => Sys2Proof.Machine.execObjUnregister ctx onum s
  | .vctWrite n v => Sys2Proof.Machine.execVctWrite n v s
  | .sigtNWrite ctx v => Sys2Proof.Machine.execSigtNWrite ctx v s
  | .registerWrite off v => Sys2Proof.Machine.execRegisterWrite off v s
  | .attestationRequest v => Sys2Proof.Machine.execAttestationRequest v s
  | .attestationReportDone => Sys2Proof.Machine.execAttestationReportDone s
  | .firmwareUpdate img => Sys2Proof.Machine.execFirmwareUpdate img s
  | .lifeCycleAdvance c => Sys2Proof.Machine.execLifeCycleAdvance c s
  | .powerOnStart r => Sys2Proof.Machine.execPowerOnStart r s
  | .monitorEnable u v => Sys2Proof.Machine.execMonitorEnable u v s
  | .monitorSnap u => Sys2Proof.Machine.execMonitorSnap u s
  | .monitorSample u src v => Sys2Proof.Machine.execMonitorSample u src v s
  | .clockStep region high => Sys2Proof.Machine.execClockStep region high s
  | .patrolScrub what => Sys2Proof.Machine.execPatrolScrub what s
  | .uncorrectableError site => Sys2Proof.Machine.execUncorrectableError site s
  | .hbmRowRemap stack row => Sys2Proof.Machine.execHbmRowRemap stack row s
  | .pseudoChannelSwitch stack ch => Sys2Proof.Machine.execPseudoChannelSwitch stack ch s
  | .wavelengthSpare fibre wl => Sys2Proof.Machine.execWavelengthSpare fibre wl s
  | .fibreFailure fibre => Sys2Proof.Machine.execFibreFailure fibre s
  | .cacheWaySpare site way => Sys2Proof.Machine.execCacheWaySpare site way s
  | .thlLaneFailure => Sys2Proof.Machine.execThlLaneFailure s
  | .hostWrite pa data => Sys2Proof.Machine.execHostWrite pa data s
  | .hostRead pa n => Sys2Proof.Machine.execHostRead pa n s
  | .nop f => Sys2Proof.Machine.execNop f s
  | .next f => Sys2Proof.Machine.execNext f s
  | .nextp f => Sys2Proof.Machine.execNextp f s
  | .nextpu f => Sys2Proof.Machine.execNextpu f s
  | .nexti f => Sys2Proof.Machine.execNexti f s
  | .call f => Sys2Proof.Machine.execCall f s
  | .calli f => Sys2Proof.Machine.execCalli f s
  | .ret f => Sys2Proof.Machine.execRet f s
  | .exit f => Sys2Proof.Machine.execExit f s
  | .bar f => Sys2Proof.Machine.execBar f s
  | .yield f => Sys2Proof.Machine.execYield f s
  | .spawn f => Sys2Proof.Machine.execSpawn f s
  | .gwait f => Sys2Proof.Machine.execGwait f s
  | .trap f => Sys2Proof.Machine.execTrap f s
  | .brk f => Sys2Proof.Machine.execBrk f s
  | .launch f => Sys2Proof.Machine.execLaunch f s
  | .himm f => Sys2Proof.Machine.execHimm f s
  | .hoff f => Sys2Proof.Machine.execHoff f s
  | .htgt f => Sys2Proof.Machine.execHtgt f s
  | .hsch f => Sys2Proof.Machine.execHsch f s
  | .add f => Sys2Proof.Machine.execAdd f s
  | .sub f => Sys2Proof.Machine.execSub f s
  | .mul f => Sys2Proof.Machine.execMul f s
  | .mulhi f => Sys2Proof.Machine.execMulhi f s
  | .mad f => Sys2Proof.Machine.execMad f s
  | .div f => Sys2Proof.Machine.execDiv f s
  | .rem f => Sys2Proof.Machine.execRem f s
  | .min f => Sys2Proof.Machine.execMin f s
  | .max f => Sys2Proof.Machine.execMax f s
  | .abs f => Sys2Proof.Machine.execAbs f s
  | .neg f => Sys2Proof.Machine.execNeg f s
  | .and f => Sys2Proof.Machine.execAnd f s
  | .or f => Sys2Proof.Machine.execOr f s
  | .xor f => Sys2Proof.Machine.execXor f s
  | .not f => Sys2Proof.Machine.execNot f s
  | .andn f => Sys2Proof.Machine.execAndn f s
  | .shl f => Sys2Proof.Machine.execShl f s
  | .shr f => Sys2Proof.Machine.execShr f s
  | .sar f => Sys2Proof.Machine.execSar f s
  | .rotl f => Sys2Proof.Machine.execRotl f s
  | .popc f => Sys2Proof.Machine.execPopc f s
  | .clz f => Sys2Proof.Machine.execClz f s
  | .ctz f => Sys2Proof.Machine.execCtz f s
  | .brev f => Sys2Proof.Machine.execBrev f s
  | .bfx f => Sys2Proof.Machine.execBfx f s
  | .bfi f => Sys2Proof.Machine.execBfi f s
  | .cmp f => Sys2Proof.Machine.execCmp f s
  | .sel f => Sys2Proof.Machine.execSel f s
  | .adds f => Sys2Proof.Machine.execAdds f s
  | .subs f => Sys2Proof.Machine.execSubs f s
  | .dot4 f => Sys2Proof.Machine.execDot4 f s
  | .dot2 f => Sys2Proof.Machine.execDot2 f s
  | .ixa f => Sys2Proof.Machine.execIxa f s
  | .fsh f => Sys2Proof.Machine.execFsh f s
  | .perm f => Sys2Proof.Machine.execPerm f s
  | .lop3 f => Sys2Proof.Machine.execLop3 f s
  | .fadd f => Sys2Proof.Machine.execFadd f s
  | .fsub f => Sys2Proof.Machine.execFsub f s
  | .fmul f => Sys2Proof.Machine.execFmul f s
  | .fma f => Sys2Proof.Machine.execFma f s
  | .fmin f => Sys2Proof.Machine.execFmin f s
  | .fmax f => Sys2Proof.Machine.execFmax f s
  | .fminn f => Sys2Proof.Machine.execFminn f s
  | .fmaxn f => Sys2Proof.Machine.execFmaxn f s
  | .fabs f => Sys2Proof.Machine.execFabs f s
  | .fneg f => Sys2Proof.Machine.execFneg f s
  | .fcmp f => Sys2Proof.Machine.execFcmp f s
  | .fclass f => Sys2Proof.Machine.execFclass f s
  | .fdiv f => Sys2Proof.Machine.execFdiv f s
  | .fsqrt f => Sys2Proof.Machine.execFsqrt f s
  | .frnd f => Sys2Proof.Machine.execFrnd f s
  | .ffrac f => Sys2Proof.Machine.execFfrac f s
  | .fscale f => Sys2Proof.Machine.execFscale f s
  | .fgetx f => Sys2Proof.Machine.execFgetx f s
  | .fsign f => Sys2Proof.Machine.execFsign f s
  | .fdot2 f => Sys2Proof.Machine.execFdot2 f s
  | .cvt f => Sys2Proof.Machine.execCvt f s
  | .cvtsr f => Sys2Proof.Machine.execCvtsr f s
  | .pack f => Sys2Proof.Machine.execPack f s
  | .unpack f => Sys2Proof.Machine.execUnpack f s
  | .qnt f => Sys2Proof.Machine.execQnt f s
  | .dqnt f => Sys2Proof.Machine.execDqnt f s
  | .rcp f => Sys2Proof.Machine.execRcp f s
  | .rsq f => Sys2Proof.Machine.execRsq f s
  | .ex2 f => Sys2Proof.Machine.execEx2 f s
  | .lg2 f => Sys2Proof.Machine.execLg2 f s
  | .sinpi f => Sys2Proof.Machine.execSinpi f s
  | .cospi f => Sys2Proof.Machine.execCospi f s
  | .tanh f => Sys2Proof.Machine.execTanh f s
  | .sigm f => Sys2Proof.Machine.execSigm f s
  | .rd f => Sys2Proof.Machine.execRd f s
  | .wr f => Sys2Proof.Machine.execWr f s
  | .mov f => Sys2Proof.Machine.execMov f s
  | .rdsys f => Sys2Proof.Machine.execRdsys f s
  | .xput f => Sys2Proof.Machine.execXput f s
  | .xget f => Sys2Proof.Machine.execXget f s
  | .xclr f => Sys2Proof.Machine.execXclr f s
  | .gred f => Sys2Proof.Machine.execGred f s
  | .gscan f => Sys2Proof.Machine.execGscan f s
  | .vote f => Sys2Proof.Machine.execVote f s
  | .ld f => Sys2Proof.Machine.execLd f s
  | .st f => Sys2Proof.Machine.execSt f s
  | .lds f => Sys2Proof.Machine.execLds f s
  | .sts f => Sys2Proof.Machine.execSts f s
  | .ldsn f => Sys2Proof.Machine.execLdsn f s
  | .ldc f => Sys2Proof.Machine.execLdc f s
  | .pf f => Sys2Proof.Machine.execPf f s
  | .ldacq f => Sys2Proof.Machine.execLdacq f s
  | .strel f => Sys2Proof.Machine.execStrel f s
  | .fence f => Sys2Proof.Machine.execFence f s
  | .cwb f => Sys2Proof.Machine.execCwb f s
  | .zfill f => Sys2Proof.Machine.execZfill f s
  | .pld f => Sys2Proof.Machine.execPld f s
  | .pst f => Sys2Proof.Machine.execPst f s
  | .aadd f => Sys2Proof.Machine.execAadd f s
  | .amin f => Sys2Proof.Machine.execAmin f s
  | .amax f => Sys2Proof.Machine.execAmax f s
  | .aand f => Sys2Proof.Machine.execAand f s
  | .aor f => Sys2Proof.Machine.execAor f s
  | .axor f => Sys2Proof.Machine.execAxor f s
  | .axchg f => Sys2Proof.Machine.execAxchg f s
  | .acas f => Sys2Proof.Machine.execAcas f s
  | .afadd f => Sys2Proof.Machine.execAfadd f s
  | .sigsub f => Sys2Proof.Machine.execSigsub f s
  | .sigwait f => Sys2Proof.Machine.execSigwait f s
  | .mbox f => Sys2Proof.Machine.execMbox f s
  | .tcopy f => Sys2Proof.Machine.execTcopy f s
  | .tstore f => Sys2Proof.Machine.execTstore f s
  | .tcopyo f => Sys2Proof.Machine.execTcopyo f s
  | .tcopyr f => Sys2Proof.Machine.execTcopyr f s
  | .tcast f => Sys2Proof.Machine.execTcast f s
  | .sfree f => Sys2Proof.Machine.execSfree f s
  | .spres f => Sys2Proof.Machine.execSpres f s
  | .tgath f => Sys2Proof.Machine.execTgath f s
  | .tscat f => Sys2Proof.Machine.execTscat f s
  | .tclaim f => Sys2Proof.Machine.execTclaim f s
  | .trel f => Sys2Proof.Machine.execTrel f s
  | .mma f => Sys2Proof.Machine.execMma f s
  | .mmi f => Sys2Proof.Machine.execMmi f s
  | .mmg f => Sys2Proof.Machine.execMmg f s
  | .tsacc f => Sys2Proof.Machine.execTsacc f s
  | .tzero f => Sys2Proof.Machine.execTzero f s
  | .tacst f => Sys2Proof.Machine.execTacst f s
  | .tacld f => Sys2Proof.Machine.execTacld f s
  | .tfence f => Sys2Proof.Machine.execTfence f s
  | .tmode f => Sys2Proof.Machine.execTmode f s
  | .rdctl f => Sys2Proof.Machine.execRdctl f s
  | .wrctl f => Sys2Proof.Machine.execWrctl f s
  | .tlbinv f => Sys2Proof.Machine.execTlbinv f s
  | .cinv f => Sys2Proof.Machine.execCinv f s
  | .evpost f => Sys2Proof.Machine.execEvpost f s
  | .perf f => Sys2Proof.Machine.execPerf f s
  | .ctxsv f => Sys2Proof.Machine.execCtxsv f s
  | .ctxld f => Sys2Proof.Machine.execCtxld f s
  | .powerLoss => Sys2Proof.Machine.execPowerLoss s
  | .writePerformedInL2 e => Sys2Proof.Machine.execWritePerformedInL2 e s
  | .peerWriteAcknowledged e => Sys2Proof.Machine.execPeerWriteAcknowledged e s
  | .hostWriteAccepted e => Sys2Proof.Machine.execHostWriteAccepted e s
  | .peerReadRequest r => Sys2Proof.Machine.execPeerReadRequest r s
  | .bullpenProtectionExpiry vc => Sys2Proof.Machine.execBullpenProtectionExpiry vc s

end Sys2Proof.Machine
end

