-- ==== Sys2Proof/Machine/Run.lean ====
section
/-! DEFINITION. Running one act (R99, R149, R400, R401): fetching a word from the configuration of the thread's placement, decoding it and running it, and
what happens without power and in the recovery state. -/
namespace Sys2Proof.Machine

/-- The word at an index of the configuration in which the thread of a frame runs (R149). -/
def fetchWord (s : State) (vc frame idx : Nat) : Option (BitVec 32) :=
  match threadAt? s vc frame with
  | none => none
  | some t => match t.inst with
    | none => none
    | some ins => match placeAt? s vc ins.place with
      | none => none
      | some pl => pl.conf.words[idx]?

/-- A word that is no instruction, or breaks a rule of its fields, is a malformed segment (R99, R100). [DEDUCED, log entry 7] -/
def badWord (s : State) (vc frame idx code : Nat) : State :=
  match threadAt? s vc frame with
  | none => s
  | some t => takeFault s t.uid ⟨3, 0, codeDetail code t.ptr.sidx idx, ((segAddr? s t.ctx t.grid t.ptr).getD (0, 0)).1, 0⟩

/-- The word at an index fires for the thread of a frame; where no word is, nothing happens. [DEDUCED, log entry 7] -/
def runFire (s : State) (vc frame idx : Nat) : Out :=
  match fetchWord s vc frame idx with
  | none => .next s
  | some w => match decode w with
    | .ok i =>
      if i.wellFormed then exec i { s with focus := ⟨vc, frame, idx⟩ }
      else .next (badWord s vc frame idx 9)
    | .error e => .next (badWord s vc frame idx (decodeCode e))

/-- The pages at which hub accesses of an act stopped are requested (R451). -/
def flushed (o : Out) : Out :=
  match o with
  | .next s => .next (flushStalls s)
  | o => o

/-- A far end's answer is kept while a load of the thread, or a copy (numbers from 128 on), asks for it; an answer to an attempt that has aborted is
discarded (R249, R254). -/
def answerTo (s : State) (r : PeerReply) : State :=
  let asked := (thread? s r.uid).any fun t => t.inst.any fun i => i.loads.any fun l => l.idx == r.idx && l.st == .pending
  if decide (128 ≤ r.idx) || asked then { s with replies := s.replies ++ [r] } else s

/-- The controller sets a region's floor and ceiling, a ceiling of at most 4.0 GHz; a clock outside them goes to the nearer with the next cycle (R22).
[DESIGN CHOICE, log entry 11] -/
def clockLimits (s : State) (region floor ceil : Nat) : State :=
  if ceil < floor || 4000 < ceil then s
  else { s with clock := { s.clock with
    regions := modAt (fun r => { r with floor := floor, ceil := ceil, soon := min ceil (max floor r.soon) }) s.clock.regions region } }

/-- Flits of the link to the host, the last of them sent again by the link layer where a failure says so (R395). -/
def countFlits (s : State) (n : Nat) (resent : Bool) : State :=
  let sent := s.ap.thlSent + n
  let keep := s.ap.thlResent.filter fun k => decide (sent < k + 2 ^ 20)
  { s with ap := { s.ap with thlSent := sent, thlResent := if resent && n != 0 then keep ++ [sent] else keep } }

/-- One act. [DESIGN CHOICE, log entry 1; DESIGN CHOICE, log entry 3] -/
def perform (a : Act) (s : State) : Out :=
  match a with
  | .fire vc frame idx => flushed (runFire s vc frame idx)
  | .event i => flushed (exec i s)
  | .idle n => .next (passTicks s n)
  | .peerReply vc uid idx refused data => .next (answerTo s ⟨vc, uid, idx, refused, data⟩)
  | .clockLimits region floor ceil => .next (clockLimits s region floor ceil)
  | .flits n resent => .next (countFlits s n resent)

/-- Without power only a start happens (R400). [DEDUCED, log entry 18] -/
def actAllowed (s : State) (a : Act) : Option Fault :=
  match a with
  | .event (.powerOnStart _) => none
  | _ => if s.pkg.power then none else some .noPower

/-- What responds in the recovery state (R401): the firmware load, the aperture's registers but FCMD, power, time and the clocks. Everything else does
nothing there. [DEDUCED, log entry 18] -/
def inRecovery (a : Act) : Bool :=
  match a with
  | .event (.firmwareUpdate _) | .event (.powerOnStart _) | .event .powerLoss => true
  | .event (.registerWrite ..) | .event (.notifyEntryArm ..) | .event (.dhaltSet _) | .event (.dhaltClear _) | .event (.drstGo _) => true
  | .event .ctxCreate | .event .ctxCreateSupervisor | .event (.ctxDestroy _) | .event (.objRegister _) | .event (.objUnregister ..) => true
  | .event (.sigtNWrite ..) | .event (.quiesceRequest _) | .event (.fuDone _) => true
  | .event (.attestationRequest _) | .event .attestationReportDone | .event (.monitorEnable ..) | .event (.monitorSnap _) => true
  | .idle _ | .clockLimits .. | .flits .. => true
  | _ => false

/-- The package responds to an act (R401). [DEDUCED, log entry 18] -/
def responds (s : State) (a : Act) : Bool := !s.pkg.recovery || inRecovery a

end Sys2Proof.Machine
end

