-- ==== Sys2Proof/Machine/Schedule.lean ====
section
/-! DEFINITION. What the machine does next by itself: the first of its own steps, in one fixed order, that changes anything. The manual leaves these orders
and timings open; an agenda stands for every other one. -/
namespace Sys2Proof.Machine

/-- An act runs to a state that differs, or stops. [DEDUCED, log entry 71] -/
def changes (s : State) (a : Act) : Bool :=
  match perform a s with
  | .next t => t != s
  | _ => true

/-- Virtual cores that hold anything. [DESIGN CHOICE, log entry 2] -/
def busyCores (s : State) : List Nat :=
  (List.range s.cores.length).filter fun vc =>
    let k := core s vc
    !k.entries.isEmpty || !k.places.isEmpty || !k.fetches.isEmpty || !k.copies.isEmpty || !k.ops.isEmpty || !k.bullpen.isEmpty

/-- The first word of a thread whose ports hold their tokens (R149). -/
def ownFire? (s : State) (t : Thread) : Option Act :=
  match t.inst with
  | none => none
  | some ins => match t.st == .admitted && t.resident, placeAt? s t.vc ins.place with
    | true, some pl =>
      let ws := decodeAll pl.conf.words
      ((List.range ws.length).find? fun i => match ws.getD i none with
        | some w => wordFires (some w) && (match shape w with
          | some sh => canFire ⟨t, ins, pl, ws, i⟩ sh
          | none => false)
        | none => false).map fun i => .fire t.vc t.frame i
    | _, _ => none

/-- A word that can fire. -/
def ownFires (s : State) : List Act := (s.threads.findSome? (ownFire? s)).toList

/-- Loads that wait, and walks. -/
def ownLoads (s : State) : List Act :=
  (s.hub.misses.map fun m => .event (.pageWalk m.ctx m.page)) ++
  s.threads.flatMap fun t => match t.inst with
    | some ins => (ins.loads.filter fun l => l.st == .pending).map fun l => .event (.loadReturn t.vc t.frame l.idx)
    | none => []

/-- Effects on their way. [DESIGN CHOICE, log entry 23; DESIGN CHOICE, log entry 24] -/
def ownEffects (s : State) : List Act :=
  s.effects.flatMap fun e =>
    (match e.st with
     | .committed => [.event (.writePerformedInL2 e.id), .event (.writePlacement (.place e.id))]
     | .onDie _ => [.event (.writePlacement (.place e.id))]
     | .placed => []) ++
    (if e.landed then [] else [.event (.atomicResultLand e.id), .event (.imageStatusLand e.id)]) ++
    (if e.ga && !e.acked then [.event (.gaAcknowledge e.id)] else []) ++ if e.mt == 2 && !e.accepted then [.event (.hostWriteAccepted e.id)] else []

/-- Placed writes that dies have not seen. -/
def ownDeliveries (s : State) : List Act :=
  ((List.range s.dies.length).filter fun d => !(die s d).inbox.isEmpty).map fun d => .event (.writePlacement (.deliver d))

/-- A thread has something to try at commit: every word has fired, or a load has failed. [DESIGN CHOICE, log entry 4] -/
def triesCommit (s : State) (t : Thread) : Bool :=
  mayCommit s t && (match commitSite? s t with
    | some x => allFired x || (failedLoad? x).isSome
    | none => false)

/-- The thread has been in its last stage for a cycle of each word of its segment: a commit follows the cycle of the last firing (R151), and the
manual gives no latency of a word. [DESIGN CHOICE, log entry 4] -/
def firedLongAgo (s : State) (t : Thread) : Bool :=
  match t.inst with
  | some ins =>
    let words := ((placeAt? s t.vc ins.place).map fun (p : Placement) => p.conf.words.length).getD 0
    decide ((ins.stages.map (·.cycle)).foldl max 0 + words ≤ coreNow s t.vc)
  | none => true

/-- A thread may enter the next stage. -/
def triesStage (s : State) (t : Thread) : Bool :=
  match t.inst with
  | some ins => match placeAt? s t.vc ins.place with
    | some pl => readyFor (decodeAll pl.conf.words) pl ins.stages.length t
    | none => false
  | none => false

/-- Everything that a thread's move waits for is over. -/
def triesMove (s : State) (t : Thread) : Bool :=
  match t.wait with
  | some w => w.waits.all (waitOver s)
  | none => false

/-- The threads' own moves: stages, commits, and moves that waited. -/
def ownThreads (s : State) : List Act :=
  s.threads.flatMap fun t =>
    if !t.resident then []
    else match t.st with
      | .admitted => (if firedLongAgo s t && triesCommit s t then [.event (.threadCommit t.vc t.frame)] else []) ++ (match t.inst with
          | some ins => if triesStage s t then [.event (.stageReentry t.vc ins.place ins.stages.length)] else []
          | none => [])
      | .held => if triesCommit s t then [.event (.threadCommit t.vc t.frame)] else []
      | .moving => if triesMove s t then [.event (.deferredSuccessorMove t.vc t.frame)] else []
      | _ => []

/-- The engines. -/
def ownEngines (s : State) : List Act :=
  (List.range s.cores.length).flatMap fun vc =>
    let k := core s vc
    (if k.copies.isEmpty then [] else
      (k.copies.map fun c => .event (.volleyPermit c.id)) ++
      [.event (.copyStart vc 0), .event (.copyStart vc 1), .event (.copyLineWrite vc 0), .event (.copyLineWrite vc 1), .event (.copyComplete vc 0),
       .event (.copyComplete vc 1)]) ++
    if k.ops.isEmpty then [] else
      .event (.tileOpFire vc) :: k.ops.flatMap fun o => [.event (.accumulatorStoreDone o.id), .event (.tfenceStatusLand o.id)]

/-- A placement slot has something to do: it is free and an entry waits, or it drains and is empty. -/
def triesSlot (s : State) (vc slot : Nat) : Bool :=
  match placeAt? s vc slot with
  | none => (chooseEntry? s vc).isSome
  | some p => p.st == .draining && (inFlightOf s vc slot).isEmpty

/-- Placement: fetches, slots and admissions. -/
def ownPlacement (s : State) : List Act :=
  (busyCores s).flatMap fun vc =>
    let k := core s vc
    ((k.places.filter fun p => (placeWaiting s vc p).any (admissible s p.conf)).map fun p => .event (.threadAdmit vc p.slot)) ++
    (k.fetches.map fun f => .event (.bullpenFill f.id)) ++
    (((List.range 8).filter (triesSlot s vc)).map fun i => .event (.placementSlotFree vc i)) ++
    ((k.places.filter fun p => p.st != .draining && (decide (1 < k.entries.length) || (placeWaiting s vc p).isEmpty)).map fun p => .event (.placementDrain vc p.slot)) ++
    if k.bullpen.any (fun b => b.guarded && decide (b.arrived + 4096 ≤ coreNow s vc)) then [.event (.bullpenProtectionExpiry vc)] else []

/-- A work queue whose descriptor can be read, is enabled and names a signal, or at whose head the dispatcher stands; and the direct queue.
[DEDUCED, log entry 63] -/
def liveQueues (s : State) (c : Ctx) : List Nat :=
  let q0 := (List.range 64).filter fun q => (head? c q).isSome || (match hubReadVa s c (queueVa c q) 32 queueNeed with
    | (_, some bs) => bit (natLE bs) 72 && bit (natLE bs) 95
    | (s1, none) => stalled s1)
  if c.direct.isEmpty then q0 else q0 ++ [64]

/-- The hub: signals, records held, launches, groups, retirement. -/
def ownHub (s : State) : List Act :=
  (if s.hub.sigWrites.isEmpty then [] else [.event .signalWriteObserved]) ++
  ((s.ctxs.filter fun c => !c.evHeld.isEmpty || c.evOver != 0).filterMap fun c =>
    if c.retryAt ≤ hubNow s then some (.event (.eventQueueRetry c.num)) else none) ++
  (if (eligibleHeads s).isEmpty then [] else [.event .launchRelease]) ++ (if (nextReturn? s).isNone && (nextGroup? s).isNone then [] else [.event .groupHandout]) ++
  ((List.range s.groups.length).filterMap fun g => match groupNo? s g with
    | some gr => match gr.st with
      | .starting => some (.event (.groupStart g))
      | .squashing => some (.event (.squashZeroFill g))
      | _ => if groupDone s gr then some (.event (.groupRetire g)) else none
    | none => none) ++
  ((s.grids.filter fun g => g.owedAll || !g.owed.isEmpty || gridSettled s g).map fun g => .event (.completionDecrement g.id)) ++
  ((List.range 64).filter fun n => !(s.ap.notify.getD n Notify.reset).due.isEmpty).map fun n => .event (.hostNotificationMessage n)

/-- The dispatcher's look at the queues. [DEDUCED, log entry 63] -/
def ownQueues (s : State) : List Act := s.ctxs.flatMap fun c => (liveQueues s c).map fun q => .event (.recordReachesHead c.num q)

/-- Quiesce, die reset, attestation, levels to be sampled. -/
def ownManagement (s : State) : List Act :=
  ((s.ctxs.filter fun c => c.regs.phase != 0).flatMap fun c =>
    [.event (.quiescePhaseAdvance c.num), .event (.quiesceResume c.num)] ++
    if c.regs.phase == 6 then (List.range 8).map fun d => .event (.dieCutAnswer c.num d) else []) ++
  (if (resetDie? s).isSome then [.event .dieResetWriteBack, .event .dieResetOffline, .event .dieReadmit] else []) ++
  (if s.ap.attSt == 0 then [.event .attestationReportDone] else []) ++
  ((List.range 144).filter fun u => (s.pkg.mons[u]?).any fun m => [2, 3, 4].any fun k => monTakes m k && decide (m.span < monNow s u / 1024)).map fun u =>
    .event (.monitorSample u (bits (s.pkg.mons.getD u Mon.reset).cfg.toNat 24 4) 0)

/-- The watchdogs. -/
def ownWatchdogs (s : State) : List Act :=
  ((List.range s.groups.length).flatMap fun g => match groupNo? s g with
    | some gr =>
      (if gr.bars.all (fun b => b.arrived.isEmpty) && gr.gw.arrived.isEmpty && gr.colls.all (fun k => k.contribs.isEmpty) then []
       else (List.range (5 + gr.colls.length)).map fun w => .event (.barrierStall g w)) ++
      if longParked s gr then [.event (.dugoutEvict g)] else []
    | none => []) ++
  (s.threads.filterMap fun t => if (t.inst.bind (·.commitAt)).isSome then some (.event (.heldCommitStall t.vc t.frame)) else none) ++
  ((s.grids.filter fun g => g.spec.isSome).map fun g => .event (.shapeSourceTimeout g.id)) ++
  ((s.effects.filter fun e => e.ga && !e.acked && !e.lost).flatMap fun e => [.event (.ackRetry e.id), .event (.ackLossResolution e.id true)])

/-- The machine's own steps, in the order in which they are tried. [DESIGN CHOICE, log entry 2] -/
def ownSteps : List (State → List Act) :=
  [ownFires, ownLoads, ownThreads, ownEffects, ownDeliveries, ownEngines, ownPlacement, ownHub, ownQueues, ownManagement, ownWatchdogs]

/-- The machine's own next step; none where only time can pass. [DESIGN CHOICE, log entry 2; DEDUCED, log entry 71] -/
def nextAct (s : State) : Option Act := ownSteps.findSome? fun f => (f s).find? (changes s)

end Sys2Proof.Machine
end

