-- ==== Sys2Proof/Machine/Step.lean ====
section
/-! DEFINITION. One step of the package: the next entry of the agenda, or the machine's own next step. -/
namespace Sys2Proof.Machine

/-- One step: the head of the agenda; with an empty agenda the machine's own next step, and where it has none a tick passes. In the recovery
state an act to which the package does not respond changes nothing (R401). [DESIGN CHOICE, log entry 1] -/
def step (s : State) : Host.Outcome State Fault Refusal :=
  match s.agenda with
  | a :: rest => match actAllowed s a with
    | some e => .fault e
    | none => if responds s a then perform a { s with agenda := rest } else .next { s with agenda := rest }
  | [] => match nextAct s with
    | some a => if responds s a then perform a s else .next (passTicks s 1)
    | none => .next (passTicks s 1)

/-- Value tokens of 0 on all four ports of the word at index 0. [DESIGN CHOICE, log entry 8] -/
def zeroToks : List (Nat × Nat × Tok) := [(0, 0, .val 0), (0, 1, .val 0), (0, 2, .val 0), (0, 3, .val 0)]

/-- The word of the probe as a configuration: the word alone, at index 0. [DESIGN CHOICE, log entry 8] -/
def probeConf (w : Nat) : Conf := ⟨0, 0, 0, [], [BitVec.ofNat 32 w]⟩

/-- The state with a word placed where the next step fires it: context 0, one grid of one group of one thread in frame 0 of vc0,
admitted to placement slot 0 whose configuration is that word, with value tokens of 0 at its ports. [DESIGN CHOICE, log entry 8] -/
def State.withFetchWord (s : State) (_nbits w : Nat) : State :=
  let ins : Inst := ⟨0, false, false, 0, 0, List.replicate 64 Slot.empty, zeroToks, [], [], 0, [⟨0, 0, 0⟩], [], none, false, none, none⟩
  let t : Thread :=
    { uid := 0, ctx := 0, grid := 0, gidx := 0, vc := 0, frame := 0, resident := true, tid := 0, detached := false, depth := 0
      ptr := ⟨0, 0, 0⟩, slots := List.replicate 64 Slot.empty, xs := List.replicate 8 Slot.empty, st := .admitted, seq := 0
      inst := some ins, wait := none, kept := none, parkAt := 0, ackLost := [], ackRec := none, lvsBad := [], parkLarge := false
      owesYield := false, bitAt := none, statusAt := [] }
  let c0 : Core := { Core.reset with places := [⟨0, 0, 0, ⟨0, 0, 0⟩, probeConf w, .admitting, 0, 1, [0], [0], []⟩], entries := [⟨0, 0, ⟨0, 0, 0⟩, 0, false⟩] }
  { s with agenda := .fire 0 0 0 :: s.agenda, threads := [t], cores := setAt s.cores 0 c0 }

end Sys2Proof.Machine
end

