-- ==== Sys2Proof/Safety.lean ====
section
/-! DEFINITION. What a safe run of the package keeps, and the words in which statements about a step are said: where a word fires, what
it sends, and what a step leaves alone. -/
namespace Sys2Proof.Machine

/-- The placed memory is in its canonical form; the form that every step keeps. -/
abbrev MemoryCanonical (s : State) : Prop := s.hub.placed.wf = true

/-- No two threads of the machine have one number, no two that are resident share a frame of a core, and each has its 64 slots and 8 exchange slots (R12, R350);
numbers come from a counter. -/
def ThreadsShaped (l : List Thread) (next : Nat) : Prop :=
  (l.map (·.uid)).Nodup ∧ ((l.filter (·.resident)).map fun t => (t.vc, t.frame)).Nodup ∧
  ∀ t ∈ l, t.uid < next ∧ t.slots.length = 64 ∧ t.xs.length = 8

/-- A core holds at most 128 translations, 64 configurations, 256 entries and 8 placements, no two in one place, and its 64 operand slots (each with the context
it was last of), 16 accumulators and 8 partial tiles (R12, R131, R231). -/
def CoreShaped (c : Core) : Prop :=
  c.tlb.length ≤ 128 ∧ c.bullpen.length ≤ 64 ∧ ((c.entries.map (·.idx)).Nodup ∧ ∀ e ∈ c.entries, e.idx < 256) ∧
  ((c.places.map (·.slot)).Nodup ∧ ∀ p ∈ c.places, p.slot < 8) ∧
  c.store.slots.length = 64 ∧ c.store.accs.length = 16 ∧ c.store.pts.length = 8 ∧ c.store.slotCtx.length = 64

/-- The shape that every step keeps: threads and their frames, effects with a number each, 128 cores and 8 dies with bounded tables, four barriers a group (R10, R25, R347). -/
def WellShaped (s : State) : Prop :=
  ThreadsShaped s.threads s.nextId ∧ ((s.effects.map (·.id)).Nodup ∧ ∀ e ∈ s.effects, e.id < s.nextId) ∧
  (s.cores.length = 128 ∧ ∀ c ∈ s.cores, CoreShaped c) ∧ (s.dies.length = 8 ∧ ∀ d ∈ s.dies, d.tlb.length ≤ 8192) ∧
  ∀ g ∈ s.groups, g.bars.length = 4

/-- A word fires at a site: it stands in focus there, its thread is admitted, and every port it consumes holds its token (R149). -/
abbrev Fires (s : State) (x : Site) (sh : Shape) : Prop := site? s = some x ∧ canFire x sh = true

/-- A word fires and computes from its operands: no poison, no failed predicate and no null decides its output before (R46). -/
abbrev Computes (s : State) (x : Site) (sh : Shape) : Prop := Fires s x sh ∧ siteGate s x sh = none

/-- The word completes by sending a token, with the conditions it raises. -/
abbrev Sends (o : Out) (s : State) (x : Site) (tok : Tok) (conds : Nat) : Prop := o = .next (emit s x tok conds)

/-- The width of a lane of an integer type (R182). -/
def laneWidth (ty : Nat) : Nat := (intLanes ty).2.1

/-- The signedness of an integer type (R182). -/
def laneSigned (ty : Nat) : Bool := (intLanes ty).2.2

/-- Lane `j` of the operand on port `p`. -/
def opLane (s : State) (x : Site) (sh : Shape) (ty p j : Nat) : Nat := lane (laneWidth ty) (portVal s x sh p) j

/-- The word completes by sending a token of its operation's width whose lanes satisfy a relation (R182, R185). -/
def SendsLanes (o : Out) (s : State) (x : Site) (ty : Nat) (rel : Nat → Nat → Prop) : Prop :=
  ∃ r, Sends o s x (valTok r) 0 ∧ r < 2 ^ intWidth ty ∧ ∀ j, j < (intLanes ty).1 → rel j (lane (laneWidth ty) r j)

/-- The word completes by sending the floating-point result `r`, or poison for it in poison mode (R44, R225). -/
abbrev SendsFloat (o : Out) (s : State) (x : Site) (r : FRes) : Prop := Sends o s x (floatTok x.ins.psn (siteOrigin x) r) r.conds

/-- The step leaves the instance of the thread in focus, as some instance, and changes nothing else. -/
def InstanceOnly (s t : State) : Prop := t = s ∨ ∃ x ins, site? s = some x ∧ t = modThread s x.t.uid fun u => { u with inst := some ins }

/-- Nothing but lines of the caches differs: no byte of memory, no overlay or inbox of a die, no TLB, no scratchpad and no thread. -/
def CachesOnly (s t : State) : Prop :=
  t = { s with hub := t.hub, dies := t.dies, cores := t.cores } ∧ t.hub = { s.hub with l3 := t.hub.l3, l3Wiped := t.hub.l3Wiped } ∧
  t.dies.map (fun d => { d with l2 := [], l2Wiped := 0 }) = s.dies.map (fun d => { d with l2 := [], l2Wiped := 0 }) ∧
  t.cores.map (fun c => { c with l1 := [] }) = s.cores.map fun c => { c with l1 := [] }

/-- Every byte of the placed memory reads as before. -/
def MemoryKept (s t : State) : Prop := ∀ a, memRead t.hub.placed a = memRead s.hub.placed a

/-- Every byte of the placed memory outside [a, a + n) reads as before. -/
def MemoryKeptOutside (s t : State) (a n : Nat) : Prop :=
  ∀ x, x < a ∨ a + n ≤ x → memRead t.hub.placed x = memRead s.hub.placed x

/-- What every thread holds beside its instance stays: its frame, slots, exchange slots, pointer and state; and with it the groups, grids,
effects, the aperture and the package. -/
def FramesKept (s t : State) : Prop :=
  t.groups = s.groups ∧ t.grids = s.grids ∧ t.effects = s.effects ∧ t.ap = s.ap ∧ t.pkg = s.pkg ∧ t.ctxs = s.ctxs ∧
  t.threads.map (fun u => { u with inst := none }) = s.threads.map fun u => { u with inst := none }

/-- The word is one of those that only send a token or hand their operands on when they fire. -/
def quietWord (i : Instr) : Bool :=
  isWord i && (match i with
    | .rd _ | .pf _ | .ld _ | .ldc _ | .ldacq _ | .pld _ => false
    | _ => true)

/-- The words of the fabric that compute one token from their operands. -/
def computingWord (i : Instr) : Bool :=
  match i with
  | .add _ | .sub _ | .mul _ | .mulhi _ | .mad _ | .div _ | .rem _ | .min _ | .max _ | .abs _ | .neg _ | .and _ | .or _ | .xor _ | .not _
  | .andn _ | .shl _ | .shr _ | .sar _ | .rotl _ | .popc _ | .clz _ | .ctz _ | .brev _ | .bfx _ | .bfi _ | .cmp _ | .adds _ | .subs _ | .dot4 _
  | .dot2 _ | .ixa _ | .fsh _ | .perm _ | .lop3 _ => true
  | .fadd _ | .fsub _ | .fmul _ | .fma _ | .fmin _ | .fmax _ | .fminn _ | .fmaxn _ | .fabs _ | .fneg _ | .fcmp _ | .fclass _ | .fdiv _
  | .fsqrt _ | .frnd _ | .ffrac _ | .fscale _ | .fgetx _ | .fsign _ | .fdot2 _ | .cvt _ | .cvtsr _ | .pack _ | .unpack _ | .qnt _ | .dqnt _
  | .rcp _ | .rsq _ | .ex2 _ | .lg2 _ | .sinpi _ | .cospi _ | .tanh _ | .sigm _ => true
  | .mov _ | .xget _ | .ld _ | .ldc _ | .lds _ | .ldsn _ | .ldacq _ | .pld _ => true
  | _ => false

/-- The words whose effect takes place at the commit of their instance (R48, R151, R346), and the successor words (R157). -/
def commitWord (i : Instr) : Bool :=
  match i with
  | .next _ | .nextp _ | .nextpu _ | .nexti _ | .call _ | .calli _ | .ret _ | .exit _ | .bar _ | .yield _ | .spawn _ | .gwait _ | .trap _ | .brk _
  | .launch _ => true
  | .wr _ | .xput _ | .xclr _ | .gred _ | .gscan _ | .vote _ => true
  | .st _ | .sts _ | .strel _ | .fence _ | .cwb _ | .zfill _ | .pst _ => true
  | .aadd _ | .amin _ | .amax _ | .aand _ | .aor _ | .axor _ | .axchg _ | .acas _ | .afadd _ | .sigsub _ | .sigwait _ | .mbox _ => true
  | .tcopy _ | .tstore _ | .tcopyo _ | .tcopyr _ | .tcast _ | .sfree _ | .spres _ | .tgath _ | .tscat _ => true
  | .tclaim _ | .trel _ | .mma _ | .mmi _ | .mmg _ | .tsacc _ | .tzero _ | .tacst _ | .tacld _ | .tfence _ | .tmode _ => true
  | .wrctl _ | .tlbinv _ | .cinv _ | .evpost _ | .ctxsv _ | .ctxld _ => true
  | _ => false

end Sys2Proof.Machine
end

