-- ==== Sys2Proof/Certificates/Slice0/Obligations.lean ====
section
/-! DEFINITION. The statements for the provers. Each cites the rules of the specification it rests on; where a clause states the model's own choice it
names the entry of the assumption log. -/
open Sys2Proof
open Sys2Proof.Machine

/-! Encoding and stepping -/

/-- R75, R76, R93: every Diros word, with every value of every field, is what the decoder reads back from its encoding. -/
def Obligations.DecodeOfEncode : Prop := ∀ i : Instr, isWord i = true → decode (encode i) = .ok i

/-- R75, R76, R93: no bit of a word that decodes is dropped: the encoder gives the word back, and what it decodes to is a Diros word. -/
def Obligations.EncodeOfDecode : Prop := ∀ (w : BitVec 32) (i : Instr), decode w = .ok i → isWord i = true ∧ encode i = w

/-- The opcodes of R94 that are not assigned, 0xF0 to 0xFF aside. -/
def unassignedOpcodes : List (Nat × Nat) :=
  [(0x14, 0x17), (0x3C, 0x3F), (0x54, 0x67), (0x6E, 0x77), (0x84, 0x84), (0x8B, 0x8F), (0x9E, 0xAF), (0xBC, 0xBF), (0xC9, 0xCF), (0xDB, 0xDF),
   (0xE8, 0xEF)]

/-- R94, R99: a word is rejected exactly when its opcode is one of the 102 of R94, the unassigned by one name and 0xF0 to 0xFF by another; check
0x06 and check 0x07 tell them apart. -/
def Obligations.OpcodesRejected : Prop := ∀ w : BitVec 32,
  let op := w.extractLsb' 24 8
  (decode w = .error (.unassigned op) ↔ (unassignedOpcodes.any fun r => decide (r.1 ≤ op.toNat) && decide (op.toNat ≤ r.2)) = true) ∧
  (decode w = .error (.reserved op) ↔ 0xF0 ≤ op.toNat) ∧
  (∀ e, decode w = .error e → e = .unassigned op ∨ e = .reserved op) ∧
  decodeCode (.unassigned op) = 6 ∧ decodeCode (.reserved op) = 7

/-- R76, R93: words written out bit by bit stand for their instructions, one for each format. -/
def Obligations.DecodedWords : Prop :=
  decode (0x18#8 ++ 0b000000101#9 ++ 0x88#8 ++ 0b01#2 ++ 0b00100#5) = .ok (.add ⟨5, 0x88, 1, 4⟩) ∧
  decode (0x82#8 ++ 0b000001000#9 ++ 0b000000001#9 ++ 0b10#2 ++ 0b0001#4) = .ok (.mov ⟨8, 1, 2, 1⟩) ∧
  decode (0x4A#8 ++ 0b000001011#9 ++ 0xFF#8 ++ 0b1101#4 ++ 0b101#3) = .ok (.fcmp ⟨11, 0xFF, 13, 5⟩) ∧
  decode (0x80#8 ++ 0b000000100#9 ++ 0b000001001#9 ++ 0b111110#6) = .ok (.rd ⟨4, 9, 62⟩) ∧
  decode (0x91#8 ++ 0b000000000#9 ++ 0b0011#4 ++ 0b00010#5 ++ 0b00#2 ++ 0b1010#4) = .ok (.st ⟨0, 3, 2, 0, 10⟩) ∧
  decode (0x02#8 ++ 0x123#12 ++ 0xABC#12) = .ok (.nextp ⟨0x123, 0xABC⟩) ∧
  decode (0xD2#8 ++ 0b000001#6 ++ 0b000010#6 ++ 0b000011#6 ++ 0b010000#6) = .ok (.mma ⟨1, 2, 3, 16⟩) ∧
  decode (0xB7#8 ++ 0b100001#6 ++ 0b0101#4 ++ 0b00110#5 ++ 0b011#3 ++ 0b111000#6) = .ok (.acas ⟨33, 5, 6, 3, 56⟩) ∧
  decode (0x10#8 ++ 0xFEDCBA#24) = .ok (.himm ⟨0xFEDCBA⟩) ∧
  decode (0xE1#8 ++ 0x83#8 ++ 0b000000000#9 ++ 0b0000000#7) = .ok (.wrctl ⟨0x83, 0, 0⟩)

/-- The state in which a step runs the act at the head of the agenda. -/
def afterHead (s : State) (rest : List Act) : State := { s with agenda := rest }

/-- R75, R99, R149, R451: a step at whose head a word fires runs the instruction that its configuration holds there, with that thread and word in focus, and the
pages at which its hub accesses stopped are requested after it; a word that does not decode, or whose fields break a rule, makes the thread take the malformed-segment fault with its check code.
The agenda is the model's (log entry 1), and what a word that no check let through does is its choice (log entries 6, 7 and 18). -/
def StepRunsDecodedWord : Prop := ∀ (s : State) (rest : List Act) (vc frame idx : Nat),
  s.agenda = .fire vc frame idx :: rest → s.pkg.power = true → s.pkg.recovery = false →
  (∀ w i, fetchWord s vc frame idx = some w → decode w = .ok i → i.wellFormed = true →
    step s = flushed (exec i { s with agenda := rest, focus := ⟨vc, frame, idx⟩ })) ∧
  (∀ w i, fetchWord s vc frame idx = some w → decode w = .ok i → i.wellFormed = false →
    step s = flushed (.next (badWord (afterHead s rest) vc frame idx 9))) ∧
  (∀ w e, fetchWord s vc frame idx = some w → decode w = .error e →
    step s = flushed (.next (badWord (afterHead s rest) vc frame idx (decodeCode e)))) ∧
  (fetchWord s vc frame idx = none → step s = flushed (.next (afterHead s rest))) ∧
  (∀ u : State, u.hub.stalls = [] → flushed (.next u) = .next u)

/-- R400, R401, R451: a step at whose head an event stands runs the event's meaning, and the pages at which its hub accesses stopped are
requested after it; without power every event but a start stops the machine with its name; in the recovery state the firmware load, the aperture's
registers, a start and a loss of power run, and an event to which the package does not respond there changes nothing.
The agenda and the stop's name are the model's choice (log entries 1 and 18), as is when the pages are requested (log entry 27). -/
def StepRunsEvent : Prop := ∀ (s : State) (rest : List Act) (i : Instr), s.agenda = .event i :: rest →
  (s.pkg.power = true → s.pkg.recovery = false → step s = flushed (exec i (afterHead s rest))) ∧
  ((∀ r, i ≠ .powerOnStart r) → s.pkg.power = false → step s = .fault .noPower) ∧
  (s.pkg.power = true → s.pkg.recovery = true →
    ((∃ m, i = .firmwareUpdate m) ∨ (∃ o v, i = .registerWrite o v) ∨ i = .powerLoss ∨ (∃ ctx, i = .objRegister ctx) ∨ i = .ctxCreate ∨
      (∃ v, i = .drstGo v) → step s = flushed (exec i (afterHead s rest))) ∧
    ((∃ a b, i = .hostWrite a b) ∨ (∃ a n, i = .hostRead a n) ∨ (∃ d, i = .quiescePhaseAdvance d) ∨ (∃ a b, i = .pageWalk a b) ∨ (∃ v, i = .fcmdResume v) ∨
      (∃ u, i = .peerReadRequest u) → step s = .next (afterHead s rest))) ∧
  ((∃ r, i = .powerOnStart r) → step s = flushed (exec i (afterHead s rest)))

/-- R75, R99, R149, R400, R401, R451: a step runs what stands at the head of the agenda: the decoded instruction of a word that fires, with that word in
focus, or an event's meaning. The agenda is the model's (log entry 1), and so is what a word that no check let through does (log entries 6, 7 and 18). -/
def Obligations.StepRunsDecodedWordOrEvent : Prop := StepRunsDecodedWord ∧ StepRunsEvent

/-! Invariants and reset -/

/-- R10, R12, R25, R131, R231, R347, R350: whatever shaped state a step starts from, the next is shaped: no two threads have one number and no two resident ones one
frame of a core, and each has its slots; no two effects have one number; every core and die keeps its tables inside their sizes, with no entry number or
placement slot twice; every group has its four barriers. Numbers of threads and effects are the model's own. -/
def Obligations.StepKeepsShape : Prop := ∀ s t : State, WellShaped s → step s = .next t → WellShaped t

/-- R7, R227: the placed memory keeps its canonical form: whatever state a step starts from, with memory in canonical form, the next state's
memory is in canonical form. -/
def Obligations.StepKeepsMemoryCanonical : Prop := ∀ s t : State, MemoryCanonical s → step s = .next t → MemoryCanonical t

/-- R24, R391, R401, R402, R405: right after a start whose steps all passed, memory is wiped and canonical, no context exists, virtual core 16d + i is on
the i-th exposed core of die d, past the spare at physical index 8 and before the one at 17, every notification entry is disarmed, no bit of DHALT is set and the boot log holds nine passed steps; the state is shaped as every step keeps it.
That the run begins after such a start is the model's choice (log entry 9), and so is the zero of host memory (log entry 14). -/
def Obligations.ResetState : Prop :=
  MemoryCanonical State.reset ∧ State.reset.hub.placed = [] ∧ State.reset.ctxs = [] ∧ State.reset.threads = [] ∧ State.reset.effects = [] ∧
  State.reset.ap.dhalt = [] ∧ State.reset.ap.notify = List.replicate 64 Notify.reset ∧
  State.reset.pkg.vct.length = 128 ∧ (∀ d i, d < 8 → i < 16 → State.reset.pkg.vct[16 * d + i]? = some ⟨true, 18 * d + i + (if i < 8 then 0 else 1)⟩) ∧
  State.reset.pkg.bootLog.map (fun b => (b.step, b.result)) = [(1, 0), (2, 0), (3, 0), (4, 0), (5, 0), (6, 0), (7, 0), (8, 0), (9, 0)] ∧
  WellShaped State.reset ∧ State.reset.cores = List.replicate 128 Core.reset ∧ (Core.reset.store.slots.all fun o => o.st == .empty) = true

/-! How a word decides its output -/

/-- R46, R48: a computing word answers poison when its p port carries poison, null when its predicate fails or a data port carries null, and poison with
the origin of the lowest poisoned data port, in that order, with no condition raised and no access made. -/
def Obligations.OutputDecidedInOrder : Prop := ∀ (i : Instr) (s : State) (x : Site) (sh : Shape),
  computingWord i = true → shape i = some sh → Fires s x sh →
  let p := (tokAt x.ins x.idx 3).getD .null
  let data := sh.ins.map fun q => portTok s x sh q.1
  (∀ o, sh.pc ≠ 0 → p = .poison o → Sends (exec i s) s x (.poison o) 0) ∧
  ((∀ o, p ≠ .poison o) → sh.pc ≠ 0 → predHolds sh.pc p = false → Sends (exec i s) s x .null 0) ∧
  ((sh.pc = 0 ∨ predHolds sh.pc p = true) → .null ∈ data → Sends (exec i s) s x .null 0) ∧
  ((sh.pc = 0 ∨ predHolds sh.pc p = true) → .null ∉ data → ∀ o, firstPoison data = some o → Sends (exec i s) s x (.poison o) 0) ∧
  ((sh.pc = 0 ∨ predHolds sh.pc p = true) → .null ∉ data → firstPoison data = none → Computes s x sh) ∧
  (∀ (o : BitVec 32) (v w u : BitVec 128) (b c : Tok), firstPoison [.poison o, b, c] = some o ∧ firstPoison [.val v, .poison o, c] = some o ∧
    firstPoison [.val v, .val w, .poison o] = some o ∧ firstPoison [.val v, .val w, .val u] = none) ∧
  (∀ q : Tok, predHolds 1 q = tokTrue q ∧ predHolds 2 q = tokFalse q ∧ tokTrue .null = false ∧ tokFalse .null = false)

/-! Integer words -/

/-- A format A word has this opcode and accepts just these TYPE codes. -/
def TakesTypes (i : FmtA → Instr) (op : BitVec 8) (tys : List Nat) : Prop :=
  ∀ f, (encode (i f)).extractLsb' 24 8 = op ∧ ((i f).wellFormed = true → f.ty ∈ tys) ∧ ∀ ty ∈ tys, ∃ g, g.ty = ty ∧ (i g).wellFormed = true

/-- R182, R185: sums, products, `min`, `max` and the saturating words, lane by lane: formed exactly, then reduced, clamped or compared under the
type's signedness. -/
def Obligations.IntegerSumsAndProducts : Prop := ∀ (s : State) (x : Site) (f : FmtA),
  let w := laneWidth f.ty
  let n : Nat → Int := laneInt w (laneSigned f.ty)
  let lo := laneMin w (laneSigned f.ty)
  let hi := laneMax w (laneSigned f.ty)
  (Computes s x (shapeAB f) →
    let a := opLane s x (shapeAB f) f.ty 0
    let b := opLane s x (shapeAB f) f.ty 1
    SendsLanes (exec (.add f) s) s x f.ty (fun j r => r = (a j + b j) % 2 ^ w) ∧
    SendsLanes (exec (.sub f) s) s x f.ty (fun j r => r = (a j + (2 ^ w - b j)) % 2 ^ w) ∧
    SendsLanes (exec (.mul f) s) s x f.ty (fun j r => r = a j * b j % 2 ^ w) ∧
    SendsLanes (exec (.mulhi f) s) s x f.ty (fun j r => (r : Int) = n (a j) * n (b j) / 2 ^ w % 2 ^ w) ∧
    SendsLanes (exec (.min f) s) s x f.ty (fun j r => (r = a j ∨ r = b j) ∧ n r = min (n (a j)) (n (b j))) ∧
    SendsLanes (exec (.max f) s) s x f.ty (fun j r => (r = a j ∨ r = b j) ∧ n r = max (n (a j)) (n (b j))) ∧
    SendsLanes (exec (.adds f) s) s x f.ty (fun j r => n r = max lo (min hi (n (a j) + n (b j)))) ∧
    SendsLanes (exec (.subs f) s) s x f.ty (fun j r => n r = max lo (min hi (n (a j) - n (b j))))) ∧
  (Computes s x (shapeABC f) →
    let a := opLane s x (shapeABC f) f.ty 0
    let b := opLane s x (shapeABC f) f.ty 1
    let c := opLane s x (shapeABC f) f.ty 2
    SendsLanes (exec (.mad f) s) s x f.ty (fun j r => r = (a j * b j + c j) % 2 ^ w))

/-- R186, R187: quotient and remainder, the zero divisor and the minimum divided by −1 among them, neither of which faults; magnitude and negation, where
the least signed value wraps, or gives the greatest where MOD[0] is set. -/
def Obligations.IntegerQuotientsAndMagnitude : Prop :=
  (∀ (s : State) (x : Site) (f : FmtA), Computes s x (shapeAB f) →
   let w := laneWidth f.ty
   let n : Nat → Int := laneInt w (laneSigned f.ty)
   let a := opLane s x (shapeAB f) f.ty 0
   let b := opLane s x (shapeAB f) f.ty 1
   SendsLanes (exec (.div f) s) s x f.ty (fun j r =>
     (b j = 0 → r = 2 ^ w - 1) ∧
     (laneSigned f.ty = true → n (a j) = laneMin w true → n (b j) = -1 → n r = laneMin w true) ∧
     (b j ≠ 0 → ¬ (laneSigned f.ty = true ∧ n (a j) = laneMin w true ∧ n (b j) = -1) → n r = (n (a j)).tdiv (n (b j)))) ∧
   SendsLanes (exec (.rem f) s) s x f.ty (fun j r =>
     (b j = 0 → r = a j) ∧
     (laneSigned f.ty = true → n (a j) = laneMin w true → n (b j) = -1 → r = 0) ∧
     (b j ≠ 0 → n r = n (a j) - n (b j) * (n (a j)).tdiv (n (b j))))) ∧
  (∀ (s : State) (x : Site) (f : FmtA), Computes s x (shapeA1 f) →
   let w := laneWidth f.ty
   let n : Nat → Int := laneInt w true
   let a := opLane s x (shapeA1 f) f.ty 0
   let sat := f.flag % 2 = 1
   SendsLanes (exec (.abs f) s) s x f.ty (fun j r =>
     (n (a j) ≠ laneMin w true → n r = (n (a j)).natAbs) ∧
     (n (a j) = laneMin w true → ¬ sat → n r = laneMin w true) ∧ (n (a j) = laneMin w true → sat → n r = laneMax w true)) ∧
   SendsLanes (exec (.neg f) s) s x f.ty (fun j r =>
     (n (a j) ≠ laneMin w true → n r = -n (a j)) ∧
     (n (a j) = laneMin w true → ¬ sat → n r = laneMin w true) ∧ (n (a j) = laneMin w true → sat → n r = laneMax w true) ∧
     (¬ sat → r = (2 ^ w - a j) % 2 ^ w)))

/-- R188: the bitwise words, bit by bit, for the TYPE codes 0 to 3 that they accept. -/
def Obligations.BitwiseLogic : Prop := ∀ (s : State) (x : Site) (f : FmtA), f.ty ≤ 3 →
  let w := intWidth f.ty
  (Computes s x (shapeAB f) →
    let a := portVal s x (shapeAB f) 0
    let b := portVal s x (shapeAB f) 1
    SendsLanes (exec (.and f) s) s x f.ty (fun _ r => ∀ k, k < w → bit r k = (bit a k && bit b k)) ∧
    SendsLanes (exec (.or f) s) s x f.ty (fun _ r => ∀ k, k < w → bit r k = (bit a k || bit b k)) ∧
    SendsLanes (exec (.xor f) s) s x f.ty (fun _ r => ∀ k, k < w → bit r k = (bit a k != bit b k)) ∧
    SendsLanes (exec (.andn f) s) s x f.ty (fun _ r => ∀ k, k < w → bit r k = (bit a k && !bit b k))) ∧
  (Computes s x (shapeA1 f) →
    let a := portVal s x (shapeA1 f) 0
    SendsLanes (exec (.not f) s) s x f.ty (fun _ r => ∀ k, k < w → bit r k = !bit a k)) ∧
  (let sh := shapeInt f (abc w) false w
   Computes s x sh →
    let v := portVal s x sh
    SendsLanes (exec (.lop3 f) s) s x f.ty (fun _ r => ∀ k, k < w →
      bit r k = f.s.getLsbD ((bit (v 0) k).toNat + 2 * (bit (v 1) k).toNat + 4 * (bit (v 2) k).toNat)))

/-- R189: the shifts, bit by bit, with a count read over all bits of its lane; a negative immediate reaches it as a large unsigned value. -/
def Obligations.Shifts : Prop :=
  TakesTypes .shl 0x28 [0, 1, 2, 3, 4, 5, 6, 7] ∧ TakesTypes .shr 0x29 [0, 1, 2, 3, 4, 5, 6, 7] ∧
  TakesTypes .sar 0x2A [0, 1, 2, 3, 4, 5, 6, 7] ∧ TakesTypes .rotl 0x2B [0, 1, 2, 3, 4, 5, 6, 7] ∧
  (∀ (s : State) (x : Site) (f : FmtA), Computes s x (shapeAB f) →
   let w := laneWidth f.ty
   let a := opLane s x (shapeAB f) f.ty 0
   let c := opLane s x (shapeAB f) f.ty 1
   SendsLanes (exec (.shl f) s) s x f.ty (fun j r => ∀ k, k < w → bit r k = (decide (c j ≤ k) && bit (a j) (k - c j))) ∧
   SendsLanes (exec (.shr f) s) s x f.ty (fun j r => ∀ k, k < w → bit r k = (decide (k + c j < w) && bit (a j) (k + c j))) ∧
   SendsLanes (exec (.sar f) s) s x f.ty (fun j r => ∀ k, k < w → bit r k = bit (a j) (min (k + c j) (w - 1))) ∧
   SendsLanes (exec (.rotl f) s) s x f.ty (fun j r => ∀ k, k < w → bit r ((k + c j) % w) = bit (a j) k)) ∧
  (∀ (s : State) (x : Site) (f : FmtA), Computes s x (shapeAB f) → f.ty = 1 → f.s = 0xFE → himmAt x.ws x.idx = none →
    Sends (exec (.shl f) s) s x (valTok 0) 0)

/-- R190: the counts and the reversal: `clz` and `ctz` are the number of zero bits above the highest and below the lowest one bit, and the width for 0. -/
def Obligations.BitCounts : Prop :=
  TakesTypes .popc 0x2C [0, 1, 2, 3] ∧ TakesTypes .clz 0x2D [0, 1, 2, 3] ∧ TakesTypes .ctz 0x2E [0, 1, 2, 3] ∧
  TakesTypes .brev 0x2F [0, 1, 2, 3] ∧ (∀ f, (shapeA1 f).ins = [(0, intWidth f.ty)] ∧ (shapeA1 f).out = some (intWidth f.ty)) ∧
  (∀ (s : State) (x : Site) (f : FmtA), f.ty ≤ 3 → Computes s x (shapeA1 f) →
   let w := intWidth f.ty
   let a := portVal s x (shapeA1 f) 0
   SendsLanes (exec (.popc f) s) s x f.ty (fun _ r => r = ((List.range w).filter fun k => bit a k).length) ∧
   SendsLanes (exec (.clz f) s) s x f.ty (fun _ r => r ≤ w ∧ (∀ k, w - r ≤ k → k < w → bit a k = false) ∧ (r < w → bit a (w - 1 - r) = true)) ∧
   SendsLanes (exec (.ctz f) s) s x f.ty (fun _ r => r ≤ w ∧ (∀ k, k < r → bit a k = false) ∧ (r < w → bit a r = true)) ∧
   SendsLanes (exec (.brev f) s) s x f.ty (fun _ r => ∀ k, k < w → bit r (w - 1 - k) = bit a k))

/-- R191, R192: the bit-field words, bit by bit: the field from pos, cut at the top of the operand, extended under the type's signedness by `bfx` and
replaced by `bfi`; the funnel shift gives the low bits of (b above a) shifted right by c modulo the width, and `perm` selects and sign-fills bytes. -/
def Obligations.BitFieldsAndBytes : Prop :=
  TakesTypes .bfx 0x30 [0, 1, 2, 3] ∧ TakesTypes .bfi 0x31 [0, 1, 2, 3] ∧ TakesTypes .fsh 0x39 [0, 1, 2, 3] ∧ TakesTypes .perm 0x3A [0, 1] ∧
  (∀ (s : State) (x : Site) (f : FmtA), f.ty ≤ 3 →
   let w := intWidth f.ty
   (Computes s x (shapeAB f) →
     let a := portVal s x (shapeAB f) 0
     let ctl := portVal s x (shapeAB f) 1
     let pos := ctl % 256
     let len := ctl / 256 % 256
     let top := min (pos + len) w - 1
     SendsLanes (exec (.bfx f) s) s x f.ty (fun _ r =>
       (len = 0 ∨ w ≤ pos → r = 0) ∧
       (len ≠ 0 → pos < w → ∀ k, k < w → bit r k = if k ≤ top - pos then bit a (pos + k) else (laneSigned f.ty && bit a top)))) ∧
   (Computes s x (shapeABC f) →
     let a := portVal s x (shapeABC f) 0
     let b := portVal s x (shapeABC f) 1
     let ctl := portVal s x (shapeABC f) 2
     let pos := ctl % 256
     let len := ctl / 256 % 256
     let top := min (pos + len) w - 1
     SendsLanes (exec (.bfi f) s) s x f.ty (fun _ r =>
       (len = 0 ∨ w ≤ pos → r = a) ∧
       (len ≠ 0 → pos < w → ∀ k, k < w → bit r k = if pos ≤ k ∧ k ≤ top then bit b (k - pos) else bit a k)))) ∧
  (∀ (s : State) (x : Site) (f : FmtA), Computes s x (shapeABC f) →
   let v := portVal s x (shapeABC f)
   (f.ty ≤ 3 → let w := intWidth f.ty
     SendsLanes (exec (.fsh f) s) s x f.ty (fun _ r => ∀ k, k < w →
       bit r k = if k + v 2 % w < w then bit (v 0) (k + v 2 % w) else bit (v 1) (k + v 2 % w - w))) ∧
   (f.ty ≤ 1 →
     SendsLanes (exec (.perm f) s) s x f.ty (fun _ r => ∀ i, i < 4 →
       let c := v 2 / 2 ^ (4 * i) % 16
       let src := if c % 8 < 4 then v 0 / 2 ^ (8 * (c % 8)) % 256 else v 1 / 2 ^ (8 * (c % 8 - 4)) % 256
       r / 2 ^ (8 * i) % 256 = if c < 8 then src else if 128 ≤ src then 255 else 0)))

/-- The form of `cmp`. -/
def shapeCmp (f : FmtC) : Shape :=
  ⟨ab (intWidth f.ty.toNat), false, 0, some (f.s.toNat, intSel f.ty.toNat), some 32, [f.t.toNat],
   if intWidth f.ty.toNat == 64 then .cePair else .ce, false, false⟩

/-- R90, R193: `cmp` under the signedness of the type: 1 or 0 for a scalar type, all ones or zeros in each lane of a packed one. -/
def Obligations.IntegerCompare : Prop := ∀ (s : State) (x : Site) (f : FmtC), f.cond.toNat ≤ 5 → Computes s x (shapeCmp f) →
  let ty := f.ty.toNat
  let w := laneWidth ty
  let n : Nat → Int := laneInt w (laneSigned ty)
  let a := opLane s x (shapeCmp f) ty 0
  let b := opLane s x (shapeCmp f) ty 1
  let holds : Nat → Prop := fun j =>
    (f.cond = 0 ∧ n (a j) = n (b j)) ∨ (f.cond = 1 ∧ n (a j) ≠ n (b j)) ∨ (f.cond = 2 ∧ n (a j) < n (b j)) ∨
    (f.cond = 3 ∧ n (a j) ≤ n (b j)) ∨ (f.cond = 4 ∧ n (b j) < n (a j)) ∨ (f.cond = 5 ∧ n (b j) ≤ n (a j))
  (ty ≤ 3 → (holds 0 → Sends (exec (.cmp f) s) s x (valTok 1) 0) ∧ (¬ holds 0 → Sends (exec (.cmp f) s) s x (valTok 0) 0)) ∧
  (4 ≤ ty → SendsLanes (exec (.cmp f) s) s x ty (fun j r => (holds j → r = 2 ^ w - 1) ∧ (¬ holds j → r = 0)))

/-- The form of `sel`. -/
def shapeSel (f : FmtA) : Shape := { shapeAB f with ownP := true, pc := 0 }

/-- R194: `sel` forwards one token unchanged: by p when p is true or false, else the first of a and b that is not null; poison on p wins; what S supplies is never null. -/
def Obligations.SelectForwards : Prop :=
  TakesTypes .sel 0x33 [0, 1, 2, 3] ∧ (∀ f, (Instr.sel f).wellFormed = true → f.pc = 0 ∧ f.flag = 0) ∧
  (∀ (s : State) (x : Site) (f : FmtA), Fires s x (shapeSel f) →
   let p := (tokAt x.ins x.idx 3).getD .null
   let a := portTok s x (shapeSel f) 0
   let b := portTok s x (shapeSel f) 1
   (∀ o, p = .poison o → Sends (exec (.sel f) s) s x (.poison o) 0) ∧
   (tokTrue p = true → Sends (exec (.sel f) s) s x a 0) ∧
   (tokFalse p = true → Sends (exec (.sel f) s) s x b 0) ∧
   (p = .null → a ≠ .null → Sends (exec (.sel f) s) s x a 0) ∧
   (p = .null → a = .null → Sends (exec (.sel f) s) s x b 0) ∧
   (f.s ≠ 0xFF → b ≠ .null))

/-- R195: the dot products add the exact products of the lanes to the 32-bit accumulator; the sum wraps, or is clamped where MOD[0] is set. -/
def Obligations.DotProducts : Prop :=
  TakesTypes .dot4 0x36 [6, 7] ∧ TakesTypes .dot2 0x37 [4, 5] ∧
  (∀ f, (Instr.dot4 f).wellFormed = true ∨ (Instr.dot2 f).wellFormed = true → f.flag ≤ 1) ∧
  (∀ (s : State) (x : Site) (f : FmtA),
   let sh := shapeInt f (abc 32) true 32
   Computes s x sh →
   let sg := laneSigned f.ty
   let c := laneInt 32 sg (portVal s x sh 2)
   let p : Nat → Int := fun j => laneInt (laneWidth f.ty) sg (opLane s x sh f.ty 0 j) * laneInt (laneWidth f.ty) sg (opLane s x sh f.ty 1 j)
   let ok : Int → Nat → Prop := fun e r => r < 2 ^ 32 ∧
     (f.flag % 2 = 1 → laneInt 32 sg r = max (laneMin 32 sg) (min (laneMax 32 sg) e)) ∧ (f.flag % 2 = 0 → (r : Int) = e % 2 ^ 32)
   (f.ty = 6 ∨ f.ty = 7 → ∃ r, Sends (exec (.dot4 f) s) s x (valTok r) 0 ∧ ok (c + p 0 + p 1 + p 2 + p 3) r) ∧
   (f.ty = 4 ∨ f.ty = 5 → ∃ r, Sends (exec (.dot2 f) s) s x (valTok r) 0 ∧ ok (c + p 0 + p 1) r))

/-- R196: `ixa`, opcode 0x38, accepts the TYPE codes 0 to 3 and gives (a + b × 2^s) mod 2^w with s from MOD[1:0]. -/
def Obligations.IndexArithmetic : Prop :=
  TakesTypes .ixa 0x38 [0, 1, 2, 3] ∧
  (∀ (s : State) (x : Site) (f : FmtA), f.ty ≤ 3 → Computes s x (shapeAB f) →
    SendsLanes (exec (.ixa f) s) s x f.ty (fun _ r =>
      r = (portVal s x (shapeAB f) 0 + portVal s x (shapeAB f) 1 * 2 ^ (f.mod.toNat % 4)) % 2 ^ intWidth f.ty))

/-! Floating-point words -/

/-- The value of each operand lane, in the format of a float type (R206). -/
def floatLane (s : State) (x : Site) (sh : Shape) (ty p j : Nat) : Nat := lane (ffmt (floatLanes ty).2).width (portVal s x sh p) j

/-- The form of `fma`. -/
def shapeFma (f : FmtA) : Shape := shapeFloat f (abc (floatWidth f.ty)) (some (.float f.ty)) (floatWidth f.ty)

/-- The rational number that a finite value is. -/
def ratOf (v : FV) : ℚ :=
  match v with
  | .fin s m e => (if s then -1 else 1) * (m : ℚ) * (2 : ℚ) ^ e
  | _ => 0

/-- Two magnitudes lie on the same side of every number of `p` bits, so that a format of fewer bits rounds them alike in every mode. -/
def SameSide (p : Nat) (v q : ℚ) : Prop := ∀ (k : Nat) (j : Int), k < 2 ^ p →
  ((k : ℚ) * 2 ^ j < v ↔ (k : ℚ) * 2 ^ j < q) ∧ (v < (k : ℚ) * 2 ^ j ↔ q < (k : ℚ) * 2 ^ j)

/-- What `fdiv` rounds (R210): for finite operands a magnitude that rounds as the exact quotient does, with the exclusive OR of the signs, and the condition
divide-by-zero beside it where it arises. -/
def IsQuotient (ft : FFmt) (x y : FV) (r : FV × Nat) : Prop :=
  match x, y with
  | .nan _, _ => r.1.isNan = true ∧ r.2 = 0
  | .inf _, .nan _ => r.1.isNan = true ∧ r.2 = 0
  | .fin .., .nan _ => r.1.isNan = true ∧ r.2 = 0
  | .inf _, .inf _ => r = (.nan false, 0)
  | .inf s, .fin t _ _ => r = (.inf (s != t), 0)
  | .fin s _ _, .inf t => r.2 = 0 ∧ ∃ e, r.1 = .fin (s != t) 0 e
  | .fin s m e, .fin t n k =>
    (n = 0 → m = 0 → r = (.nan false, 0)) ∧ (n = 0 → m ≠ 0 → r = (.inf (s != t), cDivZero)) ∧
    (n ≠ 0 → m = 0 → r.2 = 0 ∧ ∃ i, r.1 = .fin (s != t) 0 i) ∧
    (n ≠ 0 → m ≠ 0 → r.2 = 0 ∧ ∃ M E, r.1 = .fin (s != t) M E ∧ SameSide (ft.m + 2) (M * 2 ^ E) (m * 2 ^ e / (n * 2 ^ k)))

/-- What `fsqrt` rounds (R210): for a positive operand a magnitude whose square stands to every square of a number of the format's bits and one more as the
operand does. -/
def IsRoot (ft : FFmt) (x r : FV) : Prop :=
  match x with
  | .nan _ => r.isNan = true
  | .inf s => r = if s then .nan false else .inf false
  | .fin s m e => (m = 0 → ∃ i, r = .fin s 0 i) ∧ (m ≠ 0 → s = true → r = .nan false) ∧
    (m ≠ 0 → s = false → ∃ M E, r = .fin false M E ∧ ∀ (k : Nat) (j : Int), k < 2 ^ (ft.m + 2) →
      (((k : ℚ) * 2 ^ j < M * 2 ^ E ↔ ((k : ℚ) * 2 ^ j) ^ 2 < m * 2 ^ e) ∧ ((M : ℚ) * 2 ^ E < k * 2 ^ j ↔ (m : ℚ) * 2 ^ e < ((k : ℚ) * 2 ^ j) ^ 2)))

/-- R37, R210: sums and products of values are exact, their signs and infinities with them. -/
def ExactSumsAndProducts : Prop :=
  (∀ mode s m e t n k, ∃ u M E, addV mode (.fin s m e) (.fin t n k) = .fin u M E ∧ ratOf (.fin u M E) = ratOf (.fin s m e) + ratOf (.fin t n k) ∧
    (M = 0 → u = if s = t then s else decide (mode = 3))) ∧
  (∀ s m e t n k, ∃ M E, mulV (.fin s m e) (.fin t n k) = .fin (s != t) M E ∧ ratOf (.fin (s != t) M E) = ratOf (.fin s m e) * ratOf (.fin t n k)) ∧
  (∀ mode s t, addV mode (.inf s) (.inf t) = if s = t then .inf s else .nan false) ∧
  (∀ mode s t n k, addV mode (.inf s) (.fin t n k) = .inf s ∧ addV mode (.fin t n k) (.inf s) = .inf s) ∧
  (∀ s t, mulV (.inf s) (.inf t) = .inf (s != t)) ∧
  (∀ s t n k, mulV (.inf s) (.fin t n k) = (if n = 0 then .nan false else .inf (s != t)) ∧
    mulV (.fin t n k) (.inf s) = if n = 0 then .nan false else .inf (s != t)) ∧
  (∀ mode (x y : FV), x.isNan = true ∨ y.isNan = true → (addV mode x y).isNan = true ∧ (mulV x y).isNan = true)

/-- R206, R207, R210, R211: the arithmetic words complete: in each lane the exact sum, difference, product, quotient or root is rounded once in the word's
mode, conditions of the lanes are joined, and one poisonous lane makes the token poison in poison mode; a zero times an infinity in `fma` and `fdot2` is
invalid whatever the addend is, and an exact zero sum of `fdot2` has the sign of R211. -/
def Obligations.FloatArithmeticCompletes : Prop := ∀ (s : State) (x : Site) (f : FmtA),
  (Computes s x (shapeFAB f) →
    let a := portVal s x (shapeFAB f) 0
    let b := portVal s x (shapeFAB f) 1
    let c := portVal s x (shapeFAB f) 2
    SendsFloat (exec (.fadd f) s) s x (onFloatLanes f.ty (fun ft a b _ =>
      finishArith ft f.flag [decodeF ft a, decodeF ft b] 0 (addV f.flag (decodeF ft a) (decodeF ft b))) a b c) ∧
    SendsFloat (exec (.fsub f) s) s x (onFloatLanes f.ty (fun ft a b _ =>
      finishArith ft f.flag [decodeF ft a, decodeF ft b] 0 (addV f.flag (decodeF ft a) (decodeF ft b).negate)) a b c) ∧
    SendsFloat (exec (.fmul f) s) s x (onFloatLanes f.ty (fun ft a b _ =>
      finishArith ft f.flag [decodeF ft a, decodeF ft b] 0 (mulV (decodeF ft a) (decodeF ft b))) a b c)) ∧
  (Computes s x (shapeFma f) →
    SendsFloat (exec (.fma f) s) s x (onFloatLanes f.ty (fun ft a b c =>
      let u := decodeF ft a; let v := decodeF ft b; let w := decodeF ft c
      finishArith ft f.flag [u, v, w] (if (u.isZero && v.isInf) || (u.isInf && v.isZero) then cInvalid else 0) (addV f.flag (mulV u v) w))
      (portVal s x (shapeFma f) 0) (portVal s x (shapeFma f) 1) (portVal s x (shapeFma f) 2))) ∧
  (let sh := shapeFloat f (abc 32) (some (.float f.ty)) 32
   Computes s x sh →
    let ft := ffmt (floatLanes f.ty).2
    let a := fun j => decodeF ft (lane 16 (portVal s x sh 0) j)
    let b := fun j => decodeF ft (lane 16 (portVal s x sh 1) j)
    let c := decodeF (ffmt 1) (bits (portVal s x sh 2) 0 32)
    let p := fun j => mulV (a j) (b j)
    let inv := fun j => ((a j).isZero && (b j).isInf) || ((a j).isInf && (b j).isZero)
    ∃ sum, (∀ v, addV f.flag (addV f.flag (p 0) (p 1)) c = v → v.isZero = false → sum = v) ∧
      ((addV f.flag (addV f.flag (p 0) (p 1)) c).isZero = true → ∃ u i, sum = .fin u 0 i ∧
        ((p 0).neg = true → (p 1).neg = true → c.neg = true → u = true) ∧ ((p 0).neg = false → (p 1).neg = false → c.neg = false → u = false) ∧
        (¬ ((p 0).neg = (p 1).neg ∧ (p 1).neg = c.neg) → u = decide (f.flag = 3))) ∧
      SendsFloat (exec (.fdot2 f) s) s x (finishArith (ffmt 1) f.flag [a 0, b 0, a 1, b 1, c] (if inv 0 || inv 1 then cInvalid else 0) sum)) ∧
  (∃ quot : FFmt → FV → FV → FV × Nat, (∀ ft u v, IsQuotient ft u v (quot ft u v)) ∧
    let sh := shapeSfe f (ab (floatWidth f.ty)) (some (.float f.ty)) (floatWidth f.ty) true
    (Computes s x sh → SendsFloat (exec (.fdiv f) s) s x (onFloatLanes f.ty (fun ft a b _ =>
      let u := decodeF ft a; let v := decodeF ft b
      finishArith ft f.flag [u, v] (quot ft u v).2 (quot ft u v).1) (portVal s x sh 0) (portVal s x sh 1) (portVal s x sh 2)))) ∧
  (∃ root : FFmt → FV → FV, (∀ ft u, IsRoot ft u (root ft u)) ∧
    let sh := shapeSfe f [(0, floatWidth f.ty)] none (floatWidth f.ty) true
    (Computes s x sh → SendsFloat (exec (.fsqrt f) s) s x (onFloatLanes f.ty (fun ft a _ _ =>
      finishArith ft f.flag [decodeF ft a] 0 (root ft (decodeF ft a))) (portVal s x sh 0) (portVal s x sh 1) (portVal s x sh 2)))) ∧
  ExactSumsAndProducts

/-- R213: `fabs` clears the sign bit of each lane, `fneg` inverts it and `fsign` takes it from b; every other bit stays, the payload of a NaN
too, and no condition is raised. -/
def Obligations.SignBits : Prop := ∀ (s : State) (x : Site) (f : FmtA), f.ty ≤ 5 →
  let ft := ffmt (floatLanes f.ty).2
  let top := ft.width - 1
  (Computes s x (shapeFA f) →
    let a := floatLane s x (shapeFA f) f.ty 0
    (∃ r, Sends (exec (.fabs f) s) s x (valTok r) 0 ∧ ∀ j, j < (floatLanes f.ty).1 → ∀ k, k < ft.width →
      bit (lane ft.width r j) k = if k = top then false else bit (a j) k) ∧
    (∃ r, Sends (exec (.fneg f) s) s x (valTok r) 0 ∧ ∀ j, j < (floatLanes f.ty).1 → ∀ k, k < ft.width →
      bit (lane ft.width r j) k = if k = top then !bit (a j) k else bit (a j) k)) ∧
  (Computes s x (shapeFAB f) →
    let a := floatLane s x (shapeFAB f) f.ty 0
    let b := floatLane s x (shapeFAB f) f.ty 1
    ∃ r, Sends (exec (.fsign f) s) s x (valTok r) 0 ∧ ∀ j, j < (floatLanes f.ty).1 → ∀ k, k < ft.width →
      bit (lane ft.width r j) k = if k = top then bit (b j) k else bit (a j) k)

/-- R212: the min-max words return one operand's bits unchanged, or the canonical NaN: `fmin` and `fmax` for any NaN, `fminn` and `fmaxn` only for
two; −0 counts as less than +0. -/
def Obligations.FloatMinMax : Prop := ∀ (s : State) (x : Site) (f : FmtA), f.ty ≤ 5 → Computes s x (shapeFAB f) →
  let ft := ffmt (floatLanes f.ty).2
  let a := floatLane s x (shapeFAB f) f.ty 0
  let b := floatLane s x (shapeFAB f) f.ty 1
  let na : Nat → Bool := fun j => (decodeF ft (a j)).isNan
  let nb : Nat → Bool := fun j => (decodeF ft (b j)).isNan
  let less : Nat → Bool := fun j => leTotal (decodeF ft (a j)) (decodeF ft (b j))
  let sends : Out → (Nat → Nat → Prop) → Prop := fun o rel =>
    ∃ r c, Sends o s x (valTok r) c ∧ ∀ j, j < (floatLanes f.ty).1 → rel j (lane ft.width r j)
  sends (exec (.fmin f) s) (fun j r => (na j || nb j → r = ft.canon) ∧ (¬(na j || nb j) → r = if less j then a j else b j)) ∧
  sends (exec (.fmax f) s) (fun j r => (na j || nb j → r = ft.canon) ∧ (¬(na j || nb j) → r = if less j then b j else a j)) ∧
  sends (exec (.fminn f) s) (fun j r => (na j && nb j → r = ft.canon) ∧ (na j && !nb j → r = b j) ∧ (!na j && nb j → r = a j) ∧
    (!na j && !nb j → r = if less j then a j else b j)) ∧
  sends (exec (.fmaxn f) s) (fun j r => (na j && nb j → r = ft.canon) ∧ (na j && !nb j → r = b j) ∧ (!na j && nb j → r = a j) ∧
    (!na j && !nb j → r = if less j then b j else a j))

/-- The form of `fcmp`. -/
def shapeFcmp (f : FmtC) : Shape :=
  ⟨ab (floatWidth f.ty.toNat), false, 0, some (f.s.toNat, .float f.ty.toNat), some 32, [f.t.toNat],
   if f.ty.toNat == 1 then .cePair else .ce, false, false⟩

/-- The form of `fclass` and `fgetx`. -/
def shapeFint (f : FmtA) : Shape := shapeFloat f [(0, floatWidth f.ty)] none 32

/-- R214, R215: `fcmp` in each lane: an unordered pair satisfies the conditions 6 to 11 and 13 and no other, and raises invalid for 2 to 5 or a
signalling NaN; an ordered pair satisfies what its order says; a scalar type gives 1 or 0, a packed one all ones or zeros in each lane; `fclass` sets one bit
for each lane. -/
def Obligations.FloatCompareAndClass : Prop :=
  ∀ (s : State) (x : Site),
  (∀ f : FmtC, f.ty.toNat ≤ 5 → f.cond.toNat ≤ 13 → Computes s x (shapeFcmp f) →
    let ft := ffmt (floatLanes f.ty.toNat).2
    let a : Nat → FV := fun j => decodeF ft (floatLane s x (shapeFcmp f) f.ty.toNat 0 j)
    let b : Nat → FV := fun j => decodeF ft (floatLane s x (shapeFcmp f) f.ty.toNat 1 j)
    let un : Nat → Bool := fun j => (a j).isNan || (b j).isNan
    let c := f.cond.toNat
    let inv : Nat → Nat := fun j => if (a j).isSnan || (b j).isSnan || (un j && decide (2 ≤ c) && decide (c ≤ 5)) then cInvalid else 0
    let holds : Nat → Bool := fun j =>
      if un j then [6, 7, 8, 9, 10, 11, 13].contains c
      else if ltV (a j) (b j) then [1, 2, 3, 7, 8, 9, 12].contains c
      else if ltV (b j) (a j) then [1, 4, 5, 7, 10, 11, 12].contains c
      else [0, 3, 5, 6, 9, 11, 12].contains c
    (f.ty.toNat ≤ 3 → Sends (exec (.fcmp f) s) s x (valTok (if holds 0 then 1 else 0)) (inv 0)) ∧
    (4 ≤ f.ty.toNat → ∃ r, Sends (exec (.fcmp f) s) s x (valTok r) (inv 0 ||| inv 1) ∧
      ∀ j, j < 2 → lane 16 r j = if holds j then 0xFFFF else 0)) ∧
  (∀ f : FmtA, f.ty ≤ 5 → Computes s x (shapeFint f) →
    let ft := ffmt (floatLanes f.ty).2
    ∃ r, Sends (exec (.fclass f) s) s x (valTok r) 0 ∧ ∀ j, j < (floatLanes f.ty).1 →
      lane 16 r j = 2 ^ classBit ft (floatLane s x (shapeFint f) f.ty 0 j))

/-- The integer to which a mode rounds a number (R36): nearest with ties to even, toward zero, up, down. -/
def IntegerOf (mode : Nat) (q : ℚ) (z : ℤ) : Prop :=
  (mode = 0 → |q - z| ≤ 1 / 2 ∧ (|q - z| = 1 / 2 → z % 2 = 0)) ∧ (mode = 1 → |(z : ℚ)| ≤ |q| ∧ |q - z| < 1 ∧ 0 ≤ q * z) ∧
  (mode = 2 → z = ⌈q⌉) ∧ (mode = 3 → z = ⌊q⌋)

/-- R37: `n` steps of 2^u are what a non-zero magnitude rounds to in a format with no bound above: the step is that of the magnitude's own binade, or of the
least normal one. -/
def RoundsToSteps (ft : FFmt) (mode : Nat) (s : Bool) (q : ℚ) (n : Nat) (u : ℤ) : Prop :=
  ft.emin - ft.m ≤ u ∧ q < 2 ^ (u + ft.m + 1) ∧ (u = ft.emin - ft.m ∨ 2 ^ (u + ft.m) ≤ q) ∧
  IntegerOf mode ((if s then -q else q) / 2 ^ u) (if s then -(n : ℤ) else n)

/-- The greatest finite magnitude of a format (R28). -/
def maxOf (ft : FFmt) : ℚ := ft.maxSig * 2 ^ (ft.emax - ft.m)

/-- An encoding with its conditions holds n steps of 2^u with a sign, where the exact magnitude was `q` (R37, R38). -/
def HoldsSteps (ft : FFmt) (s : Bool) (q : ℚ) (n : Nat) (u : ℤ) (r : Nat × Nat) : Prop :=
  (∃ m e, decodeF ft r.1 = .fin s m e ∧ (m : ℚ) * 2 ^ e = n * 2 ^ u) ∧
  r.2 = if q = n * 2 ^ u then 0 else if n ≠ 0 ∧ (n : ℚ) * 2 ^ u < 2 ^ ft.emin then cInexact ||| cUnderflow else cInexact

/-- R37, R38: Round, in every format with infinities and every mode. -/
def RoundingIsCorrect : Prop := ∀ code mode, code ∈ [0, 1, 2, 3, 5] → mode ≤ 3 →
  let ft := ffmt code
  (∀ g, Machine.round ft mode (.nan g) = (ft.canon, if g then cInvalid else 0)) ∧ (∀ s, Machine.round ft mode (.inf s) = (ft.infBits s, 0)) ∧
  (∀ s e, Machine.round ft mode (.fin s 0 e) = (s.toNat * 2 ^ (ft.w + ft.m), 0)) ∧
  (∀ (s : Bool) (m : Nat) (e : Int), m ≠ 0 → ∃ n u, RoundsToSteps ft mode s (m * 2 ^ e) n u ∧
    ((n : ℚ) * 2 ^ u ≤ maxOf ft → HoldsSteps ft s (m * 2 ^ e) n u (Machine.round ft mode (.fin s m e))) ∧
    (maxOf ft < n * 2 ^ u → Machine.round ft mode (.fin s m e) =
      (if mode = 0 ∨ (mode = 2 ∧ s = false) ∨ (mode = 3 ∧ s = true) then ft.infBits s else ft.maxBits s, cOverflow ||| cInexact)))

/-- R39, R40: Convert. -/
def ConvertIsRight : Prop := ∀ mode sat, mode ≤ 3 →
  (∀ code, code ∈ [0, 1, 2, 3, 5] → let ft := ffmt code
    (∀ g, convert ft mode sat (.nan g) = (ft.canon, if g then cInvalid else 0)) ∧ (∀ s, convert ft mode sat (.inf s) = (ft.infBits s, 0)) ∧
    (sat = false → ∀ v, convert ft mode sat v = Machine.round ft mode v) ∧
    (sat = true → ∀ (s : Bool) (m : Nat) (e : Int), convert ft mode sat (.fin s m e) =
      if (Machine.round ft mode (.fin s m e)).2 = cOverflow ||| cInexact then (ft.maxBits s, cSaturation ||| cInexact) else Machine.round ft mode (.fin s m e))) ∧
  (∀ code, code ∈ [4, 6, 7, 8] → let ft := ffmt code
    let out : Bool → Nat × Nat := fun s => if sat = true ∨ code ≠ 4 then (ft.maxBits s, cSaturation) else (0x7F, cInvalid)
    (∀ g, convert ft mode sat (.nan g) = (if code = 4 then 0x7F else ft.maxBits false, cInvalid)) ∧
    (∀ s, convert ft mode sat (.inf s) = out s) ∧ (∀ s e, convert ft mode sat (.fin s 0 e) = (s.toNat * 2 ^ (ft.w + ft.m), 0)) ∧
    (∀ (s : Bool) (m : Nat) (e : Int), m ≠ 0 → ∃ n u, RoundsToSteps ft mode s (m * 2 ^ e) n u ∧
      ((n : ℚ) * 2 ^ u ≤ maxOf ft → HoldsSteps ft s (m * 2 ^ e) n u (convert ft mode sat (.fin s m e))) ∧
      (maxOf ft < n * 2 ^ u → convert ft mode sat (.fin s m e) = ((out s).1, (out s).2 ||| cInexact))))

/-- R216, R217: the values of the four words that take a number apart. -/
def PartsOfNumbers : Prop :=
  (∀ code mode a b c, code ≤ 3 → mode ≤ 3 → a < 2 ^ (ffmt code).width → let ft := ffmt code
    let whole := laneFrnd mode ft a b c
    let frac := laneFfrac ft a b c
    (∀ g, decodeF ft a = .nan g → whole = ⟨ft.canon, if g then cInvalid else 0, false⟩ ∧ frac = whole) ∧
    (∀ s, decodeF ft a = .inf s → whole = ⟨a, 0, false⟩ ∧ frac = ⟨s.toNat * 2 ^ (ft.w + ft.m), 0, false⟩) ∧
    (∀ (s : Bool) (m : Nat) (e : Int), decodeF ft a = .fin s m e → whole.conds = 0 ∧ whole.pois = false ∧ frac.conds = 0 ∧ frac.pois = false ∧
      (∃ n i z, decodeF ft whole.val = .fin s n i ∧ ratOf (.fin s n i) = (z : ℤ) ∧ IntegerOf mode (ratOf (.fin s m e)) z) ∧
      (∃ n i z, decodeF ft frac.val = .fin s n i ∧ ratOf (.fin s n i) = ratOf (.fin s m e) - (z : ℤ) ∧ IntegerOf 1 (ratOf (.fin s m e)) z))) ∧
  (∀ ty mode a b, ty ≤ 3 → mode ≤ 3 → let ft := ffmt (floatLanes ty).2
    let v := decodeF ft (a % 2 ^ ft.width)
    let scaled := fscale mode ty a b
    let exp := fgetx ty a
    (∀ g, v = .nan g → scaled = ⟨ft.canon, if g then cInvalid else 0, false⟩ ∧ exp = ⟨0x7FFFFFFF, cInvalid, false⟩) ∧
    (∀ s, v = .inf s → scaled = ⟨a % 2 ^ ft.width, 0, false⟩ ∧ exp = ⟨0x7FFFFFFF, cInvalid, false⟩) ∧
    (∀ s e, v = .fin s 0 e → scaled = ⟨a % 2 ^ ft.width, 0, false⟩ ∧ exp = ⟨0x80000000, 0, false⟩) ∧
    (∀ (s : Bool) (m : Nat) (e : Int), v = .fin s m e → m ≠ 0 →
      (∀ n : ℤ, -2 ^ 31 ≤ n → n < 2 ^ 31 → ((b : ℤ) - n) % 2 ^ 32 = 0 →
        scaled = ⟨(Machine.round ft mode (.fin s m (e + n))).1, (Machine.round ft mode (.fin s m (e + n))).2, false⟩) ∧
      ∃ n : ℤ, (2 : ℚ) ^ n ≤ m * 2 ^ e ∧ (m : ℚ) * 2 ^ e < 2 ^ (n + 1) ∧ (exp.val : ℤ) = n % 2 ^ 32 ∧ exp.conds = 0 ∧ exp.pois = false))

/-- R41, R218: conversions to and from integers; a value out of the range of the integer format raises invalid alone (log entry 80). -/
def IntegerConversions : Prop := ∀ src dst mode sat a, src ≤ 15 → dst ≤ 15 → mode ≤ 3 →
  let r := cvt src dst mode sat a
  let (w, sg) := cvtInt dst
  let lo := laneMin w sg
  let hi := laneMax w sg
  (10 ≤ src → r.pois = false ∨ dst = 4) ∧
  (10 ≤ src → let i := laneInt (cvtInt src).1 (cvtInt src).2 (a % 2 ^ (cvtInt src).1)
    (10 ≤ dst → sat = false → (r.val : ℤ) = i % 2 ^ w ∧ r.conds = 0) ∧
    (10 ≤ dst → sat = true → (r.val : ℤ) = max lo (min hi i) % 2 ^ w ∧ r.conds = if lo ≤ i ∧ i ≤ hi then 0 else cSaturation) ∧
    (dst ≤ 8 → ∃ v, ratOf v = i ∧ v.neg = decide (i < 0) ∧ (∃ s m e, v = .fin s m e) ∧ (r.val, r.conds) = convert (ffmt dst) mode sat v)) ∧
  (src ≤ 8 → 10 ≤ dst → let v := decodeF (ffmt src) (a % 2 ^ (ffmt src).width)
    (∀ g, v = .nan g → r = ⟨0, cInvalid, false⟩) ∧
    (∀ s, v = .inf s → (r.val : ℤ) = (if s then lo else hi) % 2 ^ w ∧ r.conds = cInvalid) ∧
    (∀ (s : Bool) (m : Nat) (e : Int), v = .fin s m e → ∃ z : ℤ, IntegerOf mode (ratOf v) z ∧
      (lo ≤ z → z ≤ hi → (r.val : ℤ) = z % 2 ^ w ∧ r.conds = if ratOf v = z then 0 else cInexact) ∧
      (z < lo → (r.val : ℤ) = lo % 2 ^ w ∧ r.conds = cInvalid) ∧ (hi < z → (r.val : ℤ) = hi % 2 ^ w ∧ r.conds = cInvalid)))

/-- R42, R218, R225: conversions among floating-point formats, e8m0 with its own table; a NaN made by `cvt` is what poison mode replaces. -/
def FloatConversions : Prop :=
  (∀ src dst mode sat a, src ≤ 9 → dst ≤ 9 → mode ≤ 3 →
    let v := if src = 9 then (if a % 256 = 255 then .nan false else .fin false 1 ((a % 256 : Nat) - 127 : ℤ)) else decodeF (ffmt src) (a % 2 ^ (ffmt src).width)
    let r := cvt src dst mode sat a
    let out := if dst = 9 then toE8m0 mode sat v else convert (ffmt dst) mode sat v
    r.val = out.1 ∧ r.conds = out.2 ||| (if v.isSnan then cInvalid else 0) ∧
    r.pois = (!v.isNan && ((dst == 4 && r.val == 0x7F) || (dst == 9 && r.val == 0xFF)))) ∧
  (∀ mode sat, mode ≤ 3 →
    (∀ g, toE8m0 mode sat (.nan g) = (0xFF, cInvalid)) ∧ (∀ s, toE8m0 mode sat (.inf s) = if sat then (0xFE, cSaturation) else (0xFF, cOverflow)) ∧
    (∀ s e, toE8m0 mode sat (.fin s 0 e) = (0, cInexact)) ∧
    (∀ (s : Bool) (m : Nat) (e : Int), m ≠ 0 → ∃ n c : ℤ, (2 : ℚ) ^ n ≤ m * 2 ^ e ∧ (m : ℚ) * 2 ^ e < 2 ^ (n + 1) ∧
      (mode = 1 ∨ mode = 3 → c = n) ∧ (mode = 2 → c = if (m : ℚ) * 2 ^ e = 2 ^ n then n else n + 1) ∧
      (mode = 0 → c = if 3 / 2 * 2 ^ n ≤ (m : ℚ) * 2 ^ e then n + 1 else n) ∧
      (c < -127 → toE8m0 mode sat (.fin s m e) = (0, cInexact ||| cUnderflow)) ∧
      (127 < c → toE8m0 mode sat (.fin s m e) = if sat then (0xFE, cSaturation) else (0xFF, cOverflow)) ∧
      (-127 ≤ c → c ≤ 127 → ((toE8m0 mode sat (.fin s m e)).1 : ℤ) = c + 127 ∧
        (toE8m0 mode sat (.fin s m e)).2 = if (m : ℚ) * 2 ^ e = 2 ^ c then 0 else cInexact)))

/-- R43, R219: stochastic rounding adds the 16 random bits to the first 16 discarded ones. -/
def StochasticRounding : Prop := ∀ dst sat a c, dst ∈ [2, 3, 4, 5] →
  let ft := ffmt dst
  let v := decodeF (ffmt 1) (a % 2 ^ 32)
  let r := cvtsr dst sat a c
  (∀ g, v = .nan g → r = ⟨ft.canon, if g ∨ dst = 4 then cInvalid else 0, false⟩) ∧
  (∀ s, v = .inf s → (r.val, r.conds) = convert ft 0 sat v) ∧
  (∀ s e, v = .fin s 0 e → r = ⟨s.toNat * 2 ^ (ft.w + ft.m), 0, false⟩) ∧
  (∀ (s : Bool) (m : Nat) (e : Int), v = .fin s m e → m ≠ 0 → ∃ (n : Nat) (u : ℤ),
    ft.emin - ft.m ≤ u ∧ (m : ℚ) * 2 ^ e < 2 ^ (u + ft.m + 1) ∧ (u = ft.emin - ft.m ∨ (2 : ℚ) ^ (u + ft.m) ≤ m * 2 ^ e) ∧
    (let q : ℚ := m * 2 ^ e / 2 ^ u
     (n : ℤ) = ⌊q⌋ + if 2 ^ 16 ≤ ⌊(q - ⌊q⌋) * 2 ^ 16⌋ + ((c % 2 ^ 16 : Nat) : ℤ) then 1 else 0) ∧
    ((n : ℚ) * 2 ^ u ≤ maxOf ft → HoldsSteps ft s (m * 2 ^ e) n u (r.val, r.conds) ∧ r.pois = false) ∧
    (maxOf ft < n * 2 ^ u → sat = true → r = ⟨ft.maxBits s, cSaturation ||| cInexact, false⟩) ∧
    (maxOf ft < n * 2 ^ u → sat = false → r = if dst = 4 then ⟨0x7F, cInvalid ||| cInexact, true⟩ else ⟨ft.infBits s, cOverflow ||| cInexact, false⟩))

/-- R220, R221: `pack` rounds two values into the lanes, `unpack` widens one exactly, and the quantising words follow their pseudocode. -/
def PackedAndQuantised : Prop := ∀ mode ty a b, mode ≤ 3 →
  (ty = 4 ∨ ty = 5 → let ft := ffmt (floatLanes ty).2
    let p := packF mode ty a b
    let one := fun v => Machine.round ft mode (decodeF (ffmt 1) (v % 2 ^ 32))
    lane 16 p.val 0 = (one a).1 ∧ lane 16 p.val 1 = (one b).1 ∧ p.conds = (one a).2 ||| (one b).2 ∧ p.pois = false ∧
    let v := decodeF ft (lane 16 a (b % 2))
    let w := unpackF ty a b
    w.pois = false ∧ (∀ g, v = .nan g → w = ⟨0x7FC00000, if g then cInvalid else 0, false⟩) ∧
    (∀ s, v = .inf s → w = ⟨(ffmt 1).infBits s, 0, false⟩) ∧
    (∀ (s : Bool) (m : Nat) (e : Int), v = .fin s m e → w.conds = 0 ∧ ∃ n i, decodeF (ffmt 1) w.val = .fin s n i ∧ ratOf (.fin s n i) = ratOf (.fin s m e))) ∧
  (let z := bits b 16 8
   let x := decodeF (ffmt 1) (a % 2 ^ 32)
   let sc := decodeF (ffmt 2) (bits b 0 16)
   (x.isNan = true ∨ sc.isNan = true ∨ sc.isZero = true ∨ sc.isInf = true → qnt mode a b = ⟨z, cInvalid, false⟩) ∧
   (∀ s t n k, x = .inf s → sc = .fin t n k → n ≠ 0 → qnt mode a b = ⟨if s = t then 255 else 0, cSaturation ||| cInexact, false⟩) ∧
   (∀ s m e t n k, x = .fin s m e → sc = .fin t n k → n ≠ 0 → ∃ i : ℤ, IntegerOf mode (ratOf x / ratOf sc) i ∧
     (0 ≤ i + z → i + z ≤ 255 → ((qnt mode a b).val : ℤ) = i + z ∧ (qnt mode a b).conds = if ratOf x / ratOf sc = i then 0 else cInexact) ∧
     (i + z < 0 → qnt mode a b = ⟨0, cSaturation ||| cInexact, false⟩) ∧ (255 < i + z → qnt mode a b = ⟨255, cSaturation ||| cInexact, false⟩)) ∧
   (∀ ft2, ft2 = ffmt (floatLanes ty).2 → ∃ v, dqnt mode ty a b = finishArith ft2 mode [sc] 0 v ∧
     (∀ t n k, sc = .fin t n k → ∃ u j l, v = .fin u j l ∧ ratOf v = ratOf sc * (((a % 256 : Nat) : ℤ) - (z : ℤ))) ∧
     (∀ t, sc = .inf t → v = if a % 256 = z then .nan false else .inf (t != decide (a % 256 < z))) ∧ (∀ g, sc = .nan g → v.isNan = true)))

/-- R216 to R221: rounding to integral values, scaling, exponents, conversions, packing and quantising complete with the results and conditions of
their rules: the value clauses say what these are, in numbers.
That a conversion out of an integer's range raises invalid alone is the model's reading (log entry 80). -/
def Obligations.FloatConversionsComplete : Prop :=
  PartsOfNumbers ∧ IntegerConversions ∧ FloatConversions ∧ ConvertIsRight ∧ StochasticRounding ∧ PackedAndQuantised ∧
  ∀ (s : State) (x : Site) (f : FmtA),
  (Computes s x (shapeFA f) →
    let a := portVal s x (shapeFA f) 0
    let b := portVal s x (shapeFA f) 1
    let c := portVal s x (shapeFA f) 2
    SendsFloat (exec (.frnd f) s) s x (onFloatLanes f.ty (laneFrnd f.flag) a b c) ∧
    SendsFloat (exec (.ffrac f) s) s x (onFloatLanes f.ty laneFfrac a b c)) ∧
  (let sh := shapeFloat f [(0, floatWidth f.ty), (1, 32)] (some .int32) (floatWidth f.ty)
   Computes s x sh → SendsFloat (exec (.fscale f) s) s x (fscale f.flag f.ty (portVal s x sh 0) (portVal s x sh 1))) ∧
  (Computes s x (shapeFint f) → SendsFloat (exec (.fgetx f) s) s x (fgetx f.ty (portVal s x (shapeFint f) 0))) ∧
  (∀ sh, shape (.cvt f) = some sh → Computes s x sh →
    SendsFloat (exec (.cvt f) s) s x (cvt (f.s.toNat / 16) (f.s.toNat % 16) f.flag (f.mod.getLsbD 2) (portVal s x sh 0))) ∧
  (∀ sh, shape (.cvtsr f) = some sh → Computes s x sh →
    SendsFloat (exec (.cvtsr f) s) s x (cvtsr (f.s.toNat % 16) (f.mod.getLsbD 2) (portVal s x sh 0) (portVal s x sh 2))) ∧
  (∀ sh, shape (.pack f) = some sh → Computes s x sh →
    SendsFloat (exec (.pack f) s) s x (packF f.flag f.ty (portVal s x sh 0) (portVal s x sh 1))) ∧
  (∀ sh, shape (.unpack f) = some sh → Computes s x sh →
    SendsFloat (exec (.unpack f) s) s x (unpackF f.ty (portVal s x sh 0) (portVal s x sh 1)) ∧
    SendsFloat (exec (.qnt f) s) s x (qnt f.flag (portVal s x sh 0) (portVal s x sh 1)) ∧
    SendsFloat (exec (.dqnt f) s) s x (dqnt f.flag f.ty (portVal s x sh 0) (portVal s x sh 1)))

/-- R222, R224, R225: the special functions complete, and at a NaN, a zero, an infinity and the exact points of the table their results are the listed ones in
every format, the same for every value of what R223 leaves open. The entries marked † raise invalid and are poison in poison mode.
What R223 leaves open is a free value (log entry 16). -/
def Obligations.SpecialFunctionsComplete : Prop := ∀ (s : State) (x : Site) (f : FmtA), Computes s x (shapeSfu f) →
  let a := portVal s x (shapeSfu f) 0
  SendsFloat (exec (.rcp f) s) s x (sfu 0x78 f.ty a) ∧ SendsFloat (exec (.rsq f) s) s x (sfu 0x79 f.ty a) ∧
  SendsFloat (exec (.ex2 f) s) s x (sfu 0x7A f.ty a) ∧ SendsFloat (exec (.lg2 f) s) s x (sfu 0x7B f.ty a) ∧
  SendsFloat (exec (.sinpi f) s) s x (sfu 0x7C f.ty a) ∧ SendsFloat (exec (.cospi f) s) s x (sfu 0x7D f.ty a) ∧
  SendsFloat (exec (.tanh f) s) s x (sfu 0x7E f.ty a) ∧ SendsFloat (exec (.sigm f) s) s x (sfu 0x7F f.ty a) ∧
  (f.ty ≤ 3 →
   let ft := ffmt (floatLanes f.ty).2
   let v := decodeF ft (a % 2 ^ ft.width)
   let zero : Bool → Nat := fun g => g.toNat * 2 ^ (ft.w + ft.m)
   let one := ft.bias * 2 ^ ft.m
   let neg := 2 ^ (ft.w + ft.m) + one
   let gives : Out → Nat → Nat → Prop := fun o r c => Sends o s x (valTok r) c
   let bad : Out → Prop := fun o => (x.ins.psn = false → Sends o s x (valTok ft.canon) cInvalid) ∧
     (x.ins.psn = true → Sends o s x (.poison (siteOrigin x)) cInvalid)
   let rounded : Out → FV → Prop := fun o y => Sends o s x (valTok (Machine.round ft 0 y).1) (Machine.round ft 0 y).2
   (∀ g, v = .nan g → let c := if g then cInvalid else 0
     gives (exec (.rcp f) s) ft.canon c ∧ gives (exec (.rsq f) s) ft.canon c ∧ gives (exec (.ex2 f) s) ft.canon c ∧ gives (exec (.lg2 f) s) ft.canon c ∧
     gives (exec (.sinpi f) s) ft.canon c ∧ gives (exec (.cospi f) s) ft.canon c ∧ gives (exec (.tanh f) s) ft.canon c ∧
     gives (exec (.sigm f) s) ft.canon c) ∧
   (∀ g e, v = .fin g 0 e →
     gives (exec (.rcp f) s) (ft.infBits g) cDivZero ∧ gives (exec (.rsq f) s) (ft.infBits g) cDivZero ∧ gives (exec (.ex2 f) s) one 0 ∧
     gives (exec (.lg2 f) s) (ft.infBits true) cDivZero ∧ gives (exec (.sinpi f) s) (zero g) 0 ∧ gives (exec (.cospi f) s) one 0 ∧
     gives (exec (.tanh f) s) (zero g) 0 ∧ gives (exec (.sigm f) s) ((ft.bias - 1) * 2 ^ ft.m) 0) ∧
   (∀ g, v = .inf g →
     gives (exec (.rcp f) s) (zero g) 0 ∧ (g = false → gives (exec (.rsq f) s) 0 0) ∧ (g = true → bad (exec (.rsq f) s)) ∧
     (g = false → gives (exec (.ex2 f) s) (ft.infBits false) 0) ∧ (g = true → gives (exec (.ex2 f) s) 0 0) ∧
     (g = false → gives (exec (.lg2 f) s) (ft.infBits false) 0) ∧ (g = true → bad (exec (.lg2 f) s)) ∧ bad (exec (.sinpi f) s) ∧ bad (exec (.cospi f) s) ∧
     gives (exec (.tanh f) s) (if g then neg else one) 0 ∧ gives (exec (.sigm f) s) (if g then 0 else one) 0) ∧
   (∀ (g : Bool) (m : Nat) (e : Int), v = .fin g m e → m ≠ 0 →
     (g = true → bad (exec (.rsq f) s) ∧ bad (exec (.lg2 f) s)) ∧
     (∀ k : Nat, m = 2 ^ k →
       rounded (exec (.rcp f) s) (.fin g 1 (-(k + e))) ∧
       (g = false → (k + e) % 2 = 0 → rounded (exec (.rsq f) s) (.fin false 1 (-((k + e) / 2)))) ∧
       (g = false → rounded (exec (.lg2 f) s) (.fin (decide ((k : Int) + e < 0)) ((k : Int) + e).natAbs 0))) ∧
     (∀ n : ℤ, ratOf v = n →
       (-100000 ≤ n → n ≤ 100000 → rounded (exec (.ex2 f) s) (.fin false 1 n)) ∧
       (n < -100000 → gives (exec (.ex2 f) s) 0 cInexact) ∧ (100000 < n → gives (exec (.ex2 f) s) (ft.infBits false) (cOverflow ||| cInexact)) ∧
       gives (exec (.sinpi f) s) (zero g) 0 ∧ gives (exec (.cospi f) s) (if n % 2 = 0 then one else neg) 0) ∧
     (∀ n : ℤ, ratOf v = n + 1 / 2 →
       gives (exec (.sinpi f) s) (if n % 2 = 0 then one else neg) 0 ∧ gives (exec (.cospi f) s) 0 0))) ∧
  (f.ty = 0 → a = 0 →
    Sends (exec (.rcp f) s) s x (valTok 0x7F800000) cDivZero ∧ Sends (exec (.ex2 f) s) s x (valTok 0x3F800000) 0 ∧
    Sends (exec (.lg2 f) s) s x (valTok 0xFF800000) cDivZero ∧ Sends (exec (.cospi f) s) s x (valTok 0x3F800000) 0 ∧
    Sends (exec (.sigm f) s) s x (valTok 0x3F000000) 0) ∧
  (f.ty = 0 → a = 0x7F800000 →
    Sends (exec (.rcp f) s) s x (valTok 0) 0 ∧ Sends (exec (.tanh f) s) s x (valTok 0x3F800000) 0 ∧
    (x.ins.psn = false → Sends (exec (.sinpi f) s) s x (valTok 0x7FC00000) cInvalid) ∧
    (x.ins.psn = true → Sends (exec (.sinpi f) s) s x (.poison (siteOrigin x)) cInvalid))

/-- R28, R29, R37, R38: an encoding of any format that is no NaN holds a value which rounds, in every mode, to that same encoding and raises no
condition. Round gives, of every finite value, the multiple of the step that the mode selects, or what the mode gives for an overflow. -/
def Obligations.EncodingsRoundToThemselves : Prop := (∀ code mode v, code ≤ 8 → v < 2 ^ (ffmt code).width →
  (decodeF (ffmt code) v).isNan = false → Machine.round (ffmt code) mode (decodeF (ffmt code) v) = (v, 0)) ∧
  RoundingIsCorrect

/-! Live values, moves, exchange and registers -/

/-- R46, R47, R198: `rd` sends the slot as it stood at admission, poison where it is marked, the low slot's mark first, and never what a `wr` of the
instance writes; a slot in which an error was found parks the thread instead (R378). Reading a slot that holds a landed status acquires first (R291). -/
def Obligations.ReadSlot : Prop := ∀ (s : State) (x : Site) (f : FmtL) (sh : Shape),
  shape (.rd f) = some sh → Fires s x sh →
  let n := f.slot.toNat
  let w := outWidthAt x.ws x.idx
  let lo := x.ins.slots0.getD n Slot.empty
  let hi := x.ins.slots0.getD (n + 1) Slot.empty
  ((slotsOf n w).any x.t.lvsBad.contains = false →
    let s1 := statusAcquire s x.t (slotsOf n w)
    (lo.mark = true → Sends (exec (.rd f) s) s1 x (.poison lo.val) 0) ∧
    (lo.mark = false → w ≠ 64 → Sends (exec (.rd f) s) s1 x (valTok lo.val.toNat) 0) ∧
    (lo.mark = false → w = 64 → hi.mark = true → Sends (exec (.rd f) s) s1 x (.poison hi.val) 0) ∧
    (lo.mark = false → w = 64 → hi.mark = false → Sends (exec (.rd f) s) s1 x (valTok (lo.val.toNat + hi.val.toNat * 2 ^ 32)) 0) ∧
    ((slotsOf n w).any x.t.statusAt.contains = false → s1 = s) ∧
    ((slotsOf n w).any x.t.statusAt.contains = true → s1 = invalidateL1 s x.t.vc x.t.ctx)) ∧
  ((slotsOf n w).any x.t.lvsBad.contains = true → exec (.rd f) s = .next (takeFault s x.t.uid ⟨0x0A, 2, 0, 0, 0⟩))

/-- R201: the fourteen system values. The group's place in the grid and the group counts are those of the launch record, or of the shape where the launch is
speculative: what the instance sampled of the shape when it was admitted (R118). -/
def SystemValues (s : State) (x : Site) : Prop :=
  ∀ (f : FmtL) (sh : Shape) (g : Grid), shape (.rdsys f) = some sh → Fires s x sh → grid? s x.t.grid = some g →
    let n := f.slot.toNat
    let sends : Nat → Prop := fun v => Sends (exec (.rdsys f) s) s x (valTok v) 0
    let nx := field512 g.raw 0x0C 4 + 1
    let ny := field512 g.raw 0x10 2 + 1
    let nz := field512 g.raw 0x12 2 + 1
    let gs := field512 g.raw 0x14 4
    (n = 0 → sends x.t.tid) ∧ (n = 1 → sends ((bits gs 0 10 + 1) * (bits gs 10 10 + 1) * (bits gs 20 10 + 1))) ∧
    (g.spec = none → (n = 2 → sends (x.t.gidx % nx % 2 ^ 32)) ∧ (n = 3 → sends (x.t.gidx / nx % ny % 2 ^ 32)) ∧
      (n = 4 → sends (x.t.gidx / (nx * ny) % 2 ^ 32)) ∧ (n = 5 → sends (nx % 2 ^ 32)) ∧ (n = 6 → sends ny) ∧ (n = 7 → sends nz) ∧
      (n = 12 → sends (nx * ny * nz % 2 ^ 32))) ∧
    (g.spec ≠ none → (n = 2 → sends (x.t.gidx % 2 ^ 32)) ∧ (n = 3 ∨ n = 4 → sends 0) ∧ (n = 5 → sends (x.ins.ngrpx % 2 ^ 32)) ∧
      (n = 6 ∨ n = 7 → sends 1) ∧ (n = 12 → sends (x.ins.shape % 2 ^ 32))) ∧
    (n = 8 → sends x.t.vc) ∧ (n = 9 → sends (x.t.vc / 16)) ∧ (n = 10 → sends x.t.frame) ∧ (n = 11 → sends x.ins.prov.toNat) ∧
    (n = 13 → sends (dieClock s x.t.vc % 2 ^ 64))

/-- R118, R148: what an instance samples when it is admitted: its thread's slots, whether its group is provisional, and the shape: the prediction and a
confirmed count of 0 while the shape is unknown, the true count in both places afterwards. -/
def ShapeSampled : Prop := ∀ (s : State) (t : Thread) (p : Placement) (tag : Nat) (g : Grid), grid? s t.grid = some g →
  let i := newInst s t p tag
  i.place = p.slot ∧ i.slots0 = t.slots ∧ i.fired = [] ∧ (g.spec = none → i.prov = false) ∧
  ∀ sp, g.spec = some sp → (sp.truth = none → i.prov = true ∧ i.shape = 0 ∧ i.ngrpx = sp.pred) ∧
    ∀ n, sp.truth = some n → i.prov = false ∧ i.shape = n ∧ i.ngrpx = n

/-- R359, R361: what `rdctl` reads at each number of the map, at the instant it fires: its own context's number and CSEL, the registers of the context that CSEL
names, 0 where no such context is, and the entries of the virtual core table. FU_DONE reads as 0. -/
def ControlValues (s : State) (x : Site) : Prop :=
  ∀ (f : FmtS) (sh : Shape) (c : Ctx), shape (.rdctl f) = some sh → Fires s x sh → ctx? s x.t.ctx = some c →
    let n := f.ctl.toNat
    let sends : Nat → Prop := fun v => Sends (exec (.rdctl f) s) s x (valTok v) 0
    let named := ctx? s (c.regs.csel.toNat % 2 ^ 16)
    (n = 0x00 → sends x.t.ctx) ∧ (n = 0x01 → sends c.regs.csel.toNat) ∧
    (2 ≤ n → n < 0x80 → named = none → sends 0) ∧
    (∀ d, named = some d → (n = 0x02 → sends d.regs.ctxCtl.toNat) ∧ (n = 0x03 → sends d.regs.ptBase.toNat) ∧ (n = 0x04 → sends d.regs.qtabBase.toNat) ∧
      (n = 0x05 → sends d.regs.sigtBase.toNat) ∧ (n = 0x06 → sends d.regs.sigtN.toNat) ∧ (n = 0x07 → sends d.regs.predBase.toNat) ∧
      (n = 0x08 → sends d.regs.raltBase.toNat) ∧ (n = 0x09 → sends d.regs.chtBase.toNat) ∧ (n = 0x0A → sends d.regs.evqBase.toNat) ∧
      (n = 0x0B → sends d.regs.wdLimit.toNat) ∧ (n = 0x0C → sends d.regs.dgLimit.toNat) ∧ (n = 0x0D → sends d.regs.barLimit.toNat) ∧
      (n = 0x0E → sends d.regs.policy.toNat) ∧ (n = 0x0F → sends 0) ∧ (n = 0x10 → sends (d.regs.req.toNat * 2 ^ 31 + d.regs.phase))) ∧
    (∀ k e, n = 0x80 + k → s.pkg.vct[k]? = some e →
      sends (e.v.toNat * 2 ^ 31 + (vctLocked s k).toNat * 2 ^ 30 + e.pcore * 2 ^ 16 + e.pcore / 18 * 2 ^ 8))

/-- R363: what `perf` reads: the monitor of the thread's core and context that its field numbers, and 0 where nothing has been counted there. -/
def PerfValues (s : State) (x : Site) : Prop :=
  ∀ (f : FmtS) (sh : Shape) (c : Ctx), shape (.perf f) = some sh → Fires s x sh → ctx? s x.t.ctx = some c →
    let n := f.ctl.toNat
    let sends : Nat → Prop := fun v => Sends (exec (.perf f) s) s x (valTok v) 0
    (c.mons.find? (fun m => m.vc == x.t.vc) = none → sends 0) ∧
    (∀ m, c.mons.find? (fun m => m.vc == x.t.vc) = some m → (n = 0 → sends m.miss.toNat) ∧ (n = 1 → sends m.admits.toNat) ∧
      (n = 2 → sends m.commits.toNat) ∧ (n = 3 → sends m.bpMiss.toNat) ∧ (n = 4 → sends m.aborts.toNat))

/-- R200, R201, R351, R359, R361, R363: `rdsys` sends the system value that its field numbers, `xget` the exchange slot of the named member of the group as it
stands when it fires, or as it stood before the commits of that cycle, `rdctl` the control register and `perf` the monitor, sampled when they fire. `mov` sends
its port-a token unchanged. What `rdsys` says of the shape is what the instance sampled at its admission. -/
def Obligations.MovesAndSamples : Prop := ShapeSampled ∧
  ∀ (s : State) (x : Site),
  SystemValues s x ∧ ControlValues s x ∧ PerfValues s x ∧
  (∀ (f : FmtL) (sh : Shape), shape (.xget f) = some sh → Computes s x sh → xsOldNow s x.t.vc = [] →
    (∀ m, (threadsOf s x.t.grid x.t.gidx).find? (fun m => m.tid == portVal s x sh 0 && liveThread m) = some m →
      let e := m.xs.getD (f.slot.toNat % 8) Slot.empty
      (e.pres = false → Sends (exec (.xget f) s) s x .null 0) ∧
      (e.pres = true → e.mark = true → Sends (exec (.xget f) s) s x (.poison e.val) 0) ∧
      (e.pres = true → e.mark = false → Sends (exec (.xget f) s) s x (valTok e.val.toNat) 0)) ∧
    ((threadsOf s x.t.grid x.t.gidx).find? (fun m => m.tid == portVal s x sh 0 && liveThread m) = none →
      Sends (exec (.xget f) s) s x .null 0)) ∧
  (∀ (f : FmtL) (sh : Shape) o, shape (.xget f) = some sh → Computes s x sh →
    (xsOldNow s x.t.vc).find? (fun o => o.grid == x.t.grid && o.gidx == x.t.gidx && o.tid == portVal s x sh 0) = some o →
    let e := o.xs.getD (f.slot.toNat % 8) Slot.empty
    (e.pres = false → Sends (exec (.xget f) s) s x .null 0) ∧
    (e.pres = true → e.mark = true → Sends (exec (.xget f) s) s x (.poison e.val) 0) ∧
    (e.pres = true → e.mark = false → Sends (exec (.xget f) s) s x (valTok e.val.toNat) 0)) ∧
  (∀ (f : FmtS) (sh : Shape), shape (.rdctl f) = some sh → Fires s x sh →
    Sends (exec (.rdctl f) s) s x (valTok (readCtl s x.t.ctx f.ctl.toNat)) 0) ∧
  (∀ (f : FmtS) (sh : Shape), shape (.perf f) = some sh → Fires s x sh →
    Sends (exec (.perf f) s) s x (valTok (perfValue s x.t.vc x.t.ctx f.ctl.toNat)) 0) ∧
  (∀ (f : FmtB) (sh : Shape), shape (.mov f) = some sh → Computes s x sh → Sends (exec (.mov f) s) s x (portTok s x sh 0) 0)

/-! Words that access memory when they fire -/

/-- The load has issued its request for an address, in the state `u` that its checks left: it has fired and sent no token yet. -/
def IssuesIn (o : Out) (s u : State) (x : Site) (va : Nat) (st : LoadSt) : Prop :=
  o = .next (modThread u x.t.uid fun t => { t with inst := some (issueInst x.ins x.idx va st (coreNow s x.t.vc)) })

/-- The load has issued its request, and nothing else has changed. -/
abbrev Issues (o : Out) (s : State) (x : Site) (va : Nat) (st : LoadSt) : Prop := IssuesIn o s s x va st

/-- R253, R254, R258, R259: a load whose checks pass issues its request at the address it forms and sends nothing until it returns; `ldsn` reads the
scratchpad at once; a global read out of bounds gives 0 without a request; a check that fails is kept for the commit of the instance.
An `ldsn` of bytes that its thread has yet to write waits for them instead (R255).
`pld` checks alignment and its channel, whose entry the hub reads (R230, R451), and leaves with its virtual address; the far end answers later (R248).
That `ldsn` reads when it fires is the model's choice (log entry 21). -/
def Obligations.LoadsIssueRequests : Prop :=
  (∀ (s : State) (x : Site) (f : FmtM) (sh : Shape),
   shape (.ld f) = some sh → Computes s x sh →
   let w := accessBytes f.wcode
   let global : Nat → Out → Prop := fun buf o =>
     let where_ := bufAddr (bufOf s x.t buf) (portVal s x sh 0) (hoffAt x.ws x.idx) w .read
     (where_ = .out → Sends o s x (valTok 0) 0) ∧
     (∀ e, where_ = .fault e → Issues o s x 0 (.failed e)) ∧
     (∀ va, where_ = .va va → ∀ pa mt, translate s { x.t with inst := some x.ins } (cidfOf s x.t) va .read = .pa pa mt → Issues o s x va .pending)
   let off : Int := portVal s x sh 0 + hoffAt x.ws x.idx
   let size : Int := ((unitsOf s x.t).1 * 16384 : Nat)
   global f.buf.toNat (exec (.ld f) s) ∧ global f.buf.toNat (exec (.ldc f) s) ∧ global (f.buf.toNat % 4) (exec (.ldacq f) s) ∧
   (off < 0 ∨ size < off + w → Issues (exec (.lds f) s) s x 0 (.failed (prot 7 0))) ∧
   (0 ≤ off → off + w ≤ size → off.toNat % w ≠ 0 → Issues (exec (.lds f) s) s x 0 (.failed (prot 5 0))) ∧
   (0 ≤ off → off + w ≤ size → off.toNat % w = 0 → Issues (exec (.lds f) s) s x off.toNat .pending) ∧
   (off < 0 ∨ size < off + w → Issues (exec (.ldsn f) s) s x 0 (.failed (prot 7 0))) ∧
   (0 ≤ off → off + w ≤ size → off.toNat % w ≠ 0 → Issues (exec (.ldsn f) s) s x 0 (.failed (prot 5 0))) ∧
   (0 ≤ off → off + w ≤ size → off.toNat % w = 0 → badScratch s x.t off.toNat w = true →
     Issues (exec (.ldsn f) s) s x off.toNat (.failed ⟨0x0A, 3, 0, off.toNat, 0⟩)) ∧
   (0 ≤ off → off + w ≤ size → off.toNat % w = 0 → badScratch s x.t off.toNat w = false →
     ownScratch s x.t.vc x.t.uid ((unitsOf s x.t).2 * 16384 + off.toNat) w = true → Issues (exec (.ldsn f) s) s x off.toNat .pending) ∧
   (0 ≤ off → off + w ≤ size → off.toNat % w = 0 → badScratch s x.t off.toNat w = false →
     ownScratch s x.t.vc x.t.uid ((unitsOf s x.t).2 * 16384 + off.toNat) w = false →
     Sends (exec (.ldsn f) s) s x (valTok (extendLoad f.wcode (natLE (spadRead s x.t.vc (unitsOf s x.t).2 off.toNat w)))) 0)) ∧
  (∀ (s : State) (x : Site) (f : FmtM) (sh : Shape), shape (.pld f) = some sh → Computes s x sh →
   let va := portVal s x sh 0
   let ch := openChannel s x.t.ctx f.buf.toNat
   (va % accessBytes f.wcode ≠ 0 → Issues (exec (.pld f) s) s x va (.failed (prot 5 va))) ∧
   (va % accessBytes f.wcode = 0 → ch.2 = none → IssuesIn (exec (.pld f) s) s ch.1 x va (.failed (prot 9 va))) ∧
   (va % accessBytes f.wcode = 0 → ch.2 ≠ none → IssuesIn (exec (.pld f) s) s ch.1 x va .pending))

/-- R151, R152, R230, R231, R268: what the words that read memory when they fire change. A global load leaves the instance of its own thread, the one in
focus, and at most one miss for the walkers: the whole state is otherwise as it was. A `pld` leaves its instance and what the hub's read of the channel
entry comes to, which touches the hub, the dies, the contexts and how far pending writes have come, and nothing else. A `pf` completes: it sends its token and
brings at most lines into caches. Every other thread, frame, group, grid, register and byte of scratchpad stays. -/
def Obligations.LoadsAndPrefetchesKeepFrames : Prop :=
  (∀ (f : FmtM) (s t : State),
   exec (.ld f) s = .next t ∨ exec (.ldc f) s = .next t ∨ exec (.ldacq f) s = .next t →
   t = s ∨ ∃ x ins ms, site? s = some x ∧
     t = modThread { s with hub := { s.hub with misses := ms } } x.t.uid (fun u => { u with inst := some ins }) ∧
     (ms = s.hub.misses ∨ ∃ m, ms = s.hub.misses ++ [m] ∧ m.ctx = x.t.ctx ∧ m.vc = x.t.vc ∧ m.write = false)) ∧
  (∀ (f : FmtM) (s t : State), exec (.pld f) s = .next t →
   t = s ∨ ∃ x ins s1, site? s = some x ∧ (s1 = s ∨ s1 = (openChannel s x.t.ctx f.buf.toNat).1) ∧
     t = modThread s1 x.t.uid (fun u => { u with inst := some ins }) ∧
     s1 = { s with hub := s1.hub, dies := s1.dies, ctxs := s1.ctxs, effects := s1.effects } ∧
     s1.effects.map (fun e => { e with st := .placed }) = s.effects.map fun e => { e with st := .placed }) ∧
  (∀ (s : State) (x : Site) (f : FmtM) (sh : Shape), shape (.pf f) = some sh → Fires s x sh →
   ∃ s1, exec (.pf f) s = .next (emit s1 x .null 0) ∧ CachesOnly s s1) ∧
  (∀ (f : FmtM) (s t : State), exec (.pf f) s = .next t → FramesKept s t ∧ MemoryKept s t ∧ ∀ vc, (core t vc).store = (core s vc).store)

/-! Words that act at commit -/

/-- A word fires wherever its ports hold their tokens, and sends nothing: its effect comes at its instance's commit. -/
def HandsOn (i : Instr) : Prop := ∀ (s : State) (x : Site) (sh : Shape), shape i = some sh → Fires s x sh → Sends (exec i s) s x .null 0

/-- Each word that acts at commit, by its name. -/
def EveryCommitWordHandsOn : Prop :=
  (∀ f, HandsOn (.next f)) ∧ (∀ f, HandsOn (.nextp f)) ∧ (∀ f, HandsOn (.nextpu f)) ∧ (∀ f, HandsOn (.nexti f)) ∧ (∀ f, HandsOn (.call f)) ∧
  (∀ f, HandsOn (.calli f)) ∧ (∀ f, HandsOn (.ret f)) ∧ (∀ f, HandsOn (.exit f)) ∧ (∀ f, HandsOn (.bar f)) ∧ (∀ f, HandsOn (.yield f)) ∧
  (∀ f, HandsOn (.spawn f)) ∧ (∀ f, HandsOn (.gwait f)) ∧ (∀ f, HandsOn (.trap f)) ∧ (∀ f, HandsOn (.brk f)) ∧ (∀ f, HandsOn (.launch f)) ∧
  (∀ f, HandsOn (.wr f)) ∧ (∀ f, HandsOn (.xput f)) ∧ (∀ f, HandsOn (.xclr f)) ∧ (∀ f, HandsOn (.gred f)) ∧ (∀ f, HandsOn (.gscan f)) ∧
  (∀ f, HandsOn (.vote f)) ∧ (∀ f, HandsOn (.st f)) ∧ (∀ f, HandsOn (.sts f)) ∧ (∀ f, HandsOn (.strel f)) ∧ (∀ f, HandsOn (.fence f)) ∧
  (∀ f, HandsOn (.cwb f)) ∧ (∀ f, HandsOn (.zfill f)) ∧ (∀ f, HandsOn (.pst f)) ∧ (∀ f, HandsOn (.aadd f)) ∧ (∀ f, HandsOn (.amin f)) ∧
  (∀ f, HandsOn (.amax f)) ∧ (∀ f, HandsOn (.aand f)) ∧ (∀ f, HandsOn (.aor f)) ∧ (∀ f, HandsOn (.axor f)) ∧ (∀ f, HandsOn (.axchg f)) ∧
  (∀ f, HandsOn (.acas f)) ∧ (∀ f, HandsOn (.afadd f)) ∧ (∀ f, HandsOn (.sigsub f)) ∧ (∀ f, HandsOn (.sigwait f)) ∧ (∀ f, HandsOn (.mbox f)) ∧
  (∀ f, HandsOn (.tcopy f)) ∧ (∀ f, HandsOn (.tstore f)) ∧ (∀ f, HandsOn (.tcopyo f)) ∧ (∀ f, HandsOn (.tcopyr f)) ∧ (∀ f, HandsOn (.tcast f)) ∧
  (∀ f, HandsOn (.sfree f)) ∧ (∀ f, HandsOn (.spres f)) ∧ (∀ f, HandsOn (.tgath f)) ∧ (∀ f, HandsOn (.tscat f)) ∧ (∀ f, HandsOn (.tclaim f)) ∧
  (∀ f, HandsOn (.trel f)) ∧ (∀ f, HandsOn (.mma f)) ∧ (∀ f, HandsOn (.mmi f)) ∧ (∀ f, HandsOn (.mmg f)) ∧ (∀ f, HandsOn (.tsacc f)) ∧
  (∀ f, HandsOn (.tzero f)) ∧ (∀ f, HandsOn (.tacst f)) ∧ (∀ f, HandsOn (.tacld f)) ∧ (∀ f, HandsOn (.tfence f)) ∧ (∀ f, HandsOn (.tmode f)) ∧
  (∀ f, HandsOn (.wrctl f)) ∧ (∀ f, HandsOn (.tlbinv f)) ∧ (∀ f, HandsOn (.cinv f)) ∧ (∀ f, HandsOn (.evpost f)) ∧ (∀ f, HandsOn (.ctxsv f)) ∧
  (∀ f, HandsOn (.ctxld f))

/-- R151, R157, R346: a word that acts at commit fires once its ports hold their tokens, whatever they are; it has then fired, sends nothing, and
leaves all else as it was until its instance commits.
R167, R174 to R178: `nop` and the hints consume and produce nothing: the state stays.
That a word's own step is its firing is the model's reading (log entry 6). -/
def Obligations.CommitWordsHandOn : Prop := EveryCommitWordHandsOn ∧
  (∀ (i : Instr) (s : State) (x : Site) (sh : Shape),
   commitWord i = true → shape i = some sh → Fires s x sh → Sends (exec i s) s x .null 0) ∧
  (∀ s : State,
   (∀ f, exec (.nop f) s = .next s) ∧ (∀ f, exec (.himm f) s = .next s) ∧ (∀ f, exec (.hoff f) s = .next s) ∧
   (∀ f, exec (.htgt f) s = .next s) ∧ (∀ f, exec (.hsch f) s = .next s))

/-- R149, R151, R152: a word of the fabric that reads no global memory changes nothing but the instance of its own thread, the one in focus: no slot, no
register, no byte of memory or scratchpad, no other thread.
No word of the fabric stores to memory when it fires, but for the record that an error found in a live value posts (R378) and for what the hub's read of a
channel entry sets in page tables (R230). -/
def Obligations.QuietWordsChangeOneInstance : Prop :=
  (∀ (i : Instr) (s t : State),
   quietWord i = true → exec i s = .next t → InstanceOnly s t) ∧
  (∀ (i : Instr) (s t : State), isWord i = true → (∀ f, i ≠ .rd f) → (∀ f, i ≠ .pld f) →
   exec i s = .next t → MemoryKept s t) ∧
  (∀ (f : FmtM) (s t : State), exec (.pld f) s = .next t →
   MemoryKept s t ∨ ∃ x, site? s = some x ∧ MemoryKept (openChannel s x.t.ctx f.buf.toNat).1 t)

/-! Commit -/

/-- A thread's commit has come past its accesses and held effects: `l` is what reading its layout records came to. -/
def CommitReached (s : State) (vc frame : Nat) (x : Site) (l : LayReads) : Prop :=
  ∃ t, threadAt? s vc frame = some t ∧ mayCommit s t = true ∧ halted s vc = false ∧ commitPast s vc frame = false ∧ phaseOf s t.ctx < 3 ∧ commitSite? s t = some x ∧
    allFired x = true ∧ t.ackRec = none ∧ stalled (watchNamed s x) = false ∧
    scanAcc ((List.range x.ws.length).map (accessAt (watchNamed s x) x)) = .clear ∧
    readLayouts (watchNamed s x) x = l ∧ l.wait = false ∧
    (confirmed l.s x.t = true ∨ (List.range x.ws.length).any (holdsInstance l.s x l.recs) = false)

/-- R48, R151, R160, R305, R358, R373: a commit whose accesses pass is tested for poison, then traps, then its successor, then engine holdings, then
resources, in that order; the first failure takes its fault, a lacking resource makes the instance wait, and with none the instance commits.
A commit with an access that fails takes that access's fault, the lowest failing index first; one whose accesses await translation waits; a
held effect of an unconfirmed group holds the instance (R121, R246).
The order of the tests among themselves is read from these rules together (log entry 33). -/
def Obligations.CommitTestsInOrder : Prop :=
  (∀ (s : State) (vc frame : Nat) (t : Thread) (x : Site),
   threadAt? s vc frame = some t → mayCommit s t = true → halted s vc = false → commitPast s vc frame = false → phaseOf s t.ctx < 3 →
   commitSite? s t = some x → allFired x = true → t.ackRec = none →
   let s1 := watchNamed s x
   let accs := (List.range x.ws.length).map (accessAt s1 x)
   let o := exec (.threadCommit vc frame) s
   stalled s1 = false →
   (∀ f pre post, accs = pre ++ .bad f :: post → (∀ a ∈ pre, (∀ g, a ≠ .bad g) ∧ ∀ va need, a ≠ .miss va need) → o = .next (takeFault s1 x.t.uid f)) ∧
   (∀ va need pre post, accs = pre ++ .miss va need :: post → (∀ a ∈ pre, (∀ g, a ≠ .bad g) ∧ ∀ va need, a ≠ .miss va need) →
     o = .next (awaitPages s1 x accs)) ∧
   (∀ l, scanAcc accs = .clear → readLayouts s1 x = l → l.wait = false → confirmed l.s x.t = false →
     (List.range x.ws.length).any (holdsInstance l.s x l.recs) = true → o = .next (holdInst l.s x))) ∧
  (∀ (s : State) (vc frame : Nat) (x : Site) (l : LayReads), CommitReached s vc frame x l →
   let o := exec (.threadCommit vc frame) s
   let uid := x.t.uid
   (∀ i org, poisonAt? l.s x = some (i, org) → o = .next (takeFault l.s uid ⟨4, 0, BitVec.ofNat 32 i, 0, org⟩)) ∧
   (poisonAt? l.s x = none → ∀ f, trapAt? l.s x = some f → o = .next (takeFault l.s uid f)) ∧
   (poisonAt? l.s x = none → trapAt? l.s x = none → ∀ s1,
     (∀ f, testSucc l.s x = (s1, .bad f) → o = .next (takeFault s1 uid f)) ∧
     (∀ u, testSucc l.s x = (s1, .go u) →
       (∀ i, engineFault? s1 x = some i → o = .next (takeFault s1 uid ⟨2, 15, BitVec.ofNat 32 i, 0, 0⟩)) ∧
       (∀ reason, engineFault? s1 x = none → lacking? s1 x = some reason → o = .next (waitInst s1 x reason)) ∧
       (engineFault? s1 x = none → lacking? s1 x = none → o = .next (commitInst s1 x u l.recs)))))

/-- A `wr` of the instance, with a token that is not null, covers a slot: itself or, for a 64-bit token, the slot after it (R199). -/
def WritesSlot (s : State) (x : Site) (k i : Nat) (tok : Tok) (high : Bool) : Prop :=
  ∃ f sh, wordAt? x i = some (.wr f, sh) ∧ i < x.ws.length ∧ deferredWr x.ws i = false ∧ portTok s (x.word i) sh 0 = tok ∧ tok ≠ .null ∧
    ((f.slot.toNat = k ∧ high = false) ∨ (producerWidth x.ws i = 64 ∧ f.slot.toNat + 1 = k ∧ high = true))

/-- What a token leaves in the slot it fills, or in the one after it (R47, R199). -/
def slotOf (tok : Tok) (high : Bool) : Slot :=
  match tok with
  | .val b => ⟨(if high then b >>> 32 else b).setWidth 32, true, false⟩
  | .poison o => ⟨o, true, true⟩
  | .null => Slot.empty

/-- R38, R171, R172, R199: what each slot of a frame holds after a commit's live-outs: the `wr` words in ascending index, so that the highest that is
not null wins, then the link word of `call` and `calli` in l63, then the conditions in the slot of FSLOT; every other slot keeps what it held. -/
def SlotsAfterCommit : Prop := ∀ (s : State) (x : Site) (u : Succ) (t : Thread) (g : Grid) (k : Nat), grid? s t.grid = some g → t.slots.length = 64 → k < 64 →
  let old := t.slots.getD k Slot.empty
  let fs := recFslot g.raw
  ∃ out linked : Slot,
    (∀ i tok high, WritesSlot s x k i tok high → (∀ j tok2 high2, WritesSlot s x k j tok2 high2 → j ≤ i) → out = slotOf tok high) ∧
    ((∀ i tok high, ¬ WritesSlot s x k i tok high) → out = old) ∧
    linked = (match u.link with
      | some r => if k = 63 then ⟨linkWord { x.t.ptr with sidx := r }, true, false⟩ else out
      | none => out) ∧
    (commitSlots s x u t).slots.getD k Slot.empty =
      (if bit fs 7 = true ∧ k = fs % 64 then ⟨(if linked.pres && !linked.mark then linked.val else 0) ||| x.ins.conds.setWidth 32, true, false⟩ else linked) ∧
    (commitSlots s x u t).xs = t.xs ∧ (commitSlots s x u t).ptr = t.ptr ∧ (commitSlots s x u t).seq = t.seq

/-- A word that does nothing at commit beside its live-out or its successor. -/
def plainAtCommit (i : Instr) : Bool :=
  match i with
  | .rd _ | .wr _ | .next _ | .nextp _ | .call _ | .ret _ => true
  | i => computingWord i

/-- R151, R160, R199: an instance that has passed every test commits: its live-outs land in its thread's slots first, then its words with an ordinal pass on in
ascending order, then the others act, and its thread, one instance further on, moves to its successor once nothing is left to wait for.
Where no word has an effect of its own and nothing else is pending, the next state has the thread at its successor with its live-outs in its slots. -/
def CommitLandsLiveOuts : Prop := ∀ (s s1 : State) (vc frame : Nat) (x : Site) (l : LayReads) (u : Succ),
  CommitReached s vc frame x l → poisonAt? l.s x = none → trapAt? l.s x = none → testSucc l.s x = (s1, .go u) → engineFault? s1 x = none →
  lacking? s1 x = none →
  let uid := x.t.uid
  (∃ a b : State, ∃ yields : Bool,
    a.threads = modWhere (fun t => t.uid == uid) (commitSlots s1 x u) s1.threads ∧ a.effects = s1.effects ∧ a.groups = s1.groups ∧ a.hub = s1.hub ∧
    (∀ v, (core a v).store = (core s1 v).store ∧ (core a v).copies = (core s1 v).copies ∧ (core a v).ops = (core s1 v).ops) ∧
    (let r1 := passOrdinals a x l.recs
     let r2 := passOthers r1.1 x
     let ws := r1.2 ++ r2.2
     b = { modThread r2.1 uid (fun t => { t with st := .moving, seq := t.seq + 1, inst := none, wait := some ⟨u.ptr, yields, ws⟩ }) with ctxs := b.ctxs } ∧
     exec (.threadCommit vc frame) s =
       .next (settleEntries (moveIfOver (settleGroup (testNow (settleOps (settleEffects b) x.t.vc) uid ws) x.t.grid x.t.gidx) uid) x.t.vc))) ∧
  (∀ p w, u.ptr = some p → u.uniform = none → (∀ v ∈ x.ws, ∀ i, v = some i → plainAtCommit i = true) →
    (∀ j v q, wordAt? x j = some (v, q) → q.ordinal = false) → thread? s1 uid = some w → w.resident = true →
    s1.effects = [] → (core s1 x.t.vc).ops = [] → (∀ g ∈ s1.groups, (∀ b ∈ g.bars, b.arrived = []) ∧ (∀ c ∈ g.colls, c.contribs = []) ∧ g.gw.arrived = []) →
    ∃ t v, exec (.threadCommit vc frame) s = .next t ∧ thread? t uid = some v ∧ v.slots = (commitSlots s1 x u w).slots ∧ v.xs = w.xs ∧ v.ptr = p ∧
      v.seq = w.seq + 1 ∧ v.inst = none ∧ (v.st = .waiting ∨ v.st = .unassigned ∨ v.st = .parked) ∧ t.hub = s1.hub ∧ t.effects = [] ∧ t.groups = s1.groups)

/-- R38, R47, R199: the live-outs of a commit: a value fills its slot, or two for a wide one, and clears the mark; poison stores its origin and marks the
slot; null leaves the slot; no other slot changes. The conditions raised are joined into the slot of FSLOT.
A commit whose tests pass leaves them in the thread's slots in the next state, the link word of a call among them. -/
def Obligations.LiveOutsLand : Prop := SlotsAfterCommit ∧ CommitLandsLiveOuts ∧
  (∀ (t : Thread) (n : Nat) (wide : Bool) (tok : Tok), n < t.slots.length → (wide = true → n + 1 < t.slots.length) →
    let at_ := fun k => (wrTok t n wide tok).slots.getD k Slot.empty
    (tok = .null → wrTok t n wide tok = t) ∧
    (∀ b, tok = .val b → at_ n = ⟨b.setWidth 32, true, false⟩ ∧ (wide = true → at_ (n + 1) = ⟨(b >>> 32).setWidth 32, true, false⟩)) ∧
    (∀ o, tok = .poison o → at_ n = ⟨o, true, true⟩ ∧ (wide = true → at_ (n + 1) = ⟨o, true, true⟩)) ∧
    (∀ k, k ≠ n → (wide = true → k ≠ n + 1) → at_ k = t.slots.getD k Slot.empty) ∧
    (wrTok t n wide tok).xs = t.xs ∧ (wrTok t n wide tok).ptr = t.ptr ∧ (wrTok t n wide tok).st = t.st) ∧
  (∀ (s : State) (x : Site) (t : Thread) (g : Grid), grid? s t.grid = some g → t.slots.length = 64 →
    let fs := recFslot g.raw
    let old := t.slots.getD (fs % 64) Slot.empty
    (bit fs 7 = false → writeConds s x t = t) ∧
    (bit fs 7 = true →
      ((writeConds s x t).slots.getD (fs % 64) Slot.empty) =
        ⟨(if old.pres && !old.mark then old.val else 0) ||| x.ins.conds.setWidth 32, true, false⟩ ∧
      ∀ k, k ≠ fs % 64 → (writeConds s x t).slots.getD k Slot.empty = t.slots.getD k Slot.empty))

/-- R260, R261, R262, R265, R270: at its ordinal a store, a releasing store or a zero-fill leaves the thread as one effect at the physical address that its
access was translated to, with its bytes, its mode and the scope it releases at; nothing else changes, memory included, until the effect is performed. A
scratchpad store that nothing holds back reaches its bank at once and nothing else; one behind a fence or an earlier access of its bytes leaves as an effect
that waits (R267). -/
def Obligations.StoresPassOn : Prop := ∀ (s : State) (x : Site) (f : FmtM) (sh : Shape) (ord : Nat) (lay : Option (BitVec 512)),
  shape (.st f) = some sh →
  let leaves : Passed → Nat → Nat → Nat → List Byte → Nat → Prop := fun p va pa mt bs rel =>
    p.2 = [] ∧ ∃ e : Effect, p.1 = { s with nextId := s.nextId + 1, effects := s.effects ++ [e] } ∧ e.kind = .store ∧ e.va = va ∧
      e.runs = [(pa, bs)] ∧ e.uid = x.t.uid ∧ e.vc = x.t.vc ∧ e.seq = x.t.seq ∧ e.ord = ord ∧ e.mt = mt ∧ e.ga = f.mod.getLsbD 3 ∧ e.rel = rel ∧
      e.st = .committed
  let data := bytesLE (accessBytes f.wcode) (portVal s x sh 1)
  (∀ va pa mt rtr, accessOf s x (.st f) sh = .global va pa mt rtr → leaves (passWord s x ord (.st f) sh lay) va pa mt data 0) ∧
  (∀ va pa mt rtr, accessOf s x (.strel f) sh = .global va pa mt rtr →
    leaves (passWord s x ord (.strel f) sh lay) va pa mt data (f.buf.toNat / 4 + 1)) ∧
  (∀ sh', shape (.zfill f) = some sh' → ∀ va pa mt rtr, accessOf s x (.zfill f) sh' = .global va pa mt rtr →
    leaves (passWord s x ord (.zfill f) sh' lay) va pa mt (List.replicate (zfillBytes f.wcode) 0) 0) ∧
  (accessOf s x (.st f) sh = .dropped → passWord s x ord (.st f) sh lay = (s, [])) ∧
  (∀ o, accessOf s x (.sts f) sh = .scratch o → scratchHeld s x ((unitsOf s x.t).2 * 16384 + o) data.length = true →
    ∃ e : Effect, passWord s x ord (.sts f) sh lay = ({ s with nextId := s.nextId + 1, effects := s.effects ++ [e] }, []) ∧ e.kind = .spadStore data ∧
      e.va = (unitsOf s x.t).2 * 16384 + o ∧ e.uid = x.t.uid ∧ e.ord = ord ∧ e.st = .committed) ∧
  (∀ o, accessOf s x (.sts f) sh = .scratch o → scratchHeld s x ((unitsOf s x.t).2 * 16384 + o) data.length = false → x.t.vc < s.cores.length →
    let p := passWord s x ord (.sts f) sh lay
    let base := (unitsOf s x.t).2 * 16384 + o
    p.2 = [] ∧ p.1.hub = s.hub ∧ p.1.threads = s.threads ∧ p.1.effects = s.effects ∧ p.1.dies = s.dies ∧
    (core p.1 x.t.vc).store.spad = memWrite (core s x.t.vc).store.spad base data ∧
    ∀ vc, vc ≠ x.t.vc → core p.1 vc = core s vc)

/-- R272, R355: the new value of each atomic, of `sigsub` and of `mbox` from the old one, its operand and its third operand, as bytes. `afadd` rounds to nearest,
ties to even, lane by lane. -/
def Obligations.AtomicValues : Prop := ∀ (ty w : Nat) (b c : BitVec 64) (old : List Byte), (w = 4 ∨ w = 8) → old.length = w →
  let n := 8 * w
  let v := natLE old
  let x := b.toNat % 2 ^ n
  let y := c.toNat % 2 ^ n
  let new : Nat → Nat := fun op => natLE (atomicRun op ty w b c old)
  let sg := ty = 0 ∨ ty = 2
  let I : Nat → Int := laneInt n (ty == 0 || ty == 2)
  new 0xB0 = (v + x) % 2 ^ n ∧
  (new 0xB1 = v ∨ new 0xB1 = x) ∧ I (new 0xB1) = min (I v) (I x) ∧
  (new 0xB2 = v ∨ new 0xB2 = x) ∧ I (new 0xB2) = max (I v) (I x) ∧
  (∀ k, k < n → bit (new 0xB3) k = (bit v k && bit x k) ∧ bit (new 0xB4) k = (bit v k || bit x k) ∧ bit (new 0xB5) k = (bit v k != bit x k)) ∧
  new 0xB6 = x ∧ new 0xB7 = (if v = x then y else v) ∧ (¬ sg → new 0xB9 = (v + (2 ^ n - x)) % 2 ^ n) ∧ new 0xBB = x ∧
  new 0xB8 = (onFloatLanes (if ty ≤ 1 then ty else ty + 2) (fun ft p q _ =>
    finishArith ft 0 [decodeF ft p, decodeF ft q] 0 (addV 0 (decodeF ft p) (decodeF ft q))) v x 0).val % 2 ^ n

/-- At its commit a word leaves one effect behind, of this kind, scopes and address; the thread's move waits for it or not. -/
def LeavesEffect (s : State) (x : Site) (p : Passed) (kind : EffKind) (va rel acq : Nat) (waits : Bool) : Prop :=
  ∃ e : Effect, p.1 = { s with nextId := s.nextId + 1, effects := s.effects ++ [e] } ∧ p.2 = (if waits then [.effect e.id] else []) ∧
    e.id = s.nextId ∧ e.kind = kind ∧ e.va = va ∧ e.rel = rel ∧ e.acq = acq ∧ e.uid = x.t.uid ∧ e.vc = x.t.vc ∧ e.seq = x.t.seq ∧ e.st = .committed

/-- The thread's slot is not present from now on; no other slot changes. -/
def SlotAwaits (s t : State) (uid n : Nat) : Prop :=
  ∀ u, thread? s uid = some u → ∃ v, thread? t uid = some v ∧ (v.slots.getD n Slot.empty).pres = false ∧
    ∀ k, k ≠ n → v.slots.getD k Slot.empty = u.slots.getD k Slot.empty

/-- R262, R267, R269, R271 to R274, R355, R357, R263, R337: atomics, signal words, fences, `cwb`, `launch` and `pst` leave one effect with their scopes; an
acquire acts at once; a result or an acquiring word holds the thread's move. -/
def EffectWordsLeave : Prop := ∀ (s : State) (x : Site) (sh : Shape) (ord : Nat) (lay : Option (BitVec 512)),
  let a := portVal s x sh 0
  let b := BitVec.ofNat 64 (portVal s x sh 1)
  let c := BitVec.ofNat 64 (portVal s x sh 2)
  let pass : Instr → Passed := fun i => passWord s x ord i sh lay
  let res : FmtT → Bool := fun f => f.mod.getLsbD 5
  let slot : FmtT → Nat := fun f => if f.mod.getLsbD 5 then f.slot.toNat else 64
  let rel : FmtT → Nat := fun f => if f.mod.getLsbD 3 then f.scope.toNat else 0
  let acq : FmtT → Nat := fun f => if f.mod.getLsbD 2 then f.scope.toNat else 0
  let waits : FmtT → Bool := fun f => f.mod.getLsbD 5 || f.mod.getLsbD 2
  (∀ f, atomicForm (.aadd f) = some (0xB0, f, false) ∧ atomicForm (.amin f) = some (0xB1, f, false) ∧ atomicForm (.amax f) = some (0xB2, f, false) ∧
    atomicForm (.aand f) = some (0xB3, f, false) ∧ atomicForm (.aor f) = some (0xB4, f, false) ∧ atomicForm (.axor f) = some (0xB5, f, false) ∧
    atomicForm (.axchg f) = some (0xB6, f, false) ∧ atomicForm (.acas f) = some (0xB7, f, false) ∧ atomicForm (.afadd f) = some (0xB8, f, true)) ∧
  (∀ i op f float, atomicForm i = some (op, f, float) →
    let w := atomicWidth f float / 8
    (∀ va pa mt rtr, accessOf s x i sh = .global va pa mt rtr →
      LeavesEffect s x (pass i) (.atomic op (f.mod.extractLsb' 0 2).toNat w b c (slot f)) va (rel f) (acq f) (waits f)) ∧
    (accessOf s x i sh = .dropped → (res f = false → pass i = (s, [])) ∧
      (res f = true → resultWaits s x.t.uid x.t.seq ord (f.slot.toNat, w) = false → resultDeferred x ord (f.slot.toNat, w) = false →
        pass i = (landSlots s x.t.uid f.slot.toNat (w == 8) 0, []))) ∧
    (∀ o, accessOf s x i sh = .scratch o → res f = false → f.mod.getLsbD 2 = false →
      let p := (unitsOf s x.t).2 * 16384 + o
      let old := memReadN (core s x.t.vc).store.spad p w
      scratchHeld s x p w = false → (f.mod.getLsbD 3 = true → settledG s x.t.uid = true) →
      pass i = (noteLate (spadWrite s x.t.vc 0 p (atomicRun op (f.mod.extractLsb' 0 2).toNat w b c old)) x.t.vc x.t.uid, []))) ∧
  (∀ f n va pa, accessOf s x (.sigsub f) sh = .signal n va pa →
    LeavesEffect s x (pass (.sigsub f)) (.atomic 0xB9 3 8 b 0 (slot f)) va (rel f) (acq f) (waits f)) ∧
  (∀ f n va pa, accessOf s x (.mbox f) sh = .signal n va pa →
    LeavesEffect s x (pass (.mbox f)) (.atomic 0xBB 3 8 b 0 (slot f)) va (rel f) (acq f) (waits f)) ∧
  (∀ f, pass (.sigwait f) = (s, [.sig ord a b (slot f) (f.mod.getLsbD 2) (siteWord x)])) ∧
  (∀ f : FmtS,
    let scope := bits f.ctl.toNat 0 3
    let acquired := acquireOn s x.t.vc x.t.ctx scope
    (bits f.ctl.toNat 3 2 = 0 → pass (.fence f) = (acquired, [])) ∧
    (bits f.ctl.toNat 3 2 = 1 → LeavesEffect s x (pass (.fence f)) (.fence 1) 0 scope 0 false) ∧
    (bits f.ctl.toNat 3 2 = 2 → LeavesEffect acquired x (pass (.fence f)) (.fence 2) 0 scope 0 true)) ∧
  (∀ f va pa mt rtr, accessOf s x (.cwb f) sh = .global va pa mt rtr →
    (mt = 0 → LeavesEffect s x (pass (.cwb f)) (.writeBack (f.wcode == 1)) pa 0 0 false) ∧ (mt ≠ 0 → pass (.cwb f) = (s, []))) ∧
  (∀ f va pa mt rtr, accessOf s x (.launch f) sh = .global va pa mt rtr → LeavesEffect s x (pass (.launch f)) .launch pa 3 0 false) ∧
  (∀ f va, accessOf s x (.pst f) sh = .peer va →
    let ch := openChannel s x.t.ctx f.buf.toNat
    (∀ pkg pctx o cid, ch.2 = some (pkg, pctx, o, cid) →
      LeavesEffect (bumpFlow ch.1 x.t.ctx f.buf.toNat) x (pass (.pst f)) (.peer f.buf.toNat pkg pctx (flowSeq ch.1 x.t.ctx f.buf.toNat) o false) va 0 0 false) ∧
    (ch.2 = none → pass (.pst f) = (postEvent ch.1 (peerRec x.t.ctx 0 va), [])))

/-- R162, R295, R307, R311, R314, R318 to R320: a copy joins its core's queue and a matrix command its core's commands, in order of commit, and
their status slots are not present until the status lands; `spres` opens a ring and `sfree` frees a buffer of one; `tmode` sets its group's mode;
`spawn` takes the lowest free frame. -/
def EngineWordsJoin : Prop := ∀ (s : State) (x : Site) (sh : Shape) (ord : Nat) (lay : Option (BitVec 512)), x.t.vc < s.cores.length →
  let a := portVal s x sh 0
  let pass : Instr → Passed := fun i => passWord s x ord i sh lay
  let here : State → Core := fun t => core t x.t.vc
  let word := x.pl.conf.words.getD x.idx 0
  (∀ f i, copyForm i = some f → (pass i).2 = [] ∧ SlotAwaits s (pass i).1 x.t.uid f.slot.toNat ∧
    ∃ c : Copy, (here (pass i).1).copies = (here s).copies ++ [c] ∧ c.uid = x.t.uid ∧ c.ord = ord ∧ c.st = .queued ∧ c.layout = lay ∧ c.word = word) ∧
  (∀ f, copyForm (.tcopy f) = some f ∧ copyForm (.tstore f) = some f ∧ copyForm (.tcopyo f) = some f ∧ copyForm (.tcopyr f) = some f ∧
    copyForm (.tcast f) = some f ∧ copyForm (.tgath f) = some f ∧ copyForm (.tscat f) = some f) ∧
  (let joins : Instr → Prop := fun i => (pass i).2 = [] ∧ ∃ o : Op, (here (pass i).1).ops = (here s).ops ++ [o] ∧ o.uid = x.t.uid ∧ o.st = .pending ∧
     o.tag = a % 64 ∧ o.word = word
   let each : Instr → FmtE → Prop := fun i f => (pass i).2 = [] ∧ ∃ os : List Op, (here (pass i).1).ops = (here s).ops ++ os ∧
     os.length = (rangeOf f).length ∧ ∀ o ∈ os, o.uid = x.t.uid ∧ o.st = .pending ∧ o.tag = a % 64
   (∀ f, joins (.mma f) ∧ joins (.mmi f) ∧ joins (.mmg f) ∧ joins (.tsacc f) ∧ joins (.tzero f) ∧ joins (.tacst f) ∧ joins (.tacld f) ∧
     joins (.tfence f)) ∧
   (∀ f, each (.trel f) f) ∧
   (∀ f, f.x.toNat / 16 = 0 → each (.tclaim f) f) ∧
   (∀ f, SlotAwaits s (pass (.tacst f)).1 x.t.uid f.slot.toNat ∧ SlotAwaits s (pass (.tacld f)).1 x.t.uid f.slot.toNat ∧
     SlotAwaits s (pass (.tfence f)).1 x.t.uid f.slot.toNat)) ∧
  (∀ f, f.x.toNat / 16 ≠ 0 → (here s).ops = [] →
    pass (.tclaim f) = ((rangeOf f).foldl (fun s u => claimUnit s x.t.vc x.t.ctx x.t.grid x.t.gidx u) s, [])) ∧
  (∀ f gr, group? s x.t.grid x.t.gidx = some gr →
    (pass (.tmode f)).2 = [] ∧ group? (pass (.tmode f)).1 x.t.grid x.t.gidx = some { gr with zsk := f.z.getLsbD 0 }) ∧
  (∀ f, let b := portVal s x sh 1
    let tb := bits b 0 17
    let dp := bits b 20 4 + 1
    a % 64 = 0 → a + dp * tb ≤ (spadOf s x.t.grid x.t.gidx).2 → tb % 64 = 0 → 64 ≤ tb → tb ≤ 65536 → bits b 17 3 = 0 → bits b 24 8 = 0 →
    ring? s x.t.vc x.t.grid (f.z.toNat % 16) = none →
    pass (.spres f) = (landStatus (modCore s x.t.vc fun k => { k with rings := k.rings ++ [⟨x.t.grid, f.z.toNat % 16, x.t.gidx, a, tb, dp, 0, 0, none⟩] })
      x.t.uid f.slot.toNat (2 ^ 31), [])) ∧
  (∀ f r, ring? s x.t.vc x.t.grid (f.z.toNat % 16) = some r → (pass (.sfree f)).2 = [] ∧
    ring? (pass (.sfree f)).1 x.t.vc x.t.grid (f.z.toNat % 16) = some (if r.fc = r.wc then r else { r with fc := r.fc + 1 })) ∧
  (∀ f frame rest, spawnFrames s x.t.vc (x.t.depth + 1) = frame :: rest → performedG s x.t.uid = true →
    ∃ n : Thread, n.uid = s.nextId ∧ n.frame = frame ∧ n.detached = true ∧ n.depth = x.t.depth + 1 ∧ n.tid = 0x10000 + frame ∧
      n.ptr = { x.t.ptr with sidx := f.sa.toNat } ∧ n.grid = x.t.grid ∧ n.gidx = x.t.gidx ∧
      pass (.spawn f) = (setWaiting { s with nextId := s.nextId + 1, threads := s.threads ++ [n] } s.nextId, []))

/-- R347, R350, R353, R356, R361 to R364: what words without an ordinal do at commit: `bar` and `gwait` arrive, a collective takes a contribution,
`xput` and `xclr` act on the exchange slot, `evpost` and the image words leave an effect, `wrctl`, `tlbinv` and `cinv` act at once. -/
def GroupWordsAct : Prop := ∀ (s : State) (x : Site) (sh : Shape),
  let a := portVal s x sh 0
  let other : Instr → Passed := fun i => passOther s x i sh
  (∀ f gr, group? s x.t.grid x.t.gidx = some gr → x.t.detached = false → f.ctl.toNat % 4 < gr.bars.length →
    (other (.bar f)).2 = [.bar (f.ctl.toNat % 4)] ∧ ∃ gr2, group? (other (.bar f)).1 x.t.grid x.t.gidx = some gr2 ∧
      (gr2.bars.getD (f.ctl.toNat % 4) Bar.fresh).arrived = (gr.bars.getD (f.ctl.toNat % 4) Bar.fresh).arrived ++ [x.t.uid]) ∧
  (∀ f, x.t.detached = true → other (.bar f) = (s, [])) ∧
  (let waits : FmtS → Passed := fun f => passGwaitWord s x f a (portVal s x sh 1)
   (∀ f gr, group? s x.t.grid x.t.gidx = some gr → x.t.detached = false →
    (waits f).2 = [.gwait] ∧ ∃ gr2, group? (waits f).1 x.t.grid x.t.gidx = some gr2 ∧ gr2.gw.arrived = gr.gw.arrived ++ [x.t.uid] ∧
      (gr.gw.arrived = [] → gr2.gwSig = a ∧ gr2.gwThr = BitVec.ofNat 64 (portVal s x sh 1) ∧ gr2.gwScope = f.ctl.toNat % 8) ∧
      (gr.gw.arrived ≠ [] → gr2.gwSig = gr.gwSig ∧ gr2.gwThr = gr.gwThr ∧ gr2.gwScope = gr.gwScope)) ∧
   (∀ f, x.t.detached = true → waits f = (s, [.ownGwait a (BitVec.ofNat 64 (portVal s x sh 1)) (siteWord x)]))) ∧
  (∀ f gr, group? s x.t.grid x.t.gidx = some gr → x.t.detached = false → siteGate s x sh = none →
    (passColl s x f sh).2 = [.coll x.idx (deferredSlot x) (collWidth f == 64)] ∧
    ∃ gr2, group? (passColl s x f sh).1 x.t.grid x.t.gidx = some gr2 ∧
      ∃ co ∈ gr2.colls, co.ptr = x.t.ptr ∧ co.idx = x.idx ∧ ⟨x.t.uid, x.t.tid, portTok s x sh 0⟩ ∈ co.contribs) ∧
  (∀ f, x.t.detached = true → passColl s x f sh = (s, [])) ∧
  (∀ (f : FmtL) t, thread? s x.t.uid = some t → f.slot.toNat % 8 < t.xs.length →
    let at_ : State → Option Slot := fun s => (thread? s x.t.uid).map fun t => t.xs.getD (f.slot.toNat % 8) Slot.empty
    (∀ v, at_ (passXput s x f (.val v)) = some ⟨v.setWidth 32, true, false⟩) ∧ (∀ o, at_ (passXput s x f (.poison o)) = some ⟨o, true, true⟩) ∧
    passXput s x f .null = s ∧ (at_ (passXclr s x f)).map (fun l => (l.pres, l.mark)) = some (false, false)) ∧
  (∀ f, other (.wrctl f) = (writeCtl s x.t.ctx f.ctl.toNat (BitVec.ofNat 64 a), [])) ∧
  (∀ f, f.mod.toNat % 4 = 2 → (other (.tlbinv f)).2 = [] ∧ (other (.tlbinv f)).1 = tlbInvalidate s (selected s x.t.ctx) 2 a) ∧
  (∀ f, (ctx? s (selected s x.t.ctx)).isSome = true → other (.tlbinv f) = (tlbInvalidate s (selected s x.t.ctx) (f.mod.toNat % 4) a, []) ∧
    other (.cinv f) = (((List.range s.cores.length).map fun vc => (vc, (core s vc).bullpen)).foldl (fun s k => refetch s k.1 k.2)
      (cacheInvalidate s (selected s x.t.ctx) (f.mod.toNat % 4)), [])) ∧
  (∀ f, ctx? s (selected s x.t.ctx) = none → other (.cinv f) = (s, []) ∧ (f.mod.toNat % 4 ≠ 2 → other (.tlbinv f) = (s, []))) ∧
  (∀ f, LeavesEffect s x (other (.evpost f)) (.event (threadRec x.t ⟨0x10, 0, f.ctl.setWidth 32, 0, BitVec.ofNat 32 a⟩ false)) 0 4 0 false) ∧
  (∀ f, let b := portVal s x sh 1 % 2 ^ 16
    let slot := f.mod.toNat % 64
    SlotAwaits s (other (.ctxsv f)).1 x.t.uid slot ∧ SlotAwaits s (other (.ctxld f)).1 x.t.uid slot ∧
    LeavesEffect (clearSlot s x.t.uid slot) x (other (.ctxsv f)) (.image true b slot) a 0 0 false ∧
    LeavesEffect (clearSlot s x.t.uid slot) x (other (.ctxld f)) (.image false b slot) a 0 0 false)

/-- R157, R160, R166, R168 to R173, R358: where each successor word sends its thread, and with what fault an operand stops it; a `trap`, and a `brk` of a
context that is being debugged, raise their records; a move to a successor, with `yield` or not, and an `exit`. -/
def SuccessorsFound : Prop :=
  (∀ (s : State) (x : Site) (i : Nat) (sh : Shape),
   let test : Instr → SuccTest := fun w => (testSuccWord s x i w sh).2
   let here : Nat → Option SegPtr := fun n => some { x.t.ptr with sidx := n }
   let taken := tokTrue ((tokAt x.ins i 3).getD .null)
   let fails : Nat → SuccTest := fun code => .bad ⟨2, 14, codeDetail code x.t.ptr.sidx i, 0, 0⟩
   (∀ f, test (.next f) = .go ⟨here f.sa.toNat, none, none⟩) ∧
   (∀ f, test (.nextp f) = .go ⟨here (if taken then f.sa.toNat else f.sb.toNat), none, none⟩) ∧
   (∀ f, test (.nextpu f) = .go ⟨here (if taken then f.sa.toNat else f.sb.toNat), none, some taken⟩) ∧
   (∀ f, test (.call f) = .go ⟨here f.sa.toNat, some f.sb.toNat, none⟩) ∧
   (∀ f, test (.exit f) = .go ⟨none, none, none⟩) ∧
   (∀ f, (portTok s (x.word i) sh 0 = .null → test (.nexti f) = fails 1) ∧
     ∀ v, portTok s (x.word i) sh 0 = .val v →
      (4096 ≤ v.toNat % 2 ^ 32 → test (.nexti f) = fails 2) ∧
      (v.toNat % 2 ^ 32 < 4096 → ownSegs s x.t ≤ v.toNat % 2 ^ 32 → test (.nexti f) = fails 3) ∧
      (v.toNat % 2 ^ 32 < 4096 → v.toNat % 2 ^ 32 < ownSegs s x.t → test (.nexti f) = .go ⟨here (v.toNat % 2 ^ 32), none, none⟩)) ∧
   (∀ f, (portTok s (x.word i) sh 0 = .null → test (.ret f) = fails 1) ∧
     ∀ v, portTok s (x.word i) sh 0 = .val v →
      (∀ p, checkLink s x.t.ctx (v.setWidth 32) = .ok p → test (.ret f) = .go ⟨some p, none, none⟩) ∧
      (∀ code, checkLink s x.t.ctx (v.setWidth 32) = .error code → test (.ret f) = fails code)) ∧
   (∀ f, (portTok s (x.word i) sh 0 = .null → test (.calli f) = fails 1) ∧
     ∀ v, portTok s (x.word i) sh 0 = .val v →
      (2 ^ 55 ≤ v.toNat % 2 ^ 64 ∨ v.toNat % 16 ≠ 0 → test (.calli f) = fails 2) ∧
      (v.toNat % 2 ^ 64 < 2 ^ 55 → v.toNat % 16 = 0 → ∀ s1 pa mt c p, codeXlat s x.t.vc x.t.ctx (cidfOf s x.t) (v.toNat % 2 ^ 64) = (s1, .inl (.pa pa mt)) →
        ctx? s1 x.t.ctx = some c → segAt? c (v.toNat % 2 ^ 64) = some p → test (.calli f) = .go ⟨some p, some (f.ctl.toNat * 16 + f.mod.toNat % 16), none⟩))) ∧
  (∀ (s : State) (x : Site) (k : Nat) (sh : Shape),
   (∀ j w q, j < k → wordAt? x j = some (w, q) → (∀ g, w ≠ .trap g) ∧ ∀ g, w ≠ .brk g) → acts s x k = true →
   (∀ f, wordAt? x k = some (.trap f, sh) → trapAt? s x = some ⟨0x0B, 0, f.ctl.setWidth 32, 0, BitVec.ofNat 32 (portVal s (x.word k) sh 0)⟩) ∧
   (∀ f c, wordAt? x k = some (.brk f, sh) → ctx? s x.t.ctx = some c → c.regs.ctxCtl.getLsbD 2 = true →
     trapAt? s x = some ⟨0x0C, 0, f.ctl.setWidth 32, 0, BitVec.ofNat 32 (portVal s (x.word k) sh 0)⟩)) ∧
  (∀ (s : State) (uid : Nat) (t : Thread) (w : MoveWait), thread? s uid = some t → t.wait = some w →
   (w.succ = none → finishMove s uid = leaveThread s uid) ∧
   (∀ p, w.succ = some p → finishMove s uid = setWaiting (modThread s uid fun t => { t with ptr := p, wait := none, owesYield := w.yields }) uid))

/-- R261, R307, R346: of an instance one of whose words carries an ordinal and acts, the commit passes that word on, and no other; of one with two such
words it passes on the one of lower index first; of an instance none of whose words carries an ordinal it passes nothing on there. -/
def CommitPassesWord : Prop := ∀ (s : State) (x : Site) (recs : List (Nat × Option (BitVec 512))),
  (∀ k w sh, k < x.ws.length → wordAt? x k = some (w, sh) → sh.ordinal = true → acts s x k = true →
    (∀ j v q, j ≠ k → wordAt? x j = some (v, q) → q.ordinal = false) →
    passOrdinals s x recs = passWord s (x.word k) (ordinalAt x.ws k) w sh (((recs.find? fun r => r.1 == k).map (·.2)).getD none)) ∧
  (∀ j k w v sh q, j < k → k < x.ws.length → wordAt? x j = some (w, sh) → wordAt? x k = some (v, q) → sh.ordinal = true → q.ordinal = true →
    (∀ i o r, i ≠ j → i ≠ k → wordAt? x i = some (o, r) → r.ordinal = false) → acts s x j = true →
    let p := passWord s (x.word j) (ordinalAt x.ws j) w sh (((recs.find? fun r => r.1 == j).map (·.2)).getD none)
    let n := passWord p.1 (x.word k) (ordinalAt x.ws k) v q (((recs.find? fun r => r.1 == k).map (·.2)).getD none)
    acts p.1 x k = true → passOrdinals s x recs = (n.1, p.2 ++ n.2)) ∧
  ((∀ j v q, wordAt? x j = some (v, q) → q.ordinal = false) → passOrdinals s x recs = (s, []))

/-- What the words that act at commit do there, beside the stores of StoresPassOn: the effects that leave the thread, the engine commands, the words of
the group and the context, the successors and traps. -/
def Obligations.CommitWordsTakeEffect : Prop := CommitPassesWord ∧ EffectWordsLeave ∧ EngineWordsJoin ∧ GroupWordsAct ∧ SuccessorsFound

/-! Effects and memory -/

/-- What is pending is stores and atomics alone, and nothing has arrived at a barrier, a collective or a wait of a group. -/
def Calm (s : State) : Prop :=
  (∀ e ∈ s.effects, e.kind = .store ∨ ∃ op ty w b c slot, e.kind = .atomic op ty w b c slot) ∧
  ∀ g ∈ s.groups, (∀ b ∈ g.bars, b.arrived = []) ∧ (∀ c ∈ g.colls, c.contribs = []) ∧ g.gw.arrived = []

/-- R261, R331: settling what has come about lets finished effects leave, and exited threads that nothing waits for. In a calm state it does nothing else but note
when a write was first sent; and it writes memory only where it posts an event. -/
def SettlingKeeps : Prop := ∀ (s : State), let t := settleEffects s
  (Calm s → t = { s with effects := t.effects, threads := t.threads } ∧ (∀ u ∈ s.threads, u.st ≠ .exited → u ∈ t.threads) ∧
    (∀ u ∈ t.threads, ∃ v ∈ s.threads, u = v ∨ u = { v with resident := false }) ∧ ∀ e ∈ t.effects, ∃ x ∈ s.effects, e = { x with sentAt := e.sentAt }) ∧
  ((∀ e ∈ s.effects, ∀ r, e.kind ≠ .event r) → (∀ g ∈ s.groups, (∀ b ∈ g.bars, b.arrived = []) ∧ (∀ c ∈ g.colls, c.contribs = []) ∧ g.gw.arrived = []) →
    t.hub.placed = s.hub.placed)

/-- R261, R328: WRITE_PLACEMENT of a store that may take its place writes its bytes at its addresses in the order the hub gives, and leaves every other byte of
memory as it was; the thread, its slots and its pointer stay. What settling then leaves as it was is said beside it, and in a calm state the next state itself. -/
def Obligations.PlacementWritesItsBytes : Prop := SettlingKeeps ∧ ∀ (s : State) (e : Nat) (x : Effect),
  effect? s e = some x → x.kind = .store → mayPlace s x = true →
  ∃ t, exec (.writePlacement (.place e)) s = .next (settleEffects t) ∧ t.hub.placed = memWriteRuns s.hub.placed x.runs ∧
    t.threads = s.threads ∧ t.ctxs = s.ctxs ∧ t.groups = s.groups ∧ (∀ y, effect? t e = some y → y.st = .placed) ∧
    (∀ a, runsHas x.runs a = false → memRead t.hub.placed a = memRead s.hub.placed a) ∧
    (∀ pa bs i, x.runs = [(pa, bs)] → i < bs.length → memRead t.hub.placed (pa + i) = bs.getD i 0) ∧
    (Calm s → (settleEffects t).hub.placed = memWriteRuns s.hub.placed x.runs ∧ (settleEffects t).groups = s.groups ∧
      (settleEffects t).ctxs = s.ctxs ∧ ∀ v ∈ s.threads, v.st ≠ .exited → v ∈ (settleEffects t).threads)

/-- R242, R243, R328, R329: a store performed in its die's slice is seen by every read of that die from then on, and memory itself, as other dies and the hub
see it, does not change yet; and a delivery shows a die the next placed write of the others. -/
def Obligations.DieSeesItsOwnWrites : Prop := ∀ (s : State),
  (∀ (e : Nat) (x : Effect), effect? s e = some x → x.kind = .store → x.st = .committed → x.ga = false → x.mt = 0 →
    x.runs.isEmpty = false → blocked s x = false → homeWaits s x = false → overtakes s x (fun y => y != .committed) = false →
    ∃ t, exec (.writePerformedInL2 e) s = .next (settleEffects t) ∧ t = showOnDie s x ∧ t.hub.placed = s.hub.placed ∧
      (∀ pa bs, x.runs = [(pa, bs)] → dieOf s x.vc < s.dies.length → dieRead t (dieOf s x.vc) pa bs.length = bs)) ∧
  (∀ d, exec (.writePlacement (.deliver d)) s = .next (settleEffects (deliverOne s d)) ∧ (deliverOne s d).hub.placed = s.hub.placed)

/-- R332, R333: the resolution of a lost acknowledgement marks the effect lost and gives its thread the record with which it parks; a thread that is at its
commit, or held there, parks at once, its instance dropped; any other goes on to its next commit. That no two threads have one number is an invariant
(StepKeepsShape). -/
def AckLossRecorded : Prop := ∀ (s : State) (e : Nat) (x : Effect) (u : Thread) (r : Bool), effect? s e = some x → ackOverdue s x = true → x.tries = 3 →
  thread? s x.uid = some u →
  let rc := ackLossRec x (if r then (if x.st = .placed then 0 else 1) else 2)
  let atCommit := u.st = .held ∨ (u.inst.bind (·.commitAt)).isSome = true
  (s.threads.map (·.uid)).Nodup →
  ∃ t, exec (.ackLossResolution e r) s = .next (settleEffects t) ∧ (∃ y, effect? t e = some y ∧ y.lost = true ∧ y.kind = x.kind ∧ y.acked = false) ∧
    ∃ v, thread? t x.uid = some v ∧ v.ackLost = u.ackLost ++ [e] ∧ v.slots = u.slots ∧ v.ptr = u.ptr ∧ v.ackRec = some (u.ackRec.getD rc) ∧
      (¬ atCommit → v.st = u.st ∧ v.inst = u.inst) ∧
      (atCommit → v.st = .parked ∧ v.inst = none ∧ v.kept = some { rc with fl := 5, slot := u.frame, vcore := u.vc, ptr := linkWord u.ptr })

/-- R262, R273, R331, R333: acknowledgements: the umpire's answer, a retry under the same tag, and after three retries the resolution; an atomic's result lands in
its slot once the atomic is performed, and the host's or a far end's answer is kept.
When host and far end answer is the model's choice (log entries 20, 23 and 24).
A lost acknowledgement leaves its record with its thread. -/
def Obligations.AcknowledgementsComplete : Prop :=
  (∀ (s : State) (e : Nat) (x : Effect), effect? s e = some x →
  (x.ga = true → x.st = .placed → x.acked = false → x.lost = false →
    exec (.gaAcknowledge e) s = .next (settleEffects (modEffect s e fun x => { x with acked := true }))) ∧
  (ackOverdue s x = true → x.tries < 3 → ∃ t, exec (.ackRetry e) s = .next t ∧ t = { s with effects := t.effects } ∧
    effect? t e = some { x with tries := x.tries + 1, sentAt := some (hubNow s) } ∧ t.effects.length = s.effects.length ∧
    ∀ k, k ≠ e → effect? t k = effect? s k) ∧
  (ackOverdue s x = true → x.tries = 3 → ∀ r, exec (.ackLossResolution e r) s = .next (resolveAckLoss s x r)) ∧
  (x.mt = 2 → x.st = .placed → x.accepted = false →
    exec (.hostWriteAccepted e) s = .next (settleEffects (modEffect s e fun x => { x with accepted := true }))) ∧
  (∀ ch pkg pctx seq ordered copy, x.kind = .peer ch pkg pctx seq ordered copy → x.accepted = false → blocked s x = false → flowAhead s x = false →
    exec (.peerWriteAcknowledged e) s =
      .next (settleEffects (modEffect s e fun x => { x with accepted := true, st := .placed, landed := true })) ∧
    ∀ code, exec (.peerFlowRefused e code) s =
      .next (settleEffects (postEvent (refuseCopy (modEffect s e fun x => { x with accepted := true, st := .placed, landed := true }) x)
        (peerRec x.ctx code x.va)))) ∧
  (∀ op ty w b c slot, x.kind = .atomic op ty w b c slot → x.landed = false → x.st = .placed → ackDone x = true → slot < 64 →
    resultWaits s x.uid x.seq x.ord (slot, w) = false →
    exec (.atomicResultLand e) s =
      .next (settleEffects (modEffect (landSlots s x.uid slot (w == 8) x.old.toNat) e fun y => { y with landed := true })))) ∧
  AckLossRecorded

/-- R249, R336: a peer's write that the far-end checks pass is placed at its address and acknowledged; one they refuse writes nothing, and an event is posted; a peer's
read answers the bytes, or nothing where it is refused, and the refused read of a copy posts an event, that of a `pld` none. An ordered flow performs its
writes in the order of their numbers, and one that comes too early waits.
That a flow begins at number 0, the order of the checks and the refusal of a migratable page are read as log entry 28 says. -/
def Obligations.PeerRequestsComplete : Prop := ∀ (s : State),
  (∀ (w : PeerWrite) s1 pa, flowNext s w = true →
    farCheck s w.ctx w.pkg w.pctx w.ordered w.copy true w.cid.toNat w.va w.data.length = (s1, .ok pa) →
    piecesAway s (farPieces s1 w.ctx w.va w.data.length) = false →
    ∃ t, exec (.peerWritePerform w) s = .next t ∧
      t.hub.placed = memWriteRuns s1.hub.placed (pieceRuns none (farPieces s1 w.ctx w.va w.data.length) w.data) ∧
      (∀ pa mt, farPieces s1 w.ctx w.va w.data.length = [(pa, w.data.length, mt)] → t.hub.placed = memWrite s1.hub.placed pa w.data) ∧
      t.hub.peerAcks = s1.hub.peerAcks ++ [(w.pkg, w.pctx, true)] ∧ t.threads = s.threads) ∧
  (∀ (w : PeerWrite) s1 code, flowNext s w = true →
    farCheck s w.ctx w.pkg w.pctx w.ordered w.copy true w.cid.toNat w.va w.data.length = (s1, .error code) →
    exec (.peerWritePerform w) s = .next (postEvent (flowDone s1 w false) (peerRec w.ctx code w.va))) ∧
  (∀ (w : PeerWrite), flowNext s w = false → exec (.peerWritePerform w) s = .next s) ∧
  (∀ (w : PeerWrite), flowNext s w = true ↔
    w.ordered = false ∨ w.seq = 0 ∨ ∃ f ∈ s.hub.peerFlows, f.1 = (w.pkg, w.pctx, w.chan) ∧ f.2 = w.seq) ∧
  (∀ (r : PeerRead) s1 pa, farCheck s r.ctx r.pkg r.pctx r.ordered r.copy false r.cid.toNat r.va r.len = (s1, .ok pa) →
    piecesAway s (farPieces s1 r.ctx r.va r.len) = false →
    ∃ t, exec (.peerReadRequest r) s = .next t ∧ t.threads = s.threads ∧ t.hub.placed = s1.hub.placed ∧
      t.hub.peerOut = s1.hub.peerOut ++ [(farPieces s1 r.ctx r.va r.len).flatMap fun p => hubRead s1 p.1 p.2.1]) ∧
  (∀ (r : PeerRead) s1 code, r.copy = false → farCheck s r.ctx r.pkg r.pctx r.ordered r.copy false r.cid.toNat r.va r.len = (s1, .error code) →
    exec (.peerReadRequest r) s = .next { s1 with hub := { s1.hub with peerOut := s1.hub.peerOut ++ [[]] } }) ∧
  (∀ (r : PeerRead) s1 code, r.copy = true → farCheck s r.ctx r.pkg r.pctx r.ordered r.copy false r.cid.toNat r.va r.len = (s1, .error code) →
    let s2 := postEvent s1 (peerRec r.ctx code r.va)
    exec (.peerReadRequest r) s = .next { s2 with hub := { s2.hub with peerOut := s2.hub.peerOut ++ [[]] } })

/-- R246, R371: FU_DONE lets the one thread that is parked on its page go on. -/
def FuDoneResumes : Prop := ∀ (s : State) (v : BitVec 64) (t : Thread),
  let ctx := bits v.toNat 48 16
  let page := bits v.toNat 0 39
  s.hub.migr = [] → s.threads.filter (parkedOnPage ctx page) = [t] →
  exec (.fuDone v) s = .next (returnThread (forgetPage (retryCopies s ctx page) ctx page) t.uid)

/-- R227, R229 to R231, R246: a walk reads the tables through the L3; one that ends at a leaf loads its entry into the TLBs of every core that missed and of their dies and marks the entry accessed; one that
ends at an unmapped, migratable or ill-formed entry, or at an address where nothing is, tells the instances that wait; either way the page's misses leave. FU_DONE resumes what is
parked on its page, and where nothing waits for the page it writes no memory and moves no thread.
That a table beyond the memory of its stack ends in cause 8, that FU_DONE retries a copy for its own page only, and that a hub access waits for its page
and asks once are read as log entries 29, 47 and 27 say. -/
def Obligations.PageWalksEnd : Prop :=
  (∀ (s : State),
  (∀ ctx page c, ctx? s ctx = some c →
    let ms := s.hub.misses.filter fun m => m.ctx == ctx && m.page == page
    let r := walkReads s (ptBase c) (page * 2 ^ 16)
    let s0 := { r with hub := { r.hub with misses := r.hub.misses.filter fun m => !(m.ctx == ctx && m.page == page) } }
    let vcs := (ms.map (·.vc)).eraseDups
    let o := exec (.pageWalk ctx page) s
    (r.hub.misses = s.hub.misses ∧ r.threads = s.threads ∧ r.groups = s.groups ∧ r.grids = s.grids ∧ r.cores = s.cores ∧ r.pkg = s.pkg ∧ r.ap = s.ap) ∧
    (ms = [] → o = .next s) ∧
    (ms ≠ [] →
    (∀ e large at_, walk r (ptBase c) (page * 2 ^ 16) = .leaf e large at_ →
      o = .next (vcs.foldl (fun s vc =>
        modDie (modCore s vc fun k => { k with tlb := tlbAdd 128 k.tlb ⟨ctx, page, large, e ||| walkBits e ms⟩ }) (dieOf s vc) fun d =>
          { d with tlb := tlbAdd 8192 d.tlb ⟨ctx, page, large, e ||| walkBits e ms⟩ }) (orPte s0 at_ e (walkBits e ms)))) ∧
    (walk r (ptBase c) (page * 2 ^ 16) = .unmapped → o = .next (tellBadPage s0 ctx page vcs { transFault 1 0 with data := 0 })) ∧
    (∀ large, walk r (ptBase c) (page * 2 ^ 16) = .migrate large →
      o = .next (tellBadPage s0 ctx page vcs { transFault 2 0 with data := if large then 1 else 0 })) ∧
    (walk r (ptBase c) (page * 2 ^ 16) = .bad → o = .next (tellBadPage s0 ctx page vcs { transFault 3 0 with data := 0 })) ∧
    (walk r (ptBase c) (page * 2 ^ 16) = .phys → o = .next (tellBadPage s0 ctx page vcs (prot 8 0))))) ∧
  (∀ (v : BitVec 64), exec (.fuDone v) s = .next (writeFuDone s v) ∧
    (s.hub.migr = [] → (∀ t ∈ s.threads, parkedOnPage (bits v.toNat 48 16) (bits v.toNat 0 39) t = false) →
      (writeFuDone s v).hub = s.hub ∧ (writeFuDone s v).threads.map (fun t => (t.st, t.slots, t.ptr)) = s.threads.map fun t => (t.st, t.slots, t.ptr)))) ∧
  FuDoneResumes

/-- The load of the thread in a frame that waits at an index, with its instance and the words of its placement. -/
def LoadWaits (s : State) (vc frame idx : Nat) (t : Thread) (ins : Inst) (ws : List (Option Instr)) (l : LoadReq) : Prop :=
  threadAt? s vc frame = some t ∧ t.inst = some ins ∧ ∃ pl, placeAt? s vc ins.place = some pl ∧ ws = decodeAll pl.conf.words ∧
    ins.loads.find? (fun l => l.idx == idx && l.st == .pending) = some l

/-- R241, R254, R255, R257, R258, R264: LOAD_RETURN of a translated global load whose bytes can be read sends them, extended as the width code says, to the
load's targets, after an acquire for `ldacq`; a scratchpad load sends its bytes as its cycle shows them, once its line is present and its own
thread owes no write of them, an `ldsn` that had to wait for such a write as well; a peer load sends the far end's bytes.
The value is that of the model's order of steps (log entries 21 and 38). -/
def Obligations.LoadsReturn : Prop := ∀ (s : State) (vc frame idx : Nat) (t : Thread) (ins : Inst) (ws : List (Option Instr)) (l : LoadReq),
  LoadWaits s vc frame idx t ins ws l →
  let o := exec (.loadReturn vc frame idx) s
  (∀ (f : FmtM) pa mt bs s1, ws.getD idx none = some (.ld f) ∨ ws.getD idx none = some (.ldc f) →
    translate s t (cidfOf s t) l.va .read = .pa pa mt → atomicInFlight s t.uid pa (accessBytes f.wcode) = false →
    readGlobal s t pa mt (accessBytes f.wcode) l.va = (s1, .ok bs) →
    o = .next (returnLoad s1 t ins ws l.idx (extendLoad f.wcode (natLE bs)))) ∧
  (∀ (f : FmtM) pa mt bs s1, ws.getD idx none = some (.ldacq f) →
    translate s t (cidfOf s t) l.va .read = .pa pa mt → atomicInFlight s t.uid pa (accessBytes f.wcode) = false →
    readGlobal (acquireOn s t.vc t.ctx (if mt = 0 then 1 else 4)) t pa mt (accessBytes f.wcode) l.va = (s1, .ok bs) →
    o = .next (returnLoad s1 t ins ws l.idx (extendLoad f.wcode (natLE bs)))) ∧
  (∀ (f : FmtM), ws.getD idx none = some (.lds f) ∨ ws.getD idx none = some (.ldsn f) →
    let p := (unitsOf s t).2 * 16384 + l.va
    let there := ws.getD idx none = some (.lds f) → linePresent s t.vc (p / 64) = true
    let owed := ownScratch s t.vc t.uid p (accessBytes f.wcode)
    (there → owed = false → badScratch s t l.va (accessBytes f.wcode) = false →
      o = .next (returnLoad s t ins ws l.idx (extendLoad f.wcode (natLE (spadRead s t.vc (unitsOf s t).2 l.va (accessBytes f.wcode)))))) ∧
    (there → owed = false → badScratch s t l.va (accessBytes f.wcode) = true →
      o = .next (setLoad s t ins l.idx (.failed ⟨0x0A, 3, 0, l.va, 0⟩) [])) ∧
    (¬ there ∨ owed = true → o = .next s)) ∧
  (∀ (f : FmtM) r, ws.getD idx none = some (.pld f) → (s.replies.find? fun r => r.vc == t.vc && r.uid == t.uid && r.idx == l.idx) = some r →
    r.refused = none →
    o = .next (returnLoad { s with replies := s.replies.filter fun x => x != r } t ins ws l.idx
      (extendLoad f.wcode (natLE (r.data.take (accessBytes f.wcode))))))

/-! Faults -/

/-- R151, R246, R366, R367: taking a fault aborts the instance with none of its values passed on, parks the thread at its segment's start with the
record of the fault, and posts the record; the thread's slots, pointer and sequence stay as they were. In the state after it, too, the groups, the grids and every other
thread's slots, pointer and instance number are as they were, and of the hub only what posting the record changes.
That no two threads have one number is an invariant (StepKeepsShape). -/
def Obligations.FaultParksAndRecords : Prop := ∀ (s : State) (uid : Nat) (t : Thread) (f : AccFault), thread? s uid = some t →
  let u := takeFault s uid f
  let parked : Thread → EvRec → Prop := fun v r => v.st = .parked ∧ v.inst = none ∧ v.wait = none ∧ v.kept = some r ∧
    v.slots = t.slots ∧ v.xs = t.xs ∧ v.ptr = t.ptr ∧ v.seq = t.seq
  ∃ s2 r, u = settleEntries (postEvent s2 r) t.vc ∧ s2.hub = s.hub ∧ s2.groups = s.groups ∧ s2.effects = s.effects ∧
    (∃ v, thread? s2 uid = some v ∧ parked v r) ∧
    r = ⟨f.kind, f.cause, t.ctx, t.vc, 1, t.frame, linkWord t.ptr, f.detail, f.addr, if f.kind = 1 ∧ f.cause = 2 then 0 else f.data, 0, []⟩ ∧
    u.hub = (postEvent s2 r).hub ∧ u.groups = s.groups ∧ u.grids = s.grids ∧
    u.effects.map (fun e => { e with st := .placed }) = s.effects.map (fun e => { e with st := .placed }) ∧
    ((s.threads.map (·.uid)).Nodup → (∃ v, thread? u uid = some v ∧ parked v r) ∧
      ∀ k v, k ≠ uid → thread? s k = some v → ∃ w, thread? u k = some w ∧ w.slots = v.slots ∧ w.xs = v.xs ∧ w.ptr = v.ptr ∧ w.seq = v.seq ∧
        (v.st ≠ .unassigned → w = v))

/-- R159, R365: a link word and the 32 bytes of a record hold each field at its place. -/
def Obligations.RecordLayout : Prop :=
  (∀ p : SegPtr, p.onum < 1024 → p.kidx < 1024 → p.sidx < 4096 → ofLink (linkWord p) = p) ∧
  (∀ r : EvRec, r.kind < 256 → r.cause < 256 → r.ctx < 65536 → r.vcore < 256 → r.fl < 256 → r.slot < 65536 → r.addr < 2 ^ 64 →
    (recBytes r).length = 32 ∧
    let v := natLE (recBytes r)
    bits v 0 8 = r.kind ∧ bits v 8 8 = r.cause ∧ bits v 16 16 = r.ctx ∧ bits v 32 8 = r.vcore ∧ bits v 40 8 = r.fl ∧ bits v 48 16 = r.slot ∧
    bits v 64 32 = r.ptr.toNat ∧ bits v 96 32 = r.detail.toNat ∧ bits v 128 64 = r.addr ∧ bits v 192 32 = r.data.toNat ∧
    bits v 224 32 = r.seq.toNat)

/-- R368, R369: a held record that the event queue takes is held no more; while the queue does not take it, it stays the first to be tried. -/
def HeldRecordsRetried : Prop := ∀ (s s1 : State) (ctx : Nat) (c : Ctx) (r : EvRec), ctx? s ctx = some c → c.evHeld = [r] → c.evOver = 0 → s1.hub.stalls = [] →
  (writePart s c r = (s1, true) →
    exec (.eventQueueRetry ctx) s = .next (modCtx s1 ctx fun c => { c with evHeld := [], retryAt := hubNow s + 4096 })) ∧
  (writePart s c r = (s1, false) →
    exec (.eventQueueRetry ctx) s = .next (modCtx s1 ctx fun c => { c with evHeld := [r], retryAt := hubNow s + 4096 }))

/-- R349, R369, R373: a stall that has lasted its limit is reported once and the wait goes on; held event records are tried again. -/
def Obligations.StallsReported : Prop :=
  (∀ (s : State),
  (∀ g gr w, groupNo? s g = some gr → w < 4 →
    let b := gr.bars.getD w ⟨0, [], 0, true, 0⟩
    barStalled s gr.ctx b.since b.told b.arrived = true →
    exec (.barrierStall g w) s = .next (postEvent
      (modGroup s gr.grid gr.gidx fun g => { g with bars := modAt (fun b => { b with told := true }) g.bars w })
      (barStallRec gr b.word b.arrived.length))) ∧
  (∀ vc frame t x from_ reason, threadAt? s vc frame = some t → commitSite? s t = some x → x.ins.commitAt = some from_ →
    x.ins.stallTold = false → mayCommit s t = true → from_ + wdLimit s t.ctx ≤ watchNow s t.ctx → lacking? s x = some reason →
    ∃ s1, exec (.heldCommitStall vc frame) s = .next (postEvent s1 (threadRec t ⟨8, reason, BitVec.ofNat 32 reason, 0, 0⟩ false)) ∧
      s1.hub = s.hub ∧ s1.threads.map (fun u => (u.st, u.slots, u.ptr, u.wait)) = s.threads.map fun u => (u.st, u.slots, u.ptr, u.wait)) ∧
  (∀ ctx, exec (.eventQueueRetry ctx) s = .next (retryEvents s ctx) ∧
    ∀ c, ctx? s ctx = some c → c.evHeld = [] → c.evOver = 0 → ∀ k, memRead (retryEvents s ctx).hub.placed k = memRead s.hub.placed k)) ∧
  HeldRecordsRetried

/-- R371: a parked thread that goes on waits for its segment again, or for an entry of it, with its slots, its record gone; one whose group is away in a dugout
waits there, and its group is wanted back. -/
def ParkedThreadGoesOn : Prop := ∀ (s : State) (uid : Nat) (t : Thread), thread? s uid = some t → t.st = .parked → (core s t.vc).failed = [] →
  (t.resident = true → ∃ u, thread? (returnThread s uid) uid = some u ∧ (u.st = .waiting ∨ u.st = .unassigned) ∧ u.kept = none ∧ u.ptr = t.ptr ∧
    u.slots = t.slots ∧ u.seq = t.seq) ∧
  (t.resident = false → (∃ u, thread? (returnThread s uid) uid = some u ∧ u.st = .waiting ∧ u.kept = none ∧ u.ptr = t.ptr ∧ u.slots = t.slots) ∧
    ∀ g, group? s t.grid t.gidx = some g → group? (returnThread s uid) t.grid t.gidx = some { g with wantIn := true })

/-- R371: RESUME and REDIRECT let the parked thread that they name go on, at its own segment and at the one of the link word. -/
def CommandsLetGo : Prop := ∀ (s : State) (v : BitVec 64) (t : Thread), placedThread? s (fcmdOf v) isParked = some t → (t.kept.map (·.kind)) ≠ some 5 →
  (t.kept.map (·.kind)) ≠ some 3 →
  exec (.fcmdResume v) s = .next (fcmdResult (returnThread s t.uid) v 0) ∧
  (∀ p, checkLink s t.ctx (s.ap.farg.setWidth 32) = .ok p → exec (.fcmdRedirect v) s =
    .next (fcmdResult (returnThread (modThread s t.uid fun t => { t with ptr := p, kept := none }) t.uid) v 0))

/-- R164, R371: a thread that is killed has exited: its frame is empty and it waits at no barrier of its group, before the group is settled without it. -/
def KilledThreadLeaves : Prop := ∀ (s : State) (v : BitVec 64) (t : Thread), placedThread? s (fcmdOf v) isParked = some t → thread? s t.uid = some t → t.ackLost = [] →
  ∃ s1, exec (.fcmdKillThread v) s =
      .next (fcmdResult (finishAway (freeFrames (settleEntries (settleGroup s1 t.grid t.gidx) t.vc)) t.grid t.gidx) v 0) ∧
    (∃ u, thread? s1 t.uid = some u ∧ u.st = .exited ∧ u.slots = List.replicate 64 Slot.empty ∧ u.xs = List.replicate 8 Slot.empty ∧ u.inst = none) ∧
    (∀ g, group? s1 t.grid t.gidx = some g → ∀ b ∈ g.gw :: g.bars, t.uid ∉ b.arrived) ∧ s1.effects = s.effects ∧ s1.hub = s.hub

/-- R371: a group of a confirmed grid that is killed is gone from the machine with its threads' records, and its record has been posted. -/
def KilledGroupGone : Prop := ∀ (s : State) (v : BitVec 64) (t : Thread) (gr : Group) (g : Grid), placedThread? s (fcmdOf v) liveThread = some t →
  group? s t.grid t.gidx = some gr → gr.st ≠ .squashing → (∀ u ∈ threadsOf s gr.grid gr.gidx, u.ackLost = []) → grid? (postEvent (dropCommands s gr) (killRec gr 1)) gr.grid = some g → provisional g = false →
  ∃ t1, exec (.fcmdKillGroup v) s = .next (fcmdResult t1 v 0) ∧ group? t1 gr.grid gr.gidx = none ∧ ∀ x ∈ t1.threads, ¬ (x.grid = gr.grid ∧ x.gidx = gr.gidx)

/-- R371, R372: each FCMD acts on the thread it names and answers its result code: 0 when it has acted, 1 when no thread fits, 2 for a link word that is not
valid, 3 for a step of a core that is not halted.
DHALT: a bit set halts its virtual core and no other, a bit cleared lets it go; no commit and no admission happens on a halted core.
Which thread a shared place names, and codes that R371 does not spell out, are the model's reading (log entries 46 and 49).
A thread let go waits for its segment, one killed has exited, and a killed group of a confirmed grid is gone. -/
def Obligations.FaultCommandsAndHalts : Prop :=
  (∀ (s : State) (v : BitVec 64),
   let f := fcmdOf v
   (placedThread? s f isParked = none →
     exec (.fcmdRedirect v) s = .next (fcmdResult s v 1) ∧ exec (.fcmdKillThread v) s = .next (fcmdResult s v 1)) ∧
   (placedThread? s f (fun t => isParked t || owesSettling t) = none → exec (.fcmdWriteSlot v) s = .next (fcmdResult s v 1)) ∧
   (∀ t, placedThread? s f (fun t => isParked t || owesSettling t) = some t →
     exec (.fcmdWriteSlot v) s = .next (fcmdResult (landSlots s t.uid (bits v.toNat 0 6) false (s.ap.farg.toNat % 2 ^ 32)) v 0)) ∧
   (∀ t, placedThread? s f isParked = some t →
     exec (.fcmdResume v) s = .next (fcmdResult (resumeParked s t) v 0) ∧
     (∀ p, checkLink s t.ctx (s.ap.farg.setWidth 32) = .ok p → exec (.fcmdRedirect v) s = .next (fcmdResult (redirectParked s t p) v 0)) ∧
     (∀ e, checkLink s t.ctx (s.ap.farg.setWidth 32) = .error e → exec (.fcmdRedirect v) s = .next (fcmdResult s v 2)) ∧
     (t.ackLost = [] → exec (.fcmdKillThread v) s = .next (fcmdResult (finishAway (leaveThread s t.uid) t.grid t.gidx) v 0))) ∧
   (∀ t gr, placedThread? s f liveThread = some t → group? s t.grid t.gidx = some gr → gr.st ≠ .squashing →
     exec (.fcmdKillGroup v) s = .next (fcmdResult (killGroup s gr 1) v 0)) ∧
   (exec (.fcmdRepost v) s = .next (fcmdResult
     ((sortBy (fun t => t.vc * 2048 + t.frame) (s.threads.filter fun t => t.ctx == f.ctx && isParked t)).foldl
       (fun s t => match t.kept with
         | some r => postEvent s r
         | none => s) s) v 0)) ∧
   (exec (.fcmdResumeKind v) s = .next (fcmdResult
     ((s.threads.filter fun t => t.ctx == f.ctx && isParked t && (t.kept.map (·.kind)) == some f.kind).foldl resumeParked s) v 0)) ∧
   (halted s f.vc = false → exec (.fcmdStep v) s = .next (fcmdResult s v 3)) ∧
   (∀ t, halted s f.vc = true → leastBy (fun t => t.frame) (s.threads.filter (atCommit s f.vc)) = some t →
     exec (.fcmdStep v) s = .next (fcmdResult (tryCommit s f.vc t.frame true) v 0))) ∧
  (∀ (s : State) (vc : Nat), vc < 128 →
   (∃ t, exec (.dhaltSet vc) s = .next t ∧ t = { s with ap := { s.ap with dhalt := t.ap.dhalt } } ∧ ∀ k, halted t k = (halted s k || k == vc)) ∧
   (∃ t, exec (.dhaltClear vc) s = .next t ∧ t = { s with ap := { s.ap with dhalt := t.ap.dhalt } } ∧ ∀ k, halted t k = (halted s k && k != vc)) ∧
   (halted s vc = true → ∀ frame slot, exec (.threadCommit vc frame) s = .next s ∧ exec (.threadAdmit vc slot) s = .next s)) ∧
  ParkedThreadGoesOn ∧ CommandsLetGo ∧ KilledThreadLeaves ∧ KilledGroupGone

/-! Launch, groups and signals -/

/-- The notification entries that watch a signal fire at an observed value at or below their threshold, and are disarmed (R391). -/
def notified (l : List Notify) (ctx n pa : Nat) (v : BitVec 64) : List Notify :=
  l.map fun e => if e.ctx.toNat = ctx ∧ sigField e.nsig.toNat = some n ∧ v ≤ e.thr then
    { e with nsig := e.nsig &&& 0x7FFF, due := e.due ++ [(e.vec.toNat, some pa)] } else e

/-- R103, R114, R391: an observed write that nothing watches only leaves the list of writes to observe; one whose signal a single context watches fires the
notification entries at or above the value, and makes a queue head that waits on the signal alone eligible exactly when the value is at or below its
threshold. -/
def SignalWatchersSee : Prop := ∀ (s : State),
  (s.hub.sigWrites = [] → exec .signalWriteObserved s = .next s) ∧
  (∀ pa v rest, s.hub.sigWrites = (pa, v) :: rest →
    let s1 := { s with hub := { s.hub with sigWrites := rest } }
    ((∀ c ∈ s.ctxs, ∀ e ∈ c.sigs, e.pa ≠ some pa) → exec .signalWriteObserved s = .next s1) ∧
    (∀ c n, s.ctxs = [c] → c.sigs = [⟨n, some pa⟩] → c.regs.phase < 7 → s.grids = [] → s.threads = [] → s.groups = [] →
      (c.heads = [] → exec .signalWriteObserved s = .next { s1 with ap := { s.ap with notify := notified s.ap.notify c.num n pa v } }) ∧
      (∀ h r, c.heads = [h] → h.raw = some r → h.tsig ≠ some n → sigField (field512 r 0x30 2) = some n → sigField (field512 r 0x32 2) = none →
        exec .signalWriteObserved s = .next { s1 with
          ap := { s.ap with notify := notified s.ap.notify c.num n pa v }
          ctxs := [{ c with heads := [{ h with eligible := decide (v.toNat ≤ field512 r 0x34 4) }] }] })))

/-- R109, R112, R113: the oldest record of the direct queue, once nothing stands at its head, comes to the head with its number; there it is eligible at once
where it waits for no signal, and where a check of R112 fails it is passed over and a LAUNCH record with the check's code is posted. -/
def DirectRecordsReachHead : Prop := ∀ (s : State) (ctx : Nat) (c : Ctx) (r : BitVec 512) (rest : List (BitVec 512)),
  ctx? s ctx = some c → c.regs.phase < 7 → head? c 64 = none → c.direct = r :: rest →
  let n := c.directN - c.direct.length
  (recCheck c r = none → sigField (field512 r 0x30 2) = none → sigField (field512 r 0x32 2) = none →
    exec (.recordReachesHead ctx 64) s = .next (setHead (setStalls s []) ctx { QHead.fresh 64 with recNo := n, raw := some r, eligible := true })) ∧
  (∀ code, recCheck c r = some code →
    ∃ s1, exec (.recordReachesHead ctx 64) s = .next (postEvent s1 (plainRec ctx 2 13 (launchDetail code 64 n) 0 0)) ∧
      s1 = { s with hub := { s.hub with stalls := [] }, ctxs := s1.ctxs } ∧ (ctx? s1 ctx).map (·.direct) = some rest)

/-- R102: a write of SIGT_N that would raise the package's sum above 4,096 is dropped; any other gives the table of the context its new length, and entries
that nobody had read are not read for it. -/
def SigtNWritten : Prop := ∀ (s : State) (ctx : Nat) (v : BitVec 32),
  let others := ((s.ctxs.filter fun c => c.num != ctx).map fun c => c.regs.sigtN.toNat).sum
  (4096 < others + v.toNat → exec (.sigtNWrite ctx v) s = .next s) ∧
  (others + v.toNat ≤ 4096 → ∀ c, ctx? s ctx = some c → c.sigs = [] →
    ∃ t, exec (.sigtNWrite ctx v) s = .next t ∧ t = { s with ctxs := t.ctxs } ∧ ctx? t ctx = some { c with regs := { c.regs with sigtN := v } } ∧
      ∀ k, k ≠ ctx → ctx? t k = ctx? s k)

/-- R111, R115: where one head of a direct queue is eligible and its tables can be read, the release makes a new active grid of them, with its uniforms as
the tables hold them and no group handed out, takes the record from the queue, and opens the next window of eight hub cycles. -/
def ReleaseMakesGrid : Prop := ∀ (s s1 s2 s3 : State) (c : Ctx) (h : QHead) (r : BitVec 512) (u b l : List Byte),
  eligibleHeads s = [(c, h, r)] → s.hub.lastRelease ≤ hubNow s → s.grids.length < 1024 → h.q = 64 → recSpec r = false →
  let cid := recCid r
  let utab : Int := (field512 r 0x20 8 : Int)
  let n := if recKsel r then 128 else 64
  readTable (setStalls s []) c cid utab (4 * n) = (s1, some u) →
  readTable s1 c cid (utab + 16 * toSigned 32 (field512 r 0x28 4)) 256 = (s2, some b) →
  readTable s2 c cid (utab + 16 * toSigned 32 (field512 r 0x2C 4)) 64 = (s3, some l) →
  s3.hub.stalls = [] →
  ∃ t, exec .launchRelease s = .next t ∧ t.hub.lastRelease = hubNow s + 8 ∧ t.hub.rrCtx = c.num ∧ t.hub.rrQueue = 64 ∧
    t.threads = s.threads ∧ t.groups = s.groups ∧ t.effects.length = s.effects.length ∧
    (∃ g ∈ t.grids, g.id = s.nextId ∧ g.ctx = c.num ∧ g.raw = r ∧ g.kidx = field512 r 8 2 ∧ g.queue = 64 ∧ g.recNo = h.recNo ∧
      g.unif = (wordsOf 4 n u).map (BitVec.ofNat 32) ∧ g.bufs = (wordsOf 16 16 b).map (BitVec.ofNat 128) ∧
      g.dptrs = (wordsOf 8 8 l).map (BitVec.ofNat 64) ∧ g.nextG = 0 ∧ g.spec = none)

/-- R103, R105, R112, R115: an observed signal write evaluates what depends on it and leaves the list of writes to observe; a record that reaches a head is
checked; a release takes a launch at most once in eight hub cycles and never beyond 1,024 active grids; a write of SIGT_N sets the table's length.
What watches a signal sees the value observed, the direct queue's oldest record reaches its head, and a release makes its grid. -/
def Obligations.LaunchEventsComplete : Prop :=
  (∀ (s : State),
  (∀ pa v rest, s.hub.sigWrites = (pa, v) :: rest →
    let s1 := { s with hub := { s.hub with sigWrites := rest } }
    exec .signalWriteObserved s = .next (s1.ctxs.foldl (fun s c =>
      c.sigs.foldl (fun s e => if e.pa == some pa then observeSignal s c.num e.n v else s) s) s1)) ∧
  (∀ ctx q, exec (.recordReachesHead ctx q) s = .next (hubAct s fun s => recordReachesHead s ctx q)) ∧
  (s.hub.lastRelease ≤ hubNow s → s.grids.length < 1024 →
    exec .launchRelease s = .next (releaseFirst (eligibleHeads s).length (eligibleHeads s) s)) ∧
  (hubNow s < s.hub.lastRelease ∨ 1024 ≤ s.grids.length → exec .launchRelease s = .next s) ∧
  (∀ ctx v, exec (.sigtNWrite ctx v) s = .next (writeSigtN s ctx v))) ∧
  SignalWatchersSee ∧ DirectRecordsReachHead ∧ SigtNWritten ∧ ReleaseMakesGrid

/-- What a write of the first eight bytes of a notification entry stores (R391). -/
def armed (e : Notify) (w : BitVec 64) : Notify :=
  { e with ctx := w.extractLsb' 0 16, nsig := w.extractLsb' 16 16 &&& 0x8FFF, vec := w.extractLsb' 32 16 &&& 0x3F }

/-- R391: a write that leaves EN clear only stores; one that names a signal looks at it at once: at or below the threshold the entry fires, with the vector it
holds then, and is disarmed; above it the entry stays armed, and where the context has no such signal EN is cleared. Messages of earlier firings stay due. -/
def ArmLooksAtOnce : Prop := ∀ (s : State) (n : Nat) (w : BitVec 64) (e : Notify), n < 64 → s.ap.notify[n]? = some e →
  let a := armed e w
  let holds : Notify → Prop := fun x => ∃ t, exec (.notifyEntryArm n w) s = .next t ∧ t = { s with ap := { s.ap with notify := t.ap.notify } } ∧
    t.ap.notify[n]? = some x ∧ ∀ k, k ≠ n → t.ap.notify[k]? = s.ap.notify[k]?
  (sigField a.nsig.toNat = none → holds a) ∧
  (∀ k, sigField a.nsig.toNat = some k → ctx? s a.ctx.toNat = none → s.hub.stalls = [] → holds { a with nsig := a.nsig &&& 0x7FFF }) ∧
  (∀ k c pa, sigField a.nsig.toNat = some k → ctx? s a.ctx.toNat = some c → k < c.regs.sigtN.toNat →
    c.sigs.find? (fun x => x.n == k) = some ⟨k, some pa⟩ →
    (wordAt s pa ≤ e.thr → holds { a with nsig := a.nsig &&& 0x7FFF, due := a.due ++ [(a.vec.toNat, some pa)] }) ∧ (e.thr < wordAt s pa → holds a))

/-- R391: each firing of an entry sends one message, with the vector of that firing, the earliest first, once every die has the write of the signal's word; until
then nothing is sent. -/
def MessageSent : Prop := ∀ (s : State) (n vec : Nat) (pa : Option Nat) (rest : List (Nat × Option Nat)) (e : Notify), s.ap.notify[n]? = some e →
  e.due = (vec, pa) :: rest →
  ((∀ a, pa = some a → ∀ d ∈ s.dies, ∀ m ∈ d.inbox, runsTouch m.runs a 8 = false) → exec (.hostNotificationMessage n) s = .next { s with
    ap := { s.ap with notify := modAt (fun e => { e with due := rest }) s.ap.notify n }, hub := { s.hub with msix := s.hub.msix ++ [vec] } }) ∧
  (∀ a, pa = some a → (∃ d ∈ s.dies, ∃ m ∈ d.inbox, runsTouch m.runs a 8 = true) → exec (.hostNotificationMessage n) s = .next s)

/-- R391: arming stores an entry's fields with the reserved bits 0, then looks at the signal once; each firing whose signal write has reached every die sends its
message once. -/
def Obligations.NotificationsComplete : Prop :=
  (∀ (s : State) (n : Nat) (w : BitVec 64), n < 64 →
  (∃ s1, exec (.notifyEntryArm n w) s = .next (armNotify s1 n) ∧ s1 = { s with ap := { s.ap with notify := s1.ap.notify } } ∧
    (∀ e, s.ap.notify[n]? = some e → s1.ap.notify[n]? = some
      { e with ctx := w.extractLsb' 0 16, nsig := w.extractLsb' 16 16 &&& 0x8FFF, vec := w.extractLsb' 32 16 &&& 0x3F }) ∧
    ∀ k, k ≠ n → s1.ap.notify[k]? = s.ap.notify[k]?) ∧
  (∀ e vec rest, s.ap.notify[n]? = some e → e.due = (vec, none) :: rest →
    ∃ t, exec (.hostNotificationMessage n) s = .next t ∧ t.hub.msix = s.hub.msix ++ [vec] ∧
      t.ap.notify[n]? = some { e with due := rest } ∧ t.hub.placed = s.hub.placed ∧ t.threads = s.threads)) ∧
  ArmLooksAtOnce ∧ MessageSent

/-- R116, R128, R129: a hand-out makes a group of the next index of the grid chosen, resident on the core chosen and starting, with the scratchpad units and operand
slots of its record that no resident group holds and one new thread a frame, each at its kernel's first segment with nothing present; the grid has handed out one
group more. -/
def GroupHandedOut : Prop := ∀ (s : State) (g : Grid) (vd vc : Nat), (s.hub.handCycle = hubNow s → s.hub.handCount < 8) → nextReturn? s = none →
  nextGroup? s = some (g, vd, vc) →
  let n := recThreads g.raw
  ∃ t gr, exec .groupHandout s = .next t ∧ t.hub.handCycle = hubNow s ∧
    t.hub.handCount = (if s.hub.handCycle = hubNow s then s.hub.handCount + 1 else 1) ∧
    t.groups = s.groups ++ [gr] ∧ gr.grid = g.id ∧ gr.gidx = g.nextG ∧ gr.ctx = g.ctx ∧ gr.vd = vd ∧ gr.at_ = .core vc ∧ gr.st = .starting ∧
    gr.startAt = coreNow s vc + 16 + (n + 63) / 64 ∧ gr.saved = none ∧ gr.spadUnits = recSpadu g.raw ∧ gr.opsl.length = recOpsl g.raw ∧
    (∀ x ∈ residents s vc, (∀ p ∈ gr.opsl, p ∉ x.opsl) ∧
      (gr.spadUnits = 0 ∨ x.spadUnits = 0 ∨ gr.spadBase + gr.spadUnits ≤ x.spadBase ∨ x.spadBase + x.spadUnits ≤ gr.spadBase)) ∧
    t.threads.length = s.threads.length + n ∧ (∀ k, k < s.threads.length → t.threads[k]? = s.threads[k]?) ∧
    (∀ k, k < n → ∃ u, t.threads[s.threads.length + k]? = some u ∧ u.uid = s.nextId + k ∧ u.tid = k ∧ u.grid = g.id ∧ u.gidx = g.nextG ∧ u.vc = vc ∧
      u.resident = true ∧ u.st = .starting ∧ u.ptr = ⟨g.onum, g.kidx, 0⟩ ∧ (freeFramesOf s vc)[k]? = some u.frame ∧ (∀ x ∈ u.slots, x.pres = false) ∧
      u.inst = none) ∧
    t.nextId = s.nextId + n ∧ (∀ x ∈ t.grids, x.id = g.id → ∃ y ∈ s.grids, y.id = g.id ∧ x = { y with nextG := y.nextG + 1 }) ∧
    t.hub.placed = s.hub.placed ∧ t.effects = s.effects

/-- R128, R202, R247: a group that is wanted back comes before any not yet handed out: it is resident on the core chosen, its dugout frame is free, its scratchpad
holds what was saved, and each of its threads has a frame there with its slots and segment as they were. That no two threads have one number is an invariant
(StepKeepsShape). -/
def GroupReturned : Prop := ∀ (s : State) (gr : Group) (sv : Saved) (vc : Nat), (s.hub.handCycle = hubNow s → s.hub.handCount < 8) →
  nextReturn? s = some (gr, sv, vc) → group? s gr.grid gr.gidx = some gr → (s.threads.map (·.uid)).Nodup → vc < s.cores.length →
  ∃ t base l, exec .groupHandout s = .next t ∧ group? t gr.grid gr.gidx =
      some { gr with at_ := .core vc, spadBase := base, opsl := l, wantIn := false, saved := none } ∧ l.length = gr.opsl.length ∧
    (∀ k w, gr.at_ = .dugout k w → ∀ d ∈ t.hub.dugouts, d.1 ≠ k) ∧
    (∀ i, i < gr.spadUnits * 16384 → memRead (core t vc).store.spad (base * 16384 + i) = memRead sv.spad i) ∧
    (∀ u ∈ s.threads, u.grid = gr.grid → u.gidx = gr.gidx → ∃ v, thread? t u.uid = some v ∧ v.resident = true ∧ v.vc = vc ∧ v.slots = u.slots ∧
      v.xs = u.xs ∧ v.ptr = u.ptr ∧ v.seq = u.seq) ∧
    t.hub.placed = s.hub.placed

/-- R125, R389: a confirmed group that is done leaves the machine with its threads, its grid counts one retired group more, and owes its decrement in the mode
that counts groups; one whose shape is unknown lets its threads and its units go and stands done until the shape point. No other group changes. -/
def GroupRetires : Prop := ∀ (s : State) (n : Nat) (gr : Group) (gd : Grid), groupNo? s n = some gr → groupDone s gr = true → grid? s gr.grid = some gd →
  ∃ t, exec (.groupRetire n) s = .next t ∧ (∀ x ∈ t.threads, ¬ (x.grid = gr.grid ∧ x.gidx = gr.gidx)) ∧
    (∀ k i, ¬ (k = gr.grid ∧ i = gr.gidx) → group? t k i = group? s k i) ∧ t.hub.placed = s.hub.placed ∧
    (provisional gd = false → group? t gr.grid gr.gidx = none ∧ ∀ x ∈ t.grids, x.id = gr.grid → ∃ y ∈ s.grids, y.id = gr.grid ∧ x.nRet = y.nRet + 1 ∧
      x.nSquash = y.nSquash ∧ x.nextG = y.nextG ∧ x.owed = (if recCmode y.raw = true ∧ gridCsig y ≠ none then y.owed ++ [gr.gidx] else y.owed)) ∧
    (provisional gd = true → t.grids = s.grids ∧ ∃ x, group? t gr.grid gr.gidx = some x ∧ x.st = .provDone ∧ x.spadUnits = 0 ∧ x.opsl = [])

/-- R125: a squashed group whose effects are over leaves the machine with its threads, its grid counts one squashed group more and no retired one, and memory is
as the fill of its share leaves it: zeros in the share, where the group has one, and otherwise as before. The page of a share inside one page is translated
as R230 says. -/
def SquashedGroupZeroed : Prop := ∀ (s : State) (n : Nat) (gr : Group) (gd : Grid), groupNo? s n = some gr → squashReady s gr = true →
  grid? s gr.grid = some gd →
  let z := zeroShare (setStalls s []) gd gr.gidx
  let share := gd.spec.bind fun sp => shareOf sp gr.gidx
  z.hub.stalls = [] →
  ∃ t, exec (.squashZeroFill n) s = .next t ∧ group? t gr.grid gr.gidx = none ∧ (∀ x ∈ t.threads, ¬ (x.grid = gr.grid ∧ x.gidx = gr.gidx)) ∧
    (∀ k i, ¬ (k = gr.grid ∧ i = gr.gidx) → group? t k i = group? s k i) ∧
    (∀ x ∈ t.grids, x.id = gr.grid → ∃ y ∈ s.grids, y.id = gr.grid ∧ x.nSquash = y.nSquash + 1 ∧ x.nRet = y.nRet ∧ x.nextG = y.nextG ∧ x.owed = y.owed) ∧
    t.hub.placed = z.hub.placed ∧ (share = none → t.hub.placed = s.hub.placed) ∧
    (∀ c base size s1 pa, ctx? s gd.ctx = some c → share = some (base, size) → base % 65536 + size ≤ 65536 →
      hubTranslate (setStalls s []) c base ⟨false, true, some (recCid gd.raw), false⟩ true = (s1, some pa) →
      ∀ a, memRead t.hub.placed a = if pa ≤ a ∧ a < pa + size then 0 else memRead s1.hub.placed a)

/-- R126: when no shape has been seen in time, the fault's record is posted, the launch has failed, and every group of it is squashing with its threads
gone from their segments. That no two threads have one number is an invariant (StepKeepsShape). -/
def ShapeTimesOut : Prop := ∀ (s : State) (gid : Nat) (g : Grid) (sp : Spec), grid? s gid = some g → g.spec = some sp → sp.truth = none → sp.failed = false →
  phaseOf s g.ctx = 0 → wdLimit s g.ctx ≤ shapeCount s g.ctx sp →
  let q := if g.queue = 64 then 0xFF else g.queue
  let d := field512 g.raw 0x12 2 % 256 * 2 ^ 24 + q * 2 ^ 16 + g.recNo % 2 ^ 16
  ∃ t s1, exec (.shapeSourceTimeout gid) s = .next t ∧ s1 = { s with grids := s1.grids } ∧
    t.hub = (postEvent s1 (plainRec g.ctx 9 2 (BitVec.ofNat 32 d) 0 0)).hub ∧
    (∀ x ∈ t.grids, x.id = gid → ∀ p, x.spec = some p → p.failed = true) ∧ (∀ x ∈ t.groups, x.grid = gid → x.st = .squashing) ∧
    ((s.threads.map (·.uid)).Nodup → ∀ x ∈ s.groups, x.grid = gid → x.st ≠ .squashing → ∀ u ∈ t.threads, u.grid = gid → u.gidx = x.gidx →
      u.st = .exited ∧ u.inst = none)

/-- R116, R125, R126, R129, R389, R390: a group is handed out, returned, started, retired or squashed, and a grid's completion signal is decremented, when the rule's
conditions hold, with the effect the rule gives; a core's L1 lines of the context go before its group starts.
A completion decrement takes 1 from the signal's word, modulo 2^64, at its physical address, and writes no other byte once the page is translated (R104). -/
def Obligations.GroupEventsComplete : Prop :=
  (∀ (s : State),
   (∀ g vd vc, (s.hub.handCycle = hubNow s → s.hub.handCount < 8) → nextReturn? s = none → nextGroup? s = some (g, vd, vc) →
     ∃ n, exec .groupHandout s = .next { (modGrid (acceptGroup s g g.nextG vd vc) g.id fun g => { g with nextG := g.nextG + 1 }) with
       hub := { (acceptGroup s g g.nextG vd vc).hub with handCycle := hubNow s, handCount := n } }) ∧
   (∀ g gr vc, groupNo? s g = some gr → gr.at_ = .core vc → gr.st = .starting → gr.startAt ≤ coreNow s vc →
     let s1 := modGroup (invalidateL1 (flushDie s (dieOf s vc)) vc gr.ctx) gr.grid gr.gidx fun x => { x with st := .running }
     exec (.groupStart g) s = .next ((threadsOf s1 gr.grid gr.gidx).foldl (fun s t => if t.st == .starting then setWaiting s t.uid else s) s1)) ∧
   (∀ g gr gd, groupNo? s g = some gr → groupDone s gr = true → grid? s gr.grid = some gd →
     (provisional gd = false → exec (.groupRetire g) s = .next (retireGroup s gr)) ∧
     (provisional gd = true → exec (.groupRetire g) s = .next (provisionalDone s gr))) ∧
   (∀ g gr gd, groupNo? s g = some gr → squashReady s gr = true → grid? s gr.grid = some gd →
     exec (.squashZeroFill g) s = .next (hubAct s fun s =>
       closeGrids (modGrid (freeGroup (zeroShare s gd gr.gidx) gr) gr.grid fun x => { x with nSquash := x.nSquash + 1 }))) ∧
   (∀ k g n, grid? s k = some g → gridCsig g = some n → phaseOf s g.ctx < 7 → squashesLeft s k = false → seenPlaced s g = true →
     recCmode g.raw = false → g.owedAll = true → quiet s g.id none = true →
     exec (.completionDecrement k) s =
       .next (hubAct s fun s => decrementSignal { s with grids := s.grids.filter fun x => x.id != k } g.ctx n)) ∧
   (∀ k g n gi, grid? s k = some g → gridCsig g = some n → phaseOf s g.ctx < 7 → squashesLeft s k = false → seenPlaced s g = true →
     recCmode g.raw = true → g.owed.find? (fun gi => quiet s g.id (some gi)) = some gi →
     exec (.completionDecrement k) s =
       .next (hubAct s fun s => closeGrids (decrementSignal (modGrid s k fun x => { x with owed := x.owed.erase gi }) g.ctx n))) ∧
   (∀ gid g sp, grid? s gid = some g → g.spec = some sp → sp.truth = none → sp.failed = false → phaseOf s g.ctx = 0 →
     wdLimit s g.ctx ≤ shapeCount s g.ctx sp → exec (.shapeSourceTimeout gid) s = .next (shapeFault s g 2 0))) ∧
  (∀ (s : State) (ctx n pa : Nat) (c : Ctx), ctx? s ctx = some c → n < c.regs.sigtN.toNat →
   c.sigs.find? (fun e => e.n == n) = some ⟨n, some pa⟩ →
   let t := decrementSignal s ctx n
   let u := (hubTranslate s c (signalVa s ctx n) sigNeed true).1
   (natLE (memReadN t.hub.placed pa 8) + 1) % 2 ^ 64 = natLE (memReadN u.hub.placed pa 8) % 2 ^ 64 ∧ MemoryKeptOutside u t pa 8) ∧
  GroupHandedOut ∧ GroupReturned ∧ GroupRetires ∧ SquashedGroupZeroed ∧ ShapeTimesOut

/-! Placement -/

/-- R139, R140, R142: a fetch whose segment passes its check puts the configuration into the bullpen, fetched and used now, and ends; one whose segment fails
leaves the waiting threads to the malformed-segment fault with the check's code. -/
def FetchFillsBullpen : Prop := ∀ (s s1 : State) (vc k addr cid : Nat) (f : Fetch) (c : Ctx) (e : SegEnt) (hdr words : List (BitVec 32)),
  fetchCore? s k = some (vc, f) → (die s (dieOf s vc)).st ≠ .offline → ctx? s f.ctx = some c → fetchable? c f = some (addr, cid, e) →
  readSegment s f vc e addr cid = (s1, .got hdr words) →
  (∀ a, configCheck cid (segCount c f.ptr) hdr words = some a →
    exec (.bullpenFill k) s = .next (malformed (endFetch s1 vc f.id) vc f.ctx f.ptr none addr a)) ∧
  (configCheck cid (segCount c f.ptr) hdr words = none → bullpen? s1 vc f.ctx addr cid = none → (core s1 vc).bullpen.length < 64 → vc < s1.cores.length →
    ∃ t b, exec (.bullpenFill k) s = .next t ∧ t = { s1 with cores := t.cores } ∧ (core t vc).bullpen = (core s1 vc).bullpen ++ [b] ∧
      b.conf = ⟨f.ctx, addr, cid, hdr, words⟩ ∧ b.arrived = coreNow s vc ∧ b.lastUse = coreNow s vc ∧ (∀ g ∈ (core t vc).fetches, g.id ≠ f.id) ∧
      ∀ v, v ≠ vc → core t v = core s1 v)

/-- R135, R137, R139, R140, R179: a slot that is free takes the waiting entry that the policy chooses, with the configuration that the bullpen holds for it; it
configures from that cycle on. Where no object holds the entry's segment any more, its threads take the fault and the slot stays free. -/
def SlotTakesChosenEntry : Prop := ∀ (s : State) (vc slot : Nat) (e : Entry) (g : Grid) (k : Conf), slot < 8 → vc < s.cores.length →
  placeAt? s vc slot = none → chooseEntry? s vc = some e → grid? s e.grid = some g → entryConf? s vc e = some k →
  (entryGone s e = true → exec (.placementSlotFree vc slot) s = .next (parkGone s vc g.ctx e.ptr (some g.id))) ∧
  (entryGone s e = false → gridCheck (supervisor s g.ctx) (recKsel g.raw) (recNslot g.raw) k.hdr k.words = none →
  ∃ t p, exec (.placementSlotFree vc slot) s = .next t ∧ placeAt? t vc slot = some p ∧ p.entry = e.idx ∧ p.grid = g.id ∧ p.ptr = e.ptr ∧ p.conf = k ∧
    p.st = .configuring ∧ p.took = coreNow s vc ∧ t.threads = s.threads ∧ t.hub = s.hub)

/-- R135, R136, R140, R142, R143, R147, R148: a fetch ends and fills the bullpen, protection lapses after 4,096 cycles, a placement drains and its slot frees and is
taken again, a thread is admitted and enters its later stages, when the rule's conditions hold; the admitted thread holds an instance that samples its slots.
A committed thread whose waits are all over makes its move; one that still waits stays (R273, R346).
A fetch fills the bullpen or ends in the malformed-segment fault, and a free slot goes to the entry chosen. -/
def Obligations.PlacementEventsComplete : Prop :=
  (∀ (s : State) (vc : Nat),
   (∀ k f, fetchCore? s k = some (vc, f) → (die s (dieOf s vc)).st ≠ .offline → exec (.bullpenFill k) s = .next (fillBullpen s vc f)) ∧
   (∃ t, exec (.bullpenProtectionExpiry vc) s = .next t ∧ (∀ b ∈ (core t vc).bullpen, b.arrived + 4096 ≤ coreNow s vc → b.guarded = false) ∧
     (core t vc).bullpen.map (·.conf) = (core s vc).bullpen.map (·.conf)) ∧
   (∀ slot p, slot < 8 → placeAt? s vc slot = some p → p.st = .draining → inFlightOf s vc slot = [] →
     let s1 := settleEntries (modCore s vc fun c => { c with
       places := c.places.filter fun x => x.slot != slot, ghosts := stillHeld s vc (p :: c.ghosts) }) vc
     placeAt? s1 vc slot = none → exec (.placementSlotFree vc slot) s = .next (fillSlotAt s1 vc slot)) ∧
   (∀ slot p, placeAt? s vc slot = some p → p.st ≠ .draining → admitFrom p ≤ coreNow s vc → mustDrain s vc p = true →
     exec (.placementDrain vc slot) s = .next (modPlace s vc slot fun p => { p with st := .draining })) ∧
   (∀ slot p t tag, placeAt? s vc slot = some p → p.st ≠ .draining → admitFrom p ≤ coreNow s vc → mustDrain s vc p = false →
     p.last.getD 0 0 ≤ coreNow s vc → halted s vc = false → phaseOf s p.conf.ctx < 2 → (die s (dieOf s vc)).st = .running →
     leastBy (fun t => t.frame) ((placeWaiting s vc p).filter fun t => admissible s p.conf t && t.bitAt != some (coreNow s vc)) = some t →
     freeTag? s vc p 0 = some tag → bankWaits s vc p 0 t.frame = false →
     exec (.threadAdmit vc slot) s = .next (useBank (admitThread s p t tag) vc t.frame) ∧
     ∀ u, thread? s t.uid = some u → ∃ v, thread? (admitThread s p t tag) t.uid = some v ∧ v.st = .admitted ∧ v.slots = u.slots ∧ v.ptr = u.ptr ∧
       v.inst.map (fun i => (i.place, i.slots0, i.fired)) = some (p.slot, t.slots, [])) ∧
   (∀ slot stage p t tag, 0 < stage → placeAt? s vc slot = some p → p.last.getD stage 0 ≤ coreNow s vc →
     leastBy (fun t => ((t.inst.bind (·.readyAt)).getD 0) * 2048 + t.frame) ((inFlightOf s vc slot).filter (readyFor (decodeAll p.conf.words) p stage)) = some t →
     freeTag? s vc p stage = some tag → bankWaits s vc p stage t.frame = false →
     ∃ s1, exec (.stageReentry vc slot stage) s =
       .next (useBank (modPlace s1 t.vc p.slot fun p => { p with last := setAt p.last stage (coreNow s t.vc + 1) }) vc t.frame) ∧
       s1 = { s with threads := s1.threads } ∧ s1.threads.map (fun u => (u.uid, u.slots, u.st)) = s.threads.map fun u => (u.uid, u.slots, u.st))) ∧
  (∀ (s : State) (vc frame : Nat) (t u : Thread) (w : MoveWait),
   threadAt? s vc frame = some t → thread? s t.uid = some u → u.resident = true → u.st = .moving → u.wait = some w → phaseOf s t.ctx < 7 →
   (w.waits.all (waitOver s) = true → exec (.deferredSuccessorMove vc frame) s = .next (finishMove s t.uid)) ∧
   (w.waits.all (waitOver s) = false → exec (.deferredSuccessorMove vc frame) s = .next s)) ∧
  FetchFillsBullpen ∧ SlotTakesChosenEntry

/-! Engines -/

/-- R285, R312: a status lands in its slot, present from then on, and in no other; while another command of the thread still owes that slot, it stays absent. -/
def StatusLands : Prop := ∀ (s : State) (uid n word : Nat) (t : Thread), thread? s uid = some t → t.st ≠ .exited → n < t.slots.length →
  ∃ u, thread? (landStatus s uid n word) uid = some u ∧
    (u.slots.getD n Slot.empty).val = BitVec.ofNat 32 word ∧ ((u.slots.getD n Slot.empty).pres = true ↔ n ∉ statusOwed s t) ∧
    (∀ k, k ≠ n → u.slots.getD k Slot.empty = t.slots.getD k Slot.empty) ∧ n ∈ u.statusAt ∧ u.ptr = t.ptr ∧ u.st = t.st

/-- R279, R280, R281: a copy that starts runs on its engine; one that its checks fail has stopped with their code, any other that reads or writes the scratchpad
stands at its first line with none clipped. -/
def CopyStarts : Prop := ∀ (s : State) (vc eng : Nat) (c : Copy), vc < s.cores.length → eng < 2 → runningOn s vc eng = none →
  (eng = 1 → runningOn s vc 0 ≠ none) → (core s vc).copies.find? (copyReady s vc) = some c → (∀ told, c.st ≠ .reread told) →
  (startCode s c ≠ 0 ∨ (copyOp c ≠ 0xC2 ∧ copyOp c ≠ 0xC4 ∧ viaChannel c = false)) →
  ∃ t, exec (.copyStart vc eng) s = .next t ∧ t = { s with cores := t.cores } ∧ (core t vc).copies.length = (core s vc).copies.length ∧
    (∃ x ∈ (core t vc).copies, x.id = c.id ∧ x.word = c.word ∧ x.st = .running eng ∧ x.pos = 0 ∧ x.clip = 0 ∧ x.code = startCode s c ∧
      x.stopped = decide (startCode s c ≠ 0))

/-- R281, R284, R285: a copy that has stopped, waits, or has written every line writes no more; one that brings data in and could read its next
line packs the elements it read over the bytes at that line's place in the scratchpad, writes no other byte of it, and goes on by one line. -/
def LinesWritten : Prop := ∀ (s : State) (vc eng : Nat) (c : Copy) (r : BitVec 512), runningOn s vc eng = some c → c.layout = some r →
  let l := layOf r
  let g := readChunk s vc l c
  let p := (spadOf g.s c.grid c.gidx).1 + c.placeW.toNat + chunkOff l c (chunkAt g.s vc l c).1 (chunkAt g.s vc l c).2.1
  let old := memReadN (core g.s vc).store.spad p (ceilDiv (g.vals.length * elemBits l.ety) 8)
  (c.stopped = true ∨ c.waits.isSome = true ∨ chunkCount l c ≤ c.pos → exec (.copyLineWrite vc eng) s = .next s) ∧
  (c.stopped = false → c.waits = none → c.pos < chunkCount l c → listReady s vc l c = true → isOut c = false →
    copyOp c ≠ 0xC2 → copyOp c ≠ 0xC3 → copyOp c ≠ 0xC4 → g.going = true → vc < g.s.cores.length →
    ∃ t, exec (.copyLineWrite vc eng) s = .next t ∧ t = { g.s with cores := t.cores } ∧
      (core t vc).store.spad = memWrite (core g.s vc).store.spad p (packElems (elemBits l.ety) g.vals old) ∧
      ∀ x ∈ (core t vc).copies, x.id = c.id → ∃ y ∈ (core g.s vc).copies, y.id = c.id ∧ x.pos = y.pos + 1 ∧ x.clip = y.clip + g.clip)

/-- R285, R287, R291: a copy that ends leaves its core's queue, and its status, the code and the number of clipped elements, lands in its slot. -/
def CopyEnds : Prop := ∀ (s : State) (vc eng : Nat) (c : Copy), runningOn s vc eng = some c → copyDone s c = true →
  ∃ s1, exec (.copyComplete vc eng) s = .next (freeFrames (settleOps (landStatus s1 c.uid (cmdE c.word).slot.toNat
      (2 ^ 31 + (if c.code = 0 then 0 else 2 ^ 30) + c.code * 2 ^ 24 + min c.clip 0xFFFFFF)) vc)) ∧
    s1 = { s with cores := s1.cores } ∧ (vc < s.cores.length → ∀ x ∈ (core s1 vc).copies, x.id ≠ c.id)

/-- R288, R289: a volley whose cores are none, or lack the ring, or hold it for another sender ends with code 9; one whose ring is free and has room, with
no other permitted before it, is permitted and binds the ring to its group. -/
def VolleyAnswered : Prop := ∀ (s : State) (vc k : Nat) (c : Copy), copyCore? s k = some (vc, c) → copyOp c = 0xC4 → c.st = .queued →
  phaseOf s c.ctx < 3 →
  (castCores s c = [] → exec (.volleyPermit k) s = .next (endCopy s vc { c with code := 9 })) ∧
  (∀ d r, castCores s c = [d] → ring? s d c.grid (castId c) = some r → r.bound ≠ none → r.bound ≠ some c.gidx →
    exec (.volleyPermit k) s = .next (endCopy s vc { c with code := 9 })) ∧
  (∀ d, castCores s c = [d] → ring? s d c.grid (castId c) = none → ringAway s d c.grid (castId c) = false →
    exec (.volleyPermit k) s = .next (endCopy s vc { c with code := 9 })) ∧
  (∀ d r, castCores s c = [d] → d < s.cores.length → vc < s.cores.length → ring? s d c.grid (castId c) = some r → r.bound = none → r.wc - r.fc < r.dp →
    permitAhead s c = false → ∃ t, exec (.volleyPermit k) s = .next t ∧ t = { s with cores := t.cores } ∧
      ring? t d c.grid (castId c) = some { r with bound := some c.gidx } ∧ ∀ x ∈ (core t vc).copies, x.id = c.id → x.st = .permitted)

/-- R297, R298, R316, R317: the first matrix command that is ready acts and leaves the core's commands: `mma` and `mmi` put the sums of products into their
accumulator's cells, `tsacc` adds its partial tiles, `tzero` clears an accumulator. -/
def MatrixOpsAct : Prop := ∀ (s : State) (vc : Nat) (o : Op), vc < s.cores.length → (core s vc).ops = [o] → opReady s vc o = true →
  let f := cmdE o.word
  let fires : Nat → Tile → Prop := fun p t1 => ∃ t, exec (.tileOpFire vc) s = .next (freeFrames t) ∧ t = { s with cores := t.cores } ∧ (core t vc).ops = [] ∧
    accTile t vc p = t1 ∧ ∀ q, q ≠ p → accTile t vc q = accTile s vc q
  let acc := f.y.toNat % 16
  let before := accTile s vc acc
  acc < (core s vc).store.accs.length →
  (∀ p q, cmdOp o.word = 0xD2 ∨ cmdOp o.word = 0xD3 → physSlot? s o.grid o.gidx f.slot.toNat = some p → physSlot? s o.grid o.gidx f.x.toNat = some q →
    let a := opSlot s vc p
    let b := opSlot s vc q
    let tf := tileFmt f.z.toNat
    a.fmt = tf.a → b.fmt = tf.b →
    fires acc { before with cells := cellMem 8 (mmaCells tf (o.zsk && b.finite) a b (accCells before)), bad := before.bad || (a.bad || b.bad) }) ∧
  (cmdOp o.word = 0xD5 →
    let ps := (List.range (f.x.toNat / 8 + 1 - f.x.toNat % 8)).map fun i => ptTile s vc (f.x.toNat % 8 + i)
    fires acc { before with cells := cellMem 8 (tsaccCells o.zsk ps (accCells before)), bad := before.bad || ps.any (·.bad) }) ∧
  (∀ p, cmdOp o.word = 0xD6 → rangeUnits s o.grid o.gidx f = [(1, p)] → p < (core s vc).store.accs.length →
    fires p { accTile s vc p with cells := [], bad := false })

/-- R318: an accumulator's store whose place is in the group's scratchpad writes its 1,024 cells there, converted, and its status lands with code 0; one whose
place is not lands with code 5 and writes nothing. -/
def AccumulatorStored : Prop := ∀ (s : State) (k vc : Nat) (o : Op), opCore? s k = some (vc, o) → cmdOp o.word = 0xD7 → o.st = .pending →
  let f := cmdE o.word
  let lands : State → Nat → Prop := fun s1 word => exec (.accumulatorStoreDone k) s = .next (freeFrames (landStatus s1 o.uid f.slot.toNat word))
  (moveOk s o = false → ∃ s1, lands s1 (2 ^ 31 + 2 ^ 30 + 5 * 2 ^ 24) ∧ s1.threads = s.threads ∧ (core s1 vc).store = (core s vc).store) ∧
  (∀ t, moveOk s o = true → f.x.toNat / 16 = 1 → accTile s vc (f.x.toNat % 16) = t → t.bad = false → vc < s.cores.length →
    ∃ s1, lands s1 (2 ^ 31) ∧ s1.threads = s.threads ∧ s1.hub = s.hub ∧
      (core s1 vc).store.spad = memWrite (core s vc).store.spad ((spadOf s o.grid o.gidx).1 + o.off)
        ((accCells t).flatMap fun c => bytesLE (moveBytes f.z.toNat) (tacstCell f.z.toNat (f.y.getLsbD 0) c)))

/-- R319: where no op before it was barren, the status of a `tfence` is the success word with a count of 0. -/
def TfenceLands : Prop := ∀ (s : State) (k vc : Nat) (o : Op), opCore? s k = some (vc, o) → cmdOp o.word = 0xD9 →
  (∀ y ∈ issuedBefore s vc o, y.grid = o.grid → y.gidx = o.gidx → cmdOp y.word = 0xD0 ∨ cmdOp y.word = 0xD1) →
  barrenBefore s vc o = [] → (∀ g, group? s o.grid o.gidx = some g → g.tfCode = 0 ∧ g.tfCount = 0) →
  ∃ s1, exec (.tfenceStatusLand k) s = .next (freeFrames (landStatus s1 o.uid (cmdE o.word).slot.toNat (2 ^ 31))) ∧ s1.threads = s.threads ∧
    s1.hub = s.hub ∧ (vc < s.cores.length → ∀ x ∈ (core s1 vc).ops, x.id ≠ o.id)

/-- R241, R279, R280, R285, R289, R295, R318, R319: an idle engine takes the oldest copy that is ready, a running copy writes its next line, a finished one ends with its status, and a waiting
volley is looked at.
The first matrix op that is ready fires, an accumulator's store ends, and a `tfence` lands its status once no op of the group that was committed before
it is left.
A status is present once no other command of its thread owes the slot; copies, volleys and matrix ops leave what their rules say. -/
def Obligations.EngineEventsComplete : Prop :=
  (∀ (s : State) (vc eng : Nat),
   (∀ c, eng < 2 → runningOn s vc eng = none → (eng = 1 → runningOn s vc 0 ≠ none) → (core s vc).copies.find? (copyReady s vc) = some c →
     (∀ told, c.st ≠ .reread told) → exec (.copyStart vc eng) s = .next (startCopy s vc eng c)) ∧
   (∀ c, runningOn s vc eng = some c → exec (.copyLineWrite vc eng) s = .next (copyStep s vc c)) ∧
   (∀ c, runningOn s vc eng = some c → copyDone s c = true → exec (.copyComplete vc eng) s = .next (endCopy s vc c)) ∧
   (∀ c, runningOn s vc eng = some c → copyDone s c = false → exec (.copyComplete vc eng) s = .next s) ∧
   (∀ k c, copyCore? s k = some (vc, c) → copyOp c = 0xC4 → c.st = .queued → phaseOf s c.ctx < 3 →
     exec (.volleyPermit k) s = .next (permitVolley s vc c))) ∧
  (∀ (s : State) (vc : Nat),
   (∀ o rest, (core s vc).ops.filter (opReady s vc) = o :: rest → exec (.tileOpFire vc) s = .next (freeFrames (settleOps (fireOp s vc o) vc))) ∧
   (∀ k o, opCore? s k = some (vc, o) → cmdOp o.word = 0xD7 → o.st = .pending → exec (.accumulatorStoreDone k) s = .next (freeFrames (storeAcc s vc o))) ∧
   (∀ k o, opCore? s k = some (vc, o) → cmdOp o.word = 0xD9 →
     (∀ y ∈ issuedBefore s vc o, y.grid = o.grid → y.gidx = o.gidx → cmdOp y.word = 0xD0 ∨ cmdOp y.word = 0xD1) →
     exec (.tfenceStatusLand k) s = .next (freeFrames (landTfence s vc o)))) ∧
  StatusLands ∧ CopyStarts ∧ LinesWritten ∧ CopyEnds ∧ VolleyAnswered ∧ MatrixOpsAct ∧ AccumulatorStored ∧ TfenceLands

/-! Quiesce, images and dugouts -/

/-- R379, R380, R382: an advance of a quiesce leaves the context in the next phase; entering phase 4 makes the context's copies start again from their beginning,
entering phase 6 asks every die for its answer. -/
def PhasesFollow : Prop := ∀ (s : State) (ctx : Nat) (c : Ctx), ctx? s ctx = some c → c.regs.phase ≠ 1 → c.regs.phase ≠ 2 → phaseReady s ctx c = true →
  ∃ t d, exec (.quiescePhaseAdvance ctx) s = .next t ∧ ctx? t ctx = some d ∧ d.regs = { c.regs with phase := c.regs.phase + 1 } ∧
    (c.regs.phase = 5 → d.cutDies = []) ∧ t.threads = s.threads ∧ t.effects = s.effects ∧ t.hub = s.hub ∧
    (c.regs.phase ≠ 3 → t.cores = s.cores)

/-- R379, R383: a resume leaves the context in phase 0 with its cut forgotten; with nothing to test anew nothing else changes. -/
def ResumeEndsQuiesce : Prop := ∀ (s : State) (ctx : Nat) (c : Ctx), ctx? s ctx = some c → c.regs.req = false → 7 ≤ c.regs.phase →
  s.grids = [] → s.groups = [] → s.threads = [] → c.heads = [] →
  exec (.quiesceResume ctx) s = .next (modCtx s ctx fun c => { c with cutDies := [], regs := { c.regs with phase := 0 } })

/-- R247: an evicted group stands in the dugout frame, with what it held saved and its core kept for its return; none of its threads holds a frame. -/
def EvictedGroupAway : Prop := ∀ (s : State) (n vc k : Nat) (gr : Group), groupNo? s n = some gr → group? s gr.grid gr.gidx = some gr → gr.at_ = .core vc →
  freeDugoutFrame? s = some k → evictable s gr vc = true →
  ∃ t g, exec (.dugoutEvict n) s = .next t ∧ group? t gr.grid gr.gidx = some g ∧ g.at_ = .dugout k vc ∧ g.saved = some (gather s gr vc) ∧ g.wantIn = false ∧
    (k, gr.grid, gr.gidx) ∈ t.hub.dugouts ∧ ∀ x ∈ t.threads, x.grid = gr.grid → x.gidx = gr.gidx → x.resident = false

/-- R364, R379, R382, R247: a quiesce is requested and its phases advance one at a time as each is ready; a die answers the cut while it and every die that has
answered are quiet, and the eighth answer sets phase 7; a resume leaves phase 7, an image's status lands, and a group is evicted to a free dugout frame.
The conditions of eviction and of the phases are read as log entries 51 and 53 say.
The phase an advance reaches, what ends at a resume, and where an evicted group stands are said as well. -/
def Obligations.QuiesceEventsComplete : Prop :=
  (∀ (s : State) (ctx : Nat) (c : Ctx), ctx? s ctx = some c →
  (c.regs.phase = 0 → ∃ t, exec (.quiesceRequest ctx) s = .next t ∧ (ctx? t ctx).map (fun c => (c.regs.req, c.regs.phase)) = some (true, 1) ∧
    t = { s with ctxs := t.ctxs }) ∧
  (c.regs.phase ≠ 2 → phaseReady s ctx c = true → exec (.quiescePhaseAdvance ctx) s = .next (enterPhase s ctx (c.regs.phase + 1))) ∧
  (c.regs.phase ≠ 2 → phaseReady s ctx c = false → exec (.quiescePhaseAdvance ctx) s = .next s) ∧
  (c.regs.phase = 2 → ∀ c2, ctx? (settleInsts s fun t => t.ctx == ctx) ctx = some c2 →
    let s2 := settleInsts s fun t => t.ctx == ctx
    exec (.quiescePhaseAdvance ctx) s = .next (if phaseReady s2 ctx c2 = true then enterPhase s2 ctx (c2.regs.phase + 1) else s2)) ∧
  (∀ d, c.regs.phase = 6 → d < 8 →
    let l := insertNat d c.cutDies
    ((∀ k ∈ l, dieQuiet s ctx k = true) → ∃ t c2, exec (.dieCutAnswer ctx d) s = .next t ∧ t = { s with ctxs := t.ctxs } ∧ ctx? t ctx = some c2 ∧
      c2.cutDies = l ∧ c2.regs = { c.regs with phase := if l.length = 8 then 7 else 6 }) ∧
    ((∃ k ∈ l, dieQuiet s ctx k = false) → exec (.dieCutAnswer ctx d) s = .next s)) ∧
  (c.regs.req = false → 7 ≤ c.regs.phase → exec (.quiesceResume ctx) s = .next (resumeCtx s ctx)) ∧
  (∀ k e save tctx slot, effect? s k = some e → e.kind = .image save tctx slot → e.landed = false → fenced s e = false →
    let r := if save then saveImage s e.ctx tctx e.va else loadImage s e.ctx tctx e.va
    exec (.imageStatusLand k) s = .next (settleEffects (landStatus (modEffect r.1 k fun x => { x with landed := true }) e.uid slot r.2))) ∧
  (∀ g gr vc k, groupNo? s g = some gr → gr.at_ = .core vc → freeDugoutFrame? s = some k → evictable s gr vc = true →
    exec (.dugoutEvict g) s = .next (evictTo s gr vc k))) ∧
  PhasesFollow ∧ ResumeEndsQuiesce ∧ EvictedGroupAway

/-- R387: GO puts the die into its drain; offline its slice, TLB and cores are at their reset values; the end of a re-admission clears GO and lets the die run,
and a write of the host that waited for it is placed (R397). -/
def DieStatesFollow : Prop := ∀ (s : State),
  (∀ (v : BitVec 32), v.getLsbD 31 = true → drstBusy s v = false → s.threads = [] → v.toNat % 8 < s.dies.length →
    ∃ t, exec (.drstGo v) s = .next t ∧ (die t (v.toNat % 8)).st = .draining ∧ t.ap.drst = v &&& 0x80000107 ∧ t.hub = s.hub ∧
      ∀ d, d ≠ v.toNat % 8 → die t d = die s d) ∧
  (∀ d, d < s.dies.length → (die (wipeDie s d) d).st = .offline ∧ (die (wipeDie s d) d).l2 = [] ∧ (die (wipeDie s d) d).tlb = [] ∧
    (∀ vc, vc < 128 → dieOf s vc = d → core (wipeDie s d) vc = Core.reset) ∧ (wipeDie s d).threads = s.threads ∧ (wipeDie s d).hub = s.hub) ∧
  (∀ d, d < s.dies.length → s.threads = [] → s.groups = [] → s.effects = [] → s.hub.hostWaits = [] → (die (endReadmit s d) d).st = .running ∧
    (endReadmit s d).ap.drst = s.ap.drst &&& 0x107 ∧ (endReadmit s d).hub = s.hub) ∧
  (∀ d pa data, s.threads = [] → s.groups = [] → s.effects = [] → s.hub.hostWaits = [.write pa data] →
    rangeAway (setDie s d .running) pa data.length = false →
    (endReadmit s d).hub.placed = memWrite s.hub.placed pa data ∧ (endReadmit s d).hub.hostWaits = [])

/-- R387: a warm reset of a die: GO starts to drain it, a drained die writes back and goes offline, and a re-admission, in two steps, lets it run; a write with GO = 1 while
one is under way is dropped, and one with GO = 0 keeps GO as it reads.
What passes at once and what the wipe covers are the model's reading (log entry 54).
An offline die stands at its reset values. -/
def Obligations.DieResetCompletes : Prop :=
  (∀ (s : State),
  (∀ v : BitVec 32, v.getLsbD 31 = true → drstBusy s v = true → exec (.drstGo v) s = .next s) ∧
  (∀ v : BitVec 32, v.getLsbD 31 = false → exec (.drstGo v) s =
    .next { s with ap := { s.ap with drst := (v &&& 0x80000107) ||| (s.ap.drst &&& 0x80000000) } }) ∧
  (∀ v : BitVec 32, v.getLsbD 31 = true → drstBusy s v = false →
    let s1 := { s with ap := { s.ap with drst := v &&& 0x80000107 } }
    exec (.drstGo v) s = .next (settleInsts (setDie s1 (v.toNat % 8) .draining) (threadOn s (v.toNat % 8)))) ∧
  (∀ d, resetting? s .draining = some d → drained (settleInsts s (threadOn s d)) d = true →
    let s1 := clearGroups (settleInsts s (threadOn s d)) d ((settleInsts s (threadOn s d)).ap.drst.getLsbD 8)
    ∃ t, exec .dieResetWriteBack s = .next t ∧ t.hub.placed = s1.hub.placed ∧ t.threads = s1.threads ∧ t.effects = s1.effects ∧
      (d < s1.dies.length → (die t d).st = .writingBack ∧ (((die s1 d).l2.map (·.line)).Nodup → ∀ l ∈ (die t d).l2, l.dirty = 0))) ∧
  (∀ d, resetting? s .writingBack = some d → drained s d = true → exec .dieResetOffline s = .next (wipeDie s d)) ∧
  (∀ d, resetting? s .offline = some d →
    ∃ t, exec .dieReadmit s = .next t ∧ t.ap = s.ap ∧ t.hub.placed = s.hub.placed ∧ t.effects = s.effects ∧ t.threads = s.threads ∧
      (d < s.dies.length → (die t d).st = .readmitting) ∧ (∀ l ∈ t.hub.l3, homeOf (256 * l.line) = d → l.dirty = 0)) ∧
  (∀ d, resetting? s .offline = none → resetting? s .readmitting = some d →
    exec .dieReadmit s = .next (endReadmit s d))) ∧
  DieStatesFollow

/-! Contexts, registers and the package -/

/-- R66, R392, R394: a registration answers its check's code: 10 where there is no context, the object's own check where it fails, 9 where 1,024 are registered; else the
object stands under the lowest free number. That OBJCMD then reads number 0 is the model's reading (log entry 31). An unregistration answers 10 and 11 where there is no context or object, and else removes it, but for the active grids that run it (log entry 31). -/
def ObjectsRegistered : Prop := ∀ (s : State) (ctx : Nat),
  (ctx? s ctx = none → exec (.objRegister ctx) s = .next (objResult s ctx 0 10 1) ∧ ∀ n, exec (.objUnregister ctx n) s = .next (objResult s ctx n 10 2)) ∧
  (∀ c, ctx? s ctx = some c →
    (∀ s1 k, readObject s c s.ap.objaddr.toNat = (s1, .error k) → exec (.objRegister ctx) s = .next (objResult s1 ctx 0 k 1)) ∧
    (∀ s1 o, readObject s c s.ap.objaddr.toNat = (s1, .ok o) →
      (∀ n, firstBelow (fun n => !c.objs.any (fun x => x.onum == n)) 1024 = some n →
        exec (.objRegister ctx) s = .next (objResult (modCtx s1 ctx fun c => { c with objs := c.objs ++ [{ o with onum := n }] }) ctx n 0 1) ∧
        (∀ x ∈ c.objs, x.onum ≠ n) ∧ ∀ k, k < n → ∃ x ∈ c.objs, x.onum = k) ∧
      ((∀ n, n < 1024 → ∃ x ∈ c.objs, x.onum = n) → exec (.objRegister ctx) s = .next (objResult s1 ctx 0 9 1))) ∧
    (∀ n, (∀ x ∈ c.objs, x.onum ≠ n) → exec (.objUnregister ctx n) s = .next (objResult s ctx n 11 2)) ∧
    (∀ n, (∃ x ∈ c.objs, x.onum = n) → ∃ t c2, exec (.objUnregister ctx n) s = .next (objResult t ctx n 0 2) ∧
      ctx? t ctx = some c2 ∧ c2 = { c with objs := c.objs.filter fun o => o.onum != n, gone := c2.gone } ∧ t.hub = s.hub ∧ t.threads = s.threads ∧
      ∀ o ∈ c.objs, o.onum = n → ∃ g ∈ c2.gone, g.obj = o ∧
        ∀ k, k ∈ g.grids ↔ ∃ x ∈ s.grids, x.id = k ∧ runsObject s ctx n x = true ∧ goneObj? c k n = none))

/-- R392, R393: a create gives the lowest free number a context whose registers hold their reset values, and its result; a destroy needs phase 7 or 8.
What else a destroyed context leaves behind is read as log entry 62 says.
Objects are registered under the lowest free number, or answer the code of the check they fail; that OBJCMD reads number 0 after a registration that failed, where R394
gives a number on success alone, is the model's reading, and so is what an unregistered object's active grids keep (log entry 31). -/
def Obligations.ContextsCreatedAndDestroyed : Prop :=
  (∀ (s : State),
  (∀ n, s.pkg.life ≠ 3 → firstBelow (fun n => (ctx? s n).isNone) 1024 = some n →
    exec .ctxCreate s = .next (ctxResult { s with ctxs := s.ctxs ++ [newCtx n false] } n 0 1) ∧
    exec .ctxCreateSupervisor s = .next (ctxResult { s with ctxs := s.ctxs ++ [newCtx n true] } n 0 2) ∧
    (ctx? s n).isNone = true ∧ (∀ k, k < n → (ctx? s k).isSome = true)) ∧
  (∀ n sup, (newCtx n sup).regs.wdLimit = 0x00100000 ∧ (newCtx n sup).regs.dgLimit = 0x00100000 ∧ (newCtx n sup).regs.barLimit = 0x01000000 ∧
    (newCtx n sup).regs.policy = 0x00040800 ∧ (newCtx n sup).regs.phase = 0 ∧ (newCtx n sup).regs.csel = BitVec.ofNat 32 n) ∧
  (∀ ctx c, ctx? s ctx = some c → 7 ≤ c.regs.phase →
    exec (.ctxDestroy ctx) s = .next (ctxResult (destroyCtx s ctx) ctx 0 3) ∧ ∀ d ∈ (destroyCtx s ctx).ctxs, d.num ≠ ctx) ∧
  (∀ ctx c, ctx? s ctx = some c → c.regs.phase < 7 → exec (.ctxDestroy ctx) s = .next (ctxResult s ctx 2 3)) ∧
  (∀ ctx, ctx? s ctx = none → exec (.ctxDestroy ctx) s = .next (ctxResult s ctx 3 3)) ∧
  (∀ ctx, exec (.objRegister ctx) s = .next (registerObject s ctx)) ∧
  (∀ ctx onum, exec (.objUnregister ctx onum) s = .next (unregisterObject s ctx onum))) ∧
  ObjectsRegistered

/-- R359, R360, R361: a control register of a context reads what was last written, in the bits it has: base addresses keep bits [54:0], the limits all 32, CTX_CTL
keeps SUPM; another context's registers and every other register of the context stay.
R25, R26: a write of a virtual core table entry takes effect only where the entry is not locked and names a core that exists, is not fused off, lies on the same die and is
named by no other valid entry; otherwise it is dropped whole. -/
def Obligations.ControlAndCoreTableRegisters : Prop :=
  (∀ (s : State) (ctx : Nat) (c : Ctx) (v : BitVec 64), ctx? s ctx = some c →
   let after := fun n => ctx? (writeCtxReg s ctx n v) ctx
   (∀ n, n ∈ [3, 4, 7, 8, 9, 10] → (after n).map (fun d => ctxReg d.regs n) = some (v.toNat % 2 ^ 55)) ∧
   (∀ n, n ∈ [11, 12, 13] → (after n).map (fun d => ctxReg d.regs n) = some (v.toNat % 2 ^ 32)) ∧
   (∀ d, after 2 = some d → d.regs.ctxCtl.getLsbD 1 = c.regs.ctxCtl.getLsbD 1 ∧ d.regs.ctxCtl.getLsbD 0 = v.getLsbD 0 ∧
     d.regs.ctxCtl.getLsbD 2 = v.getLsbD 2) ∧
   (∀ n m, n ∈ [2, 3, 4, 7, 8, 9, 10, 11, 12, 13, 14] → m ≠ n → (after n).map (fun d => ctxReg d.regs m) = some (ctxReg c.regs m)) ∧
   (∀ n k, n ∈ [2, 3, 4, 7, 8, 9, 10, 11, 12, 13, 14] → k ≠ ctx → ctx? (writeCtxReg s ctx n v) k = ctx? s k)) ∧
  (∀ (s : State) (n : Nat) (v : BitVec 32),
   let p := bits v.toNat 16 8
   (vctMay s n p = false → exec (.vctWrite n v) s = .next s) ∧
   (vctMay s n p = true → n < s.pkg.vct.length →
     ∃ t, exec (.vctWrite n v) s = .next t ∧ t.pkg.vct[n]? = some ⟨v.getLsbD 31, p⟩ ∧ (∀ k, k ≠ n → t.pkg.vct[k]? = s.pkg.vct[k]?) ∧
       t.threads = s.threads ∧ t.hub = s.hub))

/-- R396, R397: a host write inside one HBM stack is placed byte for byte and nothing else; a host read answers the bytes as placed and changes none. An
address is a physical one, or an offset in the 64 GiB window at B2OFF. A write to a home that is offline waits, and what the host sends after it waits behind it; a read of one, or of
no HBM address, has an error reply, which holds no bytes.
That host requests outside HBM do nothing else, and that a write waits whole, are read as log entry 57 says. -/
def Obligations.HostAccesses : Prop := ∀ (s : State) (a : HostAddr),
  let waits : Out → List HostReq → Prop := fun o l => o = .next { s with hub := { s.hub with hostWaits := l } }
  let fails : Out → Prop := fun o => o = .next { s with hub := { s.hub with hostOut := s.hub.hostOut ++ [[]] } }
  (∀ n pa, hostPaOf s a n = some pa ↔ a = .mem pa ∨ ∃ off, a = .bar2 off ∧ off + n ≤ 2 ^ 36 ∧ pa = s.ap.b2off.toNat + off) ∧
  (∀ data, hostPaOf s a data.length = none → exec (.hostWrite a data) s = .next s) ∧
  (∀ n, hostPaOf s a n = none → fails (exec (.hostRead a n) s)) ∧
  (∀ pa data, hostPaOf s a data.length = some pa →
    (hbmRange pa data.length = false → exec (.hostWrite a data) s = .next s) ∧
    (hbmRange pa data.length = true → s.hub.hostWaits = [] → rangeAway s pa data.length = false →
      ∃ t, exec (.hostWrite a data) s = .next t ∧ t.hub.placed = memWrite s.hub.placed pa data ∧ MemoryKeptOutside s t pa data.length ∧
        (∀ i, i < data.length → memRead t.hub.placed (pa + i) = data.getD i 0) ∧ t.threads = s.threads ∧ t.ap = s.ap) ∧
    (hbmRange pa data.length = true → s.hub.hostWaits = [] → rangeAway s pa data.length = true →
      waits (exec (.hostWrite a data) s) [.write pa data]) ∧
    (∀ p d r, hbmRange pa data.length = true → s.hub.hostWaits = .write p d :: r → rangeAway s p d.length = true →
      waits (exec (.hostWrite a data) s) (s.hub.hostWaits ++ [.write pa data]))) ∧
  (∀ pa n, hostPaOf s a n = some pa →
    (hbmRange pa n = false → fails (exec (.hostRead a n) s)) ∧
    (hbmRange pa n = true → s.hub.hostWaits = [] → rangeAway s pa n = false →
      ∃ t, exec (.hostRead a n) s = .next t ∧ t.hub.hostOut = s.hub.hostOut ++ [memReadN s.hub.placed pa n] ∧ t.hub.placed = s.hub.placed ∧
        t.threads = s.threads ∧ t.cores = s.cores ∧ t.effects = s.effects) ∧
    (hbmRange pa n = true → s.hub.hostWaits = [] → rangeAway s pa n = true → fails (exec (.hostRead a n) s)) ∧
    (∀ p d r, hbmRange pa n = true → s.hub.hostWaits = .write p d :: r → rangeAway s p d.length = true →
      waits (exec (.hostRead a n) s) (s.hub.hostWaits ++ [.read pa n])))

/-- R370, R371, R375, R387, R391: writes of the aperture's registers: FARG and PRT_BASE hold what is written in the bits they have, DHALT0 and DHALT1 set the halt bits of 64 virtual
cores each, FCMD and DRST run their commands, and an offset that names no register changes nothing.
That actions 8 to 15 of FCMD do nothing is the model's reading (log entry 49). -/
def Obligations.ApertureWrites : Prop :=
  ∀ (s : State) (v : BitVec 64),
  (exec (.registerWrite 0x008 v) s = .next { s with ap := { s.ap with farg := v } }) ∧
  (exec (.registerWrite 0x050 v) s = .next { s with ap := { s.ap with prtBase := v &&& 0x000FFFFFFFFF0000 } }) ∧
  (∃ t, exec (.registerWrite 0x010 v) s = .next t ∧ t = { s with ap := { s.ap with dhalt := t.ap.dhalt } } ∧
    ∀ k, halted t k = if k < 64 then v.getLsbD k else halted s k) ∧
  (∃ t, exec (.registerWrite 0x018 v) s = .next t ∧ t = { s with ap := { s.ap with dhalt := t.ap.dhalt } } ∧
    ∀ k, halted t k = if 64 ≤ k ∧ k < 128 then v.getLsbD (k - 64) else halted s k) ∧
  (exec (.registerWrite 0x020 v) s = exec (.drstGo (v.setWidth 32)) s) ∧
  (s.pkg.recovery = false → bits v.toNat 16 4 = 0 → exec (.registerWrite 0x000 v) s = exec (.fcmdResume v) s) ∧
  (s.pkg.recovery = false → 8 ≤ bits v.toNat 16 4 → exec (.registerWrite 0x000 v) s = .next s) ∧
  (exec (.registerWrite 0x0C0 v) s = .next s)

/-- R407: a write of a monitor's configuration keeps the bits it has, with EN only where the source exists; a monitor that it enables starts from nothing, any
other counts on; the values last snapped and the other monitors stay. -/
def MonitorsEnabled : Prop := ∀ (s : State) (u : Nat) (v : BitVec 32) (m : Mon), s.pkg.mons[u]? = some m →
  ∃ t x, exec (.monitorEnable u v) s = .next t ∧ t = { s with pkg := { s.pkg with mons := t.pkg.mons } } ∧ t.pkg.mons[u]? = some x ∧
    x.cfg = v &&& (if srcOk u (bits v.toNat 24 4) then 0x8F1FFFFF else 0x0F1FFFFF) ∧ x.shadow = m.shadow ∧
    (x.cfg.getLsbD 31 = true → m.cfg.getLsbD 31 = false → x.run = { m.run with min := 0xFFFFFFFF, max := 0, cnt := 0, bins := List.replicate 16 0 }) ∧
    (x.cfg.getLsbD 31 = false ∨ m.cfg.getLsbD 31 = true → x.run = m.run) ∧ ∀ k, k ≠ u → t.pkg.mons[k]? = s.pkg.mons[k]?

/-- R407, R408: a sample that an enabled monitor of that source takes counts in its bin, minimum, maximum and count; any other leaves the monitor as it is. What the
monitor held before the first sample of a cycle is kept, so that a snap of that cycle takes the values before it. The levels of a core are its own: the
first act of each 1,024 cycles takes the level as it stands, whatever the act says; the memory controllers' and links' samples are the agenda's (log entry 56). -/
def MonitorSamples : Prop := ∀ (s : State) (u src v n : Nat) (m : Mon), s.pkg.mons[u]? = some m →
  (144 ≤ u ∧ v = n) ∨ (levelOf? s u src = some n ∧ m.span < monNow s u / 1024) →
  ∃ t, exec (.monitorSample u src v) s = .next t ∧ t = { s with pkg := { s.pkg with mons := t.pkg.mons } } ∧
    (m.cfg.getLsbD 31 = false ∨ bits m.cfg.toNat 24 4 ≠ src → ∃ x, t.pkg.mons[u]? = some x ∧ x.run = m.run ∧ x.shadow = m.shadow ∧ x.before = m.before) ∧
    (m.cfg.getLsbD 31 = true → bits m.cfg.toNat 24 4 = src → n < 2 ^ 32 → ∃ x, t.pkg.mons[u]? = some x ∧ x.cfg = m.cfg ∧ x.shadow = m.shadow ∧
      x.run.cnt = m.run.cnt + 1 ∧ x.run.min.toNat = min m.run.min.toNat n ∧ x.run.max.toNat = max m.run.max.toNat n ∧
      x.run.bins = modAt satInc m.run.bins (min 15 ((n - bits m.cfg.toNat 0 16) >>> bits m.cfg.toNat 16 5)) ∧ x.run.umiss = m.run.umiss ∧
      ((∀ b, m.before = some b → b.1 ≠ monNow s u) → x.before = some (monNow s u, m.run)))

/-- R408: an act that is no sample of its monitor leaves everything: within 1,024 cycles of the last level taken, or of a source whose samples the machine takes itself. -/
def OtherActsSampleNothing : Prop := ∀ (s : State) (u src v : Nat),
  (u < 144 → levelOf? s u src = none → exec (.monitorSample u src v) s = .next s) ∧
  (∀ n m, levelOf? s u src = some n → s.pkg.mons[u]? = some m → monNow s u / 1024 ≤ m.span → exec (.monitorSample u src v) s = .next s)

/-- R376 to R378: an error that cannot be corrected marks what it was found in: a sector of memory, a live-value slot, a scratchpad line, an operand slot; a copy of
memory that can be fetched again gives up the entry in error and no other. -/
def ErrorsMark : Prop := ∀ (s : State),
  (∀ pa, ∃ t, exec (.uncorrectableError (.memory pa)) s = .next t ∧ t.hub.badSectors.contains (pa / 64) = true ∧ t.hub.placed = s.hub.placed ∧ t.threads = s.threads) ∧
  (∀ vc frame slot th, threadAt? s vc frame = some th → thread? s th.uid = some th → slot < th.slots.length →
    ∃ t u, exec (.uncorrectableError (.lvs vc frame slot)) s = .next t ∧ thread? t th.uid = some u ∧ u.lvsBad.contains slot = true ∧
      (u.slots.getD slot Slot.empty).mark = true ∧ u.st = th.st ∧ t.hub = s.hub) ∧
  (∀ vc p, vc < s.cores.length → ∃ t, exec (.uncorrectableError (.scratch vc p)) s = .next t ∧ (core t vc).store.badLines.contains (p / 64) = true ∧
    (core t vc).store.spad = (core s vc).store.spad ∧ t.threads = s.threads ∧ t.hub = s.hub) ∧
  (∀ vc n, vc < s.cores.length → n < (core s vc).store.slots.length → (∀ g ∈ residents s vc, n ∉ g.opsl) →
    ∃ t, exec (.uncorrectableError (.operandSlot vc n)) s = .next t ∧ (opSlot t vc n).bad = true ∧ t.threads = s.threads ∧ t.hub = s.hub) ∧
  (∀ vc frame, threadAt? s vc frame = none → exec (.uncorrectableError (.hiddenSlot vc frame)) s = .next s) ∧
  (∀ vc frame th, threadAt? s vc frame = some th → th.st = .admitted ∨ th.st = .held →
    exec (.uncorrectableError (.hiddenSlot vc frame)) s = .next (takeFault s th.uid ⟨0x0A, 2, 0, 0, 0⟩)) ∧
  (∀ vc ctx page, exec (.uncorrectableError (.refetched (.coreTlb vc ctx page))) s =
    .next (modCore s vc fun c => { c with tlb := c.tlb.filter fun e => !coversPage ctx page e })) ∧
  (∀ d ctx page, exec (.uncorrectableError (.refetched (.dieTlb d ctx page))) s =
    .next (modDie s d fun x => { x with tlb := x.tlb.filter fun e => !coversPage ctx page e })) ∧
  (∀ vc ctx line, exec (.uncorrectableError (.refetched (.l1 vc ctx line))) s =
    .next (modCore s vc fun c => { c with l1 := c.l1.filter fun l => !(l.ctx == ctx && l.line == line) })) ∧
  (∀ vc ctx addr cid, vc < s.cores.length → ∃ t, exec (.uncorrectableError (.refetched (.bullpen vc ctx addr cid))) s = .next t ∧
    (core t vc).bullpen = (core s vc).bullpen.filter (fun b => !(b.conf.ctx == ctx && b.conf.addr == addr && b.conf.cid == cid)) ∧
    (core t vc).tlb = (core s vc).tlb ∧ (core t vc).l1 = (core s vc).l1 ∧ (core t vc).store = (core s vc).store ∧ t.hub = s.hub)

/-- R22, R23, R24, R376 to R378, R395, R399, R407 to R409: clock steps of 25 MHz inside floor and ceiling, monitors, scrubbing, lane failures and spares: each changes its own record and no value a program
holds.
How many spares there are, how the link narrows below x4, and that a region whose queues stand high on both sides keeps its clock are the model's choice
(log entries 11, 56 and 59), and so is where a corrected error counts (log entry 48).
An error that cannot be corrected marks what it was found in. Taking a spare way into service empties the way, but for dirty lines of a home that is offline,
which cannot be written back; which lines lie in a way is a free value. -/
def Obligations.ServiceEventsComplete : Prop :=
  (∀ (s : State),
  (∀ r out inb reg, s.clock.regions[r]? = some reg → ∃ t, exec (.clockStep r ⟨out, inb⟩) s = .next t ∧ t = { s with clock := t.clock } ∧
    t.clock.tick = s.clock.tick ∧ (∀ k, k ≠ r → t.clock.regions[k]? = s.clock.regions[k]?) ∧
    (regionHas s r out = true → regionHas s r inb = false →
      t.clock.regions[r]? = some { reg with soon := if reg.floor + 25 ≤ reg.soon then reg.soon - 25 else reg.soon }) ∧
    (regionHas s r out = false → regionHas s r inb = true →
      t.clock.regions[r]? = some { reg with soon := if reg.soon + 25 ≤ reg.ceil then reg.soon + 25 else reg.soon }) ∧
    (regionHas s r out = regionHas s r inb → t.clock.regions[r]? = some reg)) ∧
  (∀ (reg : Region) n, reg.acc % 4000 = 0 → Region.pass n reg = { reg with mhz := reg.soon, acc := reg.acc + n * reg.soon } ∨
    (reg.mhz = 0 ∧ reg.soon ≠ 0)) ∧
  (∀ u v, exec (.monitorEnable u v) s = .next (modMon s u (writeMcfg u v))) ∧
  (∀ u m, s.pkg.mons[u]? = some m →
    exec (.monitorSnap u) s = .next (modMon s u fun m => { m with shadow :=
      match m.before with
      | some (c, r) => if c = monNow s u then { m.run with min := r.min, max := r.max, cnt := r.cnt, bins := r.bins } else m.run
      | none => m.run }) ∧
    (m.before = none → exec (.monitorSnap u) s = .next (modMon s u fun m => { m with shadow := m.run }))) ∧
  (∀ what found, ∃ t, exec (.patrolScrub ⟨what, found⟩) s = .next t ∧ t = { s with pkg := { s.pkg with mons := t.pkg.mons } } ∧
    (found = [] → t = s) ∧ ∀ u m, found = [u] → s.pkg.mons[u]? = some m →
      t.pkg.mons[u]? = some { m with run := { m.run with cecc := m.run.cecc + 1 } }) ∧
  (∀ site, exec (.uncorrectableError site) s = .next (uncorrectable s site)) ∧
  (exec .thlLaneFailure s = .next { s with ap := { s.ap with thlWidth := s.ap.thlWidth - 1 } }) ∧
  (∀ f w, f < 256 → w < 8 → (s.pkg.spares.waves.any fun x => x.1 == f) = false →
    ∃ t, exec (.wavelengthSpare f w) s = .next t ∧ t.pkg.spares.waves = s.pkg.spares.waves ++ [(f, w)] ∧ t.hub = s.hub) ∧
  (∀ f, f < 256 → ∃ t, exec (.fibreFailure f) s = .next t ∧ t.pkg.spares.deadFibres.contains f = true ∧ t.threads = s.threads) ∧
  (∀ stack row, stack < 8 → s.pkg.spares.rows.contains (stack, row) = false →
    ∃ t, exec (.hbmRowRemap stack row) s = .next t ∧ t.pkg.spares.rows = s.pkg.spares.rows ++ [(stack, row)] ∧ t.hub = s.hub) ∧
  (∀ stack ch, stack < 8 → (s.pkg.spares.channels.any fun c => c.1 == stack) = false →
    ∃ t, exec (.pseudoChannelSwitch stack ch) s = .next t ∧ t.pkg.spares.channels = s.pkg.spares.channels ++ [(stack, ch)] ∧ t.hub = s.hub) ∧
  (∀ site way, ∃ t, exec (.cacheWaySpare site way) s = .next t ∧ t.pkg.spares.ways = s.pkg.spares.ways ++ [site] ∧ t.hub.placed = s.hub.placed ∧
    t.threads = s.threads ∧ t.cores = s.cores ∧ t.effects = s.effects ∧ (∀ d, site = .l2 d → ∀ l ∈ (die t d).l2, Config.wayOf l.line ≠ way) ∧
    (site = .l3 → ∀ l ∈ t.hub.l3, Config.wayOf l.line = way → l.dirty ≠ 0 ∧ homeOffline s (256 * l.line) = true))) ∧
  MonitorsEnabled ∧ MonitorSamples ∧ OtherActsSampleNothing ∧ ErrorsMark

/-- R401, R403 to R406: firmware with both signatures and a security version at or above the fuse goes to the slot that does not run and raises the next fuse; a signed life-cycle command only
moves forward; a report is requested once and written where it was asked for; power lost empties the machine but for fuses and flash.
Signatures are free values (log entry 17); bad report addresses and what power loss keeps are read as log entries 58 and 61 say. -/
def Obligations.PackageEventsComplete : Prop := ∀ (s : State),
  (∀ img, Config.rsaVerifies img.hash img.rsa = true → Config.slhVerifies img.hash img.slh = true → s.pkg.fuse ≤ img.secver → img.secver ≤ 64 →
    ∃ t, exec (.firmwareUpdate img) s = .next t ∧ t.pkg.nextB = !s.pkg.useB ∧ t.pkg.fuseNext = max s.pkg.fuseNext img.secver ∧ t.pkg.fuse = s.pkg.fuse ∧
      (if s.pkg.useB then t.pkg.slotA.image = img ∧ t.pkg.slotB = s.pkg.slotB else t.pkg.slotB.image = img ∧ t.pkg.slotA = s.pkg.slotA) ∧ t.hub = s.hub) ∧
  (∀ img, Config.rsaVerifies img.hash img.rsa = false ∨ Config.slhVerifies img.hash img.slh = false ∨ img.secver < s.pkg.fuse ∨ 64 < img.secver →
    exec (.firmwareUpdate img) s = .next s) ∧
  (∀ c, signed (sha384 (bytesLE 1 c.target)) c.rsa c.slh = true → s.pkg.lifeNext < c.target → c.target ≤ 3 →
    ∃ t, exec (.lifeCycleAdvance c) s = .next t ∧ t.pkg.lifeNext = c.target ∧ t.pkg.life = s.pkg.life) ∧
  (∀ c, c.target ≤ s.pkg.lifeNext → exec (.lifeCycleAdvance c) s = .next s) ∧
  (∀ v : BitVec 32, v.getLsbD 31 = true → s.ap.attSt ≠ 0 → ∃ t, exec (.attestationRequest v) s = .next t ∧ t.ap.attSt = 0 ∧ t.ap.attNonce0 = s.ap.attNonce ∧ t.hub = s.hub) ∧
  (s.ap.attSt = 0 → s.ap.attAddr0 % 64 = 0 → hbmRange s.ap.attAddr0 16768 = true →
    ∃ t, exec .attestationReportDone s = .next t ∧ t.ap.attSt = 1 ∧ t.hub.placed = memWrite s.hub.placed s.ap.attAddr0 (report s s.ap.attNonce0)) ∧
  (∃ t, exec .powerLoss s = .next t ∧ t.pkg.power = false ∧ t.hub = Hub.reset ∧ t.threads = [] ∧ t.ctxs = [] ∧ t.cores = State.reset.cores ∧
    t.pkg.fuse = s.pkg.fuse ∧ t.pkg.life = s.pkg.life ∧ t.pkg.slotA = s.pkg.slotA ∧ t.pkg.slotB = s.pkg.slotB ∧ t.pkg.bootLog = s.pkg.bootLog) ∧
  (∀ r, ∃ t, exec (.powerOnStart r) s = .next t ∧ t.pkg.starts = s.pkg.starts + 1 ∧ t.hub.placed = [] ∧ t.ctxs = [] ∧ t.threads = [])
end

