-- ==== Sys2Proof/Laws/Memory.lean ====
section
/-! SUPPORT. Laws of the memory list: its canonical form under writes, and what a read gives after a write. -/
namespace Sys2Proof.Machine

/-- A list that rises from a bound rises from every lower one. -/
theorem risingFrom_mono {lo lo' : Nat} {m : Memory} (h : lo' ≤ lo) (hm : risingFrom lo m = true) : risingFrom lo' m = true := by
  cases m with
  | nil => rfl
  | cons c r =>
    simp only [risingFrom, Bool.and_eq_true, decide_eq_true_eq] at hm ⊢
    exact ⟨Nat.le_trans h hm.1, hm.2⟩

/-- Every cell of a rising list lies at or above the bound. -/
theorem risingFrom_le {lo : Nat} {m : Memory} (hm : risingFrom lo m = true) {c : Host.Cell} (hc : c ∈ m) : lo ≤ c.1 := by
  induction m generalizing lo with
  | nil => cases hc
  | cons d r ih =>
    simp only [risingFrom, Bool.and_eq_true, decide_eq_true_eq] at hm
    cases hc with
    | head => exact hm.1
    | tail _ h => exact Nat.le_trans (Nat.le_trans hm.1 (Nat.le_succ _)) (ih hm.2 h)

/-- A part of a rising list rises. -/
theorem risingFrom_filter {lo : Nat} {m : Memory} (p : Host.Cell → Bool) (hm : risingFrom lo m = true) :
    risingFrom lo (m.filter p) = true := by
  induction m generalizing lo with
  | nil => rfl
  | cons d r ih =>
    simp only [risingFrom, Bool.and_eq_true, decide_eq_true_eq] at hm
    by_cases hp : p d = true
    · simp only [List.filter_cons_of_pos hp, risingFrom, Bool.and_eq_true, decide_eq_true_eq]
      exact ⟨hm.1, ih hm.2⟩
    · rw [List.filter_cons_of_neg hp]
      exact risingFrom_mono (Nat.le_trans hm.1 (Nat.le_succ _)) (ih hm.2)

/-- Two rising lists, the first below the second, rise together. -/
theorem risingFrom_append {lo k : Nat} {l r : Memory} (hl : risingFrom lo l = true) (hk : ∀ c ∈ l, c.1 < k) (hlo : lo ≤ k)
    (hr : risingFrom k r = true) : risingFrom lo (l ++ r) = true := by
  induction l generalizing lo with
  | nil => exact risingFrom_mono hlo hr
  | cons d t ih =>
    simp only [risingFrom, Bool.and_eq_true, decide_eq_true_eq, List.cons_append] at hl ⊢
    exact ⟨hl.1, ih hl.2 (fun c hc => hk c (List.mem_cons_of_mem _ hc)) (hk d List.mem_cons_self)⟩

/-- The cells of a run rise from its address. -/
theorem runCells_rising (a : Nat) (bs : List Byte) : risingFrom a (runCells a bs) = true := by
  induction bs generalizing a with
  | nil => rfl
  | cons b r ih =>
    simp only [runCells]
    split
    · exact risingFrom_mono (Nat.le_succ a) (ih (a + 1))
    · simp only [risingFrom, Bool.and_eq_true, decide_eq_true_eq]
      exact ⟨Nat.le_refl a, ih (a + 1)⟩

/-- The cells of a run lie within it. -/
theorem runCells_lt (a : Nat) (bs : List Byte) : ∀ c ∈ runCells a bs, c.1 < a + bs.length := by
  induction bs generalizing a with
  | nil => intro c hc; cases hc
  | cons b r ih =>
    intro c hc
    simp only [runCells] at hc
    have hlen : a + (b :: r).length = a + 1 + r.length := by simp only [List.length_cons]; omega
    split at hc
    · rw [hlen]; exact ih (a + 1) c hc
    · rcases List.mem_cons.mp hc with h | h
      · subst h; simp only [List.length_cons]; omega
      · rw [hlen]; exact ih (a + 1) c h

/-- No cell of a run reads as 0. -/
theorem runCells_ne_zero (a : Nat) (bs : List Byte) : ∀ c ∈ runCells a bs, c.2 ≠ 0 := by
  induction bs generalizing a with
  | nil => intro c hc; cases hc
  | cons b r ih =>
    intro c hc
    simp only [runCells] at hc
    split at hc
    · exact ih (a + 1) c hc
    · rename_i hb
      rcases List.mem_cons.mp hc with h | h
      · subst h; simpa using hb
      · exact ih (a + 1) c h

/-- A write keeps the canonical form. -/
theorem memWrite_wf {m : Memory} (hm : m.wf = true) (a : Nat) (bs : List Byte) : (memWrite m a bs).wf = true := by
  simp only [Memory.wf, Bool.and_eq_true, List.all_eq_true] at hm ⊢
  have hb : ∀ c ∈ m.filter (fun c => decide (c.1 < a)), c.1 < a := fun c hc => by simpa using (List.mem_filter.mp hc).2
  have h3 : risingFrom (a + bs.length) (m.filter fun c => decide (a + bs.length ≤ c.1)) = true := by
    have : ∀ {lo : Nat} {l : Memory}, risingFrom lo l = true → (∀ c ∈ l, a + bs.length ≤ c.1) → risingFrom (a + bs.length) l = true := by
      intro lo l hl hc
      cases l with
      | nil => rfl
      | cons d r =>
        simp only [risingFrom, Bool.and_eq_true, decide_eq_true_eq] at hl ⊢
        exact ⟨hc d List.mem_cons_self, hl.2⟩
    exact this (risingFrom_filter _ hm.1) fun c hc => by simpa using (List.mem_filter.mp hc).2
  refine ⟨?_, ?_⟩
  · rw [memWrite, List.append_assoc]
    exact risingFrom_append (risingFrom_filter _ hm.1) hb (Nat.zero_le _)
      (risingFrom_append (runCells_rising a bs) (runCells_lt a bs) (Nat.le_add_right _ _) h3)
  · intro c hc
    rw [memWrite, List.append_assoc] at hc
    rcases List.mem_append.mp hc with h | h
    · exact hm.2 c (List.mem_filter.mp h).1
    · rcases List.mem_append.mp h with h | h
      · simpa using runCells_ne_zero a bs c h
      · exact hm.2 c (List.mem_filter.mp h).1

/-- Several writes keep the canonical form. -/
theorem memWriteRuns_wf {m : Memory} (hm : m.wf = true) (rs : Runs) : (memWriteRuns m rs).wf = true := by
  induction rs generalizing m with
  | nil => exact hm
  | cons r t ih => exact ih (memWrite_wf hm r.1 r.2)

/-- A cell found in one of two joined lists. -/
theorem memRead_append (l r : Memory) (a : Nat) :
    memRead (l ++ r) a = if l.any (fun c => c.1 == a) then memRead l a else memRead r a := by
  induction l with
  | nil => rfl
  | cons c t ih =>
    by_cases h : (c.1 == a) = true
    · simp only [memRead, List.cons_append, List.find?_cons, h, List.any_cons, Bool.true_or, if_true]
    · simp only [memRead, List.cons_append, List.find?_cons, h, List.any_cons, Bool.false_or] at ih ⊢
      exact ih

/-- A part of memory that keeps an address reads there as memory does. -/
theorem memRead_filter (m : Memory) (p : Host.Cell → Bool) (a : Nat) (h : ∀ c : Host.Cell, c.1 = a → p c = true) :
    memRead (m.filter p) a = memRead m a := by
  induction m with
  | nil => rfl
  | cons c t ih =>
    by_cases hc : (c.1 == a) = true
    · rw [List.filter_cons_of_pos (h c (by simpa using hc))]
      simp only [memRead, List.find?_cons, hc]
    · by_cases hp : p c = true
      · rw [List.filter_cons_of_pos hp]
        simp only [memRead, List.find?_cons, hc] at ih ⊢
        exact ih
      · rw [List.filter_cons_of_neg hp, ih]
        simp only [memRead, List.find?_cons, hc]

/-- A list without an address reads as 0 there. -/
theorem memRead_absent {m : Memory} {a : Nat} (h : ∀ c ∈ m, c.1 ≠ a) : memRead m a = 0 := by
  have hf : m.find? (fun c => c.1 == a) = none := List.find?_eq_none.mpr fun c hc => by simpa using h c hc
  simp only [memRead, hf]

/-- Membership of an address as `any` says it. -/
theorem any_addr_false {m : Memory} {a : Nat} (h : ∀ c ∈ m, c.1 ≠ a) : m.any (fun c => c.1 == a) = false := by
  simp only [List.any_eq_false]
  intro c hc
  simpa using h c hc

/-- A read outside a write gives what it gave before. -/
theorem memRead_memWrite_other (m : Memory) (a : Nat) (bs : List Byte) (x : Nat) (h : x < a ∨ a + bs.length ≤ x) :
    memRead (memWrite m a bs) x = memRead m x := by
  rw [memWrite, List.append_assoc, memRead_append]
  rcases h with h | h
  · have hp : memRead (m.filter fun c => decide (c.1 < a)) x = memRead m x :=
      memRead_filter m _ x fun c hc => by simpa [hc] using h
    split
    · exact hp
    · rename_i hn
      rw [← hp]
      have hz : memRead (m.filter fun c => decide (c.1 < a)) x = 0 :=
        memRead_absent fun c hc he => hn (List.any_eq_true.mpr ⟨c, hc, by simp [he]⟩)
      rw [hz, memRead_append, any_addr_false (fun c hc => ?_)]
      · exact memRead_absent fun c hc => by
          have := (List.mem_filter.mp hc).2
          simp only [decide_eq_true_eq] at this
          omega
      · have := risingFrom_le (runCells_rising a bs) hc
        omega
  · rw [any_addr_false (fun c hc => ?_)]
    · rw [if_neg (by decide), memRead_append, any_addr_false (fun c hc => ?_)]
      · rw [if_neg (by decide)]
        exact memRead_filter m _ x fun c hc => by simpa [hc] using h
      · have := runCells_lt a bs c hc
        omega
    · have := (List.mem_filter.mp hc).2
      simp only [decide_eq_true_eq] at this
      omega

/-- A run's cells read as its bytes. -/
theorem memRead_runCells (a : Nat) (bs : List Byte) (i : Nat) (h : i < bs.length) :
    memRead (runCells a bs) (a + i) = bs.getD i 0 := by
  induction bs generalizing a i with
  | nil => exact absurd h (Nat.not_lt_zero _)
  | cons b r ih =>
    cases i with
    | zero =>
      simp only [runCells, Nat.add_zero, List.getD_cons_zero]
      split
      · rename_i hb
        rw [memRead_absent fun c hc => ?_]
        · simp_all
        · have := risingFrom_le (runCells_rising (a + 1) r) hc
          omega
      · simp [memRead]
    | succ j =>
      have hj : j < r.length := by simpa using h
      have he : a + (j + 1) = a + 1 + j := by omega
      simp only [runCells, List.getD_cons_succ]
      rw [he]
      split
      · exact ih (a + 1) j hj
      · rw [← ih (a + 1) j hj]
        have hn : ¬ a = a + 1 + j := by omega
        simp [memRead, hn]

/-- A read inside a write gives the byte written. -/
theorem memRead_memWrite_same (m : Memory) (a : Nat) (bs : List Byte) (i : Nat) (h : i < bs.length) :
    memRead (memWrite m a bs) (a + i) = bs.getD i 0 := by
  rw [memWrite, List.append_assoc, memRead_append, any_addr_false (fun c hc => ?_), if_neg (by decide), memRead_append]
  · split
    · exact memRead_runCells a bs i h
    · rename_i hn
      have hz : memRead (runCells a bs) (a + i) = 0 :=
        memRead_absent fun c hc he => hn (List.any_eq_true.mpr ⟨c, hc, by simp [he]⟩)
      rw [← memRead_runCells a bs i h, hz]
      exact memRead_absent fun c hc => by
        have := (List.mem_filter.mp hc).2
        simp only [decide_eq_true_eq] at this
        omega
  · have := (List.mem_filter.mp hc).2
    simp only [decide_eq_true_eq] at this
    omega

/-- A read within a window of memory. -/
theorem memRead_window (m : Memory) (a n x : Nat) (h1 : a ≤ x) (h2 : x < a + n) :
    memRead (m.filter fun c => decide (a ≤ c.1) && decide (c.1 < a + n)) x = memRead m x :=
  memRead_filter m _ x fun c hc => by simp [hc, h1, h2]

/-- A read of several bytes is the reads of each. -/
theorem memReadN_eq (m : Memory) (a n : Nat) : memReadN m a n = (List.range n).map fun i => memRead m (a + i) := by
  simp only [memReadN]
  refine List.map_congr_left fun i hi => ?_
  exact memRead_window m a n (a + i) (Nat.le_add_right _ _) (by have := List.mem_range.mp hi; omega)

end Sys2Proof.Machine
end

