-- ==== Sys2Proof/Laws/Canonical.lean ====
section
/-! SUPPORT. The placed memory keeps its canonical form under every shared operation of the machine (R7, R227): one lemma an operation, from the
one place where bytes are placed up to commit, faults, the engines and the image. A meaning is a few of them: its own lemma unfolds it, splits its
cases and applies these. -/
namespace Sys2Proof.Machine

/-- Whatever state an outcome carries, its memory is canonical. -/
structure OutCanonical (o : Out) : Prop where
  mk :: (next : ∀ t, o = .next t → MemoryCanonical t)

theorem OutCanonical.of_next {t : State} (h : MemoryCanonical t) : OutCanonical (.next t) := ⟨by intro u e; cases e; exact h⟩
theorem OutCanonical.of_fault (f : Fault) : OutCanonical (.fault f) := ⟨by intro u e; cases e⟩
theorem OutCanonical.of_refused (f : Refusal) : OutCanonical (.refused f) := ⟨by intro u e; cases e⟩

theorem fresh_canonical (s : State) (h : MemoryCanonical s) : MemoryCanonical (fresh s).2 := h

/-- The state of a pair. -/
theorem fst_canonical {α : Type} {p : State × α} {t : State} {x : α} (e : p = (t, x)) (h : MemoryCanonical p.1) : MemoryCanonical t := by
  rw [e] at h; exact h

theorem snd_canonical {α : Type} {p : α × State} {t : State} {x : α} (e : p = (x, t)) (h : MemoryCanonical p.2) : MemoryCanonical t := by
  rw [e] at h; exact h

/-- A fold whose every step keeps the form keeps it. -/
theorem foldl_canonical {α : Type} {f : State → α → State} (hf : ∀ s a, MemoryCanonical s → MemoryCanonical (f s a)) :
    ∀ (l : List α) (s : State), MemoryCanonical s → MemoryCanonical (l.foldl f s)
  | [], _, h => h
  | a :: l, s, h => foldl_canonical hf l (f s a) (hf s a h)

theorem foldlReading_canonical {α : Type} {f : Reading → α → Reading} (hf : ∀ p a, MemoryCanonical p.s → MemoryCanonical (f p a).s) :
    ∀ (l : List α) (p : Reading), MemoryCanonical p.s → MemoryCanonical (l.foldl f p).s
  | [], _, h => h
  | a :: l, p, h => foldlReading_canonical hf l (f p a) (hf p a h)

theorem foldlPutting_canonical {α : Type} {f : Putting → α → Putting} (hf : ∀ p a, MemoryCanonical p.g.s → MemoryCanonical (f p a).g.s) :
    ∀ (l : List α) (p : Putting), MemoryCanonical p.g.s → MemoryCanonical (l.foldl f p).g.s
  | [], _, h => h
  | a :: l, p, h => foldlPutting_canonical hf l (f p a) (hf p a h)

theorem foldlLay_canonical {α : Type} {f : LayReads → α → LayReads} (hf : ∀ p a, MemoryCanonical p.s → MemoryCanonical (f p a).s) :
    ∀ (l : List α) (p : LayReads), MemoryCanonical p.s → MemoryCanonical (l.foldl f p).s
  | [], _, h => h
  | a :: l, p, h => foldlLay_canonical hf l (f p a) (hf p a h)

theorem fstReading_canonical {α : Type} {p : Reading × α} {t : Reading} {x : α} (e : p = (t, x)) (h : MemoryCanonical p.1.s) : MemoryCanonical t.s := by
  rw [e] at h; exact h

theorem foldlPair_canonical {α β : Type} {f : State × β → α → State × β} (hf : ∀ p a, MemoryCanonical p.1 → MemoryCanonical (f p a).1) :
    ∀ (l : List α) (p : State × β), MemoryCanonical p.1 → MemoryCanonical (l.foldl f p).1
  | [], _, h => h
  | a :: l, p, h => foldlPair_canonical hf l (f p a) (hf p a h)



/-! Ops -/

theorem modMon_canonical (s : State) (u : Nat) (f : Mon → Mon) (hM : MemoryCanonical s) : MemoryCanonical (modMon s u f) := hM

theorem sampleCore_canonical (s : State) (vc src v : Nat) (hM : MemoryCanonical s) : MemoryCanonical (sampleCore s vc src v) := hM

theorem passTicks_canonical (s : State) (n : Nat) (hM : MemoryCanonical s) : MemoryCanonical (passTicks s n) := hM

theorem modCtx_canonical (s : State) (n : Nat) (f : Ctx → Ctx) (hM : MemoryCanonical s) : MemoryCanonical (modCtx s n f) := hM

theorem modGrid_canonical (s : State) (g : Nat) (f : Grid → Grid) (hM : MemoryCanonical s) : MemoryCanonical (modGrid s g f) := hM

theorem modGroup_canonical (s : State) (g gi : Nat) (f : Group → Group) (hM : MemoryCanonical s) : MemoryCanonical (modGroup s g gi f) := hM

theorem modThread_canonical (s : State) (uid : Nat) (f : Thread → Thread) (hM : MemoryCanonical s) : MemoryCanonical (modThread s uid f) := hM

theorem modCore_canonical (s : State) (vc : Nat) (f : Core → Core) (hM : MemoryCanonical s) : MemoryCanonical (modCore s vc f) := hM

theorem modDie_canonical (s : State) (d : Nat) (f : Die → Die) (hM : MemoryCanonical s) : MemoryCanonical (modDie s d f) := hM

theorem modStore_canonical (s : State) (vc : Nat) (f : Storage → Storage) (hM : MemoryCanonical s) : MemoryCanonical (modStore s vc f) := hM

theorem modEffect_canonical (s : State) (id : Nat) (f : Effect → Effect) (hM : MemoryCanonical s) : MemoryCanonical (modEffect s id f) := hM

theorem modPlace_canonical (s : State) (vc slot : Nat) (f : Placement → Placement) (hM : MemoryCanonical s) : MemoryCanonical (modPlace s vc slot f) := hM

theorem flushDie_canonical (s : State) (d : Nat) (hM : MemoryCanonical s) : MemoryCanonical (flushDie s d) := hM

theorem deliverOne_canonical (s : State) (d : Nat) (hM : MemoryCanonical s) : MemoryCanonical (deliverOne s d) := by
  unfold deliverOne
  repeat' first
    | with_reducible assumption | with_reducible apply modDie_canonical | with_reducible apply foldl_canonical
    | with_reducible apply foldlPair_canonical | with_reducible refine fst_canonical (by assumption) ?_ | (intro _) | split
    | dsimp only [MemoryCanonical] | assumption

theorem noteSignals_canonical (s : State) (rs : Runs) (hM : MemoryCanonical s) : MemoryCanonical (noteSignals s rs) := hM

theorem placeRuns_canonical (s : State) (id : Nat) (src : Option Nat) (rs : Runs) (h : MemoryCanonical s) : MemoryCanonical (placeRuns s id src rs) := by
  unfold placeRuns
  apply noteSignals_canonical
  apply foldl_canonical
  · intro u d hu
    dsimp only
    split
    · exact modDie_canonical _ _ _ (flushDie_canonical _ _ hu)
    · split <;> exact modDie_canonical _ _ _ hu
  · exact memWriteRuns_wf h rs

theorem touchL3_canonical (s : State) (line : Nat) (dirty : BitVec 256) (z : Option Bool) (hM : MemoryCanonical s) : MemoryCanonical (touchL3 s line dirty z) := by
  unfold touchL3
  repeat' first
    | with_reducible assumption | (intro _) | split | dsimp only [MemoryCanonical] | assumption

theorem writeBackFrom_canonical (s : State) (line d : Nat) (hM : MemoryCanonical s) : MemoryCanonical (writeBackFrom s line d) := by
  unfold writeBackFrom
  repeat' first
    | with_reducible assumption | with_reducible apply modDie_canonical | with_reducible apply touchL3_canonical | (intro _) | split
    | dsimp only [MemoryCanonical] | assumption

theorem writeBackLine_canonical (s : State) (line : Nat) (hM : MemoryCanonical s) : MemoryCanonical (writeBackLine s line) := by
  unfold writeBackLine
  repeat' first
    | with_reducible assumption | with_reducible apply writeBackFrom_canonical | with_reducible apply foldl_canonical
    | with_reducible apply foldlPair_canonical | with_reducible refine fst_canonical (by assumption) ?_ | (intro _) | split
    | dsimp only [MemoryCanonical] | assumption

theorem dropLine_canonical (s : State) (line : Nat) (but : Option Nat) (hM : MemoryCanonical s) : MemoryCanonical (dropLine s line but) := by
  unfold dropLine
  repeat' first
    | with_reducible assumption | with_reducible apply modDie_canonical | with_reducible apply writeBackFrom_canonical
    | with_reducible apply foldl_canonical | with_reducible apply foldlPair_canonical | with_reducible refine fst_canonical (by assumption) ?_
    | (intro _) | split | dsimp only [MemoryCanonical] | assumption

theorem insertL2_canonical (s : State) (d : Nat) (l : L2Line) (hM : MemoryCanonical s) : MemoryCanonical (insertL2 s d l) := by
  unfold insertL2
  repeat' first
    | with_reducible assumption | with_reducible apply modDie_canonical | with_reducible apply writeBackFrom_canonical | (intro _) | split
    | dsimp only [MemoryCanonical] | assumption

theorem touchLine_canonical (s : State) (d pa : Nat) (hM : MemoryCanonical s) : MemoryCanonical (touchLine s d pa) := by
  unfold touchLine
  repeat' first
    | with_reducible assumption | with_reducible apply modDie_canonical | with_reducible apply touchL3_canonical
    | with_reducible apply writeBackLine_canonical | with_reducible apply insertL2_canonical | (intro _) | split | dsimp only [MemoryCanonical]
    | assumption

theorem writeL2_canonical (s : State) (d line o : Nat) (bs : List Byte) (hM : MemoryCanonical s) : MemoryCanonical (writeL2 s d line o bs) := by
  unfold writeL2
  repeat' first
    | with_reducible assumption | with_reducible apply modDie_canonical | with_reducible apply touchL3_canonical
    | with_reducible apply dropLine_canonical | with_reducible apply insertL2_canonical | (intro _) | split | dsimp only [MemoryCanonical]
    | assumption

theorem writeL3_canonical (s : State) (line o : Nat) (bs : List Byte) (hM : MemoryCanonical s) : MemoryCanonical (writeL3 s line o bs) := by
  unfold writeL3
  repeat' first
    | with_reducible assumption | with_reducible apply touchL3_canonical | with_reducible apply dropLine_canonical | split
    | dsimp only [MemoryCanonical] | assumption

theorem dirtyRuns_canonical (s : State) (d : Nat) (rs : Runs) (hM : MemoryCanonical s) : MemoryCanonical (dirtyRuns s d rs) := by
  unfold dirtyRuns
  repeat' first
    | with_reducible assumption | with_reducible apply writeL2_canonical | with_reducible apply foldl_canonical
    | with_reducible apply foldlPair_canonical | with_reducible refine fst_canonical (by assumption) ?_ | (intro _) | split
    | dsimp only [MemoryCanonical] | assumption

theorem hubRuns_canonical (s : State) (rs : Runs) (hM : MemoryCanonical s) : MemoryCanonical (hubRuns s rs) := by
  unfold hubRuns
  repeat' first
    | with_reducible assumption | with_reducible apply writeL3_canonical | with_reducible apply foldl_canonical
    | with_reducible apply foldlPair_canonical | with_reducible refine fst_canonical (by assumption) ?_ | (intro _) | split
    | dsimp only [MemoryCanonical] | assumption

theorem hubReads_canonical (s : State) (a n : Nat) (hM : MemoryCanonical s) : MemoryCanonical (hubReads s a n) := by
  unfold hubReads
  repeat' first
    | with_reducible assumption | with_reducible apply touchL3_canonical | with_reducible apply writeBackLine_canonical
    | with_reducible apply foldl_canonical | with_reducible apply foldlPair_canonical | with_reducible refine fst_canonical (by assumption) ?_
    | (intro _) | split | dsimp only [MemoryCanonical] | assumption

theorem hubWrite_canonical (s : State) (pa : Nat) (bs : List Byte) (hM : MemoryCanonical s) : MemoryCanonical (hubWrite s pa bs) := by
  unfold hubWrite
  repeat' first
    | with_reducible assumption | with_reducible apply placeRuns_canonical | with_reducible apply hubRuns_canonical | split
    | dsimp only [MemoryCanonical] | assumption

theorem hubPut_canonical (s : State) (mt pa : Nat) (bs : List Byte) (hM : MemoryCanonical s) : MemoryCanonical (hubPut s mt pa bs) := by
  unfold hubPut
  repeat' first
    | with_reducible assumption | with_reducible apply placeRuns_canonical | with_reducible apply hubWrite_canonical | split
    | dsimp only [MemoryCanonical] | assumption

theorem hubTouch_canonical (s : State) (mt pa n : Nat) (hM : MemoryCanonical s) : MemoryCanonical (hubTouch s mt pa n) := by
  unfold hubTouch
  repeat' first
    | with_reducible assumption | with_reducible apply hubReads_canonical | split | dsimp only [MemoryCanonical] | assumption

theorem placeFirst_canonical (s : State) (d n : Nat) (hM : MemoryCanonical s) : MemoryCanonical (placeFirst s d n) := by
  unfold placeFirst
  repeat' first
    | with_reducible assumption | with_reducible apply modEffect_canonical | with_reducible apply placeRuns_canonical | (intro _) | split
    | dsimp only [MemoryCanonical] | assumption

theorem placeTouching_canonical (s : State) (a n d : Nat) (hM : MemoryCanonical s) : MemoryCanonical (placeTouching s a n d) := by
  unfold placeTouching
  repeat' first
    | with_reducible assumption | with_reducible apply placeFirst_canonical | with_reducible apply foldl_canonical
    | with_reducible apply foldlPair_canonical | with_reducible refine fst_canonical (by assumption) ?_ | (intro _) | split
    | dsimp only [MemoryCanonical] | assumption

theorem walkReads_canonical (s : State) (base va : Nat) (hM : MemoryCanonical s) : MemoryCanonical (walkReads s base va) := by
  unfold walkReads
  repeat' first
    | with_reducible assumption | with_reducible apply hubReads_canonical | with_reducible apply foldl_canonical
    | with_reducible apply foldlPair_canonical | with_reducible refine fst_canonical (by assumption) ?_ | (intro _) | split
    | dsimp only [MemoryCanonical] | assumption

theorem orPte_canonical (s : State) (at_ : Nat) (e m : BitVec 64) (hM : MemoryCanonical s) : MemoryCanonical (orPte s at_ e m) := by
  unfold orPte
  repeat' first
    | with_reducible assumption | with_reducible apply hubWrite_canonical | with_reducible apply placeTouching_canonical
    | with_reducible apply foldl_canonical | with_reducible apply foldlPair_canonical | with_reducible refine fst_canonical (by assumption) ?_
    | (intro _) | split | dsimp only [MemoryCanonical] | assumption

theorem setStalls_canonical (s : State) (l : List HubStall) (hM : MemoryCanonical s) : MemoryCanonical (setStalls s l) := hM

theorem stallAt_canonical (s : State) (m : HubStall) (hM : MemoryCanonical s) : MemoryCanonical (stallAt s m) := hM

theorem hubTranslate_canonical (s : State) (c : Ctx) (va : Nat) (need : HubNeed) (wr : Bool) (hM : MemoryCanonical s) : MemoryCanonical (hubTranslate s c va need wr).1 := by
  unfold hubTranslate
  repeat' first
    | with_reducible assumption | with_reducible apply walkReads_canonical | with_reducible apply orPte_canonical
    | with_reducible apply stallAt_canonical | (intro _) | split | dsimp only [MemoryCanonical] | assumption

theorem hubReadVa_canonical (s : State) (c : Ctx) (va n : Nat) (need : HubNeed) (hM : MemoryCanonical s) : MemoryCanonical (hubReadVa s c va n need).1 := by
  unfold hubReadVa
  repeat' first
    | with_reducible assumption | with_reducible apply hubTouch_canonical | with_reducible apply hubTranslate_canonical
    | with_reducible refine fst_canonical (by assumption) ?_ | split | dsimp only [MemoryCanonical] | assumption

theorem hubWriteVa_canonical (s : State) (c : Ctx) (va : Nat) (bs : List Byte) (need : HubNeed) (hM : MemoryCanonical s) : MemoryCanonical (hubWriteVa s c va bs need).1 := by
  unfold hubWriteVa
  repeat' first
    | with_reducible assumption | with_reducible apply hubPut_canonical | with_reducible apply hubTranslate_canonical
    | with_reducible refine fst_canonical (by assumption) ?_ | split | dsimp only [MemoryCanonical] | assumption

theorem putEvent_canonical (s : State) (c : Ctx) (n : Nat) (bytes : BitVec 32 → List Byte) (hM : MemoryCanonical s) : MemoryCanonical (putEvent s c n bytes).1 := by
  unfold putEvent
  repeat' first
    | with_reducible assumption | with_reducible apply modCtx_canonical | with_reducible apply hubReadVa_canonical
    | with_reducible apply hubWriteVa_canonical | with_reducible refine fst_canonical (by assumption) ?_ | (intro _) | split
    | dsimp only [MemoryCanonical] | assumption

theorem writePart_canonical (s : State) (c : Ctx) (r : EvRec) (hM : MemoryCanonical s) : MemoryCanonical (writePart s c r).1 := by
  unfold writePart
  repeat' first
    | with_reducible assumption | with_reducible apply putEvent_canonical | with_reducible refine fst_canonical (by assumption) ?_ | split
    | dsimp only [MemoryCanonical] | assumption

theorem writeParts_canonical (c : Ctx) : ∀ (l : List EvRec) (s : State), MemoryCanonical s → MemoryCanonical (writeParts c l s).1
  | [], _, h => h
  | r :: l, s, h => by
    have h1 := writePart_canonical s c r h
    unfold writeParts
    split
    · rename_i e; rw [e] at h1; exact writeParts_canonical c l _ h1
    · rename_i e; rw [e] at h1; exact h1

theorem holdParts_canonical (s : State) (n : Nat) (l : List EvRec) (hM : MemoryCanonical s) : MemoryCanonical (holdParts s n l) := hM

theorem holdEvent_canonical (s : State) (n : Nat) (r : EvRec) (hM : MemoryCanonical s) : MemoryCanonical (holdEvent s n r) := hM

theorem holdRequests_canonical (s : State) (l : List HubStall) (hM : MemoryCanonical s) : MemoryCanonical (holdRequests s l) := by
  unfold holdRequests
  repeat' first
    | with_reducible assumption | with_reducible apply holdEvent_canonical | with_reducible apply foldl_canonical
    | with_reducible apply foldlPair_canonical | with_reducible refine fst_canonical (by assumption) ?_ | (intro _) | split
    | dsimp only [MemoryCanonical] | assumption

theorem postEvent_canonical (s : State) (r : EvRec) (hM : MemoryCanonical s) : MemoryCanonical (postEvent s r) := by
  unfold postEvent
  repeat' first
    | with_reducible assumption | with_reducible apply setStalls_canonical | with_reducible apply writeParts_canonical
    | with_reducible apply holdParts_canonical | with_reducible apply holdEvent_canonical | with_reducible apply holdRequests_canonical
    | with_reducible refine fst_canonical (by assumption) ?_ | split | dsimp only [MemoryCanonical] | assumption

theorem requestPages_canonical (s : State) (l : List HubStall) (hM : MemoryCanonical s) : MemoryCanonical (requestPages s l) := by
  unfold requestPages
  repeat' first
    | with_reducible assumption | with_reducible apply postEvent_canonical | with_reducible apply foldl_canonical
    | with_reducible apply foldlPair_canonical | with_reducible refine fst_canonical (by assumption) ?_ | (intro _) | split
    | dsimp only [MemoryCanonical] | assumption

theorem hubAct_canonical (s : State) (f : State → State) (hf : ∀ u, MemoryCanonical u → MemoryCanonical (f u)) (hM : MemoryCanonical s) : MemoryCanonical (hubAct s f) := by
  unfold hubAct
  repeat' first
    | with_reducible assumption | with_reducible apply hf | with_reducible apply setStalls_canonical | with_reducible apply requestPages_canonical
    | (intro _) | split | dsimp only [MemoryCanonical] | assumption

theorem flushStalls_canonical (s : State) (hM : MemoryCanonical s) : MemoryCanonical (flushStalls s) := by
  unfold flushStalls
  repeat' first
    | with_reducible assumption | with_reducible apply setStalls_canonical | with_reducible apply requestPages_canonical | split
    | dsimp only [MemoryCanonical] | assumption

theorem startFetch_canonical (s : State) (vc ctx grid : Nat) (p : SegPtr) (hM : MemoryCanonical s) : MemoryCanonical (startFetch s vc ctx grid p) := by
  unfold startFetch
  repeat' first
    | with_reducible assumption | with_reducible apply fresh_canonical | with_reducible apply modCtx_canonical
    | with_reducible apply modCore_canonical | with_reducible refine fst_canonical (by assumption) ?_
    | with_reducible refine snd_canonical (by assumption) ?_ | (intro _) | split | dsimp only [MemoryCanonical] | assumption

theorem wantConf_canonical (s : State) (uid : Nat) (hM : MemoryCanonical s) : MemoryCanonical (wantConf s uid) := by
  unfold wantConf
  repeat' first
    | with_reducible assumption | with_reducible apply startFetch_canonical | split | dsimp only [MemoryCanonical] | assumption

theorem bumpMon_canonical (s : State) (vc ctx : Nat) (f : PerfMon → PerfMon) (hM : MemoryCanonical s) : MemoryCanonical (bumpMon s vc ctx f) := hM

theorem joinEntry_canonical (s : State) (t : Thread) (idx : Nat) (hM : MemoryCanonical s) : MemoryCanonical (joinEntry s t idx) := by
  unfold joinEntry
  repeat' first
    | with_reducible assumption | with_reducible apply modThread_canonical | with_reducible apply modCore_canonical
    | with_reducible apply startFetch_canonical | (intro _) | split | dsimp only [MemoryCanonical] | assumption

theorem setWaiting_canonical (s : State) (uid : Nat) (hM : MemoryCanonical s) : MemoryCanonical (setWaiting s uid) := by
  unfold setWaiting
  repeat' first
    | with_reducible assumption | with_reducible apply modThread_canonical | with_reducible apply modCore_canonical
    | with_reducible apply joinEntry_canonical | (intro _) | split | dsimp only [MemoryCanonical] | assumption

theorem giveEntry_canonical (s : State) (vc : Nat) (hM : MemoryCanonical s) : MemoryCanonical (giveEntry s vc) := by
  unfold giveEntry
  repeat' first
    | with_reducible assumption | with_reducible apply setWaiting_canonical | with_reducible apply foldl_canonical
    | with_reducible apply foldlPair_canonical | with_reducible refine fst_canonical (by assumption) ?_ | (intro _) | split
    | dsimp only [MemoryCanonical] | assumption

theorem settleEntries_canonical (s : State) (vc : Nat) (hM : MemoryCanonical s) : MemoryCanonical (settleEntries s vc) := by
  unfold settleEntries
  repeat' first
    | with_reducible assumption | with_reducible apply modCore_canonical | with_reducible apply giveEntry_canonical
    | with_reducible apply foldl_canonical | with_reducible apply foldlPair_canonical | with_reducible refine fst_canonical (by assumption) ?_
    | (intro _) | split | dsimp only [MemoryCanonical] | assumption

theorem abortInst_canonical (s : State) (uid : Nat) (hM : MemoryCanonical s) : MemoryCanonical (abortInst s uid) := by
  unfold abortInst
  repeat' first
    | with_reducible assumption | with_reducible apply modThread_canonical | with_reducible apply bumpMon_canonical | (intro _) | split
    | dsimp only [MemoryCanonical] | assumption

theorem takeFault_canonical (s : State) (uid : Nat) (f : AccFault) (hM : MemoryCanonical s) : MemoryCanonical (takeFault s uid f) := by
  unfold takeFault
  repeat' first
    | with_reducible assumption | with_reducible apply modThread_canonical | with_reducible apply postEvent_canonical
    | with_reducible apply settleEntries_canonical | with_reducible apply abortInst_canonical | (intro _) | split | dsimp only [MemoryCanonical]
    | assumption

theorem retrySegment_canonical (s : State) (t : Thread) (hM : MemoryCanonical s) : MemoryCanonical (retrySegment s t) := by
  unfold retrySegment
  repeat' first
    | with_reducible assumption | with_reducible apply modCore_canonical | (intro _) | split | dsimp only [MemoryCanonical] | assumption

theorem resumeThread_canonical (s : State) (uid : Nat) (hM : MemoryCanonical s) : MemoryCanonical (resumeThread s uid) := by
  unfold resumeThread
  repeat' first
    | with_reducible assumption | with_reducible apply modThread_canonical | with_reducible apply setWaiting_canonical
    | with_reducible apply retrySegment_canonical | (intro _) | split | dsimp only [MemoryCanonical] | assumption

theorem sweepEffects_canonical (s : State) (hM : MemoryCanonical s) : MemoryCanonical (sweepEffects s) := hM

/-! Access -/

theorem addMiss_canonical (s : State) (t : Thread) (cidf va : Nat) (need : Need) (hM : MemoryCanonical s) : MemoryCanonical (addMiss s t cidf va need) := by
  unfold addMiss
  repeat' first
    | with_reducible assumption | split | dsimp only [MemoryCanonical] | assumption

theorem readGlobal_canonical (s : State) (t : Thread) (pa mt n va : Nat) (hM : MemoryCanonical s) : MemoryCanonical (readGlobal s t pa mt n va).1 := by
  unfold readGlobal
  repeat' first
    | with_reducible assumption | with_reducible apply modCore_canonical | with_reducible apply touchLine_canonical | (intro _) | split
    | dsimp only [MemoryCanonical] | assumption

theorem invalidateL1_canonical (s : State) (vc ctx : Nat) (hM : MemoryCanonical s) : MemoryCanonical (invalidateL1 s vc ctx) := hM

theorem acquireOn_canonical (s : State) (vc ctx scope : Nat) (hM : MemoryCanonical s) : MemoryCanonical (acquireOn s vc ctx scope) := by
  unfold acquireOn
  repeat' first
    | with_reducible assumption | with_reducible apply flushDie_canonical | with_reducible apply invalidateL1_canonical | split
    | dsimp only [MemoryCanonical] | assumption

theorem spadWrite_canonical (s : State) (vc base off : Nat) (bs : List Byte) (hM : MemoryCanonical s) : MemoryCanonical (spadWrite s vc base off bs) := hM

theorem noteLate_canonical (s : State) (vc uid : Nat) (hM : MemoryCanonical s) : MemoryCanonical (noteLate s vc uid) := hM

theorem clearLine_canonical (s : State) (vc line : Nat) (hM : MemoryCanonical s) : MemoryCanonical (clearLine s vc line) := hM

theorem restoreLine_canonical (s : State) (vc line : Nat) (hM : MemoryCanonical s) : MemoryCanonical (restoreLine s vc line) := hM

/-! Fire -/

theorem emit_canonical (s : State) (x : Site) (tok : Tok) (conds : Nat) (hM : MemoryCanonical s) : MemoryCanonical (emit s x tok conds) := hM

theorem fireWith_canonical (i : Instr) (s : State) (f : Site → Shape → Tok × Nat) (hM : MemoryCanonical s) : OutCanonical (fireWith i s f) := by
  unfold fireWith
  repeat' first
    | with_reducible assumption | with_reducible apply OutCanonical.of_next | with_reducible apply emit_canonical | split
    | dsimp only [MemoryCanonical] | assumption

theorem fireInt_canonical (i : Instr) (s : State) (f : Nat → Nat → Nat → Nat) (hM : MemoryCanonical s) : OutCanonical (fireInt i s f) := by
  unfold fireInt
  repeat' first
    | with_reducible assumption | with_reducible apply OutCanonical.of_next | with_reducible apply fireWith_canonical | (intro _) | split
    | dsimp only [MemoryCanonical] | assumption

theorem fireFloat_canonical (i : Instr) (s : State) (f : Nat → Nat → Nat → FRes) (hM : MemoryCanonical s) : OutCanonical (fireFloat i s f) := by
  unfold fireFloat
  repeat' first
    | with_reducible assumption | with_reducible apply OutCanonical.of_next | with_reducible apply fireWith_canonical | (intro _) | split
    | dsimp only [MemoryCanonical] | assumption

theorem fireSink_canonical (i : Instr) (s : State) (hM : MemoryCanonical s) : OutCanonical (fireSink i s) := by
  unfold fireSink
  repeat' first
    | with_reducible assumption | with_reducible apply OutCanonical.of_next | with_reducible apply emit_canonical | split
    | dsimp only [MemoryCanonical] | assumption

theorem fireNothing_canonical (v0 : Instr) (s : State) (hM : MemoryCanonical s) : OutCanonical (fireNothing v0 s) := by
  unfold fireNothing
  repeat' first
    | with_reducible assumption | with_reducible apply OutCanonical.of_next | split | dsimp only [MemoryCanonical] | assumption

/-! Move -/

theorem statusAcquire_canonical (s : State) (t : Thread) (ns : List Nat) (hM : MemoryCanonical s) : MemoryCanonical (statusAcquire s t ns) := by
  unfold statusAcquire
  repeat' first
    | with_reducible assumption | with_reducible apply invalidateL1_canonical | split | dsimp only [MemoryCanonical] | assumption

theorem landSlots_canonical (s : State) (uid n : Nat) (wide : Bool) (v : Nat) (hM : MemoryCanonical s) : MemoryCanonical (landSlots s uid n wide v) := by
  unfold landSlots
  repeat' first
    | with_reducible assumption | with_reducible apply modThread_canonical | with_reducible apply wantConf_canonical | (intro _) | split
    | dsimp only [MemoryCanonical] | assumption

/-! Memory -/

theorem fireLoad_canonical (i : Instr) (s : State) (f : Site → Shape → State × LoadAct) (hf : ∀ x sh, MemoryCanonical (f x sh).1) (h : MemoryCanonical s) :
    OutCanonical (fireLoad i s f) := by
  unfold fireLoad
  repeat' first
    | with_reducible assumption
    | with_reducible apply OutCanonical.of_next
    | with_reducible apply emit_canonical
    | with_reducible apply modThread_canonical
    | with_reducible apply hf
    | split
    | dsimp only [MemoryCanonical]
    | assumption

theorem globalLoad_canonical (s : State) (x : Site) (buf idx w : Nat) (hM : MemoryCanonical s) : MemoryCanonical (globalLoad s x buf idx w).1 := by
  unfold globalLoad
  repeat' first
    | with_reducible assumption | with_reducible apply addMiss_canonical | split | dsimp only [MemoryCanonical] | assumption

theorem readChannelEnt_canonical (s : State) (ctx ch : Nat) (hM : MemoryCanonical s) : MemoryCanonical (readChannelEnt s ctx ch).1 := by
  unfold readChannelEnt
  repeat' first
    | with_reducible assumption | with_reducible apply hubReadVa_canonical | with_reducible refine fst_canonical (by assumption) ?_ | split
    | dsimp only [MemoryCanonical] | assumption

theorem openChannel_canonical (s : State) (ctx ch : Nat) (hM : MemoryCanonical s) : MemoryCanonical (openChannel s ctx ch).1 := by
  unfold openChannel
  repeat' first
    | with_reducible assumption | with_reducible apply hubReads_canonical | with_reducible apply readChannelEnt_canonical
    | with_reducible refine fst_canonical (by assumption) ?_ | split | dsimp only [MemoryCanonical] | assumption

theorem bumpFlow_canonical (s : State) (ctx ch : Nat) (hM : MemoryCanonical s) : MemoryCanonical (bumpFlow s ctx ch) := hM

/-! Group -/

theorem watchSignal_canonical (s : State) (ctx n : Nat) (hM : MemoryCanonical s) : MemoryCanonical (watchSignal s ctx n).1 := by
  unfold watchSignal
  repeat' first
    | with_reducible assumption | with_reducible apply modCtx_canonical | with_reducible apply hubTranslate_canonical
    | with_reducible apply hubReadVa_canonical | with_reducible apply postEvent_canonical | with_reducible refine fst_canonical (by assumption) ?_
    | (intro _) | split | dsimp only [MemoryCanonical] | assumption

theorem signalValue_canonical (s : State) (ctx n : Nat) (hM : MemoryCanonical s) : MemoryCanonical (signalValue s ctx n).1 := by
  unfold signalValue
  repeat' first
    | with_reducible assumption | with_reducible apply watchSignal_canonical | with_reducible refine fst_canonical (by assumption) ?_ | split
    | dsimp only [MemoryCanonical] | assumption

theorem endWaits_canonical (s : State) (uid : Nat) (p : Wait → Bool) (hM : MemoryCanonical s) : MemoryCanonical (endWaits s uid p) := hM

theorem groupAcquire_canonical (s : State) (gr : Group) (scope : Nat) (hM : MemoryCanonical s) : MemoryCanonical (groupAcquire s gr scope) := by
  unfold groupAcquire
  repeat' first
    | with_reducible assumption | with_reducible apply acquireOn_canonical | split | dsimp only [MemoryCanonical] | assumption

theorem settleBar_canonical (s : State) (g gi n : Nat) (hM : MemoryCanonical s) : MemoryCanonical (settleBar s g gi n) := by
  unfold settleBar
  repeat' first
    | with_reducible assumption | with_reducible apply modGroup_canonical | with_reducible apply endWaits_canonical
    | with_reducible apply groupAcquire_canonical | with_reducible apply foldl_canonical | with_reducible apply foldlPair_canonical
    | with_reducible refine fst_canonical (by assumption) ?_ | (intro _) | split | dsimp only [MemoryCanonical] | assumption

theorem landColl_canonical (s : State) (i : Instr) (co : Coll) (c : Contrib) (hM : MemoryCanonical s) : MemoryCanonical (landColl s i co c) := hM

theorem settleColl_canonical (s : State) (g gi : Nat) (co : Coll) (hM : MemoryCanonical s) : MemoryCanonical (settleColl s g gi co) := by
  unfold settleColl
  repeat' first
    | with_reducible assumption | with_reducible apply modGroup_canonical | with_reducible apply groupAcquire_canonical
    | with_reducible apply landColl_canonical | with_reducible apply foldl_canonical | with_reducible apply foldlPair_canonical
    | with_reducible refine fst_canonical (by assumption) ?_ | (intro _) | split | dsimp only [MemoryCanonical] | assumption

theorem passGwait_canonical (s : State) (gr : Group) (hM : MemoryCanonical s) : MemoryCanonical (passGwait s gr) := by
  unfold passGwait
  repeat' first
    | with_reducible assumption | with_reducible apply modGroup_canonical | with_reducible apply endWaits_canonical
    | with_reducible apply groupAcquire_canonical | with_reducible apply foldl_canonical | with_reducible apply foldlPair_canonical
    | with_reducible refine fst_canonical (by assumption) ?_ | (intro _) | split | dsimp only [MemoryCanonical] | assumption

theorem settleGwait_canonical (s : State) (g gi : Nat) (hM : MemoryCanonical s) : MemoryCanonical (settleGwait s g gi) := by
  unfold settleGwait
  repeat' first
    | with_reducible assumption | with_reducible apply signalValue_canonical | with_reducible apply passGwait_canonical
    | with_reducible refine fst_canonical (by assumption) ?_ | split | dsimp only [MemoryCanonical] | assumption

theorem wakeGroup_canonical (s : State) (g gi : Nat) (hM : MemoryCanonical s) : MemoryCanonical (wakeGroup s g gi) := hM

theorem queueResult_canonical (s : State) (t : Thread) (seq ord slot : Nat) (v : BitVec 64) (hM : MemoryCanonical s) : MemoryCanonical (queueResult s t seq ord slot v).1 := hM

theorem passSigWait_canonical (s : State) (t : Thread) (x : Wait) (ord slot : Nat) (v : BitVec 64) (hM : MemoryCanonical s) : MemoryCanonical (passSigWait s t x ord slot v) := by
  unfold passSigWait
  repeat' first
    | with_reducible assumption | with_reducible apply modThread_canonical | with_reducible apply landSlots_canonical
    | with_reducible apply endWaits_canonical | with_reducible apply queueResult_canonical | with_reducible refine fst_canonical (by assumption) ?_
    | (intro _) | split | dsimp only [MemoryCanonical] | assumption

theorem testSigWait_canonical (s : State) (t : Thread) (n : Nat) (v : BitVec 64) (hM : MemoryCanonical s) : MemoryCanonical (testSigWait s t n v) := by
  unfold testSigWait
  repeat' first
    | with_reducible assumption | with_reducible apply acquireOn_canonical | with_reducible apply endWaits_canonical
    | with_reducible apply wakeGroup_canonical | with_reducible apply passSigWait_canonical | with_reducible apply foldl_canonical
    | with_reducible apply foldlPair_canonical | with_reducible refine fst_canonical (by assumption) ?_ | (intro _) | split
    | dsimp only [MemoryCanonical] | assumption

theorem settleGroup_canonical (s : State) (g gi : Nat) (hM : MemoryCanonical s) : MemoryCanonical (settleGroup s g gi) := by
  unfold settleGroup
  repeat' first
    | with_reducible assumption | with_reducible apply settleBar_canonical | with_reducible apply settleColl_canonical
    | with_reducible apply settleGwait_canonical | with_reducible apply foldl_canonical | with_reducible apply foldlPair_canonical
    | with_reducible refine fst_canonical (by assumption) ?_ | (intro _) | split | dsimp only [MemoryCanonical] | assumption

theorem settleGroups_canonical (s : State) (hM : MemoryCanonical s) : MemoryCanonical (settleGroups s) := by
  unfold settleGroups
  repeat' first
    | with_reducible assumption | with_reducible apply settleGroup_canonical | with_reducible apply foldl_canonical
    | with_reducible apply foldlPair_canonical | with_reducible refine fst_canonical (by assumption) ?_ | (intro _) | split
    | dsimp only [MemoryCanonical] | assumption

theorem freeFrames_canonical (s : State) (hM : MemoryCanonical s) : MemoryCanonical (freeFrames s) := hM

theorem leaveThread_canonical (s : State) (uid : Nat) (hM : MemoryCanonical s) : MemoryCanonical (leaveThread s uid) := by
  unfold leaveThread
  repeat' first
    | with_reducible assumption | with_reducible apply modGroup_canonical | with_reducible apply modThread_canonical
    | with_reducible apply settleEntries_canonical | with_reducible apply settleGroup_canonical | with_reducible apply freeFrames_canonical
    | (intro _) | split | dsimp only [MemoryCanonical] | assumption

theorem testNow_canonical (s : State) (uid : Nat) (ws : List Wait) (hM : MemoryCanonical s) : MemoryCanonical (testNow s uid ws) := by
  unfold testNow
  repeat' first
    | with_reducible assumption | with_reducible apply signalValue_canonical | with_reducible apply testSigWait_canonical
    | with_reducible apply foldl_canonical | with_reducible apply foldlPair_canonical | with_reducible refine fst_canonical (by assumption) ?_
    | (intro _) | split | dsimp only [MemoryCanonical] | assumption

/-! Effects -/

theorem updateL1_canonical (s : State) (vc ctx : Nat) (rs : Runs) (hM : MemoryCanonical s) : MemoryCanonical (updateL1 s vc ctx rs) := hM

theorem updateOwn_canonical (s : State) (e : Effect) (rs : Runs) (hM : MemoryCanonical s) : MemoryCanonical (updateOwn s e rs) := by
  unfold updateOwn
  repeat' first
    | with_reducible assumption | with_reducible apply updateL1_canonical | with_reducible apply foldl_canonical
    | with_reducible apply foldlPair_canonical | with_reducible refine fst_canonical (by assumption) ?_ | (intro _) | split
    | dsimp only [MemoryCanonical] | assumption

theorem acquireOwn_canonical (s : State) (e : Effect) (scope : Nat) (hM : MemoryCanonical s) : MemoryCanonical (acquireOwn s e scope) := by
  unfold acquireOwn
  repeat' first
    | with_reducible assumption | with_reducible apply acquireOn_canonical | with_reducible apply foldl_canonical
    | with_reducible apply foldlPair_canonical | with_reducible refine fst_canonical (by assumption) ?_ | (intro _) | split
    | dsimp only [MemoryCanonical] | assumption

theorem reportPoisoned_canonical (s : State) (e : Effect) (hM : MemoryCanonical s) : MemoryCanonical (reportPoisoned s e) := by
  unfold reportPoisoned
  repeat' first
    | with_reducible assumption | with_reducible apply postEvent_canonical | (intro _) | split | dsimp only [MemoryCanonical] | assumption

theorem performAtomic_canonical (s : State) (e : Effect) (src : Option Nat) (hM : MemoryCanonical s) : MemoryCanonical (performAtomic s e src) := by
  unfold performAtomic
  repeat' first
    | with_reducible assumption | with_reducible apply modEffect_canonical | with_reducible apply placeRuns_canonical
    | with_reducible apply dirtyRuns_canonical | with_reducible apply hubRuns_canonical | with_reducible apply updateOwn_canonical
    | with_reducible apply acquireOwn_canonical | with_reducible apply reportPoisoned_canonical | (intro _) | split | dsimp only [MemoryCanonical]
    | assumption

theorem bankAtomic_canonical (s : State) (vc p op ty w : Nat) (b c : BitVec 64) (hM : MemoryCanonical s) : MemoryCanonical (bankAtomic s vc p op ty w b c).1 := hM

theorem actAtBank_canonical (s : State) (e : Effect) (hM : MemoryCanonical s) : MemoryCanonical (actAtBank s e) := by
  unfold actAtBank
  repeat' first
    | with_reducible assumption | with_reducible apply modEffect_canonical | with_reducible apply spadWrite_canonical
    | with_reducible apply noteLate_canonical | with_reducible apply acquireOwn_canonical | with_reducible apply bankAtomic_canonical
    | with_reducible refine fst_canonical (by assumption) ?_ | (intro _) | split | dsimp only [MemoryCanonical] | assumption

theorem settleOne_canonical (s : State) (e : Effect) (hM : MemoryCanonical s) : MemoryCanonical (settleOne s e) := by
  unfold settleOne
  repeat' first
    | with_reducible assumption | with_reducible apply modCtx_canonical | with_reducible apply modEffect_canonical
    | with_reducible apply writeBackLine_canonical | with_reducible apply hubTouch_canonical | with_reducible apply postEvent_canonical
    | with_reducible apply acquireOwn_canonical | with_reducible apply actAtBank_canonical | (intro _) | split | dsimp only [MemoryCanonical]
    | assumption

theorem noteSent_canonical (s : State) (e : Effect) (hM : MemoryCanonical s) : MemoryCanonical (noteSent s e) := by
  unfold noteSent
  repeat' first
    | with_reducible assumption | with_reducible apply modEffect_canonical | (intro _) | split | dsimp only [MemoryCanonical] | assumption

theorem settleEffects_canonical (s : State) (hM : MemoryCanonical s) : MemoryCanonical (settleEffects s) := by
  unfold settleEffects
  repeat' first
    | with_reducible assumption | with_reducible apply sweepEffects_canonical | with_reducible apply settleGroups_canonical
    | with_reducible apply freeFrames_canonical | with_reducible apply settleOne_canonical | with_reducible apply noteSent_canonical
    | with_reducible apply foldl_canonical | with_reducible apply foldlPair_canonical | with_reducible refine fst_canonical (by assumption) ?_
    | (intro _) | split | dsimp only [MemoryCanonical] | assumption

theorem showOnDie_canonical (s : State) (e : Effect) (hM : MemoryCanonical s) : MemoryCanonical (showOnDie s e) := by
  unfold showOnDie
  repeat' first
    | with_reducible assumption | with_reducible apply modDie_canonical | with_reducible apply modEffect_canonical
    | with_reducible apply dirtyRuns_canonical | with_reducible apply updateOwn_canonical | with_reducible apply foldl_canonical
    | with_reducible apply foldlPair_canonical | with_reducible refine fst_canonical (by assumption) ?_ | (intro _) | split
    | dsimp only [MemoryCanonical] | assumption

theorem performInL2_canonical (s : State) (e : Effect) (hM : MemoryCanonical s) : MemoryCanonical (performInL2 s e) := by
  unfold performInL2
  repeat' first
    | with_reducible assumption | with_reducible apply flushDie_canonical | with_reducible apply performAtomic_canonical
    | with_reducible apply settleEffects_canonical | with_reducible apply showOnDie_canonical | (intro _) | split | dsimp only [MemoryCanonical]
    | assumption

theorem placeEffect_canonical (s : State) (e : Effect) (hM : MemoryCanonical s) : MemoryCanonical (placeEffect s e) := by
  unfold placeEffect
  repeat' first
    | with_reducible assumption | with_reducible apply modEffect_canonical | with_reducible apply placeRuns_canonical
    | with_reducible apply hubRuns_canonical | with_reducible apply updateOwn_canonical | with_reducible apply performAtomic_canonical
    | with_reducible apply settleEffects_canonical | (intro _) | split | dsimp only [MemoryCanonical] | assumption

theorem parkAckLoss_canonical (s : State) (t : Thread) (r : EvRec) (hM : MemoryCanonical s) : MemoryCanonical (parkAckLoss s t r) := by
  unfold parkAckLoss
  repeat' first
    | with_reducible assumption | with_reducible apply modThread_canonical | with_reducible apply settleEntries_canonical
    | with_reducible apply abortInst_canonical | (intro _) | split | dsimp only [MemoryCanonical] | assumption

theorem abortAtCommit_canonical (s : State) (uid : Nat) (r : EvRec) (hM : MemoryCanonical s) : MemoryCanonical (abortAtCommit s uid r) := by
  unfold abortAtCommit
  repeat' first
    | with_reducible assumption | with_reducible apply parkAckLoss_canonical | split | dsimp only [MemoryCanonical] | assumption

theorem resolveAckLoss_canonical (s : State) (e : Effect) (readable : Bool) (hM : MemoryCanonical s) : MemoryCanonical (resolveAckLoss s e readable) := by
  unfold resolveAckLoss
  repeat' first
    | with_reducible assumption | with_reducible apply modThread_canonical | with_reducible apply modEffect_canonical
    | with_reducible apply postEvent_canonical | with_reducible apply settleEffects_canonical | with_reducible apply abortAtCommit_canonical
    | (intro _) | split | dsimp only [MemoryCanonical] | assumption

theorem settleAckLoss_canonical (s : State) (t : Thread) (hM : MemoryCanonical s) : MemoryCanonical (settleAckLoss s t) := by
  unfold settleAckLoss
  repeat' first
    | with_reducible assumption | with_reducible apply modThread_canonical | with_reducible apply settleEffects_canonical | (intro _) | split
    | dsimp only [MemoryCanonical] | assumption

theorem flowAccepted_canonical (s : State) (ctx pkg pctx : Nat) (ordered : Bool) (hM : MemoryCanonical s) : MemoryCanonical (flowAccepted s ctx pkg pctx ordered).1 := by
  unfold flowAccepted
  repeat' first
    | with_reducible assumption | with_reducible apply readChannelEnt_canonical | with_reducible apply foldl_canonical
    | with_reducible apply foldlPair_canonical | with_reducible refine fst_canonical (by assumption) ?_ | (intro _) | split
    | dsimp only [MemoryCanonical] | assumption

theorem farPage_canonical (s0 : State) (c : Ctx) (write : Bool) (cid va : Nat) (hM : MemoryCanonical s0) : MemoryCanonical (farPage s0 c write cid va).1 := by
  unfold farPage
  repeat' first
    | with_reducible assumption | with_reducible apply walkReads_canonical | with_reducible apply orPte_canonical | (intro _) | split
    | dsimp only [MemoryCanonical] | assumption

theorem farCheck_canonical (s : State) (ctx pkg pctx : Nat) (ordered copy write : Bool) (cid va n : Nat) (hM : MemoryCanonical s) :
    MemoryCanonical (farCheck s ctx pkg pctx ordered copy write cid va n).1 := by
  unfold farCheck
  repeat' first
    | with_reducible assumption | with_reducible apply flowAccepted_canonical | with_reducible apply farPage_canonical
    | with_reducible refine fst_canonical (by assumption) ?_ | (intro _) | split
    | dsimp only [MemoryCanonical] | assumption

theorem flowDone_canonical (s : State) (w : PeerWrite) (ok : Bool) (hM : MemoryCanonical s) : MemoryCanonical (flowDone s w ok) := hM

theorem refuseCopy_canonical (s : State) (e : Effect) (hM : MemoryCanonical s) : MemoryCanonical (refuseCopy s e) := hM

theorem tellBadPage_canonical (s : State) (ctx page : Nat) (vcs : List Nat) (f : AccFault) (hM : MemoryCanonical s) : MemoryCanonical (tellBadPage s ctx page vcs f) := hM

theorem pageWalk_canonical (s00 : State) (ctx page : Nat) (hM : MemoryCanonical s00) : MemoryCanonical (pageWalk s00 ctx page) := by
  unfold pageWalk
  repeat' first
    | with_reducible assumption | with_reducible apply modCore_canonical | with_reducible apply modDie_canonical
    | with_reducible apply walkReads_canonical | with_reducible apply orPte_canonical | with_reducible apply tellBadPage_canonical
    | with_reducible apply foldl_canonical | with_reducible apply foldlPair_canonical | with_reducible refine fst_canonical (by assumption) ?_
    | (intro _) | split | dsimp only [MemoryCanonical] | assumption

theorem setLoad_canonical (s : State) (t : Thread) (ins : Inst) (i : Nat) (st : LoadSt) (toks : List (Nat × Nat × Tok)) (hM : MemoryCanonical s) : MemoryCanonical (setLoad s t ins i st toks) := hM

theorem returnLoad_canonical (s : State) (t : Thread) (ins : Inst) (ws : List (Option Instr)) (i : Nat) (v : Nat) (hM : MemoryCanonical s) : MemoryCanonical (returnLoad s t ins ws i v) := hM

theorem returnGlobal_canonical (s : State) (t : Thread) (ins : Inst) (ws : List (Option Instr)) (l : LoadReq) (code : Nat) (acq : Bool) (hM : MemoryCanonical s) : MemoryCanonical (returnGlobal s t ins ws l code acq) := by
  unfold returnGlobal
  repeat' first
    | with_reducible assumption | with_reducible apply addMiss_canonical | with_reducible apply readGlobal_canonical
    | with_reducible apply acquireOn_canonical | with_reducible apply setLoad_canonical | with_reducible apply returnLoad_canonical
    | with_reducible refine fst_canonical (by assumption) ?_ | split | dsimp only [MemoryCanonical] | assumption

theorem returnScratch_canonical (s : State) (t : Thread) (ins : Inst) (ws : List (Option Instr)) (l : LoadReq) (code : Nat) (waits : Bool) (hM : MemoryCanonical s) : MemoryCanonical (returnScratch s t ins ws l code waits) := by
  unfold returnScratch
  repeat' first
    | with_reducible assumption | with_reducible apply setLoad_canonical | with_reducible apply returnLoad_canonical | split
    | dsimp only [MemoryCanonical] | assumption

theorem returnPeer_canonical (s : State) (t : Thread) (ins : Inst) (ws : List (Option Instr)) (l : LoadReq) (code : Nat) (hM : MemoryCanonical s) : MemoryCanonical (returnPeer s t ins ws l code) := by
  unfold returnPeer
  repeat' first
    | with_reducible assumption | with_reducible apply setLoad_canonical | with_reducible apply returnLoad_canonical | (intro _) | split
    | dsimp only [MemoryCanonical] | assumption

theorem loadReturn_canonical (s : State) (vc frame idx : Nat) (hM : MemoryCanonical s) : MemoryCanonical (loadReturn s vc frame idx) := by
  unfold loadReturn
  repeat' first
    | with_reducible assumption | with_reducible apply returnGlobal_canonical | with_reducible apply returnScratch_canonical
    | with_reducible apply returnPeer_canonical | (intro _) | split | dsimp only [MemoryCanonical] | assumption

/-! Tiles -/

theorem landStatus_canonical (s : State) (uid slot : Nat) (word : Nat) (hM : MemoryCanonical s) : MemoryCanonical (landStatus s uid slot word) := by
  unfold landStatus
  repeat' first
    | with_reducible assumption | with_reducible apply modThread_canonical | with_reducible apply landSlots_canonical | (intro _) | split
    | dsimp only [MemoryCanonical] | assumption

theorem modSlot_canonical (s : State) (vc p : Nat) (f : OpSlot → OpSlot) (hM : MemoryCanonical s) : MemoryCanonical (modSlot s vc p f) := hM

theorem modAcc_canonical (s : State) (vc n : Nat) (f : Tile → Tile) (hM : MemoryCanonical s) : MemoryCanonical (modAcc s vc n f) := hM

theorem modPt_canonical (s : State) (vc n : Nat) (f : Tile → Tile) (hM : MemoryCanonical s) : MemoryCanonical (modPt s vc n f) := hM

theorem dropOp_canonical (s : State) (vc id : Nat) (hM : MemoryCanonical s) : MemoryCanonical (dropOp s vc id) := hM

theorem fireBarren_canonical (s : State) (vc : Nat) (o : Op) (code : Nat) (hM : MemoryCanonical s) : MemoryCanonical (fireBarren s vc o code) := hM

theorem fireTile_canonical (s : State) (vc : Nat) (o : Op) (hM : MemoryCanonical s) : MemoryCanonical (fireTile s vc o) := by
  unfold fireTile
  repeat' first
    | with_reducible assumption | with_reducible apply modAcc_canonical | with_reducible apply modPt_canonical | with_reducible apply dropOp_canonical
    | with_reducible apply fireBarren_canonical | with_reducible apply foldl_canonical | with_reducible apply foldlPair_canonical
    | with_reducible refine fst_canonical (by assumption) ?_ | (intro _) | split | dsimp only [MemoryCanonical] | assumption

theorem fireOp_canonical (s : State) (vc : Nat) (o : Op) (hM : MemoryCanonical s) : MemoryCanonical (fireOp s vc o) := by
  unfold fireOp
  repeat' first
    | with_reducible assumption | with_reducible apply landStatus_canonical | with_reducible apply modAcc_canonical
    | with_reducible apply modPt_canonical | with_reducible apply dropOp_canonical | with_reducible apply fireTile_canonical
    | with_reducible apply foldl_canonical | with_reducible apply foldlPair_canonical | with_reducible refine fst_canonical (by assumption) ?_
    | (intro _) | split | dsimp only [MemoryCanonical] | assumption

theorem claimUnit_canonical (s : State) (vc ctx g gi : Nat) (u : EUnit) (hM : MemoryCanonical s) : MemoryCanonical (claimUnit s vc ctx g gi u) := by
  unfold claimUnit
  repeat' first
    | with_reducible assumption | with_reducible apply modAcc_canonical | with_reducible apply modPt_canonical | split | dsimp only [MemoryCanonical]
    | assumption

theorem applyClaim_canonical (s : State) (vc : Nat) (o : Op) (hM : MemoryCanonical s) : MemoryCanonical (applyClaim s vc o) := by
  unfold applyClaim
  repeat' first
    | with_reducible assumption | with_reducible apply modSlot_canonical | with_reducible apply modAcc_canonical
    | with_reducible apply modPt_canonical | with_reducible apply dropOp_canonical | with_reducible apply claimUnit_canonical
    | with_reducible apply foldl_canonical | with_reducible apply foldlPair_canonical | with_reducible refine fst_canonical (by assumption) ?_
    | (intro _) | split | dsimp only [MemoryCanonical] | assumption

theorem settleOps_canonical (s : State) (vc : Nat) (hM : MemoryCanonical s) : MemoryCanonical (settleOps s vc) := by
  unfold settleOps
  repeat' first
    | with_reducible assumption | with_reducible apply applyClaim_canonical | with_reducible apply foldl_canonical
    | with_reducible apply foldlPair_canonical | with_reducible refine fst_canonical (by assumption) ?_ | (intro _) | split
    | dsimp only [MemoryCanonical] | assumption

theorem storeAcc_canonical (s : State) (vc : Nat) (o : Op) (hM : MemoryCanonical s) : MemoryCanonical (storeAcc s vc o) := by
  unfold storeAcc
  repeat' first
    | with_reducible assumption | with_reducible apply spadWrite_canonical | with_reducible apply restoreLine_canonical
    | with_reducible apply landStatus_canonical | with_reducible apply dropOp_canonical | with_reducible apply foldl_canonical
    | with_reducible apply foldlPair_canonical | with_reducible refine fst_canonical (by assumption) ?_ | (intro _) | split
    | dsimp only [MemoryCanonical] | assumption

theorem landTfence_canonical (s : State) (vc : Nat) (o : Op) (hM : MemoryCanonical s) : MemoryCanonical (landTfence s vc o) := by
  unfold landTfence
  repeat' first
    | with_reducible assumption | with_reducible apply modGroup_canonical | with_reducible apply modCore_canonical
    | with_reducible apply landStatus_canonical | with_reducible apply dropOp_canonical | (intro _) | split | dsimp only [MemoryCanonical]
    | assumption

/-! Copies -/

theorem modRing_canonical (s : State) (vc grid v : Nat) (f : Ring → Ring) (hM : MemoryCanonical s) : MemoryCanonical (modRing s vc grid v f) := hM

theorem modCopy_canonical (s : State) (vc id : Nat) (f : Copy → Copy) (hM : MemoryCanonical s) : MemoryCanonical (modCopy s vc id f) := hM

theorem copyXlat_canonical (s : State) (vc ctx grid va : Nat) (need : Need) (hM : MemoryCanonical s) : MemoryCanonical (copyXlat s vc ctx grid va need).1 := by
  unfold copyXlat
  repeat' first
    | with_reducible assumption | with_reducible apply modCore_canonical | with_reducible apply modDie_canonical
    | with_reducible apply walkReads_canonical | with_reducible apply orPte_canonical | (intro _) | split | dsimp only [MemoryCanonical] | assumption

theorem copyMigrate_canonical (s : State) (ctx va : Nat) (hM : MemoryCanonical s) : MemoryCanonical (copyMigrate s ctx va) := by
  unfold copyMigrate
  repeat' first
    | with_reducible assumption | with_reducible apply postEvent_canonical | split | dsimp only [MemoryCanonical] | assumption

theorem readLayout_canonical (s : State) (vc ctx grid uid dn : Nat) (own : Runs) (hM : MemoryCanonical s) : MemoryCanonical (readLayout s vc ctx grid uid dn own).1 := by
  unfold readLayout
  repeat' first
    | with_reducible assumption | with_reducible apply touchLine_canonical | with_reducible apply copyXlat_canonical
    | with_reducible apply foldl_canonical | with_reducible apply foldlPair_canonical | with_reducible apply foldlReading_canonical
    | with_reducible apply foldlPutting_canonical | with_reducible refine fst_canonical (by assumption) ?_ | (intro _) | split
    | dsimp only [MemoryCanonical] | assumption

theorem trimCleared_canonical (s : State) (vc : Nat) (c : Copy) (r : Option (BitVec 512)) (hM : MemoryCanonical s) : MemoryCanonical (trimCleared s vc c r) := by
  unfold trimCleared
  repeat' first
    | with_reducible assumption | with_reducible apply restoreLine_canonical | with_reducible apply modCopy_canonical
    | with_reducible apply foldl_canonical | with_reducible apply foldlPair_canonical | with_reducible apply foldlReading_canonical
    | with_reducible apply foldlPutting_canonical | with_reducible refine fst_canonical (by assumption) ?_ | (intro _) | split
    | dsimp only [MemoryCanonical] | assumption

theorem rereadCopy_canonical (s : State) (vc : Nat) (c : Copy) (hM : MemoryCanonical s) : MemoryCanonical (rereadCopy s vc c) := by
  unfold rereadCopy
  repeat' first
    | with_reducible assumption | with_reducible apply modCopy_canonical | with_reducible apply copyMigrate_canonical
    | with_reducible apply readLayout_canonical | with_reducible apply trimCleared_canonical | with_reducible refine fst_canonical (by assumption) ?_
    | (intro _) | split | dsimp only [MemoryCanonical] | assumption

theorem startEffects_canonical (s : State) (vc : Nat) (c : Copy) (hM : MemoryCanonical s) : MemoryCanonical (startEffects s vc c) := by
  unfold startEffects
  repeat' first
    | with_reducible assumption | with_reducible apply clearLine_canonical | with_reducible apply modSlot_canonical
    | with_reducible apply modRing_canonical | with_reducible apply modCopy_canonical | with_reducible apply foldl_canonical
    | with_reducible apply foldlPair_canonical | with_reducible apply foldlReading_canonical | with_reducible apply foldlPutting_canonical
    | with_reducible refine fst_canonical (by assumption) ?_ | (intro _) | split | dsimp only [MemoryCanonical] | assumption

theorem stopCopy_canonical (s : State) (vc id code clip : Nat) (hM : MemoryCanonical s) : MemoryCanonical (stopCopy s vc id code clip) := hM

theorem refuseFlow_canonical (s : State) (vc : Nat) (c : Copy) (va clip : Nat) (hM : MemoryCanonical s) : MemoryCanonical (refuseFlow s vc c va clip) := by
  unfold refuseFlow
  repeat' first
    | with_reducible assumption | with_reducible apply postEvent_canonical | with_reducible apply stopCopy_canonical | split
    | dsimp only [MemoryCanonical] | assumption

theorem startCopy_canonical (s : State) (vc eng : Nat) (c : Copy) (hM : MemoryCanonical s) : MemoryCanonical (startCopy s vc eng c) := by
  unfold startCopy
  repeat' first
    | with_reducible assumption | with_reducible apply openChannel_canonical | with_reducible apply modCopy_canonical
    | with_reducible apply startEffects_canonical | with_reducible apply refuseFlow_canonical | with_reducible refine fst_canonical (by assumption) ?_
    | (intro _) | split | dsimp only [MemoryCanonical] | assumption

theorem Reading.start_canonical (s : State) (hM : MemoryCanonical s) : MemoryCanonical (Reading.start s).s := hM

theorem elemPage_canonical (g : Reading) (vc : Nat) (c : Copy) (va n : Nat) (need : Need) (hM : MemoryCanonical g.s) : MemoryCanonical (elemPage g vc c va n need).1.s := by
  unfold elemPage
  repeat' first
    | with_reducible assumption | with_reducible apply copyXlat_canonical | with_reducible refine fst_canonical (by assumption) ?_ | (intro _) | split
    | dsimp only [MemoryCanonical] | assumption

theorem sourceLine_canonical (g : Reading) (vc mt line : Nat) (hM : MemoryCanonical g.s) : MemoryCanonical (sourceLine g vc mt line).1.s := by
  unfold sourceLine
  repeat' first
    | with_reducible assumption | with_reducible apply touchLine_canonical | (intro _) | split | dsimp only [MemoryCanonical] | assumption

theorem sourceBytes_canonical (g : Reading) (vc : Nat) (c : Copy) (va n : Nat) (hM : MemoryCanonical g.s) : MemoryCanonical (sourceBytes g vc c va n).1.s := by
  unfold sourceBytes
  repeat' first
    | with_reducible assumption | with_reducible apply elemPage_canonical | with_reducible apply sourceLine_canonical
    | with_reducible refine fst_canonical (by assumption) ?_ | with_reducible refine fstReading_canonical (by assumption) ?_ | split
    | dsimp only [MemoryCanonical] | assumption

theorem readElem_canonical (vc : Nat) (l : Lay) (c : Copy) (g : Reading) (e : List Int) (hM : MemoryCanonical g.s) : MemoryCanonical (readElem vc l c g e).s := by
  unfold readElem
  repeat' first
    | with_reducible assumption | with_reducible apply sourceBytes_canonical | with_reducible refine fst_canonical (by assumption) ?_
    | with_reducible refine fstReading_canonical (by assumption) ?_ | split | dsimp only [MemoryCanonical] | assumption

theorem dropReply_canonical (s : State) (r : PeerReply) (hM : MemoryCanonical s) : MemoryCanonical (dropReply s r) := hM

theorem readChannel_canonical (s : State) (vc : Nat) (l : Lay) (c : Copy) (es : List (List Int)) (hM : MemoryCanonical s) : MemoryCanonical (readChannel s vc l c es).s := by
  unfold readChannel
  repeat' first
    | with_reducible assumption | with_reducible apply postEvent_canonical | with_reducible apply openChannel_canonical
    | with_reducible apply dropReply_canonical | with_reducible refine fst_canonical (by assumption) ?_ | (intro _) | split
    | dsimp only [MemoryCanonical] | assumption

theorem readChunk_canonical (s : State) (vc : Nat) (l : Lay) (c : Copy) (hM : MemoryCanonical s) : MemoryCanonical (readChunk s vc l c).s := by
  unfold readChunk
  repeat' first
    | with_reducible assumption | with_reducible apply readElem_canonical | with_reducible apply readChannel_canonical
    | with_reducible apply foldl_canonical | with_reducible apply foldlPair_canonical | with_reducible apply foldlReading_canonical
    | with_reducible apply foldlPutting_canonical | with_reducible refine fst_canonical (by assumption) ?_ | (intro _) | split
    | dsimp only [MemoryCanonical] | assumption

theorem writeSpad_canonical (s : State) (vc p : Nat) (l : Lay) (c : Copy) (vals : List Nat) (hM : MemoryCanonical s) : MemoryCanonical (writeSpad s vc p l c vals) := hM

theorem lineDone_canonical (s : State) (vc id line : Nat) (hM : MemoryCanonical s) : MemoryCanonical (lineDone s vc id line) := by
  unfold lineDone
  repeat' first
    | with_reducible assumption | with_reducible apply restoreLine_canonical | with_reducible apply modCopy_canonical | (intro _) | split
    | dsimp only [MemoryCanonical] | assumption

theorem writeChunk_canonical (s : State) (vc : Nat) (l : Lay) (c : Copy) (vals : List Nat) (hM : MemoryCanonical s) : MemoryCanonical (writeChunk s vc l c vals) := by
  unfold writeChunk
  repeat' first
    | with_reducible assumption | with_reducible apply restoreLine_canonical | with_reducible apply writeSpad_canonical
    | with_reducible apply lineDone_canonical | with_reducible apply foldl_canonical | with_reducible apply foldlPair_canonical
    | with_reducible apply foldlReading_canonical | with_reducible apply foldlPutting_canonical
    | with_reducible refine fst_canonical (by assumption) ?_ | (intro _) | split | dsimp only [MemoryCanonical] | assumption

theorem readSide_canonical (vc : Nat) (l : Lay) (c : Copy) (fmt : Nat) (e : List Int) (g : Reading) (k : Nat) (hM : MemoryCanonical g.s) : MemoryCanonical (readSide vc l c fmt e g k).s := by
  unfold readSide
  repeat' first
    | with_reducible assumption | with_reducible apply sourceBytes_canonical | with_reducible refine fst_canonical (by assumption) ?_
    | with_reducible refine fstReading_canonical (by assumption) ?_ | (intro _) | split | dsimp only [MemoryCanonical] | assumption

theorem readSides_canonical (vc : Nat) (l : Lay) (c : Copy) (g : Reading) (hM : MemoryCanonical g.s) : MemoryCanonical (readSides vc l c g).s := by
  unfold readSides
  repeat' first
    | with_reducible assumption | with_reducible apply readSide_canonical | with_reducible apply foldl_canonical
    | with_reducible apply foldlPair_canonical | with_reducible apply foldlReading_canonical | with_reducible apply foldlPutting_canonical
    | with_reducible refine fst_canonical (by assumption) ?_ | (intro _) | split | dsimp only [MemoryCanonical] | assumption

theorem writeTile_canonical (s : State) (vc : Nat) (l : Lay) (c : Copy) (vals side : List Nat) (hM : MemoryCanonical s) : MemoryCanonical (writeTile s vc l c vals side) := by
  unfold writeTile
  repeat' first
    | with_reducible assumption | with_reducible apply modSlot_canonical | with_reducible apply modCopy_canonical | (intro _) | split
    | dsimp only [MemoryCanonical] | assumption

theorem putElem_canonical (vc : Nat) (l : Lay) (c : Copy) (x : Putting) (ev : List Int × Nat) (hM : MemoryCanonical x.g.s) : MemoryCanonical (putElem vc l c x ev).g.s := by
  unfold putElem
  repeat' first
    | with_reducible assumption | with_reducible apply elemPage_canonical | with_reducible apply foldl_canonical
    | with_reducible apply foldlPair_canonical | with_reducible apply foldlReading_canonical | with_reducible apply foldlPutting_canonical
    | with_reducible refine fst_canonical (by assumption) ?_ | with_reducible refine fstReading_canonical (by assumption) ?_ | (intro _) | split
    | dsimp only [MemoryCanonical] | assumption

theorem copyEffect_canonical (s : State) (vc : Nat) (c : Copy) (kind : EffKind) (mt : Nat) (bs : List (Nat × Byte)) (hM : MemoryCanonical s) : MemoryCanonical (copyEffect s vc c kind mt bs) := by
  unfold copyEffect
  repeat' first
    | with_reducible assumption | with_reducible apply fresh_canonical | with_reducible refine fst_canonical (by assumption) ?_
    | with_reducible refine snd_canonical (by assumption) ?_ | split | dsimp only [MemoryCanonical] | assumption

/-- The state that a merge of puts carries. -/
def Merged.keeps : Merged → Prop
  | .wait s | .refused s | .bytes s _ => MemoryCanonical s

theorem mergePuts_keeps (s : State) (vc : Nat) (c : Copy) (puts : List BytePut) (hM : MemoryCanonical s) : (mergePuts s vc c puts).keeps := by
  unfold mergePuts
  repeat' first
    | exact hM | exact postEvent_canonical _ _ (dropReply_canonical _ _ hM) | exact dropReply_canonical _ _ hM
    | exact openChannel_canonical _ _ _ hM | exact postEvent_canonical _ _ (openChannel_canonical _ _ _ hM) | split | dsimp only

theorem mergePuts_bytes_canonical {s : State} {vc : Nat} {c : Copy} {puts : List BytePut} {s1 : State} {bs : List (Nat × Nat × Byte)}
    (e : mergePuts s vc c puts = .bytes s1 bs) (hM : MemoryCanonical s) : MemoryCanonical s1 := by
  have h := mergePuts_keeps s vc c puts hM; rw [e] at h; exact h

theorem mergePuts_wait_canonical {s : State} {vc : Nat} {c : Copy} {puts : List BytePut} {s1 : State}
    (e : mergePuts s vc c puts = .wait s1) (hM : MemoryCanonical s) : MemoryCanonical s1 := by
  have h := mergePuts_keeps s vc c puts hM; rw [e] at h; exact h

theorem mergePuts_refused_canonical {s : State} {vc : Nat} {c : Copy} {puts : List BytePut} {s1 : State}
    (e : mergePuts s vc c puts = .refused s1) (hM : MemoryCanonical s) : MemoryCanonical s1 := by
  have h := mergePuts_keeps s vc c puts hM; rw [e] at h; exact h

theorem endReading_canonical (g : Reading) (vc : Nat) (c : Copy) (hM : MemoryCanonical g.s) : MemoryCanonical (endReading g vc c) := by
  unfold endReading
  repeat' first
    | with_reducible assumption | with_reducible apply modCopy_canonical | with_reducible apply copyMigrate_canonical
    | with_reducible apply stopCopy_canonical | (intro _) | split | dsimp only [MemoryCanonical] | assumption

theorem advance_canonical (s : State) (vc id n clip : Nat) (hM : MemoryCanonical s) : MemoryCanonical (advance s vc id n clip) := hM

theorem putEffects_canonical (s : State) (vc : Nat) (c : Copy) (bs : List (Nat × Nat × Byte)) (hM : MemoryCanonical s) : MemoryCanonical (putEffects s vc c bs).1 := by
  unfold putEffects
  repeat' first
    | with_reducible assumption | with_reducible apply openChannel_canonical | with_reducible apply bumpFlow_canonical
    | with_reducible apply copyEffect_canonical | with_reducible apply foldl_canonical | with_reducible apply foldlPair_canonical
    | with_reducible apply foldlReading_canonical | with_reducible apply foldlPutting_canonical
    | with_reducible refine fst_canonical (by assumption) ?_ | (intro _) | split | dsimp only [MemoryCanonical] | assumption

theorem storeStep_canonical (s : State) (vc : Nat) (l : Lay) (c : Copy) (hM : MemoryCanonical s) : MemoryCanonical (storeStep s vc l c) := by
  unfold storeStep
  repeat' first
    | with_reducible assumption | with_reducible apply stopCopy_canonical | with_reducible apply endReading_canonical
    | with_reducible apply putElem_canonical | with_reducible refine mergePuts_bytes_canonical (by assumption) ?_
    | with_reducible refine mergePuts_refused_canonical (by assumption) ?_ | with_reducible apply putEffects_canonical | with_reducible apply refuseFlow_canonical
    | with_reducible refine mergePuts_wait_canonical (by assumption) ?_ | with_reducible refine fst_canonical (by assumption) ?_
    | with_reducible apply advance_canonical | with_reducible apply foldlPutting_canonical | (intro _) | split
    | dsimp only [MemoryCanonical] | assumption

theorem loadStep_canonical (s : State) (vc : Nat) (l : Lay) (c : Copy) (hM : MemoryCanonical s) : MemoryCanonical (loadStep s vc l c) := by
  unfold loadStep
  repeat' first
    | with_reducible assumption | with_reducible apply readChunk_canonical | with_reducible apply writeChunk_canonical
    | with_reducible apply readSides_canonical | with_reducible apply writeTile_canonical | with_reducible apply endReading_canonical
    | with_reducible apply advance_canonical | split | dsimp only [MemoryCanonical] | assumption

theorem copyStep_canonical (s : State) (vc : Nat) (c : Copy) (hM : MemoryCanonical s) : MemoryCanonical (copyStep s vc c) := by
  unfold copyStep
  repeat' first
    | with_reducible assumption | with_reducible apply storeStep_canonical | with_reducible apply loadStep_canonical | split
    | dsimp only [MemoryCanonical] | assumption

theorem endCopy_canonical (s : State) (vc : Nat) (c : Copy) (hM : MemoryCanonical s) : MemoryCanonical (endCopy s vc c) := by
  unfold endCopy
  repeat' first
    | with_reducible assumption | with_reducible apply modCore_canonical | with_reducible apply restoreLine_canonical
    | with_reducible apply freeFrames_canonical | with_reducible apply landStatus_canonical | with_reducible apply modSlot_canonical
    | with_reducible apply settleOps_canonical | with_reducible apply foldl_canonical | with_reducible apply foldlPair_canonical
    | with_reducible apply foldlReading_canonical | with_reducible apply foldlPutting_canonical
    | with_reducible refine fst_canonical (by assumption) ?_ | (intro _) | split | dsimp only [MemoryCanonical] | assumption

theorem permitVolley_canonical (s : State) (vc : Nat) (c : Copy) (hM : MemoryCanonical s) : MemoryCanonical (permitVolley s vc c) := by
  unfold permitVolley
  repeat' first
    | with_reducible assumption | with_reducible apply modRing_canonical | with_reducible apply modCopy_canonical
    | with_reducible apply endCopy_canonical | with_reducible apply foldl_canonical | with_reducible apply foldlPair_canonical
    | with_reducible apply foldlReading_canonical | with_reducible apply foldlPutting_canonical
    | with_reducible refine fst_canonical (by assumption) ?_ | (intro _) | split | dsimp only [MemoryCanonical] | assumption

/-! Launch -/

theorem setHead_canonical (s : State) (ctx : Nat) (h : QHead) (hM : MemoryCanonical s) : MemoryCanonical (setHead s ctx h) := hM

theorem queueFault_canonical (s : State) (ctx q : Nat) (hM : MemoryCanonical s) : MemoryCanonical (queueFault s ctx q) := by
  unfold queueFault
  repeat' first
    | with_reducible assumption | with_reducible apply postEvent_canonical | split | dsimp only [MemoryCanonical] | assumption

theorem disableQueue_canonical (s : State) (c : Ctx) (q : Nat) (h : QHead) (hM : MemoryCanonical s) : MemoryCanonical (disableQueue s c q h) := by
  unfold disableQueue
  repeat' first
    | with_reducible assumption | with_reducible apply hubPut_canonical | with_reducible apply hubTranslate_canonical
    | with_reducible apply setHead_canonical | with_reducible apply queueFault_canonical | with_reducible refine fst_canonical (by assumption) ?_
    | split | dsimp only [MemoryCanonical] | assumption

theorem passHead_canonical (s : State) (c : Ctx) (h : QHead) (hM : MemoryCanonical s) : MemoryCanonical (passHead s c h) := by
  unfold passHead
  repeat' first
    | with_reducible assumption | with_reducible apply modCtx_canonical | with_reducible apply hubWriteVa_canonical
    | with_reducible apply setHead_canonical | with_reducible apply queueFault_canonical | with_reducible refine fst_canonical (by assumption) ?_
    | (intro _) | split | dsimp only [MemoryCanonical] | assumption

theorem refuseRecord_canonical (s : State) (c : Ctx) (h : QHead) (code : Nat) (hM : MemoryCanonical s) : MemoryCanonical (refuseRecord s c h code) := by
  unfold refuseRecord
  repeat' first
    | with_reducible assumption | with_reducible apply postEvent_canonical | with_reducible apply passHead_canonical | split
    | dsimp only [MemoryCanonical] | assumption

theorem waitsHold_canonical (s : State) (ctx : Nat) (r : BitVec 512) (seen : Option (Nat × BitVec 64)) (hM : MemoryCanonical s) : MemoryCanonical (waitsHold s ctx r seen).1 := by
  unfold waitsHold
  repeat' first
    | with_reducible assumption | with_reducible apply signalValue_canonical | with_reducible apply foldl_canonical
    | with_reducible apply foldlPair_canonical | with_reducible refine fst_canonical (by assumption) ?_ | (intro _) | split
    | dsimp only [MemoryCanonical] | assumption

theorem takeHead_canonical (s : State) (c : Ctx) (h : QHead) (r : BitVec 512) (hM : MemoryCanonical s) : MemoryCanonical (takeHead s c h r) := by
  unfold takeHead
  repeat' first
    | with_reducible assumption | with_reducible apply setHead_canonical | with_reducible apply refuseRecord_canonical
    | with_reducible apply waitsHold_canonical | with_reducible refine fst_canonical (by assumption) ?_ | split | dsimp only [MemoryCanonical]
    | assumption

theorem workHead_canonical (s : State) (c : Ctx) (q : Nat) (h : QHead) (hM : MemoryCanonical s) : MemoryCanonical (workHead s c q h) := by
  unfold workHead
  repeat' first
    | with_reducible assumption | with_reducible apply hubReadVa_canonical | with_reducible apply signalValue_canonical
    | with_reducible apply setHead_canonical | with_reducible apply disableQueue_canonical | with_reducible apply refuseRecord_canonical
    | with_reducible apply takeHead_canonical | with_reducible refine fst_canonical (by assumption) ?_ | split | dsimp only [MemoryCanonical]
    | assumption

theorem recordReachesHead_canonical (s : State) (ctx q : Nat) (hM : MemoryCanonical s) : MemoryCanonical (recordReachesHead s ctx q) := by
  unfold recordReachesHead
  repeat' first
    | with_reducible assumption | with_reducible apply fresh_canonical | with_reducible apply takeHead_canonical
    | with_reducible apply workHead_canonical | with_reducible refine fst_canonical (by assumption) ?_
    | with_reducible refine snd_canonical (by assumption) ?_ | split | dsimp only [MemoryCanonical] | assumption

theorem takeUnits_canonical (s : State) (vc ctx base n : Nat) (hM : MemoryCanonical s) : MemoryCanonical (takeUnits s vc ctx base n) := by
  unfold takeUnits
  repeat' first
    | with_reducible assumption | with_reducible apply modStore_canonical | with_reducible apply foldl_canonical
    | with_reducible apply foldlPair_canonical | with_reducible refine fst_canonical (by assumption) ?_ | (intro _) | split
    | dsimp only [MemoryCanonical] | assumption

theorem takeSlots_canonical (s : State) (vc ctx : Nat) (l : List Nat) (hM : MemoryCanonical s) : MemoryCanonical (takeSlots s vc ctx l) := by
  unfold takeSlots
  repeat' first
    | with_reducible assumption | with_reducible apply modStore_canonical | with_reducible apply foldl_canonical
    | with_reducible apply foldlPair_canonical | with_reducible refine fst_canonical (by assumption) ?_ | (intro _) | split
    | dsimp only [MemoryCanonical] | assumption

theorem acceptGroup_canonical (s : State) (g : Grid) (gi vd vc : Nat) (hM : MemoryCanonical s) : MemoryCanonical (acceptGroup s g gi vd vc) := by
  unfold acceptGroup
  repeat' first
    | with_reducible assumption | with_reducible apply fresh_canonical | with_reducible apply takeUnits_canonical
    | with_reducible apply takeSlots_canonical | with_reducible refine fst_canonical (by assumption) ?_
    | with_reducible refine snd_canonical (by assumption) ?_ | (intro _) | split | dsimp only [MemoryCanonical] | assumption

theorem putSlotsBack_canonical (s : State) (vc ctx : Nat) (l : List (Nat × OpSlot)) (hM : MemoryCanonical s) : MemoryCanonical (putSlotsBack s vc ctx l) := by
  unfold putSlotsBack
  repeat' first
    | with_reducible assumption | with_reducible apply modStore_canonical | with_reducible apply foldl_canonical
    | with_reducible apply foldlPair_canonical | with_reducible refine fst_canonical (by assumption) ?_ | (intro _) | split
    | dsimp only [MemoryCanonical] | assumption

theorem freeDugout_canonical (s : State) (k : Nat) (hM : MemoryCanonical s) : MemoryCanonical (freeDugout s k) := hM

theorem restoreTo_canonical (s : State) (gr : Group) (sv : Saved) (vc : Nat) (hM : MemoryCanonical s) : MemoryCanonical (restoreTo s gr sv vc) := by
  unfold restoreTo
  repeat' first
    | with_reducible assumption | with_reducible apply modGroup_canonical | with_reducible apply modCore_canonical
    | with_reducible apply modStore_canonical | with_reducible apply setWaiting_canonical | with_reducible apply acquireOn_canonical
    | with_reducible apply takeUnits_canonical | with_reducible apply putSlotsBack_canonical | with_reducible apply freeDugout_canonical
    | with_reducible apply foldl_canonical | with_reducible apply foldlPair_canonical | with_reducible refine fst_canonical (by assumption) ?_
    | (intro _) | split | dsimp only [MemoryCanonical] | assumption

theorem closeGrids_canonical (s : State) (hM : MemoryCanonical s) : MemoryCanonical (closeGrids s) := hM

theorem releaseUnits_canonical (s : State) (vc grid gi : Nat) (hM : MemoryCanonical s) : MemoryCanonical (releaseUnits s vc grid gi) := hM

theorem flushScratch_canonical (s : State) (gr : Group) (hM : MemoryCanonical s) : MemoryCanonical (flushScratch s gr) := by
  unfold flushScratch
  repeat' first
    | with_reducible assumption | with_reducible apply modEffect_canonical | with_reducible apply actAtBank_canonical
    | with_reducible apply foldl_canonical | with_reducible apply foldlPair_canonical | with_reducible refine fst_canonical (by assumption) ?_
    | (intro _) | split | dsimp only [MemoryCanonical] | assumption

theorem forgetLost_canonical (s : State) (gr : Group) (hM : MemoryCanonical s) : MemoryCanonical (forgetLost s gr) := hM

theorem freeGroup_canonical (s : State) (gr : Group) (hM : MemoryCanonical s) : MemoryCanonical (freeGroup s gr) := by
  unfold freeGroup
  repeat' first
    | with_reducible assumption | with_reducible apply settleOps_canonical | with_reducible apply freeDugout_canonical
    | with_reducible apply releaseUnits_canonical | with_reducible apply flushScratch_canonical | with_reducible apply forgetLost_canonical
    | (intro _) | split | dsimp only [MemoryCanonical] | assumption

theorem retireGroup_canonical (s : State) (gr : Group) (hM : MemoryCanonical s) : MemoryCanonical (retireGroup s gr) := by
  unfold retireGroup
  repeat' first
    | with_reducible assumption | with_reducible apply modGrid_canonical | with_reducible apply closeGrids_canonical
    | with_reducible apply freeGroup_canonical | (intro _) | split | dsimp only [MemoryCanonical] | assumption

theorem provisionalDone_canonical (s : State) (gr : Group) (hM : MemoryCanonical s) : MemoryCanonical (provisionalDone s gr) := hM

theorem decrementSignal_canonical (s : State) (ctx n : Nat) (hM : MemoryCanonical s) : MemoryCanonical (decrementSignal s ctx n) := by
  unfold decrementSignal
  repeat' first
    | with_reducible assumption | with_reducible apply hubPut_canonical | with_reducible apply hubTranslate_canonical
    | with_reducible apply watchSignal_canonical | with_reducible refine fst_canonical (by assumption) ?_ | (intro _) | split
    | dsimp only [MemoryCanonical] | assumption

theorem tableFault_canonical (s : State) (ctx addr data : Nat) (hM : MemoryCanonical s) : MemoryCanonical (tableFault s ctx addr data) := by
  unfold tableFault
  repeat' first
    | with_reducible assumption | with_reducible apply postEvent_canonical | split | dsimp only [MemoryCanonical] | assumption

theorem updatePredictor_canonical (s : State) (c : Ctx) (raw : BitVec 512) (t : Nat) (counts exact : Bool) (hM : MemoryCanonical s) : MemoryCanonical (updatePredictor s c raw t counts exact) := by
  unfold updatePredictor
  repeat' first
    | with_reducible assumption | with_reducible apply hubPut_canonical | with_reducible apply hubTouch_canonical
    | with_reducible apply setStalls_canonical | with_reducible apply hubTranslate_canonical | with_reducible apply requestPages_canonical
    | with_reducible apply tableFault_canonical | with_reducible refine fst_canonical (by assumption) ?_ | split | dsimp only [MemoryCanonical]
    | assumption

theorem squashGroup_canonical (s : State) (gr : Group) (hM : MemoryCanonical s) : MemoryCanonical (squashGroup s gr) := by
  unfold squashGroup
  repeat' first
    | with_reducible assumption | with_reducible apply fresh_canonical | with_reducible apply modGroup_canonical
    | with_reducible apply settleEntries_canonical | with_reducible apply abortInst_canonical | with_reducible apply foldl_canonical
    | with_reducible apply foldlPair_canonical | with_reducible refine fst_canonical (by assumption) ?_
    | with_reducible refine snd_canonical (by assumption) ?_ | (intro _) | split | dsimp only [MemoryCanonical] | assumption

theorem settleShape_canonical (s : State) (gid count : Nat) (hM : MemoryCanonical s) : MemoryCanonical (settleShape s gid count) := by
  unfold settleShape
  repeat' first
    | with_reducible assumption | with_reducible apply retireGroup_canonical | with_reducible apply squashGroup_canonical
    | with_reducible apply foldl_canonical | with_reducible apply foldlPair_canonical | with_reducible refine fst_canonical (by assumption) ?_
    | (intro _) | split | dsimp only [MemoryCanonical] | assumption

theorem shapeFault_canonical (s : State) (g : Grid) (cause data : Nat) (hM : MemoryCanonical s) : MemoryCanonical (shapeFault s g cause data) := by
  unfold shapeFault
  repeat' first
    | with_reducible assumption | with_reducible apply modGrid_canonical | with_reducible apply postEvent_canonical
    | with_reducible apply closeGrids_canonical | with_reducible apply settleShape_canonical | (intro _) | split | dsimp only [MemoryCanonical]
    | assumption

theorem shapePoint_canonical (s : State) (g : Grid) (w : BitVec 64) (hM : MemoryCanonical s) : MemoryCanonical (shapePoint s g w) := by
  unfold shapePoint
  repeat' first
    | with_reducible assumption | with_reducible apply modGrid_canonical | with_reducible apply wantConf_canonical
    | with_reducible apply closeGrids_canonical | with_reducible apply updatePredictor_canonical | with_reducible apply settleShape_canonical
    | with_reducible apply shapeFault_canonical | with_reducible apply foldl_canonical | with_reducible apply foldlPair_canonical
    | with_reducible refine fst_canonical (by assumption) ?_ | (intro _) | split | dsimp only [MemoryCanonical] | assumption

theorem zeroRange_canonical (c : Ctx) (cid : Nat) : ∀ (k : Nat) (s : State) (va n : Nat), MemoryCanonical s → MemoryCanonical (zeroRange c cid k s va n).1
  | 0, _, _, _, h => h
  | k + 1, s, va, n, h => by
    unfold zeroRange
    dsimp only
    split
    · exact h
    · apply zeroRange_canonical c cid k
      split
      · exact hubPut_canonical _ _ _ _ (hubTranslate_canonical _ _ _ _ _ h)
      · exact hubTranslate_canonical _ _ _ _ _ h

theorem zeroShare_canonical (s : State) (g : Grid) (gi : Nat) (hM : MemoryCanonical s) : MemoryCanonical (zeroShare s g gi) := by
  unfold zeroShare
  repeat' first
    | with_reducible assumption | with_reducible apply tableFault_canonical | with_reducible apply zeroRange_canonical
    | with_reducible refine fst_canonical (by assumption) ?_ | (intro _) | split | dsimp only [MemoryCanonical] | assumption

theorem readTable_canonical (s : State) (c : Ctx) (cid : Nat) (va : Int) (n : Nat) (hM : MemoryCanonical s) : MemoryCanonical (readTable s c cid va n).1 := by
  unfold readTable
  repeat' first
    | with_reducible assumption | with_reducible apply hubReadVa_canonical | with_reducible refine fst_canonical (by assumption) ?_ | split
    | dsimp only [MemoryCanonical] | assumption

theorem specStart_canonical (s : State) (c : Ctx) (raw : BitVec 512) (hM : MemoryCanonical s) : MemoryCanonical (specStart s c raw).1 := by
  unfold specStart
  repeat' first
    | with_reducible assumption | with_reducible apply hubReadVa_canonical | with_reducible apply signalValue_canonical
    | with_reducible apply tableFault_canonical | with_reducible refine fst_canonical (by assumption) ?_ | (intro _) | split
    | dsimp only [MemoryCanonical] | assumption

theorem knownShape_canonical (s : State) (c : Ctx) (gid : Nat) (w : BitVec 64) (hM : MemoryCanonical s) : MemoryCanonical (knownShape s c gid w) := by
  unfold knownShape
  repeat' first
    | with_reducible assumption | with_reducible apply modGrid_canonical | with_reducible apply closeGrids_canonical
    | with_reducible apply updatePredictor_canonical | with_reducible apply shapeFault_canonical | (intro _) | split | dsimp only [MemoryCanonical]
    | assumption

theorem releaseHead_canonical (s : State) (c : Ctx) (h : QHead) (raw : BitVec 512) (hM : MemoryCanonical s) : MemoryCanonical (releaseHead s c h raw) := by
  unfold releaseHead
  repeat' first
    | with_reducible assumption | with_reducible apply fresh_canonical | with_reducible apply passHead_canonical
    | with_reducible apply refuseRecord_canonical | with_reducible apply closeGrids_canonical | with_reducible apply readTable_canonical
    | with_reducible apply specStart_canonical | with_reducible apply knownShape_canonical | with_reducible refine fst_canonical (by assumption) ?_
    | with_reducible refine snd_canonical (by assumption) ?_ | (intro _) | split | dsimp only [MemoryCanonical] | assumption

theorem releaseFirst_canonical : ∀ (k : Nat) (l : List (Ctx × QHead × BitVec 512)) (s : State), MemoryCanonical s → MemoryCanonical (releaseFirst k l s)
  | 0, _, _, h => h
  | k + 1, l, s, h => by
    unfold releaseFirst
    split
    · exact h
    · dsimp only
      have h1 : ∀ c q r, MemoryCanonical (releaseHead (setStalls s []) c q r) := fun c q r => releaseHead_canonical _ _ _ _ (setStalls_canonical _ _ h)
      split
      · exact releaseFirst_canonical k _ _ (requestPages_canonical _ _ (setStalls_canonical _ _ h))
      · exact h1 _ _ _

theorem checkTail_canonical (s : State) (c : Ctx) (h : QHead) (v : BitVec 64) (hM : MemoryCanonical s) : MemoryCanonical (checkTail s c h v) := by
  unfold checkTail
  repeat' first
    | with_reducible assumption | with_reducible apply hubReadVa_canonical | with_reducible apply setHead_canonical
    | with_reducible apply disableQueue_canonical | with_reducible refine fst_canonical (by assumption) ?_ | split | dsimp only [MemoryCanonical]
    | assumption

theorem observeHead_canonical (s : State) (c : Ctx) (h : QHead) (n : Nat) (v : BitVec 64) (hM : MemoryCanonical s) : MemoryCanonical (observeHead s c h n v) := by
  unfold observeHead
  repeat' first
    | with_reducible assumption | with_reducible apply setHead_canonical | with_reducible apply waitsHold_canonical
    | with_reducible apply checkTail_canonical | with_reducible refine fst_canonical (by assumption) ?_ | (intro _) | split
    | dsimp only [MemoryCanonical] | assumption

theorem fireNotify_canonical (s : State) (ctx n : Nat) (v : BitVec 64) (hM : MemoryCanonical s) : MemoryCanonical (fireNotify s ctx n v) := hM

theorem observeShape_canonical (s : State) (g : Grid) (n : Nat) (v : BitVec 64) (hM : MemoryCanonical s) : MemoryCanonical (observeShape s g n v) := by
  unfold observeShape
  repeat' first
    | with_reducible assumption | with_reducible apply modGrid_canonical | with_reducible apply shapePoint_canonical | (intro _) | split
    | dsimp only [MemoryCanonical] | assumption

theorem observeSignal_canonical (s : State) (ctx n : Nat) (v : BitVec 64) (hM : MemoryCanonical s) : MemoryCanonical (observeSignal s ctx n v) := by
  unfold observeSignal
  repeat' first
    | with_reducible assumption | with_reducible apply passGwait_canonical | with_reducible apply testSigWait_canonical
    | with_reducible apply observeHead_canonical | with_reducible apply fireNotify_canonical | with_reducible apply observeShape_canonical
    | with_reducible apply foldl_canonical | with_reducible apply foldlPair_canonical | with_reducible refine fst_canonical (by assumption) ?_
    | (intro _) | split | dsimp only [MemoryCanonical] | assumption

theorem rewatch_canonical (s : State) (ctx : Nat) (p : SigEnt → Bool) (hM : MemoryCanonical s) : MemoryCanonical (rewatch s ctx p) := by
  unfold rewatch
  repeat' first
    | with_reducible assumption | with_reducible apply modCtx_canonical | with_reducible apply watchSignal_canonical
    | with_reducible apply foldl_canonical | with_reducible apply foldlPair_canonical | with_reducible refine fst_canonical (by assumption) ?_
    | (intro _) | split | dsimp only [MemoryCanonical] | assumption

theorem writeSigtN_canonical (s : State) (ctx : Nat) (v : BitVec 32) (hM : MemoryCanonical s) : MemoryCanonical (writeSigtN s ctx v) := by
  unfold writeSigtN
  repeat' first
    | with_reducible assumption | with_reducible apply modCtx_canonical | with_reducible apply rewatch_canonical
    | with_reducible apply foldl_canonical | with_reducible apply foldlPair_canonical | with_reducible refine fst_canonical (by assumption) ?_
    | (intro _) | split | dsimp only [MemoryCanonical] | assumption

theorem retestHead_canonical (s : State) (c : Ctx) (h : QHead) (hM : MemoryCanonical s) : MemoryCanonical (retestHead s c h) := by
  unfold retestHead
  split
  rename_i s1 h1 e1
  have k1 : MemoryCanonical s1 := by
    split at e1
    · rename_i r _
      have hw := waitsHold_canonical s c.num r none hM
      dsimp only at e1
      generalize waitsHold s c.num r none = q at hw e1
      cases e1; exact hw
    · cases e1; exact hM
  split
  · rename_i e
    obtain ⟨n, _, e2⟩ := Option.map_eq_some_iff.mp e
    have h3 := signalValue_canonical s1 c.num n k1
    rw [e2] at h3; exact checkTail_canonical _ _ _ _ h3
  · rename_i e
    obtain ⟨n, _, e2⟩ := Option.map_eq_some_iff.mp e
    have h3 := signalValue_canonical s1 c.num n k1
    rw [e2] at h3; exact setHead_canonical _ _ _ h3
  · exact setHead_canonical _ _ _ k1

theorem retestHeads_canonical (s : State) (ctx : Nat) (hM : MemoryCanonical s) : MemoryCanonical (retestHeads s ctx) := by
  unfold retestHeads
  repeat' first
    | with_reducible assumption | with_reducible apply retestHead_canonical | with_reducible apply foldl_canonical
    | with_reducible apply foldlPair_canonical | with_reducible refine fst_canonical (by assumption) ?_ | (intro _) | split
    | dsimp only [MemoryCanonical] | assumption

theorem retestWaits_canonical (s : State) (ctx : Nat) (hM : MemoryCanonical s) : MemoryCanonical (retestWaits s ctx) := by
  unfold retestWaits
  repeat' first
    | with_reducible assumption | with_reducible apply settleGroups_canonical | with_reducible apply testNow_canonical
    | with_reducible apply foldl_canonical | with_reducible apply foldlPair_canonical | with_reducible refine fst_canonical (by assumption) ?_
    | (intro _) | split | dsimp only [MemoryCanonical] | assumption

theorem armNotify_canonical (s : State) (n : Nat) (hM : MemoryCanonical s) : MemoryCanonical (armNotify s n) := by
  unfold armNotify
  repeat' first
    | with_reducible assumption | with_reducible apply signalValue_canonical | with_reducible refine fst_canonical (by assumption) ?_ | (intro _)
    | split | dsimp only [MemoryCanonical] | assumption

/-! Place -/

theorem codeXlat_canonical (s : State) (vc ctx cidf va : Nat) (hM : MemoryCanonical s) : MemoryCanonical (codeXlat s vc ctx cidf va).1 := by
  unfold codeXlat
  repeat' first
    | with_reducible assumption | with_reducible apply modCore_canonical | with_reducible apply modDie_canonical
    | with_reducible apply walkReads_canonical | with_reducible apply orPte_canonical | (intro _) | split | dsimp only [MemoryCanonical] | assumption

theorem touchCode_canonical (s : State) (vc ctx mt line : Nat) (hM : MemoryCanonical s) : MemoryCanonical (touchCode s vc ctx mt line) := by
  unfold touchCode
  repeat' first
    | with_reducible assumption | with_reducible apply modCore_canonical | with_reducible apply touchLine_canonical | (intro _) | split
    | dsimp only [MemoryCanonical] | assumption

theorem codePage_canonical (s : State) (vc ctx cidf va n : Nat) (hM : MemoryCanonical s) : MemoryCanonical (codePage s vc ctx cidf va n).1 := by
  unfold codePage
  repeat' first
    | with_reducible assumption | with_reducible apply codeXlat_canonical | with_reducible apply touchCode_canonical
    | with_reducible apply foldl_canonical | with_reducible apply foldlPair_canonical | with_reducible refine fst_canonical (by assumption) ?_
    | (intro _) | split | dsimp only [MemoryCanonical] | assumption

theorem codePages_canonical : ∀ (k : Nat) (s : State) (vc ctx cidf va n : Nat), MemoryCanonical s → MemoryCanonical (codePages k s vc ctx cidf va n).1
  | 0, _, _, _, _, _, _, h => h
  | k + 1, s, vc, ctx, cidf, va, n, h => by
    have h1 := codePage_canonical s vc ctx cidf va (min n (65536 - va % 65536)) h
    unfold codePages
    dsimp only
    split
    · rename_i e; rw [e] at h1
      split
      · exact h1
      · have h2 := codePages_canonical k _ vc ctx cidf (va + min n (65536 - va % 65536)) (n - min n (65536 - va % 65536)) h1
        split
        · rename_i e2; rw [e2] at h2; exact h2
        · exact h2
    · exact h1

theorem codeBytes_canonical (s : State) (vc ctx cidf va n : Nat) (hM : MemoryCanonical s) : MemoryCanonical (codeBytes s vc ctx cidf va n).1 := by
  unfold codeBytes
  repeat' first
    | with_reducible assumption | with_reducible apply codePages_canonical | split | dsimp only [MemoryCanonical] | assumption

theorem parkFetch_canonical (s : State) (vc : Nat) (k : Fetch) (f : AccFault) (hM : MemoryCanonical s) : MemoryCanonical (parkFetch s vc k f) := by
  unfold parkFetch
  repeat' first
    | with_reducible assumption | with_reducible apply takeFault_canonical | with_reducible apply foldl_canonical
    | with_reducible apply foldlPair_canonical | with_reducible refine fst_canonical (by assumption) ?_ | (intro _) | split
    | dsimp only [MemoryCanonical] | assumption

theorem parkGone_canonical (s : State) (vc ctx : Nat) (p : SegPtr) (g : Option Nat) (hM : MemoryCanonical s) : MemoryCanonical (parkGone s vc ctx p g) := by
  unfold parkGone
  repeat' first
    | with_reducible assumption | with_reducible apply takeFault_canonical | with_reducible apply foldl_canonical
    | with_reducible apply foldlPair_canonical | with_reducible refine fst_canonical (by assumption) ?_ | (intro _) | split
    | dsimp only [MemoryCanonical] | assumption

theorem malformed_canonical (s : State) (vc ctx : Nat) (p : SegPtr) (g : Option Nat) (addr : Nat) (f : Nat × Nat) (hM : MemoryCanonical s) : MemoryCanonical (malformed s vc ctx p g addr f) := by
  unfold malformed
  repeat' first
    | with_reducible assumption | with_reducible apply modThread_canonical | with_reducible apply modCore_canonical
    | with_reducible apply postEvent_canonical | with_reducible apply settleEntries_canonical | with_reducible apply foldl_canonical
    | with_reducible apply foldlPair_canonical | with_reducible refine fst_canonical (by assumption) ?_ | (intro _) | split
    | dsimp only [MemoryCanonical] | assumption

theorem readDiros_canonical (s : State) (f : Fetch) (vc addr : Nat) (hM : MemoryCanonical s) : MemoryCanonical (readDiros s f vc addr).1 := by
  unfold readDiros
  repeat' first
    | with_reducible assumption | with_reducible apply codeBytes_canonical | with_reducible refine fst_canonical (by assumption) ?_ | split
    | dsimp only [MemoryCanonical] | assumption

theorem noteTranslation_canonical (s : State) (t : Translation) (hM : MemoryCanonical s) : MemoryCanonical (noteTranslation s t) := hM

theorem palairBytes_canonical (s : State) (f : Fetch) (vc addr size : Nat) (hM : MemoryCanonical s) : MemoryCanonical (palairBytes s f vc addr size).1 := by
  unfold palairBytes
  repeat' first
    | with_reducible assumption | with_reducible apply codeBytes_canonical | with_reducible refine fst_canonical (by assumption) ?_ | split
    | dsimp only [MemoryCanonical] | assumption

theorem readPalair_canonical (s : State) (f : Fetch) (vc addr cid size : Nat) (hM : MemoryCanonical s) : MemoryCanonical (readPalair s f vc addr cid size).1 := by
  unfold readPalair
  repeat' first
    | with_reducible assumption | with_reducible apply noteTranslation_canonical | with_reducible apply palairBytes_canonical
    | with_reducible refine fst_canonical (by assumption) ?_ | split | dsimp only [MemoryCanonical] | assumption

theorem readSegment_canonical (s : State) (f : Fetch) (vc : Nat) (e : SegEnt) (addr cid : Nat) (hM : MemoryCanonical s) : MemoryCanonical (readSegment s f vc e addr cid).1 := by
  unfold readSegment
  repeat' first
    | with_reducible assumption | with_reducible apply readDiros_canonical | with_reducible apply readPalair_canonical
    | with_reducible refine fst_canonical (by assumption) ?_ | split | dsimp only [MemoryCanonical] | assumption

theorem endFetch_canonical (s : State) (vc id : Nat) (hM : MemoryCanonical s) : MemoryCanonical (endFetch s vc id) := hM

theorem refetch_canonical (s : State) (vc : Nat) (old : List BullEnt) (hM : MemoryCanonical s) : MemoryCanonical (refetch s vc old) := by
  unfold refetch
  repeat' first
    | with_reducible assumption | with_reducible apply wantConf_canonical | with_reducible apply foldl_canonical
    | with_reducible apply foldlPair_canonical | with_reducible refine fst_canonical (by assumption) ?_ | (intro _) | split
    | dsimp only [MemoryCanonical] | assumption

theorem fillBullpen_canonical (s : State) (vc : Nat) (f : Fetch) (hM : MemoryCanonical s) : MemoryCanonical (fillBullpen s vc f) := by
  unfold fillBullpen
  repeat' first
    | with_reducible assumption | with_reducible apply modCore_canonical | with_reducible apply parkFetch_canonical
    | with_reducible apply parkGone_canonical | with_reducible apply malformed_canonical | with_reducible apply readSegment_canonical
    | with_reducible apply endFetch_canonical | with_reducible apply refetch_canonical | with_reducible refine fst_canonical (by assumption) ?_
    | (intro _) | split | dsimp only [MemoryCanonical] | assumption

theorem takeSlot_canonical (s : State) (vc slot : Nat) (e : Entry) (g : Grid) (k : Conf) (hM : MemoryCanonical s) : MemoryCanonical (takeSlot s vc slot e g k) := by
  unfold takeSlot
  repeat' first
    | with_reducible assumption | with_reducible apply modCore_canonical | with_reducible apply startFetch_canonical
    | with_reducible apply malformed_canonical | with_reducible apply foldl_canonical | with_reducible apply foldlPair_canonical
    | with_reducible refine fst_canonical (by assumption) ?_ | (intro _) | split | dsimp only [MemoryCanonical] | assumption

theorem freeSlot_canonical (s : State) (vc slot : Nat) (hM : MemoryCanonical s) : MemoryCanonical (freeSlot s vc slot) := by
  unfold freeSlot
  repeat' first
    | with_reducible assumption | with_reducible apply modCore_canonical | with_reducible apply settleEntries_canonical | (intro _) | split
    | dsimp only [MemoryCanonical] | assumption

theorem fillSlotAt_canonical (s : State) (vc slot : Nat) (hM : MemoryCanonical s) : MemoryCanonical (fillSlotAt s vc slot) := by
  unfold fillSlotAt
  repeat' first
    | with_reducible assumption | with_reducible apply parkGone_canonical | with_reducible apply takeSlot_canonical | split
    | dsimp only [MemoryCanonical] | assumption

theorem admitThread_canonical (s : State) (p : Placement) (t : Thread) (tag : Nat) (hM : MemoryCanonical s) : MemoryCanonical (admitThread s p t tag) := by
  unfold admitThread
  repeat' first
    | with_reducible assumption | with_reducible apply modThread_canonical | with_reducible apply modPlace_canonical
    | with_reducible apply bumpMon_canonical | with_reducible apply invalidateL1_canonical | with_reducible apply statusAcquire_canonical | (intro _)
    | split | dsimp only [MemoryCanonical] | assumption

theorem useBank_canonical (s : State) (vc frame : Nat) (hM : MemoryCanonical s) : MemoryCanonical (useBank s vc frame) := hM

theorem enterStage_canonical (s : State) (p : Placement) (t : Thread) (n tag : Nat) (hM : MemoryCanonical s) : MemoryCanonical (enterStage s p t n tag) := hM

/-! Registers -/

theorem writeReq_canonical (s : State) (ctx : Nat) (r : Bool) (hM : MemoryCanonical s) : MemoryCanonical (writeReq s ctx r) := hM

theorem returnThread_canonical (s : State) (uid : Nat) (hM : MemoryCanonical s) : MemoryCanonical (returnThread s uid) := by
  unfold returnThread
  repeat' first
    | with_reducible assumption | with_reducible apply modGroup_canonical | with_reducible apply modThread_canonical
    | with_reducible apply retrySegment_canonical | with_reducible apply resumeThread_canonical | (intro _) | split | dsimp only [MemoryCanonical]
    | assumption

theorem retryCopies_canonical (s : State) (ctx page : Nat) (hM : MemoryCanonical s) : MemoryCanonical (retryCopies s ctx page) := hM

theorem forgetPage_canonical (s : State) (ctx page : Nat) (hM : MemoryCanonical s) : MemoryCanonical (forgetPage s ctx page) := hM

theorem resumeHub_canonical (s : State) (ctx page : Nat) (hM : MemoryCanonical s) : MemoryCanonical (resumeHub s ctx page) := by
  unfold resumeHub
  repeat' first
    | with_reducible assumption | with_reducible apply modCtx_canonical | with_reducible apply updatePredictor_canonical
    | with_reducible apply retestHeads_canonical | with_reducible apply retestWaits_canonical | with_reducible apply armNotify_canonical
    | with_reducible apply foldl_canonical | with_reducible apply foldlPair_canonical | with_reducible refine fst_canonical (by assumption) ?_
    | (intro _) | split | dsimp only [MemoryCanonical] | assumption

theorem writeFuDone_canonical (s : State) (v : BitVec 64) (hM : MemoryCanonical s) : MemoryCanonical (writeFuDone s v) := by
  unfold writeFuDone
  repeat' first
    | with_reducible assumption | with_reducible apply returnThread_canonical | with_reducible apply retryCopies_canonical
    | with_reducible apply forgetPage_canonical | with_reducible apply resumeHub_canonical | with_reducible apply foldl_canonical
    | with_reducible apply foldlPair_canonical | with_reducible refine fst_canonical (by assumption) ?_ | (intro _) | split
    | dsimp only [MemoryCanonical] | assumption

theorem openQueues_canonical (s : State) (ctx : Nat) (hM : MemoryCanonical s) : MemoryCanonical (openQueues s ctx) := hM

theorem writeCtxReg_canonical (s : State) (ctx n : Nat) (v : BitVec 64) (hM : MemoryCanonical s) : MemoryCanonical (writeCtxReg s ctx n v) := by
  unfold writeCtxReg
  repeat' first
    | with_reducible assumption | with_reducible apply modCtx_canonical | with_reducible apply rewatch_canonical
    | with_reducible apply writeSigtN_canonical | with_reducible apply writeReq_canonical | with_reducible apply writeFuDone_canonical
    | with_reducible apply openQueues_canonical | (intro _) | split | dsimp only [MemoryCanonical] | assumption

theorem remapCore_canonical (s : State) (n : Nat) (hM : MemoryCanonical s) : MemoryCanonical (remapCore s n) := hM

theorem writeVct_canonical (s : State) (n : Nat) (v : BitVec 32) (hM : MemoryCanonical s) : MemoryCanonical (writeVct s n v) := by
  unfold writeVct
  repeat' first
    | with_reducible assumption | with_reducible apply remapCore_canonical | split | dsimp only [MemoryCanonical] | assumption

theorem writeCtl_canonical (s : State) (ctx n : Nat) (v : BitVec 64) (hM : MemoryCanonical s) : MemoryCanonical (writeCtl s ctx n v) := by
  unfold writeCtl
  repeat' first
    | with_reducible assumption | with_reducible apply modCtx_canonical | with_reducible apply writeCtxReg_canonical
    | with_reducible apply writeVct_canonical | (intro _) | split | dsimp only [MemoryCanonical] | assumption

theorem dropTlb_canonical (s : State) (p : TlbEnt → Bool) (hM : MemoryCanonical s) : MemoryCanonical (dropTlb s p) := hM

theorem tlbInvalidate_canonical (s : State) (ctx mode va : Nat) (hM : MemoryCanonical s) : MemoryCanonical (tlbInvalidate s ctx mode va) := by
  unfold tlbInvalidate
  repeat' first
    | with_reducible assumption | with_reducible apply rewatch_canonical | with_reducible apply forgetPage_canonical
    | with_reducible apply dropTlb_canonical | with_reducible apply foldl_canonical | with_reducible apply foldlPair_canonical
    | with_reducible refine fst_canonical (by assumption) ?_ | (intro _) | split | dsimp only [MemoryCanonical] | assumption

theorem cacheInvalidate_canonical (s : State) (ctx mode : Nat) (hM : MemoryCanonical s) : MemoryCanonical (cacheInvalidate s ctx mode) := by
  unfold cacheInvalidate
  repeat' first
    | with_reducible assumption | (intro _) | split | dsimp only [MemoryCanonical] | assumption

/-! Tested -/

theorem watchNamed_canonical (s : State) (x : Site) (hM : MemoryCanonical s) : MemoryCanonical (watchNamed s x) := by
  unfold watchNamed
  repeat' first
    | with_reducible assumption | with_reducible apply watchSignal_canonical | with_reducible apply foldl_canonical
    | with_reducible apply foldlPair_canonical | with_reducible refine fst_canonical (by assumption) ?_ | (intro _) | split
    | dsimp only [MemoryCanonical] | assumption

theorem awaitPages_canonical (s : State) (x : Site) (l : List Acc) (hM : MemoryCanonical s) : MemoryCanonical (awaitPages s x l) := by
  unfold awaitPages
  repeat' first
    | with_reducible assumption | with_reducible apply modThread_canonical | with_reducible apply addMiss_canonical
    | with_reducible apply foldl_canonical | with_reducible apply foldlPair_canonical | with_reducible refine fst_canonical (by assumption) ?_
    | (intro _) | split | dsimp only [MemoryCanonical] | assumption

theorem layMigrate_canonical (s : State) (x : Site) (dn : Nat) (large : Bool) (hM : MemoryCanonical s) : MemoryCanonical (layMigrate s x dn large) := by
  unfold layMigrate
  repeat' first
    | with_reducible assumption | with_reducible apply modThread_canonical | with_reducible apply copyMigrate_canonical | (intro _) | split
    | dsimp only [MemoryCanonical] | assumption

theorem readRecords_canonical (s : State) (x : Site) (hM : MemoryCanonical s) : MemoryCanonical (readRecords s x).s := by
  unfold readRecords
  repeat' first
    | with_reducible assumption | with_reducible apply readLayout_canonical | with_reducible apply layMigrate_canonical
    | with_reducible apply foldl_canonical | with_reducible apply foldlPair_canonical | with_reducible apply foldlLay_canonical
    | with_reducible refine fst_canonical (by assumption) ?_ | (intro _) | split | dsimp only [MemoryCanonical] | assumption

theorem walkShare_canonical (recs : List (Nat × Option (BitVec 512))) (x : Site) (s : State) (i : Nat) (hM : MemoryCanonical s) : MemoryCanonical (walkShare recs x s i) := by
  unfold walkShare
  repeat' first
    | with_reducible assumption | with_reducible apply copyXlat_canonical | with_reducible apply foldl_canonical
    | with_reducible apply foldlPair_canonical | with_reducible refine fst_canonical (by assumption) ?_ | (intro _) | split
    | dsimp only [MemoryCanonical] | assumption

theorem readLayouts_canonical (s : State) (x : Site) (hM : MemoryCanonical s) : MemoryCanonical (readLayouts s x).s := by
  unfold readLayouts
  repeat' first
    | with_reducible assumption | with_reducible apply readRecords_canonical | with_reducible apply walkShare_canonical
    | with_reducible apply foldl_canonical | with_reducible apply foldlPair_canonical | with_reducible apply foldlLay_canonical
    | with_reducible refine fst_canonical (by assumption) ?_ | (intro _) | split | dsimp only [MemoryCanonical] | assumption

theorem testCalli_canonical (s : State) (t : Thread) (tok : Tok) (idx r : Nat) (hM : MemoryCanonical s) : MemoryCanonical (testCalli s t tok idx r).1 := by
  unfold testCalli
  repeat' first
    | with_reducible assumption | with_reducible apply codeXlat_canonical | with_reducible refine fst_canonical (by assumption) ?_ | (intro _) | split
    | dsimp only [MemoryCanonical] | assumption

theorem testSuccWord_canonical (s : State) (x : Site) (i : Nat) (w : Instr) (sh : Shape) (hM : MemoryCanonical s) : MemoryCanonical (testSuccWord s x i w sh).1 := by
  unfold testSuccWord
  repeat' first
    | with_reducible assumption | with_reducible apply testCalli_canonical | with_reducible refine fst_canonical (by assumption) ?_ | (intro _)
    | split | dsimp only [MemoryCanonical] | assumption

theorem testSucc_canonical (s : State) (x : Site) (hM : MemoryCanonical s) : MemoryCanonical (testSucc s x).1 := by
  unfold testSucc
  repeat' first
    | with_reducible assumption | with_reducible apply testSuccWord_canonical | with_reducible refine fst_canonical (by assumption) ?_ | (intro _)
    | split | dsimp only [MemoryCanonical] | assumption

/-! Passing -/

theorem passEffect_canonical (s : State) (x : Site) (ord : Nat) (kind : EffKind) (va w mt : Nat) (ga : Bool) (rel acq : Nat) (runs : Runs) (landed : Bool) (hM : MemoryCanonical s) : MemoryCanonical (passEffect s x ord kind va w mt ga rel acq runs landed).1 := hM

theorem clearSlot_canonical (s : State) (uid n : Nat) (hM : MemoryCanonical s) : MemoryCanonical (clearSlot s uid n) := hM

theorem passStore_canonical (s : State) (x : Site) (ord : Nat) (a : Acc) (bs : List Byte) (ga : Bool) (rel : Nat) (hM : MemoryCanonical s) : MemoryCanonical (passStore s x ord a bs ga rel).1 := by
  unfold passStore
  repeat' first
    | with_reducible assumption | with_reducible apply passEffect_canonical | with_reducible refine fst_canonical (by assumption) ?_ | split
    | dsimp only [MemoryCanonical] | assumption

theorem passSts_canonical (s : State) (x : Site) (ord : Nat) (a : Acc) (bs : List Byte) (hM : MemoryCanonical s) : MemoryCanonical (passSts s x ord a bs).1 := by
  unfold passSts
  repeat' first
    | with_reducible assumption | with_reducible apply spadWrite_canonical | with_reducible apply noteLate_canonical
    | with_reducible apply passEffect_canonical | with_reducible refine fst_canonical (by assumption) ?_ | split | dsimp only [MemoryCanonical]
    | assumption

theorem passPst_canonical (s : State) (x : Site) (ord ch : Nat) (a : Acc) (bs : List Byte) (hM : MemoryCanonical s) : MemoryCanonical (passPst s x ord ch a bs).1 := by
  unfold passPst
  repeat' first
    | with_reducible assumption | with_reducible apply postEvent_canonical | with_reducible apply openChannel_canonical
    | with_reducible apply bumpFlow_canonical | with_reducible apply passEffect_canonical | with_reducible refine fst_canonical (by assumption) ?_
    | split | dsimp only [MemoryCanonical] | assumption

theorem passResult_canonical (s : State) (x : Site) (ord w slot : Nat) (acq : Nat) (old : Nat) (hM : MemoryCanonical s) : MemoryCanonical (passResult s x ord w slot acq old).1 := by
  unfold passResult
  repeat' first
    | with_reducible assumption | with_reducible apply modEffect_canonical | with_reducible apply acquireOn_canonical
    | with_reducible apply landSlots_canonical | with_reducible apply passEffect_canonical | with_reducible refine fst_canonical (by assumption) ?_
    | (intro _) | split | dsimp only [MemoryCanonical] | assumption

theorem passScratchAtomic_canonical (s : State) (x : Site) (ord op : Nat) (f : FmtT) (w off : Nat) (b c : BitVec 64) (hM : MemoryCanonical s) : MemoryCanonical (passScratchAtomic s x ord op f w off b c).1 := by
  unfold passScratchAtomic
  repeat' first
    | with_reducible assumption | with_reducible apply noteLate_canonical | with_reducible apply bankAtomic_canonical
    | with_reducible apply passEffect_canonical | with_reducible apply passResult_canonical | with_reducible refine fst_canonical (by assumption) ?_
    | split | dsimp only [MemoryCanonical] | assumption

theorem passAtomic_canonical (s : State) (x : Site) (ord op : Nat) (f : FmtT) (float : Bool) (a : Acc) (b c : BitVec 64) (hM : MemoryCanonical s) : MemoryCanonical (passAtomic s x ord op f float a b c).1 := by
  unfold passAtomic
  repeat' first
    | with_reducible assumption | with_reducible apply passEffect_canonical | with_reducible apply passResult_canonical
    | with_reducible apply passScratchAtomic_canonical | with_reducible refine fst_canonical (by assumption) ?_ | split | dsimp only [MemoryCanonical]
    | assumption

theorem passSignal_canonical (s : State) (x : Site) (ord op : Nat) (f : FmtT) (a : Acc) (b : BitVec 64) (hM : MemoryCanonical s) : MemoryCanonical (passSignal s x ord op f a b).1 := by
  unfold passSignal
  repeat' first
    | with_reducible assumption | with_reducible apply passEffect_canonical | with_reducible refine fst_canonical (by assumption) ?_ | split
    | dsimp only [MemoryCanonical] | assumption

theorem passFence_canonical (s : State) (x : Site) (ord : Nat) (f : FmtS) (hM : MemoryCanonical s) : MemoryCanonical (passFence s x ord f).1 := by
  unfold passFence
  repeat' first
    | with_reducible assumption | with_reducible apply acquireOn_canonical | with_reducible apply passEffect_canonical
    | with_reducible refine fst_canonical (by assumption) ?_ | split | dsimp only [MemoryCanonical] | assumption

theorem passCwb_canonical (s : State) (x : Site) (ord : Nat) (f : FmtM) (a : Acc) (hM : MemoryCanonical s) : MemoryCanonical (passCwb s x ord f a).1 := by
  unfold passCwb
  repeat' first
    | with_reducible assumption | with_reducible apply passEffect_canonical | with_reducible refine fst_canonical (by assumption) ?_ | split
    | dsimp only [MemoryCanonical] | assumption

theorem passLaunch_canonical (s : State) (x : Site) (ord : Nat) (a : Acc) (hM : MemoryCanonical s) : MemoryCanonical (passLaunch s x ord a).1 := by
  unfold passLaunch
  repeat' first
    | with_reducible assumption | with_reducible apply passEffect_canonical | with_reducible refine fst_canonical (by assumption) ?_ | split
    | dsimp only [MemoryCanonical] | assumption

theorem passSpawn_canonical (s : State) (x : Site) (ord : Nat) (f : FmtN) (payload : List Tok) (hM : MemoryCanonical s) :
    MemoryCanonical (passSpawn s x ord f payload).1 := by
  unfold passSpawn
  split
  · exact hM
  · dsimp only
    split
    · exact setWaiting_canonical _ _ (fresh_canonical s hM)
    · dsimp only [MemoryCanonical]
      exact passEffect_canonical _ _ _ _ _ _ _ _ _ _ _ _ (fresh_canonical s hM)

theorem passCopy_canonical (s : State) (x : Site) (ord : Nat) (i : Instr) (f : FmtE) (sh : Shape) (layout : Option (BitVec 512)) (hM : MemoryCanonical s) : MemoryCanonical (passCopy s x ord i f sh layout).1 := by
  unfold passCopy
  repeat' first
    | with_reducible assumption | with_reducible apply fresh_canonical | with_reducible apply modCore_canonical
    | with_reducible apply clearLine_canonical | with_reducible apply clearSlot_canonical | with_reducible apply foldl_canonical
    | with_reducible apply foldlPair_canonical | with_reducible refine fst_canonical (by assumption) ?_
    | with_reducible refine snd_canonical (by assumption) ?_ | (intro _) | split | dsimp only [MemoryCanonical] | assumption

theorem passOp_canonical (s : State) (x : Site) (word : BitVec 32) (a : Nat) (hM : MemoryCanonical s) : MemoryCanonical (passOp s x word a) := hM

theorem passUnit_canonical (s : State) (x : Site) (f : FmtE) (a : Nat) (u : EUnit) (hM : MemoryCanonical s) : MemoryCanonical (passUnit s x f a u) := hM

theorem passRelease_canonical (s : State) (x : Site) (f : FmtE) (a : Nat) (hM : MemoryCanonical s) : MemoryCanonical (passRelease s x f a) := by
  unfold passRelease
  repeat' first
    | with_reducible assumption | with_reducible apply passUnit_canonical | with_reducible apply foldl_canonical
    | with_reducible apply foldlPair_canonical | with_reducible refine fst_canonical (by assumption) ?_ | (intro _) | split
    | dsimp only [MemoryCanonical] | assumption

theorem passClaim_canonical (s : State) (x : Site) (f : FmtE) (a : Nat) (hM : MemoryCanonical s) : MemoryCanonical (passClaim s x f a) := by
  unfold passClaim
  repeat' first
    | with_reducible assumption | with_reducible apply claimUnit_canonical | with_reducible apply passUnit_canonical
    | with_reducible apply foldl_canonical | with_reducible apply foldlPair_canonical | with_reducible refine fst_canonical (by assumption) ?_
    | (intro _) | split | dsimp only [MemoryCanonical] | assumption

theorem passTacst_canonical (s : State) (x : Site) (f : FmtE) (a : Nat) (hM : MemoryCanonical s) : MemoryCanonical (passTacst s x f a) := by
  unfold passTacst
  repeat' first
    | with_reducible assumption | with_reducible apply clearLine_canonical | with_reducible apply clearSlot_canonical
    | with_reducible apply passOp_canonical | with_reducible apply foldl_canonical | with_reducible apply foldlPair_canonical
    | with_reducible refine fst_canonical (by assumption) ?_ | (intro _) | split | dsimp only [MemoryCanonical] | assumption

theorem passSpres_canonical (s : State) (x : Site) (f : FmtE) (a b : Nat) (hM : MemoryCanonical s) : MemoryCanonical (passSpres s x f a b) := by
  unfold passSpres
  repeat' first
    | with_reducible assumption | with_reducible apply modCore_canonical | with_reducible apply landStatus_canonical | (intro _) | split
    | dsimp only [MemoryCanonical] | assumption

theorem passSfree_canonical (s : State) (x : Site) (f : FmtE) (hM : MemoryCanonical s) : MemoryCanonical (passSfree s x f) := hM

theorem passWord_canonical (s : State) (x : Site) (ord : Nat) (i : Instr) (sh : Shape) (layout : Option (BitVec 512)) (hM : MemoryCanonical s) : MemoryCanonical (passWord s x ord i sh layout).1 := by
  unfold passWord
  repeat' first
    | with_reducible assumption | with_reducible apply modGroup_canonical | with_reducible apply clearSlot_canonical
    | with_reducible apply passStore_canonical | with_reducible apply passSts_canonical | with_reducible apply passPst_canonical
    | with_reducible apply passAtomic_canonical | with_reducible apply passSignal_canonical | with_reducible apply passFence_canonical
    | with_reducible apply passCwb_canonical | with_reducible apply passLaunch_canonical | with_reducible apply passSpawn_canonical
    | with_reducible apply passCopy_canonical | with_reducible apply passOp_canonical | with_reducible apply passRelease_canonical
    | with_reducible apply passClaim_canonical | with_reducible apply passTacst_canonical | with_reducible apply passSpres_canonical
    | with_reducible apply passSfree_canonical | with_reducible refine fst_canonical (by assumption) ?_ | (intro _) | split
    | dsimp only [MemoryCanonical] | assumption

theorem passOrdinals_canonical (s : State) (x : Site) (recs : List (Nat × Option (BitVec 512))) (hM : MemoryCanonical s) : MemoryCanonical (passOrdinals s x recs).1 := by
  unfold passOrdinals
  repeat' first
    | with_reducible assumption | with_reducible apply passWord_canonical | with_reducible apply foldl_canonical
    | with_reducible apply foldlPair_canonical | with_reducible refine fst_canonical (by assumption) ?_ | (intro _) | split
    | dsimp only [MemoryCanonical] | assumption

theorem passBar_canonical (s : State) (x : Site) (f : FmtS) (hM : MemoryCanonical s) : MemoryCanonical (passBar s x f).1 := by
  unfold passBar
  repeat' first
    | with_reducible assumption | with_reducible apply modGroup_canonical | (intro _) | split | dsimp only [MemoryCanonical] | assumption

theorem passGwaitWord_canonical (s : State) (x : Site) (f : FmtS) (a b : Nat) (hM : MemoryCanonical s) : MemoryCanonical (passGwaitWord s x f a b).1 := by
  unfold passGwaitWord
  repeat' first
    | with_reducible assumption | with_reducible apply modGroup_canonical | (intro _) | split | dsimp only [MemoryCanonical] | assumption

theorem passColl_canonical (s : State) (x : Site) (f : FmtA) (sh : Shape) (hM : MemoryCanonical s) : MemoryCanonical (passColl s x f sh).1 := by
  unfold passColl
  repeat' first
    | with_reducible assumption | with_reducible apply modGroup_canonical | split | dsimp only [MemoryCanonical] | assumption

theorem passXput_canonical (s : State) (x : Site) (f : FmtL) (tok : Tok) (hM : MemoryCanonical s) : MemoryCanonical (passXput s x f tok) := by
  unfold passXput
  repeat' first
    | with_reducible assumption | with_reducible apply modThread_canonical | (intro _) | split | dsimp only [MemoryCanonical] | assumption

theorem passXclr_canonical (s : State) (x : Site) (f : FmtL) (hM : MemoryCanonical s) : MemoryCanonical (passXclr s x f) := hM

theorem passTlbinv_canonical (s : State) (x : Site) (f : FmtS) (a : Nat) (hM : MemoryCanonical s) : MemoryCanonical (passTlbinv s x f a) := by
  unfold passTlbinv
  repeat' first
    | with_reducible assumption | with_reducible apply tlbInvalidate_canonical | split | dsimp only [MemoryCanonical] | assumption

theorem passCinv_canonical (s : State) (x : Site) (f : FmtS) (hM : MemoryCanonical s) : MemoryCanonical (passCinv s x f) := by
  unfold passCinv
  repeat' first
    | with_reducible assumption | with_reducible apply refetch_canonical | with_reducible apply cacheInvalidate_canonical
    | with_reducible apply foldl_canonical | with_reducible apply foldlPair_canonical | with_reducible refine fst_canonical (by assumption) ?_
    | (intro _) | split | dsimp only [MemoryCanonical] | assumption

theorem passEvpost_canonical (s : State) (x : Site) (f : FmtS) (a : Nat) (hM : MemoryCanonical s) : MemoryCanonical (passEvpost s x f a) := hM

theorem passImage_canonical (s : State) (x : Site) (f : FmtS) (save : Bool) (a b : Nat) (hM : MemoryCanonical s) : MemoryCanonical (passImage s x f save a b) := hM

theorem passExchange_canonical (s : State) (x : Site) (hM : MemoryCanonical s) : MemoryCanonical (passExchange s x) := by
  unfold passExchange
  repeat' first
    | with_reducible assumption | with_reducible apply passXput_canonical | with_reducible apply passXclr_canonical
    | with_reducible apply foldl_canonical | with_reducible apply foldlPair_canonical | with_reducible refine fst_canonical (by assumption) ?_
    | (intro _) | split | dsimp only [MemoryCanonical] | assumption

theorem passOther_canonical (s : State) (x : Site) (i : Instr) (sh : Shape) (hM : MemoryCanonical s) : MemoryCanonical (passOther s x i sh).1 := by
  unfold passOther
  repeat' first
    | with_reducible assumption | with_reducible apply writeCtl_canonical | with_reducible apply passBar_canonical
    | with_reducible apply passTlbinv_canonical | with_reducible apply passCinv_canonical | with_reducible apply passEvpost_canonical
    | with_reducible apply passImage_canonical | with_reducible refine fst_canonical (by assumption) ?_ | split | dsimp only [MemoryCanonical]
    | assumption

theorem passOthers_canonical (s : State) (x : Site) (hM : MemoryCanonical s) : MemoryCanonical (passOthers s x).1 := by
  unfold passOthers
  repeat' first
    | with_reducible assumption | with_reducible apply passGwaitWord_canonical | with_reducible apply passColl_canonical
    | with_reducible apply passExchange_canonical | with_reducible apply passOther_canonical | with_reducible apply foldl_canonical
    | with_reducible apply foldlPair_canonical | with_reducible refine fst_canonical (by assumption) ?_ | (intro _) | split
    | dsimp only [MemoryCanonical] | assumption

/-! Commit -/

theorem uniformityMiss_canonical (s : State) (vc ctx : Nat) (hM : MemoryCanonical s) : MemoryCanonical (uniformityMiss s vc ctx) := hM

theorem noteExit_canonical (s : State) (x : Site) (u : Succ) (hM : MemoryCanonical s) : MemoryCanonical (noteExit s x u) := by
  unfold noteExit
  repeat' first
    | with_reducible assumption | with_reducible apply uniformityMiss_canonical | split | dsimp only [MemoryCanonical] | assumption

theorem modOwnPlace_canonical (s : State) (vc : Nat) (p : Placement) (f : Placement → Placement) (hM : MemoryCanonical s) : MemoryCanonical (modOwnPlace s vc p f) := hM

theorem noteUniform_canonical (s : State) (x : Site) (u : Succ) (hM : MemoryCanonical s) : MemoryCanonical (noteUniform s x u) := by
  unfold noteUniform
  repeat' first
    | with_reducible assumption | with_reducible apply startFetch_canonical | with_reducible apply uniformityMiss_canonical
    | with_reducible apply modOwnPlace_canonical | (intro _) | split | dsimp only [MemoryCanonical] | assumption

theorem yieldEntry_canonical (s : State) (vc grid : Nat) (p : SegPtr) (hM : MemoryCanonical s) : MemoryCanonical (yieldEntry s vc grid p) := hM

theorem finishMove_canonical (s : State) (uid : Nat) (hM : MemoryCanonical s) : MemoryCanonical (finishMove s uid) := by
  unfold finishMove
  repeat' first
    | with_reducible assumption | with_reducible apply modThread_canonical | with_reducible apply setWaiting_canonical
    | with_reducible apply leaveThread_canonical | (intro _) | split | dsimp only [MemoryCanonical] | assumption

theorem moveIfOver_canonical (s : State) (uid : Nat) (hM : MemoryCanonical s) : MemoryCanonical (moveIfOver s uid) := by
  unfold moveIfOver
  repeat' first
    | with_reducible assumption | with_reducible apply finishMove_canonical | split | dsimp only [MemoryCanonical] | assumption

theorem noteYield_canonical (s : State) (x : Site) (u : Succ) (hM : MemoryCanonical s) : MemoryCanonical (noteYield s x u) := by
  unfold noteYield
  repeat' first
    | with_reducible assumption | with_reducible apply yieldEntry_canonical | split | dsimp only [MemoryCanonical] | assumption

theorem noteCommit_canonical (s : State) (t : Thread) (hM : MemoryCanonical s) : MemoryCanonical (noteCommit s t) := hM

theorem commitInst_canonical (s : State) (x : Site) (u : Succ) (recs : List (Nat × Option (BitVec 512))) (hM : MemoryCanonical s) : MemoryCanonical (commitInst s x u recs) := by
  unfold commitInst
  repeat' first
    | with_reducible assumption | with_reducible apply sampleCore_canonical | with_reducible apply modThread_canonical
    | with_reducible apply bumpMon_canonical | with_reducible apply settleEntries_canonical | with_reducible apply settleGroup_canonical
    | with_reducible apply testNow_canonical | with_reducible apply settleEffects_canonical | with_reducible apply settleOps_canonical
    | with_reducible apply passOrdinals_canonical | with_reducible apply passOthers_canonical | with_reducible apply noteExit_canonical
    | with_reducible apply noteUniform_canonical | with_reducible apply moveIfOver_canonical | with_reducible apply noteYield_canonical
    | with_reducible apply noteCommit_canonical | with_reducible refine fst_canonical (by assumption) ?_ | (intro _) | split
    | dsimp only [MemoryCanonical] | assumption

theorem rerun_canonical (s : State) (uid : Nat) (hM : MemoryCanonical s) : MemoryCanonical (rerun s uid) := by
  unfold rerun
  repeat' first
    | with_reducible assumption | with_reducible apply setWaiting_canonical | with_reducible apply abortInst_canonical | split
    | dsimp only [MemoryCanonical] | assumption

theorem holdInst_canonical (s : State) (x : Site) (hM : MemoryCanonical s) : MemoryCanonical (holdInst s x) := by
  unfold holdInst
  repeat' first
    | with_reducible assumption | with_reducible apply modThread_canonical | with_reducible apply rerun_canonical | (intro _) | split
    | dsimp only [MemoryCanonical] | assumption

theorem waitInst_canonical (s : State) (x : Site) (reason : Nat) (hM : MemoryCanonical s) : MemoryCanonical (waitInst s x reason) := by
  unfold waitInst
  repeat' first
    | with_reducible assumption | with_reducible apply modThread_canonical | with_reducible apply rerun_canonical | (intro _) | split
    | dsimp only [MemoryCanonical] | assumption

theorem commitTested_canonical (s : State) (x : Site) (hM : MemoryCanonical s) : MemoryCanonical (commitTested s x) := by
  unfold commitTested
  repeat' first
    | with_reducible assumption | with_reducible apply takeFault_canonical | with_reducible apply readLayouts_canonical
    | with_reducible apply testSucc_canonical | with_reducible apply commitInst_canonical | with_reducible apply holdInst_canonical
    | with_reducible apply waitInst_canonical | with_reducible refine fst_canonical (by assumption) ?_ | split | dsimp only [MemoryCanonical]
    | assumption

theorem commitScan_canonical (s : State) (x : Site) (n : Nat) (whole : Bool) (hM : MemoryCanonical s) : MemoryCanonical (commitScan s x n whole) := by
  unfold commitScan
  repeat' first
    | with_reducible assumption | with_reducible apply takeFault_canonical | with_reducible apply watchNamed_canonical
    | with_reducible apply awaitPages_canonical | with_reducible apply commitTested_canonical | split | dsimp only [MemoryCanonical] | assumption

theorem tryCommit_canonical (s : State) (vc frame : Nat) (force : Bool) (hM : MemoryCanonical s) : MemoryCanonical (tryCommit s vc frame force) := by
  unfold tryCommit
  repeat' first
    | with_reducible assumption | with_reducible apply parkAckLoss_canonical | with_reducible apply commitScan_canonical | split
    | dsimp only [MemoryCanonical] | assumption

/-! Faults -/

theorem barrierStall_canonical (s : State) (gr : Group) (w : Nat) (hM : MemoryCanonical s) : MemoryCanonical (barrierStall s gr w) := by
  unfold barrierStall
  repeat' first
    | with_reducible assumption | with_reducible apply modGroup_canonical | with_reducible apply postEvent_canonical | (intro _) | split
    | dsimp only [MemoryCanonical] | assumption

theorem heldCommitStall_canonical (s : State) (t : Thread) (hM : MemoryCanonical s) : MemoryCanonical (heldCommitStall s t) := by
  unfold heldCommitStall
  repeat' first
    | with_reducible assumption | with_reducible apply modThread_canonical | with_reducible apply postEvent_canonical | (intro _) | split
    | dsimp only [MemoryCanonical] | assumption

theorem retryEvents_canonical (s : State) (n : Nat) (hM : MemoryCanonical s) : MemoryCanonical (retryEvents s n) := by
  unfold retryEvents
  repeat' first
    | with_reducible assumption | with_reducible apply modCtx_canonical | with_reducible apply setStalls_canonical
    | with_reducible apply writePart_canonical | with_reducible apply writeParts_canonical | with_reducible apply holdRequests_canonical
    | with_reducible refine fst_canonical (by assumption) ?_ | (intro _) | split | dsimp only [MemoryCanonical] | assumption

theorem fcmdResult_canonical (s : State) (v : BitVec 64) (r : Nat) (hM : MemoryCanonical s) : MemoryCanonical (fcmdResult s v r) := hM

theorem proceedAckLoss_canonical (s : State) (t : Thread) (hM : MemoryCanonical s) : MemoryCanonical (proceedAckLoss s t) := by
  unfold proceedAckLoss
  repeat' first
    | with_reducible assumption | with_reducible apply settleAckLoss_canonical | split | dsimp only [MemoryCanonical] | assumption

theorem resumeParked_canonical (s : State) (t : Thread) (hM : MemoryCanonical s) : MemoryCanonical (resumeParked s t) := by
  unfold resumeParked
  repeat' first
    | with_reducible assumption | with_reducible apply returnThread_canonical | with_reducible apply proceedAckLoss_canonical | split
    | dsimp only [MemoryCanonical] | assumption

theorem redirectParked_canonical (s : State) (t : Thread) (p : SegPtr) (hM : MemoryCanonical s) : MemoryCanonical (redirectParked s t p) := by
  unfold redirectParked
  repeat' first
    | with_reducible assumption | with_reducible apply modThread_canonical | with_reducible apply retrySegment_canonical
    | with_reducible apply returnThread_canonical | with_reducible apply proceedAckLoss_canonical | (intro _) | split | dsimp only [MemoryCanonical]
    | assumption

theorem finishAway_canonical (s : State) (g gi : Nat) (hM : MemoryCanonical s) : MemoryCanonical (finishAway s g gi) := by
  unfold finishAway
  repeat' first
    | with_reducible assumption | with_reducible apply wakeGroup_canonical | (intro _) | split | dsimp only [MemoryCanonical] | assumption

theorem dropCommands_canonical (s : State) (gr : Group) (hM : MemoryCanonical s) : MemoryCanonical (dropCommands s gr) := by
  unfold dropCommands
  repeat' first
    | with_reducible assumption | with_reducible apply modCore_canonical | with_reducible apply endCopy_canonical
    | with_reducible apply foldl_canonical | with_reducible apply foldlPair_canonical | with_reducible refine fst_canonical (by assumption) ?_
    | (intro _) | split | dsimp only [MemoryCanonical] | assumption

theorem killGroup_canonical (s : State) (gr : Group) (cause : Nat) (hM : MemoryCanonical s) : MemoryCanonical (killGroup s gr cause) := by
  unfold killGroup
  repeat' first
    | with_reducible assumption | with_reducible apply postEvent_canonical | with_reducible apply settleEntries_canonical
    | with_reducible apply settleAckLoss_canonical | with_reducible apply retireGroup_canonical | with_reducible apply squashGroup_canonical
    | with_reducible apply dropCommands_canonical | with_reducible apply foldl_canonical | with_reducible apply foldlPair_canonical
    | with_reducible refine fst_canonical (by assumption) ?_ | (intro _) | split | dsimp only [MemoryCanonical] | assumption

theorem countCorrected_canonical (s : State) (u : Nat) (hM : MemoryCanonical s) : MemoryCanonical (countCorrected s u) := hM

theorem tellUnit_canonical (s : State) (vc n : Nat) (p : Group → Bool) (hM : MemoryCanonical s) : MemoryCanonical (tellUnit s vc n p) := by
  unfold tellUnit
  repeat' first
    | with_reducible assumption | with_reducible apply postEvent_canonical | split | dsimp only [MemoryCanonical] | assumption

theorem invalidateEntry_canonical (s : State) (entry : CacheEntry) (hM : MemoryCanonical s) : MemoryCanonical (invalidateEntry s entry) := by
  unfold invalidateEntry
  repeat' first
    | with_reducible assumption | with_reducible apply modCore_canonical | with_reducible apply modDie_canonical
    | with_reducible apply refetch_canonical | (intro _) | split | dsimp only [MemoryCanonical] | assumption

theorem uncorrectable_canonical (s : State) (site : ErrorSite) (hM : MemoryCanonical s) : MemoryCanonical (uncorrectable s site) := by
  unfold uncorrectable
  repeat' first
    | with_reducible assumption | with_reducible apply modThread_canonical | with_reducible apply modStore_canonical
    | with_reducible apply takeFault_canonical | with_reducible apply modSlot_canonical | with_reducible apply modAcc_canonical
    | with_reducible apply modPt_canonical | with_reducible apply tellUnit_canonical | with_reducible apply invalidateEntry_canonical | (intro _)
    | split | dsimp only [MemoryCanonical] | assumption

/-! Quiesce -/

theorem leaveCore_canonical (s : State) (gr : Group) (vc k : Nat) (sv : Saved) (kept : Group) (hM : MemoryCanonical s) :
    MemoryCanonical (leaveCore s gr vc k sv kept) := releaseUnits_canonical s vc gr.grid gr.gidx hM

theorem evictTo_canonical (s : State) (gr : Group) (vc k : Nat) (hM : MemoryCanonical s) : MemoryCanonical (evictTo s gr vc k) := by
  unfold evictTo
  apply settleEntries_canonical
  apply settleOps_canonical
  apply leaveCore_canonical
  exact hubWrite_canonical _ _ _ hM

theorem settleInst_canonical (s : State) (t : Thread) (hM : MemoryCanonical s) : MemoryCanonical (settleInst s t) := by
  unfold settleInst
  repeat' first
    | with_reducible assumption | with_reducible apply rerun_canonical | split | dsimp only [MemoryCanonical] | assumption

theorem settleInsts_canonical (s : State) (p : Thread → Bool) (hM : MemoryCanonical s) : MemoryCanonical (settleInsts s p) := by
  unfold settleInsts
  repeat' first
    | with_reducible assumption | with_reducible apply settleInst_canonical | with_reducible apply foldl_canonical
    | with_reducible apply foldlPair_canonical | with_reducible refine fst_canonical (by assumption) ?_ | (intro _) | split
    | dsimp only [MemoryCanonical] | assumption

theorem restartable_canonical (s : State) (ctx : Nat) (hM : MemoryCanonical s) : MemoryCanonical (restartable s ctx) := hM

theorem setPhase_canonical (s : State) (ctx n : Nat) (hM : MemoryCanonical s) : MemoryCanonical (setPhase s ctx n) := hM

theorem enterPhase_canonical (s : State) (ctx n : Nat) (hM : MemoryCanonical s) : MemoryCanonical (enterPhase s ctx n) := by
  unfold enterPhase
  repeat' first
    | with_reducible assumption | with_reducible apply modCtx_canonical | with_reducible apply settleInsts_canonical
    | with_reducible apply restartable_canonical | with_reducible apply setPhase_canonical | (intro _) | split | dsimp only [MemoryCanonical]
    | assumption

theorem applyLatched_canonical (s : State) (ctx : Nat) (hM : MemoryCanonical s) : MemoryCanonical (applyLatched s ctx) := by
  unfold applyLatched
  repeat' first
    | with_reducible assumption | with_reducible apply modGrid_canonical | with_reducible apply shapePoint_canonical
    | with_reducible apply foldl_canonical | with_reducible apply foldlPair_canonical | with_reducible refine fst_canonical (by assumption) ?_
    | (intro _) | split | dsimp only [MemoryCanonical] | assumption

theorem resumeCtx_canonical (s : State) (ctx : Nat) (hM : MemoryCanonical s) : MemoryCanonical (resumeCtx s ctx) := by
  unfold resumeCtx
  repeat' first
    | with_reducible assumption | with_reducible apply modCtx_canonical | with_reducible apply retestHeads_canonical
    | with_reducible apply retestWaits_canonical | with_reducible apply applyLatched_canonical | (intro _) | split | dsimp only [MemoryCanonical]
    | assumption

theorem setDie_canonical (s : State) (d : Nat) (st : DieSt) (hM : MemoryCanonical s) : MemoryCanonical (setDie s d st) := hM

theorem clearGroup_canonical (d : Nat) (kill : Bool) (s : State) (gr : Group) (hM : MemoryCanonical s) : MemoryCanonical (clearGroup d kill s gr) := by
  unfold clearGroup
  repeat' first
    | with_reducible assumption | with_reducible apply killGroup_canonical | with_reducible apply evictTo_canonical | split
    | dsimp only [MemoryCanonical] | assumption

theorem clearGroups_canonical (s : State) (d : Nat) (kill : Bool) (hM : MemoryCanonical s) : MemoryCanonical (clearGroups s d kill) := by
  unfold clearGroups
  repeat' first
    | with_reducible assumption | with_reducible apply clearGroup_canonical | with_reducible apply foldl_canonical
    | with_reducible apply foldlPair_canonical | with_reducible refine fst_canonical (by assumption) ?_ | (intro _) | split
    | dsimp only [MemoryCanonical] | assumption

theorem wipeDie_canonical (s : State) (d : Nat) (hM : MemoryCanonical s) : MemoryCanonical (wipeDie s d) := by
  unfold wipeDie
  repeat' first
    | with_reducible assumption | with_reducible apply modCore_canonical | with_reducible apply modDie_canonical
    | with_reducible apply flushDie_canonical | with_reducible apply foldl_canonical | with_reducible apply foldlPair_canonical
    | with_reducible refine fst_canonical (by assumption) ?_ | (intro _) | split | dsimp only [MemoryCanonical] | assumption

theorem writeBackHome_canonical (s : State) (d : Nat) (hM : MemoryCanonical s) : MemoryCanonical (writeBackHome s d) := hM

theorem bringBack_canonical (s : State) (gr : Group) (hM : MemoryCanonical s) : MemoryCanonical (bringBack s gr) := by
  unfold bringBack
  repeat' first
    | with_reducible assumption | with_reducible apply restoreTo_canonical | split | dsimp only [MemoryCanonical] | assumption

theorem hostAnswer_canonical (s : State) (bs : List Byte) (hM : MemoryCanonical s) : MemoryCanonical (hostAnswer s bs) := hM

theorem serveHost_canonical : ∀ (l : List HostReq) (s : State), MemoryCanonical s → MemoryCanonical (serveHost s l)
  | [], _, h => h
  | .write pa data :: r, s, h => by
    unfold serveHost
    split
    · exact h
    · exact serveHost_canonical r _ (hubWrite_canonical _ _ _ h)
  | .read pa n :: r, s, h => by
    unfold serveHost
    split
    · exact serveHost_canonical r _ h
    · exact serveHost_canonical r _ (hubReads_canonical _ _ _ h)

theorem endReadmit_canonical (s : State) (d : Nat) (hM : MemoryCanonical s) : MemoryCanonical (endReadmit s d) := by
  unfold endReadmit
  refine serveHost_canonical _ _ (settleEffects_canonical _ (foldl_canonical (fun s gr h => bringBack_canonical s gr h) _ _
    (foldl_canonical (fun s u h => returnThread_canonical s u h) _ _ (setDie_canonical _ _ _ hM))))

/-! Package -/

theorem ctxResult_canonical (s : State) (ctx res act : Nat) (hM : MemoryCanonical s) : MemoryCanonical (ctxResult s ctx res act) := hM

theorem createCtx_canonical (s : State) (sup : Bool) (hM : MemoryCanonical s) : MemoryCanonical (createCtx s sup) := by
  unfold createCtx
  repeat' first
    | with_reducible assumption | with_reducible apply ctxResult_canonical | (intro _) | split | dsimp only [MemoryCanonical] | assumption

theorem destroyCtx_canonical (s : State) (n : Nat) (hM : MemoryCanonical s) : MemoryCanonical (destroyCtx s n) := hM

theorem clearRoutes_canonical (fibre : Nat) : ∀ (l : List Nat) (s : State), MemoryCanonical s → MemoryCanonical (clearRoutes fibre l s)
  | [], _, h => h
  | p :: r, s, h => by
    unfold clearRoutes
    apply clearRoutes_canonical fibre r
    split
    · exact hubWrite_canonical _ _ _ h
    · exact h

theorem clearFibre_canonical (s : State) (fibre : Nat) (hM : MemoryCanonical s) : MemoryCanonical (clearFibre s fibre) := by
  unfold clearFibre
  exact clearRoutes_canonical fibre (List.range 4096) s hM

theorem emptyWay_canonical (s : State) (site : WaySite) (way : Nat) (hM : MemoryCanonical s) : MemoryCanonical (emptyWay s site way) := by
  unfold emptyWay
  repeat' first
    | with_reducible assumption | with_reducible apply modDie_canonical | with_reducible apply writeBackFrom_canonical
    | with_reducible apply foldl_canonical | with_reducible apply foldlPair_canonical | with_reducible refine fst_canonical (by assumption) ?_
    | (intro _) | split | dsimp only [MemoryCanonical] | assumption

theorem withoutPower_canonical (s : State) (p : Pkg) (_hM : MemoryCanonical s) : MemoryCanonical (withoutPower s p) := by
  show Memory.wf [] = true
  rfl

/-! Objects -/

theorem peekBytes_canonical (c : Ctx) (need : HubNeed) : ∀ (k : Nat) (s : State) (va n : Nat), MemoryCanonical s → MemoryCanonical (peekBytes c need k s va n).1
  | 0, _, _, _, h => h
  | k + 1, s, va, n, h => by
    have h1 := hubTranslate_canonical s c va need false h
    unfold peekBytes
    split
    · exact h
    · dsimp only
      split
      · rename_i e; rw [e] at h1; exact h1
      · rename_i e; rw [e] at h1; exact peekBytes_canonical c need k _ _ _ (hubReads_canonical _ _ _ h1)

theorem peekRange_canonical (s : State) (c : Ctx) (need : HubNeed) (va n : Nat) (hM : MemoryCanonical s) : MemoryCanonical (peekRange s c need va n).1 := by
  unfold peekRange
  repeat' first
    | with_reducible assumption | with_reducible apply setStalls_canonical | with_reducible apply peekBytes_canonical | split
    | dsimp only [MemoryCanonical] | assumption

theorem readObject_canonical (s : State) (c : Ctx) (va : Nat) (hM : MemoryCanonical s) : MemoryCanonical (readObject s c va).1 := by
  unfold readObject
  repeat' first
    | with_reducible assumption | with_reducible apply peekRange_canonical | with_reducible refine fst_canonical (by assumption) ?_ | split
    | dsimp only [MemoryCanonical] | assumption

theorem objResult_canonical (s : State) (ctx onum check act : Nat) (hM : MemoryCanonical s) : MemoryCanonical (objResult s ctx onum check act) := hM

theorem registerObject_canonical (s : State) (ctx : Nat) (hM : MemoryCanonical s) : MemoryCanonical (registerObject s ctx) := by
  unfold registerObject
  repeat' first
    | with_reducible assumption | with_reducible apply modCtx_canonical | with_reducible apply readObject_canonical
    | with_reducible apply objResult_canonical | with_reducible refine fst_canonical (by assumption) ?_ | (intro _) | split
    | dsimp only [MemoryCanonical] | assumption

theorem dropObject_canonical (s : State) (ctx onum : Nat) (hM : MemoryCanonical s) : MemoryCanonical (dropObject s ctx onum) := hM

theorem unregisterObject_canonical (s : State) (ctx onum : Nat) (hM : MemoryCanonical s) : MemoryCanonical (unregisterObject s ctx onum) := by
  unfold unregisterObject
  repeat' first
    | with_reducible assumption | with_reducible apply objResult_canonical | with_reducible apply dropObject_canonical | split
    | dsimp only [MemoryCanonical] | assumption

/-! Aperture -/

theorem writeDhalt_canonical (s : State) (base : Nat) (v : BitVec 64) (hM : MemoryCanonical s) : MemoryCanonical (writeDhalt s base v) := hM

theorem writeNonce_canonical (s : State) (i : Nat) (v : BitVec 64) (hM : MemoryCanonical s) : MemoryCanonical (writeNonce s i v) := hM

theorem writeThr_canonical (s : State) (n : Nat) (v : BitVec 64) (hM : MemoryCanonical s) : MemoryCanonical (writeThr s n v) := hM

theorem writeWindow_canonical (s : State) (n : Nat) (v : BitVec 64) (hM : MemoryCanonical s) : MemoryCanonical (writeWindow s n v) := by
  unfold writeWindow
  repeat' first
    | with_reducible assumption | with_reducible apply modCtx_canonical | with_reducible apply writeCtxReg_canonical | (intro _) | split
    | dsimp only [MemoryCanonical] | assumption

theorem writeMonBlock_canonical (s : State) (off : Nat) (v : BitVec 32) (hM : MemoryCanonical s) : MemoryCanonical (writeMonBlock s off v) := by
  unfold writeMonBlock
  repeat' first
    | with_reducible assumption | with_reducible apply modMon_canonical | (intro _) | split | dsimp only [MemoryCanonical] | assumption

/-! Image -/

theorem predTable_canonical (s : State) (c : Ctx) (hM : MemoryCanonical s) : MemoryCanonical (predTable s c).1 := by
  unfold predTable
  repeat' first
    | with_reducible assumption | with_reducible apply peekRange_canonical | with_reducible refine fst_canonical (by assumption) ?_ | split
    | dsimp only [MemoryCanonical] | assumption

theorem putRange_canonical (c : Ctx) : ∀ (k : Nat) (s : State) (va : Nat) (bs : List Byte), MemoryCanonical s → MemoryCanonical (putRange c k s va bs).1
  | 0, _, _, _, h => h
  | k + 1, s, va, bs, h => by
    have h1 := hubTranslate_canonical s c va ⟨false, true, none, false⟩ true h
    unfold putRange
    split
    · exact h
    · dsimp only
      split
      · rename_i e; rw [e] at h1; exact h1
      · rename_i e; rw [e] at h1; exact putRange_canonical c k _ _ _ (hubWrite_canonical _ _ _ h1)

theorem saveImage_canonical (s : State) (ctx tctx va : Nat) (hM : MemoryCanonical s) : MemoryCanonical (saveImage s ctx tctx va).1 := by
  unfold saveImage
  repeat' first
    | with_reducible assumption | with_reducible apply setPhase_canonical | with_reducible apply predTable_canonical
    | with_reducible apply putRange_canonical | with_reducible refine fst_canonical (by assumption) ?_ | split | dsimp only [MemoryCanonical]
    | assumption

theorem readObjs_canonical (c : Ctx) : ∀ (l : List (List Byte)) (s : State), MemoryCanonical s → MemoryCanonical (readObjs c l s).1
  | [], _, h => h
  | e :: r, s, h => by
    have h1 := readObject_canonical s c (fieldAt e 8 8) h
    unfold readObjs
    split
    · rename_i q; rw [q] at h1; exact readObjs_canonical c r _ h1
    · rename_i q; rw [q] at h1; exact h1

theorem readGroup_canonical (s : State) (rb : Rebuild) (k : Nat) (b : List Byte) (hM : MemoryCanonical s) : MemoryCanonical (readGroup s rb k b) := hM

theorem placeGroup_canonical (s : State) (gr : Group) (hM : MemoryCanonical s) : MemoryCanonical (placeGroup s gr) := by
  unfold placeGroup
  split
  · split
    · exact modGroup_canonical _ _ _ _ (freeDugout_canonical _ _ hM)
    · split
      · exact restoreTo_canonical _ _ _ _ hM
      · dsimp only [MemoryCanonical]
        split
        · exact hubWrite_canonical _ _ _ hM
        · exact hM
  · exact hM

theorem restoreGroup_canonical (rb : Rebuild) (s : State) (b : List Byte) (hM : MemoryCanonical s) : MemoryCanonical (restoreGroup rb s b) := by
  unfold restoreGroup
  repeat' first
    | with_reducible assumption | with_reducible apply readGroup_canonical | with_reducible apply placeGroup_canonical | split
    | dsimp only [MemoryCanonical] | assumption

theorem rebuild_canonical (s : State) (t : Ctx) (secs : List Sec) (c1 : Ctx) (objs : List Obj) (hM : MemoryCanonical s) : MemoryCanonical (rebuild s t secs c1 objs) := by
  unfold rebuild
  repeat' first
    | with_reducible assumption | with_reducible apply modCtx_canonical | with_reducible apply putRange_canonical
    | with_reducible apply restoreGroup_canonical | with_reducible apply foldl_canonical | with_reducible apply foldlPair_canonical
    | with_reducible refine fst_canonical (by assumption) ?_ | (intro _) | split | dsimp only [MemoryCanonical] | assumption

theorem loadImage_canonical (s : State) (ctx tctx va : Nat) (hM : MemoryCanonical s) : MemoryCanonical (loadImage s ctx tctx va).1 := by
  unfold loadImage
  repeat' first
    | with_reducible assumption | with_reducible apply peekRange_canonical | with_reducible apply readObjs_canonical
    | with_reducible apply rebuild_canonical | with_reducible apply foldl_canonical | with_reducible apply foldlPair_canonical
    | with_reducible refine fst_canonical (by assumption) ?_ | (intro _) | split | dsimp only [MemoryCanonical] | assumption

/-! Run -/

theorem badWord_canonical (s : State) (vc frame idx code : Nat) (hM : MemoryCanonical s) : MemoryCanonical (badWord s vc frame idx code) := by
  unfold badWord
  repeat' first
    | with_reducible assumption | with_reducible apply takeFault_canonical | split | dsimp only [MemoryCanonical] | assumption

theorem flushed_canonical (o : Out) (h : OutCanonical o) : OutCanonical (flushed o) := by
  unfold flushed
  split
  · exact .of_next (flushStalls_canonical _ (h.next _ rfl))
  · exact h

theorem answerTo_canonical (s : State) (r : PeerReply) (hM : MemoryCanonical s) : MemoryCanonical (answerTo s r) := by
  unfold answerTo
  repeat' first
    | with_reducible assumption | (intro _) | split | dsimp only [MemoryCanonical] | assumption

theorem clockLimits_canonical (s : State) (region floor ceil : Nat) (hM : MemoryCanonical s) : MemoryCanonical (clockLimits s region floor ceil) := by
  unfold clockLimits
  repeat' first
    | with_reducible assumption | (intro _) | split | dsimp only [MemoryCanonical] | assumption

theorem countFlits_canonical (s : State) (n : Nat) (resent : Bool) (hM : MemoryCanonical s) : MemoryCanonical (countFlits s n resent) := hM

end Sys2Proof.Machine
end

