-- ==== Sys2Proof/Laws/Fire.lean ====
section
/-! SUPPORT. What a word that fires answers, once for each shared operation of Fire.lean and Memory.lean, and what it leaves alone. -/
namespace Sys2Proof.Machine

/-- A computing word that is not decided before answers what it computes. -/
theorem fireWith_computes {i : Instr} {s : State} {x : Site} {sh : Shape} {f : Site → Shape → Tok × Nat}
    (hi : shape i = some sh) (h : Computes s x sh) : fireWith i s f = .next (emit s x (f x sh).1 (f x sh).2) := by
  obtain ⟨⟨h1, h2⟩, h3⟩ := h
  simp [fireWith, h1, hi, h2, h3]

/-- A computing word that R46 decides answers that token, with no condition. -/
theorem fireWith_gated {i : Instr} {s : State} {x : Site} {sh : Shape} {f : Site → Shape → Tok × Nat} {tok : Tok}
    (hi : shape i = some sh) (h : Fires s x sh) (hg : siteGate s x sh = some tok) : fireWith i s f = .next (emit s x tok 0) := by
  obtain ⟨h1, h2⟩ := h
  simp [fireWith, h1, hi, h2, hg]

/-- An integer word sends its function of the operands. -/
theorem fireInt_computes {i : Instr} {s : State} {x : Site} {sh : Shape} {f : Nat → Nat → Nat → Nat}
    (hi : shape i = some sh) (h : Computes s x sh) :
    fireInt i s f = .next (emit s x (valTok (f (portVal s x sh 0) (portVal s x sh 1) (portVal s x sh 2))) 0) :=
  fireWith_computes hi h

/-- An integer word that R46 decides. -/
theorem fireInt_gated {i : Instr} {s : State} {x : Site} {sh : Shape} {f : Nat → Nat → Nat → Nat} {tok : Tok}
    (hi : shape i = some sh) (h : Fires s x sh) (hg : siteGate s x sh = some tok) : fireInt i s f = .next (emit s x tok 0) :=
  fireWith_gated hi h hg

/-- A floating-point word that R46 decides. -/
theorem fireFloat_gated {i : Instr} {s : State} {x : Site} {sh : Shape} {f : Nat → Nat → Nat → FRes} {tok : Tok}
    (hi : shape i = some sh) (h : Fires s x sh) (hg : siteGate s x sh = some tok) : fireFloat i s f = .next (emit s x tok 0) :=
  fireWith_gated hi h hg

/-- A floating-point word sends its result, or poison for it. -/
theorem fireFloat_computes {i : Instr} {s : State} {x : Site} {sh : Shape} {f : Nat → Nat → Nat → FRes}
    (hi : shape i = some sh) (h : Computes s x sh) :
    SendsFloat (fireFloat i s f) s x (f (portVal s x sh 0) (portVal s x sh 1) (portVal s x sh 2)) :=
  fireWith_computes hi h

/-- A word that acts at commit fires and sends nothing. -/
theorem fireSink_fires {i : Instr} {s : State} {x : Site} {sh : Shape} (hi : shape i = some sh) (h : Fires s x sh) :
    fireSink i s = .next (emit s x .null 0) := by
  obtain ⟨h1, h2⟩ := h
  simp [fireSink, h1, hi, h2]

/-- A load that R46 decides answers that token. -/
theorem fireLoad_gated {i : Instr} {s : State} {x : Site} {sh : Shape} {f : Site → Shape → State × LoadAct} {tok : Tok}
    (hi : shape i = some sh) (h : Fires s x sh) (hg : siteGate s x sh = some tok) : fireLoad i s f = .next (emit s x tok 0) := by
  obtain ⟨h1, h2⟩ := h
  simp [fireLoad, h1, hi, h2, hg]

/-- A load whose value is there at once sends it. -/
theorem fireLoad_token {i : Instr} {s : State} {x : Site} {sh : Shape} {f : Site → Shape → State × LoadAct} {s1 : State} {tok : Tok}
    (hi : shape i = some sh) (h : Computes s x sh) (hf : f x sh = (s1, .tok tok)) : fireLoad i s f = .next (emit s1 x tok 0) := by
  obtain ⟨⟨h1, h2⟩, h3⟩ := h
  simp [fireLoad, h1, hi, h2, h3, hf]

/-- A load that issues a request has fired and waits for it. -/
theorem fireLoad_request {i : Instr} {s : State} {x : Site} {sh : Shape} {f : Site → Shape → State × LoadAct} {s1 : State} {va : Nat} {st : LoadSt}
    (hi : shape i = some sh) (h : Computes s x sh) (hf : f x sh = (s1, .req va st)) :
    fireLoad i s f = .next (modThread s1 x.t.uid fun t => { t with inst := some (issueInst x.ins x.idx va st (coreNow s x.t.vc)) }) := by
  obtain ⟨⟨h1, h2⟩, h3⟩ := h
  simp [fireLoad, h1, hi, h2, h3, hf]

/-! Frames -/

/-- Sending a token changes one instance. -/
theorem emit_instanceOnly {s : State} {x : Site} (h : site? s = some x) (tok : Tok) (c : Nat) : InstanceOnly s (emit s x tok c) :=
  .inr ⟨x, _, h, rfl⟩

/-- A computing word changes one instance. -/
theorem fireWith_instanceOnly {i : Instr} {s t : State} {f : Site → Shape → Tok × Nat} (h : fireWith i s f = .next t) : InstanceOnly s t := by
  unfold fireWith at h
  split at h
  · split at h
    · split at h <;> cases h <;> exact emit_instanceOnly (by assumption) ..
    · cases h; exact .inl rfl
  · cases h; exact .inl rfl

/-- A word that acts at commit changes one instance when it fires. -/
theorem fireSink_instanceOnly {i : Instr} {s t : State} (h : fireSink i s = .next t) : InstanceOnly s t := by
  unfold fireSink at h
  split at h
  · split at h <;> cases h
    · exact emit_instanceOnly (by assumption) ..
    · exact .inl rfl
  · cases h; exact .inl rfl

/-- A load that touches no state when it looks its value up changes one instance. -/
theorem fireLoad_instanceOnly {i : Instr} {s t : State} {f : Site → Shape → State × LoadAct} (hf : ∀ x sh, (f x sh).1 = s)
    (h : fireLoad i s f = .next t) : InstanceOnly s t := by
  unfold fireLoad at h
  split at h
  · split at h
    · split at h
      · cases h; exact emit_instanceOnly (by assumption) ..
      · simp only [hf] at h
        split at h <;> cases h
        · exact emit_instanceOnly (by assumption) ..
        · exact .inr ⟨_, _, by assumption, rfl⟩
    · cases h; exact .inl rfl
  · cases h; exact .inl rfl

/-- Changing one instance keeps every frame. -/
theorem InstanceOnly.frames {s t : State} (h : InstanceOnly s t) : FramesKept s t := by
  rcases h with rfl | ⟨x, ins, _, rfl⟩
  · exact ⟨rfl, rfl, rfl, rfl, rfl, rfl, rfl⟩
  · refine ⟨rfl, rfl, rfl, rfl, rfl, rfl, ?_⟩
    simp only [modThread, modWhere, List.map_map]
    exact List.map_congr_left fun u _ => by simp only [Function.comp]; split <;> rfl

/-- Changing one instance keeps memory. -/
theorem InstanceOnly.memory {s t : State} (h : InstanceOnly s t) : t.hub.placed = s.hub.placed := by
  rcases h with rfl | ⟨x, ins, _, rfl⟩ <;> rfl

end Sys2Proof.Machine
end

