-- ==== Sys2Proof/Laws/State.lean ====
section
/-! SUPPORT. The state under its updates: for each update one lemma for each field that it leaves alone, then what a look-up gives after it. -/
namespace Sys2Proof.Machine

@[simp] theorem modCtx_agenda (s : State) (n : Nat) (f : Ctx → Ctx) : (modCtx s n f).agenda = s.agenda := rfl
@[simp] theorem modCtx_focus (s : State) (n : Nat) (f : Ctx → Ctx) : (modCtx s n f).focus = s.focus := rfl
@[simp] theorem modCtx_nextId (s : State) (n : Nat) (f : Ctx → Ctx) : (modCtx s n f).nextId = s.nextId := rfl
@[simp] theorem modCtx_clock (s : State) (n : Nat) (f : Ctx → Ctx) : (modCtx s n f).clock = s.clock := rfl
@[simp] theorem modCtx_pkg (s : State) (n : Nat) (f : Ctx → Ctx) : (modCtx s n f).pkg = s.pkg := rfl
@[simp] theorem modCtx_ap (s : State) (n : Nat) (f : Ctx → Ctx) : (modCtx s n f).ap = s.ap := rfl
@[simp] theorem modCtx_hub (s : State) (n : Nat) (f : Ctx → Ctx) : (modCtx s n f).hub = s.hub := rfl
@[simp] theorem modCtx_dies (s : State) (n : Nat) (f : Ctx → Ctx) : (modCtx s n f).dies = s.dies := rfl
@[simp] theorem modCtx_cores (s : State) (n : Nat) (f : Ctx → Ctx) : (modCtx s n f).cores = s.cores := rfl
@[simp] theorem modCtx_grids (s : State) (n : Nat) (f : Ctx → Ctx) : (modCtx s n f).grids = s.grids := rfl
@[simp] theorem modCtx_groups (s : State) (n : Nat) (f : Ctx → Ctx) : (modCtx s n f).groups = s.groups := rfl
@[simp] theorem modCtx_threads (s : State) (n : Nat) (f : Ctx → Ctx) : (modCtx s n f).threads = s.threads := rfl
@[simp] theorem modCtx_effects (s : State) (n : Nat) (f : Ctx → Ctx) : (modCtx s n f).effects = s.effects := rfl
@[simp] theorem modCtx_replies (s : State) (n : Nat) (f : Ctx → Ctx) : (modCtx s n f).replies = s.replies := rfl

@[simp] theorem modGrid_agenda (s : State) (g : Nat) (f : Grid → Grid) : (modGrid s g f).agenda = s.agenda := rfl
@[simp] theorem modGrid_focus (s : State) (g : Nat) (f : Grid → Grid) : (modGrid s g f).focus = s.focus := rfl
@[simp] theorem modGrid_nextId (s : State) (g : Nat) (f : Grid → Grid) : (modGrid s g f).nextId = s.nextId := rfl
@[simp] theorem modGrid_clock (s : State) (g : Nat) (f : Grid → Grid) : (modGrid s g f).clock = s.clock := rfl
@[simp] theorem modGrid_pkg (s : State) (g : Nat) (f : Grid → Grid) : (modGrid s g f).pkg = s.pkg := rfl
@[simp] theorem modGrid_ap (s : State) (g : Nat) (f : Grid → Grid) : (modGrid s g f).ap = s.ap := rfl
@[simp] theorem modGrid_hub (s : State) (g : Nat) (f : Grid → Grid) : (modGrid s g f).hub = s.hub := rfl
@[simp] theorem modGrid_dies (s : State) (g : Nat) (f : Grid → Grid) : (modGrid s g f).dies = s.dies := rfl
@[simp] theorem modGrid_cores (s : State) (g : Nat) (f : Grid → Grid) : (modGrid s g f).cores = s.cores := rfl
@[simp] theorem modGrid_ctxs (s : State) (g : Nat) (f : Grid → Grid) : (modGrid s g f).ctxs = s.ctxs := rfl
@[simp] theorem modGrid_groups (s : State) (g : Nat) (f : Grid → Grid) : (modGrid s g f).groups = s.groups := rfl
@[simp] theorem modGrid_threads (s : State) (g : Nat) (f : Grid → Grid) : (modGrid s g f).threads = s.threads := rfl
@[simp] theorem modGrid_effects (s : State) (g : Nat) (f : Grid → Grid) : (modGrid s g f).effects = s.effects := rfl
@[simp] theorem modGrid_replies (s : State) (g : Nat) (f : Grid → Grid) : (modGrid s g f).replies = s.replies := rfl

@[simp] theorem modGroup_agenda (s : State) (g gi : Nat) (f : Group → Group) : (modGroup s g gi f).agenda = s.agenda := rfl
@[simp] theorem modGroup_focus (s : State) (g gi : Nat) (f : Group → Group) : (modGroup s g gi f).focus = s.focus := rfl
@[simp] theorem modGroup_nextId (s : State) (g gi : Nat) (f : Group → Group) : (modGroup s g gi f).nextId = s.nextId := rfl
@[simp] theorem modGroup_clock (s : State) (g gi : Nat) (f : Group → Group) : (modGroup s g gi f).clock = s.clock := rfl
@[simp] theorem modGroup_pkg (s : State) (g gi : Nat) (f : Group → Group) : (modGroup s g gi f).pkg = s.pkg := rfl
@[simp] theorem modGroup_ap (s : State) (g gi : Nat) (f : Group → Group) : (modGroup s g gi f).ap = s.ap := rfl
@[simp] theorem modGroup_hub (s : State) (g gi : Nat) (f : Group → Group) : (modGroup s g gi f).hub = s.hub := rfl
@[simp] theorem modGroup_dies (s : State) (g gi : Nat) (f : Group → Group) : (modGroup s g gi f).dies = s.dies := rfl
@[simp] theorem modGroup_cores (s : State) (g gi : Nat) (f : Group → Group) : (modGroup s g gi f).cores = s.cores := rfl
@[simp] theorem modGroup_ctxs (s : State) (g gi : Nat) (f : Group → Group) : (modGroup s g gi f).ctxs = s.ctxs := rfl
@[simp] theorem modGroup_grids (s : State) (g gi : Nat) (f : Group → Group) : (modGroup s g gi f).grids = s.grids := rfl
@[simp] theorem modGroup_threads (s : State) (g gi : Nat) (f : Group → Group) : (modGroup s g gi f).threads = s.threads := rfl
@[simp] theorem modGroup_effects (s : State) (g gi : Nat) (f : Group → Group) : (modGroup s g gi f).effects = s.effects := rfl
@[simp] theorem modGroup_replies (s : State) (g gi : Nat) (f : Group → Group) : (modGroup s g gi f).replies = s.replies := rfl

@[simp] theorem modThread_agenda (s : State) (uid : Nat) (f : Thread → Thread) : (modThread s uid f).agenda = s.agenda := rfl
@[simp] theorem modThread_focus (s : State) (uid : Nat) (f : Thread → Thread) : (modThread s uid f).focus = s.focus := rfl
@[simp] theorem modThread_nextId (s : State) (uid : Nat) (f : Thread → Thread) : (modThread s uid f).nextId = s.nextId := rfl
@[simp] theorem modThread_clock (s : State) (uid : Nat) (f : Thread → Thread) : (modThread s uid f).clock = s.clock := rfl
@[simp] theorem modThread_pkg (s : State) (uid : Nat) (f : Thread → Thread) : (modThread s uid f).pkg = s.pkg := rfl
@[simp] theorem modThread_ap (s : State) (uid : Nat) (f : Thread → Thread) : (modThread s uid f).ap = s.ap := rfl
@[simp] theorem modThread_hub (s : State) (uid : Nat) (f : Thread → Thread) : (modThread s uid f).hub = s.hub := rfl
@[simp] theorem modThread_dies (s : State) (uid : Nat) (f : Thread → Thread) : (modThread s uid f).dies = s.dies := rfl
@[simp] theorem modThread_cores (s : State) (uid : Nat) (f : Thread → Thread) : (modThread s uid f).cores = s.cores := rfl
@[simp] theorem modThread_ctxs (s : State) (uid : Nat) (f : Thread → Thread) : (modThread s uid f).ctxs = s.ctxs := rfl
@[simp] theorem modThread_grids (s : State) (uid : Nat) (f : Thread → Thread) : (modThread s uid f).grids = s.grids := rfl
@[simp] theorem modThread_groups (s : State) (uid : Nat) (f : Thread → Thread) : (modThread s uid f).groups = s.groups := rfl
@[simp] theorem modThread_effects (s : State) (uid : Nat) (f : Thread → Thread) : (modThread s uid f).effects = s.effects := rfl
@[simp] theorem modThread_replies (s : State) (uid : Nat) (f : Thread → Thread) : (modThread s uid f).replies = s.replies := rfl

@[simp] theorem modCore_agenda (s : State) (vc : Nat) (f : Core → Core) : (modCore s vc f).agenda = s.agenda := rfl
@[simp] theorem modCore_focus (s : State) (vc : Nat) (f : Core → Core) : (modCore s vc f).focus = s.focus := rfl
@[simp] theorem modCore_nextId (s : State) (vc : Nat) (f : Core → Core) : (modCore s vc f).nextId = s.nextId := rfl
@[simp] theorem modCore_clock (s : State) (vc : Nat) (f : Core → Core) : (modCore s vc f).clock = s.clock := rfl
@[simp] theorem modCore_pkg (s : State) (vc : Nat) (f : Core → Core) : (modCore s vc f).pkg = s.pkg := rfl
@[simp] theorem modCore_ap (s : State) (vc : Nat) (f : Core → Core) : (modCore s vc f).ap = s.ap := rfl
@[simp] theorem modCore_hub (s : State) (vc : Nat) (f : Core → Core) : (modCore s vc f).hub = s.hub := rfl
@[simp] theorem modCore_dies (s : State) (vc : Nat) (f : Core → Core) : (modCore s vc f).dies = s.dies := rfl
@[simp] theorem modCore_ctxs (s : State) (vc : Nat) (f : Core → Core) : (modCore s vc f).ctxs = s.ctxs := rfl
@[simp] theorem modCore_grids (s : State) (vc : Nat) (f : Core → Core) : (modCore s vc f).grids = s.grids := rfl
@[simp] theorem modCore_groups (s : State) (vc : Nat) (f : Core → Core) : (modCore s vc f).groups = s.groups := rfl
@[simp] theorem modCore_threads (s : State) (vc : Nat) (f : Core → Core) : (modCore s vc f).threads = s.threads := rfl
@[simp] theorem modCore_effects (s : State) (vc : Nat) (f : Core → Core) : (modCore s vc f).effects = s.effects := rfl
@[simp] theorem modCore_replies (s : State) (vc : Nat) (f : Core → Core) : (modCore s vc f).replies = s.replies := rfl

@[simp] theorem modDie_agenda (s : State) (d : Nat) (f : Die → Die) : (modDie s d f).agenda = s.agenda := rfl
@[simp] theorem modDie_focus (s : State) (d : Nat) (f : Die → Die) : (modDie s d f).focus = s.focus := rfl
@[simp] theorem modDie_nextId (s : State) (d : Nat) (f : Die → Die) : (modDie s d f).nextId = s.nextId := rfl
@[simp] theorem modDie_clock (s : State) (d : Nat) (f : Die → Die) : (modDie s d f).clock = s.clock := rfl
@[simp] theorem modDie_pkg (s : State) (d : Nat) (f : Die → Die) : (modDie s d f).pkg = s.pkg := rfl
@[simp] theorem modDie_ap (s : State) (d : Nat) (f : Die → Die) : (modDie s d f).ap = s.ap := rfl
@[simp] theorem modDie_hub (s : State) (d : Nat) (f : Die → Die) : (modDie s d f).hub = s.hub := rfl
@[simp] theorem modDie_cores (s : State) (d : Nat) (f : Die → Die) : (modDie s d f).cores = s.cores := rfl
@[simp] theorem modDie_ctxs (s : State) (d : Nat) (f : Die → Die) : (modDie s d f).ctxs = s.ctxs := rfl
@[simp] theorem modDie_grids (s : State) (d : Nat) (f : Die → Die) : (modDie s d f).grids = s.grids := rfl
@[simp] theorem modDie_groups (s : State) (d : Nat) (f : Die → Die) : (modDie s d f).groups = s.groups := rfl
@[simp] theorem modDie_threads (s : State) (d : Nat) (f : Die → Die) : (modDie s d f).threads = s.threads := rfl
@[simp] theorem modDie_effects (s : State) (d : Nat) (f : Die → Die) : (modDie s d f).effects = s.effects := rfl
@[simp] theorem modDie_replies (s : State) (d : Nat) (f : Die → Die) : (modDie s d f).replies = s.replies := rfl

@[simp] theorem modStore_agenda (s : State) (vc : Nat) (f : Storage → Storage) : (modStore s vc f).agenda = s.agenda := rfl
@[simp] theorem modStore_focus (s : State) (vc : Nat) (f : Storage → Storage) : (modStore s vc f).focus = s.focus := rfl
@[simp] theorem modStore_nextId (s : State) (vc : Nat) (f : Storage → Storage) : (modStore s vc f).nextId = s.nextId := rfl
@[simp] theorem modStore_clock (s : State) (vc : Nat) (f : Storage → Storage) : (modStore s vc f).clock = s.clock := rfl
@[simp] theorem modStore_pkg (s : State) (vc : Nat) (f : Storage → Storage) : (modStore s vc f).pkg = s.pkg := rfl
@[simp] theorem modStore_ap (s : State) (vc : Nat) (f : Storage → Storage) : (modStore s vc f).ap = s.ap := rfl
@[simp] theorem modStore_hub (s : State) (vc : Nat) (f : Storage → Storage) : (modStore s vc f).hub = s.hub := rfl
@[simp] theorem modStore_dies (s : State) (vc : Nat) (f : Storage → Storage) : (modStore s vc f).dies = s.dies := rfl
@[simp] theorem modStore_ctxs (s : State) (vc : Nat) (f : Storage → Storage) : (modStore s vc f).ctxs = s.ctxs := rfl
@[simp] theorem modStore_grids (s : State) (vc : Nat) (f : Storage → Storage) : (modStore s vc f).grids = s.grids := rfl
@[simp] theorem modStore_groups (s : State) (vc : Nat) (f : Storage → Storage) : (modStore s vc f).groups = s.groups := rfl
@[simp] theorem modStore_threads (s : State) (vc : Nat) (f : Storage → Storage) : (modStore s vc f).threads = s.threads := rfl
@[simp] theorem modStore_effects (s : State) (vc : Nat) (f : Storage → Storage) : (modStore s vc f).effects = s.effects := rfl
@[simp] theorem modStore_replies (s : State) (vc : Nat) (f : Storage → Storage) : (modStore s vc f).replies = s.replies := rfl

@[simp] theorem modEffect_agenda (s : State) (id : Nat) (f : Effect → Effect) : (modEffect s id f).agenda = s.agenda := rfl
@[simp] theorem modEffect_focus (s : State) (id : Nat) (f : Effect → Effect) : (modEffect s id f).focus = s.focus := rfl
@[simp] theorem modEffect_nextId (s : State) (id : Nat) (f : Effect → Effect) : (modEffect s id f).nextId = s.nextId := rfl
@[simp] theorem modEffect_clock (s : State) (id : Nat) (f : Effect → Effect) : (modEffect s id f).clock = s.clock := rfl
@[simp] theorem modEffect_pkg (s : State) (id : Nat) (f : Effect → Effect) : (modEffect s id f).pkg = s.pkg := rfl
@[simp] theorem modEffect_ap (s : State) (id : Nat) (f : Effect → Effect) : (modEffect s id f).ap = s.ap := rfl
@[simp] theorem modEffect_hub (s : State) (id : Nat) (f : Effect → Effect) : (modEffect s id f).hub = s.hub := rfl
@[simp] theorem modEffect_dies (s : State) (id : Nat) (f : Effect → Effect) : (modEffect s id f).dies = s.dies := rfl
@[simp] theorem modEffect_cores (s : State) (id : Nat) (f : Effect → Effect) : (modEffect s id f).cores = s.cores := rfl
@[simp] theorem modEffect_ctxs (s : State) (id : Nat) (f : Effect → Effect) : (modEffect s id f).ctxs = s.ctxs := rfl
@[simp] theorem modEffect_grids (s : State) (id : Nat) (f : Effect → Effect) : (modEffect s id f).grids = s.grids := rfl
@[simp] theorem modEffect_groups (s : State) (id : Nat) (f : Effect → Effect) : (modEffect s id f).groups = s.groups := rfl
@[simp] theorem modEffect_threads (s : State) (id : Nat) (f : Effect → Effect) : (modEffect s id f).threads = s.threads := rfl
@[simp] theorem modEffect_replies (s : State) (id : Nat) (f : Effect → Effect) : (modEffect s id f).replies = s.replies := rfl

@[simp] theorem modPlace_agenda (s : State) (vc slot : Nat) (f : Placement → Placement) : (modPlace s vc slot f).agenda = s.agenda := rfl
@[simp] theorem modPlace_focus (s : State) (vc slot : Nat) (f : Placement → Placement) : (modPlace s vc slot f).focus = s.focus := rfl
@[simp] theorem modPlace_nextId (s : State) (vc slot : Nat) (f : Placement → Placement) : (modPlace s vc slot f).nextId = s.nextId := rfl
@[simp] theorem modPlace_clock (s : State) (vc slot : Nat) (f : Placement → Placement) : (modPlace s vc slot f).clock = s.clock := rfl
@[simp] theorem modPlace_pkg (s : State) (vc slot : Nat) (f : Placement → Placement) : (modPlace s vc slot f).pkg = s.pkg := rfl
@[simp] theorem modPlace_ap (s : State) (vc slot : Nat) (f : Placement → Placement) : (modPlace s vc slot f).ap = s.ap := rfl
@[simp] theorem modPlace_hub (s : State) (vc slot : Nat) (f : Placement → Placement) : (modPlace s vc slot f).hub = s.hub := rfl
@[simp] theorem modPlace_dies (s : State) (vc slot : Nat) (f : Placement → Placement) : (modPlace s vc slot f).dies = s.dies := rfl
@[simp] theorem modPlace_ctxs (s : State) (vc slot : Nat) (f : Placement → Placement) : (modPlace s vc slot f).ctxs = s.ctxs := rfl
@[simp] theorem modPlace_grids (s : State) (vc slot : Nat) (f : Placement → Placement) : (modPlace s vc slot f).grids = s.grids := rfl
@[simp] theorem modPlace_groups (s : State) (vc slot : Nat) (f : Placement → Placement) : (modPlace s vc slot f).groups = s.groups := rfl
@[simp] theorem modPlace_threads (s : State) (vc slot : Nat) (f : Placement → Placement) : (modPlace s vc slot f).threads = s.threads := rfl
@[simp] theorem modPlace_effects (s : State) (vc slot : Nat) (f : Placement → Placement) : (modPlace s vc slot f).effects = s.effects := rfl
@[simp] theorem modPlace_replies (s : State) (vc slot : Nat) (f : Placement → Placement) : (modPlace s vc slot f).replies = s.replies := rfl

@[simp] theorem modMon_agenda (s : State) (u : Nat) (f : Mon → Mon) : (modMon s u f).agenda = s.agenda := rfl
@[simp] theorem modMon_focus (s : State) (u : Nat) (f : Mon → Mon) : (modMon s u f).focus = s.focus := rfl
@[simp] theorem modMon_nextId (s : State) (u : Nat) (f : Mon → Mon) : (modMon s u f).nextId = s.nextId := rfl
@[simp] theorem modMon_clock (s : State) (u : Nat) (f : Mon → Mon) : (modMon s u f).clock = s.clock := rfl
@[simp] theorem modMon_ap (s : State) (u : Nat) (f : Mon → Mon) : (modMon s u f).ap = s.ap := rfl
@[simp] theorem modMon_hub (s : State) (u : Nat) (f : Mon → Mon) : (modMon s u f).hub = s.hub := rfl
@[simp] theorem modMon_dies (s : State) (u : Nat) (f : Mon → Mon) : (modMon s u f).dies = s.dies := rfl
@[simp] theorem modMon_cores (s : State) (u : Nat) (f : Mon → Mon) : (modMon s u f).cores = s.cores := rfl
@[simp] theorem modMon_ctxs (s : State) (u : Nat) (f : Mon → Mon) : (modMon s u f).ctxs = s.ctxs := rfl
@[simp] theorem modMon_grids (s : State) (u : Nat) (f : Mon → Mon) : (modMon s u f).grids = s.grids := rfl
@[simp] theorem modMon_groups (s : State) (u : Nat) (f : Mon → Mon) : (modMon s u f).groups = s.groups := rfl
@[simp] theorem modMon_threads (s : State) (u : Nat) (f : Mon → Mon) : (modMon s u f).threads = s.threads := rfl
@[simp] theorem modMon_effects (s : State) (u : Nat) (f : Mon → Mon) : (modMon s u f).effects = s.effects := rfl
@[simp] theorem modMon_replies (s : State) (u : Nat) (f : Mon → Mon) : (modMon s u f).replies = s.replies := rfl

@[simp] theorem setDie_agenda (s : State) (d : Nat) (st : DieSt) : (setDie s d st).agenda = s.agenda := rfl
@[simp] theorem setDie_focus (s : State) (d : Nat) (st : DieSt) : (setDie s d st).focus = s.focus := rfl
@[simp] theorem setDie_nextId (s : State) (d : Nat) (st : DieSt) : (setDie s d st).nextId = s.nextId := rfl
@[simp] theorem setDie_clock (s : State) (d : Nat) (st : DieSt) : (setDie s d st).clock = s.clock := rfl
@[simp] theorem setDie_pkg (s : State) (d : Nat) (st : DieSt) : (setDie s d st).pkg = s.pkg := rfl
@[simp] theorem setDie_ap (s : State) (d : Nat) (st : DieSt) : (setDie s d st).ap = s.ap := rfl
@[simp] theorem setDie_hub (s : State) (d : Nat) (st : DieSt) : (setDie s d st).hub = s.hub := rfl
@[simp] theorem setDie_cores (s : State) (d : Nat) (st : DieSt) : (setDie s d st).cores = s.cores := rfl
@[simp] theorem setDie_ctxs (s : State) (d : Nat) (st : DieSt) : (setDie s d st).ctxs = s.ctxs := rfl
@[simp] theorem setDie_grids (s : State) (d : Nat) (st : DieSt) : (setDie s d st).grids = s.grids := rfl
@[simp] theorem setDie_groups (s : State) (d : Nat) (st : DieSt) : (setDie s d st).groups = s.groups := rfl
@[simp] theorem setDie_threads (s : State) (d : Nat) (st : DieSt) : (setDie s d st).threads = s.threads := rfl
@[simp] theorem setDie_effects (s : State) (d : Nat) (st : DieSt) : (setDie s d st).effects = s.effects := rfl
@[simp] theorem setDie_replies (s : State) (d : Nat) (st : DieSt) : (setDie s d st).replies = s.replies := rfl

@[simp] theorem setHead_agenda (s : State) (ctx : Nat) (h : QHead) : (setHead s ctx h).agenda = s.agenda := rfl
@[simp] theorem setHead_focus (s : State) (ctx : Nat) (h : QHead) : (setHead s ctx h).focus = s.focus := rfl
@[simp] theorem setHead_nextId (s : State) (ctx : Nat) (h : QHead) : (setHead s ctx h).nextId = s.nextId := rfl
@[simp] theorem setHead_clock (s : State) (ctx : Nat) (h : QHead) : (setHead s ctx h).clock = s.clock := rfl
@[simp] theorem setHead_pkg (s : State) (ctx : Nat) (h : QHead) : (setHead s ctx h).pkg = s.pkg := rfl
@[simp] theorem setHead_ap (s : State) (ctx : Nat) (h : QHead) : (setHead s ctx h).ap = s.ap := rfl
@[simp] theorem setHead_hub (s : State) (ctx : Nat) (h : QHead) : (setHead s ctx h).hub = s.hub := rfl
@[simp] theorem setHead_dies (s : State) (ctx : Nat) (h : QHead) : (setHead s ctx h).dies = s.dies := rfl
@[simp] theorem setHead_cores (s : State) (ctx : Nat) (h : QHead) : (setHead s ctx h).cores = s.cores := rfl
@[simp] theorem setHead_grids (s : State) (ctx : Nat) (h : QHead) : (setHead s ctx h).grids = s.grids := rfl
@[simp] theorem setHead_groups (s : State) (ctx : Nat) (h : QHead) : (setHead s ctx h).groups = s.groups := rfl
@[simp] theorem setHead_threads (s : State) (ctx : Nat) (h : QHead) : (setHead s ctx h).threads = s.threads := rfl
@[simp] theorem setHead_effects (s : State) (ctx : Nat) (h : QHead) : (setHead s ctx h).effects = s.effects := rfl
@[simp] theorem setHead_replies (s : State) (ctx : Nat) (h : QHead) : (setHead s ctx h).replies = s.replies := rfl

@[simp] theorem flushDie_agenda (s : State) (d : Nat) : (flushDie s d).agenda = s.agenda := rfl
@[simp] theorem flushDie_focus (s : State) (d : Nat) : (flushDie s d).focus = s.focus := rfl
@[simp] theorem flushDie_nextId (s : State) (d : Nat) : (flushDie s d).nextId = s.nextId := rfl
@[simp] theorem flushDie_clock (s : State) (d : Nat) : (flushDie s d).clock = s.clock := rfl
@[simp] theorem flushDie_pkg (s : State) (d : Nat) : (flushDie s d).pkg = s.pkg := rfl
@[simp] theorem flushDie_ap (s : State) (d : Nat) : (flushDie s d).ap = s.ap := rfl
@[simp] theorem flushDie_hub (s : State) (d : Nat) : (flushDie s d).hub = s.hub := rfl
@[simp] theorem flushDie_cores (s : State) (d : Nat) : (flushDie s d).cores = s.cores := rfl
@[simp] theorem flushDie_ctxs (s : State) (d : Nat) : (flushDie s d).ctxs = s.ctxs := rfl
@[simp] theorem flushDie_grids (s : State) (d : Nat) : (flushDie s d).grids = s.grids := rfl
@[simp] theorem flushDie_groups (s : State) (d : Nat) : (flushDie s d).groups = s.groups := rfl
@[simp] theorem flushDie_threads (s : State) (d : Nat) : (flushDie s d).threads = s.threads := rfl
@[simp] theorem flushDie_effects (s : State) (d : Nat) : (flushDie s d).effects = s.effects := rfl
@[simp] theorem flushDie_replies (s : State) (d : Nat) : (flushDie s d).replies = s.replies := rfl

@[simp] theorem noteSignals_agenda (s : State) (rs : Runs) : (noteSignals s rs).agenda = s.agenda := rfl
@[simp] theorem noteSignals_focus (s : State) (rs : Runs) : (noteSignals s rs).focus = s.focus := rfl
@[simp] theorem noteSignals_nextId (s : State) (rs : Runs) : (noteSignals s rs).nextId = s.nextId := rfl
@[simp] theorem noteSignals_clock (s : State) (rs : Runs) : (noteSignals s rs).clock = s.clock := rfl
@[simp] theorem noteSignals_pkg (s : State) (rs : Runs) : (noteSignals s rs).pkg = s.pkg := rfl
@[simp] theorem noteSignals_ap (s : State) (rs : Runs) : (noteSignals s rs).ap = s.ap := rfl
@[simp] theorem noteSignals_dies (s : State) (rs : Runs) : (noteSignals s rs).dies = s.dies := rfl
@[simp] theorem noteSignals_cores (s : State) (rs : Runs) : (noteSignals s rs).cores = s.cores := rfl
@[simp] theorem noteSignals_ctxs (s : State) (rs : Runs) : (noteSignals s rs).ctxs = s.ctxs := rfl
@[simp] theorem noteSignals_grids (s : State) (rs : Runs) : (noteSignals s rs).grids = s.grids := rfl
@[simp] theorem noteSignals_groups (s : State) (rs : Runs) : (noteSignals s rs).groups = s.groups := rfl
@[simp] theorem noteSignals_threads (s : State) (rs : Runs) : (noteSignals s rs).threads = s.threads := rfl
@[simp] theorem noteSignals_effects (s : State) (rs : Runs) : (noteSignals s rs).effects = s.effects := rfl
@[simp] theorem noteSignals_replies (s : State) (rs : Runs) : (noteSignals s rs).replies = s.replies := rfl

@[simp] theorem setStalls_agenda (s : State) (l : List HubStall) : (setStalls s l).agenda = s.agenda := rfl
@[simp] theorem setStalls_focus (s : State) (l : List HubStall) : (setStalls s l).focus = s.focus := rfl
@[simp] theorem setStalls_nextId (s : State) (l : List HubStall) : (setStalls s l).nextId = s.nextId := rfl
@[simp] theorem setStalls_clock (s : State) (l : List HubStall) : (setStalls s l).clock = s.clock := rfl
@[simp] theorem setStalls_pkg (s : State) (l : List HubStall) : (setStalls s l).pkg = s.pkg := rfl
@[simp] theorem setStalls_ap (s : State) (l : List HubStall) : (setStalls s l).ap = s.ap := rfl
@[simp] theorem setStalls_dies (s : State) (l : List HubStall) : (setStalls s l).dies = s.dies := rfl
@[simp] theorem setStalls_cores (s : State) (l : List HubStall) : (setStalls s l).cores = s.cores := rfl
@[simp] theorem setStalls_ctxs (s : State) (l : List HubStall) : (setStalls s l).ctxs = s.ctxs := rfl
@[simp] theorem setStalls_grids (s : State) (l : List HubStall) : (setStalls s l).grids = s.grids := rfl
@[simp] theorem setStalls_groups (s : State) (l : List HubStall) : (setStalls s l).groups = s.groups := rfl
@[simp] theorem setStalls_threads (s : State) (l : List HubStall) : (setStalls s l).threads = s.threads := rfl
@[simp] theorem setStalls_effects (s : State) (l : List HubStall) : (setStalls s l).effects = s.effects := rfl
@[simp] theorem setStalls_replies (s : State) (l : List HubStall) : (setStalls s l).replies = s.replies := rfl

@[simp] theorem stallAt_agenda (s : State) (m : HubStall) : (stallAt s m).agenda = s.agenda := rfl
@[simp] theorem stallAt_focus (s : State) (m : HubStall) : (stallAt s m).focus = s.focus := rfl
@[simp] theorem stallAt_nextId (s : State) (m : HubStall) : (stallAt s m).nextId = s.nextId := rfl
@[simp] theorem stallAt_clock (s : State) (m : HubStall) : (stallAt s m).clock = s.clock := rfl
@[simp] theorem stallAt_pkg (s : State) (m : HubStall) : (stallAt s m).pkg = s.pkg := rfl
@[simp] theorem stallAt_ap (s : State) (m : HubStall) : (stallAt s m).ap = s.ap := rfl
@[simp] theorem stallAt_dies (s : State) (m : HubStall) : (stallAt s m).dies = s.dies := rfl
@[simp] theorem stallAt_cores (s : State) (m : HubStall) : (stallAt s m).cores = s.cores := rfl
@[simp] theorem stallAt_ctxs (s : State) (m : HubStall) : (stallAt s m).ctxs = s.ctxs := rfl
@[simp] theorem stallAt_grids (s : State) (m : HubStall) : (stallAt s m).grids = s.grids := rfl
@[simp] theorem stallAt_groups (s : State) (m : HubStall) : (stallAt s m).groups = s.groups := rfl
@[simp] theorem stallAt_threads (s : State) (m : HubStall) : (stallAt s m).threads = s.threads := rfl
@[simp] theorem stallAt_effects (s : State) (m : HubStall) : (stallAt s m).effects = s.effects := rfl
@[simp] theorem stallAt_replies (s : State) (m : HubStall) : (stallAt s m).replies = s.replies := rfl

@[simp] theorem holdEvent_agenda (s : State) (n : Nat) (r : EvRec) : (holdEvent s n r).agenda = s.agenda := rfl
@[simp] theorem holdEvent_focus (s : State) (n : Nat) (r : EvRec) : (holdEvent s n r).focus = s.focus := rfl
@[simp] theorem holdEvent_nextId (s : State) (n : Nat) (r : EvRec) : (holdEvent s n r).nextId = s.nextId := rfl
@[simp] theorem holdEvent_clock (s : State) (n : Nat) (r : EvRec) : (holdEvent s n r).clock = s.clock := rfl
@[simp] theorem holdEvent_pkg (s : State) (n : Nat) (r : EvRec) : (holdEvent s n r).pkg = s.pkg := rfl
@[simp] theorem holdEvent_ap (s : State) (n : Nat) (r : EvRec) : (holdEvent s n r).ap = s.ap := rfl
@[simp] theorem holdEvent_hub (s : State) (n : Nat) (r : EvRec) : (holdEvent s n r).hub = s.hub := rfl
@[simp] theorem holdEvent_dies (s : State) (n : Nat) (r : EvRec) : (holdEvent s n r).dies = s.dies := rfl
@[simp] theorem holdEvent_cores (s : State) (n : Nat) (r : EvRec) : (holdEvent s n r).cores = s.cores := rfl
@[simp] theorem holdEvent_grids (s : State) (n : Nat) (r : EvRec) : (holdEvent s n r).grids = s.grids := rfl
@[simp] theorem holdEvent_groups (s : State) (n : Nat) (r : EvRec) : (holdEvent s n r).groups = s.groups := rfl
@[simp] theorem holdEvent_threads (s : State) (n : Nat) (r : EvRec) : (holdEvent s n r).threads = s.threads := rfl
@[simp] theorem holdEvent_effects (s : State) (n : Nat) (r : EvRec) : (holdEvent s n r).effects = s.effects := rfl
@[simp] theorem holdEvent_replies (s : State) (n : Nat) (r : EvRec) : (holdEvent s n r).replies = s.replies := rfl

@[simp] theorem emit_agenda (s : State) (x : Site) (tok : Tok) (conds : Nat) : (emit s x tok conds).agenda = s.agenda := rfl
@[simp] theorem emit_focus (s : State) (x : Site) (tok : Tok) (conds : Nat) : (emit s x tok conds).focus = s.focus := rfl
@[simp] theorem emit_nextId (s : State) (x : Site) (tok : Tok) (conds : Nat) : (emit s x tok conds).nextId = s.nextId := rfl
@[simp] theorem emit_clock (s : State) (x : Site) (tok : Tok) (conds : Nat) : (emit s x tok conds).clock = s.clock := rfl
@[simp] theorem emit_pkg (s : State) (x : Site) (tok : Tok) (conds : Nat) : (emit s x tok conds).pkg = s.pkg := rfl
@[simp] theorem emit_ap (s : State) (x : Site) (tok : Tok) (conds : Nat) : (emit s x tok conds).ap = s.ap := rfl
@[simp] theorem emit_hub (s : State) (x : Site) (tok : Tok) (conds : Nat) : (emit s x tok conds).hub = s.hub := rfl
@[simp] theorem emit_dies (s : State) (x : Site) (tok : Tok) (conds : Nat) : (emit s x tok conds).dies = s.dies := rfl
@[simp] theorem emit_cores (s : State) (x : Site) (tok : Tok) (conds : Nat) : (emit s x tok conds).cores = s.cores := rfl
@[simp] theorem emit_ctxs (s : State) (x : Site) (tok : Tok) (conds : Nat) : (emit s x tok conds).ctxs = s.ctxs := rfl
@[simp] theorem emit_grids (s : State) (x : Site) (tok : Tok) (conds : Nat) : (emit s x tok conds).grids = s.grids := rfl
@[simp] theorem emit_groups (s : State) (x : Site) (tok : Tok) (conds : Nat) : (emit s x tok conds).groups = s.groups := rfl
@[simp] theorem emit_effects (s : State) (x : Site) (tok : Tok) (conds : Nat) : (emit s x tok conds).effects = s.effects := rfl
@[simp] theorem emit_replies (s : State) (x : Site) (tok : Tok) (conds : Nat) : (emit s x tok conds).replies = s.replies := rfl

@[simp] theorem invalidateL1_agenda (s : State) (vc ctx : Nat) : (invalidateL1 s vc ctx).agenda = s.agenda := rfl
@[simp] theorem invalidateL1_focus (s : State) (vc ctx : Nat) : (invalidateL1 s vc ctx).focus = s.focus := rfl
@[simp] theorem invalidateL1_nextId (s : State) (vc ctx : Nat) : (invalidateL1 s vc ctx).nextId = s.nextId := rfl
@[simp] theorem invalidateL1_clock (s : State) (vc ctx : Nat) : (invalidateL1 s vc ctx).clock = s.clock := rfl
@[simp] theorem invalidateL1_pkg (s : State) (vc ctx : Nat) : (invalidateL1 s vc ctx).pkg = s.pkg := rfl
@[simp] theorem invalidateL1_ap (s : State) (vc ctx : Nat) : (invalidateL1 s vc ctx).ap = s.ap := rfl
@[simp] theorem invalidateL1_hub (s : State) (vc ctx : Nat) : (invalidateL1 s vc ctx).hub = s.hub := rfl
@[simp] theorem invalidateL1_dies (s : State) (vc ctx : Nat) : (invalidateL1 s vc ctx).dies = s.dies := rfl
@[simp] theorem invalidateL1_ctxs (s : State) (vc ctx : Nat) : (invalidateL1 s vc ctx).ctxs = s.ctxs := rfl
@[simp] theorem invalidateL1_grids (s : State) (vc ctx : Nat) : (invalidateL1 s vc ctx).grids = s.grids := rfl
@[simp] theorem invalidateL1_groups (s : State) (vc ctx : Nat) : (invalidateL1 s vc ctx).groups = s.groups := rfl
@[simp] theorem invalidateL1_threads (s : State) (vc ctx : Nat) : (invalidateL1 s vc ctx).threads = s.threads := rfl
@[simp] theorem invalidateL1_effects (s : State) (vc ctx : Nat) : (invalidateL1 s vc ctx).effects = s.effects := rfl
@[simp] theorem invalidateL1_replies (s : State) (vc ctx : Nat) : (invalidateL1 s vc ctx).replies = s.replies := rfl

@[simp] theorem spadWrite_agenda (s : State) (vc base off : Nat) (bs : List Byte) : (spadWrite s vc base off bs).agenda = s.agenda := rfl
@[simp] theorem spadWrite_focus (s : State) (vc base off : Nat) (bs : List Byte) : (spadWrite s vc base off bs).focus = s.focus := rfl
@[simp] theorem spadWrite_nextId (s : State) (vc base off : Nat) (bs : List Byte) : (spadWrite s vc base off bs).nextId = s.nextId := rfl
@[simp] theorem spadWrite_clock (s : State) (vc base off : Nat) (bs : List Byte) : (spadWrite s vc base off bs).clock = s.clock := rfl
@[simp] theorem spadWrite_pkg (s : State) (vc base off : Nat) (bs : List Byte) : (spadWrite s vc base off bs).pkg = s.pkg := rfl
@[simp] theorem spadWrite_ap (s : State) (vc base off : Nat) (bs : List Byte) : (spadWrite s vc base off bs).ap = s.ap := rfl
@[simp] theorem spadWrite_hub (s : State) (vc base off : Nat) (bs : List Byte) : (spadWrite s vc base off bs).hub = s.hub := rfl
@[simp] theorem spadWrite_dies (s : State) (vc base off : Nat) (bs : List Byte) : (spadWrite s vc base off bs).dies = s.dies := rfl
@[simp] theorem spadWrite_ctxs (s : State) (vc base off : Nat) (bs : List Byte) : (spadWrite s vc base off bs).ctxs = s.ctxs := rfl
@[simp] theorem spadWrite_grids (s : State) (vc base off : Nat) (bs : List Byte) : (spadWrite s vc base off bs).grids = s.grids := rfl
@[simp] theorem spadWrite_groups (s : State) (vc base off : Nat) (bs : List Byte) : (spadWrite s vc base off bs).groups = s.groups := rfl
@[simp] theorem spadWrite_threads (s : State) (vc base off : Nat) (bs : List Byte) : (spadWrite s vc base off bs).threads = s.threads := rfl
@[simp] theorem spadWrite_effects (s : State) (vc base off : Nat) (bs : List Byte) : (spadWrite s vc base off bs).effects = s.effects := rfl
@[simp] theorem spadWrite_replies (s : State) (vc base off : Nat) (bs : List Byte) : (spadWrite s vc base off bs).replies = s.replies := rfl

@[simp] theorem sweepEffects_agenda (s : State) : (sweepEffects s).agenda = s.agenda := rfl
@[simp] theorem sweepEffects_focus (s : State) : (sweepEffects s).focus = s.focus := rfl
@[simp] theorem sweepEffects_nextId (s : State) : (sweepEffects s).nextId = s.nextId := rfl
@[simp] theorem sweepEffects_clock (s : State) : (sweepEffects s).clock = s.clock := rfl
@[simp] theorem sweepEffects_pkg (s : State) : (sweepEffects s).pkg = s.pkg := rfl
@[simp] theorem sweepEffects_ap (s : State) : (sweepEffects s).ap = s.ap := rfl
@[simp] theorem sweepEffects_hub (s : State) : (sweepEffects s).hub = s.hub := rfl
@[simp] theorem sweepEffects_dies (s : State) : (sweepEffects s).dies = s.dies := rfl
@[simp] theorem sweepEffects_cores (s : State) : (sweepEffects s).cores = s.cores := rfl
@[simp] theorem sweepEffects_ctxs (s : State) : (sweepEffects s).ctxs = s.ctxs := rfl
@[simp] theorem sweepEffects_grids (s : State) : (sweepEffects s).grids = s.grids := rfl
@[simp] theorem sweepEffects_groups (s : State) : (sweepEffects s).groups = s.groups := rfl
@[simp] theorem sweepEffects_threads (s : State) : (sweepEffects s).threads = s.threads := rfl
@[simp] theorem sweepEffects_replies (s : State) : (sweepEffects s).replies = s.replies := rfl

@[simp] theorem endWaits_agenda (s : State) (uid : Nat) (p : Wait → Bool) : (endWaits s uid p).agenda = s.agenda := rfl
@[simp] theorem endWaits_focus (s : State) (uid : Nat) (p : Wait → Bool) : (endWaits s uid p).focus = s.focus := rfl
@[simp] theorem endWaits_nextId (s : State) (uid : Nat) (p : Wait → Bool) : (endWaits s uid p).nextId = s.nextId := rfl
@[simp] theorem endWaits_clock (s : State) (uid : Nat) (p : Wait → Bool) : (endWaits s uid p).clock = s.clock := rfl
@[simp] theorem endWaits_pkg (s : State) (uid : Nat) (p : Wait → Bool) : (endWaits s uid p).pkg = s.pkg := rfl
@[simp] theorem endWaits_ap (s : State) (uid : Nat) (p : Wait → Bool) : (endWaits s uid p).ap = s.ap := rfl
@[simp] theorem endWaits_hub (s : State) (uid : Nat) (p : Wait → Bool) : (endWaits s uid p).hub = s.hub := rfl
@[simp] theorem endWaits_dies (s : State) (uid : Nat) (p : Wait → Bool) : (endWaits s uid p).dies = s.dies := rfl
@[simp] theorem endWaits_cores (s : State) (uid : Nat) (p : Wait → Bool) : (endWaits s uid p).cores = s.cores := rfl
@[simp] theorem endWaits_ctxs (s : State) (uid : Nat) (p : Wait → Bool) : (endWaits s uid p).ctxs = s.ctxs := rfl
@[simp] theorem endWaits_grids (s : State) (uid : Nat) (p : Wait → Bool) : (endWaits s uid p).grids = s.grids := rfl
@[simp] theorem endWaits_groups (s : State) (uid : Nat) (p : Wait → Bool) : (endWaits s uid p).groups = s.groups := rfl
@[simp] theorem endWaits_effects (s : State) (uid : Nat) (p : Wait → Bool) : (endWaits s uid p).effects = s.effects := rfl
@[simp] theorem endWaits_replies (s : State) (uid : Nat) (p : Wait → Bool) : (endWaits s uid p).replies = s.replies := rfl

@[simp] theorem freeFrames_agenda (s : State) : (freeFrames s).agenda = s.agenda := rfl
@[simp] theorem freeFrames_focus (s : State) : (freeFrames s).focus = s.focus := rfl
@[simp] theorem freeFrames_nextId (s : State) : (freeFrames s).nextId = s.nextId := rfl
@[simp] theorem freeFrames_clock (s : State) : (freeFrames s).clock = s.clock := rfl
@[simp] theorem freeFrames_pkg (s : State) : (freeFrames s).pkg = s.pkg := rfl
@[simp] theorem freeFrames_ap (s : State) : (freeFrames s).ap = s.ap := rfl
@[simp] theorem freeFrames_hub (s : State) : (freeFrames s).hub = s.hub := rfl
@[simp] theorem freeFrames_dies (s : State) : (freeFrames s).dies = s.dies := rfl
@[simp] theorem freeFrames_cores (s : State) : (freeFrames s).cores = s.cores := rfl
@[simp] theorem freeFrames_ctxs (s : State) : (freeFrames s).ctxs = s.ctxs := rfl
@[simp] theorem freeFrames_grids (s : State) : (freeFrames s).grids = s.grids := rfl
@[simp] theorem freeFrames_groups (s : State) : (freeFrames s).groups = s.groups := rfl
@[simp] theorem freeFrames_effects (s : State) : (freeFrames s).effects = s.effects := rfl
@[simp] theorem freeFrames_replies (s : State) : (freeFrames s).replies = s.replies := rfl

@[simp] theorem fcmdResult_agenda (s : State) (v : BitVec 64) (r : Nat) : (fcmdResult s v r).agenda = s.agenda := rfl
@[simp] theorem fcmdResult_focus (s : State) (v : BitVec 64) (r : Nat) : (fcmdResult s v r).focus = s.focus := rfl
@[simp] theorem fcmdResult_nextId (s : State) (v : BitVec 64) (r : Nat) : (fcmdResult s v r).nextId = s.nextId := rfl
@[simp] theorem fcmdResult_clock (s : State) (v : BitVec 64) (r : Nat) : (fcmdResult s v r).clock = s.clock := rfl
@[simp] theorem fcmdResult_pkg (s : State) (v : BitVec 64) (r : Nat) : (fcmdResult s v r).pkg = s.pkg := rfl
@[simp] theorem fcmdResult_hub (s : State) (v : BitVec 64) (r : Nat) : (fcmdResult s v r).hub = s.hub := rfl
@[simp] theorem fcmdResult_dies (s : State) (v : BitVec 64) (r : Nat) : (fcmdResult s v r).dies = s.dies := rfl
@[simp] theorem fcmdResult_cores (s : State) (v : BitVec 64) (r : Nat) : (fcmdResult s v r).cores = s.cores := rfl
@[simp] theorem fcmdResult_ctxs (s : State) (v : BitVec 64) (r : Nat) : (fcmdResult s v r).ctxs = s.ctxs := rfl
@[simp] theorem fcmdResult_grids (s : State) (v : BitVec 64) (r : Nat) : (fcmdResult s v r).grids = s.grids := rfl
@[simp] theorem fcmdResult_groups (s : State) (v : BitVec 64) (r : Nat) : (fcmdResult s v r).groups = s.groups := rfl
@[simp] theorem fcmdResult_threads (s : State) (v : BitVec 64) (r : Nat) : (fcmdResult s v r).threads = s.threads := rfl
@[simp] theorem fcmdResult_effects (s : State) (v : BitVec 64) (r : Nat) : (fcmdResult s v r).effects = s.effects := rfl
@[simp] theorem fcmdResult_replies (s : State) (v : BitVec 64) (r : Nat) : (fcmdResult s v r).replies = s.replies := rfl

@[simp] theorem modCopy_agenda (s : State) (vc id : Nat) (f : Copy → Copy) : (modCopy s vc id f).agenda = s.agenda := rfl
@[simp] theorem modCopy_focus (s : State) (vc id : Nat) (f : Copy → Copy) : (modCopy s vc id f).focus = s.focus := rfl
@[simp] theorem modCopy_nextId (s : State) (vc id : Nat) (f : Copy → Copy) : (modCopy s vc id f).nextId = s.nextId := rfl
@[simp] theorem modCopy_clock (s : State) (vc id : Nat) (f : Copy → Copy) : (modCopy s vc id f).clock = s.clock := rfl
@[simp] theorem modCopy_pkg (s : State) (vc id : Nat) (f : Copy → Copy) : (modCopy s vc id f).pkg = s.pkg := rfl
@[simp] theorem modCopy_ap (s : State) (vc id : Nat) (f : Copy → Copy) : (modCopy s vc id f).ap = s.ap := rfl
@[simp] theorem modCopy_hub (s : State) (vc id : Nat) (f : Copy → Copy) : (modCopy s vc id f).hub = s.hub := rfl
@[simp] theorem modCopy_dies (s : State) (vc id : Nat) (f : Copy → Copy) : (modCopy s vc id f).dies = s.dies := rfl
@[simp] theorem modCopy_ctxs (s : State) (vc id : Nat) (f : Copy → Copy) : (modCopy s vc id f).ctxs = s.ctxs := rfl
@[simp] theorem modCopy_grids (s : State) (vc id : Nat) (f : Copy → Copy) : (modCopy s vc id f).grids = s.grids := rfl
@[simp] theorem modCopy_groups (s : State) (vc id : Nat) (f : Copy → Copy) : (modCopy s vc id f).groups = s.groups := rfl
@[simp] theorem modCopy_threads (s : State) (vc id : Nat) (f : Copy → Copy) : (modCopy s vc id f).threads = s.threads := rfl
@[simp] theorem modCopy_effects (s : State) (vc id : Nat) (f : Copy → Copy) : (modCopy s vc id f).effects = s.effects := rfl
@[simp] theorem modCopy_replies (s : State) (vc id : Nat) (f : Copy → Copy) : (modCopy s vc id f).replies = s.replies := rfl

@[simp] theorem dropOp_agenda (s : State) (vc id : Nat) : (dropOp s vc id).agenda = s.agenda := rfl
@[simp] theorem dropOp_focus (s : State) (vc id : Nat) : (dropOp s vc id).focus = s.focus := rfl
@[simp] theorem dropOp_nextId (s : State) (vc id : Nat) : (dropOp s vc id).nextId = s.nextId := rfl
@[simp] theorem dropOp_clock (s : State) (vc id : Nat) : (dropOp s vc id).clock = s.clock := rfl
@[simp] theorem dropOp_pkg (s : State) (vc id : Nat) : (dropOp s vc id).pkg = s.pkg := rfl
@[simp] theorem dropOp_ap (s : State) (vc id : Nat) : (dropOp s vc id).ap = s.ap := rfl
@[simp] theorem dropOp_hub (s : State) (vc id : Nat) : (dropOp s vc id).hub = s.hub := rfl
@[simp] theorem dropOp_dies (s : State) (vc id : Nat) : (dropOp s vc id).dies = s.dies := rfl
@[simp] theorem dropOp_ctxs (s : State) (vc id : Nat) : (dropOp s vc id).ctxs = s.ctxs := rfl
@[simp] theorem dropOp_grids (s : State) (vc id : Nat) : (dropOp s vc id).grids = s.grids := rfl
@[simp] theorem dropOp_groups (s : State) (vc id : Nat) : (dropOp s vc id).groups = s.groups := rfl
@[simp] theorem dropOp_threads (s : State) (vc id : Nat) : (dropOp s vc id).threads = s.threads := rfl
@[simp] theorem dropOp_effects (s : State) (vc id : Nat) : (dropOp s vc id).effects = s.effects := rfl
@[simp] theorem dropOp_replies (s : State) (vc id : Nat) : (dropOp s vc id).replies = s.replies := rfl

/-! The field that changes -/

@[simp] theorem modCtx_ctxs (s : State) (n : Nat) (f : Ctx → Ctx) : (modCtx s n f).ctxs = modWhere (fun c => c.num == n) f s.ctxs := rfl
@[simp] theorem modGrid_grids (s : State) (g : Nat) (f : Grid → Grid) : (modGrid s g f).grids = modWhere (fun x => x.id == g) f s.grids := rfl
@[simp] theorem modGroup_groups (s : State) (g gi : Nat) (f : Group → Group) :
    (modGroup s g gi f).groups = modWhere (fun x => x.grid == g && x.gidx == gi) f s.groups := rfl
@[simp] theorem modThread_threads (s : State) (uid : Nat) (f : Thread → Thread) :
    (modThread s uid f).threads = modWhere (fun t => t.uid == uid) f s.threads := rfl
@[simp] theorem modCore_cores (s : State) (vc : Nat) (f : Core → Core) : (modCore s vc f).cores = modAt f s.cores vc := rfl
@[simp] theorem modDie_dies (s : State) (d : Nat) (f : Die → Die) : (modDie s d f).dies = modAt f s.dies d := rfl
@[simp] theorem modEffect_effects (s : State) (id : Nat) (f : Effect → Effect) :
    (modEffect s id f).effects = modWhere (fun e => e.id == id) f s.effects := rfl
@[simp] theorem fcmdResult_ap (s : State) (v : BitVec 64) (r : Nat) : (fcmdResult s v r).ap = { s.ap with fcmd := v, fres := r } := rfl

/-! Lists -/

@[simp] theorem length_modAt {α : Type} (f : α → α) : ∀ (l : List α) (i : Nat), (modAt f l i).length = l.length
  | [], _ => rfl
  | _ :: _, 0 => rfl
  | _ :: l, i + 1 => congrArg (· + 1) (length_modAt f l i)

/-- The element changed. -/
theorem getD_modAt_same {α : Type} (f : α → α) (x : α) : ∀ (l : List α) (i : Nat), i < l.length → (modAt f l i).getD i x = f (l.getD i x)
  | [], _, h => absurd h (Nat.not_lt_zero _)
  | _ :: _, 0, _ => rfl
  | _ :: l, i + 1, h => by simpa [modAt] using getD_modAt_same f x l i (Nat.lt_of_succ_lt_succ h)

/-- Every other element stays. -/
theorem getD_modAt_other {α : Type} (f : α → α) (x : α) : ∀ (l : List α) (i j : Nat), j ≠ i → (modAt f l i).getD j x = l.getD j x
  | [], _, _, _ => rfl
  | _ :: _, 0, 0, h => absurd rfl h
  | _ :: _, 0, _ + 1, _ => rfl
  | _ :: _, _ + 1, 0, _ => rfl
  | _ :: l, i + 1, j + 1, h => by simpa [modAt] using getD_modAt_other f x l i j (fun e => h (congrArg (· + 1) e))

/-- A look-up by a test that the change keeps finds the changed element. -/
theorem find_modWhere {α : Type} (p q : α → Bool) (f : α → α) (hq : ∀ a, p a = true → q (f a) = q a) :
    ∀ l : List α, (modWhere p f l).find? q = (l.find? q).map fun a => if p a then f a else a
  | [] => rfl
  | a :: l => by
    have ih := find_modWhere p q f hq l
    have ha : q (if p a = true then f a else a) = q a := by
      split
      · exact hq a ‹_›
      · rfl
    simp only [modWhere, List.map_cons, List.find?_cons, ha]
    cases q a
    · exact ih
    · rfl

/-! Look-ups -/

/-- A core after its change, and every other core. -/
theorem core_modCore_same (s : State) (vc : Nat) (f : Core → Core) (h : vc < s.cores.length) : core (modCore s vc f) vc = f (core s vc) :=
  getD_modAt_same f _ _ _ h
theorem core_modCore_other (s : State) {vc k : Nat} (f : Core → Core) (h : k ≠ vc) : core (modCore s vc f) k = core s k := getD_modAt_other f _ _ _ _ h

/-- A die after its change, and every other die. -/
theorem die_modDie_same (s : State) (d : Nat) (f : Die → Die) (h : d < s.dies.length) : die (modDie s d f) d = f (die s d) := getD_modAt_same f _ _ _ h
theorem die_modDie_other (s : State) {d k : Nat} (f : Die → Die) (h : k ≠ d) : die (modDie s d f) k = die s k := getD_modAt_other f _ _ _ _ h

/-- A thread after a change that keeps its number, and every other thread. -/
theorem thread_modThread_same (s : State) (uid : Nat) (f : Thread → Thread) (hf : ∀ t : Thread, (f t).uid = t.uid) :
    thread? (modThread s uid f) uid = (thread? s uid).map f := by
  simp only [thread?, modThread_threads]
  rw [find_modWhere _ _ _ fun a _ => by simp [hf a]]
  cases h : s.threads.find? fun t => t.uid == uid with
  | none => rfl
  | some t =>
    have : t.uid = uid := by simpa using List.find?_some h
    simp [this]
theorem thread_modThread_other (s : State) {uid k : Nat} (f : Thread → Thread) (hf : ∀ t : Thread, (f t).uid = t.uid) (h : k ≠ uid) :
    thread? (modThread s uid f) k = thread? s k := by
  simp only [thread?, modThread_threads]
  rw [find_modWhere _ _ _ fun a _ => by simp [hf a]]
  cases e : s.threads.find? fun t => t.uid == k with
  | none => rfl
  | some t =>
    have : t.uid = k := by simpa using List.find?_some e
    simp [this, h]

/-- A context after a change that keeps its number, and every other context. -/
theorem ctx_modCtx_same (s : State) (n : Nat) (f : Ctx → Ctx) (hf : ∀ c : Ctx, (f c).num = c.num) : ctx? (modCtx s n f) n = (ctx? s n).map f := by
  simp only [ctx?, modCtx_ctxs]
  rw [find_modWhere _ _ _ fun a _ => by simp [hf a]]
  cases h : s.ctxs.find? fun c => c.num == n with
  | none => rfl
  | some t =>
    have : t.num = n := by simpa using List.find?_some h
    simp [this]
theorem ctx_modCtx_other (s : State) {n k : Nat} (f : Ctx → Ctx) (hf : ∀ c : Ctx, (f c).num = c.num) (h : k ≠ n) : ctx? (modCtx s n f) k = ctx? s k := by
  simp only [ctx?, modCtx_ctxs]
  rw [find_modWhere _ _ _ fun a _ => by simp [hf a]]
  cases e : s.ctxs.find? fun c => c.num == k with
  | none => rfl
  | some c =>
    have : c.num = k := by simpa using List.find?_some e
    simp [this, h]

/-- An effect after a change that keeps its number. -/
theorem effect_modEffect_same (s : State) (n : Nat) (f : Effect → Effect) (hf : ∀ e : Effect, (f e).id = e.id) :
    effect? (modEffect s n f) n = (effect? s n).map f := by
  simp only [effect?, modEffect_effects]
  rw [find_modWhere _ _ _ fun a _ => by simp [hf a]]
  cases h : s.effects.find? fun e => e.id == n with
  | none => rfl
  | some t =>
    have : t.id = n := by simpa using List.find?_some h
    simp [this]

end Sys2Proof.Machine
end

