-- ==== Sys2Proof/Laws/Hub.lean ====
section
/-! SUPPORT. What the hub's own operations can touch: the hub, the dies and the contexts, and nothing else; one lemma for each (R103, R104, R328, R368, R451). -/
namespace Sys2Proof.Machine

/-- The effects without how far they have come: the hub may place a die's pending writes (R230). -/
def sentOf (s : State) : List Effect := s.effects.map fun e => { e with st := .placed }

theorem modWhere_placed (p : Effect → Bool) (l : List Effect) :
    (modWhere p (fun x => { x with st := .placed }) l).map (fun e => { e with st := EffSt.placed }) = l.map fun e => { e with st := EffSt.placed } := by
  unfold modWhere
  rw [List.map_map]
  apply List.map_congr_left
  intro e _
  simp only [Function.comp]
  split <;> rfl

/-- Nothing but the hub, the dies, the contexts and the places of effects differs. -/
def HubOnly (s t : State) : Prop :=
  t.agenda = s.agenda ∧ t.focus = s.focus ∧ t.nextId = s.nextId ∧ t.clock = s.clock ∧ t.pkg = s.pkg ∧ t.ap = s.ap ∧
  t.cores = s.cores ∧ t.grids = s.grids ∧ t.groups = s.groups ∧ t.threads = s.threads ∧ sentOf t = sentOf s ∧ t.replies = s.replies

theorem HubOnly.refl (s : State) : HubOnly s s := ⟨rfl, rfl, rfl, rfl, rfl, rfl, rfl, rfl, rfl, rfl, rfl, rfl⟩

/-- As one equation. -/
theorem HubOnly.eq {s t : State} (h : HubOnly s t) : t = { s with hub := t.hub, dies := t.dies, ctxs := t.ctxs, effects := t.effects } := by
  obtain ⟨h1, h2, h3, h4, h5, h6, h7, h8, h9, h10, h11, h12⟩ := h
  cases t; simp_all

theorem HubOnly.trans {s t u : State} (h : HubOnly s t) (k : HubOnly t u) : HubOnly s u := by
  obtain ⟨h1, h2, h3, h4, h5, h6, h7, h8, h9, h10, h11, h12⟩ := h
  obtain ⟨k1, k2, k3, k4, k5, k6, k7, k8, k9, k10, k11, k12⟩ := k
  exact ⟨k1.trans h1, k2.trans h2, k3.trans h3, k4.trans h4, k5.trans h5, k6.trans h6, k7.trans h7, k8.trans h8, k9.trans h9, k10.trans h10,
    k11.trans h11, k12.trans h12⟩

/-- The state of a pair. -/
theorem fst_hubOnly {α : Type} {s : State} {p : State × α} {t : State} {x : α} (e : p = (t, x)) (h : HubOnly s p.1) : HubOnly s t := by
  rw [e] at h; exact h

theorem foldl_hubOnly {α : Type} {f : State → α → State} {s0 : State} (hf : ∀ s a, HubOnly s0 s → HubOnly s0 (f s a)) :
    ∀ (l : List α) (s : State), HubOnly s0 s → HubOnly s0 (l.foldl f s)
  | [], _, h => h
  | a :: l, s, h => foldl_hubOnly hf l (f s a) (hf s a h)



theorem modCtx_hubOnly {s0 : State} (s : State) (n : Nat) (f : Ctx → Ctx) (h : HubOnly s0 s) : HubOnly s0 (modCtx s n f) := h

theorem modDie_hubOnly {s0 : State} (s : State) (d : Nat) (f : Die → Die) (h : HubOnly s0 s) : HubOnly s0 (modDie s d f) := h

theorem flushDie_hubOnly {s0 : State} (s : State) (d : Nat) (h : HubOnly s0 s) : HubOnly s0 (flushDie s d) := by
  unfold flushDie
  repeat' first
    | with_reducible assumption | with_reducible apply modDie_hubOnly | (intro _) | split | dsimp only | assumption

theorem deliverOne_hubOnly {s0 : State} (s : State) (d : Nat) (h : HubOnly s0 s) : HubOnly s0 (deliverOne s d) := by
  unfold deliverOne
  repeat' first
    | with_reducible assumption | with_reducible apply modDie_hubOnly | with_reducible apply foldl_hubOnly | (intro _) | split | dsimp only
    | assumption

theorem noteSignals_hubOnly {s0 : State} (s : State) (rs : Runs) (h : HubOnly s0 s) : HubOnly s0 (noteSignals s rs) := by
  unfold noteSignals
  repeat' first
    | with_reducible assumption | (intro _) | split | dsimp only | assumption

theorem placeRuns_hubOnly {s0 : State} (s : State) (id : Nat) (src : Option Nat) (rs : Runs) (h : HubOnly s0 s) : HubOnly s0 (placeRuns s id src rs) := by
  unfold placeRuns
  repeat' first
    | with_reducible assumption | with_reducible apply modDie_hubOnly | with_reducible apply flushDie_hubOnly
    | with_reducible apply noteSignals_hubOnly | with_reducible apply foldl_hubOnly | (intro _) | split | dsimp only | assumption

theorem touchL3_hubOnly {s0 : State} (s : State) (line : Nat) (dirty : BitVec 256) (z : Option Bool) (h : HubOnly s0 s) : HubOnly s0 (touchL3 s line dirty z) := by
  unfold touchL3
  repeat' first
    | with_reducible assumption | (intro _) | split | dsimp only | assumption

theorem writeBackFrom_hubOnly {s0 : State} (s : State) (line d : Nat) (h : HubOnly s0 s) : HubOnly s0 (writeBackFrom s line d) := by
  unfold writeBackFrom
  repeat' first
    | with_reducible assumption | with_reducible apply modDie_hubOnly | with_reducible apply touchL3_hubOnly | (intro _) | split | dsimp only
    | assumption

theorem writeBackLine_hubOnly {s0 : State} (s : State) (line : Nat) (h : HubOnly s0 s) : HubOnly s0 (writeBackLine s line) := by
  unfold writeBackLine
  repeat' first
    | with_reducible assumption | with_reducible apply writeBackFrom_hubOnly | with_reducible apply foldl_hubOnly | (intro _) | split | dsimp only
    | assumption

theorem dropLine_hubOnly {s0 : State} (s : State) (line : Nat) (but : Option Nat) (h : HubOnly s0 s) : HubOnly s0 (dropLine s line but) := by
  unfold dropLine
  repeat' first
    | with_reducible assumption | with_reducible apply modDie_hubOnly | with_reducible apply writeBackFrom_hubOnly
    | with_reducible apply foldl_hubOnly | (intro _) | split | dsimp only | assumption

theorem insertL2_hubOnly {s0 : State} (s : State) (d : Nat) (l : L2Line) (h : HubOnly s0 s) : HubOnly s0 (insertL2 s d l) := by
  unfold insertL2
  repeat' first
    | with_reducible assumption | with_reducible apply modDie_hubOnly | with_reducible apply writeBackFrom_hubOnly | (intro _) | split | dsimp only
    | assumption

theorem touchLine_hubOnly {s0 : State} (s : State) (d pa : Nat) (h : HubOnly s0 s) : HubOnly s0 (touchLine s d pa) := by
  unfold touchLine
  repeat' first
    | with_reducible assumption | with_reducible apply modDie_hubOnly | with_reducible apply touchL3_hubOnly
    | with_reducible apply writeBackLine_hubOnly | with_reducible apply insertL2_hubOnly | (intro _) | split | dsimp only | assumption

theorem writeL2_hubOnly {s0 : State} (s : State) (d line o : Nat) (bs : List Byte) (h : HubOnly s0 s) : HubOnly s0 (writeL2 s d line o bs) := by
  unfold writeL2
  repeat' first
    | with_reducible assumption | with_reducible apply modDie_hubOnly | with_reducible apply touchL3_hubOnly | with_reducible apply dropLine_hubOnly
    | with_reducible apply insertL2_hubOnly | (intro _) | split | dsimp only | assumption

theorem writeL3_hubOnly {s0 : State} (s : State) (line o : Nat) (bs : List Byte) (h : HubOnly s0 s) : HubOnly s0 (writeL3 s line o bs) := by
  unfold writeL3
  repeat' first
    | with_reducible assumption | with_reducible apply touchL3_hubOnly | with_reducible apply dropLine_hubOnly | split | dsimp only | assumption

theorem dirtyRuns_hubOnly {s0 : State} (s : State) (d : Nat) (rs : Runs) (h : HubOnly s0 s) : HubOnly s0 (dirtyRuns s d rs) := by
  unfold dirtyRuns
  repeat' first
    | with_reducible assumption | with_reducible apply writeL2_hubOnly | with_reducible apply foldl_hubOnly | (intro _) | split | dsimp only
    | assumption

theorem hubRuns_hubOnly {s0 : State} (s : State) (rs : Runs) (h : HubOnly s0 s) : HubOnly s0 (hubRuns s rs) := by
  unfold hubRuns
  repeat' first
    | with_reducible assumption | with_reducible apply writeL3_hubOnly | with_reducible apply foldl_hubOnly | (intro _) | split | dsimp only
    | assumption

theorem hubReads_hubOnly {s0 : State} (s : State) (a n : Nat) (h : HubOnly s0 s) : HubOnly s0 (hubReads s a n) := by
  unfold hubReads
  repeat' first
    | with_reducible assumption | with_reducible apply touchL3_hubOnly | with_reducible apply writeBackLine_hubOnly
    | with_reducible apply foldl_hubOnly | (intro _) | split | dsimp only | assumption

theorem hubWrite_hubOnly {s0 : State} (s : State) (pa : Nat) (bs : List Byte) (h : HubOnly s0 s) : HubOnly s0 (hubWrite s pa bs) := by
  unfold hubWrite
  repeat' first
    | with_reducible assumption | with_reducible apply placeRuns_hubOnly | with_reducible apply hubRuns_hubOnly | split | dsimp only | assumption

theorem hubPut_hubOnly {s0 : State} (s : State) (mt pa : Nat) (bs : List Byte) (h : HubOnly s0 s) : HubOnly s0 (hubPut s mt pa bs) := by
  unfold hubPut
  repeat' first
    | with_reducible assumption | with_reducible apply placeRuns_hubOnly | with_reducible apply hubWrite_hubOnly | split | dsimp only | assumption

theorem hubTouch_hubOnly {s0 : State} (s : State) (mt pa n : Nat) (h : HubOnly s0 s) : HubOnly s0 (hubTouch s mt pa n) := by
  unfold hubTouch
  repeat' first
    | with_reducible assumption | with_reducible apply hubReads_hubOnly | split | dsimp only | assumption

theorem modEffectPlaced_hubOnly {s0 : State} (s : State) (id : Nat) (h : HubOnly s0 s) :
    HubOnly s0 (modEffect s id fun x => { x with st := .placed }) := by
  obtain ⟨h1, h2, h3, h4, h5, h6, h7, h8, h9, h10, h11, h12⟩ := h
  exact ⟨h1, h2, h3, h4, h5, h6, h7, h8, h9, h10, (modWhere_placed _ _).trans h11, h12⟩

theorem placeFirst_hubOnly {s0 : State} (s : State) (d n : Nat) (h : HubOnly s0 s) : HubOnly s0 (placeFirst s d n) := by
  unfold placeFirst
  repeat' first
    | with_reducible assumption | with_reducible apply placeRuns_hubOnly | with_reducible apply modEffectPlaced_hubOnly | (intro _) | split
    | dsimp only | assumption

theorem placeTouching_hubOnly {s0 : State} (s : State) (a n d : Nat) (h : HubOnly s0 s) : HubOnly s0 (placeTouching s a n d) := by
  unfold placeTouching
  repeat' first
    | with_reducible assumption | with_reducible apply placeFirst_hubOnly | with_reducible apply foldl_hubOnly | (intro _) | split | dsimp only
    | assumption

theorem walkReads_hubOnly {s0 : State} (s : State) (base va : Nat) (h : HubOnly s0 s) : HubOnly s0 (walkReads s base va) := by
  unfold walkReads
  repeat' first
    | with_reducible assumption | with_reducible apply hubReads_hubOnly | with_reducible apply foldl_hubOnly | (intro _) | split | dsimp only
    | assumption

theorem orPte_hubOnly {s0 : State} (s : State) (at_ : Nat) (e m : BitVec 64) (h : HubOnly s0 s) : HubOnly s0 (orPte s at_ e m) := by
  unfold orPte
  repeat' first
    | with_reducible assumption | with_reducible apply hubWrite_hubOnly | with_reducible apply placeTouching_hubOnly
    | with_reducible apply foldl_hubOnly | (intro _) | split | dsimp only | assumption

theorem setStalls_hubOnly {s0 : State} (s : State) (l : List HubStall) (h : HubOnly s0 s) : HubOnly s0 (setStalls s l) := by
  unfold setStalls
  repeat' first
    | with_reducible assumption | split | dsimp only | assumption

theorem stallAt_hubOnly {s0 : State} (s : State) (m : HubStall) (h : HubOnly s0 s) : HubOnly s0 (stallAt s m) := by
  unfold stallAt
  repeat' first
    | with_reducible assumption | with_reducible apply setStalls_hubOnly | split | dsimp only | assumption

theorem hubTranslate_hubOnly {s0 : State} (s : State) (c : Ctx) (va : Nat) (need : HubNeed) (wr : Bool) (h : HubOnly s0 s) : HubOnly s0 (hubTranslate s c va need wr).1 := by
  unfold hubTranslate
  repeat' first
    | with_reducible assumption | with_reducible apply walkReads_hubOnly | with_reducible apply orPte_hubOnly | with_reducible apply stallAt_hubOnly
    | (intro _) | split | dsimp only | assumption

theorem hubReadVa_hubOnly {s0 : State} (s : State) (c : Ctx) (va n : Nat) (need : HubNeed) (h : HubOnly s0 s) : HubOnly s0 (hubReadVa s c va n need).1 := by
  unfold hubReadVa
  repeat' first
    | with_reducible assumption | with_reducible apply hubTouch_hubOnly | with_reducible apply hubTranslate_hubOnly
    | with_reducible refine fst_hubOnly (by assumption) ?_ | split | dsimp only | assumption

theorem hubWriteVa_hubOnly {s0 : State} (s : State) (c : Ctx) (va : Nat) (bs : List Byte) (need : HubNeed) (h : HubOnly s0 s) : HubOnly s0 (hubWriteVa s c va bs need).1 := by
  unfold hubWriteVa
  repeat' first
    | with_reducible assumption | with_reducible apply hubPut_hubOnly | with_reducible apply hubTranslate_hubOnly
    | with_reducible refine fst_hubOnly (by assumption) ?_ | split | dsimp only | assumption

theorem putEvent_hubOnly {s0 : State} (s : State) (c : Ctx) (n : Nat) (bytes : BitVec 32 → List Byte) (h : HubOnly s0 s) : HubOnly s0 (putEvent s c n bytes).1 := by
  unfold putEvent
  repeat' first
    | with_reducible assumption | with_reducible apply modCtx_hubOnly | with_reducible apply hubReadVa_hubOnly
    | with_reducible apply hubWriteVa_hubOnly | with_reducible refine fst_hubOnly (by assumption) ?_ | (intro _) | split | dsimp only | assumption

theorem writePart_hubOnly {s0 : State} (s : State) (c : Ctx) (r : EvRec) (h : HubOnly s0 s) : HubOnly s0 (writePart s c r).1 := by
  unfold writePart
  repeat' first
    | with_reducible assumption | with_reducible apply putEvent_hubOnly | with_reducible refine fst_hubOnly (by assumption) ?_ | split | dsimp only
    | assumption

theorem writeParts_hubOnly {s0 : State} (c : Ctx) : ∀ (l : List EvRec) (s : State), HubOnly s0 s → HubOnly s0 (writeParts c l s).1
  | [], _, h => h
  | r :: l, s, h => by
    have h1 := writePart_hubOnly s c r h
    unfold writeParts
    split
    · rename_i e; rw [e] at h1; exact writeParts_hubOnly c l _ h1
    · rename_i e; rw [e] at h1; exact h1

theorem holdParts_hubOnly {s0 : State} (s : State) (n : Nat) (l : List EvRec) (h : HubOnly s0 s) : HubOnly s0 (holdParts s n l) := by
  unfold holdParts
  repeat' first
    | with_reducible assumption | with_reducible apply modCtx_hubOnly | (intro _) | split | dsimp only | assumption

theorem holdEvent_hubOnly {s0 : State} (s : State) (n : Nat) (r : EvRec) (h : HubOnly s0 s) : HubOnly s0 (holdEvent s n r) := by
  unfold holdEvent
  repeat' first
    | with_reducible assumption | with_reducible apply holdParts_hubOnly | split | dsimp only | assumption

theorem holdRequests_hubOnly {s0 : State} (s : State) (l : List HubStall) (h : HubOnly s0 s) : HubOnly s0 (holdRequests s l) := by
  unfold holdRequests
  repeat' first
    | with_reducible assumption | with_reducible apply holdEvent_hubOnly | with_reducible apply foldl_hubOnly | (intro _) | split | dsimp only
    | assumption

theorem postEvent_hubOnly {s0 : State} (s : State) (r : EvRec) (h : HubOnly s0 s) : HubOnly s0 (postEvent s r) := by
  unfold postEvent
  repeat' first
    | with_reducible assumption | with_reducible apply setStalls_hubOnly | with_reducible apply writeParts_hubOnly
    | with_reducible apply holdParts_hubOnly | with_reducible apply holdEvent_hubOnly | with_reducible apply holdRequests_hubOnly
    | with_reducible refine fst_hubOnly (by assumption) ?_ | split | dsimp only | assumption

theorem requestPages_hubOnly {s0 : State} (s : State) (l : List HubStall) (h : HubOnly s0 s) : HubOnly s0 (requestPages s l) := by
  unfold requestPages
  repeat' first
    | with_reducible assumption | with_reducible apply postEvent_hubOnly | with_reducible apply foldl_hubOnly | (intro _) | split | dsimp only
    | assumption

theorem flushStalls_hubOnly {s0 : State} (s : State) (h : HubOnly s0 s) : HubOnly s0 (flushStalls s) := by
  unfold flushStalls
  repeat' first
    | with_reducible assumption | with_reducible apply setStalls_hubOnly | with_reducible apply requestPages_hubOnly | split | dsimp only
    | assumption

theorem bumpMon_hubOnly {s0 : State} (s : State) (vc ctx : Nat) (f : PerfMon → PerfMon) (h : HubOnly s0 s) : HubOnly s0 (bumpMon s vc ctx f) := by
  unfold bumpMon
  repeat' first
    | with_reducible assumption | with_reducible apply modCtx_hubOnly | (intro _) | split | dsimp only | assumption

theorem addMiss_hubOnly {s0 : State} (s : State) (t : Thread) (cidf va : Nat) (need : Need) (h : HubOnly s0 s) : HubOnly s0 (addMiss s t cidf va need) := by
  unfold addMiss
  repeat' first
    | with_reducible assumption | split | dsimp only | assumption

theorem watchSignal_hubOnly {s0 : State} (s : State) (ctx n : Nat) (h : HubOnly s0 s) : HubOnly s0 (watchSignal s ctx n).1 := by
  unfold watchSignal
  repeat' first
    | with_reducible assumption | with_reducible apply modCtx_hubOnly | with_reducible apply hubTranslate_hubOnly
    | with_reducible apply hubReadVa_hubOnly | with_reducible apply postEvent_hubOnly | with_reducible refine fst_hubOnly (by assumption) ?_
    | (intro _) | split | dsimp only | assumption

theorem signalValue_hubOnly {s0 : State} (s : State) (ctx n : Nat) (h : HubOnly s0 s) : HubOnly s0 (signalValue s ctx n).1 := by
  unfold signalValue
  repeat' first
    | with_reducible assumption | with_reducible apply watchSignal_hubOnly | with_reducible refine fst_hubOnly (by assumption) ?_ | split
    | dsimp only | assumption

theorem setHead_hubOnly {s0 : State} (s : State) (ctx : Nat) (h : QHead) (h0 : HubOnly s0 s) : HubOnly s0 (setHead s ctx h) := by
  unfold setHead
  repeat' first
    | with_reducible assumption | with_reducible apply modCtx_hubOnly | (intro _) | split | dsimp only | assumption

theorem queueFault_hubOnly {s0 : State} (s : State) (ctx q : Nat) (h : HubOnly s0 s) : HubOnly s0 (queueFault s ctx q) := by
  unfold queueFault
  repeat' first
    | with_reducible assumption | with_reducible apply postEvent_hubOnly | split | dsimp only | assumption

theorem disableQueue_hubOnly {s0 : State} (s : State) (c : Ctx) (q : Nat) (h : QHead) (h0 : HubOnly s0 s) : HubOnly s0 (disableQueue s c q h) := by
  unfold disableQueue
  repeat' first
    | with_reducible assumption | with_reducible apply hubPut_hubOnly | with_reducible apply hubTranslate_hubOnly
    | with_reducible apply setHead_hubOnly | with_reducible apply queueFault_hubOnly | with_reducible refine fst_hubOnly (by assumption) ?_ | split
    | dsimp only | assumption

theorem passHead_hubOnly {s0 : State} (s : State) (c : Ctx) (h : QHead) (h0 : HubOnly s0 s) : HubOnly s0 (passHead s c h) := by
  unfold passHead
  repeat' first
    | with_reducible assumption | with_reducible apply modCtx_hubOnly | with_reducible apply hubWriteVa_hubOnly
    | with_reducible apply setHead_hubOnly | with_reducible apply queueFault_hubOnly | with_reducible refine fst_hubOnly (by assumption) ?_
    | (intro _) | split | dsimp only | assumption

theorem refuseRecord_hubOnly {s0 : State} (s : State) (c : Ctx) (h : QHead) (code : Nat) (h0 : HubOnly s0 s) : HubOnly s0 (refuseRecord s c h code) := by
  unfold refuseRecord
  repeat' first
    | with_reducible assumption | with_reducible apply postEvent_hubOnly | with_reducible apply passHead_hubOnly | split | dsimp only | assumption

theorem freeDugout_hubOnly {s0 : State} (s : State) (k : Nat) (h : HubOnly s0 s) : HubOnly s0 (freeDugout s k) := by
  unfold freeDugout
  repeat' first
    | with_reducible assumption | (intro _) | split | dsimp only | assumption

theorem decrementSignal_hubOnly {s0 : State} (s : State) (ctx n : Nat) (h : HubOnly s0 s) : HubOnly s0 (decrementSignal s ctx n) := by
  unfold decrementSignal
  repeat' first
    | with_reducible assumption | with_reducible apply hubPut_hubOnly | with_reducible apply hubTranslate_hubOnly
    | with_reducible apply watchSignal_hubOnly | with_reducible refine fst_hubOnly (by assumption) ?_ | (intro _) | split | dsimp only | assumption

theorem tableFault_hubOnly {s0 : State} (s : State) (ctx addr data : Nat) (h : HubOnly s0 s) : HubOnly s0 (tableFault s ctx addr data) := by
  unfold tableFault
  repeat' first
    | with_reducible assumption | with_reducible apply postEvent_hubOnly | split | dsimp only | assumption

theorem updatePredictor_hubOnly {s0 : State} (s : State) (c : Ctx) (raw : BitVec 512) (t : Nat) (counts exact : Bool) (h : HubOnly s0 s) : HubOnly s0 (updatePredictor s c raw t counts exact) := by
  unfold updatePredictor
  repeat' first
    | with_reducible assumption | with_reducible apply hubPut_hubOnly | with_reducible apply hubTouch_hubOnly
    | with_reducible apply setStalls_hubOnly | with_reducible apply hubTranslate_hubOnly | with_reducible apply requestPages_hubOnly
    | with_reducible apply tableFault_hubOnly | with_reducible refine fst_hubOnly (by assumption) ?_ | split | dsimp only | assumption

theorem zeroRange_hubOnly {s0 : State} (c : Ctx) (cid : Nat) : ∀ (k : Nat) (s : State) (va n : Nat), HubOnly s0 s → HubOnly s0 (zeroRange c cid k s va n).1
  | 0, _, _, _, h => h
  | k + 1, s, va, n, h => by
    unfold zeroRange
    dsimp only
    split
    · exact h
    · apply zeroRange_hubOnly c cid k
      split
      · exact hubPut_hubOnly _ _ _ _ (hubTranslate_hubOnly _ _ _ _ _ h)
      · exact hubTranslate_hubOnly _ _ _ _ _ h

theorem zeroShare_hubOnly {s0 : State} (s : State) (g : Grid) (gi : Nat) (h : HubOnly s0 s) : HubOnly s0 (zeroShare s g gi) := by
  unfold zeroShare
  repeat' first
    | with_reducible assumption | with_reducible apply tableFault_hubOnly | with_reducible apply zeroRange_hubOnly
    | with_reducible refine fst_hubOnly (by assumption) ?_ | (intro _) | split | dsimp only | assumption

theorem readTable_hubOnly {s0 : State} (s : State) (c : Ctx) (cid : Nat) (va : Int) (n : Nat) (h : HubOnly s0 s) : HubOnly s0 (readTable s c cid va n).1 := by
  unfold readTable
  repeat' first
    | with_reducible assumption | with_reducible apply hubReadVa_hubOnly | with_reducible refine fst_hubOnly (by assumption) ?_ | split | dsimp only
    | assumption

theorem specStart_hubOnly {s0 : State} (s : State) (c : Ctx) (raw : BitVec 512) (h : HubOnly s0 s) : HubOnly s0 (specStart s c raw).1 := by
  unfold specStart
  repeat' first
    | with_reducible assumption | with_reducible apply hubReadVa_hubOnly | with_reducible apply signalValue_hubOnly
    | with_reducible apply tableFault_hubOnly | with_reducible refine fst_hubOnly (by assumption) ?_ | (intro _) | split | dsimp only | assumption

theorem checkTail_hubOnly {s0 : State} (s : State) (c : Ctx) (h : QHead) (v : BitVec 64) (h0 : HubOnly s0 s) : HubOnly s0 (checkTail s c h v) := by
  unfold checkTail
  repeat' first
    | with_reducible assumption | with_reducible apply hubReadVa_hubOnly | with_reducible apply setHead_hubOnly
    | with_reducible apply disableQueue_hubOnly | with_reducible refine fst_hubOnly (by assumption) ?_ | split | dsimp only | assumption

theorem rewatch_hubOnly {s0 : State} (s : State) (ctx : Nat) (p : SigEnt → Bool) (h : HubOnly s0 s) : HubOnly s0 (rewatch s ctx p) := by
  unfold rewatch
  repeat' first
    | with_reducible assumption | with_reducible apply modCtx_hubOnly | with_reducible apply watchSignal_hubOnly
    | with_reducible apply foldl_hubOnly | with_reducible refine fst_hubOnly (by assumption) ?_ | (intro _) | split | dsimp only | assumption

theorem writeSigtN_hubOnly {s0 : State} (s : State) (ctx : Nat) (v : BitVec 32) (h : HubOnly s0 s) : HubOnly s0 (writeSigtN s ctx v) := by
  unfold writeSigtN
  repeat' first
    | with_reducible assumption | with_reducible apply modCtx_hubOnly | with_reducible apply rewatch_hubOnly | with_reducible apply foldl_hubOnly
    | (intro _) | split | dsimp only | assumption

theorem retryEvents_hubOnly {s0 : State} (s : State) (n : Nat) (h : HubOnly s0 s) : HubOnly s0 (retryEvents s n) := by
  unfold retryEvents
  repeat' first
    | with_reducible assumption | with_reducible apply modCtx_hubOnly | with_reducible apply setStalls_hubOnly
    | with_reducible apply writePart_hubOnly | with_reducible apply writeParts_hubOnly | with_reducible apply holdRequests_hubOnly
    | with_reducible refine fst_hubOnly (by assumption) ?_ | (intro _) | split | dsimp only | assumption

theorem tellUnit_hubOnly {s0 : State} (s : State) (vc n : Nat) (p : Group → Bool) (h : HubOnly s0 s) : HubOnly s0 (tellUnit s vc n p) := by
  unfold tellUnit
  repeat' first
    | with_reducible assumption | with_reducible apply postEvent_hubOnly | split | dsimp only | assumption

theorem clearRoutes_hubOnly {s0 : State} (fibre : Nat) : ∀ (l : List Nat) (s : State), HubOnly s0 s → HubOnly s0 (clearRoutes fibre l s)
  | [], _, h => h
  | p :: q, s, h => by
    unfold clearRoutes
    apply clearRoutes_hubOnly fibre q
    split
    · exact hubWrite_hubOnly _ _ _ h
    · exact h

theorem clearFibre_hubOnly {s0 : State} (s : State) (fibre : Nat) (h : HubOnly s0 s) : HubOnly s0 (clearFibre s fibre) := by
  unfold clearFibre
  exact clearRoutes_hubOnly fibre (List.range 4096) s h

theorem emptyWay_hubOnly {s0 : State} (s : State) (site : WaySite) (way : Nat) (h : HubOnly s0 s) : HubOnly s0 (emptyWay s site way) := by
  unfold emptyWay
  repeat' first
    | with_reducible assumption | with_reducible apply modDie_hubOnly | with_reducible apply writeBackFrom_hubOnly
    | with_reducible apply foldl_hubOnly | (intro _) | split | dsimp only | assumption

theorem peekBytes_hubOnly {s0 : State} (c : Ctx) (need : HubNeed) : ∀ (k : Nat) (s : State) (va n : Nat), HubOnly s0 s → HubOnly s0 (peekBytes c need k s va n).1
  | 0, _, _, _, h => h
  | k + 1, s, va, n, h => by
    have h1 := hubTranslate_hubOnly s c va need false h
    unfold peekBytes
    split
    · exact h
    · dsimp only
      split
      · rename_i e; rw [e] at h1; exact h1
      · rename_i e; rw [e] at h1; exact peekBytes_hubOnly c need k _ _ _ (hubReads_hubOnly _ _ _ h1)

theorem peekRange_hubOnly {s0 : State} (s : State) (c : Ctx) (need : HubNeed) (va n : Nat) (h : HubOnly s0 s) : HubOnly s0 (peekRange s c need va n).1 := by
  unfold peekRange
  repeat' first
    | with_reducible assumption | with_reducible apply setStalls_hubOnly | with_reducible apply peekBytes_hubOnly | split | dsimp only | assumption

theorem readObject_hubOnly {s0 : State} (s : State) (c : Ctx) (va : Nat) (h : HubOnly s0 s) : HubOnly s0 (readObject s c va).1 := by
  unfold readObject
  repeat' first
    | with_reducible assumption | with_reducible apply peekRange_hubOnly | with_reducible refine fst_hubOnly (by assumption) ?_ | split | dsimp only
    | assumption

theorem predTable_hubOnly {s0 : State} (s : State) (c : Ctx) (h : HubOnly s0 s) : HubOnly s0 (predTable s c).1 := by
  unfold predTable
  repeat' first
    | with_reducible assumption | with_reducible apply peekRange_hubOnly | with_reducible refine fst_hubOnly (by assumption) ?_ | split | dsimp only
    | assumption

theorem putRange_hubOnly {s0 : State} (c : Ctx) : ∀ (k : Nat) (s : State) (va : Nat) (bs : List Byte), HubOnly s0 s → HubOnly s0 (putRange c k s va bs).1
  | 0, _, _, _, h => h
  | k + 1, s, va, bs, h => by
    have h1 := hubTranslate_hubOnly s c va ⟨false, true, none, false⟩ true h
    unfold putRange
    split
    · exact h
    · dsimp only
      split
      · rename_i e; rw [e] at h1; exact h1
      · rename_i e; rw [e] at h1; exact putRange_hubOnly c k _ _ _ (hubWrite_hubOnly _ _ _ h1)

end Sys2Proof.Machine
end

