-- ==== Sys2Proof/Laws/PerInstr.lean ====
section
/-! SUPPORT. A family of facts, one for each instruction: the words of the fabric, and no event, have a shape of ports (R77 to R93). -/
namespace Sys2Proof.Laws.Form

open Sys2Proof Sys2Proof.Machine

/-- What the family says of an instruction: it is a word exactly when it has a shape. -/
def Statement (i : Instr) : Prop := isWord i = (shape i).isSome

theorem signalWriteObserved : Statement .signalWriteObserved := rfl
theorem recordReachesHead (ctx : Nat) (q : Nat) : Statement (.recordReachesHead ctx q) := rfl
theorem launchRelease : Statement .launchRelease := rfl
theorem groupHandout : Statement .groupHandout := rfl
theorem groupStart (g : Nat) : Statement (.groupStart g) := rfl
theorem shapeSourceTimeout (gid : Nat) : Statement (.shapeSourceTimeout gid) := rfl
theorem squashZeroFill (g : Nat) : Statement (.squashZeroFill g) := rfl
theorem groupRetire (g : Nat) : Statement (.groupRetire g) := rfl
theorem completionDecrement (k : Nat) : Statement (.completionDecrement k) := rfl
theorem notifyEntryArm (n : Nat) (w : BitVec 64) : Statement (.notifyEntryArm n w) := rfl
theorem hostNotificationMessage (n : Nat) : Statement (.hostNotificationMessage n) := rfl
theorem bullpenFill (k : Nat) : Statement (.bullpenFill k) := rfl
theorem placementSlotFree (vc : Nat) (slot : Nat) : Statement (.placementSlotFree vc slot) := rfl
theorem placementDrain (vc : Nat) (slot : Nat) : Statement (.placementDrain vc slot) := rfl
theorem threadAdmit (vc : Nat) (slot : Nat) : Statement (.threadAdmit vc slot) := rfl
theorem stageReentry (vc : Nat) (slot : Nat) (stage : Nat) : Statement (.stageReentry vc slot stage) := rfl
theorem loadReturn (vc : Nat) (frame : Nat) (idx : Nat) : Statement (.loadReturn vc frame idx) := rfl
theorem threadCommit (vc : Nat) (frame : Nat) : Statement (.threadCommit vc frame) := rfl
theorem atomicResultLand (e : Nat) : Statement (.atomicResultLand e) := rfl
theorem deferredSuccessorMove (vc : Nat) (frame : Nat) : Statement (.deferredSuccessorMove vc frame) := rfl
theorem pageWalk (ctx : Nat) (page : Nat) : Statement (.pageWalk ctx page) := rfl
theorem fuDone (v : BitVec 64) : Statement (.fuDone v) := rfl
theorem dugoutEvict (g : Nat) : Statement (.dugoutEvict g) := rfl
theorem writePlacement (m : PlaceMode) : Statement (.writePlacement m) := rfl
theorem gaAcknowledge (e : Nat) : Statement (.gaAcknowledge e) := rfl
theorem ackRetry (e : Nat) : Statement (.ackRetry e) := rfl
theorem ackLossResolution (e : Nat) (readable : Bool) : Statement (.ackLossResolution e readable) := rfl
theorem peerWritePerform (w : PeerWrite) : Statement (.peerWritePerform w) := rfl
theorem peerFlowRefused (e : Nat) (code : Nat) : Statement (.peerFlowRefused e code) := rfl
theorem copyStart (vc : Nat) (eng : Nat) : Statement (.copyStart vc eng) := rfl
theorem copyLineWrite (vc : Nat) (eng : Nat) : Statement (.copyLineWrite vc eng) := rfl
theorem copyComplete (vc : Nat) (eng : Nat) : Statement (.copyComplete vc eng) := rfl
theorem volleyPermit (c : Nat) : Statement (.volleyPermit c) := rfl
theorem tileOpFire (vc : Nat) : Statement (.tileOpFire vc) := rfl
theorem accumulatorStoreDone (o : Nat) : Statement (.accumulatorStoreDone o) := rfl
theorem tfenceStatusLand (o : Nat) : Statement (.tfenceStatusLand o) := rfl
theorem barrierStall (g : Nat) (w : Nat) : Statement (.barrierStall g w) := rfl
theorem heldCommitStall (vc : Nat) (frame : Nat) : Statement (.heldCommitStall vc frame) := rfl
theorem eventQueueRetry (ctx : Nat) : Statement (.eventQueueRetry ctx) := rfl
theorem fcmdResume (v : BitVec 64) : Statement (.fcmdResume v) := rfl
theorem fcmdRedirect (v : BitVec 64) : Statement (.fcmdRedirect v) := rfl
theorem fcmdKillThread (v : BitVec 64) : Statement (.fcmdKillThread v) := rfl
theorem fcmdKillGroup (v : BitVec 64) : Statement (.fcmdKillGroup v) := rfl
theorem fcmdWriteSlot (v : BitVec 64) : Statement (.fcmdWriteSlot v) := rfl
theorem fcmdRepost (v : BitVec 64) : Statement (.fcmdRepost v) := rfl
theorem fcmdResumeKind (v : BitVec 64) : Statement (.fcmdResumeKind v) := rfl
theorem fcmdStep (v : BitVec 64) : Statement (.fcmdStep v) := rfl
theorem dhaltSet (vc : Nat) : Statement (.dhaltSet vc) := rfl
theorem dhaltClear (vc : Nat) : Statement (.dhaltClear vc) := rfl
theorem quiesceRequest (ctx : Nat) : Statement (.quiesceRequest ctx) := rfl
theorem quiescePhaseAdvance (ctx : Nat) : Statement (.quiescePhaseAdvance ctx) := rfl
theorem dieCutAnswer (ctx : Nat) (die : Nat) : Statement (.dieCutAnswer ctx die) := rfl
theorem quiesceResume (ctx : Nat) : Statement (.quiesceResume ctx) := rfl
theorem imageStatusLand (k : Nat) : Statement (.imageStatusLand k) := rfl
theorem drstGo (v : BitVec 32) : Statement (.drstGo v) := rfl
theorem dieResetWriteBack : Statement .dieResetWriteBack := rfl
theorem dieResetOffline : Statement .dieResetOffline := rfl
theorem dieReadmit : Statement .dieReadmit := rfl
theorem ctxCreate : Statement .ctxCreate := rfl
theorem ctxCreateSupervisor : Statement .ctxCreateSupervisor := rfl
theorem ctxDestroy (ctx : Nat) : Statement (.ctxDestroy ctx) := rfl
theorem objRegister (ctx : Nat) : Statement (.objRegister ctx) := rfl
theorem objUnregister (ctx : Nat) (onum : Nat) : Statement (.objUnregister ctx onum) := rfl
theorem vctWrite (n : Nat) (v : BitVec 32) : Statement (.vctWrite n v) := rfl
theorem sigtNWrite (ctx : Nat) (v : BitVec 32) : Statement (.sigtNWrite ctx v) := rfl
theorem registerWrite (off : Nat) (v : BitVec 64) : Statement (.registerWrite off v) := rfl
theorem attestationRequest (v : BitVec 32) : Statement (.attestationRequest v) := rfl
theorem attestationReportDone : Statement .attestationReportDone := rfl
theorem firmwareUpdate (img : FwImage) : Statement (.firmwareUpdate img) := rfl
theorem lifeCycleAdvance (c : LifeCommand) : Statement (.lifeCycleAdvance c) := rfl
theorem powerOnStart (r : StartFindings) : Statement (.powerOnStart r) := rfl
theorem monitorEnable (u : Nat) (v : BitVec 32) : Statement (.monitorEnable u v) := rfl
theorem monitorSnap (u : Nat) : Statement (.monitorSnap u) := rfl
theorem monitorSample (u : Nat) (src : Nat) (v : Nat) : Statement (.monitorSample u src v) := rfl
theorem clockStep (region : Nat) (high : QueueMarks) : Statement (.clockStep region high) := rfl
theorem patrolScrub (what : ScrubPass) : Statement (.patrolScrub what) := rfl
theorem uncorrectableError (site : ErrorSite) : Statement (.uncorrectableError site) := rfl
theorem hbmRowRemap (stack : Nat) (row : Nat) : Statement (.hbmRowRemap stack row) := rfl
theorem pseudoChannelSwitch (stack : Nat) (ch : Nat) : Statement (.pseudoChannelSwitch stack ch) := rfl
theorem wavelengthSpare (fibre : Nat) (wl : Nat) : Statement (.wavelengthSpare fibre wl) := rfl
theorem fibreFailure (fibre : Nat) : Statement (.fibreFailure fibre) := rfl
theorem cacheWaySpare (site : WaySite) (way : Nat) : Statement (.cacheWaySpare site way) := rfl
theorem thlLaneFailure : Statement .thlLaneFailure := rfl
theorem hostWrite (pa : HostAddr) (data : List (BitVec 8)) : Statement (.hostWrite pa data) := rfl
theorem hostRead (pa : HostAddr) (n : Nat) : Statement (.hostRead pa n) := rfl
theorem nop (f : FmtS) : Statement (.nop f) := rfl
theorem next (f : FmtN) : Statement (.next f) := rfl
theorem nextp (f : FmtN) : Statement (.nextp f) := rfl
theorem nextpu (f : FmtN) : Statement (.nextpu f) := rfl
theorem nexti (f : FmtS) : Statement (.nexti f) := rfl
theorem call (f : FmtN) : Statement (.call f) := rfl
theorem calli (f : FmtS) : Statement (.calli f) := rfl
theorem ret (f : FmtS) : Statement (.ret f) := rfl
theorem exit (f : FmtS) : Statement (.exit f) := rfl
theorem bar (f : FmtS) : Statement (.bar f) := rfl
theorem yield (f : FmtS) : Statement (.yield f) := rfl
theorem spawn (f : FmtN) : Statement (.spawn f) := rfl
theorem gwait (f : FmtS) : Statement (.gwait f) := rfl
theorem trap (f : FmtS) : Statement (.trap f) := rfl
theorem brk (f : FmtS) : Statement (.brk f) := rfl
theorem launch (f : FmtS) : Statement (.launch f) := rfl
theorem himm (f : FmtH) : Statement (.himm f) := rfl
theorem hoff (f : FmtH) : Statement (.hoff f) := rfl
theorem htgt (f : FmtH) : Statement (.htgt f) := rfl
theorem hsch (f : FmtH) : Statement (.hsch f) := rfl
theorem add (f : FmtA) : Statement (.add f) := rfl
theorem sub (f : FmtA) : Statement (.sub f) := rfl
theorem mul (f : FmtA) : Statement (.mul f) := rfl
theorem mulhi (f : FmtA) : Statement (.mulhi f) := rfl
theorem mad (f : FmtA) : Statement (.mad f) := rfl
theorem div (f : FmtA) : Statement (.div f) := rfl
theorem rem (f : FmtA) : Statement (.rem f) := rfl
theorem min (f : FmtA) : Statement (.min f) := rfl
theorem max (f : FmtA) : Statement (.max f) := rfl
theorem abs (f : FmtA) : Statement (.abs f) := rfl
theorem neg (f : FmtA) : Statement (.neg f) := rfl
theorem and (f : FmtA) : Statement (.and f) := rfl
theorem or (f : FmtA) : Statement (.or f) := rfl
theorem xor (f : FmtA) : Statement (.xor f) := rfl
theorem not (f : FmtA) : Statement (.not f) := rfl
theorem andn (f : FmtA) : Statement (.andn f) := rfl
theorem shl (f : FmtA) : Statement (.shl f) := rfl
theorem shr (f : FmtA) : Statement (.shr f) := rfl
theorem sar (f : FmtA) : Statement (.sar f) := rfl
theorem rotl (f : FmtA) : Statement (.rotl f) := rfl
theorem popc (f : FmtA) : Statement (.popc f) := rfl
theorem clz (f : FmtA) : Statement (.clz f) := rfl
theorem ctz (f : FmtA) : Statement (.ctz f) := rfl
theorem brev (f : FmtA) : Statement (.brev f) := rfl
theorem bfx (f : FmtA) : Statement (.bfx f) := rfl
theorem bfi (f : FmtA) : Statement (.bfi f) := rfl
theorem cmp (f : FmtC) : Statement (.cmp f) := rfl
theorem sel (f : FmtA) : Statement (.sel f) := rfl
theorem adds (f : FmtA) : Statement (.adds f) := rfl
theorem subs (f : FmtA) : Statement (.subs f) := rfl
theorem dot4 (f : FmtA) : Statement (.dot4 f) := rfl
theorem dot2 (f : FmtA) : Statement (.dot2 f) := rfl
theorem ixa (f : FmtA) : Statement (.ixa f) := rfl
theorem fsh (f : FmtA) : Statement (.fsh f) := rfl
theorem perm (f : FmtA) : Statement (.perm f) := rfl
theorem lop3 (f : FmtA) : Statement (.lop3 f) := rfl
theorem fadd (f : FmtA) : Statement (.fadd f) := rfl
theorem fsub (f : FmtA) : Statement (.fsub f) := rfl
theorem fmul (f : FmtA) : Statement (.fmul f) := rfl
theorem fma (f : FmtA) : Statement (.fma f) := rfl
theorem fmin (f : FmtA) : Statement (.fmin f) := rfl
theorem fmax (f : FmtA) : Statement (.fmax f) := rfl
theorem fminn (f : FmtA) : Statement (.fminn f) := rfl
theorem fmaxn (f : FmtA) : Statement (.fmaxn f) := rfl
theorem fabs (f : FmtA) : Statement (.fabs f) := rfl
theorem fneg (f : FmtA) : Statement (.fneg f) := rfl
theorem fcmp (f : FmtC) : Statement (.fcmp f) := rfl
theorem fclass (f : FmtA) : Statement (.fclass f) := rfl
theorem fdiv (f : FmtA) : Statement (.fdiv f) := rfl
theorem fsqrt (f : FmtA) : Statement (.fsqrt f) := rfl
theorem frnd (f : FmtA) : Statement (.frnd f) := rfl
theorem ffrac (f : FmtA) : Statement (.ffrac f) := rfl
theorem fscale (f : FmtA) : Statement (.fscale f) := rfl
theorem fgetx (f : FmtA) : Statement (.fgetx f) := rfl
theorem fsign (f : FmtA) : Statement (.fsign f) := rfl
theorem fdot2 (f : FmtA) : Statement (.fdot2 f) := rfl
theorem cvt (f : FmtA) : Statement (.cvt f) := rfl
theorem cvtsr (f : FmtA) : Statement (.cvtsr f) := rfl
theorem pack (f : FmtA) : Statement (.pack f) := rfl
theorem unpack (f : FmtA) : Statement (.unpack f) := rfl
theorem qnt (f : FmtA) : Statement (.qnt f) := rfl
theorem dqnt (f : FmtA) : Statement (.dqnt f) := rfl
theorem rcp (f : FmtA) : Statement (.rcp f) := rfl
theorem rsq (f : FmtA) : Statement (.rsq f) := rfl
theorem ex2 (f : FmtA) : Statement (.ex2 f) := rfl
theorem lg2 (f : FmtA) : Statement (.lg2 f) := rfl
theorem sinpi (f : FmtA) : Statement (.sinpi f) := rfl
theorem cospi (f : FmtA) : Statement (.cospi f) := rfl
theorem tanh (f : FmtA) : Statement (.tanh f) := rfl
theorem sigm (f : FmtA) : Statement (.sigm f) := rfl
theorem rd (f : FmtL) : Statement (.rd f) := rfl
theorem wr (f : FmtL) : Statement (.wr f) := rfl
theorem mov (f : FmtB) : Statement (.mov f) := rfl
theorem rdsys (f : FmtL) : Statement (.rdsys f) := rfl
theorem xput (f : FmtL) : Statement (.xput f) := rfl
theorem xget (f : FmtL) : Statement (.xget f) := rfl
theorem xclr (f : FmtL) : Statement (.xclr f) := rfl
theorem gred (f : FmtA) : Statement (.gred f) := rfl
theorem gscan (f : FmtA) : Statement (.gscan f) := rfl
theorem vote (f : FmtA) : Statement (.vote f) := rfl
theorem ld (f : FmtM) : Statement (.ld f) := rfl
theorem st (f : FmtM) : Statement (.st f) := rfl
theorem lds (f : FmtM) : Statement (.lds f) := rfl
theorem sts (f : FmtM) : Statement (.sts f) := rfl
theorem ldsn (f : FmtM) : Statement (.ldsn f) := rfl
theorem ldc (f : FmtM) : Statement (.ldc f) := rfl
theorem pf (f : FmtM) : Statement (.pf f) := rfl
theorem ldacq (f : FmtM) : Statement (.ldacq f) := rfl
theorem strel (f : FmtM) : Statement (.strel f) := rfl
theorem fence (f : FmtS) : Statement (.fence f) := rfl
theorem cwb (f : FmtM) : Statement (.cwb f) := rfl
theorem zfill (f : FmtM) : Statement (.zfill f) := rfl
theorem pld (f : FmtM) : Statement (.pld f) := rfl
theorem pst (f : FmtM) : Statement (.pst f) := rfl
theorem aadd (f : FmtT) : Statement (.aadd f) := rfl
theorem amin (f : FmtT) : Statement (.amin f) := rfl
theorem amax (f : FmtT) : Statement (.amax f) := rfl
theorem aand (f : FmtT) : Statement (.aand f) := rfl
theorem aor (f : FmtT) : Statement (.aor f) := rfl
theorem axor (f : FmtT) : Statement (.axor f) := rfl
theorem axchg (f : FmtT) : Statement (.axchg f) := rfl
theorem acas (f : FmtT) : Statement (.acas f) := rfl
theorem afadd (f : FmtT) : Statement (.afadd f) := rfl
theorem sigsub (f : FmtT) : Statement (.sigsub f) := rfl
theorem sigwait (f : FmtT) : Statement (.sigwait f) := rfl
theorem mbox (f : FmtT) : Statement (.mbox f) := rfl
theorem tcopy (f : FmtE) : Statement (.tcopy f) := rfl
theorem tstore (f : FmtE) : Statement (.tstore f) := rfl
theorem tcopyo (f : FmtE) : Statement (.tcopyo f) := rfl
theorem tcopyr (f : FmtE) : Statement (.tcopyr f) := rfl
theorem tcast (f : FmtE) : Statement (.tcast f) := rfl
theorem sfree (f : FmtE) : Statement (.sfree f) := rfl
theorem spres (f : FmtE) : Statement (.spres f) := rfl
theorem tgath (f : FmtE) : Statement (.tgath f) := rfl
theorem tscat (f : FmtE) : Statement (.tscat f) := rfl
theorem tclaim (f : FmtE) : Statement (.tclaim f) := rfl
theorem trel (f : FmtE) : Statement (.trel f) := rfl
theorem mma (f : FmtE) : Statement (.mma f) := rfl
theorem mmi (f : FmtE) : Statement (.mmi f) := rfl
theorem mmg (f : FmtE) : Statement (.mmg f) := rfl
theorem tsacc (f : FmtE) : Statement (.tsacc f) := rfl
theorem tzero (f : FmtE) : Statement (.tzero f) := rfl
theorem tacst (f : FmtE) : Statement (.tacst f) := rfl
theorem tacld (f : FmtE) : Statement (.tacld f) := rfl
theorem tfence (f : FmtE) : Statement (.tfence f) := rfl
theorem tmode (f : FmtE) : Statement (.tmode f) := rfl
theorem rdctl (f : FmtS) : Statement (.rdctl f) := rfl
theorem wrctl (f : FmtS) : Statement (.wrctl f) := rfl
theorem tlbinv (f : FmtS) : Statement (.tlbinv f) := rfl
theorem cinv (f : FmtS) : Statement (.cinv f) := rfl
theorem evpost (f : FmtS) : Statement (.evpost f) := rfl
theorem perf (f : FmtS) : Statement (.perf f) := rfl
theorem ctxsv (f : FmtS) : Statement (.ctxsv f) := rfl
theorem ctxld (f : FmtS) : Statement (.ctxld f) := rfl
theorem writePerformedInL2 (e : Nat) : Statement (.writePerformedInL2 e) := rfl
theorem peerWriteAcknowledged (e : Nat) : Statement (.peerWriteAcknowledged e) := rfl
theorem hostWriteAccepted (e : Nat) : Statement (.hostWriteAccepted e) := rfl
theorem peerReadRequest (r : PeerRead) : Statement (.peerReadRequest r) := rfl
theorem bullpenProtectionExpiry (vc : Nat) : Statement (.bullpenProtectionExpiry vc) := rfl
theorem powerLoss : Statement .powerLoss := rfl

end Sys2Proof.Laws.Form
end

