-- ==== Sys2Proof/Laws/Shape.lean ====
section
/-! SUPPORT. The shape of the machine (WellShaped) stays under every shared operation: one lemma an operation, from the updates of one thread, core, die,
effect or group up to commit, faults, the engines and the image. A meaning is a few of them: its own lemma unfolds it, splits its cases and applies these. -/
namespace Sys2Proof.Machine

/-- Whatever state an outcome carries, its shape is kept. -/
structure OutShaped (o : Out) : Prop where
  mk :: (next : ∀ t, o = .next t → WellShaped t)

theorem OutShaped.of_next {t : State} (h : WellShaped t) : OutShaped (.next t) := ⟨by intro u e; cases e; exact h⟩
theorem OutShaped.of_fault (f : Fault) : OutShaped (.fault f) := ⟨by intro u e; cases e⟩
theorem OutShaped.of_refused (f : Refusal) : OutShaped (.refused f) := ⟨by intro u e; cases e⟩

/-- What an update of a thread leaves: its number, its place and how many slots it has. -/
def ThreadKeeps (t u : Thread) : Prop :=
  u.uid = t.uid ∧ (u.resident = t.resident ∨ u.resident = false) ∧ u.vc = t.vc ∧ u.frame = t.frame ∧
  (t.slots.length = 64 → u.slots.length = 64) ∧ (t.xs.length = 8 → u.xs.length = 8)

theorem ThreadKeeps.refl (t : Thread) : ThreadKeeps t t := ⟨rfl, .inl rfl, rfl, rfl, id, id⟩

theorem ThreadsShaped.map {n : Nat} {f : Thread → Thread} (hf : ∀ t, ThreadKeeps t (f t)) {l : List Thread} (h : ThreadsShaped l n) :
    ThreadsShaped (l.map f) n := by
  obtain ⟨h1, h2, h3⟩ := h
  refine ⟨?_, ?_, ?_⟩
  · rw [List.map_map, show (fun t : Thread => t.uid) ∘ f = fun t => t.uid from funext fun t => (hf t).1]; exact h1
  · have : (((l.map f).filter (·.resident)).map fun t => (t.vc, t.frame)).Sublist ((l.filter (·.resident)).map fun t => (t.vc, t.frame)) := by
      clear h1 h2 h3
      induction l with
      | nil => exact .slnil
      | cons a l ih =>
        obtain ⟨-, hr, hv, hfr, -, -⟩ := hf a
        rw [List.map_cons, List.filter_cons, List.filter_cons]
        cases ha : a.resident with
        | false =>
          rw [ha] at hr
          rw [if_neg (by simp [or_self_iff.mp hr]), if_neg (by simp)]; exact ih
        | true =>
          rw [if_pos rfl]
          split
          · rw [List.map_cons, List.map_cons, hv, hfr]; exact ih.cons_cons _
          · exact ih.cons _
    exact h2.sublist this
  · intro t ht
    obtain ⟨u, hu, rfl⟩ := List.mem_map.mp ht
    obtain ⟨e1, e2, e3⟩ := h3 u hu
    exact ⟨by rw [(hf u).1]; exact e1, (hf u).2.2.2.2.1 e2, (hf u).2.2.2.2.2 e3⟩

theorem ThreadsShaped.sublist {n : Nat} {l k : List Thread} (hk : k.Sublist l) (h : ThreadsShaped l n) : ThreadsShaped k n :=
  ⟨h.1.sublist (hk.map _), h.2.1.sublist ((hk.filter _).map _), fun t ht => h.2.2 t (hk.subset ht)⟩

theorem ThreadsShaped.le {n m : Nat} {l : List Thread} (hn : n ≤ m) (h : ThreadsShaped l n) : ThreadsShaped l m :=
  ⟨h.1, h.2.1, fun t ht => ⟨Nat.lt_of_lt_of_le (h.2.2 t ht).1 hn, (h.2.2 t ht).2⟩⟩

theorem mem_modAt {α : Type} {f : α → α} : ∀ {l : List α} {i : Nat} {x : α}, x ∈ modAt f l i → x ∈ l ∨ ∃ y ∈ l, x = f y
  | [], _, _, h => by cases h
  | a :: l, 0, x, h => by
    rcases List.mem_cons.mp h with rfl | h
    · exact .inr ⟨a, List.mem_cons_self, rfl⟩
    · exact .inl (List.mem_cons_of_mem _ h)
  | a :: l, i + 1, x, h => by
    rcases List.mem_cons.mp h with rfl | h
    · exact .inl List.mem_cons_self
    · rcases mem_modAt h with h | ⟨y, hy, e⟩
      · exact .inl (List.mem_cons_of_mem _ h)
      · exact .inr ⟨y, List.mem_cons_of_mem _ hy, e⟩

theorem mem_modAt_at {α : Type} {f : α → α} : ∀ {l : List α} {i : Nat} {x : α}, x ∈ modAt f l i → x ∈ l ∨ ∃ y, l[i]? = some y ∧ x = f y
  | [], _, _, h => by cases h
  | a :: l, 0, x, h => by
    rcases List.mem_cons.mp h with rfl | h
    · exact .inr ⟨a, rfl, rfl⟩
    · exact .inl (List.mem_cons_of_mem _ h)
  | a :: l, i + 1, x, h => by
    rcases List.mem_cons.mp h with rfl | h
    · exact .inl List.mem_cons_self
    · rcases mem_modAt_at h with h | ⟨y, hy, e⟩
      · exact .inl (List.mem_cons_of_mem _ h)
      · exact .inr ⟨y, by simpa using hy, e⟩

theorem modAt_beyond {α : Type} (f : α → α) : ∀ (l : List α) (i : Nat), l.length ≤ i → modAt f l i = l
  | [], _, _ => rfl
  | _ :: _, 0, h => by simp at h
  | a :: l, i + 1, h => congrArg (a :: ·) (modAt_beyond f l i (by simpa using h))

@[simp] theorem modAt_length {α : Type} (f : α → α) : ∀ (l : List α) (i : Nat), (modAt f l i).length = l.length
  | [], _ => rfl
  | _ :: _, 0 => rfl
  | _ :: l, i + 1 => congrArg (· + 1) (modAt_length f l i)

@[simp] theorem setAt_length {α : Type} (l : List α) (i : Nat) (v : α) : (setAt l i v).length = l.length := List.length_set

@[simp] theorem putSlots_length (l : List Slot) (n : Nat) (wide : Bool) (v : Nat) : (putSlots l n wide v).length = l.length := by
  unfold putSlots; dsimp only; split <;> simp

theorem tlbAdd_length (cap : Nat) (l : List TlbEnt) (e : TlbEnt) : (tlbAdd cap l e).length ≤ cap := by
  unfold tlbAdd; simp only [List.length_drop]; omega

theorem mem_modWhere {α : Type} {p : α → Bool} {f : α → α} {l : List α} {x : α} (h : x ∈ modWhere p f l) : ∃ y ∈ l, x = y ∨ x = f y := by
  obtain ⟨y, hy, e⟩ := List.mem_map.mp h
  split at e
  · exact ⟨y, hy, .inr e.symm⟩
  · exact ⟨y, hy, .inl e.symm⟩

theorem map_modWhere {α β : Type} {p : α → Bool} {f : α → α} {g : α → β} (hf : ∀ a, g (f a) = g a) (l : List α) : (modWhere p f l).map g = l.map g := by
  unfold modWhere; rw [List.map_map]; apply List.map_congr_left; intro a _; simp only [Function.comp]; split <;> simp [hf]

theorem modWhere_sublist {α β : Type} {p : α → Bool} {f : α → α} {g : α → β} {l : List α} (hf : ∀ a, g (f a) = g a) :
    ((modWhere p f l).map g).Sublist (l.map g) := by
  simp only [map_modWhere hf, List.Sublist.refl]

theorem ThreadKeeps.trans {t u v : Thread} (h : ThreadKeeps t u) (k : ThreadKeeps u v) : ThreadKeeps t v :=
  ⟨k.1.trans h.1, k.2.1.elim (fun e => by rw [e]; exact h.2.1) .inr, k.2.2.1.trans h.2.2.1, k.2.2.2.1.trans h.2.2.2.1,
    fun e => k.2.2.2.2.1 (h.2.2.2.2.1 e), fun e => k.2.2.2.2.2 (h.2.2.2.2.2 e)⟩

theorem wrTok_keeps (t : Thread) (n : Nat) (wide : Bool) (tok : Tok) : ThreadKeeps t (wrTok t n wide tok) := by
  unfold wrTok
  dsimp only
  split
  · exact .refl t
  · exact ⟨rfl, .inl rfl, rfl, rfl, by simp, id⟩
  · exact ⟨rfl, .inl rfl, rfl, rfl, by dsimp only; split <;> simp, id⟩

theorem foldl_keeps {α : Type} {f : Thread → α → Thread} (hf : ∀ t a, ThreadKeeps t (f t a)) : ∀ (l : List α) (t : Thread), ThreadKeeps t (l.foldl f t)
  | [], t => .refl t
  | a :: l, t => (hf t a).trans (foldl_keeps hf l (f t a))

theorem clearFrame_keeps (t : Thread) (st : ThreadSt) : ThreadKeeps t { clearFrame t with st := st } :=
  ⟨rfl, .inl rfl, rfl, rfl, fun _ => List.length_replicate .., fun _ => List.length_replicate ..⟩

/-- A thread joins with the next number and a frame that no resident thread of its core has. -/
theorem ThreadsShaped.join {l : List Thread} {n m : Nat} {u : Thread} (h : ThreadsShaped l n) (hu : n ≤ u.uid) (hm : u.uid < m)
    (hf : ∀ t ∈ l, t.resident = true → t.vc = u.vc → t.frame ≠ u.frame) (h1 : u.slots.length = 64) (h2 : u.xs.length = 8) :
    ThreadsShaped (l ++ [u]) m := by
  obtain ⟨k1, k2, k3⟩ := h
  refine ⟨?_, ?_, ?_⟩
  · rw [List.map_append, List.nodup_append]
    refine ⟨k1, by simp, ?_⟩
    intro a ha b hb
    obtain ⟨x, hx, rfl⟩ := List.mem_map.mp ha
    have := (k3 x hx).1
    simp only [List.map_cons, List.map_nil, List.mem_singleton] at hb
    omega
  · rw [List.filter_append, List.map_append, List.nodup_append]
    refine ⟨k2, by simp only [List.filter_cons]; split <;> simp, ?_⟩
    intro a ha b hb e
    obtain ⟨x, hx, rfl⟩ := List.mem_map.mp ha
    obtain ⟨y, hy, rfl⟩ := List.mem_map.mp hb
    have hy1 := (List.mem_filter.mp hy).1
    simp only [List.mem_singleton] at hy1
    subst hy1
    simp only [Prod.mk.injEq] at e
    obtain ⟨hx1, hx2⟩ := List.mem_filter.mp hx
    exact hf x hx1 hx2 e.1 e.2
  · intro t ht
    rcases List.mem_append.mp ht with ht | ht
    · exact ⟨Nat.lt_trans (k3 t ht).1 (Nat.lt_of_le_of_lt hu hm), (k3 t ht).2⟩
    · simp only [List.mem_singleton] at ht
      rw [ht]; exact ⟨hm, h1, h2⟩

theorem not_used {s : State} {vc f : Nat} (h : ((s.threads.filter fun t => t.resident && t.vc == vc).map (·.frame)).contains f = false) :
    ∀ t ∈ s.threads, t.resident = true → t.vc = vc → t.frame ≠ f := by
  intro t ht hr hv e
  rw [List.contains_eq_any_beq, List.any_eq_false] at h
  exact h t.frame (List.mem_map_of_mem (List.mem_filter.mpr ⟨ht, by simp [hr, hv]⟩)) (by simp [e])

theorem freeFramesOf_free {s : State} {vc f : Nat} (h : f ∈ freeFramesOf s vc) : ∀ t ∈ s.threads, t.resident = true → t.vc = vc → t.frame ≠ f := by
  refine not_used ?_
  simpa using (List.mem_filter.mp h).2

theorem spawnFrames_free {s : State} {vc d f : Nat} (h : f ∈ spawnFrames s vc d) : ∀ t ∈ s.threads, t.resident = true → t.vc = vc → t.frame ≠ f := by
  rcases List.mem_append.mp h with h | h
  · exact freeFramesOf_free h
  · refine not_used ?_
    simpa using (List.mem_filter.mp h).2

/-- That no two resident threads share a frame, said of pairs. -/
theorem frames_pairwise {l : List Thread} : ((l.filter (·.resident)).map fun t => (t.vc, t.frame)).Nodup ↔
    l.Pairwise fun a b => a.resident = true → b.resident = true → a.vc = b.vc → a.frame ≠ b.frame := by
  unfold List.Nodup
  rw [List.pairwise_map, List.pairwise_filter]
  constructor <;> intro h <;> refine h.imp ?_
  · intro a b h ha hb hv e; exact h ha hb (by rw [hv, e])
  · intro a b h ha hb e; simp only [Prod.mk.injEq] at e; exact h ha hb e.1 e.2

theorem uids_pairwise {l : List Thread} : (l.map (·.uid)).Nodup ↔ l.Pairwise fun a b => a.uid ≠ b.uid := by
  unfold List.Nodup
  rw [List.pairwise_map]

/-- Threads join with new numbers and frames that no resident thread of theirs has. -/
theorem ThreadsShaped.append {l k : List Thread} {n m : Nat} (h : ThreadsShaped l n) (hk : ThreadsShaped k m) (hn : n ≤ m) (hu : ∀ t ∈ k, n ≤ t.uid)
    (hf : ∀ t ∈ l, ∀ u ∈ k, t.resident = true → u.resident = true → t.vc = u.vc → t.frame ≠ u.frame) : ThreadsShaped (l ++ k) m := by
  refine ⟨?_, ?_, ?_⟩
  · rw [uids_pairwise, List.pairwise_append]
    refine ⟨uids_pairwise.mp h.1, uids_pairwise.mp hk.1, fun a ha b hb e => ?_⟩
    have h1 := (h.2.2 a ha).1
    have h2 := hu b hb
    omega
  · rw [frames_pairwise, List.pairwise_append]
    exact ⟨frames_pairwise.mp h.2.1, frames_pairwise.mp hk.2.1, hf⟩
  · intro t ht
    rcases List.mem_append.mp ht with ht | ht
    · exact ⟨Nat.lt_of_lt_of_le (h.2.2 t ht).1 hn, (h.2.2 t ht).2⟩
    · exact hk.2.2 t ht

theorem zip_snd_sublist {α β : Type} : ∀ (l : List α) (k : List β), ((l.zip k).map Prod.snd).Sublist k
  | [], _ => by simp
  | _ :: _, [] => by simp
  | _ :: l, _ :: k => by simpa using zip_snd_sublist l k

theorem zip_fst_sublist {α β : Type} : ∀ (l : List α) (k : List β), ((l.zip k).map Prod.fst).Sublist l
  | [], _ => by simp
  | _ :: _, [] => by simp
  | _ :: l, _ :: k => by simpa using zip_fst_sublist l k

theorem inj_of_nodup_map {α β : Type} {f : α → β} : ∀ {l : List α}, (l.map f).Nodup → ∀ {a b : α}, a ∈ l → b ∈ l → f a = f b → a = b
  | [], _, _, _, h, _, _ => by cases h
  | x :: l, hn, a, b, ha, hb, e => by
    rw [List.map_cons, List.nodup_cons] at hn
    rcases List.mem_cons.mp ha with ha | ha <;> rcases List.mem_cons.mp hb with hb | hb
    · rw [ha, hb]
    · exact absurd (List.mem_map.mpr ⟨b, hb, by rw [← e, ha]⟩) hn.1
    · exact absurd (List.mem_map.mpr ⟨a, ha, by rw [e, hb]⟩) hn.1
    · exact inj_of_nodup_map hn.2 ha hb e

theorem freeFramesOf_nodup (s : State) (vc : Nat) : (freeFramesOf s vc).Nodup := List.nodup_range.sublist List.filter_sublist

theorem firstBelow_some {p : Nat → Bool} {n i : Nat} (h : firstBelow p n = some i) : i < n ∧ p i = true :=
  ⟨List.mem_range.mp (List.mem_of_find?_eq_some h), List.find?_some h⟩

theorem fresh_shaped (s : State) (h : WellShaped s) : WellShaped (fresh s).2 :=
  ⟨h.1.le (Nat.le_succ _), ⟨h.2.1.1, fun e he => Nat.lt_succ_of_lt (h.2.1.2 e he)⟩, h.2.2⟩

/-- A number taken from the counter. -/
theorem nextId_shaped {s : State} (n : Nat) (h : WellShaped s) : WellShaped { s with nextId := s.nextId + n } :=
  ⟨h.1.le (Nat.le_add_right _ _), ⟨h.2.1.1, fun e he => Nat.lt_of_lt_of_le (h.2.1.2 e he) (Nat.le_add_right _ _)⟩, h.2.2⟩

/-- A new effect has the next number. -/
theorem newEffect_shaped {s : State} {e : Effect} (he : e.id = s.nextId) (h : WellShaped s) :
    WellShaped { s with nextId := s.nextId + 1, effects := s.effects ++ [e] } := by
  refine ⟨h.1.le (Nat.le_succ _), ⟨?_, ?_⟩, h.2.2⟩
  · rw [List.map_append, List.nodup_append]
    refine ⟨h.2.1.1, by simp, ?_⟩
    intro a ha b hb
    obtain ⟨x, hx, rfl⟩ := List.mem_map.mp ha
    have := h.2.1.2 x hx
    simp only [List.map_cons, List.map_nil, List.mem_singleton] at hb
    omega
  · intro x hx
    rcases List.mem_append.mp hx with hx | hx
    · exact Nat.lt_succ_of_lt (h.2.1.2 x hx)
    · simp only [List.mem_singleton] at hx; rw [hx, he]; exact Nat.lt_succ_self _

theorem effects_shaped {s : State} {l : List Effect} (hl : (l.map (·.id)).Sublist (s.effects.map (·.id))) (h : WellShaped s) : WellShaped { s with effects := l } := by
  refine ⟨h.1, ⟨h.2.1.1.sublist hl, ?_⟩, h.2.2⟩
  intro e he
  obtain ⟨x, hx, e1⟩ := List.mem_map.mp (hl.subset (List.mem_map_of_mem he))
  have := h.2.1.2 x hx
  show e.id < s.nextId
  omega

theorem effectsMap_shaped {s : State} {f : Effect → Effect} (hf : ∀ e, (f e).id = e.id) (h : WellShaped s) : WellShaped { s with effects := s.effects.map f } :=
  effects_shaped (by rw [List.map_map]; simp [Function.comp_def, hf]) h

theorem threads_shaped {s : State} {l : List Thread} (hl : ThreadsShaped l s.nextId) (h : WellShaped s) : WellShaped { s with threads := l } := ⟨hl, h.2⟩

theorem threadsMap_shaped {s : State} {f : Thread → Thread} (hf : ∀ t, ThreadKeeps t (f t)) (h : WellShaped s) : WellShaped { s with threads := s.threads.map f } :=
  threads_shaped (h.1.map hf) h

theorem threadsFilter_shaped {s : State} {p : Thread → Bool} (h : WellShaped s) : WellShaped { s with threads := s.threads.filter p } :=
  threads_shaped (h.1.sublist List.filter_sublist) h

theorem coresMap_shaped {s : State} {f : Core → Core} (hf : ∀ c, CoreShaped c → CoreShaped (f c)) (h : WellShaped s) : WellShaped { s with cores := s.cores.map f } := by
  refine ⟨h.1, h.2.1, ⟨(List.length_map _).trans h.2.2.1.1, ?_⟩, h.2.2.2⟩
  intro c hc
  obtain ⟨x, hx, rfl⟩ := List.mem_map.mp hc
  exact hf x (h.2.2.1.2 x hx)

theorem diesMap_shaped {s : State} {f : Die → Die} (hf : ∀ d, (f d).tlb.length ≤ d.tlb.length) (h : WellShaped s) : WellShaped { s with dies := s.dies.map f } := by
  refine ⟨h.1, h.2.1, h.2.2.1, ⟨(List.length_map _).trans h.2.2.2.1.1, ?_⟩, h.2.2.2.2⟩
  intro c hc
  obtain ⟨x, hx, rfl⟩ := List.mem_map.mp hc
  exact Nat.le_trans (hf x) (h.2.2.2.1.2 x hx)

theorem groups_shaped {s : State} {l : List Group} (hl : ∀ g ∈ l, g.bars.length = 4) (h : WellShaped s) : WellShaped { s with groups := l } :=
  ⟨h.1, h.2.1, h.2.2.1, h.2.2.2.1, hl⟩

theorem hub_shaped {s : State} {h : Hub} (hM : WellShaped s) : WellShaped { s with hub := h } := hM
theorem ap_shaped {s : State} {a : Aperture} (hM : WellShaped s) : WellShaped { s with ap := a } := hM
theorem pkg_shaped {s : State} {p : Pkg} (hM : WellShaped s) : WellShaped { s with pkg := p } := hM
theorem grids_shaped {s : State} {l : List Grid} (hM : WellShaped s) : WellShaped { s with grids := l } := hM

/-- The state of a pair. -/
theorem fst_shaped {α : Type} {p : State × α} {t : State} {x : α} (e : p = (t, x)) (h : WellShaped p.1) : WellShaped t := by
  rw [e] at h; exact h

theorem snd_shaped {α : Type} {p : α × State} {t : State} {x : α} (e : p = (x, t)) (h : WellShaped p.2) : WellShaped t := by
  rw [e] at h; exact h

/-- A fold whose every step keeps the shape keeps it. -/
theorem foldl_shaped {α : Type} {f : State → α → State} (hf : ∀ s a, WellShaped s → WellShaped (f s a)) :
    ∀ (l : List α) (s : State), WellShaped s → WellShaped (l.foldl f s)
  | [], _, h => h
  | a :: l, s, h => foldl_shaped hf l (f s a) (hf s a h)

/-- A field that no step of a fold changes. -/
theorem foldl_field {α β : Type} {f : State → α → State} {g : State → β} (hf : ∀ s a, g (f s a) = g s) : ∀ (l : List α) (s : State), g (l.foldl f s) = g s
  | [], _ => rfl
  | a :: l, s => (foldl_field hf l (f s a)).trans (hf s a)

theorem foldlReading_shaped {α : Type} {f : Reading → α → Reading} (hf : ∀ p a, WellShaped p.s → WellShaped (f p a).s) :
    ∀ (l : List α) (p : Reading), WellShaped p.s → WellShaped (l.foldl f p).s
  | [], _, h => h
  | a :: l, p, h => foldlReading_shaped hf l (f p a) (hf p a h)

theorem foldlPutting_shaped {α : Type} {f : Putting → α → Putting} (hf : ∀ p a, WellShaped p.g.s → WellShaped (f p a).g.s) :
    ∀ (l : List α) (p : Putting), WellShaped p.g.s → WellShaped (l.foldl f p).g.s
  | [], _, h => h
  | a :: l, p, h => foldlPutting_shaped hf l (f p a) (hf p a h)

theorem foldlLay_shaped {α : Type} {f : LayReads → α → LayReads} (hf : ∀ p a, WellShaped p.s → WellShaped (f p a).s) :
    ∀ (l : List α) (p : LayReads), WellShaped p.s → WellShaped (l.foldl f p).s
  | [], _, h => h
  | a :: l, p, h => foldlLay_shaped hf l (f p a) (hf p a h)

theorem fstReading_shaped {α : Type} {p : Reading × α} {t : Reading} {x : α} (e : p = (t, x)) (h : WellShaped p.1.s) : WellShaped t.s := by
  rw [e] at h; exact h

theorem foldlPair_shaped {α β : Type} {f : State × β → α → State × β} (hf : ∀ p a, WellShaped p.1 → WellShaped (f p a).1) :
    ∀ (l : List α) (p : State × β), WellShaped p.1 → WellShaped (l.foldl f p).1
  | [], _, h => h
  | a :: l, p, h => foldlPair_shaped hf l (f p a) (hf p a h)

/-- Storage with as many slots, accumulators and partial tiles. -/
def StoreKeeps (t u : Storage) : Prop :=
  u.slots.length = t.slots.length ∧ u.accs.length = t.accs.length ∧ u.pts.length = t.pts.length ∧ u.slotCtx.length = t.slotCtx.length

/-- A core whose tables are parts of a shaped core's is shaped. -/
theorem CoreShaped.of_sub {c d : Core} (h : CoreShaped c) (h1 : d.tlb.length ≤ c.tlb.length) (h2 : d.bullpen.length ≤ c.bullpen.length)
    (h3 : (d.entries.map (·.idx)).Sublist (c.entries.map (·.idx))) (h4 : (d.places.map (·.slot)).Sublist (c.places.map (·.slot)))
    (h5 : StoreKeeps c.store d.store) : CoreShaped d := by
  obtain ⟨k1, k2, k3, k4, k5⟩ := h
  refine ⟨Nat.le_trans h1 k1, Nat.le_trans h2 k2, ⟨k3.1.sublist h3, ?_⟩, ⟨k4.1.sublist h4, ?_⟩, by rw [h5.1, h5.2.1, h5.2.2.1, h5.2.2.2]; exact k5⟩
  · intro e he
    obtain ⟨x, hx, e1⟩ := List.mem_map.mp (h3.subset (List.mem_map_of_mem he))
    have := k3.2 x hx
    show e.idx < 256; omega
  · intro e he
    obtain ⟨x, hx, e1⟩ := List.mem_map.mp (h4.subset (List.mem_map_of_mem he))
    have := k4.2 x hx
    show e.slot < 8; omega

/-! Ops -/

theorem modGroup_shaped (s : State) (g gi : Nat) (f : Group → Group) (hf : ∀ g, (f g).bars.length = g.bars.length) (hM : WellShaped s) : WellShaped (modGroup s g gi f) := by
  refine groups_shaped ?_ hM
  intro x hx
  obtain ⟨y, hy, e | e⟩ := mem_modWhere hx
  · rw [e]; exact hM.2.2.2.2 y hy
  · rw [e, hf]; exact hM.2.2.2.2 y hy

theorem modThread_shaped (s : State) (uid : Nat) (f : Thread → Thread) (hf : ∀ t, ThreadKeeps t (f t)) (hM : WellShaped s) : WellShaped (modThread s uid f) :=
  threadsMap_shaped (fun t => by
    split
    · exact hf t
    · exact .refl t) hM

theorem modCore_shaped (s : State) (vc : Nat) (f : Core → Core) (hf : ∀ c, CoreShaped c → CoreShaped (f c)) (hM : WellShaped s) : WellShaped (modCore s vc f) := by
  refine ⟨hM.1, hM.2.1, ⟨(modAt_length _ _ _).trans hM.2.2.1.1, ?_⟩, hM.2.2.2⟩
  intro c hc
  rcases mem_modAt hc with hc | ⟨x, hx, rfl⟩
  · exact hM.2.2.1.2 c hc
  · exact hf x (hM.2.2.1.2 x hx)

/-- The core that is changed is known. -/
theorem modCoreAt_shaped (s : State) (vc : Nat) (f : Core → Core) (hf : CoreShaped (core s vc) → CoreShaped (f (core s vc))) (hM : WellShaped s) :
    WellShaped (modCore s vc f) := by
  by_cases hv : vc < s.cores.length
  · refine ⟨hM.1, hM.2.1, ⟨(modAt_length _ _ _).trans hM.2.2.1.1, ?_⟩, hM.2.2.2⟩
    intro c hc
    rcases mem_modAt_at hc with hc | ⟨x, hx, rfl⟩
    · exact hM.2.2.1.2 c hc
    · have e : core s vc = x := by
        show s.cores.getD vc Core.reset = x
        rw [List.getD_eq_getElem?_getD, hx]; rfl
      rw [e] at hf
      exact hf (hM.2.2.1.2 x (List.mem_of_getElem? hx))
  · have e : modAt f s.cores vc = s.cores := modAt_beyond f s.cores vc (by omega)
    refine ⟨hM.1, hM.2.1, ?_, hM.2.2.2⟩
    show (modAt f s.cores vc).length = 128 ∧ ∀ c ∈ modAt f s.cores vc, CoreShaped c
    rw [e]; exact hM.2.2.1

theorem modDie_shaped (s : State) (d : Nat) (f : Die → Die) (hf : ∀ d, d.tlb.length ≤ 8192 → (f d).tlb.length ≤ 8192) (hM : WellShaped s) : WellShaped (modDie s d f) := by
  refine ⟨hM.1, hM.2.1, hM.2.2.1, ⟨(modAt_length _ _ _).trans hM.2.2.2.1.1, ?_⟩, hM.2.2.2.2⟩
  intro c hc
  rcases mem_modAt hc with hc | ⟨x, hx, rfl⟩
  · exact hM.2.2.2.1.2 c hc
  · exact hf x (hM.2.2.2.1.2 x hx)

theorem modStore_shaped (s : State) (vc : Nat) (f : Storage → Storage)
    (hf : ∀ t, StoreKeeps t (f t)) (hM : WellShaped s) :
    WellShaped (modStore s vc f) :=
  modCore_shaped _ _ _ (fun c h => ⟨h.1, h.2.1, h.2.2.1, h.2.2.2.1, by show _ ∧ _ ∧ _ ∧ _; rw [(hf _).1, (hf _).2.1, (hf _).2.2.1, (hf _).2.2.2]; exact h.2.2.2.2⟩) hM

theorem modEffect_shaped (s : State) (id : Nat) (f : Effect → Effect) (hf : ∀ e, (f e).id = e.id) (hM : WellShaped s) : WellShaped (modEffect s id f) :=
  effectsMap_shaped (fun e => by dsimp only; split <;> simp [hf]) hM

theorem modPlace_shaped (s : State) (vc slot : Nat) (f : Placement → Placement) (hf : ∀ p, (f p).slot = p.slot) (hM : WellShaped s) :
    WellShaped (modPlace s vc slot f) := by
  refine modCore_shaped _ _ _ (fun c h => ⟨h.1, h.2.1, h.2.2.1, ⟨?_, ?_⟩, h.2.2.2.2⟩) hM
  · show ((modWhere _ _ _).map _).Nodup
    rw [map_modWhere hf]; exact h.2.2.2.1.1
  · intro p hp
    obtain ⟨y, hy, e | e⟩ := mem_modWhere hp
    · rw [e]; exact h.2.2.2.1.2 y hy
    · rw [e, hf]; exact h.2.2.2.1.2 y hy

theorem coreTlb_shaped (s : State) (vc : Nat) (e : TlbEnt) (hM : WellShaped s) : WellShaped (modCore s vc fun k => { k with tlb := tlbAdd 128 k.tlb e }) := by
  refine modCore_shaped _ _ _ (fun c h => ⟨?_, h.2⟩) hM
  dsimp only
  exact tlbAdd_length _ _ _

theorem dieTlb_shaped (s : State) (d : Nat) (e : TlbEnt) (hM : WellShaped s) : WellShaped (modDie s d fun x => { x with tlb := tlbAdd 8192 x.tlb e }) := by
  refine modDie_shaped _ _ _ (fun x _ => ?_) hM
  dsimp only
  exact tlbAdd_length _ _ _


/-! Ops -/

theorem modMon_shaped (s : State) (u : Nat) (f : Mon → Mon) (hM : WellShaped s) : WellShaped (modMon s u f) := hM

theorem sampleCore_shaped (s : State) (vc src v : Nat) (hM : WellShaped s) : WellShaped (sampleCore s vc src v) := hM

theorem passTicks_shaped (s : State) (n : Nat) (hM : WellShaped s) : WellShaped (passTicks s n) := hM

theorem modCtx_shaped (s : State) (n : Nat) (f : Ctx → Ctx) (hM : WellShaped s) : WellShaped (modCtx s n f) := hM

theorem modGrid_shaped (s : State) (g : Nat) (f : Grid → Grid) (hM : WellShaped s) : WellShaped (modGrid s g f) := hM

theorem flushDie_shaped (s : State) (d : Nat) (hM : WellShaped s) : WellShaped (flushDie s d) := by
  unfold flushDie
  repeat' first
    | with_reducible assumption | with_reducible apply modDie_shaped | (intro _) | exact ⟨rfl, .inl rfl, rfl, rfl, id, id⟩
    | exact ⟨rfl, rfl, rfl, rfl⟩ | rfl | split | dsimp only | assumption

theorem deliverOne_shaped (s : State) (d : Nat) (hM : WellShaped s) : WellShaped (deliverOne s d) := by
  unfold deliverOne
  repeat' first
    | with_reducible assumption | with_reducible apply modDie_shaped | with_reducible apply foldl_shaped | with_reducible apply foldlPair_shaped
    | with_reducible refine fst_shaped (by assumption) ?_ | (intro _) | exact ⟨rfl, .inl rfl, rfl, rfl, id, id⟩ | exact ⟨rfl, rfl, rfl, rfl⟩ | rfl
    | split | dsimp only | assumption

theorem noteSignals_shaped (s : State) (rs : Runs) (hM : WellShaped s) : WellShaped (noteSignals s rs) := hM

theorem placeRuns_shaped (s : State) (id : Nat) (src : Option Nat) (rs : Runs) (h : WellShaped s) : WellShaped (placeRuns s id src rs) := by
  unfold placeRuns
  apply noteSignals_shaped
  apply foldl_shaped
  · intro u d hu
    dsimp only
    split
    · exact modDie_shaped _ _ _ (fun _ h => h) (flushDie_shaped _ _ hu)
    · split <;> exact modDie_shaped _ _ _ (fun _ h => h) hu
  · exact h

theorem touchL3_shaped (s : State) (line : Nat) (dirty : BitVec 256) (z : Option Bool) (hM : WellShaped s) : WellShaped (touchL3 s line dirty z) := by
  unfold touchL3
  repeat' first
    | with_reducible assumption | (intro _) | exact ⟨rfl, .inl rfl, rfl, rfl, id, id⟩ | exact ⟨rfl, rfl, rfl, rfl⟩ | rfl | split | dsimp only
    | assumption | with_reducible refine hub_shaped ?_

theorem writeBackFrom_shaped (s : State) (line d : Nat) (hM : WellShaped s) : WellShaped (writeBackFrom s line d) := by
  unfold writeBackFrom
  repeat' first
    | with_reducible assumption | with_reducible apply modDie_shaped | with_reducible apply touchL3_shaped | (intro _)
    | exact ⟨rfl, .inl rfl, rfl, rfl, id, id⟩ | exact ⟨rfl, rfl, rfl, rfl⟩ | rfl | split | dsimp only | assumption

theorem writeBackLine_shaped (s : State) (line : Nat) (hM : WellShaped s) : WellShaped (writeBackLine s line) := by
  unfold writeBackLine
  repeat' first
    | with_reducible assumption | with_reducible apply writeBackFrom_shaped | with_reducible apply foldl_shaped
    | with_reducible apply foldlPair_shaped | with_reducible refine fst_shaped (by assumption) ?_ | (intro _)
    | exact ⟨rfl, .inl rfl, rfl, rfl, id, id⟩ | exact ⟨rfl, rfl, rfl, rfl⟩ | rfl | split | dsimp only | assumption

theorem dropLine_shaped (s : State) (line : Nat) (but : Option Nat) (hM : WellShaped s) : WellShaped (dropLine s line but) := by
  unfold dropLine
  repeat' first
    | with_reducible assumption | with_reducible apply modDie_shaped | with_reducible apply writeBackFrom_shaped | with_reducible apply foldl_shaped
    | with_reducible apply foldlPair_shaped | with_reducible refine fst_shaped (by assumption) ?_ | (intro _)
    | exact ⟨rfl, .inl rfl, rfl, rfl, id, id⟩ | exact ⟨rfl, rfl, rfl, rfl⟩ | rfl | split | dsimp only | assumption

theorem insertL2_shaped (s : State) (d : Nat) (l : L2Line) (hM : WellShaped s) : WellShaped (insertL2 s d l) := by
  unfold insertL2
  repeat' first
    | with_reducible assumption | with_reducible apply modDie_shaped | with_reducible apply writeBackFrom_shaped | (intro _)
    | exact ⟨rfl, .inl rfl, rfl, rfl, id, id⟩ | exact ⟨rfl, rfl, rfl, rfl⟩ | rfl | split | dsimp only | assumption

theorem touchLine_shaped (s : State) (d pa : Nat) (hM : WellShaped s) : WellShaped (touchLine s d pa) := by
  unfold touchLine
  repeat' first
    | with_reducible assumption | with_reducible apply modDie_shaped | with_reducible apply touchL3_shaped | with_reducible apply writeBackLine_shaped
    | with_reducible apply insertL2_shaped | (intro _) | exact ⟨rfl, .inl rfl, rfl, rfl, id, id⟩ | exact ⟨rfl, rfl, rfl, rfl⟩ | rfl | split
    | dsimp only | assumption

theorem writeL2_shaped (s : State) (d line o : Nat) (bs : List Byte) (hM : WellShaped s) : WellShaped (writeL2 s d line o bs) := by
  unfold writeL2
  repeat' first
    | with_reducible assumption | with_reducible apply modDie_shaped | with_reducible apply touchL3_shaped | with_reducible apply dropLine_shaped
    | with_reducible apply insertL2_shaped | (intro _) | exact ⟨rfl, .inl rfl, rfl, rfl, id, id⟩ | exact ⟨rfl, rfl, rfl, rfl⟩ | rfl | split
    | dsimp only | assumption

theorem writeL3_shaped (s : State) (line o : Nat) (bs : List Byte) (hM : WellShaped s) : WellShaped (writeL3 s line o bs) := by
  unfold writeL3
  repeat' first
    | with_reducible assumption | with_reducible apply touchL3_shaped | with_reducible apply dropLine_shaped | (intro _)
    | exact ⟨rfl, .inl rfl, rfl, rfl, id, id⟩ | exact ⟨rfl, rfl, rfl, rfl⟩ | rfl | split | dsimp only | assumption

theorem dirtyRuns_shaped (s : State) (d : Nat) (rs : Runs) (hM : WellShaped s) : WellShaped (dirtyRuns s d rs) := by
  unfold dirtyRuns
  repeat' first
    | with_reducible assumption | with_reducible apply writeL2_shaped | with_reducible apply foldl_shaped | with_reducible apply foldlPair_shaped
    | with_reducible refine fst_shaped (by assumption) ?_ | (intro _) | exact ⟨rfl, .inl rfl, rfl, rfl, id, id⟩ | exact ⟨rfl, rfl, rfl, rfl⟩ | rfl
    | split | dsimp only | assumption

theorem hubRuns_shaped (s : State) (rs : Runs) (hM : WellShaped s) : WellShaped (hubRuns s rs) := by
  unfold hubRuns
  repeat' first
    | with_reducible assumption | with_reducible apply writeL3_shaped | with_reducible apply foldl_shaped | with_reducible apply foldlPair_shaped
    | with_reducible refine fst_shaped (by assumption) ?_ | (intro _) | exact ⟨rfl, .inl rfl, rfl, rfl, id, id⟩ | exact ⟨rfl, rfl, rfl, rfl⟩ | rfl
    | split | dsimp only | assumption

theorem hubReads_shaped (s : State) (a n : Nat) (hM : WellShaped s) : WellShaped (hubReads s a n) := by
  unfold hubReads
  repeat' first
    | with_reducible assumption | with_reducible apply touchL3_shaped | with_reducible apply writeBackLine_shaped | with_reducible apply foldl_shaped
    | with_reducible apply foldlPair_shaped | with_reducible refine fst_shaped (by assumption) ?_ | (intro _)
    | exact ⟨rfl, .inl rfl, rfl, rfl, id, id⟩ | exact ⟨rfl, rfl, rfl, rfl⟩ | rfl | split | dsimp only | assumption

theorem hubWrite_shaped (s : State) (pa : Nat) (bs : List Byte) (hM : WellShaped s) : WellShaped (hubWrite s pa bs) := by
  unfold hubWrite
  repeat' first
    | with_reducible assumption | with_reducible apply placeRuns_shaped | with_reducible apply hubRuns_shaped | (intro _)
    | exact ⟨rfl, .inl rfl, rfl, rfl, id, id⟩ | exact ⟨rfl, rfl, rfl, rfl⟩ | rfl | split | dsimp only | assumption

theorem hubPut_shaped (s : State) (mt pa : Nat) (bs : List Byte) (hM : WellShaped s) : WellShaped (hubPut s mt pa bs) := by
  unfold hubPut
  repeat' first
    | with_reducible assumption | with_reducible apply placeRuns_shaped | with_reducible apply hubWrite_shaped | (intro _)
    | exact ⟨rfl, .inl rfl, rfl, rfl, id, id⟩ | exact ⟨rfl, rfl, rfl, rfl⟩ | rfl | split | dsimp only | assumption

theorem hubTouch_shaped (s : State) (mt pa n : Nat) (hM : WellShaped s) : WellShaped (hubTouch s mt pa n) := by
  unfold hubTouch
  repeat' first
    | with_reducible assumption | with_reducible apply hubReads_shaped | (intro _) | exact ⟨rfl, .inl rfl, rfl, rfl, id, id⟩
    | exact ⟨rfl, rfl, rfl, rfl⟩ | rfl | split | dsimp only | assumption

theorem placeFirst_shaped (s : State) (d n : Nat) (hM : WellShaped s) : WellShaped (placeFirst s d n) := by
  unfold placeFirst
  repeat' first
    | with_reducible assumption | with_reducible apply modEffect_shaped | with_reducible apply placeRuns_shaped | (intro _)
    | exact ⟨rfl, .inl rfl, rfl, rfl, id, id⟩ | exact ⟨rfl, rfl, rfl, rfl⟩ | rfl | split | dsimp only | assumption

theorem placeTouching_shaped (s : State) (a n d : Nat) (hM : WellShaped s) : WellShaped (placeTouching s a n d) := by
  unfold placeTouching
  repeat' first
    | with_reducible assumption | with_reducible apply placeFirst_shaped | with_reducible apply foldl_shaped | with_reducible apply foldlPair_shaped
    | with_reducible refine fst_shaped (by assumption) ?_ | (intro _) | exact ⟨rfl, .inl rfl, rfl, rfl, id, id⟩ | exact ⟨rfl, rfl, rfl, rfl⟩ | rfl
    | split | dsimp only | assumption

theorem walkReads_shaped (s : State) (base va : Nat) (hM : WellShaped s) : WellShaped (walkReads s base va) := by
  unfold walkReads
  repeat' first
    | with_reducible assumption | with_reducible apply hubReads_shaped | with_reducible apply foldl_shaped | with_reducible apply foldlPair_shaped
    | with_reducible refine fst_shaped (by assumption) ?_ | (intro _) | exact ⟨rfl, .inl rfl, rfl, rfl, id, id⟩ | exact ⟨rfl, rfl, rfl, rfl⟩ | rfl
    | split | dsimp only | assumption

theorem orPte_shaped (s : State) (at_ : Nat) (e m : BitVec 64) (hM : WellShaped s) : WellShaped (orPte s at_ e m) := by
  unfold orPte
  repeat' first
    | with_reducible assumption | with_reducible apply hubWrite_shaped | with_reducible apply placeTouching_shaped | with_reducible apply foldl_shaped
    | with_reducible apply foldlPair_shaped | with_reducible refine fst_shaped (by assumption) ?_ | (intro _)
    | exact ⟨rfl, .inl rfl, rfl, rfl, id, id⟩ | exact ⟨rfl, rfl, rfl, rfl⟩ | rfl | split | dsimp only | assumption

theorem setStalls_shaped (s : State) (l : List HubStall) (hM : WellShaped s) : WellShaped (setStalls s l) := hM

theorem stallAt_shaped (s : State) (m : HubStall) (hM : WellShaped s) : WellShaped (stallAt s m) := hM

theorem hubTranslate_shaped (s : State) (c : Ctx) (va : Nat) (need : HubNeed) (wr : Bool) (hM : WellShaped s) : WellShaped (hubTranslate s c va need wr).1 := by
  unfold hubTranslate
  repeat' first
    | with_reducible assumption | with_reducible apply walkReads_shaped | with_reducible apply orPte_shaped | with_reducible apply stallAt_shaped
    | (intro _) | exact ⟨rfl, .inl rfl, rfl, rfl, id, id⟩ | exact ⟨rfl, rfl, rfl, rfl⟩ | rfl | split | dsimp only | assumption
    | with_reducible refine hub_shaped ?_

theorem hubReadVa_shaped (s : State) (c : Ctx) (va n : Nat) (need : HubNeed) (hM : WellShaped s) : WellShaped (hubReadVa s c va n need).1 := by
  unfold hubReadVa
  repeat' first
    | with_reducible assumption | with_reducible apply hubTouch_shaped | with_reducible apply hubTranslate_shaped
    | with_reducible refine fst_shaped (by assumption) ?_ | (intro _) | exact ⟨rfl, .inl rfl, rfl, rfl, id, id⟩ | exact ⟨rfl, rfl, rfl, rfl⟩ | rfl
    | split | dsimp only | assumption

theorem hubWriteVa_shaped (s : State) (c : Ctx) (va : Nat) (bs : List Byte) (need : HubNeed) (hM : WellShaped s) : WellShaped (hubWriteVa s c va bs need).1 := by
  unfold hubWriteVa
  repeat' first
    | with_reducible assumption | with_reducible apply hubPut_shaped | with_reducible apply hubTranslate_shaped
    | with_reducible refine fst_shaped (by assumption) ?_ | (intro _) | exact ⟨rfl, .inl rfl, rfl, rfl, id, id⟩ | exact ⟨rfl, rfl, rfl, rfl⟩ | rfl
    | split | dsimp only | assumption

theorem putEvent_shaped (s : State) (c : Ctx) (n : Nat) (bytes : BitVec 32 → List Byte) (hM : WellShaped s) : WellShaped (putEvent s c n bytes).1 := by
  unfold putEvent
  repeat' first
    | with_reducible assumption | with_reducible apply modCtx_shaped | with_reducible apply hubReadVa_shaped | with_reducible apply hubWriteVa_shaped
    | with_reducible refine fst_shaped (by assumption) ?_ | (intro _) | exact ⟨rfl, .inl rfl, rfl, rfl, id, id⟩ | exact ⟨rfl, rfl, rfl, rfl⟩ | rfl
    | split | dsimp only | assumption

theorem writePart_shaped (s : State) (c : Ctx) (r : EvRec) (hM : WellShaped s) : WellShaped (writePart s c r).1 := by
  unfold writePart
  repeat' first
    | with_reducible assumption | with_reducible apply putEvent_shaped | with_reducible refine fst_shaped (by assumption) ?_ | (intro _)
    | exact ⟨rfl, .inl rfl, rfl, rfl, id, id⟩ | exact ⟨rfl, rfl, rfl, rfl⟩ | rfl | split | dsimp only | assumption

theorem writeParts_shaped (c : Ctx) : ∀ (l : List EvRec) (s : State), WellShaped s → WellShaped (writeParts c l s).1
  | [], _, h => h
  | r :: l, s, h => by
    have h1 := writePart_shaped s c r h
    unfold writeParts
    split
    · rename_i e; rw [e] at h1; exact writeParts_shaped c l _ h1
    · rename_i e; rw [e] at h1; exact h1

theorem holdParts_shaped (s : State) (n : Nat) (l : List EvRec) (hM : WellShaped s) : WellShaped (holdParts s n l) := hM

theorem holdEvent_shaped (s : State) (n : Nat) (r : EvRec) (hM : WellShaped s) : WellShaped (holdEvent s n r) := hM

theorem holdRequests_shaped (s : State) (l : List HubStall) (hM : WellShaped s) : WellShaped (holdRequests s l) := by
  unfold holdRequests
  repeat' first
    | with_reducible assumption | with_reducible apply holdEvent_shaped | with_reducible apply foldl_shaped | with_reducible apply foldlPair_shaped
    | with_reducible refine fst_shaped (by assumption) ?_ | (intro _) | exact ⟨rfl, .inl rfl, rfl, rfl, id, id⟩ | exact ⟨rfl, rfl, rfl, rfl⟩ | rfl
    | split | dsimp only | assumption | with_reducible refine hub_shaped ?_

theorem postEvent_shaped (s : State) (r : EvRec) (hM : WellShaped s) : WellShaped (postEvent s r) := by
  unfold postEvent
  repeat' first
    | with_reducible assumption | with_reducible apply setStalls_shaped | with_reducible apply writeParts_shaped
    | with_reducible apply holdParts_shaped | with_reducible apply holdEvent_shaped | with_reducible apply holdRequests_shaped
    | with_reducible refine fst_shaped (by assumption) ?_ | (intro _) | exact ⟨rfl, .inl rfl, rfl, rfl, id, id⟩ | exact ⟨rfl, rfl, rfl, rfl⟩ | rfl
    | split | dsimp only | assumption | with_reducible refine hub_shaped ?_

theorem requestPages_shaped (s : State) (l : List HubStall) (hM : WellShaped s) : WellShaped (requestPages s l) := by
  unfold requestPages
  repeat' first
    | with_reducible assumption | with_reducible apply postEvent_shaped | with_reducible apply foldl_shaped | with_reducible apply foldlPair_shaped
    | with_reducible refine fst_shaped (by assumption) ?_ | (intro _) | exact ⟨rfl, .inl rfl, rfl, rfl, id, id⟩ | exact ⟨rfl, rfl, rfl, rfl⟩ | rfl
    | split | dsimp only | assumption | with_reducible refine hub_shaped ?_

theorem hubAct_shaped (s : State) (f : State → State) (hf : ∀ u, WellShaped u → WellShaped (f u)) (hM : WellShaped s) : WellShaped (hubAct s f) := by
  unfold hubAct
  dsimp only
  split
  · exact requestPages_shaped _ _ hM
  · exact hf _ hM

theorem flushStalls_shaped (s : State) (hM : WellShaped s) : WellShaped (flushStalls s) := by
  unfold flushStalls
  repeat' first
    | with_reducible assumption | with_reducible apply setStalls_shaped | with_reducible apply requestPages_shaped | (intro _)
    | exact ⟨rfl, .inl rfl, rfl, rfl, id, id⟩ | exact ⟨rfl, rfl, rfl, rfl⟩ | rfl | split | dsimp only | assumption
    | with_reducible refine hub_shaped ?_

theorem startFetch_shaped (s : State) (vc ctx grid : Nat) (p : SegPtr) (hM : WellShaped s) : WellShaped (startFetch s vc ctx grid p) := by
  unfold startFetch
  repeat' first
    | with_reducible assumption | with_reducible apply fresh_shaped | with_reducible apply modCore_shaped | with_reducible apply modCtx_shaped
    | with_reducible refine fst_shaped (by assumption) ?_ | with_reducible refine snd_shaped (by assumption) ?_ | (intro _)
    | exact ⟨rfl, .inl rfl, rfl, rfl, id, id⟩ | exact ⟨rfl, rfl, rfl, rfl⟩ | rfl | split | dsimp only | assumption
    | refine CoreShaped.of_sub (by assumption) ?_ ?_ ?_ ?_ ?_ | exact Nat.le_refl _ | exact List.length_filter_le _ _ | exact List.Sublist.refl _
    | exact List.filter_sublist.map _ | exact modWhere_sublist fun _ => rfl

theorem wantConf_shaped (s : State) (uid : Nat) (hM : WellShaped s) : WellShaped (wantConf s uid) := by
  unfold wantConf
  repeat' first
    | with_reducible assumption | with_reducible apply startFetch_shaped | (intro _) | exact ⟨rfl, .inl rfl, rfl, rfl, id, id⟩
    | exact ⟨rfl, rfl, rfl, rfl⟩ | rfl | split | dsimp only | assumption

theorem bumpMon_shaped (s : State) (vc ctx : Nat) (f : PerfMon → PerfMon) (hM : WellShaped s) : WellShaped (bumpMon s vc ctx f) := hM

theorem joinEntry_shaped (s : State) (t : Thread) (idx : Nat) (hM : WellShaped s) : WellShaped (joinEntry s t idx) := by
  unfold joinEntry
  repeat' first
    | with_reducible assumption | with_reducible apply modThread_shaped | with_reducible apply modCore_shaped | with_reducible apply startFetch_shaped
    | (intro _) | exact ⟨rfl, .inl rfl, rfl, rfl, id, id⟩ | exact ⟨rfl, rfl, rfl, rfl⟩ | rfl | split | dsimp only | assumption
    | refine CoreShaped.of_sub (by assumption) ?_ ?_ ?_ ?_ ?_ | exact Nat.le_refl _ | exact List.length_filter_le _ _ | exact List.Sublist.refl _
    | exact List.filter_sublist.map _ | exact modWhere_sublist fun _ => rfl | exact clearFrame_keeps _ _
    | exact ⟨rfl, .inl rfl, rfl, rfl, by simp, by simp⟩ | exact ⟨rfl, .inr rfl, rfl, rfl, by simp, by simp⟩

theorem setWaiting_shaped (s : State) (uid : Nat) (hM : WellShaped s) : WellShaped (setWaiting s uid) := by
  unfold setWaiting
  split
  · exact hM
  · rename_i t _
    dsimp only
    split
    · exact modThread_shaped _ _ _ (fun _ => ⟨rfl, .inl rfl, rfl, rfl, id, id⟩) hM
    · split
      · apply joinEntry_shaped
        split
        · refine modCore_shaped _ _ _ (fun c h => ?_) hM
          refine h.of_sub (Nat.le_refl _) (Nat.le_refl _) ?_ (List.Sublist.refl _) ⟨rfl, rfl, rfl, rfl⟩
          exact modWhere_sublist fun _ => rfl
        · exact hM
      · split
        · exact modThread_shaped _ _ _ (fun _ => ⟨rfl, .inl rfl, rfl, rfl, id, id⟩) hM
        · rename_i i hi
          apply joinEntry_shaped
          refine modCoreAt_shaped _ _ _ (fun h => ⟨h.1, h.2.1, ⟨?_, ?_⟩, h.2.2.2⟩) hM
          · obtain ⟨h1, h2⟩ := firstBelow_some hi
            show (((core s t.vc).entries ++ [_]).map fun e : Entry => e.idx).Nodup
            rw [List.map_append, List.nodup_append]
            refine ⟨h.2.2.1.1, by simp, ?_⟩
            intro a ha b hb e
            simp only [List.map_cons, List.map_nil, List.mem_singleton] at hb
            subst hb; subst e
            obtain ⟨x, hx, e⟩ := List.mem_map.mp ha
            simp only [Bool.not_eq_true', List.any_eq_false, beq_iff_eq] at h2
            exact h2 x hx e
          · intro e he
            rcases List.mem_append.mp he with he | he
            · exact h.2.2.1.2 e he
            · simp only [List.mem_singleton] at he
              rw [he]; exact (firstBelow_some hi).1

theorem giveEntry_shaped (s : State) (vc : Nat) (hM : WellShaped s) : WellShaped (giveEntry s vc) := by
  unfold giveEntry
  repeat' first
    | with_reducible assumption | with_reducible apply setWaiting_shaped | with_reducible apply foldl_shaped | with_reducible apply foldlPair_shaped
    | with_reducible refine fst_shaped (by assumption) ?_ | (intro _) | exact ⟨rfl, .inl rfl, rfl, rfl, id, id⟩ | exact ⟨rfl, rfl, rfl, rfl⟩ | rfl
    | split | dsimp only | assumption | with_reducible apply threadsMap_shaped | with_reducible apply threadsFilter_shaped

theorem settleEntries_shaped (s : State) (vc : Nat) (hM : WellShaped s) : WellShaped (settleEntries s vc) := by
  unfold settleEntries
  repeat' first
    | with_reducible assumption | with_reducible apply modCore_shaped | with_reducible apply giveEntry_shaped | with_reducible apply foldl_shaped
    | with_reducible apply foldlPair_shaped | with_reducible refine fst_shaped (by assumption) ?_ | (intro _)
    | exact ⟨rfl, .inl rfl, rfl, rfl, id, id⟩ | exact ⟨rfl, rfl, rfl, rfl⟩ | rfl | split | dsimp only | assumption
    | refine CoreShaped.of_sub (by assumption) ?_ ?_ ?_ ?_ ?_ | exact Nat.le_refl _ | exact List.length_filter_le _ _ | exact List.Sublist.refl _
    | exact List.filter_sublist.map _ | exact modWhere_sublist fun _ => rfl

theorem abortInst_shaped (s : State) (uid : Nat) (hM : WellShaped s) : WellShaped (abortInst s uid) := by
  unfold abortInst
  repeat' first
    | with_reducible assumption | with_reducible apply modThread_shaped | with_reducible apply bumpMon_shaped | (intro _)
    | exact ⟨rfl, .inl rfl, rfl, rfl, id, id⟩ | exact ⟨rfl, rfl, rfl, rfl⟩ | rfl | split | dsimp only | assumption | exact clearFrame_keeps _ _
    | exact ⟨rfl, .inl rfl, rfl, rfl, by simp, by simp⟩ | exact ⟨rfl, .inr rfl, rfl, rfl, by simp, by simp⟩

theorem takeFault_shaped (s : State) (uid : Nat) (f : AccFault) (hM : WellShaped s) : WellShaped (takeFault s uid f) := by
  unfold takeFault
  repeat' first
    | with_reducible assumption | with_reducible apply modThread_shaped | with_reducible apply postEvent_shaped
    | with_reducible apply settleEntries_shaped | with_reducible apply abortInst_shaped | (intro _) | exact ⟨rfl, .inl rfl, rfl, rfl, id, id⟩
    | exact ⟨rfl, rfl, rfl, rfl⟩ | rfl | split | dsimp only | assumption | exact clearFrame_keeps _ _
    | exact ⟨rfl, .inl rfl, rfl, rfl, by simp, by simp⟩ | exact ⟨rfl, .inr rfl, rfl, rfl, by simp, by simp⟩

theorem retrySegment_shaped (s : State) (t : Thread) (hM : WellShaped s) : WellShaped (retrySegment s t) := by
  unfold retrySegment
  repeat' first
    | with_reducible assumption | with_reducible apply modCore_shaped | (intro _) | exact ⟨rfl, .inl rfl, rfl, rfl, id, id⟩
    | exact ⟨rfl, rfl, rfl, rfl⟩ | rfl | split | dsimp only | assumption | refine CoreShaped.of_sub (by assumption) ?_ ?_ ?_ ?_ ?_
    | exact Nat.le_refl _ | exact List.length_filter_le _ _ | exact List.Sublist.refl _ | exact List.filter_sublist.map _
    | exact modWhere_sublist fun _ => rfl

theorem resumeThread_shaped (s : State) (uid : Nat) (hM : WellShaped s) : WellShaped (resumeThread s uid) := by
  unfold resumeThread
  repeat' first
    | with_reducible assumption | with_reducible apply modThread_shaped | with_reducible apply setWaiting_shaped
    | with_reducible apply retrySegment_shaped | (intro _) | exact ⟨rfl, .inl rfl, rfl, rfl, id, id⟩ | exact ⟨rfl, rfl, rfl, rfl⟩ | rfl | split
    | dsimp only | assumption | exact clearFrame_keeps _ _ | exact ⟨rfl, .inl rfl, rfl, rfl, by simp, by simp⟩
    | exact ⟨rfl, .inr rfl, rfl, rfl, by simp, by simp⟩

theorem sweepEffects_shaped (s : State) (hM : WellShaped s) : WellShaped (sweepEffects s) := effects_shaped (List.filter_sublist.map _) hM

/-! Access -/

theorem addMiss_shaped (s : State) (t : Thread) (cidf va : Nat) (need : Need) (hM : WellShaped s) : WellShaped (addMiss s t cidf va need) := by
  unfold addMiss
  repeat' first
    | with_reducible assumption | (intro _) | exact ⟨rfl, .inl rfl, rfl, rfl, id, id⟩ | exact ⟨rfl, rfl, rfl, rfl⟩ | rfl | split | dsimp only
    | assumption | with_reducible refine hub_shaped ?_

theorem readGlobal_shaped (s : State) (t : Thread) (pa mt n va : Nat) (hM : WellShaped s) : WellShaped (readGlobal s t pa mt n va).1 := by
  unfold readGlobal
  repeat' first
    | with_reducible assumption | with_reducible apply modCore_shaped | with_reducible apply touchLine_shaped | (intro _)
    | exact ⟨rfl, .inl rfl, rfl, rfl, id, id⟩ | exact ⟨rfl, rfl, rfl, rfl⟩ | rfl | split | dsimp only | assumption
    | refine CoreShaped.of_sub (by assumption) ?_ ?_ ?_ ?_ ?_ | exact Nat.le_refl _ | exact List.length_filter_le _ _ | exact List.Sublist.refl _
    | exact List.filter_sublist.map _ | exact modWhere_sublist fun _ => rfl | with_reducible refine hub_shaped ?_

theorem invalidateL1_shaped (s : State) (vc ctx : Nat) (hM : WellShaped s) : WellShaped (invalidateL1 s vc ctx) := by
  unfold invalidateL1
  repeat' first
    | with_reducible assumption | with_reducible apply modCore_shaped | (intro _) | exact ⟨rfl, .inl rfl, rfl, rfl, id, id⟩
    | exact ⟨rfl, rfl, rfl, rfl⟩ | rfl | split | dsimp only | assumption | refine CoreShaped.of_sub (by assumption) ?_ ?_ ?_ ?_ ?_
    | exact Nat.le_refl _ | exact List.length_filter_le _ _ | exact List.Sublist.refl _ | exact List.filter_sublist.map _
    | exact modWhere_sublist fun _ => rfl

theorem acquireOn_shaped (s : State) (vc ctx scope : Nat) (hM : WellShaped s) : WellShaped (acquireOn s vc ctx scope) := by
  unfold acquireOn
  repeat' first
    | with_reducible assumption | with_reducible apply flushDie_shaped | with_reducible apply invalidateL1_shaped | (intro _)
    | exact ⟨rfl, .inl rfl, rfl, rfl, id, id⟩ | exact ⟨rfl, rfl, rfl, rfl⟩ | rfl | split | dsimp only | assumption

theorem spadWrite_shaped (s : State) (vc base off : Nat) (bs : List Byte) (hM : WellShaped s) : WellShaped (spadWrite s vc base off bs) := by
  unfold spadWrite
  repeat' first
    | with_reducible assumption | with_reducible apply modStore_shaped | (intro _) | exact ⟨rfl, .inl rfl, rfl, rfl, id, id⟩
    | exact ⟨rfl, rfl, rfl, rfl⟩ | rfl | split | dsimp only | assumption | exact ⟨by simp, by simp, by simp, by simp⟩

theorem noteLate_shaped (s : State) (vc uid : Nat) (hM : WellShaped s) : WellShaped (noteLate s vc uid) := by
  unfold noteLate
  repeat' first
    | with_reducible assumption | with_reducible apply modStore_shaped | (intro _) | exact ⟨rfl, .inl rfl, rfl, rfl, id, id⟩
    | exact ⟨rfl, rfl, rfl, rfl⟩ | rfl | split | dsimp only | assumption | exact ⟨by simp, by simp, by simp, by simp⟩

theorem clearLine_shaped (s : State) (vc line : Nat) (hM : WellShaped s) : WellShaped (clearLine s vc line) := by
  unfold clearLine
  repeat' first
    | with_reducible assumption | with_reducible apply modStore_shaped | (intro _) | exact ⟨rfl, .inl rfl, rfl, rfl, id, id⟩
    | exact ⟨rfl, rfl, rfl, rfl⟩ | rfl | split | dsimp only | assumption | exact ⟨by simp, by simp, by simp, by simp⟩

theorem restoreLine_shaped (s : State) (vc line : Nat) (hM : WellShaped s) : WellShaped (restoreLine s vc line) := by
  unfold restoreLine
  repeat' first
    | with_reducible assumption | with_reducible apply modStore_shaped | (intro _) | exact ⟨rfl, .inl rfl, rfl, rfl, id, id⟩
    | exact ⟨rfl, rfl, rfl, rfl⟩ | rfl | split | dsimp only | assumption | exact ⟨by simp, by simp, by simp, by simp⟩

/-! Fire -/

theorem emit_shaped (s : State) (x : Site) (tok : Tok) (conds : Nat) (hM : WellShaped s) : WellShaped (emit s x tok conds) := by
  unfold emit
  repeat' first
    | with_reducible assumption | with_reducible apply modThread_shaped | (intro _) | exact ⟨rfl, .inl rfl, rfl, rfl, id, id⟩
    | exact ⟨rfl, rfl, rfl, rfl⟩ | rfl | split | dsimp only | assumption | exact clearFrame_keeps _ _
    | exact ⟨rfl, .inl rfl, rfl, rfl, by simp, by simp⟩ | exact ⟨rfl, .inr rfl, rfl, rfl, by simp, by simp⟩

theorem fireWith_shaped (i : Instr) (s : State) (f : Site → Shape → Tok × Nat) (hM : WellShaped s) : OutShaped (fireWith i s f) := by
  unfold fireWith
  repeat' first
    | with_reducible assumption | with_reducible apply OutShaped.of_next | with_reducible apply emit_shaped | (intro _)
    | exact ⟨rfl, .inl rfl, rfl, rfl, id, id⟩ | exact ⟨rfl, rfl, rfl, rfl⟩ | rfl | split | dsimp only | assumption

theorem fireInt_shaped (i : Instr) (s : State) (f : Nat → Nat → Nat → Nat) (hM : WellShaped s) : OutShaped (fireInt i s f) := by
  unfold fireInt
  repeat' first
    | with_reducible assumption | with_reducible apply OutShaped.of_next | with_reducible apply fireWith_shaped | (intro _)
    | exact ⟨rfl, .inl rfl, rfl, rfl, id, id⟩ | exact ⟨rfl, rfl, rfl, rfl⟩ | rfl | split | dsimp only | assumption

theorem fireFloat_shaped (i : Instr) (s : State) (f : Nat → Nat → Nat → FRes) (hM : WellShaped s) : OutShaped (fireFloat i s f) := by
  unfold fireFloat
  repeat' first
    | with_reducible assumption | with_reducible apply OutShaped.of_next | with_reducible apply fireWith_shaped | (intro _)
    | exact ⟨rfl, .inl rfl, rfl, rfl, id, id⟩ | exact ⟨rfl, rfl, rfl, rfl⟩ | rfl | split | dsimp only | assumption

theorem fireSink_shaped (i : Instr) (s : State) (hM : WellShaped s) : OutShaped (fireSink i s) := by
  unfold fireSink
  repeat' first
    | with_reducible assumption | with_reducible apply OutShaped.of_next | with_reducible apply emit_shaped | (intro _)
    | exact ⟨rfl, .inl rfl, rfl, rfl, id, id⟩ | exact ⟨rfl, rfl, rfl, rfl⟩ | rfl | split | dsimp only | assumption

theorem fireNothing_shaped (v0 : Instr) (s : State) (hM : WellShaped s) : OutShaped (fireNothing v0 s) := by
  unfold fireNothing
  repeat' first
    | with_reducible assumption | with_reducible apply OutShaped.of_next | (intro _) | exact ⟨rfl, .inl rfl, rfl, rfl, id, id⟩
    | exact ⟨rfl, rfl, rfl, rfl⟩ | rfl | split | dsimp only | assumption

/-! Move -/

theorem statusAcquire_shaped (s : State) (t : Thread) (ns : List Nat) (hM : WellShaped s) : WellShaped (statusAcquire s t ns) := by
  unfold statusAcquire
  repeat' first
    | with_reducible assumption | with_reducible apply invalidateL1_shaped | (intro _) | exact ⟨rfl, .inl rfl, rfl, rfl, id, id⟩
    | exact ⟨rfl, rfl, rfl, rfl⟩ | rfl | split | dsimp only | assumption

theorem landSlots_shaped (s : State) (uid n : Nat) (wide : Bool) (v : Nat) (hM : WellShaped s) : WellShaped (landSlots s uid n wide v) := by
  unfold landSlots
  repeat' first
    | with_reducible assumption | with_reducible apply modThread_shaped | with_reducible apply wantConf_shaped | (intro _)
    | exact ⟨rfl, .inl rfl, rfl, rfl, id, id⟩ | exact ⟨rfl, rfl, rfl, rfl⟩ | rfl | split | dsimp only | assumption | exact clearFrame_keeps _ _
    | exact ⟨rfl, .inl rfl, rfl, rfl, by simp, by simp⟩ | exact ⟨rfl, .inr rfl, rfl, rfl, by simp, by simp⟩

/-! Memory -/

theorem fireLoad_shaped {i : Instr} {s : State} {f : Site → Shape → State × LoadAct}
    (hf : ∀ x sh, WellShaped (f x sh).1) (h : WellShaped s) : OutShaped (fireLoad i s f) := by
  unfold fireLoad
  split
  · split
    · split
      · exact .of_next (emit_shaped _ _ _ _ h)
      · dsimp only
        split
        · exact .of_next (emit_shaped _ _ _ _ (hf _ _))
        · exact .of_next (modThread_shaped _ _ _ (fun _ => ⟨rfl, .inl rfl, rfl, rfl, id, id⟩) (hf _ _))
    · exact .of_next h
  · exact .of_next h

theorem globalLoad_shaped (s : State) (x : Site) (buf idx w : Nat) (hM : WellShaped s) : WellShaped (globalLoad s x buf idx w).1 := by
  unfold globalLoad
  repeat' first
    | with_reducible assumption | with_reducible apply addMiss_shaped | (intro _) | exact ⟨rfl, .inl rfl, rfl, rfl, id, id⟩
    | exact ⟨rfl, rfl, rfl, rfl⟩ | rfl | split | dsimp only | assumption

theorem readChannelEnt_shaped (s : State) (ctx ch : Nat) (hM : WellShaped s) : WellShaped (readChannelEnt s ctx ch).1 := by
  unfold readChannelEnt
  repeat' first
    | with_reducible assumption | with_reducible apply hubReadVa_shaped | with_reducible refine fst_shaped (by assumption) ?_ | (intro _)
    | exact ⟨rfl, .inl rfl, rfl, rfl, id, id⟩ | exact ⟨rfl, rfl, rfl, rfl⟩ | rfl | split | dsimp only | assumption

theorem openChannel_shaped (s : State) (ctx ch : Nat) (hM : WellShaped s) : WellShaped (openChannel s ctx ch).1 := by
  unfold openChannel
  repeat' first
    | with_reducible assumption | with_reducible apply hubReads_shaped | with_reducible apply readChannelEnt_shaped
    | with_reducible refine fst_shaped (by assumption) ?_ | (intro _) | exact ⟨rfl, .inl rfl, rfl, rfl, id, id⟩ | exact ⟨rfl, rfl, rfl, rfl⟩ | rfl
    | split | dsimp only | assumption

theorem bumpFlow_shaped (s : State) (ctx ch : Nat) (hM : WellShaped s) : WellShaped (bumpFlow s ctx ch) := hM

/-! Group -/

theorem watchSignal_shaped (s : State) (ctx n : Nat) (hM : WellShaped s) : WellShaped (watchSignal s ctx n).1 := by
  unfold watchSignal
  repeat' first
    | with_reducible assumption | with_reducible apply modCtx_shaped | with_reducible apply hubTranslate_shaped
    | with_reducible apply hubReadVa_shaped | with_reducible apply postEvent_shaped | with_reducible refine fst_shaped (by assumption) ?_ | (intro _)
    | exact ⟨rfl, .inl rfl, rfl, rfl, id, id⟩ | exact ⟨rfl, rfl, rfl, rfl⟩ | rfl | split | dsimp only | assumption

theorem signalValue_shaped (s : State) (ctx n : Nat) (hM : WellShaped s) : WellShaped (signalValue s ctx n).1 := by
  unfold signalValue
  repeat' first
    | with_reducible assumption | with_reducible apply watchSignal_shaped | with_reducible refine fst_shaped (by assumption) ?_ | (intro _)
    | exact ⟨rfl, .inl rfl, rfl, rfl, id, id⟩ | exact ⟨rfl, rfl, rfl, rfl⟩ | rfl | split | dsimp only | assumption

theorem endWaits_shaped (s : State) (uid : Nat) (p : Wait → Bool) (hM : WellShaped s) : WellShaped (endWaits s uid p) := by
  unfold endWaits
  repeat' first
    | with_reducible assumption | with_reducible apply modThread_shaped | (intro _) | exact ⟨rfl, .inl rfl, rfl, rfl, id, id⟩
    | exact ⟨rfl, rfl, rfl, rfl⟩ | rfl | split | dsimp only | assumption | exact clearFrame_keeps _ _
    | exact ⟨rfl, .inl rfl, rfl, rfl, by simp, by simp⟩ | exact ⟨rfl, .inr rfl, rfl, rfl, by simp, by simp⟩

theorem groupAcquire_shaped (s : State) (gr : Group) (scope : Nat) (hM : WellShaped s) : WellShaped (groupAcquire s gr scope) := by
  unfold groupAcquire
  repeat' first
    | with_reducible assumption | with_reducible apply acquireOn_shaped | (intro _) | exact ⟨rfl, .inl rfl, rfl, rfl, id, id⟩
    | exact ⟨rfl, rfl, rfl, rfl⟩ | rfl | split | dsimp only | assumption

theorem settleBar_shaped (s : State) (g gi n : Nat) (hM : WellShaped s) : WellShaped (settleBar s g gi n) := by
  unfold settleBar
  split
  · exact hM
  · dsimp only
    split
    · exact hM
    · exact modGroup_shaped _ _ _ _ (fun _ => setAt_length _ _ _) (groupAcquire_shaped _ _ _ (foldl_shaped (fun s u h => endWaits_shaped _ _ _ h) _ _ hM))

theorem landColl_shaped (s : State) (i : Instr) (co : Coll) (c : Contrib) (hM : WellShaped s) : WellShaped (landColl s i co c) := by
  refine modThread_shaped _ _ _ (fun t => ?_) hM
  split
  · exact .refl t
  · rename_i w _
    refine (foldl_keeps (fun t x => ?_) w.waits t).trans ⟨rfl, .inl rfl, rfl, rfl, id, id⟩
    split
    · split
      · exact wrTok_keeps _ _ _ _
      · exact .refl _
    · exact .refl _

theorem settleColl_shaped (s : State) (g gi : Nat) (co : Coll) (hM : WellShaped s) : WellShaped (settleColl s g gi co) := by
  unfold settleColl
  repeat' first
    | with_reducible assumption | with_reducible apply modGroup_shaped | with_reducible apply groupAcquire_shaped
    | with_reducible apply landColl_shaped | with_reducible apply foldl_shaped | with_reducible apply foldlPair_shaped
    | with_reducible refine fst_shaped (by assumption) ?_ | (intro _) | exact ⟨rfl, .inl rfl, rfl, rfl, id, id⟩ | exact ⟨rfl, rfl, rfl, rfl⟩ | rfl
    | split | dsimp only | assumption | exact modAt_length _ _ _

theorem passGwait_shaped (s : State) (gr : Group) (hM : WellShaped s) : WellShaped (passGwait s gr) := by
  unfold passGwait
  repeat' first
    | with_reducible assumption | with_reducible apply modGroup_shaped | with_reducible apply endWaits_shaped
    | with_reducible apply groupAcquire_shaped | with_reducible apply foldl_shaped | with_reducible apply foldlPair_shaped
    | with_reducible refine fst_shaped (by assumption) ?_ | (intro _) | exact ⟨rfl, .inl rfl, rfl, rfl, id, id⟩ | exact ⟨rfl, rfl, rfl, rfl⟩ | rfl
    | split | dsimp only | assumption | exact modAt_length _ _ _

theorem settleGwait_shaped (s : State) (g gi : Nat) (hM : WellShaped s) : WellShaped (settleGwait s g gi) := by
  unfold settleGwait
  repeat' first
    | with_reducible assumption | with_reducible apply signalValue_shaped | with_reducible apply passGwait_shaped
    | with_reducible refine fst_shaped (by assumption) ?_ | (intro _) | exact ⟨rfl, .inl rfl, rfl, rfl, id, id⟩ | exact ⟨rfl, rfl, rfl, rfl⟩ | rfl
    | split | dsimp only | assumption

theorem wakeGroup_shaped (s : State) (g gi : Nat) (hM : WellShaped s) : WellShaped (wakeGroup s g gi) := by
  unfold wakeGroup
  repeat' first
    | with_reducible assumption | with_reducible apply modGroup_shaped | (intro _) | exact ⟨rfl, .inl rfl, rfl, rfl, id, id⟩
    | exact ⟨rfl, rfl, rfl, rfl⟩ | rfl | split | dsimp only | assumption | exact modAt_length _ _ _

theorem queueResult_shaped (s : State) (t : Thread) (seq ord slot : Nat) (v : BitVec 64) (hM : WellShaped s) :
    WellShaped (queueResult s t seq ord slot v).1 := newEffect_shaped rfl hM

theorem passSigWait_shaped (s : State) (t : Thread) (x : Wait) (ord slot : Nat) (v : BitVec 64) (hM : WellShaped s) : WellShaped (passSigWait s t x ord slot v) := by
  unfold passSigWait
  repeat' first
    | with_reducible assumption | with_reducible apply modThread_shaped | with_reducible apply landSlots_shaped | with_reducible apply endWaits_shaped
    | with_reducible apply queueResult_shaped | (intro _) | exact ⟨rfl, .inl rfl, rfl, rfl, id, id⟩ | exact ⟨rfl, rfl, rfl, rfl⟩ | rfl | split
    | dsimp only | assumption | exact clearFrame_keeps _ _ | exact ⟨rfl, .inl rfl, rfl, rfl, by simp, by simp⟩
    | exact ⟨rfl, .inr rfl, rfl, rfl, by simp, by simp⟩

theorem testSigWait_shaped (s : State) (t : Thread) (n : Nat) (v : BitVec 64) (hM : WellShaped s) : WellShaped (testSigWait s t n v) := by
  unfold testSigWait
  repeat' first
    | with_reducible assumption | with_reducible apply acquireOn_shaped | with_reducible apply endWaits_shaped | with_reducible apply wakeGroup_shaped
    | with_reducible apply passSigWait_shaped | with_reducible apply foldl_shaped | with_reducible apply foldlPair_shaped
    | with_reducible refine fst_shaped (by assumption) ?_ | (intro _) | exact ⟨rfl, .inl rfl, rfl, rfl, id, id⟩ | exact ⟨rfl, rfl, rfl, rfl⟩ | rfl
    | split | dsimp only | assumption

theorem settleGroup_shaped (s : State) (g gi : Nat) (hM : WellShaped s) : WellShaped (settleGroup s g gi) := by
  unfold settleGroup
  repeat' first
    | with_reducible assumption | with_reducible apply settleBar_shaped | with_reducible apply settleColl_shaped
    | with_reducible apply settleGwait_shaped | with_reducible apply foldl_shaped | with_reducible apply foldlPair_shaped
    | with_reducible refine fst_shaped (by assumption) ?_ | (intro _) | exact ⟨rfl, .inl rfl, rfl, rfl, id, id⟩ | exact ⟨rfl, rfl, rfl, rfl⟩ | rfl
    | split | dsimp only | assumption | exact List.length_map _

theorem settleGroups_shaped (s : State) (hM : WellShaped s) : WellShaped (settleGroups s) := by
  unfold settleGroups
  repeat' first
    | with_reducible assumption | with_reducible apply settleGroup_shaped | with_reducible apply foldl_shaped | with_reducible apply foldlPair_shaped
    | with_reducible refine fst_shaped (by assumption) ?_ | (intro _) | exact ⟨rfl, .inl rfl, rfl, rfl, id, id⟩ | exact ⟨rfl, rfl, rfl, rfl⟩ | rfl
    | split | dsimp only | assumption | exact List.length_map _

theorem freeFrames_shaped (s : State) (hM : WellShaped s) : WellShaped (freeFrames s) := by
  refine threads_shaped ((hM.1.sublist List.filter_sublist).map fun t => ?_) hM
  split
  · exact ⟨rfl, .inr rfl, rfl, rfl, id, id⟩
  · exact .refl t

theorem leaveThread_shaped (s : State) (uid : Nat) (hM : WellShaped s) : WellShaped (leaveThread s uid) := by
  unfold leaveThread
  repeat' first
    | with_reducible assumption | with_reducible apply modGroup_shaped | with_reducible apply modThread_shaped
    | with_reducible apply settleEntries_shaped | with_reducible apply settleGroup_shaped | with_reducible apply freeFrames_shaped | (intro _)
    | exact ⟨rfl, .inl rfl, rfl, rfl, id, id⟩ | exact ⟨rfl, rfl, rfl, rfl⟩ | rfl | split | dsimp only | assumption | exact clearFrame_keeps _ _
    | exact ⟨rfl, .inl rfl, rfl, rfl, by simp, by simp⟩ | exact ⟨rfl, .inr rfl, rfl, rfl, by simp, by simp⟩ | exact modAt_length _ _ _
    | exact List.length_map _

theorem testNow_shaped (s : State) (uid : Nat) (ws : List Wait) (hM : WellShaped s) : WellShaped (testNow s uid ws) := by
  unfold testNow
  repeat' first
    | with_reducible assumption | with_reducible apply signalValue_shaped | with_reducible apply testSigWait_shaped
    | with_reducible apply foldl_shaped | with_reducible apply foldlPair_shaped | with_reducible refine fst_shaped (by assumption) ?_ | (intro _)
    | exact ⟨rfl, .inl rfl, rfl, rfl, id, id⟩ | exact ⟨rfl, rfl, rfl, rfl⟩ | rfl | split | dsimp only | assumption

/-! Effects -/

theorem updateL1_shaped (s : State) (vc ctx : Nat) (rs : Runs) (hM : WellShaped s) : WellShaped (updateL1 s vc ctx rs) := by
  unfold updateL1
  repeat' first
    | with_reducible assumption | with_reducible apply modCore_shaped | (intro _) | exact ⟨rfl, .inl rfl, rfl, rfl, id, id⟩
    | exact ⟨rfl, rfl, rfl, rfl⟩ | rfl | split | dsimp only | assumption | refine CoreShaped.of_sub (by assumption) ?_ ?_ ?_ ?_ ?_
    | exact Nat.le_refl _ | exact List.length_filter_le _ _ | exact List.Sublist.refl _ | exact List.filter_sublist.map _
    | exact modWhere_sublist fun _ => rfl

theorem updateOwn_shaped (s : State) (e : Effect) (rs : Runs) (hM : WellShaped s) : WellShaped (updateOwn s e rs) := by
  unfold updateOwn
  repeat' first
    | with_reducible assumption | with_reducible apply updateL1_shaped | with_reducible apply foldl_shaped | with_reducible apply foldlPair_shaped
    | with_reducible refine fst_shaped (by assumption) ?_ | (intro _) | exact ⟨rfl, .inl rfl, rfl, rfl, id, id⟩ | exact ⟨rfl, rfl, rfl, rfl⟩ | rfl
    | split | dsimp only | assumption

theorem acquireOwn_shaped (s : State) (e : Effect) (scope : Nat) (hM : WellShaped s) : WellShaped (acquireOwn s e scope) := by
  unfold acquireOwn
  repeat' first
    | with_reducible assumption | with_reducible apply acquireOn_shaped | with_reducible apply foldl_shaped | with_reducible apply foldlPair_shaped
    | with_reducible refine fst_shaped (by assumption) ?_ | (intro _) | exact ⟨rfl, .inl rfl, rfl, rfl, id, id⟩ | exact ⟨rfl, rfl, rfl, rfl⟩ | rfl
    | split | dsimp only | assumption

theorem reportPoisoned_shaped (s : State) (e : Effect) (hM : WellShaped s) : WellShaped (reportPoisoned s e) := by
  unfold reportPoisoned
  repeat' first
    | with_reducible assumption | with_reducible apply postEvent_shaped | (intro _) | exact ⟨rfl, .inl rfl, rfl, rfl, id, id⟩
    | exact ⟨rfl, rfl, rfl, rfl⟩ | rfl | split | dsimp only | assumption | with_reducible refine hub_shaped ?_

theorem performAtomic_shaped (s : State) (e : Effect) (src : Option Nat) (hM : WellShaped s) : WellShaped (performAtomic s e src) := by
  unfold performAtomic
  repeat' first
    | with_reducible assumption | with_reducible apply modEffect_shaped | with_reducible apply placeRuns_shaped
    | with_reducible apply dirtyRuns_shaped | with_reducible apply hubRuns_shaped | with_reducible apply updateOwn_shaped
    | with_reducible apply acquireOwn_shaped | with_reducible apply reportPoisoned_shaped | (intro _) | exact ⟨rfl, .inl rfl, rfl, rfl, id, id⟩
    | exact ⟨rfl, rfl, rfl, rfl⟩ | rfl | split | dsimp only | assumption

theorem bankAtomic_shaped (s : State) (vc p op ty w : Nat) (b c : BitVec 64) (hM : WellShaped s) : WellShaped (bankAtomic s vc p op ty w b c).1 := by
  unfold bankAtomic
  repeat' first
    | with_reducible assumption | with_reducible apply spadWrite_shaped | (intro _) | exact ⟨rfl, .inl rfl, rfl, rfl, id, id⟩
    | exact ⟨rfl, rfl, rfl, rfl⟩ | rfl | split | dsimp only | assumption

theorem actAtBank_shaped (s : State) (e : Effect) (hM : WellShaped s) : WellShaped (actAtBank s e) := by
  unfold actAtBank
  repeat' first
    | with_reducible assumption | with_reducible apply modEffect_shaped | with_reducible apply spadWrite_shaped | with_reducible apply noteLate_shaped
    | with_reducible apply acquireOwn_shaped | with_reducible apply bankAtomic_shaped | with_reducible refine fst_shaped (by assumption) ?_
    | (intro _) | exact ⟨rfl, .inl rfl, rfl, rfl, id, id⟩ | exact ⟨rfl, rfl, rfl, rfl⟩ | rfl | split | dsimp only | assumption

theorem settleOne_shaped (s : State) (e : Effect) (hM : WellShaped s) : WellShaped (settleOne s e) := by
  unfold settleOne
  repeat' first
    | with_reducible assumption | with_reducible apply modEffect_shaped | with_reducible apply modCtx_shaped
    | with_reducible apply writeBackLine_shaped | with_reducible apply hubTouch_shaped | with_reducible apply postEvent_shaped
    | with_reducible apply acquireOwn_shaped | with_reducible apply actAtBank_shaped | (intro _) | exact ⟨rfl, .inl rfl, rfl, rfl, id, id⟩
    | exact ⟨rfl, rfl, rfl, rfl⟩ | rfl | split | dsimp only | assumption | with_reducible refine hub_shaped ?_
    | with_reducible apply effectsMap_shaped

theorem noteSent_shaped (s : State) (e : Effect) (hM : WellShaped s) : WellShaped (noteSent s e) := by
  unfold noteSent
  repeat' first
    | with_reducible assumption | with_reducible apply modEffect_shaped | (intro _) | exact ⟨rfl, .inl rfl, rfl, rfl, id, id⟩
    | exact ⟨rfl, rfl, rfl, rfl⟩ | rfl | split | dsimp only | assumption

theorem settleEffects_shaped (s : State) (hM : WellShaped s) : WellShaped (settleEffects s) := by
  unfold settleEffects
  repeat' first
    | with_reducible assumption | with_reducible apply sweepEffects_shaped | with_reducible apply settleGroups_shaped
    | with_reducible apply freeFrames_shaped | with_reducible apply settleOne_shaped | with_reducible apply noteSent_shaped
    | with_reducible apply foldl_shaped | with_reducible apply foldlPair_shaped | with_reducible refine fst_shaped (by assumption) ?_ | (intro _)
    | exact ⟨rfl, .inl rfl, rfl, rfl, id, id⟩ | exact ⟨rfl, rfl, rfl, rfl⟩ | rfl | split | dsimp only | assumption
    | with_reducible apply effectsMap_shaped

theorem showOnDie_shaped (s : State) (e : Effect) (hM : WellShaped s) : WellShaped (showOnDie s e) := by
  unfold showOnDie
  repeat' first
    | with_reducible assumption | with_reducible apply modDie_shaped | with_reducible apply modEffect_shaped | with_reducible apply dirtyRuns_shaped
    | with_reducible apply updateOwn_shaped | with_reducible apply foldl_shaped | with_reducible apply foldlPair_shaped
    | with_reducible refine fst_shaped (by assumption) ?_ | (intro _) | exact ⟨rfl, .inl rfl, rfl, rfl, id, id⟩ | exact ⟨rfl, rfl, rfl, rfl⟩ | rfl
    | split | dsimp only | assumption | with_reducible refine hub_shaped ?_

theorem performInL2_shaped (s : State) (e : Effect) (hM : WellShaped s) : WellShaped (performInL2 s e) := by
  unfold performInL2
  repeat' first
    | with_reducible assumption | with_reducible apply flushDie_shaped | with_reducible apply performAtomic_shaped
    | with_reducible apply settleEffects_shaped | with_reducible apply showOnDie_shaped | (intro _) | exact ⟨rfl, .inl rfl, rfl, rfl, id, id⟩
    | exact ⟨rfl, rfl, rfl, rfl⟩ | rfl | split | dsimp only | assumption

theorem placeEffect_shaped (s : State) (e : Effect) (hM : WellShaped s) : WellShaped (placeEffect s e) := by
  unfold placeEffect
  repeat' first
    | with_reducible assumption | with_reducible apply modEffect_shaped | with_reducible apply placeRuns_shaped | with_reducible apply hubRuns_shaped
    | with_reducible apply updateOwn_shaped | with_reducible apply performAtomic_shaped | with_reducible apply settleEffects_shaped | (intro _)
    | exact ⟨rfl, .inl rfl, rfl, rfl, id, id⟩ | exact ⟨rfl, rfl, rfl, rfl⟩ | rfl | split | dsimp only | assumption

theorem parkAckLoss_shaped (s : State) (t : Thread) (r : EvRec) (hM : WellShaped s) : WellShaped (parkAckLoss s t r) := by
  unfold parkAckLoss
  repeat' first
    | with_reducible assumption | with_reducible apply modThread_shaped | with_reducible apply settleEntries_shaped
    | with_reducible apply abortInst_shaped | (intro _) | exact ⟨rfl, .inl rfl, rfl, rfl, id, id⟩ | exact ⟨rfl, rfl, rfl, rfl⟩ | rfl | split
    | dsimp only | assumption | exact clearFrame_keeps _ _ | exact ⟨rfl, .inl rfl, rfl, rfl, by simp, by simp⟩
    | exact ⟨rfl, .inr rfl, rfl, rfl, by simp, by simp⟩

theorem abortAtCommit_shaped (s : State) (uid : Nat) (r : EvRec) (hM : WellShaped s) : WellShaped (abortAtCommit s uid r) := by
  unfold abortAtCommit
  repeat' first
    | with_reducible assumption | with_reducible apply parkAckLoss_shaped | (intro _) | exact ⟨rfl, .inl rfl, rfl, rfl, id, id⟩
    | exact ⟨rfl, rfl, rfl, rfl⟩ | rfl | split | dsimp only | assumption

theorem resolveAckLoss_shaped (s : State) (e : Effect) (readable : Bool) (hM : WellShaped s) : WellShaped (resolveAckLoss s e readable) := by
  unfold resolveAckLoss
  repeat' first
    | with_reducible assumption | with_reducible apply modThread_shaped | with_reducible apply modEffect_shaped
    | with_reducible apply postEvent_shaped | with_reducible apply settleEffects_shaped | with_reducible apply abortAtCommit_shaped | (intro _)
    | exact ⟨rfl, .inl rfl, rfl, rfl, id, id⟩ | exact ⟨rfl, rfl, rfl, rfl⟩ | rfl | split | dsimp only | assumption | exact clearFrame_keeps _ _
    | exact ⟨rfl, .inl rfl, rfl, rfl, by simp, by simp⟩ | exact ⟨rfl, .inr rfl, rfl, rfl, by simp, by simp⟩

theorem settleAckLoss_shaped (s : State) (t : Thread) (hM : WellShaped s) : WellShaped (settleAckLoss s t) := by
  unfold settleAckLoss
  repeat' first
    | with_reducible assumption | with_reducible apply modThread_shaped | with_reducible apply settleEffects_shaped | (intro _)
    | exact ⟨rfl, .inl rfl, rfl, rfl, id, id⟩ | exact ⟨rfl, rfl, rfl, rfl⟩ | rfl | split | dsimp only | assumption | exact clearFrame_keeps _ _
    | exact ⟨rfl, .inl rfl, rfl, rfl, by simp, by simp⟩ | exact ⟨rfl, .inr rfl, rfl, rfl, by simp, by simp⟩ | with_reducible apply effectsMap_shaped

theorem flowAccepted_shaped (s : State) (ctx pkg pctx : Nat) (ordered : Bool) (hM : WellShaped s) : WellShaped (flowAccepted s ctx pkg pctx ordered).1 := by
  unfold flowAccepted
  repeat' first
    | with_reducible assumption | with_reducible apply readChannelEnt_shaped | with_reducible apply foldl_shaped
    | with_reducible apply foldlPair_shaped | with_reducible refine fst_shaped (by assumption) ?_ | (intro _)
    | exact ⟨rfl, .inl rfl, rfl, rfl, id, id⟩ | exact ⟨rfl, rfl, rfl, rfl⟩ | rfl | split | dsimp only | assumption
    | with_reducible refine pkg_shaped ?_

theorem farPage_shaped (s0 : State) (c : Ctx) (write : Bool) (cid va : Nat) (hM : WellShaped s0) : WellShaped (farPage s0 c write cid va).1 := by
  unfold farPage
  repeat' first
    | with_reducible assumption | with_reducible apply walkReads_shaped | with_reducible apply orPte_shaped | (intro _)
    | exact ⟨rfl, .inl rfl, rfl, rfl, id, id⟩ | exact ⟨rfl, rfl, rfl, rfl⟩ | rfl | split | dsimp only | assumption

theorem farCheck_shaped (s : State) (ctx pkg pctx : Nat) (ordered copy write : Bool) (cid va n : Nat) (hM : WellShaped s) : WellShaped (farCheck s ctx pkg pctx ordered copy write cid va n).1 := by
  unfold farCheck
  repeat' first
    | with_reducible assumption | with_reducible apply flowAccepted_shaped | with_reducible apply farPage_shaped
    | with_reducible refine fst_shaped (by assumption) ?_ | (intro _) | exact ⟨rfl, .inl rfl, rfl, rfl, id, id⟩ | exact ⟨rfl, rfl, rfl, rfl⟩ | rfl
    | split | dsimp only | assumption | with_reducible refine pkg_shaped ?_

theorem flowDone_shaped (s : State) (w : PeerWrite) (ok : Bool) (hM : WellShaped s) : WellShaped (flowDone s w ok) := hM

theorem refuseCopy_shaped (s : State) (e : Effect) (hM : WellShaped s) : WellShaped (refuseCopy s e) := by
  unfold refuseCopy
  repeat' first
    | with_reducible assumption | with_reducible apply modCore_shaped | (intro _) | exact ⟨rfl, .inl rfl, rfl, rfl, id, id⟩
    | exact ⟨rfl, rfl, rfl, rfl⟩ | rfl | split | dsimp only | assumption | refine CoreShaped.of_sub (by assumption) ?_ ?_ ?_ ?_ ?_
    | exact Nat.le_refl _ | exact List.length_filter_le _ _ | exact List.Sublist.refl _ | exact List.filter_sublist.map _
    | exact modWhere_sublist fun _ => rfl

theorem tellBadPage_shaped (s : State) (ctx page : Nat) (vcs : List Nat) (f : AccFault) (hM : WellShaped s) : WellShaped (tellBadPage s ctx page vcs f) := by
  unfold tellBadPage
  repeat' first
    | with_reducible assumption | (intro _) | exact ⟨rfl, .inl rfl, rfl, rfl, id, id⟩ | exact ⟨rfl, rfl, rfl, rfl⟩ | rfl | split | dsimp only
    | assumption | with_reducible apply threadsMap_shaped | with_reducible apply threadsFilter_shaped

theorem pageWalk_shaped (s : State) (ctx page : Nat) (hM : WellShaped s) : WellShaped (pageWalk s ctx page) := by
  unfold pageWalk
  split
  · exact hM
  · dsimp only
    split
    · exact hM
    · have h := walkReads_shaped s (ptBase ‹Ctx›) (page * 2 ^ 16) hM
      split
      · exact foldl_shaped (fun s vc h => dieTlb_shaped _ _ _ (coreTlb_shaped _ _ _ h)) _ _ (orPte_shaped _ _ _ _ h)
      · exact tellBadPage_shaped _ _ _ _ _ h
      · exact tellBadPage_shaped _ _ _ _ _ h
      · exact tellBadPage_shaped _ _ _ _ _ h
      · exact tellBadPage_shaped _ _ _ _ _ h

theorem setLoad_shaped (s : State) (t : Thread) (ins : Inst) (i : Nat) (st : LoadSt) (toks : List (Nat × Nat × Tok)) (hM : WellShaped s) : WellShaped (setLoad s t ins i st toks) := by
  unfold setLoad
  repeat' first
    | with_reducible assumption | with_reducible apply modThread_shaped | (intro _) | exact ⟨rfl, .inl rfl, rfl, rfl, id, id⟩
    | exact ⟨rfl, rfl, rfl, rfl⟩ | rfl | split | dsimp only | assumption | exact clearFrame_keeps _ _
    | exact ⟨rfl, .inl rfl, rfl, rfl, by simp, by simp⟩ | exact ⟨rfl, .inr rfl, rfl, rfl, by simp, by simp⟩

theorem returnLoad_shaped (s : State) (t : Thread) (ins : Inst) (ws : List (Option Instr)) (i : Nat) (v : Nat) (hM : WellShaped s) : WellShaped (returnLoad s t ins ws i v) := by
  unfold returnLoad
  repeat' first
    | with_reducible assumption | with_reducible apply sampleCore_shaped | with_reducible apply setLoad_shaped | (intro _)
    | exact ⟨rfl, .inl rfl, rfl, rfl, id, id⟩ | exact ⟨rfl, rfl, rfl, rfl⟩ | rfl | split | dsimp only | assumption

theorem returnGlobal_shaped (s : State) (t : Thread) (ins : Inst) (ws : List (Option Instr)) (l : LoadReq) (code : Nat) (acq : Bool) (hM : WellShaped s) : WellShaped (returnGlobal s t ins ws l code acq) := by
  unfold returnGlobal
  repeat' first
    | with_reducible assumption | with_reducible apply addMiss_shaped | with_reducible apply readGlobal_shaped | with_reducible apply acquireOn_shaped
    | with_reducible apply setLoad_shaped | with_reducible apply returnLoad_shaped | with_reducible refine fst_shaped (by assumption) ?_ | (intro _)
    | exact ⟨rfl, .inl rfl, rfl, rfl, id, id⟩ | exact ⟨rfl, rfl, rfl, rfl⟩ | rfl | split | dsimp only | assumption
    | with_reducible refine hub_shaped ?_

theorem returnScratch_shaped (s : State) (t : Thread) (ins : Inst) (ws : List (Option Instr)) (l : LoadReq) (code : Nat) (waits : Bool) (hM : WellShaped s) : WellShaped (returnScratch s t ins ws l code waits) := by
  unfold returnScratch
  repeat' first
    | with_reducible assumption | with_reducible apply setLoad_shaped | with_reducible apply returnLoad_shaped | (intro _)
    | exact ⟨rfl, .inl rfl, rfl, rfl, id, id⟩ | exact ⟨rfl, rfl, rfl, rfl⟩ | rfl | split | dsimp only | assumption

theorem returnPeer_shaped (s : State) (t : Thread) (ins : Inst) (ws : List (Option Instr)) (l : LoadReq) (code : Nat) (hM : WellShaped s) : WellShaped (returnPeer s t ins ws l code) := by
  unfold returnPeer
  repeat' first
    | with_reducible assumption | with_reducible apply setLoad_shaped | with_reducible apply returnLoad_shaped | (intro _)
    | exact ⟨rfl, .inl rfl, rfl, rfl, id, id⟩ | exact ⟨rfl, rfl, rfl, rfl⟩ | rfl | split | dsimp only | assumption

theorem loadReturn_shaped (s : State) (vc frame idx : Nat) (hM : WellShaped s) : WellShaped (loadReturn s vc frame idx) := by
  unfold loadReturn
  repeat' first
    | with_reducible assumption | with_reducible apply returnGlobal_shaped | with_reducible apply returnScratch_shaped
    | with_reducible apply returnPeer_shaped | (intro _) | exact ⟨rfl, .inl rfl, rfl, rfl, id, id⟩ | exact ⟨rfl, rfl, rfl, rfl⟩ | rfl | split
    | dsimp only | assumption

/-! Tiles -/

theorem landStatus_shaped (s : State) (uid slot : Nat) (word : Nat) (hM : WellShaped s) : WellShaped (landStatus s uid slot word) := by
  unfold landStatus
  repeat' first
    | with_reducible assumption | with_reducible apply modThread_shaped | with_reducible apply landSlots_shaped | (intro _)
    | exact ⟨rfl, .inl rfl, rfl, rfl, id, id⟩ | exact ⟨rfl, rfl, rfl, rfl⟩ | rfl | split | dsimp only | assumption | exact clearFrame_keeps _ _
    | exact ⟨rfl, .inl rfl, rfl, rfl, by simp, by simp⟩ | exact ⟨rfl, .inr rfl, rfl, rfl, by simp, by simp⟩

theorem modSlot_shaped (s : State) (vc p : Nat) (f : OpSlot → OpSlot) (hM : WellShaped s) : WellShaped (modSlot s vc p f) := by
  unfold modSlot
  repeat' first
    | with_reducible assumption | with_reducible apply modStore_shaped | (intro _) | exact ⟨rfl, .inl rfl, rfl, rfl, id, id⟩
    | exact ⟨rfl, rfl, rfl, rfl⟩ | rfl | split | dsimp only | assumption | exact ⟨by simp, by simp, by simp, by simp⟩

theorem modAcc_shaped (s : State) (vc n : Nat) (f : Tile → Tile) (hM : WellShaped s) : WellShaped (modAcc s vc n f) := by
  unfold modAcc
  repeat' first
    | with_reducible assumption | with_reducible apply modStore_shaped | (intro _) | exact ⟨rfl, .inl rfl, rfl, rfl, id, id⟩
    | exact ⟨rfl, rfl, rfl, rfl⟩ | rfl | split | dsimp only | assumption | exact ⟨by simp, by simp, by simp, by simp⟩

theorem modPt_shaped (s : State) (vc n : Nat) (f : Tile → Tile) (hM : WellShaped s) : WellShaped (modPt s vc n f) := by
  unfold modPt
  repeat' first
    | with_reducible assumption | with_reducible apply modStore_shaped | (intro _) | exact ⟨rfl, .inl rfl, rfl, rfl, id, id⟩
    | exact ⟨rfl, rfl, rfl, rfl⟩ | rfl | split | dsimp only | assumption | exact ⟨by simp, by simp, by simp, by simp⟩

theorem dropOp_shaped (s : State) (vc id : Nat) (hM : WellShaped s) : WellShaped (dropOp s vc id) := by
  unfold dropOp
  repeat' first
    | with_reducible assumption | with_reducible apply modCore_shaped | (intro _) | exact ⟨rfl, .inl rfl, rfl, rfl, id, id⟩
    | exact ⟨rfl, rfl, rfl, rfl⟩ | rfl | split | dsimp only | assumption | refine CoreShaped.of_sub (by assumption) ?_ ?_ ?_ ?_ ?_
    | exact Nat.le_refl _ | exact List.length_filter_le _ _ | exact List.Sublist.refl _ | exact List.filter_sublist.map _
    | exact modWhere_sublist fun _ => rfl

theorem fireBarren_shaped (s : State) (vc : Nat) (o : Op) (code : Nat) (hM : WellShaped s) : WellShaped (fireBarren s vc o code) := by
  unfold fireBarren
  repeat' first
    | with_reducible assumption | with_reducible apply fresh_shaped | with_reducible apply modCore_shaped
    | with_reducible refine fst_shaped (by assumption) ?_ | with_reducible refine snd_shaped (by assumption) ?_ | (intro _)
    | exact ⟨rfl, .inl rfl, rfl, rfl, id, id⟩ | exact ⟨rfl, rfl, rfl, rfl⟩ | rfl | split | dsimp only | assumption
    | refine CoreShaped.of_sub (by assumption) ?_ ?_ ?_ ?_ ?_ | exact Nat.le_refl _ | exact List.length_filter_le _ _ | exact List.Sublist.refl _
    | exact List.filter_sublist.map _ | exact modWhere_sublist fun _ => rfl

theorem fireTile_shaped (s : State) (vc : Nat) (o : Op) (hM : WellShaped s) : WellShaped (fireTile s vc o) := by
  unfold fireTile
  repeat' first
    | with_reducible assumption | with_reducible apply modAcc_shaped | with_reducible apply modPt_shaped | with_reducible apply dropOp_shaped
    | with_reducible apply fireBarren_shaped | with_reducible apply foldl_shaped | with_reducible apply foldlPair_shaped
    | with_reducible refine fst_shaped (by assumption) ?_ | (intro _) | exact ⟨rfl, .inl rfl, rfl, rfl, id, id⟩ | exact ⟨rfl, rfl, rfl, rfl⟩ | rfl
    | split | dsimp only | assumption

theorem fireOp_shaped (s : State) (vc : Nat) (o : Op) (hM : WellShaped s) : WellShaped (fireOp s vc o) := by
  unfold fireOp
  repeat' first
    | with_reducible assumption | with_reducible apply landStatus_shaped | with_reducible apply modAcc_shaped | with_reducible apply modPt_shaped
    | with_reducible apply dropOp_shaped | with_reducible apply fireTile_shaped | with_reducible apply foldl_shaped
    | with_reducible apply foldlPair_shaped | with_reducible refine fst_shaped (by assumption) ?_ | (intro _)
    | exact ⟨rfl, .inl rfl, rfl, rfl, id, id⟩ | exact ⟨rfl, rfl, rfl, rfl⟩ | rfl | split | dsimp only | assumption

theorem claimUnit_shaped (s : State) (vc ctx g gi : Nat) (u : EUnit) (hM : WellShaped s) : WellShaped (claimUnit s vc ctx g gi u) := by
  unfold claimUnit
  repeat' first
    | with_reducible assumption | with_reducible apply modAcc_shaped | with_reducible apply modPt_shaped | (intro _)
    | exact ⟨rfl, .inl rfl, rfl, rfl, id, id⟩ | exact ⟨rfl, rfl, rfl, rfl⟩ | rfl | split | dsimp only | assumption

theorem applyClaim_shaped (s : State) (vc : Nat) (o : Op) (hM : WellShaped s) : WellShaped (applyClaim s vc o) := by
  unfold applyClaim
  repeat' first
    | with_reducible assumption | with_reducible apply modSlot_shaped | with_reducible apply modAcc_shaped | with_reducible apply modPt_shaped
    | with_reducible apply dropOp_shaped | with_reducible apply claimUnit_shaped | with_reducible apply foldl_shaped
    | with_reducible apply foldlPair_shaped | with_reducible refine fst_shaped (by assumption) ?_ | (intro _)
    | exact ⟨rfl, .inl rfl, rfl, rfl, id, id⟩ | exact ⟨rfl, rfl, rfl, rfl⟩ | rfl | split | dsimp only | assumption

theorem settleOps_shaped (s : State) (vc : Nat) (hM : WellShaped s) : WellShaped (settleOps s vc) := by
  unfold settleOps
  repeat' first
    | with_reducible assumption | with_reducible apply applyClaim_shaped | with_reducible apply foldl_shaped | with_reducible apply foldlPair_shaped
    | with_reducible refine fst_shaped (by assumption) ?_ | (intro _) | exact ⟨rfl, .inl rfl, rfl, rfl, id, id⟩ | exact ⟨rfl, rfl, rfl, rfl⟩ | rfl
    | split | dsimp only | assumption

theorem storeAcc_shaped (s : State) (vc : Nat) (o : Op) (hM : WellShaped s) : WellShaped (storeAcc s vc o) := by
  unfold storeAcc
  repeat' first
    | with_reducible assumption | with_reducible apply spadWrite_shaped | with_reducible apply restoreLine_shaped
    | with_reducible apply landStatus_shaped | with_reducible apply dropOp_shaped | with_reducible apply foldl_shaped
    | with_reducible apply foldlPair_shaped | with_reducible refine fst_shaped (by assumption) ?_ | (intro _)
    | exact ⟨rfl, .inl rfl, rfl, rfl, id, id⟩ | exact ⟨rfl, rfl, rfl, rfl⟩ | rfl | split | dsimp only | assumption

theorem landTfence_shaped (s : State) (vc : Nat) (o : Op) (hM : WellShaped s) : WellShaped (landTfence s vc o) := by
  unfold landTfence
  repeat' first
    | with_reducible assumption | with_reducible apply modGroup_shaped | with_reducible apply modCore_shaped | with_reducible apply landStatus_shaped
    | with_reducible apply dropOp_shaped | (intro _) | exact ⟨rfl, .inl rfl, rfl, rfl, id, id⟩ | exact ⟨rfl, rfl, rfl, rfl⟩ | rfl | split | dsimp only
    | assumption | refine CoreShaped.of_sub (by assumption) ?_ ?_ ?_ ?_ ?_ | exact Nat.le_refl _ | exact List.length_filter_le _ _
    | exact List.Sublist.refl _ | exact List.filter_sublist.map _ | exact modWhere_sublist fun _ => rfl | exact modAt_length _ _ _

/-! Copies -/

theorem modRing_shaped (s : State) (vc grid v : Nat) (f : Ring → Ring) (hM : WellShaped s) : WellShaped (modRing s vc grid v f) := by
  unfold modRing
  repeat' first
    | with_reducible assumption | with_reducible apply modCore_shaped | (intro _) | exact ⟨rfl, .inl rfl, rfl, rfl, id, id⟩
    | exact ⟨rfl, rfl, rfl, rfl⟩ | rfl | split | dsimp only | assumption | refine CoreShaped.of_sub (by assumption) ?_ ?_ ?_ ?_ ?_
    | exact Nat.le_refl _ | exact List.length_filter_le _ _ | exact List.Sublist.refl _ | exact List.filter_sublist.map _
    | exact modWhere_sublist fun _ => rfl

theorem modCopy_shaped (s : State) (vc id : Nat) (f : Copy → Copy) (hM : WellShaped s) : WellShaped (modCopy s vc id f) := by
  unfold modCopy
  repeat' first
    | with_reducible assumption | with_reducible apply modCore_shaped | (intro _) | exact ⟨rfl, .inl rfl, rfl, rfl, id, id⟩
    | exact ⟨rfl, rfl, rfl, rfl⟩ | rfl | split | dsimp only | assumption | refine CoreShaped.of_sub (by assumption) ?_ ?_ ?_ ?_ ?_
    | exact Nat.le_refl _ | exact List.length_filter_le _ _ | exact List.Sublist.refl _ | exact List.filter_sublist.map _
    | exact modWhere_sublist fun _ => rfl

theorem copyXlat_shaped (s : State) (vc ctx grid va : Nat) (need : Need) (hM : WellShaped s) : WellShaped (copyXlat s vc ctx grid va need).1 := by
  unfold copyXlat
  repeat' first
    | with_reducible assumption | with_reducible exact dieTlb_shaped _ _ _ (coreTlb_shaped _ _ _ (orPte_shaped _ _ _ _ (walkReads_shaped _ _ _ hM)))
    | with_reducible exact walkReads_shaped _ _ _ hM | split | dsimp only

theorem copyMigrate_shaped (s : State) (ctx va : Nat) (hM : WellShaped s) : WellShaped (copyMigrate s ctx va) := by
  unfold copyMigrate
  repeat' first
    | with_reducible assumption | with_reducible apply postEvent_shaped | (intro _) | exact ⟨rfl, .inl rfl, rfl, rfl, id, id⟩
    | exact ⟨rfl, rfl, rfl, rfl⟩ | rfl | split | dsimp only | assumption

theorem readLayout_shaped (s : State) (vc ctx grid uid dn : Nat) (own : Runs) (hM : WellShaped s) : WellShaped (readLayout s vc ctx grid uid dn own).1 := by
  unfold readLayout
  repeat' first
    | with_reducible assumption | with_reducible apply touchLine_shaped | with_reducible apply copyXlat_shaped | with_reducible apply foldl_shaped
    | with_reducible apply foldlPair_shaped | with_reducible apply foldlReading_shaped | with_reducible apply foldlPutting_shaped
    | with_reducible refine fst_shaped (by assumption) ?_ | (intro _) | exact ⟨rfl, .inl rfl, rfl, rfl, id, id⟩ | exact ⟨rfl, rfl, rfl, rfl⟩ | rfl
    | split | dsimp only | assumption | with_reducible refine hub_shaped ?_

theorem trimCleared_shaped (s : State) (vc : Nat) (c : Copy) (r : Option (BitVec 512)) (hM : WellShaped s) : WellShaped (trimCleared s vc c r) := by
  unfold trimCleared
  repeat' first
    | with_reducible assumption | with_reducible apply restoreLine_shaped | with_reducible apply modCopy_shaped | with_reducible apply foldl_shaped
    | with_reducible apply foldlPair_shaped | with_reducible apply foldlReading_shaped | with_reducible apply foldlPutting_shaped
    | with_reducible refine fst_shaped (by assumption) ?_ | (intro _) | exact ⟨rfl, .inl rfl, rfl, rfl, id, id⟩ | exact ⟨rfl, rfl, rfl, rfl⟩ | rfl
    | split | dsimp only | assumption

theorem rereadCopy_shaped (s : State) (vc : Nat) (c : Copy) (hM : WellShaped s) : WellShaped (rereadCopy s vc c) := by
  unfold rereadCopy
  repeat' first
    | with_reducible assumption | with_reducible apply modCopy_shaped | with_reducible apply copyMigrate_shaped
    | with_reducible apply readLayout_shaped | with_reducible apply trimCleared_shaped | with_reducible refine fst_shaped (by assumption) ?_
    | (intro _) | exact ⟨rfl, .inl rfl, rfl, rfl, id, id⟩ | exact ⟨rfl, rfl, rfl, rfl⟩ | rfl | split | dsimp only | assumption

theorem startEffects_shaped (s : State) (vc : Nat) (c : Copy) (hM : WellShaped s) : WellShaped (startEffects s vc c) := by
  unfold startEffects
  repeat' first
    | with_reducible assumption | with_reducible apply clearLine_shaped | with_reducible apply modSlot_shaped | with_reducible apply modRing_shaped
    | with_reducible apply modCopy_shaped | with_reducible apply foldl_shaped | with_reducible apply foldlPair_shaped
    | with_reducible apply foldlReading_shaped | with_reducible apply foldlPutting_shaped | with_reducible refine fst_shaped (by assumption) ?_
    | (intro _) | exact ⟨rfl, .inl rfl, rfl, rfl, id, id⟩ | exact ⟨rfl, rfl, rfl, rfl⟩ | rfl | split | dsimp only | assumption

theorem stopCopy_shaped (s : State) (vc id code clip : Nat) (hM : WellShaped s) : WellShaped (stopCopy s vc id code clip) := by
  unfold stopCopy
  repeat' first
    | with_reducible assumption | with_reducible apply modCopy_shaped | (intro _) | exact ⟨rfl, .inl rfl, rfl, rfl, id, id⟩
    | exact ⟨rfl, rfl, rfl, rfl⟩ | rfl | split | dsimp only | assumption

theorem refuseFlow_shaped (s : State) (vc : Nat) (c : Copy) (va clip : Nat) (hM : WellShaped s) : WellShaped (refuseFlow s vc c va clip) := by
  unfold refuseFlow
  repeat' first
    | with_reducible assumption | with_reducible apply postEvent_shaped | with_reducible apply stopCopy_shaped | (intro _)
    | exact ⟨rfl, .inl rfl, rfl, rfl, id, id⟩ | exact ⟨rfl, rfl, rfl, rfl⟩ | rfl | split | dsimp only | assumption

theorem startCopy_shaped (s : State) (vc eng : Nat) (c : Copy) (hM : WellShaped s) : WellShaped (startCopy s vc eng c) := by
  unfold startCopy
  repeat' first
    | with_reducible assumption | with_reducible apply openChannel_shaped | with_reducible apply modCopy_shaped
    | with_reducible apply startEffects_shaped | with_reducible apply refuseFlow_shaped | with_reducible refine fst_shaped (by assumption) ?_
    | (intro _) | exact ⟨rfl, .inl rfl, rfl, rfl, id, id⟩ | exact ⟨rfl, rfl, rfl, rfl⟩ | rfl | split | dsimp only | assumption

theorem Reading.start_shaped (s : State) (hM : WellShaped s) : WellShaped (Reading.start s).s := hM

theorem elemPage_shaped (g : Reading) (vc : Nat) (c : Copy) (va n : Nat) (need : Need) (hM : WellShaped g.s) : WellShaped (elemPage g vc c va n need).1.s := by
  unfold elemPage
  repeat' first
    | with_reducible assumption | with_reducible apply copyXlat_shaped | with_reducible refine fst_shaped (by assumption) ?_ | (intro _)
    | exact ⟨rfl, .inl rfl, rfl, rfl, id, id⟩ | exact ⟨rfl, rfl, rfl, rfl⟩ | rfl | split | dsimp only | assumption

theorem sourceLine_shaped (g : Reading) (vc mt line : Nat) (hM : WellShaped g.s) : WellShaped (sourceLine g vc mt line).1.s := by
  unfold sourceLine
  repeat' first
    | with_reducible assumption | with_reducible apply touchLine_shaped | (intro _) | exact ⟨rfl, .inl rfl, rfl, rfl, id, id⟩
    | exact ⟨rfl, rfl, rfl, rfl⟩ | rfl | split | dsimp only | assumption | with_reducible refine hub_shaped ?_

theorem sourceBytes_shaped (g : Reading) (vc : Nat) (c : Copy) (va n : Nat) (hM : WellShaped g.s) : WellShaped (sourceBytes g vc c va n).1.s := by
  unfold sourceBytes
  repeat' first
    | with_reducible assumption | with_reducible apply elemPage_shaped | with_reducible apply sourceLine_shaped
    | with_reducible refine fst_shaped (by assumption) ?_ | with_reducible refine fstReading_shaped (by assumption) ?_ | (intro _)
    | exact ⟨rfl, .inl rfl, rfl, rfl, id, id⟩ | exact ⟨rfl, rfl, rfl, rfl⟩ | rfl | split | dsimp only | assumption

theorem readElem_shaped (vc : Nat) (l : Lay) (c : Copy) (g : Reading) (e : List Int) (hM : WellShaped g.s) : WellShaped (readElem vc l c g e).s := by
  unfold readElem
  repeat' first
    | with_reducible assumption | with_reducible apply sourceBytes_shaped | with_reducible refine fst_shaped (by assumption) ?_
    | with_reducible refine fstReading_shaped (by assumption) ?_ | (intro _) | exact ⟨rfl, .inl rfl, rfl, rfl, id, id⟩ | exact ⟨rfl, rfl, rfl, rfl⟩
    | rfl | split | dsimp only | assumption

theorem dropReply_shaped (s : State) (r : PeerReply) (hM : WellShaped s) : WellShaped (dropReply s r) := hM

theorem readChannel_shaped (s : State) (vc : Nat) (l : Lay) (c : Copy) (es : List (List Int)) (hM : WellShaped s) : WellShaped (readChannel s vc l c es).s := by
  unfold readChannel
  repeat' first
    | with_reducible assumption | with_reducible apply postEvent_shaped | with_reducible apply openChannel_shaped
    | with_reducible apply dropReply_shaped | with_reducible refine fst_shaped (by assumption) ?_ | (intro _)
    | exact ⟨rfl, .inl rfl, rfl, rfl, id, id⟩ | exact ⟨rfl, rfl, rfl, rfl⟩ | rfl | split | dsimp only | assumption

theorem readChunk_shaped (s : State) (vc : Nat) (l : Lay) (c : Copy) (hM : WellShaped s) : WellShaped (readChunk s vc l c).s := by
  unfold readChunk
  repeat' first
    | with_reducible assumption | with_reducible apply readElem_shaped | with_reducible apply readChannel_shaped | with_reducible apply foldl_shaped
    | with_reducible apply foldlPair_shaped | with_reducible apply foldlReading_shaped | with_reducible apply foldlPutting_shaped
    | with_reducible refine fst_shaped (by assumption) ?_ | (intro _) | exact ⟨rfl, .inl rfl, rfl, rfl, id, id⟩ | exact ⟨rfl, rfl, rfl, rfl⟩ | rfl
    | split | dsimp only | assumption

theorem writeSpad_shaped (s : State) (vc p : Nat) (l : Lay) (c : Copy) (vals : List Nat) (hM : WellShaped s) : WellShaped (writeSpad s vc p l c vals) := by
  unfold writeSpad
  repeat' first
    | with_reducible assumption | with_reducible apply spadWrite_shaped | (intro _) | exact ⟨rfl, .inl rfl, rfl, rfl, id, id⟩
    | exact ⟨rfl, rfl, rfl, rfl⟩ | rfl | split | dsimp only | assumption

theorem lineDone_shaped (s : State) (vc id line : Nat) (hM : WellShaped s) : WellShaped (lineDone s vc id line) := by
  unfold lineDone
  repeat' first
    | with_reducible assumption | with_reducible apply restoreLine_shaped | with_reducible apply modCopy_shaped | (intro _)
    | exact ⟨rfl, .inl rfl, rfl, rfl, id, id⟩ | exact ⟨rfl, rfl, rfl, rfl⟩ | rfl | split | dsimp only | assumption

theorem writeChunk_shaped (s : State) (vc : Nat) (l : Lay) (c : Copy) (vals : List Nat) (hM : WellShaped s) : WellShaped (writeChunk s vc l c vals) := by
  unfold writeChunk
  repeat' first
    | with_reducible assumption | with_reducible apply restoreLine_shaped | with_reducible apply writeSpad_shaped
    | with_reducible apply lineDone_shaped | with_reducible apply foldl_shaped | with_reducible apply foldlPair_shaped
    | with_reducible apply foldlReading_shaped | with_reducible apply foldlPutting_shaped | with_reducible refine fst_shaped (by assumption) ?_
    | (intro _) | exact ⟨rfl, .inl rfl, rfl, rfl, id, id⟩ | exact ⟨rfl, rfl, rfl, rfl⟩ | rfl | split | dsimp only | assumption

theorem readSide_shaped (vc : Nat) (l : Lay) (c : Copy) (fmt : Nat) (e : List Int) (g : Reading) (k : Nat) (hM : WellShaped g.s) : WellShaped (readSide vc l c fmt e g k).s := by
  unfold readSide
  repeat' first
    | with_reducible assumption | with_reducible apply sourceBytes_shaped | with_reducible refine fst_shaped (by assumption) ?_
    | with_reducible refine fstReading_shaped (by assumption) ?_ | (intro _) | exact ⟨rfl, .inl rfl, rfl, rfl, id, id⟩ | exact ⟨rfl, rfl, rfl, rfl⟩
    | rfl | split | dsimp only | assumption

theorem readSides_shaped (vc : Nat) (l : Lay) (c : Copy) (g : Reading) (hM : WellShaped g.s) : WellShaped (readSides vc l c g).s := by
  unfold readSides
  repeat' first
    | with_reducible assumption | with_reducible apply readSide_shaped | with_reducible apply foldl_shaped | with_reducible apply foldlPair_shaped
    | with_reducible apply foldlReading_shaped | with_reducible apply foldlPutting_shaped | with_reducible refine fst_shaped (by assumption) ?_
    | (intro _) | exact ⟨rfl, .inl rfl, rfl, rfl, id, id⟩ | exact ⟨rfl, rfl, rfl, rfl⟩ | rfl | split | dsimp only | assumption

theorem writeTile_shaped (s : State) (vc : Nat) (l : Lay) (c : Copy) (vals side : List Nat) (hM : WellShaped s) : WellShaped (writeTile s vc l c vals side) := by
  unfold writeTile
  repeat' first
    | with_reducible assumption | with_reducible apply modSlot_shaped | with_reducible apply modCopy_shaped | (intro _)
    | exact ⟨rfl, .inl rfl, rfl, rfl, id, id⟩ | exact ⟨rfl, rfl, rfl, rfl⟩ | rfl | split | dsimp only | assumption

theorem putElem_shaped (vc : Nat) (l : Lay) (c : Copy) (x : Putting) (ev : List Int × Nat) (hM : WellShaped x.g.s) : WellShaped (putElem vc l c x ev).g.s := by
  unfold putElem
  repeat' first
    | with_reducible assumption | with_reducible apply elemPage_shaped | with_reducible apply foldl_shaped | with_reducible apply foldlPair_shaped
    | with_reducible apply foldlReading_shaped | with_reducible apply foldlPutting_shaped | with_reducible refine fst_shaped (by assumption) ?_
    | with_reducible refine fstReading_shaped (by assumption) ?_ | (intro _) | exact ⟨rfl, .inl rfl, rfl, rfl, id, id⟩ | exact ⟨rfl, rfl, rfl, rfl⟩
    | rfl | split | dsimp only | assumption

theorem copyEffect_shaped (s : State) (vc : Nat) (c : Copy) (kind : EffKind) (mt : Nat) (bs : List (Nat × Byte)) (hM : WellShaped s) :
    WellShaped (copyEffect s vc c kind mt bs) := by
  unfold copyEffect
  split
  · exact hM
  · exact newEffect_shaped rfl hM

/-- The state that a merge of puts carries. -/
def Merged.keepsShape : Merged → Prop
  | .wait s | .refused s | .bytes s _ => WellShaped s

theorem mergePuts_keepsShape (s : State) (vc : Nat) (c : Copy) (puts : List BytePut) (hM : WellShaped s) : (mergePuts s vc c puts).keepsShape := by
  unfold mergePuts
  repeat' first
    | exact hM | exact postEvent_shaped _ _ (dropReply_shaped _ _ hM) | exact dropReply_shaped _ _ hM
    | exact openChannel_shaped _ _ _ hM | exact postEvent_shaped _ _ (openChannel_shaped _ _ _ hM) | split | dsimp only

theorem mergePuts_bytes_shaped {s : State} {vc : Nat} {c : Copy} {puts : List BytePut} {s1 : State} {bs : List (Nat × Nat × Byte)}
    (e : mergePuts s vc c puts = .bytes s1 bs) (hM : WellShaped s) : WellShaped s1 := by
  have h := mergePuts_keepsShape s vc c puts hM; rw [e] at h; exact h

theorem mergePuts_wait_shaped {s : State} {vc : Nat} {c : Copy} {puts : List BytePut} {s1 : State}
    (e : mergePuts s vc c puts = .wait s1) (hM : WellShaped s) : WellShaped s1 := by
  have h := mergePuts_keepsShape s vc c puts hM; rw [e] at h; exact h

theorem mergePuts_refused_shaped {s : State} {vc : Nat} {c : Copy} {puts : List BytePut} {s1 : State}
    (e : mergePuts s vc c puts = .refused s1) (hM : WellShaped s) : WellShaped s1 := by
  have h := mergePuts_keepsShape s vc c puts hM; rw [e] at h; exact h

theorem endReading_shaped (g : Reading) (vc : Nat) (c : Copy) (hM : WellShaped g.s) : WellShaped (endReading g vc c) := by
  unfold endReading
  repeat' first
    | with_reducible assumption | with_reducible apply modCopy_shaped | with_reducible apply copyMigrate_shaped | with_reducible apply stopCopy_shaped
    | (intro _) | exact ⟨rfl, .inl rfl, rfl, rfl, id, id⟩ | exact ⟨rfl, rfl, rfl, rfl⟩ | rfl | split | dsimp only | assumption

theorem advance_shaped (s : State) (vc id n clip : Nat) (hM : WellShaped s) : WellShaped (advance s vc id n clip) := by
  unfold advance
  repeat' first
    | with_reducible assumption | with_reducible apply modCopy_shaped | (intro _) | exact ⟨rfl, .inl rfl, rfl, rfl, id, id⟩
    | exact ⟨rfl, rfl, rfl, rfl⟩ | rfl | split | dsimp only | assumption

theorem putEffects_shaped (s : State) (vc : Nat) (c : Copy) (bs : List (Nat × Nat × Byte)) (hM : WellShaped s) : WellShaped (putEffects s vc c bs).1 := by
  unfold putEffects
  repeat' first
    | with_reducible assumption | with_reducible apply openChannel_shaped | with_reducible apply bumpFlow_shaped
    | with_reducible apply copyEffect_shaped | with_reducible apply foldl_shaped | with_reducible apply foldlPair_shaped
    | with_reducible apply foldlReading_shaped | with_reducible apply foldlPutting_shaped | with_reducible refine fst_shaped (by assumption) ?_
    | (intro _) | exact ⟨rfl, .inl rfl, rfl, rfl, id, id⟩ | exact ⟨rfl, rfl, rfl, rfl⟩ | rfl | split | dsimp only | assumption
    | with_reducible refine pkg_shaped ?_

theorem storeStep_shaped (s : State) (vc : Nat) (l : Lay) (c : Copy) (hM : WellShaped s) : WellShaped (storeStep s vc l c) := by
  unfold storeStep
  repeat' first
    | with_reducible assumption | with_reducible apply stopCopy_shaped | with_reducible apply endReading_shaped
    | with_reducible apply putElem_shaped | with_reducible refine mergePuts_bytes_shaped (by assumption) ?_
    | with_reducible refine mergePuts_refused_shaped (by assumption) ?_ | with_reducible apply putEffects_shaped | with_reducible apply refuseFlow_shaped
    | with_reducible refine mergePuts_wait_shaped (by assumption) ?_ | with_reducible refine fst_shaped (by assumption) ?_
    | with_reducible apply advance_shaped | with_reducible apply foldlPutting_shaped | (intro _) | split
    | dsimp only | assumption

theorem loadStep_shaped (s : State) (vc : Nat) (l : Lay) (c : Copy) (hM : WellShaped s) : WellShaped (loadStep s vc l c) := by
  unfold loadStep
  repeat' first
    | with_reducible assumption | with_reducible apply readChunk_shaped | with_reducible apply writeChunk_shaped
    | with_reducible apply readSides_shaped | with_reducible apply writeTile_shaped | with_reducible apply endReading_shaped
    | with_reducible apply advance_shaped | (intro _) | exact ⟨rfl, .inl rfl, rfl, rfl, id, id⟩ | exact ⟨rfl, rfl, rfl, rfl⟩ | rfl | split
    | dsimp only | assumption

theorem copyStep_shaped (s : State) (vc : Nat) (c : Copy) (hM : WellShaped s) : WellShaped (copyStep s vc c) := by
  unfold copyStep
  repeat' first
    | with_reducible assumption | with_reducible apply storeStep_shaped | with_reducible apply loadStep_shaped | (intro _)
    | exact ⟨rfl, .inl rfl, rfl, rfl, id, id⟩ | exact ⟨rfl, rfl, rfl, rfl⟩ | rfl | split | dsimp only | assumption

theorem endCopy_shaped (s : State) (vc : Nat) (c : Copy) (hM : WellShaped s) : WellShaped (endCopy s vc c) := by
  unfold endCopy
  repeat' first
    | with_reducible assumption | with_reducible apply modCore_shaped | with_reducible apply restoreLine_shaped
    | with_reducible apply freeFrames_shaped | with_reducible apply landStatus_shaped | with_reducible apply modSlot_shaped
    | with_reducible apply settleOps_shaped | with_reducible apply foldl_shaped | with_reducible apply foldlPair_shaped
    | with_reducible apply foldlReading_shaped | with_reducible apply foldlPutting_shaped | with_reducible refine fst_shaped (by assumption) ?_
    | (intro _) | exact ⟨rfl, .inl rfl, rfl, rfl, id, id⟩ | exact ⟨rfl, rfl, rfl, rfl⟩ | rfl | split | dsimp only | assumption
    | refine CoreShaped.of_sub (by assumption) ?_ ?_ ?_ ?_ ?_ | exact Nat.le_refl _ | exact List.length_filter_le _ _ | exact List.Sublist.refl _
    | exact List.filter_sublist.map _ | exact modWhere_sublist fun _ => rfl

theorem permitVolley_shaped (s : State) (vc : Nat) (c : Copy) (hM : WellShaped s) : WellShaped (permitVolley s vc c) := by
  unfold permitVolley
  repeat' first
    | with_reducible assumption | with_reducible apply modRing_shaped | with_reducible apply modCopy_shaped | with_reducible apply endCopy_shaped
    | with_reducible apply foldl_shaped | with_reducible apply foldlPair_shaped | with_reducible apply foldlReading_shaped
    | with_reducible apply foldlPutting_shaped | with_reducible refine fst_shaped (by assumption) ?_ | (intro _)
    | exact ⟨rfl, .inl rfl, rfl, rfl, id, id⟩ | exact ⟨rfl, rfl, rfl, rfl⟩ | rfl | split | dsimp only | assumption

/-! Launch -/

theorem setHead_shaped (s : State) (ctx : Nat) (h : QHead) (hM : WellShaped s) : WellShaped (setHead s ctx h) := hM

theorem queueFault_shaped (s : State) (ctx q : Nat) (hM : WellShaped s) : WellShaped (queueFault s ctx q) := by
  unfold queueFault
  repeat' first
    | with_reducible assumption | with_reducible apply postEvent_shaped | (intro _) | exact ⟨rfl, .inl rfl, rfl, rfl, id, id⟩
    | exact ⟨rfl, rfl, rfl, rfl⟩ | rfl | split | dsimp only | assumption

theorem disableQueue_shaped (s : State) (c : Ctx) (q : Nat) (h : QHead) (hM : WellShaped s) : WellShaped (disableQueue s c q h) := by
  unfold disableQueue
  repeat' first
    | with_reducible assumption | with_reducible apply hubPut_shaped | with_reducible apply hubTranslate_shaped | with_reducible apply setHead_shaped
    | with_reducible apply queueFault_shaped | with_reducible refine fst_shaped (by assumption) ?_ | (intro _)
    | exact ⟨rfl, .inl rfl, rfl, rfl, id, id⟩ | exact ⟨rfl, rfl, rfl, rfl⟩ | rfl | split | dsimp only | assumption

theorem passHead_shaped (s : State) (c : Ctx) (h : QHead) (hM : WellShaped s) : WellShaped (passHead s c h) := by
  unfold passHead
  repeat' first
    | with_reducible assumption | with_reducible apply modCtx_shaped | with_reducible apply hubWriteVa_shaped | with_reducible apply setHead_shaped
    | with_reducible apply queueFault_shaped | with_reducible refine fst_shaped (by assumption) ?_ | (intro _)
    | exact ⟨rfl, .inl rfl, rfl, rfl, id, id⟩ | exact ⟨rfl, rfl, rfl, rfl⟩ | rfl | split | dsimp only | assumption

theorem refuseRecord_shaped (s : State) (c : Ctx) (h : QHead) (code : Nat) (hM : WellShaped s) : WellShaped (refuseRecord s c h code) := by
  unfold refuseRecord
  repeat' first
    | with_reducible assumption | with_reducible apply postEvent_shaped | with_reducible apply passHead_shaped | (intro _)
    | exact ⟨rfl, .inl rfl, rfl, rfl, id, id⟩ | exact ⟨rfl, rfl, rfl, rfl⟩ | rfl | split | dsimp only | assumption

theorem waitsHold_shaped (s : State) (ctx : Nat) (r : BitVec 512) (seen : Option (Nat × BitVec 64)) (hM : WellShaped s) : WellShaped (waitsHold s ctx r seen).1 := by
  unfold waitsHold
  repeat' first
    | with_reducible assumption | with_reducible apply signalValue_shaped | with_reducible apply foldl_shaped | with_reducible apply foldlPair_shaped
    | with_reducible refine fst_shaped (by assumption) ?_ | (intro _) | exact ⟨rfl, .inl rfl, rfl, rfl, id, id⟩ | exact ⟨rfl, rfl, rfl, rfl⟩ | rfl
    | split | dsimp only | assumption

theorem takeHead_shaped (s : State) (c : Ctx) (h : QHead) (r : BitVec 512) (hM : WellShaped s) : WellShaped (takeHead s c h r) := by
  unfold takeHead
  repeat' first
    | with_reducible assumption | with_reducible apply setHead_shaped | with_reducible apply refuseRecord_shaped
    | with_reducible apply waitsHold_shaped | with_reducible refine fst_shaped (by assumption) ?_ | (intro _)
    | exact ⟨rfl, .inl rfl, rfl, rfl, id, id⟩ | exact ⟨rfl, rfl, rfl, rfl⟩ | rfl | split | dsimp only | assumption

theorem workHead_shaped (s : State) (c : Ctx) (q : Nat) (h : QHead) (hM : WellShaped s) : WellShaped (workHead s c q h) := by
  unfold workHead
  repeat' first
    | with_reducible assumption | with_reducible apply hubReadVa_shaped | with_reducible apply signalValue_shaped
    | with_reducible apply setHead_shaped | with_reducible apply disableQueue_shaped | with_reducible apply refuseRecord_shaped
    | with_reducible apply takeHead_shaped | with_reducible refine fst_shaped (by assumption) ?_ | (intro _) | exact ⟨rfl, .inl rfl, rfl, rfl, id, id⟩
    | exact ⟨rfl, rfl, rfl, rfl⟩ | rfl | split | dsimp only | assumption

theorem recordReachesHead_shaped (s : State) (ctx q : Nat) (hM : WellShaped s) : WellShaped (recordReachesHead s ctx q) := by
  unfold recordReachesHead
  repeat' first
    | with_reducible assumption | with_reducible apply fresh_shaped | with_reducible apply takeHead_shaped | with_reducible apply workHead_shaped
    | with_reducible refine fst_shaped (by assumption) ?_ | with_reducible refine snd_shaped (by assumption) ?_ | (intro _)
    | exact ⟨rfl, .inl rfl, rfl, rfl, id, id⟩ | exact ⟨rfl, rfl, rfl, rfl⟩ | rfl | split | dsimp only | assumption

theorem takeUnits_threads (s : State) (vc ctx base n : Nat) : (takeUnits s vc ctx base n).threads = s.threads := by
  unfold takeUnits
  refine foldl_field (g := fun s : State => s.threads) (fun s a => ?_) _ _
  rfl

theorem takeUnits_nextId (s : State) (vc ctx base n : Nat) : (takeUnits s vc ctx base n).nextId = s.nextId := by
  unfold takeUnits
  refine foldl_field (g := fun s : State => s.nextId) (fun s a => ?_) _ _
  rfl

theorem takeUnits_shaped (s : State) (vc ctx base n : Nat) (hM : WellShaped s) : WellShaped (takeUnits s vc ctx base n) := by
  unfold takeUnits
  refine foldl_shaped (fun s a h => ?_) _ _ hM
  exact modStore_shaped _ _ _ (fun _ => ⟨rfl, rfl, rfl, rfl⟩) h

theorem takeSlots_threads (s : State) (vc ctx : Nat) (l : List Nat) : (takeSlots s vc ctx l).threads = s.threads := by
  unfold takeSlots
  refine foldl_field (g := fun s : State => s.threads) (fun s a => ?_) _ _
  rfl

theorem takeSlots_nextId (s : State) (vc ctx : Nat) (l : List Nat) : (takeSlots s vc ctx l).nextId = s.nextId := by
  unfold takeSlots
  refine foldl_field (g := fun s : State => s.nextId) (fun s a => ?_) _ _
  rfl

theorem takeSlots_shaped (s : State) (vc ctx : Nat) (l : List Nat) (hM : WellShaped s) : WellShaped (takeSlots s vc ctx l) := by
  unfold takeSlots
  refine foldl_shaped (fun s a h => ?_) _ _ hM
  exact modStore_shaped _ _ _ (fun _ => ⟨modAt_length _ _ _, rfl, rfl, setAt_length _ _ _⟩) h

theorem acceptGroup_shaped (s : State) (g : Grid) (gi vd vc : Nat) (hM : WellShaped s) : WellShaped (acceptGroup s g gi vd vc) := by
  have h := takeSlots_shaped _ vc g.ctx (freeSlots s vc (recOpsl g.raw))
    (takeUnits_shaped s vc g.ctx ((freeUnits? s vc (recSpadu g.raw)).getD 0) (recSpadu g.raw) hM)
  have ht : ThreadsShaped ((((freeFramesOf s vc).take (recThreads g.raw)).zip (List.range (recThreads g.raw))).map fun p =>
      newThread (s.nextId + p.2) g gi vc p.1 p.2) (s.nextId + recThreads g.raw) := by
    refine ⟨?_, ?_, ?_⟩
    · have h1 := List.nodup_range.sublist (zip_snd_sublist ((freeFramesOf s vc).take (recThreads g.raw)) (List.range (recThreads g.raw)))
      unfold List.Nodup at h1 ⊢
      rw [List.pairwise_map] at h1
      rw [List.pairwise_map, List.pairwise_map]
      exact h1.imp fun h e => h (Nat.add_left_cancel e)
    · have h1 := ((freeFramesOf_nodup s vc).sublist (List.take_sublist _ _)).sublist
        (zip_fst_sublist ((freeFramesOf s vc).take (recThreads g.raw)) (List.range (recThreads g.raw)))
      unfold List.Nodup at h1
      rw [frames_pairwise, List.pairwise_map]
      rw [List.pairwise_map] at h1
      exact h1.imp fun h _ _ _ e => h e
    · intro t ht
      obtain ⟨q, hq, rfl⟩ := List.mem_map.mp ht
      have hr := List.mem_range.mp ((zip_snd_sublist _ _).subset (List.mem_map_of_mem (f := Prod.snd) hq))
      exact ⟨Nat.add_lt_add_left hr _, List.length_replicate .., List.length_replicate ..⟩
  have e1 : (takeSlots (takeUnits s vc g.ctx ((freeUnits? s vc (recSpadu g.raw)).getD 0) (recSpadu g.raw)) vc g.ctx
      (freeSlots s vc (recOpsl g.raw))).threads = s.threads := by rw [takeSlots_threads, takeUnits_threads]
  have e2 : (takeSlots (takeUnits s vc g.ctx ((freeUnits? s vc (recSpadu g.raw)).getD 0) (recSpadu g.raw)) vc g.ctx
      (freeSlots s vc (recOpsl g.raw))).nextId = s.nextId := by rw [takeSlots_nextId, takeUnits_nextId]
  refine ⟨?_, ⟨h.2.1.1, fun e he => ?_⟩, h.2.2.1, h.2.2.2.1, ?_⟩
  · show ThreadsShaped ((takeSlots _ _ _ _).threads ++ _) (s.nextId + recThreads g.raw)
    rw [e1]
    refine hM.1.append ht (Nat.le_add_right _ _) ?_ ?_
    · intro t h
      obtain ⟨q, -, rfl⟩ := List.mem_map.mp h
      exact Nat.le_add_right _ _
    · intro t h1 u h2 hr _ hv
      obtain ⟨q, hq, rfl⟩ := List.mem_map.mp h2
      have hf := List.mem_of_mem_take ((zip_fst_sublist _ _).subset (List.mem_map_of_mem (f := Prod.fst) hq))
      exact freeFramesOf_free hf t h1 hr hv
  · have := h.2.1.2 e he
    show e.id < s.nextId + recThreads g.raw
    omega
  · intro x hx
    rcases List.mem_append.mp hx with hx | hx
    · exact h.2.2.2.2 x hx
    · rw [List.mem_singleton.mp hx]; exact List.length_replicate ..

theorem putSlotsBack_threads (s : State) (vc ctx : Nat) (l : List (Nat × OpSlot)) : (putSlotsBack s vc ctx l).threads = s.threads := by
  unfold putSlotsBack
  refine foldl_field (g := fun s : State => s.threads) (fun s a => ?_) _ _
  rfl

theorem putSlotsBack_nextId (s : State) (vc ctx : Nat) (l : List (Nat × OpSlot)) : (putSlotsBack s vc ctx l).nextId = s.nextId := by
  unfold putSlotsBack
  refine foldl_field (g := fun s : State => s.nextId) (fun s a => ?_) _ _
  rfl

theorem putSlotsBack_shaped (s : State) (vc ctx : Nat) (l : List (Nat × OpSlot)) (hM : WellShaped s) : WellShaped (putSlotsBack s vc ctx l) := by
  unfold putSlotsBack
  refine foldl_shaped (fun s a h => ?_) _ _ hM
  exact modStore_shaped _ _ _ (fun _ => ⟨setAt_length _ _ _, rfl, rfl, setAt_length _ _ _⟩) h

theorem freeDugout_shaped (s : State) (k : Nat) (hM : WellShaped s) : WellShaped (freeDugout s k) := hM

/-- Threads of a list that move to free frames of a core. -/
theorem ThreadsShaped.moved {s : State} {vc : Nat} {us : List Nat} (h : ThreadsShaped s.threads s.nextId) :
    ThreadsShaped (s.threads.map fun t => match (us.zip (freeFramesOf s vc)).find? fun p : Nat × Nat => p.1 == t.uid with
      | some p => moveFrame t vc p.2
      | none => t) s.nextId := by
  have hk : ∀ t : Thread, (match (us.zip (freeFramesOf s vc)).find? fun p : Nat × Nat => p.1 == t.uid with
      | some p => moveFrame t vc p.2
      | none => t).uid = t.uid := fun t => by split <;> rfl
  have hz := (freeFramesOf_nodup s vc).sublist (zip_snd_sublist us (freeFramesOf s vc))
  refine ⟨?_, ?_, ?_⟩
  · rw [List.map_map, show ((fun t : Thread => t.uid) ∘ fun t => match (us.zip (freeFramesOf s vc)).find? fun p : Nat × Nat => p.1 == t.uid with
      | some p => moveFrame t vc p.2
      | none => t) = fun t => t.uid from funext hk]
    exact h.1
  · rw [frames_pairwise, List.pairwise_map]
    refine ((uids_pairwise.mp h.1).and (frames_pairwise.mp h.2.1)).imp_of_mem ?_
    intro a b ha hb hab
    obtain ⟨h1, h2⟩ := hab
    split
    · rename_i p hp
      have hpm := List.mem_of_find?_eq_some hp
      have hpe : p.1 = a.uid := by simpa using List.find?_some hp
      have hpf : p.2 ∈ freeFramesOf s vc := (zip_snd_sublist _ _).subset (List.mem_map_of_mem (f := Prod.snd) hpm)
      split
      · rename_i q hq
        have hqm := List.mem_of_find?_eq_some hq
        have hqe : q.1 = b.uid := by simpa using List.find?_some hq
        intro _ _ _ e
        have : p = q := inj_of_nodup_map hz hpm hqm e
        exact h1 (by rw [← hpe, ← hqe, this])
      · intro _ hr hv e
        exact freeFramesOf_free hpf b hb hr hv.symm e.symm
    · split
      · rename_i q hq
        have hqm := List.mem_of_find?_eq_some hq
        have hqf : q.2 ∈ freeFramesOf s vc := (zip_snd_sublist _ _).subset (List.mem_map_of_mem (f := Prod.snd) hqm)
        intro hr _ hv e
        exact freeFramesOf_free hqf a ha hr hv e
      · exact h2
  · intro t ht
    obtain ⟨u, hu, rfl⟩ := List.mem_map.mp ht
    obtain ⟨e1, e2, e3⟩ := h.2.2 u hu
    split
    · exact ⟨e1, e2, e3⟩
    · exact ⟨e1, e2, e3⟩

theorem foldl_setAt_length {α : Type} : ∀ (k : List (Nat × α)) (l : List α), (k.foldl (fun l a => setAt l a.1 a.2) l).length = l.length
  | [], _ => rfl
  | _ :: k, _ => (foldl_setAt_length k _).trans (setAt_length _ _ _)

theorem restoreTo_shaped (s : State) (gr : Group) (sv : Saved) (vc : Nat) (hM : WellShaped s) : WellShaped (restoreTo s gr sv vc) := by
  have hm := hM.1.moved (vc := vc) (us := (threadsOf s gr.grid gr.gidx).map (·.uid))
  have h1 := fun f (hf : ∀ t : Storage, StoreKeeps t (f t)) (k : Core → Core)
      (hk : ∀ c, CoreShaped c → CoreShaped (k c)) => modCore_shaped _ vc k hk (modStore_shaped _ vc f hf (putSlotsBack_shaped _ vc gr.ctx ((freeSlots s vc gr.opsl.length).zip sv.slots)
    (takeUnits_shaped s vc gr.ctx ((freeUnits? s vc gr.spadUnits).getD 0) gr.spadUnits hM)))
  unfold restoreTo
  dsimp only
  refine foldl_shaped (fun s t h => ?_) _ _ (acquireOn_shaped _ _ _ _ ?_)
  · split
    · exact setWaiting_shaped _ _ h
    · exact h
  · have h2 : ∀ (st : State) (f : Group → Group), WellShaped st → st.threads = s.threads → st.nextId = s.nextId → (∀ g, (f g).bars.length = g.bars.length) →
        WellShaped (modGroup { st with threads := st.threads.map fun t =>
          match ((threadsOf s gr.grid gr.gidx).map (·.uid) |>.zip (freeFramesOf s vc)).find? fun p : Nat × Nat => p.1 == t.uid with
          | some p => moveFrame t vc p.2
          | none => t } gr.grid gr.gidx f) := by
      intro st f hst e1 e2 hf
      refine modGroup_shaped _ _ _ _ hf (threads_shaped ?_ hst)
      rw [e1, e2]; exact hm
    have e1 : ∀ f, (modStore (putSlotsBack (takeUnits s vc gr.ctx ((freeUnits? s vc gr.spadUnits).getD 0) gr.spadUnits) vc gr.ctx
        ((freeSlots s vc gr.opsl.length).zip sv.slots)) vc f).threads = s.threads := fun f => by
      show (putSlotsBack _ _ _ _).threads = _
      rw [putSlotsBack_threads, takeUnits_threads]
    have e2 : ∀ f, (modStore (putSlotsBack (takeUnits s vc gr.ctx ((freeUnits? s vc gr.spadUnits).getD 0) gr.spadUnits) vc gr.ctx
        ((freeSlots s vc gr.opsl.length).zip sv.slots)) vc f).nextId = s.nextId := fun f => by
      show (putSlotsBack _ _ _ _).nextId = _
      rw [putSlotsBack_nextId, takeUnits_nextId]
    have hs := h1 (fun st : Storage => { st with
        spad := (st.spad.filter fun c => decide (c.1 < (freeUnits? s vc gr.spadUnits).getD 0 * 16384)) ++
          sv.spad.map (fun c => (c.1 + (freeUnits? s vc gr.spadUnits).getD 0 * 16384, c.2)) ++
          st.spad.filter fun c => decide ((freeUnits? s vc gr.spadUnits).getD 0 * 16384 + gr.spadUnits * 16384 ≤ c.1)
        absent := st.absent ++ sv.absent.map fun a => (a.1 + (freeUnits? s vc gr.spadUnits).getD 0 * 256, a.2)
        badLines := st.badLines ++ sv.badLines.map (· + (freeUnits? s vc gr.spadUnits).getD 0 * 256)
        accs := sv.accs.foldl (fun l a => setAt l a.1 a.2) st.accs
        pts := sv.pts.foldl (fun l a => setAt l a.1 a.2) st.pts }) (fun _ => ⟨rfl, foldl_setAt_length _ _, foldl_setAt_length _ _, rfl⟩)
      (fun c : Core => { c with
        ops := c.ops ++ sv.ops.map fun o => { o with vc := vc }
        copies := c.copies ++ sv.copies.map fun x => { x with vc := vc, cleared := x.cleared.map (· + (freeUnits? s vc gr.spadUnits).getD 0 * 256) }
        rings := c.rings ++ sv.rings }) (fun _ h => h)
    split
    · exact freeDugout_shaped _ _ (h2 _ _ hs (e1 id) (e2 id) fun _ => rfl)
    · exact h2 _ _ hs (e1 id) (e2 id) fun _ => rfl

theorem closeGrids_shaped (s : State) (hM : WellShaped s) : WellShaped (closeGrids s) := hM

theorem releaseUnits_shaped (s : State) (vc grid gi : Nat) (hM : WellShaped s) : WellShaped (releaseUnits s vc grid gi) :=
  modCore_shaped _ _ _ (fun _ h => h) (modStore_shaped _ _ _ (fun _ => ⟨rfl, List.length_map _, List.length_map _, rfl⟩) hM)

theorem flushScratch_shaped (s : State) (gr : Group) (hM : WellShaped s) : WellShaped (flushScratch s gr) := by
  unfold flushScratch
  repeat' first
    | with_reducible assumption | with_reducible apply modEffect_shaped | with_reducible apply actAtBank_shaped | with_reducible apply foldl_shaped
    | with_reducible apply foldlPair_shaped | with_reducible refine fst_shaped (by assumption) ?_ | (intro _)
    | exact ⟨rfl, .inl rfl, rfl, rfl, id, id⟩ | exact ⟨rfl, rfl, rfl, rfl⟩ | rfl | split | dsimp only | assumption
    | with_reducible apply effectsMap_shaped

theorem forgetLost_shaped (s : State) (gr : Group) (hM : WellShaped s) : WellShaped (forgetLost s gr) := by
  unfold forgetLost
  repeat' first
    | with_reducible assumption | (intro _) | exact ⟨rfl, .inl rfl, rfl, rfl, id, id⟩ | exact ⟨rfl, rfl, rfl, rfl⟩ | rfl | split | dsimp only
    | assumption | with_reducible apply effectsMap_shaped

theorem freeGroup_shaped (s : State) (gr : Group) (hM : WellShaped s) : WellShaped (freeGroup s gr) := by
  have h : ∀ t (p : Thread → Bool) (q : Group → Bool), WellShaped t → WellShaped { t with threads := t.threads.filter p, groups := t.groups.filter q } :=
    fun t p q h => ⟨h.1.sublist List.filter_sublist, h.2.1, h.2.2.1, h.2.2.2.1, fun x hx => h.2.2.2.2 x (List.mem_filter.mp hx).1⟩
  have h0 := forgetLost_shaped _ gr (flushScratch_shaped s gr hM)
  unfold freeGroup
  dsimp only
  split
  · exact h _ _ _ (settleOps_shaped _ _ (releaseUnits_shaped _ _ _ _ h0))
  · exact h _ _ _ (freeDugout_shaped _ _ h0)


theorem retireGroup_shaped (s : State) (gr : Group) (hM : WellShaped s) : WellShaped (retireGroup s gr) := by
  unfold retireGroup
  repeat' first
    | with_reducible assumption | with_reducible apply modGrid_shaped | with_reducible apply closeGrids_shaped | with_reducible apply freeGroup_shaped
    | (intro _) | exact ⟨rfl, .inl rfl, rfl, rfl, id, id⟩ | exact ⟨rfl, rfl, rfl, rfl⟩ | rfl | split | dsimp only | assumption

theorem provisionalDone_shaped (s : State) (gr : Group) (hM : WellShaped s) : WellShaped (provisionalDone s gr) := by
  unfold provisionalDone
  repeat' first
    | with_reducible assumption | with_reducible apply modGroup_shaped | (intro _) | exact ⟨rfl, .inl rfl, rfl, rfl, id, id⟩
    | exact ⟨rfl, rfl, rfl, rfl⟩ | rfl | split | dsimp only | assumption | exact modAt_length _ _ _ | with_reducible apply threadsMap_shaped
    | with_reducible apply threadsFilter_shaped

theorem decrementSignal_shaped (s : State) (ctx n : Nat) (hM : WellShaped s) : WellShaped (decrementSignal s ctx n) := by
  unfold decrementSignal
  repeat' first
    | with_reducible assumption | with_reducible apply hubPut_shaped | with_reducible apply hubTranslate_shaped
    | with_reducible apply watchSignal_shaped | with_reducible refine fst_shaped (by assumption) ?_ | (intro _)
    | exact ⟨rfl, .inl rfl, rfl, rfl, id, id⟩ | exact ⟨rfl, rfl, rfl, rfl⟩ | rfl | split | dsimp only | assumption

theorem tableFault_shaped (s : State) (ctx addr data : Nat) (hM : WellShaped s) : WellShaped (tableFault s ctx addr data) := by
  unfold tableFault
  repeat' first
    | with_reducible assumption | with_reducible apply postEvent_shaped | (intro _) | exact ⟨rfl, .inl rfl, rfl, rfl, id, id⟩
    | exact ⟨rfl, rfl, rfl, rfl⟩ | rfl | split | dsimp only | assumption

theorem updatePredictor_shaped (s : State) (c : Ctx) (raw : BitVec 512) (t : Nat) (counts exact : Bool) (hM : WellShaped s) : WellShaped (updatePredictor s c raw t counts exact) := by
  unfold updatePredictor
  repeat' first
    | with_reducible assumption | with_reducible apply hubPut_shaped | with_reducible apply hubTouch_shaped | with_reducible apply setStalls_shaped
    | with_reducible apply hubTranslate_shaped | with_reducible apply requestPages_shaped | with_reducible apply tableFault_shaped
    | with_reducible refine fst_shaped (by assumption) ?_ | (intro _) | exact ⟨rfl, .inl rfl, rfl, rfl, id, id⟩ | exact ⟨rfl, rfl, rfl, rfl⟩ | rfl
    | split | dsimp only | assumption | with_reducible refine hub_shaped ?_

theorem squashGroup_shaped (s : State) (gr : Group) (hM : WellShaped s) : WellShaped (squashGroup s gr) := by
  have h : ∀ (f : Group → Group) (p : Thread → Bool), (∀ g, (f g).bars.length = 4) →
      WellShaped (modGroup { (s.threads.filter p).foldl (fun s t => abortInst s t.uid) s with
        threads := modWhere p (fun t => { clearFrame t with st := .exited }) ((s.threads.filter p).foldl (fun s t => abortInst s t.uid) s).threads } gr.grid gr.gidx f) := by
    intro f p hf
    have h1 : WellShaped ((s.threads.filter p).foldl (fun s t => abortInst s t.uid) s) := foldl_shaped (fun _ _ h => abortInst_shaped _ _ h) _ _ hM
    have h2 := threads_shaped (h1.1.map (f := fun t => if p t then { clearFrame t with st := .exited } else t) (fun t => by
      split
      · exact clearFrame_keeps t _
      · exact .refl t)) h1
    refine groups_shaped ?_ h2
    intro x hx
    obtain ⟨y, hy, e | e⟩ := mem_modWhere hx
    · rw [e]; exact h2.2.2.2.2 y hy
    · rw [e]; exact hf y
  unfold squashGroup
  dsimp only
  split
  · exact settleEntries_shaped _ _ (h _ _ fun _ => List.length_replicate ..)
  · exact h _ _ fun _ => List.length_replicate ..

theorem settleShape_shaped (s : State) (gid count : Nat) (hM : WellShaped s) : WellShaped (settleShape s gid count) := by
  unfold settleShape
  repeat' first
    | with_reducible assumption | with_reducible apply retireGroup_shaped | with_reducible apply squashGroup_shaped
    | with_reducible apply foldl_shaped | with_reducible apply foldlPair_shaped | with_reducible refine fst_shaped (by assumption) ?_ | (intro _)
    | exact ⟨rfl, .inl rfl, rfl, rfl, id, id⟩ | exact ⟨rfl, rfl, rfl, rfl⟩ | rfl | split | dsimp only | assumption

theorem shapeFault_shaped (s : State) (g : Grid) (cause data : Nat) (hM : WellShaped s) : WellShaped (shapeFault s g cause data) := by
  unfold shapeFault
  repeat' first
    | with_reducible assumption | with_reducible apply modGrid_shaped | with_reducible apply postEvent_shaped | with_reducible apply closeGrids_shaped
    | with_reducible apply settleShape_shaped | (intro _) | exact ⟨rfl, .inl rfl, rfl, rfl, id, id⟩ | exact ⟨rfl, rfl, rfl, rfl⟩ | rfl | split
    | dsimp only | assumption

theorem shapePoint_shaped (s : State) (g : Grid) (w : BitVec 64) (hM : WellShaped s) : WellShaped (shapePoint s g w) := by
  unfold shapePoint
  repeat' first
    | with_reducible assumption | with_reducible apply modGrid_shaped | with_reducible apply wantConf_shaped | with_reducible apply closeGrids_shaped
    | with_reducible apply updatePredictor_shaped | with_reducible apply settleShape_shaped | with_reducible apply shapeFault_shaped
    | with_reducible apply foldl_shaped | with_reducible apply foldlPair_shaped | with_reducible refine fst_shaped (by assumption) ?_ | (intro _)
    | exact ⟨rfl, .inl rfl, rfl, rfl, id, id⟩ | exact ⟨rfl, rfl, rfl, rfl⟩ | rfl | split | dsimp only | assumption
    | with_reducible apply threadsMap_shaped | with_reducible apply threadsFilter_shaped

theorem zeroRange_shaped (c : Ctx) (cid : Nat) : ∀ (k : Nat) (s : State) (va n : Nat), WellShaped s → WellShaped (zeroRange c cid k s va n).1
  | 0, _, _, _, h => h
  | k + 1, s, va, n, h => by
    unfold zeroRange
    dsimp only
    split
    · exact h
    · apply zeroRange_shaped c cid k
      split
      · exact hubPut_shaped _ _ _ _ (hubTranslate_shaped _ _ _ _ _ h)
      · exact hubTranslate_shaped _ _ _ _ _ h

theorem zeroShare_shaped (s : State) (g : Grid) (gi : Nat) (hM : WellShaped s) : WellShaped (zeroShare s g gi) := by
  unfold zeroShare
  repeat' first
    | with_reducible assumption | with_reducible apply tableFault_shaped | with_reducible apply zeroRange_shaped
    | with_reducible refine fst_shaped (by assumption) ?_ | (intro _) | exact ⟨rfl, .inl rfl, rfl, rfl, id, id⟩ | exact ⟨rfl, rfl, rfl, rfl⟩ | rfl
    | split | dsimp only | assumption

theorem readTable_shaped (s : State) (c : Ctx) (cid : Nat) (va : Int) (n : Nat) (hM : WellShaped s) : WellShaped (readTable s c cid va n).1 := by
  unfold readTable
  repeat' first
    | with_reducible assumption | with_reducible apply hubReadVa_shaped | with_reducible refine fst_shaped (by assumption) ?_ | (intro _)
    | exact ⟨rfl, .inl rfl, rfl, rfl, id, id⟩ | exact ⟨rfl, rfl, rfl, rfl⟩ | rfl | split | dsimp only | assumption

theorem specStart_shaped (s : State) (c : Ctx) (raw : BitVec 512) (hM : WellShaped s) : WellShaped (specStart s c raw).1 := by
  unfold specStart
  repeat' first
    | with_reducible assumption | with_reducible apply hubReadVa_shaped | with_reducible apply signalValue_shaped
    | with_reducible apply tableFault_shaped | with_reducible refine fst_shaped (by assumption) ?_ | (intro _)
    | exact ⟨rfl, .inl rfl, rfl, rfl, id, id⟩ | exact ⟨rfl, rfl, rfl, rfl⟩ | rfl | split | dsimp only | assumption

theorem knownShape_shaped (s : State) (c : Ctx) (gid : Nat) (w : BitVec 64) (hM : WellShaped s) : WellShaped (knownShape s c gid w) := by
  unfold knownShape
  repeat' first
    | with_reducible assumption | with_reducible apply modGrid_shaped | with_reducible apply closeGrids_shaped
    | with_reducible apply updatePredictor_shaped | with_reducible apply shapeFault_shaped | (intro _) | exact ⟨rfl, .inl rfl, rfl, rfl, id, id⟩
    | exact ⟨rfl, rfl, rfl, rfl⟩ | rfl | split | dsimp only | assumption

theorem releaseHead_shaped (s : State) (c : Ctx) (h : QHead) (raw : BitVec 512) (hM : WellShaped s) : WellShaped (releaseHead s c h raw) := by
  have hr : ∀ s x y (n : Nat), WellShaped s → WellShaped (readTable s c x y n).1 := fun s x y n h => readTable_shaped _ _ _ _ _ h
  unfold releaseHead
  dsimp only
  have h3 := hr _ (recCid raw) (↑(field512 raw 32 8) + 16 * toSigned 32 (field512 raw 44 4)) 64
    (hr _ (recCid raw) (↑(field512 raw 32 8) + 16 * toSigned 32 (field512 raw 40 4)) 256
      (hr _ (recCid raw) (↑(field512 raw 32 8)) (4 * if recKsel raw = true then 128 else 64) hM))
  generalize (readTable _ c (recCid raw) (↑(field512 raw 32 8) + 16 * toSigned 32 (field512 raw 44 4)) 64).1 = s3 at h3 ⊢
  have hf : ∀ t l (hh : Hub), WellShaped t → WellShaped { (fresh t).2 with grids := l, hub := hh } := fun t l hh h => fresh_shaped t h
  have hp : ∀ t l (hh : Hub), WellShaped t → WellShaped (passHead { (fresh t).2 with grids := l, hub := hh } c h) := fun t l hh k => passHead_shaped _ _ _ (hf t l hh k)
  split
  · by_cases hc : recSpec raw
    · rw [if_pos hc]
      split
      · exact knownShape_shaped _ _ _ _ (hp _ _ _ (specStart_shaped _ _ _ h3))
      · exact closeGrids_shaped _ (hp _ _ _ (specStart_shaped _ _ _ h3))
    · rw [if_neg hc]
      exact closeGrids_shaped _ (hp _ _ _ h3)
  · exact refuseRecord_shaped _ _ _ _ h3


theorem releaseFirst_shaped : ∀ (k : Nat) (l : List (Ctx × QHead × BitVec 512)) (s : State), WellShaped s → WellShaped (releaseFirst k l s)
  | 0, _, _, h => h
  | k + 1, l, s, h => by
    unfold releaseFirst
    split
    · exact h
    · dsimp only
      have h1 : ∀ c q r, WellShaped (releaseHead (setStalls s []) c q r) := fun c q r => releaseHead_shaped _ _ _ _ (setStalls_shaped _ _ h)
      split
      · exact releaseFirst_shaped k _ _ (requestPages_shaped _ _ (setStalls_shaped _ _ h))
      · exact h1 _ _ _

theorem checkTail_shaped (s : State) (c : Ctx) (h : QHead) (v : BitVec 64) (hM : WellShaped s) : WellShaped (checkTail s c h v) := by
  unfold checkTail
  repeat' first
    | with_reducible assumption | with_reducible apply hubReadVa_shaped | with_reducible apply setHead_shaped
    | with_reducible apply disableQueue_shaped | with_reducible refine fst_shaped (by assumption) ?_ | (intro _)
    | exact ⟨rfl, .inl rfl, rfl, rfl, id, id⟩ | exact ⟨rfl, rfl, rfl, rfl⟩ | rfl | split | dsimp only | assumption
    | with_reducible refine hub_shaped ?_

theorem observeHead_shaped (s : State) (c : Ctx) (h : QHead) (n : Nat) (v : BitVec 64) (hM : WellShaped s) : WellShaped (observeHead s c h n v) := by
  unfold observeHead
  repeat' first
    | with_reducible assumption | with_reducible apply setHead_shaped | with_reducible apply waitsHold_shaped | with_reducible apply checkTail_shaped
    | with_reducible refine fst_shaped (by assumption) ?_ | (intro _) | exact ⟨rfl, .inl rfl, rfl, rfl, id, id⟩ | exact ⟨rfl, rfl, rfl, rfl⟩ | rfl
    | split | dsimp only | assumption

theorem fireNotify_shaped (s : State) (ctx n : Nat) (v : BitVec 64) (hM : WellShaped s) : WellShaped (fireNotify s ctx n v) := hM

theorem observeShape_shaped (s : State) (g : Grid) (n : Nat) (v : BitVec 64) (hM : WellShaped s) : WellShaped (observeShape s g n v) := by
  unfold observeShape
  repeat' first
    | with_reducible assumption | with_reducible apply modGrid_shaped | with_reducible apply shapePoint_shaped | (intro _)
    | exact ⟨rfl, .inl rfl, rfl, rfl, id, id⟩ | exact ⟨rfl, rfl, rfl, rfl⟩ | rfl | split | dsimp only | assumption

theorem observeSignal_shaped (s : State) (ctx n : Nat) (v : BitVec 64) (hM : WellShaped s) : WellShaped (observeSignal s ctx n v) := by
  unfold observeSignal
  repeat' first
    | with_reducible assumption | with_reducible apply passGwait_shaped | with_reducible apply testSigWait_shaped
    | with_reducible apply observeHead_shaped | with_reducible apply fireNotify_shaped | with_reducible apply observeShape_shaped
    | with_reducible apply foldl_shaped | with_reducible apply foldlPair_shaped | with_reducible refine fst_shaped (by assumption) ?_ | (intro _)
    | exact ⟨rfl, .inl rfl, rfl, rfl, id, id⟩ | exact ⟨rfl, rfl, rfl, rfl⟩ | rfl | split | dsimp only | assumption
    | with_reducible refine grids_shaped ?_ | with_reducible apply threadsMap_shaped | with_reducible apply threadsFilter_shaped

theorem rewatch_shaped (s : State) (ctx : Nat) (p : SigEnt → Bool) (hM : WellShaped s) : WellShaped (rewatch s ctx p) := by
  unfold rewatch
  repeat' first
    | with_reducible assumption | with_reducible apply modCtx_shaped | with_reducible apply watchSignal_shaped | with_reducible apply foldl_shaped
    | with_reducible apply foldlPair_shaped | with_reducible refine fst_shaped (by assumption) ?_ | (intro _)
    | exact ⟨rfl, .inl rfl, rfl, rfl, id, id⟩ | exact ⟨rfl, rfl, rfl, rfl⟩ | rfl | split | dsimp only | assumption

theorem writeSigtN_shaped (s : State) (ctx : Nat) (v : BitVec 32) (hM : WellShaped s) : WellShaped (writeSigtN s ctx v) := by
  unfold writeSigtN
  repeat' first
    | with_reducible assumption | with_reducible apply modCtx_shaped | with_reducible apply rewatch_shaped | with_reducible apply foldl_shaped
    | with_reducible apply foldlPair_shaped | with_reducible refine fst_shaped (by assumption) ?_ | (intro _)
    | exact ⟨rfl, .inl rfl, rfl, rfl, id, id⟩ | exact ⟨rfl, rfl, rfl, rfl⟩ | rfl | split | dsimp only | assumption

theorem retestHead_shaped (s : State) (c : Ctx) (h : QHead) (hM : WellShaped s) : WellShaped (retestHead s c h) := by
  unfold retestHead
  split
  rename_i s1 h1 e1
  have k1 : WellShaped s1 := by
    split at e1
    · rename_i r _
      have hw := waitsHold_shaped s c.num r none hM
      dsimp only at e1
      generalize waitsHold s c.num r none = q at hw e1
      cases e1; exact hw
    · cases e1; exact hM
  split
  · rename_i e
    obtain ⟨n, _, e2⟩ := Option.map_eq_some_iff.mp e
    have h3 := signalValue_shaped s1 c.num n k1
    rw [e2] at h3; exact checkTail_shaped _ _ _ _ h3
  · rename_i e
    obtain ⟨n, _, e2⟩ := Option.map_eq_some_iff.mp e
    have h3 := signalValue_shaped s1 c.num n k1
    rw [e2] at h3; exact setHead_shaped _ _ _ h3
  · exact setHead_shaped _ _ _ k1

theorem retestHeads_shaped (s : State) (ctx : Nat) (hM : WellShaped s) : WellShaped (retestHeads s ctx) := by
  unfold retestHeads
  repeat' first
    | with_reducible assumption | with_reducible apply retestHead_shaped | with_reducible apply foldl_shaped | with_reducible apply foldlPair_shaped
    | with_reducible refine fst_shaped (by assumption) ?_ | (intro _) | exact ⟨rfl, .inl rfl, rfl, rfl, id, id⟩ | exact ⟨rfl, rfl, rfl, rfl⟩ | rfl
    | split | dsimp only | assumption

theorem retestWaits_shaped (s : State) (ctx : Nat) (hM : WellShaped s) : WellShaped (retestWaits s ctx) := by
  unfold retestWaits
  repeat' first
    | with_reducible assumption | with_reducible apply settleGroups_shaped | with_reducible apply testNow_shaped | with_reducible apply foldl_shaped
    | with_reducible apply foldlPair_shaped | with_reducible refine fst_shaped (by assumption) ?_ | (intro _)
    | exact ⟨rfl, .inl rfl, rfl, rfl, id, id⟩ | exact ⟨rfl, rfl, rfl, rfl⟩ | rfl | split | dsimp only | assumption
    | with_reducible apply threadsMap_shaped | with_reducible apply threadsFilter_shaped

theorem armNotify_shaped (s : State) (n : Nat) (hM : WellShaped s) : WellShaped (armNotify s n) := by
  unfold armNotify
  repeat' first
    | with_reducible assumption | with_reducible apply signalValue_shaped | with_reducible refine fst_shaped (by assumption) ?_ | (intro _)
    | exact ⟨rfl, .inl rfl, rfl, rfl, id, id⟩ | exact ⟨rfl, rfl, rfl, rfl⟩ | rfl | split | dsimp only | assumption
    | with_reducible refine ap_shaped ?_

/-! Place -/

theorem codeXlat_shaped (s : State) (vc ctx cidf va : Nat) (hM : WellShaped s) : WellShaped (codeXlat s vc ctx cidf va).1 := by
  unfold codeXlat
  repeat' first
    | with_reducible assumption | with_reducible exact dieTlb_shaped _ _ _ (coreTlb_shaped _ _ _ (orPte_shaped _ _ _ _ (walkReads_shaped _ _ _ hM)))
    | with_reducible exact walkReads_shaped _ _ _ hM | split | dsimp only

theorem touchCode_shaped (s : State) (vc ctx mt line : Nat) (hM : WellShaped s) : WellShaped (touchCode s vc ctx mt line) := by
  unfold touchCode
  repeat' first
    | with_reducible assumption | with_reducible apply modCore_shaped | with_reducible apply touchLine_shaped | (intro _)
    | exact ⟨rfl, .inl rfl, rfl, rfl, id, id⟩ | exact ⟨rfl, rfl, rfl, rfl⟩ | rfl | split | dsimp only | assumption
    | refine CoreShaped.of_sub (by assumption) ?_ ?_ ?_ ?_ ?_ | exact Nat.le_refl _ | exact List.length_filter_le _ _ | exact List.Sublist.refl _
    | exact List.filter_sublist.map _ | exact modWhere_sublist fun _ => rfl

theorem codePage_shaped (s : State) (vc ctx cidf va n : Nat) (hM : WellShaped s) : WellShaped (codePage s vc ctx cidf va n).1 := by
  unfold codePage
  repeat' first
    | with_reducible assumption | with_reducible apply codeXlat_shaped | with_reducible apply touchCode_shaped | with_reducible apply foldl_shaped
    | with_reducible apply foldlPair_shaped | with_reducible refine fst_shaped (by assumption) ?_ | (intro _)
    | exact ⟨rfl, .inl rfl, rfl, rfl, id, id⟩ | exact ⟨rfl, rfl, rfl, rfl⟩ | rfl | split | dsimp only | assumption
    | with_reducible refine hub_shaped ?_

theorem codePages_shaped : ∀ (k : Nat) (s : State) (vc ctx cidf va n : Nat), WellShaped s → WellShaped (codePages k s vc ctx cidf va n).1
  | 0, _, _, _, _, _, _, h => h
  | k + 1, s, vc, ctx, cidf, va, n, h => by
    have h1 := codePage_shaped s vc ctx cidf va (min n (65536 - va % 65536)) h
    unfold codePages
    dsimp only
    split
    · rename_i e; rw [e] at h1
      split
      · exact h1
      · have h2 := codePages_shaped k _ vc ctx cidf (va + min n (65536 - va % 65536)) (n - min n (65536 - va % 65536)) h1
        split
        · rename_i e2; rw [e2] at h2; exact h2
        · exact h2
    · exact h1

theorem codeBytes_shaped (s : State) (vc ctx cidf va n : Nat) (hM : WellShaped s) : WellShaped (codeBytes s vc ctx cidf va n).1 := by
  unfold codeBytes
  repeat' first
    | with_reducible assumption | with_reducible apply codePages_shaped | (intro _) | exact ⟨rfl, .inl rfl, rfl, rfl, id, id⟩
    | exact ⟨rfl, rfl, rfl, rfl⟩ | rfl | split | dsimp only | assumption

theorem parkFetch_shaped (s : State) (vc : Nat) (k : Fetch) (f : AccFault) (hM : WellShaped s) : WellShaped (parkFetch s vc k f) := by
  unfold parkFetch
  repeat' first
    | with_reducible assumption | with_reducible apply takeFault_shaped | with_reducible apply foldl_shaped | with_reducible apply foldlPair_shaped
    | with_reducible refine fst_shaped (by assumption) ?_ | (intro _) | exact ⟨rfl, .inl rfl, rfl, rfl, id, id⟩ | exact ⟨rfl, rfl, rfl, rfl⟩ | rfl
    | split | dsimp only | assumption

theorem parkGone_shaped (s : State) (vc ctx : Nat) (p : SegPtr) (g : Option Nat) (hM : WellShaped s) : WellShaped (parkGone s vc ctx p g) := by
  unfold parkGone
  repeat' first
    | with_reducible assumption | with_reducible apply takeFault_shaped | with_reducible apply foldl_shaped | with_reducible apply foldlPair_shaped
    | with_reducible refine fst_shaped (by assumption) ?_ | (intro _) | exact ⟨rfl, .inl rfl, rfl, rfl, id, id⟩ | exact ⟨rfl, rfl, rfl, rfl⟩ | rfl
    | split | dsimp only | assumption

theorem malformed_shaped (s : State) (vc ctx : Nat) (p : SegPtr) (g : Option Nat) (addr : Nat) (f : Nat × Nat) (hM : WellShaped s) : WellShaped (malformed s vc ctx p g addr f) := by
  unfold malformed
  repeat' first
    | with_reducible assumption | with_reducible apply modThread_shaped | with_reducible apply modCore_shaped | with_reducible apply postEvent_shaped
    | with_reducible apply settleEntries_shaped | with_reducible apply foldl_shaped | with_reducible apply foldlPair_shaped
    | with_reducible refine fst_shaped (by assumption) ?_ | (intro _) | exact ⟨rfl, .inl rfl, rfl, rfl, id, id⟩ | exact ⟨rfl, rfl, rfl, rfl⟩ | rfl
    | split | dsimp only | assumption | refine CoreShaped.of_sub (by assumption) ?_ ?_ ?_ ?_ ?_ | exact Nat.le_refl _
    | exact List.length_filter_le _ _ | exact List.Sublist.refl _ | exact List.filter_sublist.map _ | exact modWhere_sublist fun _ => rfl
    | exact clearFrame_keeps _ _ | exact ⟨rfl, .inl rfl, rfl, rfl, by simp, by simp⟩ | exact ⟨rfl, .inr rfl, rfl, rfl, by simp, by simp⟩

theorem readDiros_shaped (s : State) (f : Fetch) (vc addr : Nat) (hM : WellShaped s) : WellShaped (readDiros s f vc addr).1 := by
  unfold readDiros
  repeat' first
    | with_reducible assumption | with_reducible apply codeBytes_shaped | with_reducible refine fst_shaped (by assumption) ?_ | (intro _)
    | exact ⟨rfl, .inl rfl, rfl, rfl, id, id⟩ | exact ⟨rfl, rfl, rfl, rfl⟩ | rfl | split | dsimp only | assumption

theorem noteTranslation_shaped (s : State) (t : Translation) (hM : WellShaped s) : WellShaped (noteTranslation s t) := hM

theorem palairBytes_shaped (s : State) (f : Fetch) (vc addr size : Nat) (hM : WellShaped s) : WellShaped (palairBytes s f vc addr size).1 := by
  unfold palairBytes
  repeat' first
    | with_reducible assumption | with_reducible apply codeBytes_shaped | with_reducible refine fst_shaped (by assumption) ?_ | (intro _)
    | exact ⟨rfl, .inl rfl, rfl, rfl, id, id⟩ | exact ⟨rfl, rfl, rfl, rfl⟩ | rfl | split | dsimp only | assumption

theorem readPalair_shaped (s : State) (f : Fetch) (vc addr cid size : Nat) (hM : WellShaped s) : WellShaped (readPalair s f vc addr cid size).1 := by
  unfold readPalair
  repeat' first
    | with_reducible assumption | with_reducible apply noteTranslation_shaped | with_reducible apply palairBytes_shaped
    | with_reducible refine fst_shaped (by assumption) ?_ | (intro _) | exact ⟨rfl, .inl rfl, rfl, rfl, id, id⟩ | exact ⟨rfl, rfl, rfl, rfl⟩ | rfl
    | split | dsimp only | assumption

theorem readSegment_shaped (s : State) (f : Fetch) (vc : Nat) (e : SegEnt) (addr cid : Nat) (hM : WellShaped s) : WellShaped (readSegment s f vc e addr cid).1 := by
  unfold readSegment
  repeat' first
    | with_reducible assumption | with_reducible apply readDiros_shaped | with_reducible apply readPalair_shaped
    | with_reducible refine fst_shaped (by assumption) ?_ | (intro _) | exact ⟨rfl, .inl rfl, rfl, rfl, id, id⟩ | exact ⟨rfl, rfl, rfl, rfl⟩ | rfl
    | split | dsimp only | assumption

theorem leastBy_mem {α : Type} {key : α → Nat} : ∀ {l : List α} {a : α}, leastBy key l = some a → a ∈ l
  | [], _, h => by cases h
  | x :: r, a, h => by
    unfold leastBy at h
    cases hb : leastBy key r with
    | none => rw [hb] at h; exact Option.some.inj h ▸ List.mem_cons_self
    | some b =>
      rw [hb] at h
      dsimp only at h
      split at h
      · exact Option.some.inj h ▸ List.mem_cons_of_mem _ (leastBy_mem hb)
      · exact Option.some.inj h ▸ List.mem_cons_self

theorem bullpenPut?_shaped {c k : Core} {b : BullEnt} (e : bullpenPut? c b = some k) (h : CoreShaped c) : CoreShaped k := by
  unfold bullpenPut? at e
  split at e
  · rename_i hl
    cases e
    exact ⟨h.1, by simp; omega, h.2.2⟩
  · split at e
    · cases e
    · rename_i v hv
      cases e
      refine ⟨h.1, ?_, h.2.2⟩
      have hm : v ∈ c.bullpen := (List.mem_filter.mp (leastBy_mem hv)).1
      have := List.length_filter_lt_length_iff_exists (l := c.bullpen) (p := fun x => x != v) |>.mpr ⟨v, hm, by simp⟩
      have := h.2.1
      simp only [List.length_append, List.length_singleton]
      omega


theorem endFetch_shaped (s : State) (vc id : Nat) (hM : WellShaped s) : WellShaped (endFetch s vc id) := by
  unfold endFetch
  repeat' first
    | with_reducible assumption | with_reducible apply modCore_shaped | (intro _) | exact ⟨rfl, .inl rfl, rfl, rfl, id, id⟩
    | exact ⟨rfl, rfl, rfl, rfl⟩ | rfl | split | dsimp only | assumption | refine CoreShaped.of_sub (by assumption) ?_ ?_ ?_ ?_ ?_
    | exact Nat.le_refl _ | exact List.length_filter_le _ _ | exact List.Sublist.refl _ | exact List.filter_sublist.map _
    | exact modWhere_sublist fun _ => rfl

theorem refetch_shaped (s : State) (vc : Nat) (old : List BullEnt) (hM : WellShaped s) : WellShaped (refetch s vc old) := by
  unfold refetch
  repeat' first
    | with_reducible assumption | with_reducible apply wantConf_shaped | with_reducible apply foldl_shaped | with_reducible apply foldlPair_shaped
    | with_reducible refine fst_shaped (by assumption) ?_ | (intro _) | exact ⟨rfl, .inl rfl, rfl, rfl, id, id⟩ | exact ⟨rfl, rfl, rfl, rfl⟩ | rfl
    | split | dsimp only | assumption | with_reducible apply threadsMap_shaped | with_reducible apply threadsFilter_shaped

theorem fillBullpen_shaped (s : State) (vc : Nat) (f : Fetch) (hM : WellShaped s) : WellShaped (fillBullpen s vc f) := by
  unfold fillBullpen
  split
  · exact endFetch_shaped _ _ _ hM
  · split
    · rename_i c _ _ addr cid e _
      have h := readSegment_shaped s f vc e addr cid hM
      split
      · rename_i h1; exact fst_shaped h1 h
      · rename_i h1; exact parkFetch_shaped _ _ _ _ (endFetch_shaped _ _ _ (fst_shaped h1 h))
      · rename_i h1; exact malformed_shaped _ _ _ _ _ _ _ (endFetch_shaped _ _ _ (fst_shaped h1 h))
      · rename_i h1
        have h := fst_shaped h1 h
        split
        · exact malformed_shaped _ _ _ _ _ _ _ (endFetch_shaped _ _ _ h)
        · dsimp only
          split
          · exact endFetch_shaped _ _ _ h
          · split
            · exact h
            · rename_i k hk
              refine refetch_shaped _ _ _ (endFetch_shaped _ _ _ ?_)
              exact modCoreAt_shaped _ _ _ (fun h => CoreShaped.of_sub (bullpenPut?_shaped hk h) (Nat.le_refl _) (Nat.le_refl _) (.refl _) (.refl _) ⟨rfl, rfl, rfl, rfl⟩) h
    · exact parkGone_shaped _ _ _ _ _ (endFetch_shaped _ _ _ hM)


theorem takeSlot_shaped (s : State) (vc slot : Nat) (e : Entry) (g : Grid) (k : Conf) (hs : slot < 8) (hp : placeAt? s vc slot = none) (hM : WellShaped s) :
    WellShaped (takeSlot s vc slot e g k) := by
  unfold takeSlot
  split
  · exact malformed_shaped _ _ _ _ _ _ _ hM
  · dsimp only
    refine foldl_shaped (fun s n h => startFetch_shaped _ _ _ _ _ h) _ _ (modCoreAt_shaped _ _ _ (fun h => ?_) hM)
    refine ⟨h.1, Nat.le_trans (Nat.le_of_eq (List.length_map _)) h.2.1, ⟨?_, ?_⟩, ⟨?_, ?_⟩, h.2.2.2.2⟩
    · exact h.2.2.1.1.sublist (modWhere_sublist (f := fun x : Entry => { x with yielded := false }) fun _ => rfl)
    · intro x hx
      obtain ⟨y, hy, e | e⟩ := mem_modWhere hx
      · rw [e]; exact h.2.2.1.2 y hy
      · rw [e]; exact h.2.2.1.2 y hy
    · show (((core s vc).places ++ [_]).map fun p : Placement => p.slot).Nodup
      rw [List.map_append, List.nodup_append]
      refine ⟨h.2.2.2.1.1, by simp, ?_⟩
      intro a ha b hb e
      simp only [List.map_cons, List.map_nil, List.mem_singleton] at hb
      obtain ⟨x, hx, e1⟩ := List.mem_map.mp ha
      have := List.find?_eq_none.mp hp x hx
      simp only [beq_iff_eq] at this
      omega
    · intro x hx
      rcases List.mem_append.mp hx with hx | hx
      · exact h.2.2.2.1.2 x hx
      · rw [List.mem_singleton.mp hx]; exact hs


theorem freeSlot_shaped (s : State) (vc slot : Nat) (hM : WellShaped s) : WellShaped (freeSlot s vc slot) := by
  unfold freeSlot
  repeat' first
    | with_reducible assumption | with_reducible apply modCore_shaped | with_reducible apply settleEntries_shaped | (intro _)
    | exact ⟨rfl, .inl rfl, rfl, rfl, id, id⟩ | exact ⟨rfl, rfl, rfl, rfl⟩ | rfl | split | dsimp only | assumption
    | refine CoreShaped.of_sub (by assumption) ?_ ?_ ?_ ?_ ?_ | exact Nat.le_refl _ | exact List.length_filter_le _ _ | exact List.Sublist.refl _
    | exact List.filter_sublist.map _ | exact modWhere_sublist fun _ => rfl

theorem fillSlotAt_shaped (s : State) (vc slot : Nat) (hs : slot < 8) (hp : placeAt? s vc slot = none) (hM : WellShaped s) : WellShaped (fillSlotAt s vc slot) := by
  unfold fillSlotAt
  split
  · exact hM
  · split
    · exact hM
    · split
      · split
        · exact parkGone_shaped _ _ _ _ _ hM
        · exact takeSlot_shaped _ _ _ _ _ _ hs hp hM
      · exact hM


theorem admitThread_shaped (s : State) (p : Placement) (t : Thread) (tag : Nat) (hM : WellShaped s) : WellShaped (admitThread s p t tag) := by
  unfold admitThread
  repeat' first
    | with_reducible assumption | with_reducible apply modThread_shaped | with_reducible apply modPlace_shaped | with_reducible apply bumpMon_shaped
    | with_reducible apply invalidateL1_shaped | with_reducible apply statusAcquire_shaped | (intro _) | exact ⟨rfl, .inl rfl, rfl, rfl, id, id⟩
    | exact ⟨rfl, rfl, rfl, rfl⟩ | rfl | split | dsimp only | assumption | exact clearFrame_keeps _ _
    | exact ⟨rfl, .inl rfl, rfl, rfl, by simp, by simp⟩ | exact ⟨rfl, .inr rfl, rfl, rfl, by simp, by simp⟩

theorem useBank_shaped (s : State) (vc frame : Nat) (hM : WellShaped s) : WellShaped (useBank s vc frame) := by
  unfold useBank
  repeat' first
    | with_reducible assumption | with_reducible apply modCore_shaped | (intro _) | exact ⟨rfl, .inl rfl, rfl, rfl, id, id⟩
    | exact ⟨rfl, rfl, rfl, rfl⟩ | rfl | split | dsimp only | assumption | refine CoreShaped.of_sub (by assumption) ?_ ?_ ?_ ?_ ?_
    | exact Nat.le_refl _ | exact List.length_filter_le _ _ | exact List.Sublist.refl _ | exact List.filter_sublist.map _
    | exact modWhere_sublist fun _ => rfl

theorem enterStage_shaped (s : State) (p : Placement) (t : Thread) (n tag : Nat) (hM : WellShaped s) : WellShaped (enterStage s p t n tag) := by
  unfold enterStage
  repeat' first
    | with_reducible assumption | with_reducible apply modThread_shaped | with_reducible apply modPlace_shaped | (intro _)
    | exact ⟨rfl, .inl rfl, rfl, rfl, id, id⟩ | exact ⟨rfl, rfl, rfl, rfl⟩ | rfl | split | dsimp only | assumption | exact clearFrame_keeps _ _
    | exact ⟨rfl, .inl rfl, rfl, rfl, by simp, by simp⟩ | exact ⟨rfl, .inr rfl, rfl, rfl, by simp, by simp⟩

/-! Registers -/

theorem writeReq_shaped (s : State) (ctx : Nat) (r : Bool) (hM : WellShaped s) : WellShaped (writeReq s ctx r) := hM

theorem returnThread_shaped (s : State) (uid : Nat) (hM : WellShaped s) : WellShaped (returnThread s uid) := by
  unfold returnThread
  repeat' first
    | with_reducible assumption | with_reducible apply modGroup_shaped | with_reducible apply modThread_shaped
    | with_reducible apply retrySegment_shaped | with_reducible apply resumeThread_shaped | (intro _) | exact ⟨rfl, .inl rfl, rfl, rfl, id, id⟩
    | exact ⟨rfl, rfl, rfl, rfl⟩ | rfl | split | dsimp only | assumption | exact clearFrame_keeps _ _
    | exact ⟨rfl, .inl rfl, rfl, rfl, by simp, by simp⟩ | exact ⟨rfl, .inr rfl, rfl, rfl, by simp, by simp⟩ | exact modAt_length _ _ _

theorem retryCopies_shaped (s : State) (ctx page : Nat) (hM : WellShaped s) : WellShaped (retryCopies s ctx page) := by
  unfold retryCopies
  repeat' first
    | with_reducible assumption | (intro _) | exact ⟨rfl, .inl rfl, rfl, rfl, id, id⟩ | exact ⟨rfl, rfl, rfl, rfl⟩ | rfl | split | dsimp only
    | assumption | refine CoreShaped.of_sub (by assumption) ?_ ?_ ?_ ?_ ?_ | exact Nat.le_refl _ | exact List.length_filter_le _ _
    | exact List.Sublist.refl _ | exact List.filter_sublist.map _ | exact modWhere_sublist fun _ => rfl | with_reducible apply coresMap_shaped

theorem forgetPage_shaped (s : State) (ctx page : Nat) (hM : WellShaped s) : WellShaped (forgetPage s ctx page) := by
  unfold forgetPage
  repeat' first
    | with_reducible assumption | (intro _) | exact ⟨rfl, .inl rfl, rfl, rfl, id, id⟩ | exact ⟨rfl, rfl, rfl, rfl⟩ | rfl | split | dsimp only
    | assumption | with_reducible apply threadsMap_shaped | with_reducible apply threadsFilter_shaped

theorem resumeHub_shaped (s : State) (ctx page : Nat) (hM : WellShaped s) : WellShaped (resumeHub s ctx page) := by
  unfold resumeHub
  repeat' first
    | with_reducible assumption | with_reducible apply modCtx_shaped | with_reducible apply updatePredictor_shaped
    | with_reducible apply retestHeads_shaped | with_reducible apply retestWaits_shaped | with_reducible apply armNotify_shaped
    | with_reducible apply foldl_shaped | with_reducible apply foldlPair_shaped | with_reducible refine fst_shaped (by assumption) ?_ | (intro _)
    | exact ⟨rfl, .inl rfl, rfl, rfl, id, id⟩ | exact ⟨rfl, rfl, rfl, rfl⟩ | rfl | split | dsimp only | assumption
    | with_reducible refine hub_shaped ?_ | with_reducible refine ap_shaped ?_

theorem writeFuDone_shaped (s : State) (v : BitVec 64) (hM : WellShaped s) : WellShaped (writeFuDone s v) := by
  unfold writeFuDone
  repeat' first
    | with_reducible assumption | with_reducible apply returnThread_shaped | with_reducible apply retryCopies_shaped
    | with_reducible apply forgetPage_shaped | with_reducible apply resumeHub_shaped | with_reducible apply foldl_shaped
    | with_reducible apply foldlPair_shaped | with_reducible refine fst_shaped (by assumption) ?_ | (intro _)
    | exact ⟨rfl, .inl rfl, rfl, rfl, id, id⟩ | exact ⟨rfl, rfl, rfl, rfl⟩ | rfl | split | dsimp only | assumption
    | with_reducible refine hub_shaped ?_ | with_reducible apply threadsMap_shaped | with_reducible apply threadsFilter_shaped

theorem openQueues_shaped (s : State) (ctx : Nat) (hM : WellShaped s) : WellShaped (openQueues s ctx) := hM

theorem writeCtxReg_shaped (s : State) (ctx n : Nat) (v : BitVec 64) (hM : WellShaped s) : WellShaped (writeCtxReg s ctx n v) := by
  unfold writeCtxReg
  repeat' first
    | with_reducible assumption | with_reducible apply modCtx_shaped | with_reducible apply rewatch_shaped | with_reducible apply writeSigtN_shaped
    | with_reducible apply writeReq_shaped | with_reducible apply writeFuDone_shaped | with_reducible apply openQueues_shaped | (intro _)
    | exact ⟨rfl, .inl rfl, rfl, rfl, id, id⟩ | exact ⟨rfl, rfl, rfl, rfl⟩ | rfl | split | dsimp only | assumption

theorem remapCore_shaped (s : State) (n : Nat) (hM : WellShaped s) : WellShaped (remapCore s n) :=
  modCore_shaped _ _ _ (fun _ h => h.of_sub (Nat.zero_le _) (Nat.zero_le _) (List.Sublist.refl _) (List.Sublist.refl _) ⟨rfl, rfl, rfl, rfl⟩) hM

theorem writeVct_shaped (s : State) (n : Nat) (v : BitVec 32) (hM : WellShaped s) : WellShaped (writeVct s n v) := by
  unfold writeVct
  repeat' first
    | with_reducible assumption | with_reducible apply remapCore_shaped | (intro _) | exact ⟨rfl, .inl rfl, rfl, rfl, id, id⟩
    | exact ⟨rfl, rfl, rfl, rfl⟩ | rfl | split | dsimp only | assumption | with_reducible refine pkg_shaped ?_

theorem writeCtl_shaped (s : State) (ctx n : Nat) (v : BitVec 64) (hM : WellShaped s) : WellShaped (writeCtl s ctx n v) := by
  unfold writeCtl
  repeat' first
    | with_reducible assumption | with_reducible apply modCtx_shaped | with_reducible apply writeCtxReg_shaped | with_reducible apply writeVct_shaped
    | (intro _) | exact ⟨rfl, .inl rfl, rfl, rfl, id, id⟩ | exact ⟨rfl, rfl, rfl, rfl⟩ | rfl | split | dsimp only | assumption

theorem dropTlb_shaped (s : State) (p : TlbEnt → Bool) (hM : WellShaped s) : WellShaped (dropTlb s p) :=
  diesMap_shaped (f := fun d => { d with tlb := d.tlb.filter fun e => !p e }) (fun _ => List.length_filter_le _ _)
    (coresMap_shaped (f := fun k => { k with tlb := k.tlb.filter fun e => !p e })
      (fun _ h => h.of_sub (List.length_filter_le _ _) (Nat.le_refl _) (List.Sublist.refl _) (List.Sublist.refl _) ⟨rfl, rfl, rfl, rfl⟩) hM)

theorem tlbInvalidate_shaped (s : State) (ctx mode va : Nat) (hM : WellShaped s) : WellShaped (tlbInvalidate s ctx mode va) := by
  unfold tlbInvalidate
  repeat' first
    | with_reducible assumption | with_reducible apply rewatch_shaped | with_reducible apply forgetPage_shaped | with_reducible apply dropTlb_shaped
    | with_reducible apply foldl_shaped | with_reducible apply foldlPair_shaped | with_reducible refine fst_shaped (by assumption) ?_ | (intro _)
    | exact ⟨rfl, .inl rfl, rfl, rfl, id, id⟩ | exact ⟨rfl, rfl, rfl, rfl⟩ | rfl | split | dsimp only | assumption

theorem cacheInvalidate_shaped (s : State) (ctx mode : Nat) (hM : WellShaped s) : WellShaped (cacheInvalidate s ctx mode) := by
  unfold cacheInvalidate
  repeat' first
    | with_reducible assumption | (intro _) | exact ⟨rfl, .inl rfl, rfl, rfl, id, id⟩ | exact ⟨rfl, rfl, rfl, rfl⟩ | rfl | split | dsimp only
    | assumption | refine CoreShaped.of_sub (by assumption) ?_ ?_ ?_ ?_ ?_ | exact Nat.le_refl _ | exact List.length_filter_le _ _
    | exact List.Sublist.refl _ | exact List.filter_sublist.map _ | exact modWhere_sublist fun _ => rfl | with_reducible apply coresMap_shaped

/-! Tested -/

theorem watchNamed_shaped (s : State) (x : Site) (hM : WellShaped s) : WellShaped (watchNamed s x) := by
  unfold watchNamed
  repeat' first
    | with_reducible assumption | with_reducible apply watchSignal_shaped | with_reducible apply foldl_shaped | with_reducible apply foldlPair_shaped
    | with_reducible refine fst_shaped (by assumption) ?_ | (intro _) | exact ⟨rfl, .inl rfl, rfl, rfl, id, id⟩ | exact ⟨rfl, rfl, rfl, rfl⟩ | rfl
    | split | dsimp only | assumption

theorem awaitPages_shaped (s : State) (x : Site) (l : List Acc) (hM : WellShaped s) : WellShaped (awaitPages s x l) := by
  unfold awaitPages
  repeat' first
    | with_reducible assumption | with_reducible apply modThread_shaped | with_reducible apply addMiss_shaped | with_reducible apply foldl_shaped
    | with_reducible apply foldlPair_shaped | with_reducible refine fst_shaped (by assumption) ?_ | (intro _)
    | exact ⟨rfl, .inl rfl, rfl, rfl, id, id⟩ | exact ⟨rfl, rfl, rfl, rfl⟩ | rfl | split | dsimp only | assumption | exact clearFrame_keeps _ _
    | exact ⟨rfl, .inl rfl, rfl, rfl, by simp, by simp⟩ | exact ⟨rfl, .inr rfl, rfl, rfl, by simp, by simp⟩

theorem layMigrate_shaped (s : State) (x : Site) (dn : Nat) (large : Bool) (hM : WellShaped s) : WellShaped (layMigrate s x dn large) := by
  unfold layMigrate
  repeat' first
    | with_reducible assumption | with_reducible apply modThread_shaped | with_reducible apply copyMigrate_shaped | (intro _)
    | exact ⟨rfl, .inl rfl, rfl, rfl, id, id⟩ | exact ⟨rfl, rfl, rfl, rfl⟩ | rfl | split | dsimp only | assumption | exact clearFrame_keeps _ _
    | exact ⟨rfl, .inl rfl, rfl, rfl, by simp, by simp⟩ | exact ⟨rfl, .inr rfl, rfl, rfl, by simp, by simp⟩

theorem readRecords_shaped (s : State) (x : Site) (hM : WellShaped s) : WellShaped (readRecords s x).s := by
  unfold readRecords
  repeat' first
    | with_reducible assumption | with_reducible apply readLayout_shaped | with_reducible apply layMigrate_shaped | with_reducible apply foldl_shaped
    | with_reducible apply foldlPair_shaped | with_reducible apply foldlLay_shaped | with_reducible refine fst_shaped (by assumption) ?_ | (intro _)
    | exact ⟨rfl, .inl rfl, rfl, rfl, id, id⟩ | exact ⟨rfl, rfl, rfl, rfl⟩ | rfl | split | dsimp only | assumption

theorem walkShare_shaped (recs : List (Nat × Option (BitVec 512))) (x : Site) (s : State) (i : Nat) (hM : WellShaped s) : WellShaped (walkShare recs x s i) := by
  unfold walkShare
  repeat' first
    | with_reducible assumption | with_reducible apply copyXlat_shaped | with_reducible apply foldl_shaped | with_reducible apply foldlPair_shaped
    | with_reducible refine fst_shaped (by assumption) ?_ | (intro _) | exact ⟨rfl, .inl rfl, rfl, rfl, id, id⟩ | exact ⟨rfl, rfl, rfl, rfl⟩ | rfl
    | split | dsimp only | assumption

theorem readLayouts_shaped (s : State) (x : Site) (hM : WellShaped s) : WellShaped (readLayouts s x).s := by
  unfold readLayouts
  repeat' first
    | with_reducible assumption | with_reducible apply readRecords_shaped | with_reducible apply walkShare_shaped | with_reducible apply foldl_shaped
    | with_reducible apply foldlPair_shaped | with_reducible apply foldlLay_shaped | with_reducible refine fst_shaped (by assumption) ?_ | (intro _)
    | exact ⟨rfl, .inl rfl, rfl, rfl, id, id⟩ | exact ⟨rfl, rfl, rfl, rfl⟩ | rfl | split | dsimp only | assumption

theorem testCalli_shaped (s : State) (t : Thread) (tok : Tok) (idx r : Nat) (hM : WellShaped s) : WellShaped (testCalli s t tok idx r).1 := by
  unfold testCalli
  split
  · rename_i b
    dsimp only
    split
    · exact hM
    · have h := codeXlat_shaped s t.vc t.ctx (cidfOf s t) (b.toNat % 2 ^ 64) hM
      split
      · rename_i e; exact fst_shaped e h
      · rename_i e
        split <;> exact fst_shaped e h
  · exact hM


theorem testSuccWord_shaped (s : State) (x : Site) (i : Nat) (w : Instr) (sh : Shape) (hM : WellShaped s) : WellShaped (testSuccWord s x i w sh).1 := by
  unfold testSuccWord
  repeat' first
    | with_reducible assumption | with_reducible apply testCalli_shaped | (intro _) | exact ⟨rfl, .inl rfl, rfl, rfl, id, id⟩
    | exact ⟨rfl, rfl, rfl, rfl⟩ | rfl | split | dsimp only | assumption

theorem testSucc_shaped (s : State) (x : Site) (hM : WellShaped s) : WellShaped (testSucc s x).1 := by
  unfold testSucc
  repeat' first
    | with_reducible assumption | with_reducible apply testSuccWord_shaped | with_reducible refine fst_shaped (by assumption) ?_ | (intro _)
    | exact ⟨rfl, .inl rfl, rfl, rfl, id, id⟩ | exact ⟨rfl, rfl, rfl, rfl⟩ | rfl | split | dsimp only | assumption

/-! Passing -/

theorem passEffect_shaped (s : State) (x : Site) (ord : Nat) (kind : EffKind) (va w mt : Nat) (ga : Bool) (rel acq : Nat) (runs : Runs) (landed : Bool)
    (hM : WellShaped s) : WellShaped (passEffect s x ord kind va w mt ga rel acq runs landed).1 := newEffect_shaped rfl hM

theorem clearSlot_shaped (s : State) (uid n : Nat) (hM : WellShaped s) : WellShaped (clearSlot s uid n) := by
  unfold clearSlot
  repeat' first
    | with_reducible assumption | with_reducible apply modThread_shaped | (intro _) | exact ⟨rfl, .inl rfl, rfl, rfl, id, id⟩
    | exact ⟨rfl, rfl, rfl, rfl⟩ | rfl | split | dsimp only | assumption | exact clearFrame_keeps _ _
    | exact ⟨rfl, .inl rfl, rfl, rfl, by simp, by simp⟩ | exact ⟨rfl, .inr rfl, rfl, rfl, by simp, by simp⟩

theorem passStore_shaped (s : State) (x : Site) (ord : Nat) (a : Acc) (bs : List Byte) (ga : Bool) (rel : Nat) (hM : WellShaped s) : WellShaped (passStore s x ord a bs ga rel).1 := by
  unfold passStore
  repeat' first
    | with_reducible assumption | with_reducible apply passEffect_shaped | (intro _) | exact ⟨rfl, .inl rfl, rfl, rfl, id, id⟩
    | exact ⟨rfl, rfl, rfl, rfl⟩ | rfl | split | dsimp only | assumption

theorem passSts_shaped (s : State) (x : Site) (ord : Nat) (a : Acc) (bs : List Byte) (hM : WellShaped s) : WellShaped (passSts s x ord a bs).1 := by
  unfold passSts
  repeat' first
    | with_reducible assumption | with_reducible apply spadWrite_shaped | with_reducible apply noteLate_shaped
    | with_reducible apply passEffect_shaped | (intro _) | exact ⟨rfl, .inl rfl, rfl, rfl, id, id⟩ | exact ⟨rfl, rfl, rfl, rfl⟩ | rfl | split
    | dsimp only | assumption

theorem passPst_shaped (s : State) (x : Site) (ord ch : Nat) (a : Acc) (bs : List Byte) (hM : WellShaped s) : WellShaped (passPst s x ord ch a bs).1 := by
  unfold passPst
  repeat' first
    | with_reducible assumption | with_reducible apply postEvent_shaped | with_reducible apply openChannel_shaped
    | with_reducible apply bumpFlow_shaped | with_reducible apply passEffect_shaped | with_reducible refine fst_shaped (by assumption) ?_ | (intro _)
    | exact ⟨rfl, .inl rfl, rfl, rfl, id, id⟩ | exact ⟨rfl, rfl, rfl, rfl⟩ | rfl | split | dsimp only | assumption
    | with_reducible refine pkg_shaped ?_

theorem passResult_shaped (s : State) (x : Site) (ord w slot : Nat) (acq : Nat) (old : Nat) (hM : WellShaped s) : WellShaped (passResult s x ord w slot acq old).1 := by
  unfold passResult
  repeat' first
    | with_reducible assumption | with_reducible apply modEffect_shaped | with_reducible apply acquireOn_shaped
    | with_reducible apply landSlots_shaped | with_reducible apply passEffect_shaped | (intro _) | exact ⟨rfl, .inl rfl, rfl, rfl, id, id⟩
    | exact ⟨rfl, rfl, rfl, rfl⟩ | rfl | split | dsimp only | assumption

theorem passScratchAtomic_shaped (s : State) (x : Site) (ord op : Nat) (f : FmtT) (w off : Nat) (b c : BitVec 64) (hM : WellShaped s) : WellShaped (passScratchAtomic s x ord op f w off b c).1 := by
  unfold passScratchAtomic
  repeat' first
    | with_reducible assumption | with_reducible apply noteLate_shaped | with_reducible apply bankAtomic_shaped
    | with_reducible apply passEffect_shaped | with_reducible apply passResult_shaped | with_reducible refine fst_shaped (by assumption) ?_
    | (intro _) | exact ⟨rfl, .inl rfl, rfl, rfl, id, id⟩ | exact ⟨rfl, rfl, rfl, rfl⟩ | rfl | split | dsimp only | assumption

theorem passAtomic_shaped (s : State) (x : Site) (ord op : Nat) (f : FmtT) (float : Bool) (a : Acc) (b c : BitVec 64) (hM : WellShaped s) : WellShaped (passAtomic s x ord op f float a b c).1 := by
  unfold passAtomic
  repeat' first
    | with_reducible assumption | with_reducible apply passEffect_shaped | with_reducible apply passResult_shaped
    | with_reducible apply passScratchAtomic_shaped | with_reducible refine fst_shaped (by assumption) ?_ | (intro _)
    | exact ⟨rfl, .inl rfl, rfl, rfl, id, id⟩ | exact ⟨rfl, rfl, rfl, rfl⟩ | rfl | split | dsimp only | assumption

theorem passSignal_shaped (s : State) (x : Site) (ord op : Nat) (f : FmtT) (a : Acc) (b : BitVec 64) (hM : WellShaped s) : WellShaped (passSignal s x ord op f a b).1 := by
  unfold passSignal
  repeat' first
    | with_reducible assumption | with_reducible apply passEffect_shaped | (intro _) | exact ⟨rfl, .inl rfl, rfl, rfl, id, id⟩
    | exact ⟨rfl, rfl, rfl, rfl⟩ | rfl | split | dsimp only | assumption

theorem passFence_shaped (s : State) (x : Site) (ord : Nat) (f : FmtS) (hM : WellShaped s) : WellShaped (passFence s x ord f).1 := by
  unfold passFence
  repeat' first
    | with_reducible assumption | with_reducible apply acquireOn_shaped | with_reducible apply passEffect_shaped | (intro _)
    | exact ⟨rfl, .inl rfl, rfl, rfl, id, id⟩ | exact ⟨rfl, rfl, rfl, rfl⟩ | rfl | split | dsimp only | assumption

theorem passCwb_shaped (s : State) (x : Site) (ord : Nat) (f : FmtM) (a : Acc) (hM : WellShaped s) : WellShaped (passCwb s x ord f a).1 := by
  unfold passCwb
  repeat' first
    | with_reducible assumption | with_reducible apply passEffect_shaped | (intro _) | exact ⟨rfl, .inl rfl, rfl, rfl, id, id⟩
    | exact ⟨rfl, rfl, rfl, rfl⟩ | rfl | split | dsimp only | assumption

theorem passLaunch_shaped (s : State) (x : Site) (ord : Nat) (a : Acc) (hM : WellShaped s) : WellShaped (passLaunch s x ord a).1 := by
  unfold passLaunch
  repeat' first
    | with_reducible assumption | with_reducible apply passEffect_shaped | (intro _) | exact ⟨rfl, .inl rfl, rfl, rfl, id, id⟩
    | exact ⟨rfl, rfl, rfl, rfl⟩ | rfl | split | dsimp only | assumption

theorem spawned_keeps (uid : Nat) (t : Thread) (frame sidx : Nat) (payload : List Tok) :
    let u := spawned uid t frame sidx payload
    u.uid = uid ∧ u.vc = t.vc ∧ u.frame = frame ∧ u.slots.length = 64 ∧ u.xs.length = 8 := by
  have h := foldl_keeps (f := fun t (p : Tok × Nat) => wrTok t p.2 false p.1) (fun t p => wrTok_keeps t p.2 false p.1)
    (payload.zip (List.range payload.length)) { clearFrame t with
      uid := uid, frame := frame, resident := true, tid := 0x10000 + frame, detached := true, depth := t.depth + 1, ptr := { t.ptr with sidx := sidx }
      st := .moving, seq := 0, parkAt := 0, ackLost := [], ackRec := none, parkLarge := false, owesYield := false, bitAt := none, statusAt := [] }
  exact ⟨h.1, h.2.2.1, h.2.2.2.1, h.2.2.2.2.1 (List.length_replicate ..), h.2.2.2.2.2 (List.length_replicate ..)⟩

theorem passSpawn_shaped (s : State) (x : Site) (ord : Nat) (f : FmtN) (payload : List Tok) (hM : WellShaped s) :
    WellShaped (passSpawn s x ord f payload).1 := by
  unfold passSpawn
  split
  · exact hM
  · rename_i frame r hr
    have hf := spawnFrames_free (s := s) (vc := x.t.vc) (d := x.t.depth + 1) (f := frame) (by rw [hr]; exact List.mem_cons_self)
    obtain ⟨k1, k2, k3, k4, k5⟩ := spawned_keeps s.nextId x.t frame f.sa.toNat payload
    have hj : ∀ n, s.nextId < n → ThreadsShaped (s.threads ++ [spawned s.nextId x.t frame f.sa.toNat payload]) n := fun n hn =>
      hM.1.join (by omega) (by omega) (by rw [k2, k3]; exact hf) k4 k5
    dsimp only [fresh]
    split
    · exact setWaiting_shaped _ _ (threads_shaped (hj _ (Nat.lt_succ_self _)) (fresh_shaped s hM))
    · have he := passEffect_shaped (fresh s).2 x ord (.fence 3) 0 0 0 false 1 0 [] false (fresh_shaped s hM)
      exact threads_shaped (hM.1.join (by show s.nextId ≤ (spawned s.nextId x.t frame f.sa.toNat payload).uid; omega)
        (by show (spawned s.nextId x.t frame f.sa.toNat payload).uid < s.nextId + 1 + 1; omega)
        (by show ∀ t ∈ s.threads, t.resident = true → t.vc = (spawned s.nextId x.t frame f.sa.toNat payload).vc →
              t.frame ≠ (spawned s.nextId x.t frame f.sa.toNat payload).frame
            rw [k2, k3]; exact hf) k4 k5) he

theorem passCopy_shaped (s : State) (x : Site) (ord : Nat) (i : Instr) (f : FmtE) (sh : Shape) (layout : Option (BitVec 512)) (hM : WellShaped s) : WellShaped (passCopy s x ord i f sh layout).1 := by
  unfold passCopy
  repeat' first
    | with_reducible assumption | with_reducible apply fresh_shaped | with_reducible apply modCore_shaped | with_reducible apply clearLine_shaped
    | with_reducible apply clearSlot_shaped | with_reducible apply foldl_shaped | with_reducible apply foldlPair_shaped
    | with_reducible refine fst_shaped (by assumption) ?_ | with_reducible refine snd_shaped (by assumption) ?_ | (intro _)
    | exact ⟨rfl, .inl rfl, rfl, rfl, id, id⟩ | exact ⟨rfl, rfl, rfl, rfl⟩ | rfl | split | dsimp only | assumption
    | refine CoreShaped.of_sub (by assumption) ?_ ?_ ?_ ?_ ?_ | exact Nat.le_refl _ | exact List.length_filter_le _ _ | exact List.Sublist.refl _
    | exact List.filter_sublist.map _ | exact modWhere_sublist fun _ => rfl

theorem passOp_shaped (s : State) (x : Site) (word : BitVec 32) (a : Nat) (hM : WellShaped s) : WellShaped (passOp s x word a) := by
  unfold passOp
  repeat' first
    | with_reducible assumption | with_reducible apply fresh_shaped | with_reducible apply modCore_shaped
    | with_reducible refine fst_shaped (by assumption) ?_ | with_reducible refine snd_shaped (by assumption) ?_ | (intro _)
    | exact ⟨rfl, .inl rfl, rfl, rfl, id, id⟩ | exact ⟨rfl, rfl, rfl, rfl⟩ | rfl | split | dsimp only | assumption
    | refine CoreShaped.of_sub (by assumption) ?_ ?_ ?_ ?_ ?_ | exact Nat.le_refl _ | exact List.length_filter_le _ _ | exact List.Sublist.refl _
    | exact List.filter_sublist.map _ | exact modWhere_sublist fun _ => rfl

theorem passUnit_shaped (s : State) (x : Site) (f : FmtE) (a : Nat) (u : EUnit) (hM : WellShaped s) : WellShaped (passUnit s x f a u) := by
  unfold passUnit
  repeat' first
    | with_reducible assumption | with_reducible apply passOp_shaped | (intro _) | exact ⟨rfl, .inl rfl, rfl, rfl, id, id⟩
    | exact ⟨rfl, rfl, rfl, rfl⟩ | rfl | split | dsimp only | assumption

theorem passRelease_shaped (s : State) (x : Site) (f : FmtE) (a : Nat) (hM : WellShaped s) : WellShaped (passRelease s x f a) := by
  unfold passRelease
  repeat' first
    | with_reducible assumption | with_reducible apply passUnit_shaped | with_reducible apply foldl_shaped | with_reducible apply foldlPair_shaped
    | with_reducible refine fst_shaped (by assumption) ?_ | (intro _) | exact ⟨rfl, .inl rfl, rfl, rfl, id, id⟩ | exact ⟨rfl, rfl, rfl, rfl⟩ | rfl
    | split | dsimp only | assumption

theorem passClaim_shaped (s : State) (x : Site) (f : FmtE) (a : Nat) (hM : WellShaped s) : WellShaped (passClaim s x f a) := by
  unfold passClaim
  repeat' first
    | with_reducible assumption | with_reducible apply claimUnit_shaped | with_reducible apply passUnit_shaped | with_reducible apply foldl_shaped
    | with_reducible apply foldlPair_shaped | with_reducible refine fst_shaped (by assumption) ?_ | (intro _)
    | exact ⟨rfl, .inl rfl, rfl, rfl, id, id⟩ | exact ⟨rfl, rfl, rfl, rfl⟩ | rfl | split | dsimp only | assumption

theorem passTacst_shaped (s : State) (x : Site) (f : FmtE) (a : Nat) (hM : WellShaped s) : WellShaped (passTacst s x f a) := by
  unfold passTacst
  repeat' first
    | with_reducible assumption | with_reducible apply clearLine_shaped | with_reducible apply clearSlot_shaped | with_reducible apply passOp_shaped
    | with_reducible apply foldl_shaped | with_reducible apply foldlPair_shaped | with_reducible refine fst_shaped (by assumption) ?_ | (intro _)
    | exact ⟨rfl, .inl rfl, rfl, rfl, id, id⟩ | exact ⟨rfl, rfl, rfl, rfl⟩ | rfl | split | dsimp only | assumption

theorem passSpres_shaped (s : State) (x : Site) (f : FmtE) (a b : Nat) (hM : WellShaped s) : WellShaped (passSpres s x f a b) := by
  unfold passSpres
  repeat' first
    | with_reducible assumption | with_reducible apply modCore_shaped | with_reducible apply landStatus_shaped | (intro _)
    | exact ⟨rfl, .inl rfl, rfl, rfl, id, id⟩ | exact ⟨rfl, rfl, rfl, rfl⟩ | rfl | split | dsimp only | assumption
    | refine CoreShaped.of_sub (by assumption) ?_ ?_ ?_ ?_ ?_ | exact Nat.le_refl _ | exact List.length_filter_le _ _ | exact List.Sublist.refl _
    | exact List.filter_sublist.map _ | exact modWhere_sublist fun _ => rfl

theorem passSfree_shaped (s : State) (x : Site) (f : FmtE) (hM : WellShaped s) : WellShaped (passSfree s x f) := by
  unfold passSfree
  repeat' first
    | with_reducible assumption | with_reducible apply modRing_shaped | (intro _) | exact ⟨rfl, .inl rfl, rfl, rfl, id, id⟩
    | exact ⟨rfl, rfl, rfl, rfl⟩ | rfl | split | dsimp only | assumption

theorem passWord_shaped (s : State) (x : Site) (ord : Nat) (i : Instr) (sh : Shape) (layout : Option (BitVec 512)) (hM : WellShaped s) : WellShaped (passWord s x ord i sh layout).1 := by
  unfold passWord
  repeat' first
    | with_reducible assumption | with_reducible apply modGroup_shaped | with_reducible apply clearSlot_shaped | with_reducible apply passStore_shaped
    | with_reducible apply passSts_shaped | with_reducible apply passPst_shaped | with_reducible apply passAtomic_shaped
    | with_reducible apply passSignal_shaped | with_reducible apply passFence_shaped | with_reducible apply passCwb_shaped
    | with_reducible apply passLaunch_shaped | with_reducible apply passSpawn_shaped | with_reducible apply passCopy_shaped
    | with_reducible apply passOp_shaped | with_reducible apply passRelease_shaped | with_reducible apply passClaim_shaped
    | with_reducible apply passTacst_shaped | with_reducible apply passSpres_shaped | with_reducible apply passSfree_shaped
    | with_reducible refine fst_shaped (by assumption) ?_ | (intro _) | exact ⟨rfl, .inl rfl, rfl, rfl, id, id⟩ | exact ⟨rfl, rfl, rfl, rfl⟩ | rfl
    | split | dsimp only | assumption | exact modAt_length _ _ _

theorem passOrdinals_shaped (s : State) (x : Site) (recs : List (Nat × Option (BitVec 512))) (hM : WellShaped s) : WellShaped (passOrdinals s x recs).1 := by
  unfold passOrdinals
  repeat' first
    | with_reducible assumption | with_reducible apply passWord_shaped | with_reducible apply foldl_shaped | with_reducible apply foldlPair_shaped
    | with_reducible refine fst_shaped (by assumption) ?_ | (intro _) | exact ⟨rfl, .inl rfl, rfl, rfl, id, id⟩ | exact ⟨rfl, rfl, rfl, rfl⟩ | rfl
    | split | dsimp only | assumption

theorem passBar_shaped (s : State) (x : Site) (f : FmtS) (hM : WellShaped s) : WellShaped (passBar s x f).1 := by
  unfold passBar
  repeat' first
    | with_reducible assumption | with_reducible apply modGroup_shaped | (intro _) | exact ⟨rfl, .inl rfl, rfl, rfl, id, id⟩
    | exact ⟨rfl, rfl, rfl, rfl⟩ | rfl | split | dsimp only | assumption | exact modAt_length _ _ _ | exact List.length_map _

theorem passGwaitWord_shaped (s : State) (x : Site) (f : FmtS) (a b : Nat) (hM : WellShaped s) : WellShaped (passGwaitWord s x f a b).1 := by
  unfold passGwaitWord
  repeat' first
    | with_reducible assumption | with_reducible apply modGroup_shaped | (intro _) | exact ⟨rfl, .inl rfl, rfl, rfl, id, id⟩
    | exact ⟨rfl, rfl, rfl, rfl⟩ | rfl | split | dsimp only | assumption | exact modAt_length _ _ _

theorem contribute_bars (s : State) (x : Site) (tok : Tok) (g : Group) : (contribute s x tok g).bars = g.bars := by
  unfold contribute; dsimp only; split <;> rfl


theorem passColl_shaped (s : State) (x : Site) (f : FmtA) (sh : Shape) (hM : WellShaped s) : WellShaped (passColl s x f sh).1 := by
  unfold passColl
  dsimp only
  split
  · exact hM
  · exact modGroup_shaped _ _ _ _ (fun g => by rw [contribute_bars]) hM


theorem passXput_shaped (s : State) (x : Site) (f : FmtL) (tok : Tok) (hM : WellShaped s) : WellShaped (passXput s x f tok) := by
  unfold passXput
  repeat' first
    | with_reducible assumption | with_reducible apply modThread_shaped | (intro _) | exact ⟨rfl, .inl rfl, rfl, rfl, id, id⟩
    | exact ⟨rfl, rfl, rfl, rfl⟩ | rfl | split | dsimp only | assumption | exact clearFrame_keeps _ _
    | exact ⟨rfl, .inl rfl, rfl, rfl, by simp, by simp⟩ | exact ⟨rfl, .inr rfl, rfl, rfl, by simp, by simp⟩

theorem passXclr_shaped (s : State) (x : Site) (f : FmtL) (hM : WellShaped s) : WellShaped (passXclr s x f) := by
  unfold passXclr
  repeat' first
    | with_reducible assumption | with_reducible apply modThread_shaped | (intro _) | exact ⟨rfl, .inl rfl, rfl, rfl, id, id⟩
    | exact ⟨rfl, rfl, rfl, rfl⟩ | rfl | split | dsimp only | assumption | exact clearFrame_keeps _ _
    | exact ⟨rfl, .inl rfl, rfl, rfl, by simp, by simp⟩ | exact ⟨rfl, .inr rfl, rfl, rfl, by simp, by simp⟩

theorem passTlbinv_shaped (s : State) (x : Site) (f : FmtS) (a : Nat) (hM : WellShaped s) : WellShaped (passTlbinv s x f a) := by
  unfold passTlbinv
  repeat' first
    | with_reducible assumption | with_reducible apply tlbInvalidate_shaped | (intro _) | exact ⟨rfl, .inl rfl, rfl, rfl, id, id⟩
    | exact ⟨rfl, rfl, rfl, rfl⟩ | rfl | split | dsimp only | assumption

theorem passCinv_shaped (s : State) (x : Site) (f : FmtS) (hM : WellShaped s) : WellShaped (passCinv s x f) := by
  unfold passCinv
  repeat' first
    | with_reducible assumption | with_reducible apply refetch_shaped | with_reducible apply cacheInvalidate_shaped
    | with_reducible apply foldl_shaped | with_reducible apply foldlPair_shaped | with_reducible refine fst_shaped (by assumption) ?_ | (intro _)
    | exact ⟨rfl, .inl rfl, rfl, rfl, id, id⟩ | exact ⟨rfl, rfl, rfl, rfl⟩ | rfl | split | dsimp only | assumption
    | refine CoreShaped.of_sub (by assumption) ?_ ?_ ?_ ?_ ?_ | exact Nat.le_refl _ | exact List.length_filter_le _ _ | exact List.Sublist.refl _
    | exact List.filter_sublist.map _ | exact modWhere_sublist fun _ => rfl | with_reducible apply coresMap_shaped

theorem passEvpost_shaped (s : State) (x : Site) (f : FmtS) (a : Nat) (hM : WellShaped s) : WellShaped (passEvpost s x f a) := by
  unfold passEvpost
  repeat' first
    | with_reducible assumption | with_reducible apply passEffect_shaped | (intro _) | exact ⟨rfl, .inl rfl, rfl, rfl, id, id⟩
    | exact ⟨rfl, rfl, rfl, rfl⟩ | rfl | split | dsimp only | assumption

theorem passImage_shaped (s : State) (x : Site) (f : FmtS) (save : Bool) (a b : Nat) (hM : WellShaped s) : WellShaped (passImage s x f save a b) := by
  unfold passImage
  repeat' first
    | with_reducible assumption | with_reducible apply passEffect_shaped | with_reducible apply clearSlot_shaped | (intro _)
    | exact ⟨rfl, .inl rfl, rfl, rfl, id, id⟩ | exact ⟨rfl, rfl, rfl, rfl⟩ | rfl | split | dsimp only | assumption

theorem passExchange_shaped (s : State) (x : Site) (hM : WellShaped s) : WellShaped (passExchange s x) := by
  unfold passExchange
  repeat' first
    | with_reducible assumption | with_reducible apply passXput_shaped | with_reducible apply passXclr_shaped | with_reducible apply foldl_shaped
    | with_reducible apply foldlPair_shaped | with_reducible refine fst_shaped (by assumption) ?_ | (intro _)
    | exact ⟨rfl, .inl rfl, rfl, rfl, id, id⟩ | exact ⟨rfl, rfl, rfl, rfl⟩ | rfl | split | dsimp only | assumption

theorem passOther_shaped (s : State) (x : Site) (i : Instr) (sh : Shape) (hM : WellShaped s) : WellShaped (passOther s x i sh).1 := by
  unfold passOther
  repeat' first
    | with_reducible assumption | with_reducible apply writeCtl_shaped | with_reducible apply passBar_shaped | with_reducible apply passTlbinv_shaped
    | with_reducible apply passCinv_shaped | with_reducible apply passEvpost_shaped | with_reducible apply passImage_shaped
    | with_reducible refine fst_shaped (by assumption) ?_ | (intro _) | exact ⟨rfl, .inl rfl, rfl, rfl, id, id⟩ | exact ⟨rfl, rfl, rfl, rfl⟩ | rfl
    | split | dsimp only | assumption

theorem passOthers_shaped (s : State) (x : Site) (hM : WellShaped s) : WellShaped (passOthers s x).1 := by
  unfold passOthers
  repeat' first
    | with_reducible assumption | with_reducible apply passGwaitWord_shaped | with_reducible apply passColl_shaped
    | with_reducible apply passExchange_shaped | with_reducible apply passOther_shaped | with_reducible apply foldl_shaped
    | with_reducible apply foldlPair_shaped | with_reducible refine fst_shaped (by assumption) ?_ | (intro _)
    | exact ⟨rfl, .inl rfl, rfl, rfl, id, id⟩ | exact ⟨rfl, rfl, rfl, rfl⟩ | rfl | split | dsimp only | assumption

/-! Commit -/

theorem commitSlots_keeps (s : State) (x : Site) (u : Succ) (t : Thread) : ThreadKeeps t (commitSlots s x u t) := by
  have h1 : ∀ t, ThreadKeeps t (writeOuts s x t) := fun t => by
    refine foldl_keeps (fun t i => ?_) _ t
    split
    · split
      · exact .refl _
      · exact wrTok_keeps _ _ _ _
    · exact .refl _
  have h2 : ∀ t, ThreadKeeps t (writeLink x u t) := fun t => by
    unfold writeLink
    split
    · exact wrTok_keeps _ _ _ _
    · exact .refl _
  have h3 : ∀ t, ThreadKeeps t (writeConds s x t) := fun t => by
    unfold writeConds
    dsimp only
    split
    · exact .refl _
    · exact wrTok_keeps _ _ _ _
  exact ((h1 t).trans (h2 _)).trans (h3 _)


theorem uniformityMiss_shaped (s : State) (vc ctx : Nat) (hM : WellShaped s) : WellShaped (uniformityMiss s vc ctx) := hM

theorem noteExit_shaped (s : State) (x : Site) (u : Succ) (hM : WellShaped s) : WellShaped (noteExit s x u) := by
  unfold noteExit
  repeat' first
    | with_reducible assumption | with_reducible apply uniformityMiss_shaped | (intro _) | exact ⟨rfl, .inl rfl, rfl, rfl, id, id⟩
    | exact ⟨rfl, rfl, rfl, rfl⟩ | rfl | split | dsimp only | assumption

theorem modOwnPlace_shaped (s : State) (vc : Nat) (p : Placement) (f : Placement → Placement) (hf : ∀ p, (f p).slot = p.slot) (hM : WellShaped s) :
    WellShaped (modOwnPlace s vc p f) :=
  modCore_shaped _ _ _ (fun _ h => h.of_sub (Nat.le_refl _) (Nat.le_refl _) (List.Sublist.refl _) (modWhere_sublist hf) ⟨rfl, rfl, rfl, rfl⟩) hM

theorem noteUniform_shaped (s : State) (x : Site) (u : Succ) (hM : WellShaped s) : WellShaped (noteUniform s x u) := by
  unfold noteUniform
  repeat' first
    | with_reducible assumption | with_reducible apply startFetch_shaped | with_reducible apply uniformityMiss_shaped
    | with_reducible apply modOwnPlace_shaped | (intro _) | exact ⟨rfl, .inl rfl, rfl, rfl, id, id⟩ | exact ⟨rfl, rfl, rfl, rfl⟩ | rfl | split
    | dsimp only | assumption

theorem yieldEntry_shaped (s : State) (vc grid : Nat) (p : SegPtr) (hM : WellShaped s) : WellShaped (yieldEntry s vc grid p) := by
  unfold yieldEntry
  repeat' first
    | with_reducible assumption | with_reducible apply modCore_shaped | (intro _) | exact ⟨rfl, .inl rfl, rfl, rfl, id, id⟩
    | exact ⟨rfl, rfl, rfl, rfl⟩ | rfl | split | dsimp only | assumption | refine CoreShaped.of_sub (by assumption) ?_ ?_ ?_ ?_ ?_
    | exact Nat.le_refl _ | exact List.length_filter_le _ _ | exact List.Sublist.refl _ | exact List.filter_sublist.map _
    | exact modWhere_sublist fun _ => rfl

theorem finishMove_shaped (s : State) (uid : Nat) (hM : WellShaped s) : WellShaped (finishMove s uid) := by
  unfold finishMove
  repeat' first
    | with_reducible assumption | with_reducible apply modThread_shaped | with_reducible apply setWaiting_shaped
    | with_reducible apply leaveThread_shaped | (intro _) | exact ⟨rfl, .inl rfl, rfl, rfl, id, id⟩ | exact ⟨rfl, rfl, rfl, rfl⟩ | rfl | split
    | dsimp only | assumption | exact clearFrame_keeps _ _ | exact ⟨rfl, .inl rfl, rfl, rfl, by simp, by simp⟩
    | exact ⟨rfl, .inr rfl, rfl, rfl, by simp, by simp⟩

theorem moveIfOver_shaped (s : State) (uid : Nat) (hM : WellShaped s) : WellShaped (moveIfOver s uid) := by
  unfold moveIfOver
  repeat' first
    | with_reducible assumption | with_reducible apply finishMove_shaped | (intro _) | exact ⟨rfl, .inl rfl, rfl, rfl, id, id⟩
    | exact ⟨rfl, rfl, rfl, rfl⟩ | rfl | split | dsimp only | assumption

theorem noteYield_shaped (s : State) (x : Site) (u : Succ) (hM : WellShaped s) : WellShaped (noteYield s x u) := by
  unfold noteYield
  repeat' first
    | with_reducible assumption | with_reducible apply yieldEntry_shaped | (intro _) | exact ⟨rfl, .inl rfl, rfl, rfl, id, id⟩
    | exact ⟨rfl, rfl, rfl, rfl⟩ | rfl | split | dsimp only | assumption

theorem noteCommit_shaped (s : State) (t : Thread) (hM : WellShaped s) : WellShaped (noteCommit s t) := by
  unfold noteCommit
  repeat' first
    | with_reducible assumption | with_reducible apply modCore_shaped | (intro _) | exact ⟨rfl, .inl rfl, rfl, rfl, id, id⟩
    | exact ⟨rfl, rfl, rfl, rfl⟩ | rfl | split | dsimp only | assumption | refine CoreShaped.of_sub (by assumption) ?_ ?_ ?_ ?_ ?_
    | exact Nat.le_refl _ | exact List.length_filter_le _ _ | exact List.Sublist.refl _ | exact List.filter_sublist.map _
    | exact modWhere_sublist fun _ => rfl

theorem commitInst_shaped (s : State) (x : Site) (u : Succ) (recs : List (Nat × Option (BitVec 512))) (hM : WellShaped s) : WellShaped (commitInst s x u recs) := by
  unfold commitInst
  dsimp only
  refine settleEntries_shaped _ _ (moveIfOver_shaped _ _ (settleGroup_shaped _ _ _ (testNow_shaped _ _ _ (settleOps_shaped _ _ (settleEffects_shaped _
    (bumpMon_shaped _ _ _ _ (modThread_shaped _ _ _ (fun _ => ⟨rfl, .inl rfl, rfl, rfl, id, id⟩) (passOthers_shaped _ _ (passOrdinals_shaped _ _ _ ?_)))))))))
  exact noteYield_shaped _ _ _ (noteUniform_shaped _ _ _ (noteExit_shaped _ _ _ (modThread_shaped _ _ _ (commitSlots_keeps s x u)
    (noteCommit_shaped _ _ (sampleCore_shaped _ _ _ _ hM)))))


theorem rerun_shaped (s : State) (uid : Nat) (hM : WellShaped s) : WellShaped (rerun s uid) := by
  unfold rerun
  repeat' first
    | with_reducible assumption | with_reducible apply setWaiting_shaped | with_reducible apply abortInst_shaped | (intro _)
    | exact ⟨rfl, .inl rfl, rfl, rfl, id, id⟩ | exact ⟨rfl, rfl, rfl, rfl⟩ | rfl | split | dsimp only | assumption

theorem holdInst_shaped (s : State) (x : Site) (hM : WellShaped s) : WellShaped (holdInst s x) := by
  unfold holdInst
  repeat' first
    | with_reducible assumption | with_reducible apply modThread_shaped | with_reducible apply rerun_shaped | (intro _)
    | exact ⟨rfl, .inl rfl, rfl, rfl, id, id⟩ | exact ⟨rfl, rfl, rfl, rfl⟩ | rfl | split | dsimp only | assumption | exact clearFrame_keeps _ _
    | exact ⟨rfl, .inl rfl, rfl, rfl, by simp, by simp⟩ | exact ⟨rfl, .inr rfl, rfl, rfl, by simp, by simp⟩

theorem waitInst_shaped (s : State) (x : Site) (reason : Nat) (hM : WellShaped s) : WellShaped (waitInst s x reason) := by
  unfold waitInst
  repeat' first
    | with_reducible assumption | with_reducible apply modThread_shaped | with_reducible apply rerun_shaped | (intro _)
    | exact ⟨rfl, .inl rfl, rfl, rfl, id, id⟩ | exact ⟨rfl, rfl, rfl, rfl⟩ | rfl | split | dsimp only | assumption | exact clearFrame_keeps _ _
    | exact ⟨rfl, .inl rfl, rfl, rfl, by simp, by simp⟩ | exact ⟨rfl, .inr rfl, rfl, rfl, by simp, by simp⟩

theorem commitTested_shaped (s : State) (x : Site) (hM : WellShaped s) : WellShaped (commitTested s x) := by
  unfold commitTested
  repeat' first
    | with_reducible assumption | with_reducible apply takeFault_shaped | with_reducible apply readLayouts_shaped
    | with_reducible apply testSucc_shaped | with_reducible apply commitInst_shaped | with_reducible apply holdInst_shaped
    | with_reducible apply waitInst_shaped | with_reducible refine fst_shaped (by assumption) ?_ | (intro _) | exact ⟨rfl, .inl rfl, rfl, rfl, id, id⟩
    | exact ⟨rfl, rfl, rfl, rfl⟩ | rfl | split | dsimp only | assumption

theorem commitScan_shaped (s : State) (x : Site) (n : Nat) (whole : Bool) (hM : WellShaped s) : WellShaped (commitScan s x n whole) := by
  unfold commitScan
  repeat' first
    | with_reducible assumption | with_reducible apply takeFault_shaped | with_reducible apply watchNamed_shaped
    | with_reducible apply awaitPages_shaped | with_reducible apply commitTested_shaped | (intro _) | exact ⟨rfl, .inl rfl, rfl, rfl, id, id⟩
    | exact ⟨rfl, rfl, rfl, rfl⟩ | rfl | split | dsimp only | assumption

theorem tryCommit_shaped (s : State) (vc frame : Nat) (force : Bool) (hM : WellShaped s) : WellShaped (tryCommit s vc frame force) := by
  unfold tryCommit
  repeat' first
    | with_reducible assumption | with_reducible apply parkAckLoss_shaped | with_reducible apply commitScan_shaped | (intro _)
    | exact ⟨rfl, .inl rfl, rfl, rfl, id, id⟩ | exact ⟨rfl, rfl, rfl, rfl⟩ | rfl | split | dsimp only | assumption

/-! Faults -/

theorem barrierStall_shaped (s : State) (gr : Group) (w : Nat) (hM : WellShaped s) : WellShaped (barrierStall s gr w) := by
  unfold barrierStall
  repeat' first
    | with_reducible assumption | with_reducible apply modGroup_shaped | with_reducible apply postEvent_shaped | (intro _)
    | exact ⟨rfl, .inl rfl, rfl, rfl, id, id⟩ | exact ⟨rfl, rfl, rfl, rfl⟩ | rfl | split | dsimp only | assumption | exact modAt_length _ _ _
    | exact List.length_map _

theorem heldCommitStall_shaped (s : State) (t : Thread) (hM : WellShaped s) : WellShaped (heldCommitStall s t) := by
  unfold heldCommitStall
  repeat' first
    | with_reducible assumption | with_reducible apply modThread_shaped | with_reducible apply postEvent_shaped | (intro _)
    | exact ⟨rfl, .inl rfl, rfl, rfl, id, id⟩ | exact ⟨rfl, rfl, rfl, rfl⟩ | rfl | split | dsimp only | assumption | exact clearFrame_keeps _ _
    | exact ⟨rfl, .inl rfl, rfl, rfl, by simp, by simp⟩ | exact ⟨rfl, .inr rfl, rfl, rfl, by simp, by simp⟩

theorem retryEvents_shaped (s : State) (n : Nat) (hM : WellShaped s) : WellShaped (retryEvents s n) := by
  unfold retryEvents
  repeat' first
    | with_reducible assumption | with_reducible apply modCtx_shaped | with_reducible apply setStalls_shaped | with_reducible apply writePart_shaped
    | with_reducible apply writeParts_shaped | with_reducible apply holdRequests_shaped | with_reducible refine fst_shaped (by assumption) ?_
    | (intro _) | exact ⟨rfl, .inl rfl, rfl, rfl, id, id⟩ | exact ⟨rfl, rfl, rfl, rfl⟩ | rfl | split | dsimp only | assumption
    | with_reducible refine hub_shaped ?_

theorem fcmdResult_shaped (s : State) (v : BitVec 64) (r : Nat) (hM : WellShaped s) : WellShaped (fcmdResult s v r) := hM

theorem proceedAckLoss_shaped (s : State) (t : Thread) (hM : WellShaped s) : WellShaped (proceedAckLoss s t) := by
  unfold proceedAckLoss
  repeat' first
    | with_reducible assumption | with_reducible apply settleAckLoss_shaped | (intro _) | exact ⟨rfl, .inl rfl, rfl, rfl, id, id⟩
    | exact ⟨rfl, rfl, rfl, rfl⟩ | rfl | split | dsimp only | assumption

theorem resumeParked_shaped (s : State) (t : Thread) (hM : WellShaped s) : WellShaped (resumeParked s t) := by
  unfold resumeParked
  repeat' first
    | with_reducible assumption | with_reducible apply returnThread_shaped | with_reducible apply proceedAckLoss_shaped | (intro _)
    | exact ⟨rfl, .inl rfl, rfl, rfl, id, id⟩ | exact ⟨rfl, rfl, rfl, rfl⟩ | rfl | split | dsimp only | assumption

theorem redirectParked_shaped (s : State) (t : Thread) (p : SegPtr) (hM : WellShaped s) : WellShaped (redirectParked s t p) := by
  unfold redirectParked
  repeat' first
    | with_reducible assumption | with_reducible apply modThread_shaped | with_reducible apply retrySegment_shaped
    | with_reducible apply returnThread_shaped | with_reducible apply proceedAckLoss_shaped | (intro _) | exact ⟨rfl, .inl rfl, rfl, rfl, id, id⟩
    | exact ⟨rfl, rfl, rfl, rfl⟩ | rfl | split | dsimp only | assumption | exact clearFrame_keeps _ _
    | exact ⟨rfl, .inl rfl, rfl, rfl, by simp, by simp⟩ | exact ⟨rfl, .inr rfl, rfl, rfl, by simp, by simp⟩

theorem finishAway_shaped (s : State) (g gi : Nat) (hM : WellShaped s) : WellShaped (finishAway s g gi) := by
  unfold finishAway
  repeat' first
    | with_reducible assumption | with_reducible apply wakeGroup_shaped | (intro _) | exact ⟨rfl, .inl rfl, rfl, rfl, id, id⟩
    | exact ⟨rfl, rfl, rfl, rfl⟩ | rfl | split | dsimp only | assumption

theorem dropCommands_shaped (s : State) (gr : Group) (hM : WellShaped s) : WellShaped (dropCommands s gr) := by
  unfold dropCommands
  repeat' first
    | with_reducible assumption | with_reducible apply modCore_shaped | with_reducible apply endCopy_shaped | with_reducible apply foldl_shaped
    | with_reducible apply foldlPair_shaped | with_reducible refine fst_shaped (by assumption) ?_ | (intro _)
    | exact ⟨rfl, .inl rfl, rfl, rfl, id, id⟩ | exact ⟨rfl, rfl, rfl, rfl⟩ | rfl | split | dsimp only | assumption
    | refine CoreShaped.of_sub (by assumption) ?_ ?_ ?_ ?_ ?_ | exact Nat.le_refl _ | exact List.length_filter_le _ _ | exact List.Sublist.refl _
    | exact List.filter_sublist.map _ | exact modWhere_sublist fun _ => rfl

theorem killGroup_shaped (s : State) (gr : Group) (cause : Nat) (hM : WellShaped s) : WellShaped (killGroup s gr cause) := by
  unfold killGroup
  repeat' first
    | with_reducible assumption | with_reducible apply postEvent_shaped | with_reducible apply settleEntries_shaped
    | with_reducible apply settleAckLoss_shaped | with_reducible apply retireGroup_shaped | with_reducible apply squashGroup_shaped
    | with_reducible apply dropCommands_shaped | with_reducible apply foldl_shaped | with_reducible apply foldlPair_shaped
    | with_reducible refine fst_shaped (by assumption) ?_ | (intro _) | exact ⟨rfl, .inl rfl, rfl, rfl, id, id⟩ | exact ⟨rfl, rfl, rfl, rfl⟩ | rfl
    | split | dsimp only | assumption

theorem countCorrected_shaped (s : State) (u : Nat) (hM : WellShaped s) : WellShaped (countCorrected s u) := hM

theorem tellUnit_shaped (s : State) (vc n : Nat) (p : Group → Bool) (hM : WellShaped s) : WellShaped (tellUnit s vc n p) := by
  unfold tellUnit
  repeat' first
    | with_reducible assumption | with_reducible apply postEvent_shaped | (intro _) | exact ⟨rfl, .inl rfl, rfl, rfl, id, id⟩
    | exact ⟨rfl, rfl, rfl, rfl⟩ | rfl | split | dsimp only | assumption

theorem invalidateEntry_shaped (s : State) (entry : CacheEntry) (hM : WellShaped s) : WellShaped (invalidateEntry s entry) := by
  have h : ∀ (vc : Nat) (f : Core → Core), (∀ c, (f c).tlb.length ≤ c.tlb.length ∧ (f c).bullpen.length ≤ c.bullpen.length) → (∀ c, (f c).entries = c.entries) →
      (∀ c, (f c).places = c.places) → (∀ c, (f c).store = c.store) → WellShaped (modCore s vc f) := fun vc f h1 h2 h3 h4 =>
    modCore_shaped _ _ _ (fun c h => h.of_sub (h1 c).1 (h1 c).2 (by simp only [h2, List.Sublist.refl]) (by simp only [h3, List.Sublist.refl]) (by rw [h4]; exact ⟨rfl, rfl, rfl, rfl⟩)) hM
  unfold invalidateEntry
  split
  · exact h _ _ (fun _ => ⟨List.length_filter_le _ _, Nat.le_refl _⟩) (fun _ => rfl) (fun _ => rfl) (fun _ => rfl)
  · exact modDie_shaped _ _ _ (fun _ h => Nat.le_trans (List.length_filter_le _ _) h) hM
  · exact h _ _ (fun _ => ⟨Nat.le_refl _, Nat.le_refl _⟩) (fun _ => rfl) (fun _ => rfl) (fun _ => rfl)
  · exact refetch_shaped _ _ _ (h _ _ (fun _ => ⟨Nat.le_refl _, List.length_filter_le _ _⟩) (fun _ => rfl) (fun _ => rfl) (fun _ => rfl))


theorem uncorrectable_shaped (s : State) (site : ErrorSite) (hM : WellShaped s) : WellShaped (uncorrectable s site) := by
  unfold uncorrectable
  repeat' first
    | with_reducible assumption | with_reducible apply modThread_shaped | with_reducible apply modStore_shaped | with_reducible apply takeFault_shaped
    | with_reducible apply modSlot_shaped | with_reducible apply modAcc_shaped | with_reducible apply modPt_shaped
    | with_reducible apply tellUnit_shaped | with_reducible apply invalidateEntry_shaped | (intro _) | exact ⟨rfl, .inl rfl, rfl, rfl, id, id⟩
    | exact ⟨rfl, rfl, rfl, rfl⟩ | rfl | split | dsimp only | assumption | exact clearFrame_keeps _ _
    | exact ⟨rfl, .inl rfl, rfl, rfl, by simp, by simp⟩ | exact ⟨rfl, .inr rfl, rfl, rfl, by simp, by simp⟩
    | exact ⟨by simp, by simp, by simp, by simp⟩ | with_reducible refine hub_shaped ?_

/-! Quiesce -/

theorem leaveCore_shaped (s : State) (gr : Group) (vc k : Nat) (sv : Saved) (kept : Group) (hM : WellShaped s) :
    WellShaped (leaveCore s gr vc k sv kept) := by
  have h := releaseUnits_shaped s vc gr.grid gr.gidx hM
  refine ⟨h.1.map fun t => ?_, h.2.1, h.2.2.1, h.2.2.2.1, ?_⟩
  · split
    · exact ⟨rfl, .inr rfl, rfl, rfl, id, id⟩
    · exact .refl t
  · intro x hx
    obtain ⟨y, hy, e | e⟩ := mem_modWhere hx
    · rw [e]; exact h.2.2.2.2 y hy
    · rw [e]; exact h.2.2.2.2 y hy

theorem evictTo_shaped (s : State) (gr : Group) (vc k : Nat) (hM : WellShaped s) : WellShaped (evictTo s gr vc k) := by
  unfold evictTo
  apply settleEntries_shaped
  apply settleOps_shaped
  apply leaveCore_shaped
  exact hubWrite_shaped _ _ _ hM

theorem settleInst_shaped (s : State) (t : Thread) (hM : WellShaped s) : WellShaped (settleInst s t) := by
  unfold settleInst
  repeat' first
    | with_reducible assumption | with_reducible apply rerun_shaped | (intro _) | exact ⟨rfl, .inl rfl, rfl, rfl, id, id⟩ | exact ⟨rfl, rfl, rfl, rfl⟩
    | rfl | split | dsimp only | assumption

theorem settleInsts_shaped (s : State) (p : Thread → Bool) (hM : WellShaped s) : WellShaped (settleInsts s p) := by
  unfold settleInsts
  repeat' first
    | with_reducible assumption | with_reducible apply settleInst_shaped | with_reducible apply foldl_shaped | with_reducible apply foldlPair_shaped
    | with_reducible refine fst_shaped (by assumption) ?_ | (intro _) | exact ⟨rfl, .inl rfl, rfl, rfl, id, id⟩ | exact ⟨rfl, rfl, rfl, rfl⟩ | rfl
    | split | dsimp only | assumption | with_reducible apply threadsMap_shaped | with_reducible apply threadsFilter_shaped

theorem restartable_shaped (s : State) (ctx : Nat) (hM : WellShaped s) : WellShaped (restartable s ctx) := by
  unfold restartable
  repeat' first
    | with_reducible assumption | (intro _) | exact ⟨rfl, .inl rfl, rfl, rfl, id, id⟩ | exact ⟨rfl, rfl, rfl, rfl⟩ | rfl | split | dsimp only
    | assumption | refine CoreShaped.of_sub (by assumption) ?_ ?_ ?_ ?_ ?_ | exact Nat.le_refl _ | exact List.length_filter_le _ _
    | exact List.Sublist.refl _ | exact List.filter_sublist.map _ | exact modWhere_sublist fun _ => rfl | with_reducible apply coresMap_shaped

theorem setPhase_shaped (s : State) (ctx n : Nat) (hM : WellShaped s) : WellShaped (setPhase s ctx n) := hM

theorem enterPhase_shaped (s : State) (ctx n : Nat) (hM : WellShaped s) : WellShaped (enterPhase s ctx n) := by
  unfold enterPhase
  repeat' first
    | with_reducible assumption | with_reducible apply modCtx_shaped | with_reducible apply settleInsts_shaped
    | with_reducible apply restartable_shaped | with_reducible apply setPhase_shaped | (intro _) | exact ⟨rfl, .inl rfl, rfl, rfl, id, id⟩
    | exact ⟨rfl, rfl, rfl, rfl⟩ | rfl | split | dsimp only | assumption

theorem applyLatched_shaped (s : State) (ctx : Nat) (hM : WellShaped s) : WellShaped (applyLatched s ctx) := by
  unfold applyLatched
  repeat' first
    | with_reducible assumption | with_reducible apply modGrid_shaped | with_reducible apply shapePoint_shaped | with_reducible apply foldl_shaped
    | with_reducible apply foldlPair_shaped | with_reducible refine fst_shaped (by assumption) ?_ | (intro _)
    | exact ⟨rfl, .inl rfl, rfl, rfl, id, id⟩ | exact ⟨rfl, rfl, rfl, rfl⟩ | rfl | split | dsimp only | assumption
    | with_reducible refine grids_shaped ?_

theorem resumeCtx_shaped (s : State) (ctx : Nat) (hM : WellShaped s) : WellShaped (resumeCtx s ctx) := by
  unfold resumeCtx
  repeat' first
    | with_reducible assumption | with_reducible apply modCtx_shaped | with_reducible apply retestHeads_shaped
    | with_reducible apply retestWaits_shaped | with_reducible apply applyLatched_shaped | (intro _) | exact ⟨rfl, .inl rfl, rfl, rfl, id, id⟩
    | exact ⟨rfl, rfl, rfl, rfl⟩ | rfl | split | dsimp only | assumption

theorem setDie_shaped (s : State) (d : Nat) (st : DieSt) (hM : WellShaped s) : WellShaped (setDie s d st) := by
  unfold setDie
  repeat' first
    | with_reducible assumption | with_reducible apply modDie_shaped | (intro _) | exact ⟨rfl, .inl rfl, rfl, rfl, id, id⟩
    | exact ⟨rfl, rfl, rfl, rfl⟩ | rfl | split | dsimp only | assumption

theorem clearGroup_shaped (d : Nat) (kill : Bool) (s : State) (gr : Group) (hM : WellShaped s) : WellShaped (clearGroup d kill s gr) := by
  unfold clearGroup
  repeat' first
    | with_reducible assumption | with_reducible apply killGroup_shaped | with_reducible apply evictTo_shaped | (intro _)
    | exact ⟨rfl, .inl rfl, rfl, rfl, id, id⟩ | exact ⟨rfl, rfl, rfl, rfl⟩ | rfl | split | dsimp only | assumption

theorem clearGroups_shaped (s : State) (d : Nat) (kill : Bool) (hM : WellShaped s) : WellShaped (clearGroups s d kill) := by
  unfold clearGroups
  repeat' first
    | with_reducible assumption | with_reducible apply clearGroup_shaped | with_reducible apply foldl_shaped | with_reducible apply foldlPair_shaped
    | with_reducible refine fst_shaped (by assumption) ?_ | (intro _) | exact ⟨rfl, .inl rfl, rfl, rfl, id, id⟩ | exact ⟨rfl, rfl, rfl, rfl⟩ | rfl
    | split | dsimp only | assumption

theorem coreReset_shaped : CoreShaped Core.reset :=
  ⟨Nat.zero_le _, Nat.zero_le _, ⟨.nil, fun e he => by cases he⟩, ⟨.nil, fun e he => by cases he⟩, List.length_replicate .., List.length_replicate ..,
    List.length_replicate .., List.length_replicate ..⟩

theorem wipeDie_shaped (s : State) (d : Nat) (hM : WellShaped s) : WellShaped (wipeDie s d) :=
  modDie_shaped _ _ _ (fun _ _ => Nat.zero_le _) (foldl_shaped (fun _ _ h => modCore_shaped _ _ _ (fun _ _ => coreReset_shaped) h) _ _ (flushDie_shaped _ _ hM))

theorem writeBackHome_shaped (s : State) (d : Nat) (hM : WellShaped s) : WellShaped (writeBackHome s d) := hM

theorem bringBack_shaped (s : State) (gr : Group) (hM : WellShaped s) : WellShaped (bringBack s gr) := by
  unfold bringBack
  repeat' first
    | with_reducible assumption | with_reducible apply restoreTo_shaped | (intro _) | exact ⟨rfl, .inl rfl, rfl, rfl, id, id⟩
    | exact ⟨rfl, rfl, rfl, rfl⟩ | rfl | split | dsimp only | assumption

theorem hostAnswer_shaped (s : State) (bs : List Byte) (hM : WellShaped s) : WellShaped (hostAnswer s bs) := hM

theorem serveHost_shaped : ∀ (l : List HostReq) (s : State), WellShaped s → WellShaped (serveHost s l)
  | [], _, h => h
  | .write pa data :: r, s, h => by
    unfold serveHost
    split
    · exact h
    · exact serveHost_shaped r _ (hubWrite_shaped _ _ _ h)
  | .read pa n :: r, s, h => by
    unfold serveHost
    split
    · exact serveHost_shaped r _ h
    · exact serveHost_shaped r _ (hubReads_shaped _ _ _ h)

theorem endReadmit_shaped (s : State) (d : Nat) (hM : WellShaped s) : WellShaped (endReadmit s d) := by
  have hg : ∀ (t : State) (p : Group → Bool), WellShaped t → WellShaped { t with groups := modWhere p (fun g => { g with wantIn := true }) t.groups } := by
    intro t p h
    refine groups_shaped ?_ h
    intro x hx
    obtain ⟨y, hy, e | e⟩ := mem_modWhere hx
    · rw [e]; exact h.2.2.2.2 y hy
    · rw [e]; exact h.2.2.2.2 y hy
  unfold endReadmit
  refine serveHost_shaped _ _ (settleEffects_shaped _ (effectsMap_shaped (fun e => ?_) (foldl_shaped (fun s gr h => bringBack_shaped s gr h) _ _
    (hg _ _ (foldl_shaped (fun s u h => returnThread_shaped s u h) _ _ (setDie_shaped _ _ _ ?_))))))
  · split <;> rfl
  · exact hM


/-! Package -/

theorem ctxResult_shaped (s : State) (ctx res act : Nat) (hM : WellShaped s) : WellShaped (ctxResult s ctx res act) := hM

theorem createCtx_shaped (s : State) (sup : Bool) (hM : WellShaped s) : WellShaped (createCtx s sup) := by
  unfold createCtx
  repeat' first
    | with_reducible assumption | with_reducible apply ctxResult_shaped | (intro _) | exact ⟨rfl, .inl rfl, rfl, rfl, id, id⟩
    | exact ⟨rfl, rfl, rfl, rfl⟩ | rfl | split | dsimp only | assumption | with_reducible refine pkg_shaped ?_

theorem destroyCtx_shaped (s : State) (n : Nat) (hM : WellShaped s) : WellShaped (destroyCtx s n) := by
  have hz : ∀ st : Storage, st.slots.length = 64 ∧ st.accs.length = 16 ∧ st.pts.length = 8 ∧ st.slotCtx.length = 64 →
      ((st.slots.zip st.slotCtx).map fun x => if x.2 == n then OpSlot.reset else x.1).length = st.slots.length :=
    fun st h => by rw [List.length_map, List.length_zip, h.1, h.2.2.2]; rfl
  refine ⟨hM.1.sublist List.filter_sublist, (effects_shaped (List.filter_sublist.map _) hM).2.1, ?_, ?_, ?_⟩
  · exact (coresMap_shaped (f := forgetCore n ((s.grids.filter fun g => g.ctx == n).map (·.id)))
      (fun _ h => h.of_sub (List.length_filter_le _ _) (List.length_filter_le _ _) (List.filter_sublist.map _) (List.filter_sublist.map _)
        ⟨hz _ h.2.2.2.2, List.length_map _, List.length_map _, rfl⟩) hM).2.2.1
  · exact (diesMap_shaped (f := fun d => { d with tlb := d.tlb.filter fun e => e.ctx != n }) (fun _ => List.length_filter_le _ _) hM).2.2.2.1
  · intro g hg; exact hM.2.2.2.2 g ((List.mem_filter.mp hg).1)

theorem clearRoutes_shaped (fibre : Nat) : ∀ (l : List Nat) (s : State), WellShaped s → WellShaped (clearRoutes fibre l s)
  | [], _, h => h
  | p :: r, s, h => by
    unfold clearRoutes
    apply clearRoutes_shaped fibre r
    split
    · exact hubWrite_shaped _ _ _ h
    · exact h

theorem clearFibre_shaped (s : State) (fibre : Nat) (hM : WellShaped s) : WellShaped (clearFibre s fibre) := by
  unfold clearFibre
  exact clearRoutes_shaped fibre (List.range 4096) s hM

theorem emptyWay_shaped (s : State) (site : WaySite) (way : Nat) (hM : WellShaped s) : WellShaped (emptyWay s site way) := by
  unfold emptyWay
  repeat' first
    | with_reducible assumption | with_reducible apply modDie_shaped | with_reducible apply writeBackFrom_shaped | with_reducible apply foldl_shaped
    | with_reducible apply foldlPair_shaped | with_reducible refine fst_shaped (by assumption) ?_ | (intro _)
    | exact ⟨rfl, .inl rfl, rfl, rfl, id, id⟩ | exact ⟨rfl, rfl, rfl, rfl⟩ | rfl | split | dsimp only | assumption
    | with_reducible refine hub_shaped ?_

theorem reset_shaped : WellShaped State.reset := by
  refine ⟨⟨.nil, .nil, fun t ht => by cases ht⟩, ⟨.nil, fun e he => by cases he⟩, ⟨List.length_replicate .., ?_⟩, ⟨List.length_replicate .., ?_⟩,
    fun g hg => by cases hg⟩
  · intro c hc; rw [List.eq_of_mem_replicate hc]; exact coreReset_shaped
  · intro c hc; rw [List.eq_of_mem_replicate hc]; exact Nat.zero_le _

theorem withoutPower_shaped (s : State) (p : Pkg) (_hM : WellShaped s) : WellShaped (withoutPower s p) :=
  ⟨⟨.nil, .nil, fun t ht => by cases ht⟩, ⟨.nil, fun e he => by cases he⟩, reset_shaped.2.2⟩

/-! Objects -/

theorem peekBytes_shaped (c : Ctx) (need : HubNeed) : ∀ (k : Nat) (s : State) (va n : Nat), WellShaped s → WellShaped (peekBytes c need k s va n).1
  | 0, _, _, _, h => h
  | k + 1, s, va, n, h => by
    have h1 := hubTranslate_shaped s c va need false h
    unfold peekBytes
    split
    · exact h
    · dsimp only
      split
      · rename_i e; rw [e] at h1; exact h1
      · rename_i e; rw [e] at h1; exact peekBytes_shaped c need k _ _ _ (hubReads_shaped _ _ _ h1)

theorem peekRange_shaped (s : State) (c : Ctx) (need : HubNeed) (va n : Nat) (hM : WellShaped s) : WellShaped (peekRange s c need va n).1 := by
  unfold peekRange
  repeat' first
    | with_reducible assumption | with_reducible apply setStalls_shaped | with_reducible apply peekBytes_shaped | (intro _)
    | exact ⟨rfl, .inl rfl, rfl, rfl, id, id⟩ | exact ⟨rfl, rfl, rfl, rfl⟩ | rfl | split | dsimp only | assumption
    | with_reducible refine hub_shaped ?_

theorem readObject_shaped (s : State) (c : Ctx) (va : Nat) (hM : WellShaped s) : WellShaped (readObject s c va).1 := by
  unfold readObject
  repeat' first
    | with_reducible assumption | with_reducible apply peekRange_shaped | with_reducible refine fst_shaped (by assumption) ?_ | (intro _)
    | exact ⟨rfl, .inl rfl, rfl, rfl, id, id⟩ | exact ⟨rfl, rfl, rfl, rfl⟩ | rfl | split | dsimp only | assumption
    | with_reducible refine pkg_shaped ?_

theorem objResult_shaped (s : State) (ctx onum check act : Nat) (hM : WellShaped s) : WellShaped (objResult s ctx onum check act) := hM

theorem registerObject_shaped (s : State) (ctx : Nat) (hM : WellShaped s) : WellShaped (registerObject s ctx) := by
  unfold registerObject
  repeat' first
    | with_reducible assumption | with_reducible apply modCtx_shaped | with_reducible apply readObject_shaped | with_reducible apply objResult_shaped
    | with_reducible refine fst_shaped (by assumption) ?_ | (intro _) | exact ⟨rfl, .inl rfl, rfl, rfl, id, id⟩ | exact ⟨rfl, rfl, rfl, rfl⟩ | rfl
    | split | dsimp only | assumption | with_reducible refine ap_shaped ?_

theorem dropObject_shaped (s : State) (ctx onum : Nat) (hM : WellShaped s) : WellShaped (dropObject s ctx onum) := by
  unfold dropObject
  repeat' first
    | with_reducible assumption | with_reducible apply modCtx_shaped | (intro _) | exact ⟨rfl, .inl rfl, rfl, rfl, id, id⟩
    | exact ⟨rfl, rfl, rfl, rfl⟩ | rfl | split | dsimp only | assumption | refine CoreShaped.of_sub (by assumption) ?_ ?_ ?_ ?_ ?_
    | exact Nat.le_refl _ | exact List.length_filter_le _ _ | exact List.Sublist.refl _ | exact List.filter_sublist.map _
    | exact modWhere_sublist fun _ => rfl | with_reducible refine grids_shaped ?_ | with_reducible apply coresMap_shaped

theorem unregisterObject_shaped (s : State) (ctx onum : Nat) (hM : WellShaped s) : WellShaped (unregisterObject s ctx onum) := by
  unfold unregisterObject
  repeat' first
    | with_reducible assumption | with_reducible apply objResult_shaped | with_reducible apply dropObject_shaped | (intro _)
    | exact ⟨rfl, .inl rfl, rfl, rfl, id, id⟩ | exact ⟨rfl, rfl, rfl, rfl⟩ | rfl | split | dsimp only | assumption

/-! Aperture -/

theorem writeDhalt_shaped (s : State) (base : Nat) (v : BitVec 64) (hM : WellShaped s) : WellShaped (writeDhalt s base v) := hM

theorem writeNonce_shaped (s : State) (i : Nat) (v : BitVec 64) (hM : WellShaped s) : WellShaped (writeNonce s i v) := hM

theorem writeThr_shaped (s : State) (n : Nat) (v : BitVec 64) (hM : WellShaped s) : WellShaped (writeThr s n v) := hM

theorem writeWindow_shaped (s : State) (n : Nat) (v : BitVec 64) (hM : WellShaped s) : WellShaped (writeWindow s n v) := by
  unfold writeWindow
  repeat' first
    | with_reducible assumption | with_reducible apply modCtx_shaped | with_reducible apply writeCtxReg_shaped | (intro _)
    | exact ⟨rfl, .inl rfl, rfl, rfl, id, id⟩ | exact ⟨rfl, rfl, rfl, rfl⟩ | rfl | split | dsimp only | assumption
    | with_reducible refine ap_shaped ?_

theorem writeMonBlock_shaped (s : State) (off : Nat) (v : BitVec 32) (hM : WellShaped s) : WellShaped (writeMonBlock s off v) := by
  unfold writeMonBlock
  repeat' first
    | with_reducible assumption | with_reducible apply modMon_shaped | (intro _) | exact ⟨rfl, .inl rfl, rfl, rfl, id, id⟩
    | exact ⟨rfl, rfl, rfl, rfl⟩ | rfl | split | dsimp only | assumption

/-! Sections -/

theorem readFrame_shape (uid ctx grid gidx vc now : Nat) (b : List Byte) :
    (readFrame uid ctx grid gidx vc now b).uid = uid ∧ (readFrame uid ctx grid gidx vc now b).resident = false ∧
    (readFrame uid ctx grid gidx vc now b).slots.length = 64 ∧ (readFrame uid ctx grid gidx vc now b).xs.length = 8 :=
  ⟨rfl, rfl, (List.length_map _).trans List.length_range, (List.length_map _).trans List.length_range⟩


/-! Image -/

theorem predTable_shaped (s : State) (c : Ctx) (hM : WellShaped s) : WellShaped (predTable s c).1 := by
  unfold predTable
  repeat' first
    | with_reducible assumption | with_reducible apply peekRange_shaped | with_reducible refine fst_shaped (by assumption) ?_ | (intro _)
    | exact ⟨rfl, .inl rfl, rfl, rfl, id, id⟩ | exact ⟨rfl, rfl, rfl, rfl⟩ | rfl | split | dsimp only | assumption

theorem putRange_shaped (c : Ctx) : ∀ (k : Nat) (s : State) (va : Nat) (bs : List Byte), WellShaped s → WellShaped (putRange c k s va bs).1
  | 0, _, _, _, h => h
  | k + 1, s, va, bs, h => by
    have h1 := hubTranslate_shaped s c va ⟨false, true, none, false⟩ true h
    unfold putRange
    split
    · exact h
    · dsimp only
      split
      · rename_i e; rw [e] at h1; exact h1
      · rename_i e; rw [e] at h1; exact putRange_shaped c k _ _ _ (hubWrite_shaped _ _ _ h1)

theorem saveImage_shaped (s : State) (ctx tctx va : Nat) (hM : WellShaped s) : WellShaped (saveImage s ctx tctx va).1 := by
  unfold saveImage
  repeat' first
    | with_reducible assumption | with_reducible apply setPhase_shaped | with_reducible apply predTable_shaped | with_reducible apply putRange_shaped
    | with_reducible refine fst_shaped (by assumption) ?_ | (intro _) | exact ⟨rfl, .inl rfl, rfl, rfl, id, id⟩ | exact ⟨rfl, rfl, rfl, rfl⟩ | rfl
    | split | dsimp only | assumption

theorem readObjs_shaped (c : Ctx) : ∀ (l : List (List Byte)) (s : State), WellShaped s → WellShaped (readObjs c l s).1
  | [], _, h => h
  | e :: r, s, h => by
    have h1 := readObject_shaped s c (fieldAt e 8 8) h
    unfold readObjs
    split
    · rename_i q; rw [q] at h1; exact readObjs_shaped c r _ h1
    · rename_i q; rw [q] at h1; exact h1

theorem sizePark_keeps (s : State) (t : Thread) : ThreadKeeps t (sizePark s t) := by
  unfold sizePark
  split
  · split
    · exact ⟨rfl, .inl rfl, rfl, rfl, id, id⟩
    · exact .refl t
  · exact .refl t

/-- The threads that a group's record holds: new numbers, none resident. -/
theorem readThreads_shaped (s : State) (ctx grid gidx vc now n m : Nat) (l : List (List Byte)) (hm : n ≤ m) :
    ThreadsShaped ((((List.range n).zip l).map fun p => (sizePark s (readFrame (s.nextId + p.1) ctx grid gidx vc now p.2), p.2)).map (·.1)) (s.nextId + m) ∧
    ∀ t ∈ (((List.range n).zip l).map fun p => (sizePark s (readFrame (s.nextId + p.1) ctx grid gidx vc now p.2), p.2)).map (·.1),
      s.nextId ≤ t.uid ∧ t.resident = false := by
  have hk : ∀ (p : Nat × List Byte), (sizePark s (readFrame (s.nextId + p.1) ctx grid gidx vc now p.2)).uid = s.nextId + p.1 ∧
      (sizePark s (readFrame (s.nextId + p.1) ctx grid gidx vc now p.2)).resident = false ∧
      (sizePark s (readFrame (s.nextId + p.1) ctx grid gidx vc now p.2)).slots.length = 64 ∧
      (sizePark s (readFrame (s.nextId + p.1) ctx grid gidx vc now p.2)).xs.length = 8 := by
    intro p
    have h := sizePark_keeps s (readFrame (s.nextId + p.1) ctx grid gidx vc now p.2)
    have r := readFrame_shape (s.nextId + p.1) ctx grid gidx vc now p.2
    exact ⟨h.1.trans r.1, h.2.1.elim (fun e => e.trans r.2.1) id, h.2.2.2.2.1 r.2.2.1, h.2.2.2.2.2 r.2.2.2⟩
  rw [List.map_map]
  refine ⟨⟨?_, ?_, ?_⟩, ?_⟩
  · have h1 := List.nodup_range.sublist (zip_fst_sublist (List.range n) l)
    unfold List.Nodup at h1 ⊢
    rw [List.pairwise_map] at h1
    rw [List.pairwise_map, List.pairwise_map]
    exact h1.imp fun {a b} h e => h (by
      have e1 := (hk a).1; have e2 := (hk b).1
      simp only [Function.comp] at e
      omega)
  · rw [frames_pairwise, List.pairwise_map]
    exact List.pairwise_of_forall fun a b ha => by
      simp only [Function.comp, (hk a).2.1] at ha
      cases ha
  · intro t ht
    obtain ⟨p, hp, rfl⟩ := List.mem_map.mp ht
    have hr := List.mem_range.mp ((zip_fst_sublist _ _).subset (List.mem_map_of_mem (f := Prod.fst) hp))
    refine ⟨?_, (hk p).2.2⟩
    have e1 := (hk p).1
    show (sizePark s (readFrame (s.nextId + p.1) ctx grid gidx vc now p.2)).uid < _
    omega
  · intro t ht
    obtain ⟨p, hp, rfl⟩ := List.mem_map.mp ht
    refine ⟨?_, (hk p).2.1⟩
    have e1 := (hk p).1
    show _ ≤ (sizePark s (readFrame (s.nextId + p.1) ctx grid gidx vc now p.2)).uid
    omega

theorem readGroup_shaped (s : State) (rb : Rebuild) (k : Nat) (b : List Byte) (hM : WellShaped s) : WellShaped (readGroup s rb k b) := by
  unfold readGroup
  dsimp only
  refine ⟨?_, ⟨hM.2.1.1, fun e he => ?_⟩, hM.2.2.1, hM.2.2.2.1, ?_⟩
  · have h := readThreads_shaped s rb.ctx (rb.gids.getD (fieldAt b (0x10 - 16) 4) 0) (fieldAt b (0x18 - 16) 8)
      (16 * (fieldAt b (0x20 - 16) 1 % 8) + fieldAt b (0x21 - 16) 1 % 16) (watchNow s rb.ctx) (fieldAt b (0x24 - 16) 4)
      (fieldAt b (0x24 - 16) 4 + fieldAt b (0x2B - 16) 1 + fieldAt b (0x2C - 16) 1) (entries 384 (fieldAt b (0x24 - 16) 4) (b.drop 0x70)) (by omega)
    have hn : s.nextId + fieldAt b (0x24 - 16) 4 + fieldAt b (0x2B - 16) 1 + fieldAt b (0x2C - 16) 1 =
        s.nextId + (fieldAt b (0x24 - 16) 4 + fieldAt b (0x2B - 16) 1 + fieldAt b (0x2C - 16) 1) := by omega
    dsimp only
    rw [hn]
    exact hM.1.append h.1 (Nat.le_add_right _ _) (fun t ht => (h.2 t ht).1) fun t _ u hu _ hr => by rw [(h.2 u hu).2] at hr; cases hr
  · have := hM.2.1.2 e he
    dsimp only
    omega
  · intro x hx
    rcases List.mem_append.mp hx with hx | hx
    · exact hM.2.2.2.2 x hx
    · rw [List.mem_singleton.mp hx]; exact (List.length_map _).trans List.length_range


theorem placeGroup_shaped (s : State) (gr : Group) (hM : WellShaped s) : WellShaped (placeGroup s gr) := by
  unfold placeGroup
  split
  · split
    · exact modGroup_shaped _ _ _ _ (fun _ => rfl) (freeDugout_shaped _ _ hM)
    · split
      · exact restoreTo_shaped _ _ _ _ hM
      · dsimp only
        refine hub_shaped ?_
        split
        · exact hubWrite_shaped _ _ _ hM
        · exact hM
  · exact hM


theorem restoreGroup_shaped (rb : Rebuild) (s : State) (b : List Byte) (hM : WellShaped s) : WellShaped (restoreGroup rb s b) := by
  unfold restoreGroup
  repeat' first
    | with_reducible assumption | with_reducible apply readGroup_shaped | with_reducible apply placeGroup_shaped | (intro _)
    | exact ⟨rfl, .inl rfl, rfl, rfl, id, id⟩ | exact ⟨rfl, rfl, rfl, rfl⟩ | rfl | split | dsimp only | assumption

theorem rebuild_shaped (s : State) (t : Ctx) (secs : List Sec) (c1 : Ctx) (objs : List Obj) (hM : WellShaped s) : WellShaped (rebuild s t secs c1 objs) := by
  unfold rebuild
  dsimp only
  refine foldl_shaped (fun s x h => restoreGroup_shaped _ _ _ h) _ _ (foldl_shaped (fun s x h => grids_shaped (nextId_shaped 1 h)) _ _ ?_)
  exact putRange_shaped _ _ _ _ _ (modCtx_shaped _ _ _ hM)


theorem loadImage_shaped (s : State) (ctx tctx va : Nat) (hM : WellShaped s) : WellShaped (loadImage s ctx tctx va).1 := by
  unfold loadImage
  repeat' first
    | with_reducible assumption | with_reducible apply peekRange_shaped | with_reducible apply readObjs_shaped | with_reducible apply rebuild_shaped
    | with_reducible apply foldl_shaped | with_reducible apply foldlPair_shaped | with_reducible refine fst_shaped (by assumption) ?_ | (intro _)
    | exact ⟨rfl, .inl rfl, rfl, rfl, id, id⟩ | exact ⟨rfl, rfl, rfl, rfl⟩ | rfl | split | dsimp only | assumption

/-! Run -/

theorem badWord_shaped (s : State) (vc frame idx code : Nat) (hM : WellShaped s) : WellShaped (badWord s vc frame idx code) := by
  unfold badWord
  repeat' first
    | with_reducible assumption | with_reducible apply takeFault_shaped | (intro _) | exact ⟨rfl, .inl rfl, rfl, rfl, id, id⟩
    | exact ⟨rfl, rfl, rfl, rfl⟩ | rfl | split | dsimp only | assumption

theorem flushed_shaped (o : Out) (h : OutShaped o) : OutShaped (flushed o) := by
  unfold flushed
  split
  · exact .of_next (flushStalls_shaped _ (h.next _ rfl))
  · exact h

theorem answerTo_shaped (s : State) (r : PeerReply) (hM : WellShaped s) : WellShaped (answerTo s r) := by
  unfold answerTo
  repeat' first
    | with_reducible assumption | (intro _) | exact ⟨rfl, .inl rfl, rfl, rfl, id, id⟩ | exact ⟨rfl, rfl, rfl, rfl⟩ | rfl | split | dsimp only
    | assumption

theorem clockLimits_shaped (s : State) (region floor ceil : Nat) (hM : WellShaped s) : WellShaped (clockLimits s region floor ceil) := by
  unfold clockLimits
  repeat' first
    | with_reducible assumption | (intro _) | exact ⟨rfl, .inl rfl, rfl, rfl, id, id⟩ | exact ⟨rfl, rfl, rfl, rfl⟩ | rfl | split | dsimp only
    | assumption

theorem countFlits_shaped (s : State) (n : Nat) (resent : Bool) (hM : WellShaped s) : WellShaped (countFlits s n resent) := hM

end Sys2Proof.Machine
end

