-- ==== Sys2Proof/Laws/Words.lean ====
section
/-! SUPPORT. The dispatch of each word to the shared operation that it gives its function to: one equation a word, so that no proof unfolds `exec`. -/
namespace Sys2Proof.Machine

theorem exec_nop (f : FmtS) (s : State) : exec (.nop f) s = fireNothing (.nop f) s := rfl
theorem exec_next (f : FmtN) (s : State) : exec (.next f) s = fireSink (.next f) s := rfl
theorem exec_nextp (f : FmtN) (s : State) : exec (.nextp f) s = fireSink (.nextp f) s := rfl
theorem exec_nextpu (f : FmtN) (s : State) : exec (.nextpu f) s = fireSink (.nextpu f) s := rfl
theorem exec_nexti (f : FmtS) (s : State) : exec (.nexti f) s = fireSink (.nexti f) s := rfl
theorem exec_call (f : FmtN) (s : State) : exec (.call f) s = fireSink (.call f) s := rfl
theorem exec_calli (f : FmtS) (s : State) : exec (.calli f) s = fireSink (.calli f) s := rfl
theorem exec_ret (f : FmtS) (s : State) : exec (.ret f) s = fireSink (.ret f) s := rfl
theorem exec_exit (f : FmtS) (s : State) : exec (.exit f) s = fireSink (.exit f) s := rfl
theorem exec_bar (f : FmtS) (s : State) : exec (.bar f) s = fireSink (.bar f) s := rfl
theorem exec_yield (f : FmtS) (s : State) : exec (.yield f) s = fireSink (.yield f) s := rfl
theorem exec_spawn (f : FmtN) (s : State) : exec (.spawn f) s = fireSink (.spawn f) s := rfl
theorem exec_gwait (f : FmtS) (s : State) : exec (.gwait f) s = fireSink (.gwait f) s := rfl
theorem exec_trap (f : FmtS) (s : State) : exec (.trap f) s = fireSink (.trap f) s := rfl
theorem exec_brk (f : FmtS) (s : State) : exec (.brk f) s = fireSink (.brk f) s := rfl
theorem exec_launch (f : FmtS) (s : State) : exec (.launch f) s = fireSink (.launch f) s := rfl
theorem exec_himm (f : FmtH) (s : State) : exec (.himm f) s = fireNothing (.himm f) s := rfl
theorem exec_hoff (f : FmtH) (s : State) : exec (.hoff f) s = fireNothing (.hoff f) s := rfl
theorem exec_htgt (f : FmtH) (s : State) : exec (.htgt f) s = fireNothing (.htgt f) s := rfl
theorem exec_hsch (f : FmtH) (s : State) : exec (.hsch f) s = fireNothing (.hsch f) s := rfl
theorem exec_add (f : FmtA) (s : State) : exec (.add f) s = fireInt (.add f) s (onLanes f.ty laneAdd) := rfl
theorem exec_sub (f : FmtA) (s : State) : exec (.sub f) s = fireInt (.sub f) s (onLanes f.ty laneSub) := rfl
theorem exec_mul (f : FmtA) (s : State) : exec (.mul f) s = fireInt (.mul f) s (onLanes f.ty laneMul) := rfl
theorem exec_mulhi (f : FmtA) (s : State) : exec (.mulhi f) s = fireInt (.mulhi f) s (onLanes f.ty laneMulhi) := rfl
theorem exec_mad (f : FmtA) (s : State) : exec (.mad f) s = fireInt (.mad f) s (onLanes f.ty laneMad) := rfl
theorem exec_div (f : FmtA) (s : State) : exec (.div f) s = fireInt (.div f) s (onLanes f.ty laneDiv) := rfl
theorem exec_rem (f : FmtA) (s : State) : exec (.rem f) s = fireInt (.rem f) s (onLanes f.ty laneRem) := rfl
theorem exec_min (f : FmtA) (s : State) : exec (.min f) s = fireInt (.min f) s (onLanes f.ty laneMinOp) := rfl
theorem exec_max (f : FmtA) (s : State) : exec (.max f) s = fireInt (.max f) s (onLanes f.ty laneMaxOp) := rfl
theorem exec_abs (f : FmtA) (s : State) : exec (.abs f) s = fireInt (.abs f) s (onLanes f.ty (laneAbs (f.flag % 2 == 1))) := rfl
theorem exec_neg (f : FmtA) (s : State) : exec (.neg f) s = fireInt (.neg f) s (onLanes f.ty (laneNeg (f.flag % 2 == 1))) := rfl
theorem exec_and (f : FmtA) (s : State) : exec (.and f) s = fireInt (.and f) s (onLanes f.ty laneAnd) := rfl
theorem exec_or (f : FmtA) (s : State) : exec (.or f) s = fireInt (.or f) s (onLanes f.ty laneOr) := rfl
theorem exec_xor (f : FmtA) (s : State) : exec (.xor f) s = fireInt (.xor f) s (onLanes f.ty laneXor) := rfl
theorem exec_not (f : FmtA) (s : State) : exec (.not f) s = fireInt (.not f) s (onLanes f.ty laneNot) := rfl
theorem exec_andn (f : FmtA) (s : State) : exec (.andn f) s = fireInt (.andn f) s (onLanes f.ty laneAndn) := rfl
theorem exec_shl (f : FmtA) (s : State) : exec (.shl f) s = fireInt (.shl f) s (onLanes f.ty laneShl) := rfl
theorem exec_shr (f : FmtA) (s : State) : exec (.shr f) s = fireInt (.shr f) s (onLanes f.ty laneShr) := rfl
theorem exec_sar (f : FmtA) (s : State) : exec (.sar f) s = fireInt (.sar f) s (onLanes f.ty laneSar) := rfl
theorem exec_rotl (f : FmtA) (s : State) : exec (.rotl f) s = fireInt (.rotl f) s (onLanes f.ty laneRotl) := rfl
theorem exec_popc (f : FmtA) (s : State) : exec (.popc f) s = fireInt (.popc f) s (onLanes f.ty lanePopc) := rfl
theorem exec_clz (f : FmtA) (s : State) : exec (.clz f) s = fireInt (.clz f) s (onLanes f.ty laneClz) := rfl
theorem exec_ctz (f : FmtA) (s : State) : exec (.ctz f) s = fireInt (.ctz f) s (onLanes f.ty laneCtz) := rfl
theorem exec_brev (f : FmtA) (s : State) : exec (.brev f) s = fireInt (.brev f) s (onLanes f.ty laneBrev) := rfl
theorem exec_bfx (f : FmtA) (s : State) : exec (.bfx f) s = fireInt (.bfx f) s (onLanes f.ty laneBfx) := rfl
theorem exec_bfi (f : FmtA) (s : State) : exec (.bfi f) s = fireInt (.bfi f) s (onLanes f.ty laneBfi) := rfl
theorem exec_cmp (f : FmtC) (s : State) : exec (.cmp f) s = fireInt (.cmp f) s fun a b _ => intCmp f.ty.toNat f.cond.toNat a b := rfl
theorem exec_adds (f : FmtA) (s : State) : exec (.adds f) s = fireInt (.adds f) s (onLanes f.ty laneAdds) := rfl
theorem exec_subs (f : FmtA) (s : State) : exec (.subs f) s = fireInt (.subs f) s (onLanes f.ty laneSubs) := rfl
theorem exec_dot4 (f : FmtA) (s : State) : exec (.dot4 f) s = fireInt (.dot4 f) s (intDot f.ty (f.flag % 2 == 1)) := rfl
theorem exec_dot2 (f : FmtA) (s : State) : exec (.dot2 f) s = fireInt (.dot2 f) s (intDot f.ty (f.flag % 2 == 1)) := rfl
theorem exec_ixa (f : FmtA) (s : State) : exec (.ixa f) s = fireInt (.ixa f) s (onLanes f.ty (laneIxa f.flag)) := rfl
theorem exec_fsh (f : FmtA) (s : State) : exec (.fsh f) s = fireInt (.fsh f) s (onLanes f.ty laneFsh) := rfl
theorem exec_perm (f : FmtA) (s : State) : exec (.perm f) s = fireInt (.perm f) s (onLanes f.ty lanePerm) := rfl
theorem exec_lop3 (f : FmtA) (s : State) : exec (.lop3 f) s = fireInt (.lop3 f) s (onLanes f.ty (laneLop3 f.s.toNat)) := rfl
theorem exec_fadd (f : FmtA) (s : State) : exec (.fadd f) s = fireFloat (.fadd f) s (onFloatLanes f.ty (laneFadd f.flag)) := rfl
theorem exec_fsub (f : FmtA) (s : State) : exec (.fsub f) s = fireFloat (.fsub f) s (onFloatLanes f.ty (laneFsub f.flag)) := rfl
theorem exec_fmul (f : FmtA) (s : State) : exec (.fmul f) s = fireFloat (.fmul f) s (onFloatLanes f.ty (laneFmul f.flag)) := rfl
theorem exec_fma (f : FmtA) (s : State) : exec (.fma f) s = fireFloat (.fma f) s (onFloatLanes f.ty (laneFma f.flag)) := rfl
theorem exec_fmin (f : FmtA) (s : State) : exec (.fmin f) s = fireFloat (.fmin f) s (onFloatLanes f.ty (laneMinMax false false)) := rfl
theorem exec_fmax (f : FmtA) (s : State) : exec (.fmax f) s = fireFloat (.fmax f) s (onFloatLanes f.ty (laneMinMax true false)) := rfl
theorem exec_fminn (f : FmtA) (s : State) : exec (.fminn f) s = fireFloat (.fminn f) s (onFloatLanes f.ty (laneMinMax false true)) := rfl
theorem exec_fmaxn (f : FmtA) (s : State) : exec (.fmaxn f) s = fireFloat (.fmaxn f) s (onFloatLanes f.ty (laneMinMax true true)) := rfl
theorem exec_fabs (f : FmtA) (s : State) : exec (.fabs f) s = fireFloat (.fabs f) s (onFloatLanes f.ty laneFabs) := rfl
theorem exec_fneg (f : FmtA) (s : State) : exec (.fneg f) s = fireFloat (.fneg f) s (onFloatLanes f.ty laneFneg) := rfl
theorem exec_fcmp (f : FmtC) (s : State) : exec (.fcmp f) s = fireFloat (.fcmp f) s fun a b _ => fcmp f.ty.toNat f.cond.toNat a b := rfl
theorem exec_fclass (f : FmtA) (s : State) : exec (.fclass f) s = fireFloat (.fclass f) s fun a _ _ => fclass f.ty a := rfl
theorem exec_fdiv (f : FmtA) (s : State) : exec (.fdiv f) s = fireFloat (.fdiv f) s (onFloatLanes f.ty (laneFdiv f.flag)) := rfl
theorem exec_fsqrt (f : FmtA) (s : State) : exec (.fsqrt f) s = fireFloat (.fsqrt f) s (onFloatLanes f.ty (laneFsqrt f.flag)) := rfl
theorem exec_frnd (f : FmtA) (s : State) : exec (.frnd f) s = fireFloat (.frnd f) s (onFloatLanes f.ty (laneFrnd f.flag)) := rfl
theorem exec_ffrac (f : FmtA) (s : State) : exec (.ffrac f) s = fireFloat (.ffrac f) s (onFloatLanes f.ty laneFfrac) := rfl
theorem exec_fscale (f : FmtA) (s : State) : exec (.fscale f) s = fireFloat (.fscale f) s fun a b _ => fscale f.flag f.ty a b := rfl
theorem exec_fgetx (f : FmtA) (s : State) : exec (.fgetx f) s = fireFloat (.fgetx f) s fun a _ _ => fgetx f.ty a := rfl
theorem exec_fsign (f : FmtA) (s : State) : exec (.fsign f) s = fireFloat (.fsign f) s (onFloatLanes f.ty laneFsign) := rfl
theorem exec_fdot2 (f : FmtA) (s : State) : exec (.fdot2 f) s = fireFloat (.fdot2 f) s fun a b c => fdot2 f.flag f.ty a b c := rfl
theorem exec_cvt (f : FmtA) (s : State) : exec (.cvt f) s = fireFloat (.cvt f) s fun a _ _ => cvt (f.s.toNat / 16) (f.s.toNat % 16) f.flag (f.mod.getLsbD 2) a := rfl
theorem exec_cvtsr (f : FmtA) (s : State) : exec (.cvtsr f) s = fireFloat (.cvtsr f) s fun a _ c => cvtsr (f.s.toNat % 16) (f.mod.getLsbD 2) a c := rfl
theorem exec_pack (f : FmtA) (s : State) : exec (.pack f) s = fireFloat (.pack f) s fun a b _ => packF f.flag f.ty a b := rfl
theorem exec_unpack (f : FmtA) (s : State) : exec (.unpack f) s = fireFloat (.unpack f) s fun a b _ => unpackF f.ty a b := rfl
theorem exec_qnt (f : FmtA) (s : State) : exec (.qnt f) s = fireFloat (.qnt f) s fun a b _ => qnt f.flag a b := rfl
theorem exec_dqnt (f : FmtA) (s : State) : exec (.dqnt f) s = fireFloat (.dqnt f) s fun a b _ => dqnt f.flag f.ty a b := rfl
theorem exec_rcp (f : FmtA) (s : State) : exec (.rcp f) s = fireFloat (.rcp f) s fun a _ _ => sfu 0x78 f.ty a := rfl
theorem exec_rsq (f : FmtA) (s : State) : exec (.rsq f) s = fireFloat (.rsq f) s fun a _ _ => sfu 0x79 f.ty a := rfl
theorem exec_ex2 (f : FmtA) (s : State) : exec (.ex2 f) s = fireFloat (.ex2 f) s fun a _ _ => sfu 0x7A f.ty a := rfl
theorem exec_lg2 (f : FmtA) (s : State) : exec (.lg2 f) s = fireFloat (.lg2 f) s fun a _ _ => sfu 0x7B f.ty a := rfl
theorem exec_sinpi (f : FmtA) (s : State) : exec (.sinpi f) s = fireFloat (.sinpi f) s fun a _ _ => sfu 0x7C f.ty a := rfl
theorem exec_cospi (f : FmtA) (s : State) : exec (.cospi f) s = fireFloat (.cospi f) s fun a _ _ => sfu 0x7D f.ty a := rfl
theorem exec_tanh (f : FmtA) (s : State) : exec (.tanh f) s = fireFloat (.tanh f) s fun a _ _ => sfu 0x7E f.ty a := rfl
theorem exec_sigm (f : FmtA) (s : State) : exec (.sigm f) s = fireFloat (.sigm f) s fun a _ _ => sfu 0x7F f.ty a := rfl
theorem exec_wr (f : FmtL) (s : State) : exec (.wr f) s = fireSink (.wr f) s := rfl
theorem exec_rdsys (f : FmtL) (s : State) : exec (.rdsys f) s = fireWith (.rdsys f) s fun x _ => (valTok (sysValue s x.t x.ins f.slot.toNat), 0) := rfl
theorem exec_ld (f : FmtM) (s : State) : exec (.ld f) s = fireLoad (.ld f) s fun x sh => globalLoad s x f.buf.toNat (portVal s x sh 0) (accessBytes f.wcode) := rfl
theorem exec_st (f : FmtM) (s : State) : exec (.st f) s = fireSink (.st f) s := rfl
theorem exec_sts (f : FmtM) (s : State) : exec (.sts f) s = fireSink (.sts f) s := rfl
theorem exec_ldc (f : FmtM) (s : State) : exec (.ldc f) s = fireLoad (.ldc f) s fun x sh => globalLoad s x f.buf.toNat (portVal s x sh 0) (accessBytes f.wcode) := rfl
theorem exec_ldacq (f : FmtM) (s : State) : exec (.ldacq f) s = fireLoad (.ldacq f) s fun x sh => globalLoad s x (f.buf.toNat % 4) (portVal s x sh 0) (accessBytes f.wcode) := rfl
theorem exec_strel (f : FmtM) (s : State) : exec (.strel f) s = fireSink (.strel f) s := rfl
theorem exec_fence (f : FmtS) (s : State) : exec (.fence f) s = fireSink (.fence f) s := rfl
theorem exec_cwb (f : FmtM) (s : State) : exec (.cwb f) s = fireSink (.cwb f) s := rfl
theorem exec_zfill (f : FmtM) (s : State) : exec (.zfill f) s = fireSink (.zfill f) s := rfl
theorem exec_pst (f : FmtM) (s : State) : exec (.pst f) s = fireSink (.pst f) s := rfl
theorem exec_aadd (f : FmtT) (s : State) : exec (.aadd f) s = fireSink (.aadd f) s := rfl
theorem exec_amin (f : FmtT) (s : State) : exec (.amin f) s = fireSink (.amin f) s := rfl
theorem exec_amax (f : FmtT) (s : State) : exec (.amax f) s = fireSink (.amax f) s := rfl
theorem exec_aand (f : FmtT) (s : State) : exec (.aand f) s = fireSink (.aand f) s := rfl
theorem exec_aor (f : FmtT) (s : State) : exec (.aor f) s = fireSink (.aor f) s := rfl
theorem exec_axor (f : FmtT) (s : State) : exec (.axor f) s = fireSink (.axor f) s := rfl
theorem exec_axchg (f : FmtT) (s : State) : exec (.axchg f) s = fireSink (.axchg f) s := rfl
theorem exec_acas (f : FmtT) (s : State) : exec (.acas f) s = fireSink (.acas f) s := rfl
theorem exec_afadd (f : FmtT) (s : State) : exec (.afadd f) s = fireSink (.afadd f) s := rfl
theorem exec_xput (f : FmtL) (s : State) : exec (.xput f) s = fireSink (.xput f) s := rfl
theorem exec_xget (f : FmtL) (s : State) : exec (.xget f) s = fireWith (.xget f) s fun x sh => (xgetTok s x.t (portVal s x sh 0) (f.slot.toNat % 8), 0) := rfl
theorem exec_xclr (f : FmtL) (s : State) : exec (.xclr f) s = fireSink (.xclr f) s := rfl
theorem exec_gred (f : FmtA) (s : State) : exec (.gred f) s = fireSink (.gred f) s := rfl
theorem exec_gscan (f : FmtA) (s : State) : exec (.gscan f) s = fireSink (.gscan f) s := rfl
theorem exec_vote (f : FmtA) (s : State) : exec (.vote f) s = fireSink (.vote f) s := rfl
theorem exec_sigsub (f : FmtT) (s : State) : exec (.sigsub f) s = fireSink (.sigsub f) s := rfl
theorem exec_sigwait (f : FmtT) (s : State) : exec (.sigwait f) s = fireSink (.sigwait f) s := rfl
theorem exec_mbox (f : FmtT) (s : State) : exec (.mbox f) s = fireSink (.mbox f) s := rfl
theorem exec_rdctl (f : FmtS) (s : State) : exec (.rdctl f) s = fireWith (.rdctl f) s fun x _ => (valTok (readCtl s x.t.ctx f.ctl.toNat), 0) := rfl
theorem exec_wrctl (f : FmtS) (s : State) : exec (.wrctl f) s = fireSink (.wrctl f) s := rfl
theorem exec_tlbinv (f : FmtS) (s : State) : exec (.tlbinv f) s = fireSink (.tlbinv f) s := rfl
theorem exec_cinv (f : FmtS) (s : State) : exec (.cinv f) s = fireSink (.cinv f) s := rfl
theorem exec_evpost (f : FmtS) (s : State) : exec (.evpost f) s = fireSink (.evpost f) s := rfl
theorem exec_perf (f : FmtS) (s : State) : exec (.perf f) s = fireWith (.perf f) s fun x _ => (valTok (perfValue s x.t.vc x.t.ctx f.ctl.toNat), 0) := rfl
theorem exec_ctxsv (f : FmtS) (s : State) : exec (.ctxsv f) s = fireSink (.ctxsv f) s := rfl
theorem exec_ctxld (f : FmtS) (s : State) : exec (.ctxld f) s = fireSink (.ctxld f) s := rfl
theorem exec_tcopy (f : FmtE) (s : State) : exec (.tcopy f) s = fireSink (.tcopy f) s := rfl
theorem exec_tstore (f : FmtE) (s : State) : exec (.tstore f) s = fireSink (.tstore f) s := rfl
theorem exec_tcopyo (f : FmtE) (s : State) : exec (.tcopyo f) s = fireSink (.tcopyo f) s := rfl
theorem exec_tcopyr (f : FmtE) (s : State) : exec (.tcopyr f) s = fireSink (.tcopyr f) s := rfl
theorem exec_tcast (f : FmtE) (s : State) : exec (.tcast f) s = fireSink (.tcast f) s := rfl
theorem exec_sfree (f : FmtE) (s : State) : exec (.sfree f) s = fireSink (.sfree f) s := rfl
theorem exec_spres (f : FmtE) (s : State) : exec (.spres f) s = fireSink (.spres f) s := rfl
theorem exec_tgath (f : FmtE) (s : State) : exec (.tgath f) s = fireSink (.tgath f) s := rfl
theorem exec_tscat (f : FmtE) (s : State) : exec (.tscat f) s = fireSink (.tscat f) s := rfl
theorem exec_tclaim (f : FmtE) (s : State) : exec (.tclaim f) s = fireSink (.tclaim f) s := rfl
theorem exec_trel (f : FmtE) (s : State) : exec (.trel f) s = fireSink (.trel f) s := rfl
theorem exec_mma (f : FmtE) (s : State) : exec (.mma f) s = fireSink (.mma f) s := rfl
theorem exec_mmi (f : FmtE) (s : State) : exec (.mmi f) s = fireSink (.mmi f) s := rfl
theorem exec_mmg (f : FmtE) (s : State) : exec (.mmg f) s = fireSink (.mmg f) s := rfl
theorem exec_tsacc (f : FmtE) (s : State) : exec (.tsacc f) s = fireSink (.tsacc f) s := rfl
theorem exec_tzero (f : FmtE) (s : State) : exec (.tzero f) s = fireSink (.tzero f) s := rfl
theorem exec_tacst (f : FmtE) (s : State) : exec (.tacst f) s = fireSink (.tacst f) s := rfl
theorem exec_tacld (f : FmtE) (s : State) : exec (.tacld f) s = fireSink (.tacld f) s := rfl
theorem exec_tfence (f : FmtE) (s : State) : exec (.tfence f) s = fireSink (.tfence f) s := rfl
theorem exec_tmode (f : FmtE) (s : State) : exec (.tmode f) s = fireSink (.tmode f) s := rfl

/-- A word that acts at commit hands its operands on when it fires. -/
theorem exec_commitWord {i : Instr} (s : State) (h : commitWord i = true) : exec i s = fireSink i s := by
  cases i <;> first | (cases h; done) | rfl

/-- `mov` answers what a computing word does. -/
theorem exec_mov_fireWith (f : FmtB) (s : State) : exec (.mov f) s = fireWith (.mov f) s fun x sh => (portTok s x sh 0, 0) := rfl

/-- A computing word that R46 decides answers that token. -/
theorem exec_computingWord_gated {i : Instr} {s : State} {x : Site} {sh : Shape} {tok : Tok} (hc : computingWord i = true)
    (hi : shape i = some sh) (h : Fires s x sh) (hg : siteGate s x sh = some tok) : exec i s = .next (emit s x tok 0) := by
  cases i <;> first | (cases hc; done) | skip
  case add => rw [exec_add]; exact fireInt_gated hi h hg
  case sub => rw [exec_sub]; exact fireInt_gated hi h hg
  case mul => rw [exec_mul]; exact fireInt_gated hi h hg
  case mulhi => rw [exec_mulhi]; exact fireInt_gated hi h hg
  case mad => rw [exec_mad]; exact fireInt_gated hi h hg
  case div => rw [exec_div]; exact fireInt_gated hi h hg
  case rem => rw [exec_rem]; exact fireInt_gated hi h hg
  case min => rw [exec_min]; exact fireInt_gated hi h hg
  case max => rw [exec_max]; exact fireInt_gated hi h hg
  case abs => rw [exec_abs]; exact fireInt_gated hi h hg
  case neg => rw [exec_neg]; exact fireInt_gated hi h hg
  case and => rw [exec_and]; exact fireInt_gated hi h hg
  case or => rw [exec_or]; exact fireInt_gated hi h hg
  case xor => rw [exec_xor]; exact fireInt_gated hi h hg
  case not => rw [exec_not]; exact fireInt_gated hi h hg
  case andn => rw [exec_andn]; exact fireInt_gated hi h hg
  case shl => rw [exec_shl]; exact fireInt_gated hi h hg
  case shr => rw [exec_shr]; exact fireInt_gated hi h hg
  case sar => rw [exec_sar]; exact fireInt_gated hi h hg
  case rotl => rw [exec_rotl]; exact fireInt_gated hi h hg
  case popc => rw [exec_popc]; exact fireInt_gated hi h hg
  case clz => rw [exec_clz]; exact fireInt_gated hi h hg
  case ctz => rw [exec_ctz]; exact fireInt_gated hi h hg
  case brev => rw [exec_brev]; exact fireInt_gated hi h hg
  case bfx => rw [exec_bfx]; exact fireInt_gated hi h hg
  case bfi => rw [exec_bfi]; exact fireInt_gated hi h hg
  case cmp => rw [exec_cmp]; exact fireInt_gated hi h hg
  case adds => rw [exec_adds]; exact fireInt_gated hi h hg
  case subs => rw [exec_subs]; exact fireInt_gated hi h hg
  case dot4 => rw [exec_dot4]; exact fireInt_gated hi h hg
  case dot2 => rw [exec_dot2]; exact fireInt_gated hi h hg
  case ixa => rw [exec_ixa]; exact fireInt_gated hi h hg
  case fsh => rw [exec_fsh]; exact fireInt_gated hi h hg
  case perm => rw [exec_perm]; exact fireInt_gated hi h hg
  case lop3 => rw [exec_lop3]; exact fireInt_gated hi h hg
  case fadd => rw [exec_fadd]; exact fireFloat_gated hi h hg
  case fsub => rw [exec_fsub]; exact fireFloat_gated hi h hg
  case fmul => rw [exec_fmul]; exact fireFloat_gated hi h hg
  case fma => rw [exec_fma]; exact fireFloat_gated hi h hg
  case fmin => rw [exec_fmin]; exact fireFloat_gated hi h hg
  case fmax => rw [exec_fmax]; exact fireFloat_gated hi h hg
  case fminn => rw [exec_fminn]; exact fireFloat_gated hi h hg
  case fmaxn => rw [exec_fmaxn]; exact fireFloat_gated hi h hg
  case fabs => rw [exec_fabs]; exact fireFloat_gated hi h hg
  case fneg => rw [exec_fneg]; exact fireFloat_gated hi h hg
  case fcmp => rw [exec_fcmp]; exact fireFloat_gated hi h hg
  case fclass => rw [exec_fclass]; exact fireFloat_gated hi h hg
  case fdiv => rw [exec_fdiv]; exact fireFloat_gated hi h hg
  case fsqrt => rw [exec_fsqrt]; exact fireFloat_gated hi h hg
  case frnd => rw [exec_frnd]; exact fireFloat_gated hi h hg
  case ffrac => rw [exec_ffrac]; exact fireFloat_gated hi h hg
  case fscale => rw [exec_fscale]; exact fireFloat_gated hi h hg
  case fgetx => rw [exec_fgetx]; exact fireFloat_gated hi h hg
  case fsign => rw [exec_fsign]; exact fireFloat_gated hi h hg
  case fdot2 => rw [exec_fdot2]; exact fireFloat_gated hi h hg
  case cvt => rw [exec_cvt]; exact fireFloat_gated hi h hg
  case cvtsr => rw [exec_cvtsr]; exact fireFloat_gated hi h hg
  case pack => rw [exec_pack]; exact fireFloat_gated hi h hg
  case unpack => rw [exec_unpack]; exact fireFloat_gated hi h hg
  case qnt => rw [exec_qnt]; exact fireFloat_gated hi h hg
  case dqnt => rw [exec_dqnt]; exact fireFloat_gated hi h hg
  case rcp => rw [exec_rcp]; exact fireFloat_gated hi h hg
  case rsq => rw [exec_rsq]; exact fireFloat_gated hi h hg
  case ex2 => rw [exec_ex2]; exact fireFloat_gated hi h hg
  case lg2 => rw [exec_lg2]; exact fireFloat_gated hi h hg
  case sinpi => rw [exec_sinpi]; exact fireFloat_gated hi h hg
  case cospi => rw [exec_cospi]; exact fireFloat_gated hi h hg
  case tanh => rw [exec_tanh]; exact fireFloat_gated hi h hg
  case sigm => rw [exec_sigm]; exact fireFloat_gated hi h hg
  case mov => rw [exec_mov_fireWith]; exact fireWith_gated hi h hg
  case xget => rw [exec_xget]; exact fireWith_gated hi h hg
  case ld => rw [exec_ld]; exact fireLoad_gated hi h hg
  case ldc => rw [exec_ldc]; exact fireLoad_gated hi h hg
  case lds => exact fireLoad_gated hi h hg
  case ldsn => exact fireLoad_gated hi h hg
  case ldacq => rw [exec_ldacq]; exact fireLoad_gated hi h hg
  case pld => exact fireLoad_gated hi h hg

end Sys2Proof.Machine
end

