-- ==== Sys2Proof/Tests/Slice0.lean ====
section
/-! SUPPORT. The model's own tests: well-formedness, decoding, single steps, and for each statement states that meet its hypotheses. -/
open Sys2Proof
open Sys2Proof.Machine

section
-- one test after another: each waits for the kernel, and as many threads as tests would wait at once
set_option Elab.async false

/-! Well-formedness: a term that each check refuses -/

/-- Formats A, C, B and L: PC 0b11, TYPE, flag and S of R77, R81, R83, R88, R89, then COND, `mov`'s width, SLOT, T and U. -/
theorem test_ill_formed_computing :
    ([.add ⟨0, 0xFF, 3, 0⟩, .div ⟨0, 0xFF, 0, 0x10⟩, .add ⟨0, 0xFF, 0, 1⟩, .not ⟨0, 0x80, 0, 0⟩, .neg ⟨0, 0xFF, 0, 0x05⟩, .abs ⟨0, 0xFF, 0, 0x04⟩,
      .cmp ⟨0, 0xFF, 6, 0⟩, .fcmp ⟨0, 0xFF, 14, 0⟩, .fcmp ⟨0, 0xFF, 0, 6⟩, .sel ⟨0, 0xFF, 1, 0⟩, .cvt ⟨0, 0x11, 0, 0⟩, .cvt ⟨0, 0x99, 0, 0⟩,
      .cvtsr ⟨0, 0x11, 0, 0⟩, .qnt ⟨0, 0xFF, 0, 0x10⟩, .lg2 ⟨0, 0xFF, 0, 0x10⟩, .mov ⟨0, 0, 3, 0⟩, .mov ⟨0, 0, 0, 2⟩, .rdsys ⟨0, 0, 14⟩,
      .wr ⟨4, 0, 1⟩, .xput ⟨0, 0, 8⟩, .xget ⟨0, 0, 8⟩, .xclr ⟨0, 1, 0⟩, .gred ⟨0, 6, 0, 0⟩, .gred ⟨0, 3, 0, 1⟩, .gscan ⟨0, 0, 0, 2⟩,
      .vote ⟨0, 3, 0, 0⟩, .vote ⟨0, 0, 0, 1⟩] : List Instr).all (fun i => !i.wellFormed) = true := by decide

/-- Formats M, T, S, E, N and H: access widths, G, BUF, T, scope, SLOT of a result, counts, ranges and reserved fields. -/
theorem test_ill_formed_effects :
    ([.ld ⟨0, 0, 0, 0, 7⟩, .ld ⟨0, 0, 0, 3, 2⟩, .ld ⟨0, 0, 0, 0, 10⟩, .st ⟨1, 0, 0, 0, 2⟩, .lds ⟨0, 1, 0, 0, 2⟩, .sts ⟨0, 0, 0, 0, 10⟩,
      .ldsn ⟨0, 0, 0, 0, 8⟩, .pf ⟨0, 0, 0, 0, 2⟩, .ldacq ⟨0, 0, 0, 0, 0⟩, .strel ⟨0, 0, 0, 0, 4⟩, .cwb ⟨0, 0, 0, 0, 2⟩, .zfill ⟨0, 0, 0, 0, 4⟩,
      .pst ⟨0, 0, 0, 0, 5⟩, .fence ⟨0x18, 0, 0⟩, .fence ⟨0, 0, 0⟩, .aadd ⟨0, 0, 0, 0, 0⟩, .aadd ⟨0, 1, 0, 1, 0⟩, .aadd ⟨1, 0, 0, 2, 0⟩,
      .aadd ⟨1, 0, 0, 2, 0x22⟩, .afadd ⟨1, 0, 0, 2, 0x21⟩, .sigsub ⟨0, 0, 0, 1, 0⟩, .sigwait ⟨0, 0, 0, 2, 8⟩, .mbox ⟨1, 0, 0, 2, 0⟩,
      .nop ⟨1, 0, 0⟩, .next ⟨0, 1⟩, .calli ⟨0, 0, 16⟩, .ret ⟨0, 1, 0⟩, .exit ⟨0, 0, 1⟩, .bar ⟨4, 0, 0⟩, .yield ⟨1, 0, 0⟩, .spawn ⟨0, 4⟩,
      .gwait ⟨1, 0, 0⟩, .trap ⟨0, 1, 0⟩, .brk ⟨0, 0, 1⟩, .launch ⟨16, 0, 0⟩, .nexti ⟨1, 0, 0⟩, .htgt ⟨1⟩, .hsch ⟨4⟩,
      .tcopy ⟨0, 0, 62, 0⟩, .tstore ⟨0, 16, 0, 0⟩, .tcopyo ⟨0, 8, 0, 0⟩, .tcopyr ⟨0, 0, 0, 48⟩, .tcast ⟨0, 8, 0, 0⟩, .sfree ⟨1, 0, 0, 0⟩,
      .spres ⟨0, 0, 0, 16⟩, .tgath ⟨0, 0, 0, 0⟩, .tscat ⟨0, 0, 0, 4⟩, .tclaim ⟨60, 0, 0, 4⟩, .trel ⟨0, 48, 0, 0⟩, .tzero ⟨0, 0, 0, 0⟩,
      .mma ⟨0, 0, 16, 0⟩, .mma ⟨0, 0, 0, 5⟩, .mmi ⟨0, 0, 0, 0x28⟩, .mmg ⟨0, 0, 8, 4⟩, .tsacc ⟨0, 1, 0, 0⟩, .tacst ⟨0, 40, 0, 2⟩, .tacld ⟨0, 16, 0, 0⟩,
      .tfence ⟨0, 1, 0, 0⟩, .tmode ⟨0, 0, 0, 2⟩, .rdctl ⟨0x11, 0, 0⟩, .wrctl ⟨0, 0, 0⟩, .tlbinv ⟨0, 0, 3⟩, .cinv ⟨0, 0, 2⟩, .evpost ⟨0, 1, 0⟩,
      .perf ⟨5, 0, 0⟩, .ctxsv ⟨1, 0, 0⟩, .ctxld ⟨0, 0, 64⟩] : List Instr).all (fun i => !i.wellFormed) = true := by decide

/-! Decoding: words that the manual writes out (R74, R101, R200), and one bit by bit for each further format -/

/-- The words of the examples of R101 and R200. -/
theorem test_decode_examples :
    decode 0x28064404 = .ok (.shl ⟨12, 0x88, 0, 4⟩) ∧ decode 0x18087F84 = .ok (.add ⟨16, 0xFF, 0, 4⟩) ∧
    decode 0x900C0002 = .ok (.ld ⟨24, 0, 0, 0, 2⟩) ∧ decode 0x180AA180 = .ok (.add ⟨21, 0x43, 0, 0⟩) ∧
    decode 0x3217A091 = .ok (.cmp ⟨47, 0x41, 2, 1⟩) ∧ decode 0x330C7F80 = .ok (.sel ⟨24, 0xFF, 0, 0⟩) ∧
    decode 0x3B123C04 = .ok (.lop3 ⟨36, 0x78, 0, 4⟩) ∧ decode 0x800A003F = .ok (.rd ⟨20, 0, 63⟩) ∧
    decode 0x81000001 = .ok (.wr ⟨0, 0, 1⟩) ∧ decode 0x83020200 = .ok (.rdsys ⟨4, 8, 0⟩) := ⟨rfl, rfl, rfl, rfl, rfl, rfl, rfl, rfl, rfl, rfl⟩

/-- One word of each family that the examples leave out, written from R76 and R93. -/
theorem test_decode_families :
    decode (0x40#8 ++ 0b000000100#9 ++ 0xFF#8 ++ 0b00#2 ++ 0b00101#5) = .ok (.fadd ⟨4, 0xFF, 0, 5⟩) ∧
    decode (0x68#8 ++ 0b000000100#9 ++ 0x12#8 ++ 0b00#2 ++ 0b00000#5) = .ok (.cvt ⟨4, 0x12, 0, 0⟩) ∧
    decode (0x78#8 ++ 0b000000100#9 ++ 0xFF#8 ++ 0b00#2 ++ 0b00000#5) = .ok (.rcp ⟨4, 0xFF, 0, 0⟩) ∧
    decode (0x94#8 ++ 0b000000100#9 ++ 0b0000#4 ++ 0b00000#5 ++ 0b00#2 ++ 0b0010#4) = .ok (.ldsn ⟨4, 0, 0, 0, 2⟩) ∧
    decode (0xC0#8 ++ 0b000001#6 ++ 0b000010#6 ++ 0b000011#6 ++ 0b000001#6) = .ok (.tcopy ⟨1, 2, 3, 1⟩) ∧
    decode (0x0B#8 ++ 0x012#12 ++ 0x003#12) = .ok (.spawn ⟨0x012, 3⟩) ∧
    decode (0x0F#8 ++ 0x05#8 ++ 0b000000000#9 ++ 0b0000000#7) = .ok (.launch ⟨5, 0, 0⟩) ∧
    decode (0x86#8 ++ 0b000000100#9 ++ 0b000000000#9 ++ 0b000111#6) = .ok (.xget ⟨4, 0, 7⟩) := ⟨rfl, rfl, rfl, rfl, rfl, rfl, rfl, rfl⟩

/-- An unassigned and a reserved opcode, by name (R94, R99). -/
theorem test_decode_rejects : decode 0x14000000 = .error (.unassigned 0x14) ∧ decode 0xEF000000 = .error (.unassigned 0xEF) ∧
    decode 0xF0000000 = .error (.reserved 0xF0) ∧ decode 0xFFFFFFFF = .error (.reserved 0xFF) := ⟨rfl, rfl, rfl, rfl⟩

/-! Small states: one group of one thread with an instance of a few words in frame 0 of vc0 -/

/-- A grid of one group of one thread, with one buffer of 256 words of four bytes at 0x10000 that may be read, written and updated. -/
def aGrid : Grid :=
  { id := 0, ctx := 0, raw := 0, unif := List.replicate 128 0, bufs := [0x07000004000001000000000000010000], dptrs := [], onum := 0, kidx := 0
    queue := 64, recNo := 0, nextG := 1, spec := none, nRet := 0, nSquash := 0, owed := [], owedAll := false, ended := false, seen := [] }

/-- Its group, with one scratchpad unit. -/
def aGroup : Group :=
  { ctx := 0, grid := 0, gidx := 0, vd := 0, at_ := .core 0, st := .running, startAt := 0, spadBase := 0, spadUnits := 1, opsl := []
    bars := List.replicate 4 Bar.fresh, gw := Bar.fresh, gwSig := 0, gwThr := 0, gwScope := 0, colls := [], zsk := false, tfCode := 0
    tfCount := 0, wantIn := false, saved := none }

/-- An instance in placement slot 0. -/
def anInst (toks : List (Nat × Nat × Tok)) (fired : List Nat) : Inst :=
  ⟨0, false, false, 0, 0, List.replicate 64 ⟨7, true, false⟩, toks, fired, [], 0, [⟨0, 0, 0⟩], [], none, false, none, none⟩

/-- The thread with an instance, or with none. -/
def aThread (st : ThreadSt) (ins : Option Inst) : Thread :=
  { uid := 0, ctx := 0, grid := 0, gidx := 0, vc := 0, frame := 0, resident := true, tid := 0, detached := false, depth := 0
    ptr := ⟨0, 0, 0⟩, slots := List.replicate 64 ⟨7, true, false⟩, xs := List.replicate 8 Slot.empty, st := st, seq := 0
    inst := ins, wait := none, kept := none, parkAt := 0, ackLost := [], ackRec := none, lvsBad := [], parkLarge := false, owesYield := false, bitAt := none, statusAt := [] }

/-- The placement of the words. -/
def aPlace (ws : List Instr) : Placement :=
  ⟨0, 0, 0, ⟨0, 0, 0⟩, ⟨0, 0, 0, [0, 0, 0, 0], ws.map encode⟩, .admitting, 0, 1, [0], List.replicate ws.length 0, []⟩

/-- vc0 with the words placed, and page 1 in its TLB, readable and writable at physical page 1. -/
def aCore (ws : List Instr) : Core :=
  { Core.reset with places := [aPlace ws], entries := [⟨0, 0, ⟨0, 0, 0⟩, 0, false⟩], tlb := [⟨0, 1, false, 0x10219⟩] }

/-- The machine with one thread. -/
def withThread (ws : List Instr) (t : Thread) : State :=
  { State.reset with ctxs := [newCtx 0 false], grids := [aGrid], groups := [aGroup], threads := [t], cores := aCore ws :: List.replicate 127 Core.reset }

/-- An admitted thread, with tokens at ports and words that have fired. -/
def ready (ws : List Instr) (toks : List (Nat × Nat × Tok)) (fired : List Nat) : State :=
  withThread ws (aThread .admitted (some (anInst toks fired)))

/-- The site of its word 0. -/
def readySite (ws : List Instr) (toks : List (Nat × Nat × Tok)) (fired : List Nat) : Site :=
  ⟨aThread .admitted (some (anInst toks fired)), anInst toks fired, aPlace ws, decodeAll (ws.map encode), 0⟩

theorem ready_site (ws : List Instr) (toks : List (Nat × Nat × Tok)) (fired : List Nat) : site? (ready ws toks fired) = some (readySite ws toks fired) := rfl

/-- Value tokens on the four ports of word 0. -/
def vals (a b c p : Nat) : List (Nat × Nat × Tok) := [(0, 0, valTok a), (0, 1, valTok b), (0, 2, valTok c), (0, 3, valTok p)]

/-- Word 0 fires and computes in the state with these operands. -/
def computesB (i : Instr) (a b c p : Nat) : Bool :=
  match shape i with
  | some sh => canFire (readySite [i] (vals a b c p) []) sh && (siteGate (ready [i] (vals a b c p) []) (readySite [i] (vals a b c p) []) sh).isNone
  | none => false

/-- The state in which word 0 stands with value tokens. -/
def at_ (i : Instr) (a b c p : Nat) : State := ready [i] (vals a b c p) []

/-- Its site. -/
def site_ (i : Instr) (a b c p : Nat) : Site := readySite [i] (vals a b c p) []

theorem computes_at {i : Instr} {sh : Shape} (hs : shape i = some sh) (a b c p : Nat) (h : computesB i a b c p = true) :
    Computes (at_ i a b c p) (site_ i a b c p) sh := by
  simp only [computesB, hs, Bool.and_eq_true, Option.isNone_iff_eq_none] at h
  exact ⟨⟨ready_site _ _ _, h.1⟩, h.2⟩

/-! Single steps of words: the manual's own results (R196, R215, R221 and their neighbours) -/

/-- What word 0 sends, as a value. -/
def sent (i : Instr) (a b c p : Nat) : Option (Nat × BitVec 6) :=
  match exec i (at_ i a b c p) with
  | .next t => (t.threads.head?.bind (·.inst)).bind fun ins =>
      match ins.toks.getLast? with
      | some (_, _, .val v) => some (v.toNat, ins.conds)
      | _ => none
  | _ => none

/-- The rows of R196's table for the words of one or two operands. -/
theorem test_integer_table :
    sent (.div ⟨4, 0xFF, 0, 0⟩) 7 0xFFFFFFFE 0 0 = some (0xFFFFFFFD, 0) ∧ sent (.rem ⟨4, 0xFF, 0, 0⟩) 0xFFFFFFF9 2 0 0 = some (0xFFFFFFFF, 0) ∧
    sent (.div ⟨4, 0xFF, 0, 0⟩) 0x80000000 0xFFFFFFFF 0 0 = some (0x80000000, 0) ∧ sent (.rem ⟨4, 0xFF, 0, 0⟩) 0xFFFFFFFB 0 0 0 = some (0xFFFFFFFB, 0) ∧
    sent (.mulhi ⟨4, 0xFF, 0, 0⟩) 0x80000000 2 0 0 = some (0xFFFFFFFF, 0) ∧ sent (.mulhi ⟨4, 0xFF, 0, 4⟩) 0x80000000 2 0 0 = some (1, 0) ∧
    sent (.add ⟨4, 0xFF, 0, 0x10⟩) 0x7FF00001 0x0020FFFE 0 0 = some (0x8010FFFF, 0) ∧
    sent (.adds ⟨4, 0xFF, 0, 0x10⟩) 0x7FF00001 0x0020FFFE 0 0 = some (0x7FFFFFFF, 0) ∧
    sent (.abs ⟨4, 0xFF, 0, 0⟩) 0x80000000 0 0 0 = some (0x80000000, 0) ∧ sent (.abs ⟨4, 0xFF, 0, 1⟩) 0x80000000 0 0 0 = some (0x7FFFFFFF, 0) := by decide

theorem test_shift_and_bit_table :
    sent (.sar ⟨4, 0xFF, 0, 0⟩) 0x80000000 40 0 0 = some (0xFFFFFFFF, 0) ∧ sent (.rotl ⟨4, 0xFF, 0, 4⟩) 0x80000001 33 0 0 = some (3, 0) ∧
    sent (.shl ⟨4, 0xFE, 0, 4⟩) 1 0 0 0 = some (0, 0) ∧ sent (.clz ⟨4, 0xFF, 0, 4⟩) 0 0 0 0 = some (32, 0) ∧
    sent (.bfx ⟨4, 0xFF, 0, 0⟩) 0xF00 0x0408 0 0 = some (0xFFFFFFFF, 0) ∧ sent (.lop3 ⟨4, 0xD8, 0, 4⟩) 0xF0F0F0F0 0xFF00FF00 0x0F0F0F0F 0 = some (0xFF0FFF0F, 0) ∧
    sent (.ixa ⟨4, 0xFF, 0, 3⟩) 5 2 0 0 = some (21, 0) ∧ sent (.cmp ⟨4, 0xFF, 2, 4⟩) 0x0001FFFF 0x00000000 0 0 = some (0x0000FFFF, 0) := by decide

theorem test_dot_table :
    sent (.dot4 ⟨4, 0xFF, 0, 0x18⟩) 0x80FF7F02 0x01010203 100 0 = some (0xE7, 0) ∧
    sent (.dot4 ⟨4, 0xFF, 0, 0x18⟩) 0x00000A0A 0x00000F0F 0x7FFFFFF0 0 = some (0x8000011C, 0) ∧
    sent (.dot4 ⟨4, 0xFF, 0, 0x19⟩) 0x00000A0A 0x00000F0F 0x7FFFFFF0 0 = some (0x7FFFFFFF, 0) := by decide

/-- `fma` rounds once (the example of R211), and the sign word keeps a NaN's payload (R213). -/
theorem test_float_fma :
    sent (.fma ⟨4, 0xFF, 0, 0⟩) 0x3F800001 0x3F800001 0xBF800002 0 = some (0x28800000, 0) ∧
    sent (.fneg ⟨4, 0xFF, 0, 0⟩) 0x7FC00123 0 0 0 = some (0xFFC00123, 0) := by decide

/-- The examples of R216. -/
theorem test_float_round_to_integral :
    sent (.frnd ⟨4, 0xFF, 0, 0⟩) 0x40200000 0 0 0 = some (0x40000000, 0) ∧ sent (.ffrac ⟨4, 0xFF, 0, 0⟩) 0xC0300000 0 0 0 = some (0xBF400000, 0) := by decide

/-- The examples of R40, R43 and R219: conversion to e4m3 and stochastic rounding. -/
theorem test_convert :
    sent (.cvt ⟨4, 0x14, 0, 0⟩) 0x43E60000 0 0 0 = some (0x7E, 0x10) ∧ sent (.cvt ⟨4, 0x14, 0, 5⟩) 0x43EB0000 0 0 0 = some (0x7E, 0x10) ∧
    sent (.cvtsr ⟨4, 0x13, 0, 0⟩) 0x3F804000 0 0x0000C000 0 = some (0x3F81, 0x10) ∧
    sent (.cvtsr ⟨4, 0x13, 0, 0⟩) 0x3F804000 0 0x1234BFFF 0 = some (0x3F80, 0x10) ∧
    sent (.unpack ⟨4, 0x81, 0, 0x14⟩) 0xC0403F80 0 0 0 = some (0xC0400000, 0) := by decide

/-- The example of R224: 1 ÷ 0 raises divide-by-zero. -/
theorem test_rcp_of_zero : sent (.rcp ⟨4, 0xFF, 0, 0⟩) 0 0 0 0 = some (0x7F800000, BitVec.ofNat 6 cDivZero) := by decide

/-! What each statement supposes is met: encoding, stepping, the invariant -/

theorem witness_encoding : isWord (.add ⟨4, 0x88, 1, 4⟩) = true ∧ isWord (.launch ⟨255, 0, 0⟩) = true ∧
    decode 0x180AA180 = .ok (.add ⟨21, 0x43, 0, 0⟩) ∧ decode 0xE7000000 = .ok (.ctxld ⟨0, 0, 0⟩) := ⟨rfl, rfl, rfl, rfl⟩

/-- A state at whose head word 0 fires. -/
def fireHead (i : Instr) : State := { at_ i 1 2 3 1 with agenda := [.fire 0 0 0] }

/-- A state at whose head a word of any 32 bits fires. -/
def fireRaw (w : Nat) : State := State.reset.withFetchWord 32 w

theorem witness_steps_word :
    fetchWord (fireHead (.add ⟨4, 0xFF, 0, 0⟩)) 0 0 0 = some (encode (.add ⟨4, 0xFF, 0, 0⟩)) ∧
    decode (encode (.add ⟨4, 0xFF, 0, 0⟩)) = .ok (.add ⟨4, 0xFF, 0, 0⟩) ∧ (Instr.add ⟨4, 0xFF, 0, 0⟩).wellFormed = true ∧
    (fetchWord (fireRaw 0x180001E0) 0 0 0).map decode = some (.ok (.add ⟨0, 3, 3, 0⟩)) ∧ (Instr.add ⟨0, 3, 3, 0⟩).wellFormed = false ∧
    (fetchWord (fireRaw 0xF0000000) 0 0 0).map decode = some (.error (.reserved 0xF0)) ∧
    (fetchWord (fireRaw 0x14000000) 0 0 0).map decode = some (.error (.unassigned 0x14)) ∧
    fetchWord (fireRaw 0) 0 0 1 = none ∧ (fireRaw 0).agenda = [.fire 0 0 0] ∧ (fireRaw 0).pkg.power = true ∧ (fireRaw 0).pkg.recovery = false :=
  ⟨rfl, rfl, rfl, rfl, rfl, rfl, rfl, rfl, rfl, rfl, rfl⟩

/-- A step of such a state adds. -/
theorem test_step_adds : (match step (fireHead (.add ⟨4, 0xFF, 0, 0⟩)) with
    | .next t => (t.threads.head?.bind (·.inst)).map fun ins => (ins.fired, ins.toks.getLast?)
    | _ => none) = some ([0], some (1, 0, valTok 3)) := by decide

/-- The machine with an event before it, and its power and recovery states. -/
def eventHead (i : Instr) (power recovery : Bool) : State :=
  { State.reset with agenda := [.event i], pkg := { Pkg.reset with power := power, recovery := recovery } }

theorem witness_steps_event :
    (eventHead .ctxCreate true false).agenda = [.event .ctxCreate] ∧ (eventHead .ctxCreate true false).pkg.recovery = false ∧
    (eventHead .ctxCreate false false).pkg.power = false ∧ (eventHead .ctxCreate true true).pkg.recovery = true := ⟨rfl, rfl, rfl, rfl⟩

/-- Without power the event stops the machine; in the recovery state one to which the package does not respond does nothing (R400, R401). -/
theorem test_event_stops : step (eventHead .ctxCreate false false) = .fault .noPower ∧
    (match step (eventHead (.quiescePhaseAdvance 0) true true) with
     | .next t => decide (t = { eventHead (.quiescePhaseAdvance 0) true true with agenda := [] })
     | _ => false) = true := ⟨rfl, by decide +kernel⟩

/-- A state whose memory lists two bytes and whose step writes others. -/
def storing : State := { State.reset with
  agenda := [.event (.hostWrite (.mem 0x1000) [1, 0, 3])], hub := { Hub.reset with placed := [(0x0FFF, 9), (0x1001, 7)] } }

theorem witness_step_keeps_memory : MemoryCanonical storing ∧
    (match step storing with
     | .next t => t.hub.placed
     | _ => []) = [(0x0FFF, 9), (0x1000, 1), (0x1002, 3)] := by decide

/-- A shaped state, and one whose step goes on: that of a start. -/
theorem witness_step_keeps_shape : WellShaped State.reset ∧ (match step State.reset with
    | .next _ => true
    | _ => false) = true := ⟨reset_shaped, by decide +kernel⟩

/-! Words -/

/-- Word 0 with its predicate control on: the operands decide its output. -/
def gateState (a b p : Tok) : State := ready [.add ⟨4, 0xFF, 1, 0⟩] [(0, 0, a), (0, 1, b), (0, 3, p)] []

theorem witness_output_decided :
    computingWord (.add ⟨4, 0xFF, 1, 0⟩) = true ∧ shape (.add ⟨4, 0xFF, 1, 0⟩) = some (shapeAB ⟨4, 0xFF, 1, 0⟩) ∧
    ([(valTok 1, valTok 2, .poison 5), (.null, .poison 1, .null), (.null, .poison 1, valTok 1), (.poison 3, .poison 1, valTok 1), (valTok 1, valTok 2, valTok 1)].all
      fun (a, b, p) => canFire (readySite [.add ⟨4, 0xFF, 1, 0⟩] [(0, 0, a), (0, 1, b), (0, 3, p)] []) (shapeAB ⟨4, 0xFF, 1, 0⟩)) = true ∧
    siteGate (gateState (valTok 1) (valTok 2) (.poison 5)) (readySite [.add ⟨4, 0xFF, 1, 0⟩] [(0, 0, valTok 1), (0, 1, valTok 2), (0, 3, .poison 5)] [])
      (shapeAB ⟨4, 0xFF, 1, 0⟩) = some (.poison 5) ∧
    siteGate (gateState .null (.poison 1) (valTok 1)) (readySite [.add ⟨4, 0xFF, 1, 0⟩] [(0, 0, .null), (0, 1, .poison 1), (0, 3, valTok 1)] [])
      (shapeAB ⟨4, 0xFF, 1, 0⟩) = some .null ∧
    siteGate (gateState (.poison 3) (.poison 1) (valTok 1)) (readySite [.add ⟨4, 0xFF, 1, 0⟩] [(0, 0, .poison 3), (0, 1, .poison 1), (0, 3, valTok 1)] [])
      (shapeAB ⟨4, 0xFF, 1, 0⟩) = some (.poison 3) := by decide

/-- The integer and floating-point forms: each computes on its operands. -/
theorem witness_integer_words :
    Computes (at_ (.add ⟨4, 0xFF, 0, 0⟩) 1 2 3 1) (site_ (.add ⟨4, 0xFF, 0, 0⟩) 1 2 3 1) (shapeAB ⟨4, 0xFF, 0, 0⟩) ∧
    Computes (at_ (.mad ⟨4, 0xFF, 2, 0x0C⟩) 1 2 3 0) (site_ (.mad ⟨4, 0xFF, 2, 0x0C⟩) 1 2 3 0) (shapeABC ⟨4, 0xFF, 2, 0x0C⟩) ∧
    Computes (at_ (.abs ⟨4, 0xFF, 0, 1⟩) 0x80000000 0 0 0) (site_ (.abs ⟨4, 0xFF, 0, 1⟩) 0x80000000 0 0 0) (shapeA1 ⟨4, 0xFF, 0, 1⟩) ∧
    Computes (at_ (.lop3 ⟨4, 0x78, 0, 0⟩) 1 2 3 0) (site_ (.lop3 ⟨4, 0x78, 0, 0⟩) 1 2 3 0) (shapeInt ⟨4, 0x78, 0, 0⟩ (abc 32) false 32) ∧
    Computes (at_ (.shl ⟨4, 0xFE, 0, 4⟩) 1 0 0 0) (site_ (.shl ⟨4, 0xFE, 0, 4⟩) 1 0 0 0) (shapeAB ⟨4, 0xFE, 0, 4⟩) ∧
    Computes (at_ (.cmp ⟨4, 0xFF, 5, 7⟩) 1 2 0 0) (site_ (.cmp ⟨4, 0xFF, 5, 7⟩) 1 2 0 0) (shapeCmp ⟨4, 0xFF, 5, 7⟩) ∧
    Computes (at_ (.dot4 ⟨4, 0xFF, 0, 0x1D⟩) 1 2 3 0) (site_ (.dot4 ⟨4, 0xFF, 0, 0x1D⟩) 1 2 3 0) (shapeInt ⟨4, 0xFF, 0, 0x1D⟩ (abc 32) true 32) ∧
    Computes (at_ (.dot2 ⟨4, 0xFF, 0, 0x10⟩) 1 2 3 0) (site_ (.dot2 ⟨4, 0xFF, 0, 0x10⟩) 1 2 3 0) (shapeInt ⟨4, 0xFF, 0, 0x10⟩ (abc 32) true 32) :=
  ⟨computes_at rfl 1 2 3 1 (by decide), computes_at rfl 1 2 3 0 (by decide), computes_at rfl _ 0 0 0 (by decide), computes_at rfl 1 2 3 0 (by decide),
   computes_at rfl 1 0 0 0 (by decide), computes_at rfl 1 2 0 0 (by decide), computes_at rfl 1 2 3 0 (by decide), computes_at rfl 1 2 3 0 (by decide)⟩

/-- The corner operands of R186: a zero divisor, and the minimum by −1. -/
theorem witness_quotient_corners :
    opLane (at_ (.div ⟨4, 0xFF, 0, 0⟩) 5 0 0 0) (site_ (.div ⟨4, 0xFF, 0, 0⟩) 5 0 0 0) (shapeAB ⟨4, 0xFF, 0, 0⟩) 0 1 0 = 0 ∧
    laneInt 32 true (opLane (at_ (.div ⟨4, 0xFF, 0, 0⟩) 0x80000000 0xFFFFFFFF 0 0) (site_ (.div ⟨4, 0xFF, 0, 0⟩) 0x80000000 0xFFFFFFFF 0 0)
      (shapeAB ⟨4, 0xFF, 0, 0⟩) 0 0 0) = laneMin 32 true ∧
    laneInt 32 true (opLane (at_ (.div ⟨4, 0xFF, 0, 0⟩) 0x80000000 0xFFFFFFFF 0 0) (site_ (.div ⟨4, 0xFF, 0, 0⟩) 0x80000000 0xFFFFFFFF 0 0)
      (shapeAB ⟨4, 0xFF, 0, 0⟩) 0 1 0) = -1 := by decide

/-- `sel` fires on the tokens of each row of R194. -/
theorem witness_select :
    ([(.poison 3, valTok 1, valTok 2), (valTok 1, .null, valTok 2), (valTok 0, .null, valTok 2), (.null, valTok 1, .null), (.null, .null, valTok 2)].all
      fun (p, a, b) => canFire (readySite [.sel ⟨4, 0xFF, 0, 0⟩] [(0, 0, a), (0, 1, b), (0, 3, p)] []) (shapeSel ⟨4, 0xFF, 0, 0⟩)) = true := by decide

theorem witness_float_words :
    Computes (at_ (.fadd ⟨4, 0xFF, 0, 0⟩) 1 2 3 1) (site_ (.fadd ⟨4, 0xFF, 0, 0⟩) 1 2 3 1) (shapeFAB ⟨4, 0xFF, 0, 0⟩) ∧
    Computes (at_ (.fma ⟨4, 0xFF, 0, 4⟩) 1 2 3 1) (site_ (.fma ⟨4, 0xFF, 0, 4⟩) 1 2 3 1) (shapeFma ⟨4, 0xFF, 0, 4⟩) ∧
    Computes (at_ (.fabs ⟨4, 0xFF, 0, 0x14⟩) 1 2 3 1) (site_ (.fabs ⟨4, 0xFF, 0, 0x14⟩) 1 2 3 1) (shapeFA ⟨4, 0xFF, 0, 0x14⟩) ∧
    Computes (at_ (.fcmp ⟨4, 0xFF, 13, 0⟩) 0x7FC00000 2 3 1) (site_ (.fcmp ⟨4, 0xFF, 13, 0⟩) 0x7FC00000 2 3 1) (shapeFcmp ⟨4, 0xFF, 13, 0⟩) ∧
    Computes (at_ (.fcmp ⟨4, 0xFF, 2, 5⟩) 1 2 3 1) (site_ (.fcmp ⟨4, 0xFF, 2, 5⟩) 1 2 3 1) (shapeFcmp ⟨4, 0xFF, 2, 5⟩) ∧
    Computes (at_ (.fclass ⟨4, 0xFF, 0, 0⟩) 1 2 3 1) (site_ (.fclass ⟨4, 0xFF, 0, 0⟩) 1 2 3 1) (shapeFint ⟨4, 0xFF, 0, 0⟩) ∧
    Computes (at_ (.rcp ⟨4, 0xFF, 0, 0⟩) 0 2 3 1) (site_ (.rcp ⟨4, 0xFF, 0, 0⟩) 0 2 3 1) (shapeSfu ⟨4, 0xFF, 0, 0⟩) ∧
    Computes (at_ (.tanh ⟨4, 0xFF, 0, 0⟩) 0x7F800000 2 3 1) (site_ (.tanh ⟨4, 0xFF, 0, 0⟩) 0x7F800000 2 3 1) (shapeSfu ⟨4, 0xFF, 0, 0⟩) :=
  ⟨computes_at rfl 1 2 3 1 (by decide), computes_at rfl 1 2 3 1 (by decide), computes_at rfl 1 2 3 1 (by decide), computes_at rfl _ 2 3 1 (by decide),
   computes_at rfl 1 2 3 1 (by decide), computes_at rfl 1 2 3 1 (by decide), computes_at rfl 0 2 3 1 (by decide), computes_at rfl _ 2 3 1 (by decide)⟩

/-- The remaining forms of FloatArithmeticCompletes and FloatConversionsComplete, and of the conversions. -/
theorem witness_float_forms :
    ([(.fdiv ⟨4, 0xFF, 0, 0⟩), (.fsqrt ⟨4, 0xFF, 0, 4⟩), (.fdot2 ⟨4, 0xFF, 0, 0x10⟩), (.frnd ⟨4, 0xFF, 0, 0⟩), (.fscale ⟨4, 0xFF, 0, 0⟩), (.fgetx ⟨4, 0xFF, 0, 0⟩),
      (.cvt ⟨4, 0x14, 0, 0⟩), (.cvtsr ⟨4, 0x13, 0, 0⟩), (.pack ⟨4, 0xFF, 0, 0x10⟩), (.unpack ⟨4, 0x81, 0, 0x14⟩), (.qnt ⟨4, 0xFF, 0, 0⟩),
      (.dqnt ⟨4, 0xFF, 0, 0⟩), (.mov ⟨4, 0, 0, 0⟩), (.mov ⟨4, 0, 1, 1⟩)] : List Instr).all (fun i => computesB i 1 2 3 1) = true := by decide

/-- An encoding of each kind that is no NaN: zero, the least subnormal, the greatest value and an infinity. -/
theorem witness_encodings :
    ([(1, 0), (1, 1), (1, 0x7F7FFFFF), (1, 0xFF800000), (2, 0x7BFF), (4, 0x7E), (8, 0xF), (0, 1)] : List (Nat × Nat)).all
      (fun (c, v) => decide (c ≤ 8) && decide (v < 2 ^ (ffmt c).width) && !(decodeF (ffmt c) v).isNan) = true := by decide

/-- The values that the float statements speak of: a signalling NaN, an infinity, both zeros, a power of two, a negative number, a half-integer and integers
beyond the range of `ex2`, in f32; the greatest value and one step past it for conversions; codes that are integers. -/
theorem witness_values :
    decodeF (ffmt 1) 0x7F800001 = .nan true ∧ decodeF (ffmt 1) 0xFF800000 = .inf true ∧ decodeF (ffmt 1) 0x80000000 = .fin true 0 (-149) ∧
    decodeF (ffmt 1) 0x3F800000 = .fin false (2 ^ 23) (-23) ∧ decodeF (ffmt 1) 0xC0200000 = .fin true 0xA00000 (-22) ∧
    decodeF (ffmt 1) 0x48435000 = .fin false 0xC35000 (-6) ∧ decodeF (ffmt 1) 0xC8435080 = .fin true 0xC35080 (-6) ∧
    convert (ffmt 4) 0 false (.fin false 480 0) = (0x7F, cInvalid ||| cInexact) ∧ convert (ffmt 4) 0 true (.fin false 448 0) = (0x7E, 0) ∧
    (toE8m0 0 false (.fin false 1 128)).1 = 0xFF ∧ (toE8m0 0 false (.fin false 1 (-128))).1 = 0 ∧ (cvtInt 10).1 ≤ 32 := by decide +kernel

/-- The instance samples a marked slot, a wide pair whose high slot is marked, and a slot with an error. -/
def readState (slots : List Slot) (bad : List Nat) : State :=
  withThread [.rd ⟨4, 0, 62⟩] { aThread .admitted (some { anInst [] [] with slots0 := slots }) with lvsBad := bad }

theorem witness_read_slot :
    (match site? (readState (List.replicate 62 ⟨7, true, false⟩ ++ [⟨5, true, true⟩, ⟨6, true, false⟩]) []), shape (.rd ⟨4, 0, 62⟩) with
     | some x, some sh => canFire x sh && (x.ins.slots0.getD 62 Slot.empty).mark && !(slotsOf 62 (outWidthAt x.ws x.idx)).any x.t.lvsBad.contains
     | _, _ => false) = true ∧
    (match site? (readState (List.replicate 64 ⟨7, true, false⟩) [62]), shape (.rd ⟨4, 0, 62⟩) with
     | some x, some sh => canFire x sh && (slotsOf 62 (outWidthAt x.ws x.idx)).any x.t.lvsBad.contains
     | _, _ => false) = true := by decide

/-- `rd` sends the slot, and the parked thread of an error keeps it (R198, R378). -/
theorem test_rd : sent (.rd ⟨4, 0, 63⟩) 0 0 0 0 = some (7, 0) ∧
    (match execRd ⟨4, 0, 62⟩ (readState (List.replicate 64 ⟨7, true, false⟩) [62]) with
     | .next t => t.threads.map fun u => (u.st, u.kept.map fun r => (r.kind, r.cause))
     | _ => []) = [(.parked, some (0x0A, 2))] := by decide +kernel

/-! A mapped context: tables at 0x20000, 0x30000 and 0x40000 map page 1 to itself; page 2 is migratable, page 3 unmapped, page 4 ill-formed.
Page 1 holds a channel table, a signal table whose signal 0 is the word at 0x10200, and that word, 5. -/

/-- Its memory: a route to package 0 at address 0, page 1, then the three tables. -/
def aMemory : Memory :=
  [(0, 1), (0x10004, 1), (0x10100, 1), (0x10101, 2), (0x10102, 1), (0x10200, 5),
   (0x20000, 1), (0x20002, 3), (0x30000, 1), (0x30002, 4), (0x40008, 0x1B), (0x40009, 6), (0x4000A, 1), (0x40011, 0x80), (0x40020, 7)]

/-- The context, with signal 0 watched. -/
def aCtx : Ctx := { newCtx 0 false with
  regs := { (newCtx 0 false).regs with ptBase := 0x20000, chtBase := 0x10000, sigtBase := 0x10100, sigtN := 1 }, sigs := [⟨0, some 0x10200⟩] }

/-- A machine with that context and memory. -/
def mapped (s : State) : State := { s with ctxs := [aCtx], hub := { s.hub with placed := aMemory } }

theorem test_memory_canonical : aMemory.wf = true := by decide

/-- The walks of the four pages (R228). -/
theorem test_walks :
    walk (mapped State.reset) 0x20000 0x10000 = .leaf 0x1061B false 0x40008 ∧ walk (mapped State.reset) 0x20000 0x20000 = .migrate false ∧
    walk (mapped State.reset) 0x20000 0x30000 = .unmapped ∧ walk (mapped State.reset) 0x20000 0x40000 = .bad := by decide

/-! Words that access memory -/

/-- The clauses of LoadsIssueRequests: the last element, the one beyond it, a table entry that is no record; the scratchpad's last word, the
word across its end, a misaligned one; a channel that is open, one that is not, and a misaligned peer address. -/
theorem witness_loads :
    computesB (.ld ⟨4, 0, 0, 0, 2⟩) 255 0 0 0 = true ∧
    bufAddr (bufOf (at_ (.ld ⟨4, 0, 0, 0, 2⟩) 255 0 0 0) (aThread .admitted none) 0) 255 0 4 .read = .va 0x103FC ∧
    translate (at_ (.ld ⟨4, 0, 0, 0, 2⟩) 255 0 0 0) (aThread .admitted (some (anInst (vals 255 0 0 0) []))) 0 0x103FC .read = .pa 0x103FC 0 ∧
    bufAddr (bufOf (at_ (.ld ⟨4, 0, 0, 0, 2⟩) 256 0 0 0) (aThread .admitted none) 0) 256 0 4 .read = .out ∧
    bufAddr (bufOf (at_ (.ld ⟨4, 1, 0, 0, 2⟩) 0 0 0 0) (aThread .admitted none) 1) 0 0 4 .read = .fault (prot 1 0) ∧
    (unitsOf (at_ (.lds ⟨4, 0, 0, 0, 2⟩) 16380 0 0 0) (aThread .admitted none)).1 * 16384 = 16384 ∧
    ([16380, 16381, 16384] : List Nat).all (fun o => computesB (.lds ⟨4, 0, 0, 0, 2⟩) o 0 0 0 && computesB (.ldsn ⟨4, 0, 0, 0, 2⟩) o 0 0 0) = true ∧
    badScratch (at_ (.ldsn ⟨4, 0, 0, 0, 2⟩) 16380 0 0 0) (aThread .admitted none) 16380 4 = false ∧
    computesB (.pld ⟨4, 0, 0, 0, 2⟩) 0x1001 0 0 0 = true ∧ (openChannel (at_ (.pld ⟨4, 0, 0, 0, 2⟩) 0x1000 0 0 0) 0 0).2 = none ∧
    (openChannel (mapped (at_ (.pld ⟨4, 0, 0, 0, 2⟩) 0x1000 0 0 0)) 0 0).2 = some (0, 0, false, 0) ∧ computesB (.pf ⟨0, 0, 0, 0, 1⟩) 0 0 0 0 = true := by decide

/-- `mov`, `rdsys`, `rdctl` and `perf` fire, and `xget` finds a member whose slot is full, marked or empty, or no member. -/
theorem witness_samples :
    ([.mov ⟨4, 0, 0, 0⟩, .rdsys ⟨4, 0, 13⟩, .xget ⟨4, 0, 7⟩, .rdctl ⟨3, 4, 0⟩, .perf ⟨4, 4, 0⟩] : List Instr).all (fun i => computesB i 0 0 0 0) = true ∧
    (grid? (at_ (.rdsys ⟨4, 0, 13⟩) 0 0 0 0) 0).isSome = true ∧
    ((threadsOf (at_ (.xget ⟨4, 0, 7⟩) 0 0 0 0) 0 0).find? fun m => m.tid == 0 && liveThread m).isSome = true ∧
    ((threadsOf (at_ (.xget ⟨4, 0, 7⟩) 1 0 0 0) 0 0).find? fun m => m.tid == 1 && liveThread m) = none ∧
    aGrid.spec = none ∧ (grid? { at_ (.rdsys ⟨4, 0, 13⟩) 0 0 0 0 with grids := [{ aGrid with spec := some ⟨1, some 2, none, none, 0, 0, false⟩ }] } 0).any
      (fun g => g.spec.isSome) = true ∧
    (let s := { at_ (.rdctl ⟨3, 4, 0⟩) 0 0 0 0 with ctxs := [{ newCtx 0 false with regs := { (newCtx 0 false).regs with csel := 1 } }] }
     (ctx? s 0).map (fun c => ctx? s (c.regs.csel.toNat % 2 ^ 16)) = some none ∧ (ctx? s 0).map (fun c => c.mons) = some [] ∧ s.pkg.vct.length = 128) := by decide +kernel

/-- An effect of the thread, with what it does, its bytes and how far it has come. -/
def anEffect (kind : EffKind) (runs : Runs) (st : EffSt) : Effect :=
  { id := 5, ctx := 0, grid := 0, gidx := 0, vc := 0, uid := 0, frame := 0, seq := 0, ord := 0, ptr := ⟨0, 0, 0⟩, idx := 0, kind := kind, va := 0
    width := 4, mt := 0, ga := false, rel := 0, acq := 0, runs := runs, old := 0, st := st, seenEf := 0, acked := false, accepted := false
    landed := false, lost := false, tries := 0, sentAt := none }

/-- A thread of the group with a scratchpad store of the last word still to come: an `ldsn` of that word waits for it, and one of the word before does not. -/
theorem witness_own_scratch :
    (let s := { at_ (.ldsn ⟨4, 0, 0, 0, 2⟩) 16380 0 0 0 with effects := [{ anEffect (.spadStore [1, 2, 3, 4]) [] .committed with va := 16380 }] }
     ownScratch s 0 0 16380 4 = true ∧ ownScratch s 0 0 16376 4 = false) := by decide

/-- A word of each kind that acts at commit fires. -/
theorem witness_commit_words :
    ([.exit ⟨0, 0, 0⟩, .nextp ⟨0, 0⟩, .st ⟨0, 0, 0, 0, 2⟩, .wr ⟨0, 0, 1⟩, .gred ⟨4, 0, 0, 0⟩, .aadd ⟨0, 0, 0, 2, 0⟩, .tcopy ⟨0, 0, 0, 0⟩, .mma ⟨0, 0, 0, 0⟩,
      .wrctl ⟨2, 0, 0⟩, .launch ⟨0, 0, 0⟩] : List Instr).all (fun i => commitWord i && (match shape i with
        | some sh => canFire (readySite [i] (vals 0 0 0 0) []) sh
        | none => false)) = true := by decide

/-- A step answered a next state. -/
def goesOn (o : Out) : Bool :=
  match o with
  | .next _ => true
  | _ => false

/-- Words whose step changes one instance, and a load whose step answers a next state. -/
theorem witness_frames :
    quietWord (.st ⟨0, 0, 0, 0, 2⟩) = true ∧ goesOn (exec (.st ⟨0, 0, 0, 0, 2⟩) (at_ (.st ⟨0, 0, 0, 0, 2⟩) 1 2 0 0)) = true ∧
    goesOn (exec (.ld ⟨4, 0, 0, 0, 2⟩) (at_ (.ld ⟨4, 0, 0, 0, 2⟩) 255 0 0 0)) = true := by decide

/-! Commit -/

/-- The next state of an outcome that is one. -/
def nextOf (o : Out) : State :=
  match o with
  | .next t => t
  | _ => State.reset

/-- Words 0 and 1 have fired: the state in which the instance tries to commit, and its site. -/
def fired2 (i : Instr) (p : Tok) (q : Tok) : State := ready [i, .exit ⟨0, 0, 0⟩] [(0, 0, p), (0, 1, q)] [0, 1]

/-- The site at which the thread in frame 0 of vc0 commits. -/
def commitX (s : State) : Site := ((threadAt? s 0 0).bind (commitSite? s)).getD (readySite [] [] [])

/-- An instance of a live-out and a move: its commit passes every test, no word of it has an effect of its own, and nothing else is pending. -/
def plainCommit : State := ready [.wr ⟨0, 0, 1⟩, .next ⟨1, 0⟩] [(0, 0, valTok 9)] [0, 1]

/-- What both clauses of CommitTestsInOrder ask of the thread in frame 0 of vc0 of a state. -/
def triesB (s : State) : Bool :=
  match threadAt? s 0 0 with
  | some t => mayCommit s t && !halted s 0 && !commitPast s 0 0 && decide (phaseOf s t.ctx < 3) && (commitSite? s t).isSome && allFired (commitX s) && decide (t.ackRec = none) &&
      !stalled (watchNamed s (commitX s))
  | none => false

/-- And what the second asks beside. -/
def reachesB (s : State) : Bool :=
  let x := commitX s
  triesB s && decide (scanAcc ((List.range x.ws.length).map (accessAt (watchNamed s x) x)) = .clear) &&
  !(readLayouts (watchNamed s x) x).wait && confirmed (readLayouts (watchNamed s x) x).s x.t

/-- An access that fails first, one that misses first, and an effect that holds a provisional group. -/
theorem witness_commit_scan :
    triesB (fired2 (.st ⟨0, 1, 0, 0, 2⟩) (valTok 0) (valTok 9)) = true ∧
    (accessAt (fired2 (.st ⟨0, 1, 0, 0, 2⟩) (valTok 0) (valTok 9)) (commitX (fired2 (.st ⟨0, 1, 0, 0, 2⟩) (valTok 0) (valTok 9))) 0 = .bad (prot 1 0)) ∧
    (let s := { fired2 (.st ⟨0, 0, 0, 0, 2⟩) (valTok 0) (valTok 9) with cores := [{ aCore [.st ⟨0, 0, 0, 0, 2⟩, .exit ⟨0, 0, 0⟩] with tlb := [] }] }
     triesB s = true ∧
     accessAt s (commitX (fired2 (.st ⟨0, 0, 0, 0, 2⟩) (valTok 0) (valTok 9))) 0 = .miss 0x10000 .write) ∧
    (let s := { fired2 (.st ⟨0, 0, 0, 0, 2⟩) (valTok 0) (valTok 9) with grids := [{ aGrid with spec := some ⟨1, none, none, none, 0, 0, false⟩ }] }
     let x := commitX s
     triesB s = true ∧ confirmed (readLayouts (watchNamed s x) x).s x.t = false ∧
     (List.range x.ws.length).any (holdsInstance (readLayouts (watchNamed s x) x).s x (readLayouts (watchNamed s x) x).recs) = true) := by decide

/-- A poisoned store, a trap, a return to a link word of no object, a call to a migratable page, and a matrix op on units that the group
does not hold, each the first test that fails. -/
theorem witness_commit_tests :
    (let s := fired2 (.st ⟨0, 0, 0, 0, 2⟩) (valTok 0) (.poison 3); let x := commitX s
     reachesB s = true ∧ poisonAt? s x = some (0, 3)) ∧
    (let s := fired2 (.trap ⟨5, 0, 0⟩) (valTok 7) .null; let x := commitX s
     reachesB s = true ∧ poisonAt? s x = none ∧ trapAt? s x = some ⟨0x0B, 0, 5, 0, 7⟩) ∧
    (let s := ready [.ret ⟨0, 0, 0⟩] [(0, 0, valTok 0)] [0]; let x := commitX s
     reachesB s = true ∧ poisonAt? s x = none ∧ trapAt? s x = none ∧ (testSucc s x).2 = .bad (succFault x.t 4 0)) ∧
    (let s := mapped (ready [.calli ⟨0, 0, 0⟩] [(0, 0, valTok 0x20000)] [0]); let x := commitX s
     reachesB s = true ∧ poisonAt? s x = none ∧ trapAt? s x = none ∧ (testSucc s x).2 = .bad { transFault 2 0x20000 with data := 0 }) ∧
    (let s := fired2 (.tzero ⟨0, 16, 0, 0⟩) (valTok 1) .null; let x := commitX s
     reachesB s = true ∧ poisonAt? s x = none ∧ (testSucc s x).2 = .go ⟨none, none, none⟩ ∧ engineFault? s x = some 0) := by decide

/-- A claim of an accumulator that another group holds lacks a resource; a store in bounds lacks none, and its instance commits. -/
theorem witness_commit_resources :
    (let c := aCore [.tclaim ⟨0, 16, 0, 0⟩, .exit ⟨0, 0, 0⟩]
     let s := { fired2 (.tclaim ⟨0, 16, 0, 0⟩) (valTok 1) .null with
       cores := [{ c with store := { c.store with accs := { Tile.reset with holder := some (9, 0) } :: List.replicate 15 Tile.reset } }] }
     let x := commitX s
     reachesB s = true ∧ poisonAt? s x = none ∧ engineFault? s x = none ∧ lacking? s x = some 3) ∧
    (let s := fired2 (.st ⟨0, 0, 0, 0, 2⟩) (valTok 255) (valTok 9); let x := commitX s
     reachesB s = true ∧ poisonAt? s x = none ∧ trapAt? s x = none ∧ (testSucc s x).2 = .go ⟨none, none, none⟩ ∧ engineFault? s x = none ∧
     lacking? s x = none) := by decide +kernel

/-- The clauses of CommitLandsLiveOuts. -/
theorem witness_lands :
    (let s := plainCommit; let x := commitX s; let r := testSucc s x
     reachesB s = true ∧ (readLayouts (watchNamed s x) x).s = s ∧ poisonAt? s x = none ∧ trapAt? s x = none ∧
     r.2 = .go ⟨some ⟨0, 0, 1⟩, none, none⟩ ∧ engineFault? r.1 x = none ∧ lacking? r.1 x = none ∧
     (x.ws.all fun v => v.all plainAtCommit) = true ∧ (thread? r.1 0).any (·.resident) = true ∧ r.1.effects = [] ∧ (core r.1 0).ops = [] ∧
     r.1.groups = [aGroup] ∧ aGroup.colls = [] ∧ aGroup.gw.arrived = [] ∧ (aGroup.bars.all fun b => b.arrived.isEmpty) = true) := by decide +kernel

/-- Its live-out lands, and its thread waits at its successor (R151, R199). -/
theorem test_lands : (nextOf (execThreadCommit 0 0 plainCommit)).threads.map (fun t => (t.slots.getD 1 Slot.empty, t.ptr, t.st, t.seq)) =
    [(⟨9, true, false⟩, ⟨0, 0, 1⟩, .waiting, 1)] := by decide +kernel

/-- The committed store is an effect, and its thread has left (R151, R261). -/
theorem test_commit_store :
    (nextOf (execThreadCommit 0 0 (fired2 (.st ⟨0, 0, 0, 0, 2⟩) (valTok 255) (valTok 9)))).effects.map (fun e => (e.runs, e.st)) =
      [([(0x103FC, [9, 0, 0, 0])], .committed)] := by decide +kernel

/-- A `wr` to the last slot, and a wide one to the last pair; a frame of 64 slots; an FSLOT of 63 with V set, and one without. -/
theorem witness_live_outs :
    (aThread .admitted none).slots.length = 64 ∧ (63 < 64 ∧ 62 + 1 < 64) ∧ recFslot aGrid.raw = 0 ∧ recFslot (0xBF <<< (8 * 0x1C)) = 0xBF ∧ bit 0xBF 7 = true ∧
    0xBF % 64 = 63 := by decide +kernel

/-- The accesses of StoresPassOn: a store and a releasing store in bounds, a zero-fill, a store out of bounds, a scratchpad store. -/
theorem witness_stores :
    ([(.st ⟨0, 0, 0, 0, 2⟩, 255), (.strel ⟨0, 4, 0, 0, 2⟩, 255), (.zfill ⟨0, 0, 0, 0, 0⟩, 0), (.st ⟨0, 0, 0, 0, 2⟩, 256), (.sts ⟨0, 0, 0, 0, 2⟩, 16380)] :
      List (Instr × Nat)).map (fun (i, a) => (shape i).map fun sh => accessOf (at_ i a 9 0 0) (site_ i a 9 0 0) i sh) =
    [some (.global 0x103FC 0x103FC 0 false), some (.global 0x103FC 0x103FC 0 false), some (.global 0x10000 0x10000 0 false), some .dropped,
     some (.scratch 16380)] ∧ (at_ (.sts ⟨0, 0, 0, 0, 2⟩) 16380 9 0 0).cores.length = 128 := by decide +kernel

/-- Old values of 4 and of 8 bytes. -/
theorem witness_atomics : ([255, 255, 255, 255] : List Byte).length = 4 ∧ ([0, 0, 0, 0, 0, 0, 0, 128] : List Byte).length = 8 := by decide

/-- `amin` is signed for i32 and unsigned for n32, and `acas` keeps a value that differs (R272). -/
theorem test_atomic_values :
    atomicRun 0xB1 0 4 1 0 [255, 255, 255, 255] = [255, 255, 255, 255] ∧ atomicRun 0xB1 1 4 1 0 [255, 255, 255, 255] = [1, 0, 0, 0] ∧
    atomicRun 0xB7 1 4 5 9 [4, 0, 0, 0] = [4, 0, 0, 0] ∧ atomicRun 0xB7 1 4 5 9 [5, 0, 0, 0] = [9, 0, 0, 0] := by decide

/-- The access of word 0 with operands a and b, where a state is made from its own. -/
def accAt (f : State → State) (i : Instr) (a : Nat) : Option Acc := (shape i).map fun sh => accessOf (f (at_ i a 9 0 0)) (site_ i a 9 0 0) i sh

/-- The clauses of EffectWordsLeave: atomics in bounds and out of them, signal 0, the three kinds of `fence`, pages of memory types 0 and 1, a channel that is
open and one that is not. -/
theorem witness_commit_effects :
    accAt id (.aadd ⟨0, 0, 0, 2, 0⟩) 255 = some (.global 0x103FC 0x103FC 0 false) ∧ accAt id (.acas ⟨0, 0, 0, 2, 0⟩) 256 = some .dropped ∧
    accAt mapped (.sigsub ⟨0, 0, 0, 2, 0⟩) 0 = some (.signal 0 0x10200 0x10200) ∧ accAt mapped (.mbox ⟨0, 0, 0, 2, 0⟩) 0 = some (.signal 0 0x10200 0x10200) ∧
    (bits (0x03#8).toNat 3 2, bits (0x0B#8).toNat 3 2, bits (0x13#8).toNat 3 2) = (0, 1, 2) ∧
    accAt id (.cwb ⟨0, 0, 0, 0, 1⟩) 0 = some (.global 0x10000 0x10000 0 false) ∧
    accAt (fun s => modCore s 0 fun c => { c with tlb := [⟨0, 1, false, 0x10299⟩] }) (.cwb ⟨0, 0, 0, 0, 1⟩) 0 = some (.global 0x10000 0x10000 1 false) ∧
    accAt id (.launch ⟨0, 0, 0⟩) 0 = some (.global 0x10000 0x10000 0 false) ∧
    accAt mapped (.pst ⟨0, 0, 0, 0, 2⟩) 0x1000 = some (.peer 0x1000) ∧ (openChannel (mapped State.reset) 0 0).2.isSome = true ∧
    accAt id (.pst ⟨0, 0, 0, 0, 2⟩) 0x1000 = some (.peer 0x1000) ∧ (openChannel State.reset 0 0).2 = none := by decide +kernel

/-- The clauses of EngineWordsJoin and GroupWordsAct: a core, a group, a thread, frames, a ring or none, and a selected context or none. -/
theorem witness_commit_joins :
    (let s := at_ (.spawn ⟨0, 3⟩) 0 0 0 0
     0 < s.cores.length ∧ (core s 0).ops = [] ∧ group? s 0 0 = some aGroup ∧ thread? s 0 = some (aThread .admitted (some (anInst (vals 0 0 0 0) []))) ∧
     (spawnFrames s 0 1).take 1 = [1] ∧ settledG s 0 = true ∧ ring? s 0 0 15 = none ∧ 3 < aGroup.bars.length ∧
     siteGate s (site_ (.spawn ⟨0, 3⟩) 0 0 0 0) ⟨[], false, 0, none, none, [], .none, false, false⟩ = none ∧ (ctx? s (selected s 0)).isSome = true ∧
     (copyForm (.tscat ⟨0, 0, 0, 0⟩)).isSome = true) ∧
    (let s := modCore State.reset 0 fun k => { k with rings := [⟨0, 15, 0, 0, 64, 1, 1, 0, none⟩] }
     ring? s 0 0 15 = some ⟨0, 15, 0, 0, 64, 1, 1, 0, none⟩) ∧
    (let w := 16320 + 0 * 2 ^ 20
     (spadOf (at_ (.spres ⟨0, 0, 0, 15⟩) 64 w 0 0) 0 0).2 = 16384 ∧ 64 % 64 = 0 ∧ 64 + (bits w 20 4 + 1) * bits w 0 17 = 16384 ∧ bits w 0 17 % 64 = 0 ∧
     bits w 17 3 = 0 ∧ bits w 24 8 = 0) ∧
    (let c := { newCtx 0 false with regs := { (newCtx 0 false).regs with csel := 1 } }
     let s := { State.reset with ctxs := [c] }
     ctx? s (selected s 0) = none) := by decide +kernel

/-- A thread whose `calli` names the segment at 0x10010, on a page that may be fetched. -/
def callState : State :=
  let s := mapped (ready [.calli ⟨0, 0, 0⟩] [(0, 0, valTok 0x10010)] [0])
  { modCore s 0 (fun k => { k with tlb := [⟨0, 1, false, 0x10239⟩] }) with
    ctxs := [{ aCtx with objs := [⟨0, 0x10000, 0x1000, 0, 0, 0, [⟨0, 1, 0⟩], [⟨0x10, 0, 0⟩]⟩], regs := { aCtx.regs with ctxCtl := 4 } }] }

/-- The clauses of SuccessorsFound: operands of `nexti` and `ret` that pass and that fail, `calli` that finds its segment, and words that trap. -/
theorem witness_successors :
    (let t := aThread .admitted none; ownSegs callState t = 1 ∧ (4095 < 4096 ∧ 1 ≤ 4095 ∧ 0 < 1) ∧
     (checkLink callState 0 0).toOption = some ⟨0, 0, 0⟩ ∧ (checkLink callState 0 1).toOption = none) ∧
    (match codeXlat callState 0 0 0 0x10010 with
     | (s1, .inl (.pa pa mt)) => decide (pa = 0x10010) && decide (mt = 0) && (match ctx? s1 0 with
       | some c => segAt? c 0x10010 == some ⟨0, 0, 0⟩
       | none => false)
     | _ => false) = true ∧
    (let s := ready [.trap ⟨5, 0, 0⟩] [(0, 0, valTok 7)] [0]
     acts s (commitX s) 0 = true ∧ (wordAt? (commitX s) 0).isSome = true) ∧
    (let s := { ready [.brk ⟨5, 0, 0⟩] [(0, 0, valTok 7)] [0] with ctxs := callState.ctxs }
     acts s (commitX s) 0 = true ∧ (wordAt? (commitX s) 0).isSome = true ∧ (ctx? s 0).any (fun c => c.regs.ctxCtl.getLsbD 2) = true) ∧
    (let t := { aThread .moving none with wait := some ⟨some ⟨0, 0, 0⟩, true, []⟩ }; let s := withThread [] t
     thread? s 0 = some t) := by decide +kernel

/-! Effects -/

/-- A machine with one effect. -/
def withEffect (e : Effect) : State := { mapped (withThread [] (aThread .waiting none)) with effects := [e] }

/-- A store visible on its die that may be placed, and one committed that may be performed there. -/
theorem witness_placement :
    mayPlace (withEffect (anEffect .store [(0x10300, [1, 2])] (.onDie 0))) (anEffect .store [(0x10300, [1, 2])] (.onDie 0)) = true ∧
    mayPlace (withEffect { anEffect .store [(0x10300, [1, 2])] .committed with ga := true }) { anEffect .store [(0x10300, [1, 2])] .committed with ga := true } = true ∧
    (let e := anEffect .store [(0x10300, [1, 2])] .committed
     effect? (withEffect e) 5 = some e ∧ blocked (withEffect e) e = false ∧ homeWaits (withEffect e) e = false ∧
     overtakes (withEffect e) e (fun y => y != .committed) = false ∧ dieOf (withEffect e) 0 < (withEffect e).dies.length) := by decide

/-- Placement writes memory and performance does not (R328). -/
theorem test_placement :
    (nextOf (execWritePlacement (.place 5) (withEffect (anEffect .store [(0x10100, [0])] (.onDie 0))))).hub.placed =
      aMemory.filter (fun c => c.1 != 0x10100) ∧
    (nextOf (execWritePerformedInL2 5 (withEffect (anEffect .store [(0x10100, [0])] .committed)))).hub.placed = aMemory ∧
    dieRead (nextOf (execWritePerformedInL2 5 (withEffect (anEffect .store [(0x10100, [0])] .committed)))) 0 0x10100 1 = [0] := by decide +kernel

/-- Nothing but a store is pending, and nothing has arrived anywhere. -/
theorem witness_calm : Calm (withEffect (anEffect .store [(0x10300, [1, 2])] (.onDie 0))) := by
  refine ⟨fun e he => ?_, fun g hg => ?_⟩
  · rw [List.mem_singleton.mp he]; exact .inl rfl
  · rw [List.mem_singleton.mp hg]; exact ⟨by decide, by decide, rfl⟩

/-- The states of AcknowledgementsComplete: an answer due, a retry due and the last one gone, a host write, a peer write, an atomic's result. -/
theorem witness_acknowledgements :
    (let e := { anEffect .store [(0x10300, [1])] .placed with ga := true }
     effect? (withEffect e) 5 = some e ∧ e.acked = false ∧ e.lost = false) ∧
    ([0, 2, 3] : List Nat).all (fun n => let e := { anEffect .store [(0x10300, [1])] .placed with ga := true, tries := n, sentAt := some 0 }
      ackOverdue { withEffect e with clock := ⟨0x400000, Clock.reset.regions⟩ } e) = true ∧
    (let e := { anEffect .store [(0x8000000000000, [1])] .placed with mt := 2 }
     effect? (withEffect e) 5 = some e ∧ e.accepted = false) ∧
    (let e := anEffect (.peer 0 0 0 7 true false) [(0x10300, [1])] .committed
     effect? (withEffect e) 5 = some e ∧ blocked (withEffect e) e = false ∧ flowAhead (withEffect e) e = false) ∧
    (let e := { anEffect (.atomic 0xB0 0 4 1 0 63) [(0x10300, [1])] .placed with ga := true, acked := true }
     effect? (withEffect e) 5 = some e ∧ ackDone e = true ∧ resultWaits (withEffect e) e.uid e.seq e.ord (63, 4) = false) := by decide +kernel

/-- A peer's request that the far-end checks pass, at the last byte of the page, and one to an unmapped page. -/
theorem witness_peer :
    (farCheck (mapped State.reset) 0 0 0 false false true 0 0x1FFFF 1).2.toOption = some 0x1FFFF ∧
    (farCheck (mapped State.reset) 0 0 0 false false false 0 0x10000 16).2.toOption = some 0x10000 ∧
    (farCheck (mapped State.reset) 0 0 0 false false true 0 0x30000 4).2.toOption = none ∧
    piecesAway (mapped State.reset) (farPieces (mapped State.reset) 0 0x1FFFF 1) = false ∧
    (flowNext (mapped State.reset) ⟨0, 0, 0, 0, 0, true, false, 0, 0x10000, [1]⟩ = true ∧
     flowNext { mapped State.reset with hub := { (mapped State.reset).hub with peerFlows := [((0, 0, 0), 6)] } } ⟨0, 0, 0, 7, 0, true, false, 0, 0x10000, [1]⟩ = false) := by
  decide +kernel

/-! Walks, loads, faults -/

/-- A page that cores 0 and 5 miss. -/
def missing (page : Nat) : State :=
  { mapped State.reset with hub := { (mapped State.reset).hub with misses := [⟨0, page, true, false, 0, 0⟩, ⟨0, page, false, false, 0, 5⟩, ⟨0, 9, false, false, 0, 5⟩] } }

/-- The four ends of a walk, with misses; and an FU_DONE for which nothing waits. -/
theorem witness_page_walks :
    ([1, 2, 3, 4] : List Nat).all (fun p => (ctx? (missing p) 0).isSome &&
      ((missing p).hub.misses.filter fun m => m.ctx == 0 && m.page == p).length == 2) = true ∧
    walk (missing 1) (ptBase aCtx) 0x10000 = .leaf 0x1061B false 0x40008 ∧ walk (missing 2) (ptBase aCtx) 0x20000 = .migrate false ∧
    walk (missing 3) (ptBase aCtx) 0x30000 = .unmapped ∧ walk (missing 4) (ptBase aCtx) 0x40000 = .bad ∧
    (missing 1).hub.migr = [] ∧ parkedOnPage 0 1 (aThread .parked none) = false := by decide

/-- A load that waits, at word 0. -/
def waitsLoad (i : Instr) (va : Nat) : State :=
  mapped (withThread [i] (aThread .admitted (some { anInst [] [0] with loads := [⟨0, va, .pending, 0⟩] })))

/-- What LoadWaits asks. -/
def loadB (s : State) : Bool :=
  (((threadAt? s 0 0).bind (·.inst)).any fun ins => (ins.loads.find? fun l => l.idx == 0 && l.st == .pending).isSome) && (placeAt? s 0 0).isSome

/-- Its thread. -/
def loadT (s : State) : Thread := (threadAt? s 0 0).getD (aThread .waiting none)

theorem witness_loads_return :
    (let s := waitsLoad (.ld ⟨4, 0, 0, 0, 2⟩) 0x1FFFC
     loadB s = true ∧ translate s (loadT s) (cidfOf s (loadT s)) 0x1FFFC .read = .pa 0x1FFFC 0 ∧ atomicInFlight s 0 0x1FFFC 4 = false ∧
     (readGlobal s (loadT s) 0x1FFFC 0 4 0x1FFFC).2.toOption = some [0, 0, 0, 0]) ∧
    (let s := waitsLoad (.ldacq ⟨4, 0, 0, 0, 2⟩) 0x10200
     loadB s = true ∧ (readGlobal (invalidateL1 s 0 0) (loadT s) 0x10200 0 4 0x10200).2.toOption = some [5, 0, 0, 0]) ∧
    (let s := waitsLoad (.lds ⟨4, 0, 0, 0, 2⟩) 16380
     loadB s = true ∧ linePresent s 0 (((unitsOf s (loadT s)).2 * 16384 + 16380) / 64) = true ∧ badScratch s (loadT s) 16380 4 = false) ∧
    (let s0 := waitsLoad (.lds ⟨4, 0, 0, 0, 2⟩) 16380
     let s := modCore s0 0 fun c => { c with store := { c.store with absent := [(255, 1)] } }
     loadB s = true ∧ linePresent s 0 (((unitsOf s (loadT s)).2 * 16384 + 16380) / 64) = false) ∧
    (let s := { waitsLoad (.pld ⟨4, 0, 0, 0, 2⟩) 0x1000 with replies := [⟨0, 0, 0, none, [1, 2, 3, 4]⟩] }
     loadB s = true ∧ (s.replies.find? fun r => r.vc == 0 && r.uid == 0 && r.idx == 0) = some ⟨0, 0, 0, none, [1, 2, 3, 4]⟩) := by decide +kernel

/-- The acquired word (R255): the value returned is that of memory. -/
theorem test_load_return : ((threadAt? (nextOf (execLoadReturn 0 0 0 (mapped (withThread [.ldacq ⟨4, 0, 0, 0, 2⟩, .exit ⟨0, 0, 0⟩]
    (aThread .admitted (some { anInst [] [0] with loads := [⟨0, 0x10200, .pending, 0⟩] })))))) 0 0).bind (·.inst)).map (fun i => i.toks) =
    some [(1, 0, valTok 5)] := by decide +kernel

/-- A parked thread, with the record it keeps. -/
def parkedThread : Thread := { aThread .parked none with kept := some ⟨0x0B, 0, 0, 0, 1, 0, 0, 5, 0, 0, 0, []⟩ }

theorem witness_fault : thread? (at_ (.add ⟨4, 0xFF, 0, 0⟩) 1 2 3 1) 0 = some (aThread .admitted (some (anInst (vals 1 2 3 1) []))) := by decide +kernel

/-- The greatest value of each field of a link word and of a record, and the record with none. -/
theorem witness_record_layout : (1023 < 1024 ∧ 4095 < 4096) ∧ ofLink (linkWord ⟨1023, 1023, 4095⟩) = ⟨1023, 1023, 4095⟩ ∧
    (recBytes ⟨255, 255, 65535, 255, 255, 65535, 1, 2, 2 ^ 64 - 1, 3, 4, []⟩).length = 32 ∧ (recBytes ⟨0, 0, 0, 0, 0, 0, 0, 0, 0, 0, 0, []⟩).length = 32 := by decide +kernel

/-- A clock at a hub cycle. -/
def atHub (s : State) (n : Nat) : State := { s with clock := { s.clock with tick := 2 * n } }

/-- The core clock of a virtual core of region 0. -/
def atCycle (s : State) (n : Nat) : State := { s with clock := ⟨4 * n, (s.clock.regions.map fun r => { r with acc := 4000 * n })⟩ }

/-- A barrier that has lasted its limit, and a commit that lacks an accumulator for as long. -/
theorem witness_stalls :
    (let s := atHub { mapped State.reset with groups := [{ aGroup with bars := List.replicate 4 ⟨0, [3], 0, false, 0⟩ }] } 0x01000000
     groupNo? s 0 = some { aGroup with bars := List.replicate 4 ⟨0, [3], 0, false, 0⟩ } ∧ barStalled s 0 0 false [3] = true) ∧
    (let c := aCore [.tclaim ⟨0, 16, 0, 0⟩, .exit ⟨0, 0, 0⟩]
     let t := aThread .admitted (some { anInst [(0, 0, valTok 1), (0, 1, .null)] [0, 1] with commitAt := some 0 })
     let s := atHub { withThread [] t with
       cores := [{ c with store := { c.store with accs := { Tile.reset with holder := some (9, 0) } :: List.replicate 15 Tile.reset } }] } 0x00100000
     threadAt? s 0 0 = some t ∧ (commitSite? s t).isSome = true ∧ mayCommit s t = true ∧ wdLimit s 0 ≤ watchNow s 0 ∧ lacking? s (commitX s) = some 3) ∧
    (aCtx.evHeld = [] ∧ aCtx.evOver = 0 ∧ ctx? (mapped State.reset) 0 = some aCtx) := by decide +kernel

/-- A parked thread, and its object. -/
def faultState : State :=
  { mapped (withThread [] parkedThread) with ctxs := [{ aCtx with objs := [⟨0, 0x1000, 0x1000, 0, 0, 0, [⟨0, 1, 0⟩], [⟨0, 0, 0⟩]⟩] }] }

/-- A thread that is named, one that is not; a link word that is valid and one that is not; a core that is halted. -/
theorem witness_fault_commands :
    placedThread? faultState (fcmdOf 0) isParked = some parkedThread ∧ parkedThread.ackLost = [] ∧
    placedThread? State.reset (fcmdOf 0) isParked = none ∧ (checkLink faultState 0 (linkWord ⟨0, 0, 0⟩)).toOption = some ⟨0, 0, 0⟩ ∧
    (checkLink faultState 0 (linkWord ⟨0, 0, 1⟩)).toOption = none ∧
    placedThread? faultState (fcmdOf 0) liveThread = some parkedThread ∧ group? faultState 0 0 = some aGroup ∧ aGroup.st ≠ .squashing ∧
    halted faultState 0 = false ∧
    (let s := { fired2 (.st ⟨0, 0, 0, 0, 2⟩) (valTok 0) (valTok 9) with ap := { Aperture.reset with dhalt := [0, 127] } }
     halted s (fcmdOf 0).vc = true ∧ (leastBy (fun t => t.frame) (s.threads.filter (atCommit s 0))).isSome = true ∧ halted s 127 = true) := by decide +kernel

/-! Launch and groups -/

/-- The states of LaunchEventsComplete. -/
theorem witness_launch :
    (let s := { mapped State.reset with hub := { (mapped State.reset).hub with sigWrites := [(0x10200, 5)] } }
     s.hub.sigWrites = [(0x10200, 5)] ∧ s.ctxs.any (fun c => c.sigs.any fun e => e.pa == some 0x10200) = true) ∧
    State.reset.hub.lastRelease ≤ hubNow State.reset ∧ State.reset.grids.length < 1024 ∧
    hubNow State.reset < { Hub.reset with lastRelease := 8 }.lastRelease := by decide +kernel

/-- An armed entry that is due, of a context that has been destroyed. -/
theorem witness_notifications :
    (let s := { State.reset with ap := { Aperture.reset with notify := ⟨0, 0x8000, 3, 5, [(3, none)]⟩ :: List.replicate 63 Notify.reset } }
     s.ap.notify[0]? = some ⟨0, 0x8000, 3, 5, [(3, none)]⟩ ∧ ctx? s 0 = none) ∧ State.reset.ap.notify[63]? = some Notify.reset := by decide +kernel

/-- A grid whose group 0 is to be handed out; with a completion signal, and CMODE or not; and a provisional one. -/
def gridOf (csig cmode : Bool) : Grid :=
  { aGrid with raw := (if csig then 0x8000 <<< (8 * 0x1E) else 0) ||| (if cmode then 2 <<< (8 * 0x1B) else 0) }

/-- A speculative grid whose shape is not known. -/
def provGrid : Grid := { aGrid with raw := 0x10 <<< (8 * 0x1B), spec := some ⟨1, none, none, none, 0, 0, false⟩ }

/-- A machine with a grid and a group. -/
def withGroup (g : Grid) (gr : Group) (ts : List Thread) : State := { mapped State.reset with grids := [g], groups := [gr], threads := ts }

theorem witness_group_events :
    (let s := { mapped State.reset with grids := [{ aGrid with nextG := 0 }] }
     nextReturn? s = none ∧ (nextGroup? s).isSome = true ∧ (s.hub.handCycle = hubNow s → s.hub.handCount < 8)) ∧
    (let s := withGroup aGrid { aGroup with st := .starting } [aThread .starting none]
     groupNo? s 0 = some { aGroup with st := .starting } ∧ aGroup.at_ = .core 0 ∧ aGroup.startAt ≤ coreNow s 0) ∧
    (let s := withGroup aGrid aGroup [aThread .exited none]
     groupNo? s 0 = some aGroup ∧ groupDone s aGroup = true ∧ grid? s 0 = some aGrid ∧ provisional aGrid = false) ∧
    (let s := withGroup provGrid aGroup [aThread .exited none]
     groupNo? s 0 = some aGroup ∧ groupDone s aGroup = true ∧ grid? s 0 = some provGrid ∧ provisional provGrid = true) ∧
    (let s := withGroup provGrid { aGroup with st := .squashing } []
     groupNo? s 0 = some { aGroup with st := .squashing } ∧ squashReady s { aGroup with st := .squashing } = true ∧ grid? s 0 = some provGrid) := by decide +kernel

/-- The clauses of GroupReturned, SquashedGroupZeroed and ShapeTimesOut: a group in a dugout that is wanted back; a share of 256 bytes at 0x10300 and none;
a shape that has waited its limit. -/
theorem witness_group_ends :
    (let sv : Saved := ⟨[], [], [], [], [], [], [], [], []⟩
     let gr := { aGroup with at_ := .dugout 0 0, wantIn := true, saved := some sv }
     let s := withGroup aGrid gr [{ aThread .waiting none with resident := false }]
     (nextReturn? s).isSome = true ∧ group? s 0 0 = some gr ∧ (s.threads.map (·.uid)).Nodup ∧ s.cores.length = 128) ∧
    (let d := { provGrid with spec := provGrid.spec.map fun p => { p with ralt := some (BitVec.ofNat 128 (1 * 2 ^ 96 + 256 * 2 ^ 64 + 0x10300)) } }
     let gr := { aGroup with st := .squashing }
     let s := withGroup d gr []
     squashReady s gr = true ∧ (d.spec.bind fun sp => shareOf sp 0) = some (0x10300, 256) ∧ (zeroShare (setStalls s []) d 0).hub.stalls = [] ∧
     (hubTranslate (setStalls s []) aCtx 0x10300 ⟨false, true, some (recCid d.raw), false⟩ true).2 = some 0x10300 ∧
     (provGrid.spec.bind fun sp => shareOf sp 0) = none) := by decide +kernel

theorem witness_decrements :
    (let g := { gridOf true false with owedAll := true }; let s := withGroup g aGroup []
     grid? s 0 = some g ∧ gridCsig g = some 0 ∧ recCmode g.raw = false ∧ quiet s 0 none = true) ∧
    (let g := { gridOf true true with owed := [0] }; let s := withGroup g aGroup []
     grid? s 0 = some g ∧ gridCsig g = some 0 ∧ recCmode g.raw = true ∧ g.owed.find? (fun gi => quiet s g.id (some gi)) = some 0) ∧
    (let s := atHub (withGroup provGrid aGroup []) 0x00100000
     grid? s 0 = some provGrid ∧ phaseOf s provGrid.ctx = 0 ∧ 0 + wdLimit s provGrid.ctx ≤ watchNow s provGrid.ctx) ∧
    ctx? (mapped State.reset) 0 = some aCtx ∧ 0 < aCtx.regs.sigtN.toNat ∧ aCtx.sigs.find? (fun e => e.n == 0) = some ⟨0, some 0x10200⟩ := by decide +kernel

/-- A decrement of a signal that holds 5, and of one that holds 0 (R104). -/
theorem test_decrement :
    (memReadN (decrementSignal (mapped State.reset) 0 0).hub.placed 0x10200 8) = [4, 0, 0, 0, 0, 0, 0, 0] ∧
    (memReadN (decrementSignal { mapped State.reset with hub := { Hub.reset with placed := aMemory.filter fun c => c.1 != 0x10200 } } 0 0).hub.placed 0x10200 8) =
      List.replicate 8 255 := by decide +kernel

/-! Placement -/

/-- The states of PlacementEventsComplete: a fetch, a draining placement without instances, one whose waiting thread may enter, an instance that is
ready for its second stage, and a committed thread that waits for an effect or not. -/
theorem witness_placement_events :
    (let s := modCore State.reset 3 fun c => { c with fetches := [⟨7, 0, ⟨0, 0, 0⟩, 0x1000, 0, 0⟩] }
     fetchCore? s 7 = some (3, ⟨7, 0, ⟨0, 0, 0⟩, 0x1000, 0, 0⟩) ∧ (die s (dieOf s 3)).st ≠ .offline) ∧
    (let s0 := withThread [.exit ⟨0, 0, 0⟩] (aThread .waiting none)
     let s := modPlace s0 0 0 fun p => { p with st := .draining }
     (placeAt? s 0 0).isSome = true ∧ inFlightOf s 0 0 = [] ∧
     (placeAt? (settleEntries (modCore s 0 fun c => { c with places := c.places.filter fun x => x.slot != 0 }) 0) 0 0).isNone = true) ∧
    (let s := atCycle { mapped (withThread [.exit ⟨0, 0, 0⟩] (aThread .waiting none)) with threads := [aThread .waiting none] } 100
     let p := aPlace [.exit ⟨0, 0, 0⟩]
     placeAt? s 0 0 = some p ∧ p.st ≠ .draining ∧ admitFrom p ≤ coreNow s 0 ∧ p.last.getD 0 0 ≤ coreNow s 0 ∧ halted s 0 = false ∧ phaseOf s p.conf.ctx < 2 ∧
     leastBy (fun t => t.frame) ((placeWaiting s 0 p).filter (admissible s p.conf)) = some (aThread .waiting none) ∧ freeTag? s 0 p 0 = some 0) ∧
    (let s := atCycle (withThread [.exit ⟨0, 0, 0⟩] (aThread .parked none)) 100
     let p := aPlace [.exit ⟨0, 0, 0⟩]
     placeAt? s 0 0 = some p ∧ placeWaiting s 0 p = [] ∧ inFlightOf s 0 0 = []) ∧
    (let p := { aPlace [.add ⟨4, 0xFF, 0, 0⟩, .exit ⟨0, 0, 0⟩] with last := [0, 0], stage := [0, 1] }
     let t := aThread .admitted (some { anInst [] [0] with readyAt := some 0 })
     let s0 := atCycle (withThread [] t) 100
     let s := modCore s0 0 fun c => { c with places := [p] }
     placeAt? s 0 0 = some p ∧ p.last.getD 1 0 ≤ coreNow s 0 ∧
     (leastBy (fun t => ((t.inst.bind (·.readyAt)).getD 0) * 2048 + t.frame) ((inFlightOf s 0 0).filter (readyFor (decodeAll p.conf.words) p 1))) = some t ∧
     (freeTag? s 0 p 1).isSome = true) ∧
    (let t := { aThread .moving none with wait := some ⟨some ⟨0, 0, 0⟩, false, [.effect 5]⟩ }
     let s := mapped (withThread [] t)
     threadAt? s 0 0 = some t ∧ thread? s 0 = some t ∧ phaseOf s 0 < 7 ∧ [Wait.effect 5].all (waitOver s) = true ∧
     [Wait.effect 5].all (waitOver { s with effects := [anEffect .store [(0x10200, [1])] .committed] }) = false) := by decide +kernel

/-! Engines -/

/-- A copy of nothing, as an engine holds it, and one as the queue does. -/
def aCopy (op : BitVec 8) (st : CopySt) : Copy :=
  { id := 4, ctx := 0, grid := 0, gidx := 0, vc := 0, uid := 0, seq := 0, ord := 0, word := op ++ 0#24, layout := none, box := [], coords := []
    placeW := 0, listOff := 0, st := st, pos := 0, clip := 0, code := 0, stopped := false, cleared := [], targets := [], finite := true, waits := none }

/-- A matrix command in the core's list. -/
def anOp (op : BitVec 8) : Op :=
  { id := 4, ctx := 0, grid := 0, gidx := 0, vc := 0, uid := 0, word := op ++ 0b000000010000000000000000#24, tag := 0, zsk := false, off := 0, st := .pending, seenCopies := [] }

theorem witness_engines :
    (let s := modCore (mapped (withThread [] (aThread .waiting none))) 0 fun c => { c with copies := [aCopy 0xC0 .queued] }
     runningOn s 0 0 = none ∧ (core s 0).copies.find? (copyReady s 0) = some (aCopy 0xC0 .queued)) ∧
    (let s := modCore (mapped (withThread [] (aThread .waiting none))) 0 fun c => { c with copies := [aCopy 0xC0 (.running 0), aCopy 0xC0 .queued] }
     runningOn s 0 0 = some (aCopy 0xC0 (.running 0)) ∧ copyDone s (aCopy 0xC0 (.running 0)) = true ∧ runningOn s 0 1 = none ∧
     (core s 0).copies.find? (copyReady s 0) = some (aCopy 0xC0 .queued)) ∧
    (let c := { aCopy 0xC0 (.running 0) with layout := some (BitVec.ofNat 512 (2 ^ 512 - 1)), box := List.replicate 8 0 }
     let s := { modCore (mapped (withThread [] (aThread .waiting none))) 0 fun k => { k with copies := [c] } with
       effects := [{ anEffect .copy [(0x10200, [1])] .committed with id := 9, uid := 0, seq := 0, ord := 0 }] }
     runningOn s 0 0 = some c ∧ copyDone s c = false) ∧
    (let s := modCore (mapped State.reset) 2 fun c => { c with copies := [aCopy 0xC4 .queued] }
     copyCore? s 4 = some (2, aCopy 0xC4 .queued) ∧ copyOp (aCopy 0xC4 .queued) = 0xC4 ∧ phaseOf s 0 < 3) ∧
    (let s := modCore (withThread [] (aThread .waiting none)) 0 fun c => { c with ops := [anOp 0xD6] }
     (core s 0).ops.filter (opReady s 0) = [anOp 0xD6]) ∧
    (let s := modCore (withThread [] (aThread .waiting none)) 0 fun c => { c with ops := [anOp 0xD7] }
     opCore? s 4 = some (0, anOp 0xD7) ∧ cmdOp (anOp 0xD7).word = 0xD7) ∧
    (let s := modCore (withThread [] (aThread .waiting none)) 0 fun c => { c with ops := [anOp 0xD9] }
     opCore? s 4 = some (0, anOp 0xD9) ∧ cmdOp (anOp 0xD9).word = 0xD9 ∧ issuedBefore s 0 (anOp 0xD9) = []) := by decide +kernel

/-! Quiesce and die resets -/

/-- A machine with the mapped context changed. -/
def withCtx (f : Ctx → Ctx) : State := { mapped State.reset with ctxs := [f aCtx] }

/-- A context at a phase. -/
def atPhase (n : Nat) (req : Bool) : State :=
  { mapped State.reset with ctxs := [{ aCtx with regs := { aCtx.regs with phase := n, req := req } }] }

theorem witness_quiesce :
    ([0, 1, 3, 4, 5] : List Nat).all (fun n => match ctx? (atPhase n true) 0 with
      | some c => decide (c.regs.phase = n) && (n == 0 || phaseReady (atPhase n true) 0 c)
      | none => false) = true ∧
    (match ctx? (atPhase 7 false) 0 with
     | some c => !c.regs.req && decide (7 ≤ c.regs.phase) && !phaseReady (atPhase 7 false) 0 c
     | none => false) = true ∧ dieQuiet (atPhase 6 true) 0 7 = true ∧
    (let e := anEffect (.image true 1 63) [] .committed
     effect? (withEffect e) 5 = some e ∧ e.landed = false ∧ fenced (withEffect e) e = false) ∧
    (let s := { atHub (withGroup aGrid aGroup [parkedThread]) 0x00100000 with ap := { Aperture.reset with dgpN := 1 } }
     groupNo? s 0 = some aGroup ∧ freeDugoutFrame? s = some 0 ∧ evictable s aGroup 0 = true) := by decide +kernel

/-- The cut at phase 6: the last answer, where all dies are quiet, and one of a die with a pending store. -/
theorem witness_cut :
    (let c := { aCtx with regs := { aCtx.regs with phase := 6 }, cutDies := [0, 1, 2, 3, 4, 5, 6] }
     let s := withCtx fun _ => c
     ctx? s 0 = some c ∧ (insertNat 7 c.cutDies).length = 8 ∧ ((insertNat 7 c.cutDies).all (dieQuiet s 0)) = true ∧
     dieQuiet { s with effects := [anEffect .store [(0x10300, [1])] .committed] } 0 0 = false) := by decide +kernel

/-- The reset of die 7 in each of its states. -/
def resetOf (st : DieSt) : State := { setDie State.reset 7 st with ap := { Aperture.reset with drst := 0x80000007 } }

theorem witness_die_reset :
    drstBusy (resetOf .draining) 0x80000007 = true ∧ drstBusy State.reset 0x80000007 = false ∧ (0x80000007 : BitVec 32).getLsbD 31 = true ∧ (die State.reset 7).st = .running ∧
    resetting? (resetOf .draining) .draining = some 7 ∧ drained (settleInsts (resetOf .draining) (threadOn (resetOf .draining) 7)) 7 = true ∧
    resetting? (resetOf .writingBack) .writingBack = some 7 ∧ drained (resetOf .writingBack) 7 = true ∧ resetting? (resetOf .offline) .offline = some 7 := by
  decide +kernel

/-! Contexts, registers, services, package -/

theorem witness_contexts :
    State.reset.pkg.life ≠ 3 ∧ firstBelow (fun n => (ctx? State.reset n).isNone) 1024 = some 0 ∧
    firstBelow (fun n => (ctx? (mapped State.reset) n).isNone) 1024 = some 1 ∧ (ctx? (atPhase 7 false) 0).isSome = true ∧
    (ctx? (atPhase 6 false) 0).isSome = true ∧ ctx? (mapped State.reset) 1 = none := by decide +kernel

/-- An entry that may be written: a core of the same die that nobody names, here the spare at index 8 of die 0. -/
theorem witness_registers : ctx? (mapped State.reset) 0 = some aCtx ∧ vctMay State.reset 0 8 = true ∧ vctMay State.reset 0 1 = false ∧
    vctMay State.reset 127 135 = false ∧ vctMay State.reset 127 143 = true ∧ 127 < State.reset.pkg.vct.length := by decide +kernel

/-- A host access inside one HBM stack, one of no bytes, one in the window and one past it; and a home that is offline, before which a write may wait. -/
theorem witness_host : hbmRange 0x10200 64 = true ∧ rangeAway State.reset 0x10200 64 = false ∧ hbmRange 0x10200 0 = false ∧
    hostPaOf State.reset (.bar2 (2 ^ 36 - 4)) 4 = some (2 ^ 36 - 4) ∧ hostPaOf State.reset (.bar2 (2 ^ 36 - 4)) 5 = none ∧ State.reset.hub.hostWaits = [] ∧
    rangeAway (setDie State.reset (homeOf 0x10200) .offline) 0x10200 64 = true ∧
    rangeAway (setDie (setDie State.reset (homeOf 0x10200) .readmitting) (homeOf 0x10200) .running) 0x10200 64 = false := by decide +kernel

/-- The last region, records that are free, and commands of FCMD. -/
theorem witness_services : State.reset.clock.regions[15]? = some ⟨4000, 4000, 25, 4000, 0⟩ ∧ (State.reset.pkg.spares.waves.any fun x => x.1 == 255) = false ∧
    State.reset.pkg.spares.rows.contains (7, 0) = false ∧ (State.reset.pkg.spares.channels.any fun c => c.1 == 7) = false ∧
    (fcmdOf 0x80000).kind = 0 ∧ bits (0x80000 : BitVec 64).toNat 16 4 = 8 ∧ State.reset.pkg.recovery = false := by decide +kernel

/-- The hypotheses of PackageEventsComplete that no signature decides. -/
theorem witness_package : State.reset.pkg.fuseNext ≤ 64 ∧ State.reset.pkg.lifeNext < 3 ∧ State.reset.ap.attSt ≠ 0 ∧ (0x80000000 : BitVec 32).getLsbD 31 = true ∧
    ({ Aperture.reset with attSt := 0, attAddr0 := 0x10000 } : Aperture).attAddr0 % 64 = 0 ∧ hbmRange 0x10000 16768 = true := by decide +kernel

/-! What the parts of the statements about events suppose -/

/-- A value at a byte of a launch record. -/
def put (o v : Nat) : BitVec 512 := BitVec.ofNat 512 (v * 2 ^ (8 * o))

/-- An object at 0x10000 with one kernel of one segment at 0x10010. -/
def anObj : Obj := ⟨0, 0x10000, 0x1000, 0, 0, 0, [⟨0, 1, 0⟩], [⟨0x10, 0, 0⟩]⟩

/-- A record that launches one group of one thread from it, with its tables at 0x10000. -/
def aRecord : BitVec 512 := put 0 0x10000 ||| put 0x18 1 ||| put 0x1A 1 ||| put 0x20 0x10000

/-- The clauses of SignalWatchersSee: nothing to observe, a word that is no signal, a context without heads, and a head that waits on signal 0 alone. -/
theorem witness_watchers :
    State.reset.hub.sigWrites = [] ∧ (aCtx.sigs.all fun e => e.pa != some 0x10208) = true ∧ aCtx.regs.phase < 7 ∧ aCtx.heads = [] ∧
    (mapped State.reset).grids = [] ∧ (mapped State.reset).threads = [] ∧ (mapped State.reset).groups = [] ∧
    (let r := put 0x30 0x8000
     (withCtx fun c => { c with heads := [{ QHead.fresh 64 with raw := some r }] }).ctxs.map (·.sigs) = [[⟨0, some 0x10200⟩]] ∧
     (QHead.fresh 64).tsig ≠ some 0 ∧ sigField (field512 r 0x30 2) = some 0 ∧ sigField (field512 r 0x32 2) = none) := by decide +kernel

/-- The clauses of DirectRecordsReachHead: a record that passes its checks and waits for nothing, and one of no object. -/
theorem witness_direct :
    (let s := withCtx fun c => { c with objs := [anObj], direct := [aRecord], directN := 9 }
     let c := { aCtx with objs := [anObj], direct := [aRecord], directN := 9 }
     ctx? s 0 = some c ∧ c.regs.phase < 7 ∧ head? c 64 = none ∧ recCheck c aRecord = none ∧
     sigField (field512 aRecord 0x30 2) = none ∧ sigField (field512 aRecord 0x32 2) = none) ∧
    recCheck { aCtx with direct := [aRecord], directN := 9 } aRecord = some 2 := by decide +kernel

/-- The clauses of SigtNWritten: the last length that fits and the first that does not, beside a context that has one signal. -/
theorem witness_sigt_n :
    (let s := { mapped State.reset with ctxs := [aCtx, newCtx 1 false] }
     ((s.ctxs.filter fun c => c.num != 1).map fun c => c.regs.sigtN.toNat).sum = 1 ∧ (1 + (4095 : BitVec 32).toNat ≤ 4096 ∧ 4096 < 1 + (4096 : BitVec 32).toNat) ∧
     ctx? s 1 = some (newCtx 1 false) ∧ (newCtx 1 false).sigs = []) := by decide +kernel

/-- The machine of ReleaseMakesGrid, and its three tables. -/
theorem witness_release :
    (let h := { QHead.fresh 64 with raw := some aRecord, eligible := true }
     let c := { aCtx with objs := [anObj], heads := [h] }
     let s := withCtx fun c => { c with objs := [anObj], heads := [h] }
     eligibleHeads s = [(c, h, aRecord)] ∧ s.hub.lastRelease ≤ hubNow s ∧ s.grids.length < 1024 ∧ h.q = 64 ∧ recSpec aRecord = false ∧
     (let a := readTable (setStalls s []) c 0 0x10000 256
      let b := readTable a.1 c 0 0x10000 256
      let l := readTable b.1 c 0 0x10000 64
      a.2.isSome = true ∧ b.2.isSome = true ∧ l.2.isSome = true ∧ l.1.hub.stalls = [])) := by decide +kernel

/-- The clauses of ArmLooksAtOnce: EN clear, no context, and signal 0, which holds 5, under a threshold of 5 and of 4; and of MessageSent. -/
theorem witness_arm :
    sigField (armed Notify.reset 0).nsig.toNat = none ∧ (mapped State.reset).ap.notify[63]? = some Notify.reset ∧
    (let a := armed Notify.reset 0x80000001
     sigField a.nsig.toNat = some 0 ∧ ctx? (mapped State.reset) a.ctx.toNat = none ∧ (mapped State.reset).hub.stalls = []) ∧
    (let a := armed Notify.reset 0x80000000
     sigField a.nsig.toNat = some 0 ∧ ctx? (mapped State.reset) a.ctx.toNat = some aCtx ∧ 0 < aCtx.regs.sigtN.toNat ∧
     aCtx.sigs.find? (fun x => x.n == 0) = some ⟨0, some 0x10200⟩ ∧ wordAt (mapped State.reset) 0x10200 = 5) ∧
    (State.reset.dies.all fun d => d.inbox.isEmpty) = true := by decide +kernel

/-- A segment at 0x10010 of one word, `exit`, with its check (R62), and one whose first word names no segment. -/
def aSegment (ok : Bool) : Memory :=
  aMemory.take 2 ++ [(0x1001C, 0x28), (0x1001D, 0xA5)] ++ (if ok then [(0x10013, 0xD5), (0x10023, 0x08)] else []) ++ aMemory.drop 2

/-- vc0 with the segment's page in its TLB, one thread that waits, and the object of the segment. -/
def fetching (ok : Bool) : State :=
  let s := mapped (withThread [.exit ⟨0, 0, 0⟩] (aThread .waiting none))
  { modCore s 0 (fun k => { k with tlb := [⟨0, 1, false, 0x10239⟩], places := [], fetches := [⟨7, 0, ⟨0, 0, 0⟩, 0x10010, 0, 0⟩] }) with
    ctxs := [{ aCtx with objs := [anObj] }]
    hub := { s.hub with placed := if ok then sortBy (·.1) (aSegment ok) else aMemory } }

/-- The clauses of FetchFillsBullpen: a segment that passes its check, and one that does not. -/
theorem witness_bullpen :
    (let s := fetching true
     let f : Fetch := ⟨7, 0, ⟨0, 0, 0⟩, 0x10010, 0, 0⟩
     fetchCore? s 7 = some (0, f) ∧ (die s (dieOf s 0)).st ≠ .offline ∧ (ctx? s 0).isSome = true ∧ segAddr? s 0 0 f.ptr = some (0x10010, 0) ∧
     fetchable? { aCtx with objs := [anObj] } f = some (0x10010, 0, ⟨0x10, 0, 0⟩) ∧
     (match readSegment s f 0 ⟨0x10, 0, 0⟩ 0x10010 0 with
      | (s1, .got hdr words) => decide (configCheck 0 (segCount { aCtx with objs := [anObj] } f.ptr) hdr words = none) && (bullpen? s1 0 0 0x10010 0).isNone &&
          (core s1 0).bullpen.isEmpty && decide (0 < s1.cores.length)
      | _ => false) = true) ∧
    (let s := fetching false
     let f : Fetch := ⟨7, 0, ⟨0, 0, 0⟩, 0x10010, 0, 0⟩
     (match readSegment s f 0 ⟨0x10, 0, 0⟩ 0x10010 0 with
      | (_, .got hdr words) => (configCheck 0 (segCount { aCtx with objs := [anObj] } f.ptr) hdr words).isSome
      | _ => false) = true) := by decide +kernel

/-- The state of SlotTakesChosenEntry: the segment in the bullpen and an entry whose thread waits for it. -/
theorem witness_slot :
    (let k : Conf := ⟨0, 0x10010, 0, [0xD5000000, 0, 0, 42280], [0x08000000]⟩
     let e : Entry := ⟨0, 0, ⟨0, 0, 0⟩, 0, false⟩
     let s := modCore { fetching true with grids := [{ aGrid with raw := put 0x18 64 }] } 0 fun c =>
       { c with bullpen := [⟨k, false, 0, 0⟩], fetches := [] }
     0 < s.cores.length ∧ placeAt? s 0 7 = none ∧ chooseEntry? s 0 = some e ∧ (grid? s e.grid).isSome = true ∧ entryConf? s 0 e = some k ∧ entryGone s e = false ∧
     gridCheck (supervisor s 0) (recKsel (put 0x18 64)) (recNslot (put 0x18 64)) k.hdr k.words = none) := by decide +kernel

/-- An entry whose object is gone (R179). -/
theorem witness_gone : entryGone { fetching true with ctxs := [aCtx] } ⟨0, 0, ⟨0, 0, 0⟩, 0, false⟩ = true := by decide +kernel

/-- A thread with slots, and the last of them owed to nobody; and one for which a second copy still owes slot 1. -/
theorem witness_status :
    (let s := withThread [] (aThread .waiting none)
     thread? s 0 = some (aThread .waiting none) ∧ 63 < (aThread .waiting none).slots.length ∧ statusOwed s (aThread .waiting none) = []) ∧
    (let s := modCore (withThread [] (aThread .waiting none)) 0 fun c => { c with copies := [{ aCopy 0xC0 .queued with word := 0xC0040000 }] }
     statusOwed s (aThread .waiting none) = [1]) := by decide +kernel

/-- A layout of 64 elements of eight bits at 0x10200, and a load of them into the start of the scratchpad. -/
def aLoad (st : CopySt) : Copy :=
  { aCopy 0xC0 st with layout := some (put 0 0x10200 ||| put 9 1 ||| put 0x10 64), box := 63 :: List.replicate 7 0, coords := List.replicate 5 0 }

/-- A machine with the copy in vc0's queue. -/
def copying (c : Copy) : State := modCore (withThread [] (aThread .waiting none)) 0 fun k => { k with copies := [c] }

/-- The clauses of CopyStarts and LinesWritten: a copy that its checks fail, one that starts, one that has stopped and one that writes. -/
theorem witness_copies :
    (let s := copying (aCopy 0xC0 .queued)
     0 < s.cores.length ∧ runningOn s 0 0 = none ∧ (core s 0).copies.find? (copyReady s 0) = some (aCopy 0xC0 .queued) ∧
     startCode s (aCopy 0xC0 .queued) = 4) ∧
    (let s := copying (aLoad .queued)
     (core s 0).copies.find? (copyReady s 0) = some (aLoad .queued) ∧ startCode s (aLoad .queued) = 0 ∧ copyOp (aLoad .queued) = 0xC0 ∧
     viaChannel (aLoad .queued) = false) ∧
    (let c := { aLoad (.running 1) with stopped := true }
     runningOn (copying c) 0 1 = some c ∧ copyDone (copying c) c = true) ∧
    (let c := aLoad (.running 1)
     let s := copying c
     let l := layOf (c.layout.getD 0)
     runningOn s 0 1 = some c ∧ c.stopped = false ∧ c.waits = none ∧ c.pos < chunkCount l c ∧ listReady s 0 l c = true ∧ isOut c = false ∧ copyOp c = 0xC0 ∧
     (readChunk s 0 l c).going = true ∧ 0 < (readChunk s 0 l c).s.cores.length) := by decide +kernel

/-- A volley to vc1, with the ring that it names there, or none, or none and the group away. -/
def aVolley (rings : List Ring) (cores : Nat) : State :=
  modCore (modCore (withThread [] (aThread .waiting none)) 1 fun k => { k with rings := rings }) 0 fun k =>
    { k with copies := [{ aCopy 0xC4 .queued with placeW := BitVec.ofNat 32 cores }] }

/-- The clauses of VolleyAnswered. -/
theorem witness_volleys :
    (let c := { aCopy 0xC4 .queued with placeW := 2 }
     let r : Ring := ⟨0, 0, 0, 0, 64, 1, 1, 0, none⟩
     copyCore? (aVolley [] 2) 4 = some (0, c) ∧ phaseOf (aVolley [] 2) 0 < 3 ∧ castCores (aVolley [] 2) c = [1] ∧ ring? (aVolley [] 2) 1 0 (castId c) = none ∧
     ringAway (aVolley [] 2) 1 0 (castId c) = false ∧
     ring? (aVolley [{ r with bound := some 5 }] 2) 1 0 (castId c) = some { r with bound := some 5 } ∧
     ring? (aVolley [{ r with wc := 0 }] 2) 1 0 (castId c) = some { r with wc := 0 } ∧ r.bound = none ∧ 0 - r.fc < r.dp ∧ 1 < (aVolley [r] 2).cores.length ∧
     permitAhead (aVolley [r] 2) c = false) ∧
    castCores (aVolley [] 0) (aCopy 0xC4 .queued) = [] := by decide +kernel

/-- vc0 with one matrix command of a group that holds operand slots 3 and 4, both full. -/
def matrixing (o : Op) : State :=
  let full : OpSlot := ⟨.full, 0, 1, true, 0, [], [], false⟩
  { modCore (withThread [] (aThread .waiting none)) 0 (fun c => { c with
      ops := [o]
      store := { c.store with slots := List.replicate 3 OpSlot.reset ++ [full, full] ++ List.replicate 59 OpSlot.reset } }) with
    groups := [{ aGroup with opsl := [3, 4] }] }

/-- The clauses of MatrixOpsAct: `mma` of f32 tiles into the last accumulator, `tsacc`, and `tzero` of accumulator 15; of AccumulatorStored, in the group's
scratchpad and past its end; and of TfenceLands. -/
theorem witness_matrix_ops :
    (let o := { anOp 0 with word := encode (.mma ⟨0, 1, 15, 1⟩) }
     let s := matrixing o
     (core s 0).ops = [o] ∧ opReady s 0 o = true ∧ cmdOp o.word = 0xD2 ∧ (cmdE o.word).y.toNat % 16 < (core s 0).store.accs.length ∧
     physSlot? s 0 0 0 = some 3 ∧ physSlot? s 0 0 1 = some 4 ∧ (opSlot s 0 3).fmt = (tileFmt 1).a ∧ (opSlot s 0 4).fmt = (tileFmt 1).b) ∧
    (let o := { anOp 0 with word := encode (.tsacc ⟨0, 0x3F, 15, 0⟩) }
     opReady (matrixing o) 0 o = true ∧ cmdOp o.word = 0xD5) ∧
    (let o := { anOp 0 with word := encode (.tzero ⟨15, 16, 0, 0⟩) }
     let s := matrixing o
     opReady s 0 o = true ∧ cmdOp o.word = 0xD6 ∧ rangeUnits s 0 0 (cmdE o.word) = [(1, 15)] ∧ 15 < (core s 0).store.accs.length) ∧
    ([(8192, true), (8256, false)] : List (Nat × Bool)).all (fun (off, ok) =>
      let o : Op := { anOp 0 with word := encode (.tacst ⟨0, 0x1F, 0, 0⟩), off := off }
      let s := matrixing o
      decide (opCore? s 4 = some (0, o)) && cmdOp o.word == 0xD7 && o.st == OpSt.pending && moveOk s o == ok && (cmdE o.word).x.toNat / 16 == 1 &&
        !(accTile s 0 15).bad) = true ∧
    (let o := { anOp 0 with word := encode (.tfence ⟨63, 0, 0, 0⟩) }
     let s := matrixing o
     opCore? s 4 = some (0, o) ∧ cmdOp o.word = 0xD9 ∧ issuedBefore s 0 o = [] ∧ barrenBefore s 0 o = [] ∧ group? s 0 0 = some { aGroup with opsl := [3, 4] } ∧
     aGroup.tfCode = 0 ∧ aGroup.tfCount = 0) := by decide +kernel

/-- The clauses of AckLossRecorded: the last retry has gone, of a placed effect; and of HeldRecordsRetried: a queue with room, and none. -/
theorem witness_ack_loss :
    (let e := { anEffect .store [(0x10300, [1])] .placed with ga := true, tries := 3, sentAt := some 0 }
     let s := { withEffect e with clock := ⟨0x400000, Clock.reset.regions⟩ }
     effect? s 5 = some e ∧ ackOverdue s e = true ∧ (thread? s e.uid).isSome = true) ∧
    (let r : EvRec := ⟨0x0B, 0, 0, 0, 1, 0, 0, 5, 0, 0, 0, []⟩
     let c := { aCtx with evHeld := [r], regs := { aCtx.regs with evqBase := 0x10300 } }
     let s := { withCtx (fun _ => c) with hub := { (mapped State.reset).hub with
       placed := aMemory.take 6 ++ [(0x10301, 4), (0x10302, 1), (0x10308, 4), (0x10309, 1)] ++ aMemory.drop 6 } }
     let none_ := withCtx fun _ => c
     ctx? s 0 = some c ∧ c.evOver = 0 ∧ (writePart s c r).2 = true ∧ (writePart s c r).1.hub.stalls = [] ∧
     ctx? none_ 0 = some c ∧ (writePart none_ c r).2 = false ∧ (writePart none_ c r).1.hub.stalls = []) := by decide +kernel

/-- The clauses of ParkedThreadGoesOn, CommandsLetGo, KilledThreadLeaves and KilledGroupGone; and of FuDoneResumes: one thread parked on page 2. -/
theorem witness_let_go :
    thread? faultState 0 = some parkedThread ∧ parkedThread.resident = true ∧ (core faultState 0).failed = [] ∧
    thread? { faultState with threads := [{ parkedThread with resident := false }] } 0 = some { parkedThread with resident := false } ∧
    parkedThread.kept.map (·.kind) = some 0x0B ∧ parkedThread.ackLost = [] ∧
    (grid? (postEvent (dropCommands faultState aGroup) (killRec aGroup 1)) 0).isSome = true ∧ provisional aGrid = false ∧
    (let t := { aThread .parked none with kept := some ⟨1, 2, 0, 0, 1, 0, 0, 0, 0x20000, 0, 0, []⟩ }
     let s := mapped (withThread [] t)
     s.hub.migr = [] ∧ s.threads.filter (parkedOnPage 0 2) = [t] ∧ bits (2 : BitVec 64).toNat 0 39 = 2 ∧ bits (2 : BitVec 64).toNat 48 16 = 0) := by decide +kernel

/-- The clauses of PhasesFollow, ResumeEndsQuiesce, EvictedGroupAway and DieStatesFollow. -/
theorem witness_phases :
    ([0, 3, 4, 5] : List Nat).all (fun n => (ctx? (atPhase n true) 0).any fun c => phaseReady (atPhase n true) 0 c || n == 0) = true ∧
    (ctx? (atPhase 7 false) 0).any (fun c => !c.regs.req && decide (7 ≤ c.regs.phase) && c.heads.isEmpty) = true ∧ (atPhase 7 false).grids = [] ∧
    (let s := { atHub (withGroup aGrid aGroup [parkedThread]) 0x00100000 with ap := { Aperture.reset with dgpN := 1 } }
     groupNo? s 0 = some aGroup ∧ group? s 0 0 = some aGroup ∧ aGroup.at_ = .core 0 ∧ freeDugoutFrame? s = some 0 ∧ evictable s aGroup 0 = true) ∧
    (0x80000007 : BitVec 32).getLsbD 31 = true ∧ drstBusy State.reset 0x80000007 = false ∧ State.reset.threads = [] ∧ State.reset.groups = [] ∧
    7 < State.reset.dies.length ∧ dieOf State.reset 127 = 7 := by decide +kernel

/-- The clauses of ObjectsRegistered: no context, an address that is not mapped, 1,024 objects, one that is registered and one that is not. -/
theorem witness_objects :
    ctx? State.reset 0 = none ∧
    (let s := { mapped State.reset with ap := { Aperture.reset with objaddr := 0x30000 } }
     (readObject s aCtx 0x30000).2.toOption = none) ∧
    firstBelow (fun n => !([anObj].any fun x => x.onum == n)) 1024 = some 1 ∧ obj? { aCtx with objs := [anObj] } 0 = some anObj ∧
    obj? { aCtx with objs := [anObj] } 1023 = none := by decide +kernel

/-- The clauses of MonitorsEnabled, MonitorSamples and ErrorsMark at their last unit, thread, line and slot. -/
theorem witness_marks :
    State.reset.pkg.mons.length = 152 ∧ (0x80000000 : BitVec 32).getLsbD 31 = true ∧ srcOk 151 0 = srcOk 151 0 ∧
    (State.reset.pkg.mons[151]?).any (fun m => !m.cfg.getLsbD 31) = true ∧
    (let s := withThread [] (aThread .held none)
     threadAt? s 0 0 = some (aThread .held none) ∧ thread? s 0 = some (aThread .held none) ∧ 63 < (aThread .held none).slots.length ∧
     127 < s.cores.length ∧ 63 < (core s 0).store.slots.length ∧ (residents s 0).all (fun g => !g.opsl.contains 63) = true ∧
     threadAt? s 0 1 = none ∧ dieOf s 0 < s.dies.length) := by decide +kernel

/-- Every word that acts at commit fires. -/
theorem witness_every_commit_word :
    ([.next ⟨0, 0⟩, .nextp ⟨0, 0⟩, .nextpu ⟨0, 0⟩, .nexti ⟨0, 0, 0⟩, .call ⟨0, 0⟩, .calli ⟨0, 0, 0⟩, .ret ⟨0, 0, 0⟩, .exit ⟨0, 0, 0⟩, .bar ⟨0, 0, 0⟩,
      .yield ⟨0, 0, 0⟩, .spawn ⟨0, 3⟩, .gwait ⟨0, 0, 0⟩, .trap ⟨0, 0, 0⟩, .brk ⟨0, 0, 0⟩, .launch ⟨0, 0, 0⟩, .wr ⟨0, 0, 0⟩, .xput ⟨0, 0, 0⟩, .xclr ⟨0, 0, 0⟩,
      .gred ⟨0, 0, 0, 0⟩, .gscan ⟨0, 0, 0, 0⟩, .vote ⟨0, 0, 0, 0⟩, .st ⟨0, 0, 0, 0, 2⟩, .sts ⟨0, 0, 0, 0, 2⟩, .strel ⟨0, 0, 0, 0, 2⟩, .fence ⟨3, 0, 0⟩,
      .cwb ⟨0, 0, 0, 0, 0⟩, .zfill ⟨0, 0, 0, 0, 0⟩, .pst ⟨0, 0, 0, 0, 2⟩, .aadd ⟨0, 0, 0, 2, 0⟩, .amin ⟨0, 0, 0, 2, 0⟩, .amax ⟨0, 0, 0, 2, 0⟩,
      .aand ⟨0, 0, 0, 2, 0⟩, .aor ⟨0, 0, 0, 2, 0⟩, .axor ⟨0, 0, 0, 2, 0⟩, .axchg ⟨0, 0, 0, 2, 0⟩, .acas ⟨0, 0, 0, 2, 0⟩, .afadd ⟨0, 0, 0, 2, 0⟩,
      .sigsub ⟨0, 0, 0, 2, 0⟩, .sigwait ⟨0, 0, 0, 2, 0⟩, .mbox ⟨0, 0, 0, 2, 0⟩, .tcopy ⟨0, 0, 0, 0⟩, .tstore ⟨0, 0, 0, 0⟩, .tcopyo ⟨0, 0, 0, 0⟩,
      .tcopyr ⟨0, 0, 0, 0⟩, .tcast ⟨0, 0, 0, 0⟩, .sfree ⟨0, 0, 0, 0⟩, .spres ⟨0, 0, 0, 0⟩, .tgath ⟨0, 0, 0, 0⟩, .tscat ⟨0, 0, 0, 0⟩, .tclaim ⟨0, 0, 0, 0⟩,
      .trel ⟨0, 0, 0, 0⟩, .mma ⟨0, 0, 0, 0⟩, .mmi ⟨0, 0, 0, 0⟩, .mmg ⟨0, 0, 0, 0⟩, .tsacc ⟨0, 0, 0, 0⟩, .tzero ⟨0, 16, 0, 0⟩, .tacst ⟨0, 16, 0, 0⟩,
      .tacld ⟨0, 16, 0, 0⟩, .tfence ⟨0, 0, 0, 0⟩, .tmode ⟨0, 0, 0, 0⟩, .wrctl ⟨2, 0, 0⟩, .tlbinv ⟨0, 0, 0⟩, .cinv ⟨0, 0, 0⟩, .evpost ⟨0, 0, 0⟩, .ctxsv ⟨0, 0, 0⟩,
      .ctxld ⟨0, 0, 0⟩] : List Instr).all (fun i => commitWord i && (match shape i with
        | some sh => canFire (readySite [i] (vals 0 0 0 0) []) sh
        | none => false)) = true := by decide +kernel

/-- The clauses of CommitPassesWord: of a store and an exit, only the store carries an ordinal, and it acts; an exit alone carries none. -/
theorem witness_passes :
    (let s := fired2 (.st ⟨0, 0, 0, 0, 2⟩) (valTok 0) (valTok 9); let x := commitX s
     x.ws.length = 2 ∧ (wordAt? x 0).any (fun p => p.2.ordinal) = true ∧ acts s x 0 = true ∧ (wordAt? x 1).all (fun p => !p.2.ordinal) = true) ∧
    (let s := ready [.exit ⟨0, 0, 0⟩] [] [0]; let x := commitX s
     x.ws.length = 1 ∧ (wordAt? x 0).all (fun p => !p.2.ordinal) = true) := by decide +kernel

/-- An object of one kernel of one segment, `exit`, written from R58 to R62; its SHA-384 is Python's. -/
def objBytes : List Byte :=
  bytesLE 4 0x4F43594C ++ bytesLE 2 1 ++ bytesLE 2 1 ++ bytesLE 8 1 ++ bytesLE 4 0xD0 ++ bytesLE 2 1 ++ bytesLE 2 1 ++ bytesLE 4 0x80 ++ bytesLE 36 0xA0 ++
  bytesLE 64 0xed08ba622db4dcfc837e7b563469f22062a4d6557ad0d6d0b23af7b1efcce04c7dfd9f7967b3795876b213629ca9cd92 ++
  bytesLE 32 0x10000 ++ bytesLE 16 0xFFFFFFFF000000B0 ++ bytesLE 12 0xD5000000 ++ bytesLE 4 42280 ++ bytesLE 16 0x08000000

/-- The object at 0x11000 passes its checks and is registered (R59, R66). -/
theorem witness_registers_object :
    (let cells := ((List.range 0xD0).map fun i => (0x11000 + i, objBytes.getD i 0)).filter fun c => c.2 != 0
     let s := { mapped State.reset with
       ap := { Aperture.reset with objaddr := 0x11000 }, hub := { (mapped State.reset).hub with placed := aMemory.take 6 ++ cells ++ aMemory.drop 6 } }
     (readObject s aCtx 0x11000).2.toOption.map (fun o => (o.addr, o.size, o.kernels, o.segs)) = some (0x11000, 0xD0, [⟨0, 1, 0⟩], [⟨0xB0, 0xFFFFFFFF, 0⟩])) := by
  decide +kernel

/-- What GroupEventsComplete and PlacementEventsComplete ask beside: nothing of the grid is left to squash or to place; a bank that is free, a placement that must
drain and one that need not; a shape that has waited its limit. -/
theorem witness_widened :
    (let g := { gridOf true false with owedAll := true }; let s := withGroup g aGroup []
     phaseOf s g.ctx < 7 ∧ squashesLeft s 0 = false ∧ seenPlaced s g = true ∧ squashesLeft (withGroup (gridOf true true) aGroup []) 0 = false ∧
     seenPlaced (withGroup (gridOf true true) aGroup []) (gridOf true true) = true) ∧
    (let sp : Spec := ⟨1, none, none, none, 0, 0, false⟩
     let s := atHub (withGroup provGrid aGroup []) 0x00100000
     provGrid.spec = some sp ∧ sp.truth = none ∧ sp.failed = false ∧ wdLimit s 0 ≤ shapeCount s 0 sp) ∧
    (let s := atCycle { mapped (withThread [.exit ⟨0, 0, 0⟩] (aThread .waiting none)) with threads := [aThread .waiting none] } 100
     let p := aPlace [.exit ⟨0, 0, 0⟩]
     mustDrain s 0 p = false ∧ bankWaits s 0 p 0 0 = false ∧ (die s (dieOf s 0)).st = .running ∧ (aThread .waiting none).bitAt ≠ some (coreNow s 0) ∧
     mustDrain (atCycle (withThread [.exit ⟨0, 0, 0⟩] (aThread .parked none)) 100) 0 p = true) ∧
    (let t := { aThread .moving none with wait := some ⟨some ⟨0, 0, 0⟩, false, [.effect 5]⟩ }; t.resident = true ∧ t.st = .moving) := by decide +kernel

/-- What DieResetCompletes and ServiceEventsComplete ask beside: a die that is being let in again, and cores whose queues stand high in region 15 or not. -/
theorem witness_widened_services :
    resetting? (resetOf .readmitting) .offline = none ∧ resetting? (resetOf .readmitting) .readmitting = some 7 ∧
    ((die State.reset 7).l2.map (·.line)).Nodup ∧
    regionHas State.reset 15 [127] = true ∧ regionHas State.reset 15 [0] = false ∧ (State.reset.clock.regions.all fun r => r.acc % 4000 == 0) = true ∧
    (State.reset.pkg.mons[151]?).isSome = true ∧ levelOf? State.reset 143 4 = some 0 ∧ levelOf? State.reset 0 2 = some 0 ∧ levelOf? State.reset 0 5 = none ∧
    Mon.reset.span = 0 ∧ monNow (atCycle State.reset 1024) 0 / 1024 = 1 := by decide +kernel

end
end

section
/-! PROOFS (O6). Every event of the opcode table keeps the shape of the machine: one lemma for each event whose meaning has cases, in the order of the
chapters, from the laws of the shared operations. -/
namespace Sys2Proof.Machine

/-! Words whose meaning has cases of its own -/

theorem execRd_shaped (f : FmtL) (s : State) (h : WellShaped s) : OutShaped (execRd f s) := by
  unfold execRd
  split
  · split
    · dsimp only
      split
      · exact .of_next (takeFault_shaped _ _ _ h)
      · exact .of_next (emit_shaped _ _ _ _ (statusAcquire_shaped _ _ _ h))
    · exact .of_next h
  · exact .of_next h

theorem execSel_shaped (f : FmtA) (s : State) (h : WellShaped s) : OutShaped (execSel f s) := by
  unfold execSel
  split
  · split
    · exact .of_next (emit_shaped _ _ _ _ h)
    · exact .of_next h
  · exact .of_next h

/-- The caches that a prefetch may fill (R268). -/
theorem execPf_shaped (f : FmtM) (s : State) (h : WellShaped s) : OutShaped (execPf f s) := by
  unfold execPf
  split
  · split
    · refine .of_next (emit_shaped _ _ _ _ ?_)
      split
      · exact h
      · split
        · split
          · dsimp only
            split
            · exact h
            · split
              · exact readGlobal_shaped _ _ _ _ _ _ h
              · exact touchLine_shaped _ _ _ h
          · exact h
        · exact h
    · exact .of_next h
  · exact .of_next h

theorem execLds_shaped (f : FmtM) (s : State) (h : WellShaped s) : OutShaped (execLds f s) := by
  refine fireLoad_shaped (fun x sh => ?_) h
  split <;> exact h

theorem execLdsn_shaped (f : FmtM) (s : State) (h : WellShaped s) : OutShaped (execLdsn f s) := by
  refine fireLoad_shaped (fun x sh => ?_) h
  dsimp only
  split
  · split
    · exact h
    · split <;> exact h
  · exact h
  · exact h

theorem execPld_shaped (f : FmtM) (s : State) (h : WellShaped s) : OutShaped (execPld f s) := by
  refine fireLoad_shaped (fun x sh => ?_) h
  dsimp only
  split
  · exact h
  · exact openChannel_shaped _ _ _ h

/-! Effects and memory (R231, R254, R273, R328 to R337) -/

theorem execWritePerformedInL2_shaped (e : Nat) (s : State) (h : WellShaped s) : OutShaped (execWritePerformedInL2 e s) := by
  unfold execWritePerformedInL2
  split
  · exact .of_next (performInL2_shaped _ _ h)
  · exact .of_next h

theorem execWritePlacement_shaped (m : PlaceMode) (s : State) (h : WellShaped s) : OutShaped (execWritePlacement m s) := by
  unfold execWritePlacement
  split
  · split
    · exact .of_next (placeEffect_shaped _ _ h)
    · exact .of_next h
  · exact .of_next (settleEffects_shaped _ (deliverOne_shaped _ _ h))

theorem execGaAcknowledge_shaped (e : Nat) (s : State) (h : WellShaped s) : OutShaped (execGaAcknowledge e s) := by
  unfold execGaAcknowledge
  split
  · split
    · exact .of_next (settleEffects_shaped _ (modEffect_shaped _ _ _ (fun _ => rfl) h))
    · exact .of_next h
  · exact .of_next h

theorem execAckRetry_shaped (e : Nat) (s : State) (h : WellShaped s) : OutShaped (execAckRetry e s) := by
  unfold execAckRetry
  split
  · split
    · exact .of_next (modEffect_shaped _ _ _ (fun _ => rfl) h)
    · exact .of_next h
  · exact .of_next h

theorem execAckLossResolution_shaped (e : Nat) (readable : Bool) (s : State) (h : WellShaped s) : OutShaped (execAckLossResolution e readable s) := by
  unfold execAckLossResolution
  split
  · split
    · exact .of_next (resolveAckLoss_shaped _ _ _ h)
    · exact .of_next h
  · exact .of_next h

theorem execAtomicResultLand_shaped (e : Nat) (s : State) (h : WellShaped s) : OutShaped (execAtomicResultLand e s) := by
  unfold execAtomicResultLand
  split
  · split
    · split
      · exact .of_next h
      · exact .of_next (settleEffects_shaped _ (modEffect_shaped _ _ _ (fun _ => rfl) (landSlots_shaped _ _ _ _ _ h)))
    · exact .of_next h
  · exact .of_next h

theorem execPeerWritePerform_shaped (w : PeerWrite) (s : State) (h : WellShaped s) : OutShaped (execPeerWritePerform w s) := by
  unfold execPeerWritePerform
  split
  · exact .of_next h
  · have hf := farCheck_shaped s w.ctx w.pkg w.pctx w.ordered w.copy true w.cid.toNat w.va w.data.length h
    split
    · exact .of_next (postEvent_shaped _ _ (flowDone_shaped _ _ _ (fst_shaped (by assumption) hf)))
    · dsimp only
      split
      · exact .of_next h
      · exact .of_next (flowDone_shaped _ _ _ (placeRuns_shaped _ _ _ _ (hubRuns_shaped _ _ (fst_shaped (by assumption) hf))))

theorem execPeerReadRequest_shaped (r : PeerRead) (s : State) (h : WellShaped s) : OutShaped (execPeerReadRequest r s) := by
  unfold execPeerReadRequest
  have hf := farCheck_shaped s r.ctx r.pkg r.pctx r.ordered r.copy false r.cid.toNat r.va r.len h
  dsimp only
  split
  · refine .of_next (hub_shaped ?_)
    split
    · exact postEvent_shaped _ _ (fst_shaped (by assumption) hf)
    · exact fst_shaped (by assumption) hf
  · split
    · exact .of_next (hub_shaped h)
    · exact .of_next (hub_shaped (foldl_shaped (fun _ _ => hubTouch_shaped _ _ _ _) _ _ (fst_shaped (by assumption) hf)))

theorem execPeerFlowRefused_shaped (e code : Nat) (s : State) (h : WellShaped s) : OutShaped (execPeerFlowRefused e code s) := by
  unfold execPeerFlowRefused
  split
  · split
    · split
      · exact .of_next h
      · exact .of_next (settleEffects_shaped _ (postEvent_shaped _ _ (refuseCopy_shaped _ _ (modEffect_shaped _ _ _ (fun _ => rfl) h))))
    · exact .of_next h
  · exact .of_next h

theorem execPeerWriteAcknowledged_shaped (e : Nat) (s : State) (h : WellShaped s) : OutShaped (execPeerWriteAcknowledged e s) := by
  unfold execPeerWriteAcknowledged
  split
  · split
    · split
      · exact .of_next h
      · exact .of_next (settleEffects_shaped _ (modEffect_shaped _ _ _ (fun _ => rfl) h))
    · exact .of_next h
  · exact .of_next h

theorem execHostWriteAccepted_shaped (e : Nat) (s : State) (h : WellShaped s) : OutShaped (execHostWriteAccepted e s) := by
  unfold execHostWriteAccepted
  split
  · split
    · exact .of_next (settleEffects_shaped _ (modEffect_shaped _ _ _ (fun _ => rfl) h))
    · exact .of_next h
  · exact .of_next h

/-! Engines (R278 to R320) -/

theorem execTileOpFire_shaped (vc : Nat) (s : State) (h : WellShaped s) : OutShaped (execTileOpFire vc s) := by
  unfold execTileOpFire
  split
  · exact .of_next (freeFrames_shaped _ (settleOps_shaped _ _ (fireOp_shaped _ _ _ h)))
  · exact .of_next h

theorem execAccumulatorStoreDone_shaped (o : Nat) (s : State) (h : WellShaped s) : OutShaped (execAccumulatorStoreDone o s) := by
  unfold execAccumulatorStoreDone
  split
  · split
    · exact .of_next (freeFrames_shaped _ (storeAcc_shaped _ _ _ h))
    · exact .of_next h
  · exact .of_next h

theorem execTfenceStatusLand_shaped (o : Nat) (s : State) (h : WellShaped s) : OutShaped (execTfenceStatusLand o s) := by
  unfold execTfenceStatusLand
  split
  · dsimp only
    split
    · exact .of_next (freeFrames_shaped _ (landTfence_shaped _ _ _ h))
    · exact .of_next h
  · exact .of_next h

theorem execCopyStart_shaped (vc eng : Nat) (s : State) (h : WellShaped s) : OutShaped (execCopyStart vc eng s) := by
  unfold execCopyStart
  split
  · exact .of_next h
  · split
    · exact .of_next h
    · split
      · exact .of_next (rereadCopy_shaped _ _ _ h)
      · exact .of_next (startCopy_shaped _ _ _ _ h)

theorem execCopyLineWrite_shaped (vc eng : Nat) (s : State) (h : WellShaped s) : OutShaped (execCopyLineWrite vc eng s) := by
  unfold execCopyLineWrite
  split
  · exact .of_next (copyStep_shaped _ _ _ h)
  · exact .of_next h

theorem execCopyComplete_shaped (vc eng : Nat) (s : State) (h : WellShaped s) : OutShaped (execCopyComplete vc eng s) := by
  unfold execCopyComplete
  split
  · split
    · exact .of_next (endCopy_shaped _ _ _ h)
    · exact .of_next h
  · exact .of_next h

theorem execVolleyPermit_shaped (c : Nat) (s : State) (h : WellShaped s) : OutShaped (execVolleyPermit c s) := by
  unfold execVolleyPermit
  split
  · split
    · exact .of_next (permitVolley_shaped _ _ _ h)
    · exact .of_next h
  · exact .of_next h

/-! Launch and retirement (R102 to R130, R389 to R391) -/

theorem execGroupHandout_shaped (s : State) (h : WellShaped s) : OutShaped (execGroupHandout s) := by
  unfold execGroupHandout
  split
  · exact .of_next h
  · dsimp only
    split
    · exact .of_next (hub_shaped (restoreTo_shaped _ _ _ _ h))
    · split
      · exact .of_next (hub_shaped (modGrid_shaped _ _ _ (acceptGroup_shaped _ _ _ _ _ h)))
      · exact .of_next h

theorem execGroupStart_shaped (g : Nat) (s : State) (h : WellShaped s) : OutShaped (execGroupStart g s) := by
  unfold execGroupStart
  split
  · exact .of_next h
  · split
    · split
      · exact .of_next h
      · refine .of_next (foldl_shaped (fun u t hu => ?_) _ _
          (modGroup_shaped _ _ _ _ (fun _ => rfl) (invalidateL1_shaped _ _ _ (flushDie_shaped _ _ h))))
        split
        · exact setWaiting_shaped _ _ hu
        · exact hu
    · exact .of_next h

theorem execGroupRetire_shaped (g : Nat) (s : State) (h : WellShaped s) : OutShaped (execGroupRetire g s) := by
  unfold execGroupRetire
  split
  · exact .of_next h
  · split
    · refine .of_next ?_
      split
      · exact provisionalDone_shaped _ _ h
      · exact retireGroup_shaped _ _ h
    · exact .of_next h

theorem execCompletionDecrement_shaped (k : Nat) (s : State) (h : WellShaped s) : OutShaped (execCompletionDecrement k s) := by
  unfold execCompletionDecrement
  split
  · exact .of_next h
  · split
    · exact .of_next h
    · split
      · exact .of_next h
      · split
        · split
          · exact .of_next (hubAct_shaped _ _ (fun _ hu => decrementSignal_shaped _ _ _ (grids_shaped hu)) h)
          · exact .of_next h
        · split
          · exact .of_next (hubAct_shaped _ _ (fun _ hu => closeGrids_shaped _ (decrementSignal_shaped _ _ _ (modGrid_shaped _ _ _ hu))) h)
          · exact .of_next (closeGrids_shaped _ h)

theorem execShapeSourceTimeout_shaped (gid : Nat) (s : State) (h : WellShaped s) : OutShaped (execShapeSourceTimeout gid s) := by
  unfold execShapeSourceTimeout
  split
  · exact .of_next h
  · split
    · split
      · exact .of_next (shapeFault_shaped _ _ _ _ h)
      · exact .of_next h
    · exact .of_next h

theorem execSquashZeroFill_shaped (g : Nat) (s : State) (h : WellShaped s) : OutShaped (execSquashZeroFill g s) := by
  unfold execSquashZeroFill
  split
  · exact .of_next h
  · split
    · exact .of_next (hubAct_shaped _ _ (fun _ hu =>
        closeGrids_shaped _ (modGrid_shaped _ _ _ (freeGroup_shaped _ _ (zeroShare_shaped _ _ _ hu)))) h)
    · exact .of_next h

theorem execLaunchRelease_shaped (s : State) (h : WellShaped s) : OutShaped (execLaunchRelease s) := by
  unfold execLaunchRelease
  split
  · exact .of_next h
  · exact .of_next (releaseFirst_shaped _ _ _ h)

theorem execSignalWriteObserved_shaped (s : State) (h : WellShaped s) : OutShaped (execSignalWriteObserved s) := by
  unfold execSignalWriteObserved
  split
  · exact .of_next h
  · refine .of_next (foldl_shaped (fun u c hu => foldl_shaped (fun v e hv => ?_) _ _ hu) _ _ (hub_shaped h))
    split
    · exact observeSignal_shaped _ _ _ _ hv
    · exact hv

theorem execNotifyEntryArm_shaped (n : Nat) (w : BitVec 64) (s : State) (h : WellShaped s) : OutShaped (execNotifyEntryArm n w s) := by
  unfold execNotifyEntryArm
  split
  · exact .of_next h
  · exact .of_next (armNotify_shaped _ _ (ap_shaped h))

theorem execHostNotificationMessage_shaped (n : Nat) (s : State) (h : WellShaped s) : OutShaped (execHostNotificationMessage n s) := by
  unfold execHostNotificationMessage
  split
  · exact .of_next h
  · dsimp only
    split
    · exact .of_next h
    · exact .of_next h

/-! Placement and commit (R131 to R151) -/

theorem execBullpenFill_shaped (k : Nat) (s : State) (h : WellShaped s) : OutShaped (execBullpenFill k s) := by
  unfold execBullpenFill
  split
  · split
    · exact .of_next h
    · exact .of_next (fillBullpen_shaped _ _ _ h)
  · exact .of_next h

/-- The protection of configurations ends; none joins or leaves (R142). -/
theorem execBullpenProtectionExpiry_shaped (vc : Nat) (s : State) (h : WellShaped s) : OutShaped (execBullpenProtectionExpiry vc s) :=
  .of_next (modCore_shaped _ _ _ (fun _ hc => hc.of_sub (Nat.le_refl _) (Nat.le_of_eq (List.length_map _)) (List.Sublist.refl _)
    (List.Sublist.refl _) ⟨rfl, rfl, rfl, rfl⟩) h)

theorem execPlacementSlotFree_shaped (vc slot : Nat) (s : State) (h : WellShaped s) : OutShaped (execPlacementSlotFree vc slot s) := by
  unfold execPlacementSlotFree
  split
  · exact .of_next h
  · have hf := freeSlot_shaped s vc slot h
    refine .of_next ?_
    split
    · exact fillSlotAt_shaped _ _ _ (by omega) (Option.isNone_iff_eq_none.mp ‹_›) hf
    · exact hf

theorem execPlacementDrain_shaped (vc slot : Nat) (s : State) (h : WellShaped s) : OutShaped (execPlacementDrain vc slot s) := by
  unfold execPlacementDrain
  split
  · exact .of_next h
  · split
    · exact .of_next (modPlace_shaped _ _ _ _ (fun _ => rfl) h)
    · exact .of_next h

theorem execThreadAdmit_shaped (vc slot : Nat) (s : State) (h : WellShaped s) : OutShaped (execThreadAdmit vc slot s) := by
  unfold execThreadAdmit
  split
  · exact .of_next h
  · split
    · exact .of_next h
    · split
      · split
        · exact .of_next h
        · exact .of_next (useBank_shaped _ _ _ (admitThread_shaped _ _ _ _ h))
      · exact .of_next h

theorem execStageReentry_shaped (vc slot stage : Nat) (s : State) (h : WellShaped s) : OutShaped (execStageReentry vc slot stage s) := by
  unfold execStageReentry
  split
  · exact .of_next h
  · split
    · exact .of_next h
    · exact .of_next h
    · split
      · exact .of_next h
      · exact .of_next (useBank_shaped _ _ _ (enterStage_shaped _ _ _ _ _ h))

theorem execDeferredSuccessorMove_shaped (vc frame : Nat) (s : State) (h : WellShaped s) : OutShaped (execDeferredSuccessorMove vc frame s) := by
  unfold execDeferredSuccessorMove
  split
  · split
    · exact .of_next h
    · exact .of_next (moveIfOver_shaped _ _ h)
  · exact .of_next h

/-! Watchdogs and fault commands (R349, R370 to R375) -/

theorem execBarrierStall_shaped (g w : Nat) (s : State) (h : WellShaped s) : OutShaped (execBarrierStall g w s) := by
  unfold execBarrierStall
  split
  · exact .of_next (barrierStall_shaped _ _ _ h)
  · exact .of_next h

theorem execHeldCommitStall_shaped (vc frame : Nat) (s : State) (h : WellShaped s) : OutShaped (execHeldCommitStall vc frame s) := by
  unfold execHeldCommitStall
  split
  · exact .of_next (heldCommitStall_shaped _ _ h)
  · exact .of_next h

theorem execFcmdResume_shaped (v : BitVec 64) (s : State) (h : WellShaped s) : OutShaped (execFcmdResume v s) := by
  unfold execFcmdResume
  dsimp only
  split
  · exact .of_next (fcmdResult_shaped _ _ _ (resumeParked_shaped _ _ h))
  · exact .of_next (fcmdResult_shaped _ _ _ (settleAckLoss_shaped _ _ h))
  · exact .of_next (fcmdResult_shaped _ _ _ h)

theorem execFcmdRedirect_shaped (v : BitVec 64) (s : State) (h : WellShaped s) : OutShaped (execFcmdRedirect v s) := by
  unfold execFcmdRedirect
  split
  · exact .of_next (fcmdResult_shaped _ _ _ h)
  · split
    · exact .of_next (fcmdResult_shaped _ _ _ h)
    · exact .of_next (fcmdResult_shaped _ _ _ (redirectParked_shaped _ _ _ h))

theorem execFcmdKillThread_shaped (v : BitVec 64) (s : State) (h : WellShaped s) : OutShaped (execFcmdKillThread v s) := by
  unfold execFcmdKillThread
  split
  · exact .of_next (fcmdResult_shaped _ _ _ h)
  · refine .of_next (fcmdResult_shaped _ _ _ (finishAway_shaped _ _ _ (leaveThread_shaped _ _ ?_)))
    split
    · exact h
    · exact settleAckLoss_shaped _ _ h

theorem execFcmdKillGroup_shaped (v : BitVec 64) (s : State) (h : WellShaped s) : OutShaped (execFcmdKillGroup v s) := by
  unfold execFcmdKillGroup
  split
  · exact .of_next (fcmdResult_shaped _ _ _ h)
  · split
    · split
      · exact .of_next (fcmdResult_shaped _ _ _ h)
      · exact .of_next (fcmdResult_shaped _ _ _ (killGroup_shaped _ _ _ h))
    · exact .of_next (fcmdResult_shaped _ _ _ h)

theorem execFcmdWriteSlot_shaped (v : BitVec 64) (s : State) (h : WellShaped s) : OutShaped (execFcmdWriteSlot v s) := by
  unfold execFcmdWriteSlot
  dsimp only
  split
  · exact .of_next (fcmdResult_shaped _ _ _ h)
  · exact .of_next (fcmdResult_shaped _ _ _ (landSlots_shaped _ _ _ _ _ h))

theorem execFcmdRepost_shaped (v : BitVec 64) (s : State) (h : WellShaped s) : OutShaped (execFcmdRepost v s) := by
  refine .of_next (fcmdResult_shaped _ _ _ (foldl_shaped (fun u t hu => ?_) _ _ h))
  split
  · exact postEvent_shaped _ _ hu
  · exact hu

theorem execFcmdResumeKind_shaped (v : BitVec 64) (s : State) (h : WellShaped s) : OutShaped (execFcmdResumeKind v s) :=
  .of_next (fcmdResult_shaped _ _ _ (foldl_shaped resumeParked_shaped _ _ h))

theorem execFcmdStep_shaped (v : BitVec 64) (s : State) (h : WellShaped s) : OutShaped (execFcmdStep v s) := by
  unfold execFcmdStep
  dsimp only
  split
  · exact .of_next (fcmdResult_shaped _ _ _ h)
  · split
    · exact .of_next (fcmdResult_shaped _ _ _ (tryCommit_shaped _ _ _ _ h))
    · exact .of_next (fcmdResult_shaped _ _ _ h)

theorem execDhaltSet_shaped (vc : Nat) (s : State) (h : WellShaped s) : OutShaped (execDhaltSet vc s) := by
  unfold execDhaltSet
  split
  · exact .of_next (ap_shaped h)
  · exact .of_next h

/-! Quiesce, dugouts and die reset (R247, R379 to R388) -/

theorem execDugoutEvict_shaped (g : Nat) (s : State) (h : WellShaped s) : OutShaped (execDugoutEvict g s) := by
  unfold execDugoutEvict
  split
  · exact .of_next h
  · split
    · split
      · exact .of_next (evictTo_shaped _ _ _ _ h)
      · exact .of_next h
    · exact .of_next h

theorem execQuiescePhaseAdvance_shaped (ctx : Nat) (s : State) (h : WellShaped s) : OutShaped (execQuiescePhaseAdvance ctx s) := by
  unfold execQuiescePhaseAdvance
  have h0 : WellShaped (if phaseOf s ctx == 2 then settleInsts s fun t => t.ctx == ctx else s) := by
    split
    · exact settleInsts_shaped _ _ h
    · exact h
  generalize (if phaseOf s ctx == 2 then settleInsts s fun t => t.ctx == ctx else s) = s0 at h0 ⊢
  dsimp only
  split
  · exact .of_next h0
  · split
    · exact .of_next (enterPhase_shaped _ _ _ h0)
    · exact .of_next h0

theorem execDieCutAnswer_shaped (ctx d : Nat) (s : State) (h : WellShaped s) : OutShaped (execDieCutAnswer ctx d s) := by
  unfold execDieCutAnswer
  split
  · exact .of_next h
  · dsimp only
    split
    · exact .of_next h
    · refine .of_next ?_
      split
      · exact enterPhase_shaped _ _ _ (modCtx_shaped _ _ _ h)
      · exact modCtx_shaped _ _ _ h

theorem execQuiesceResume_shaped (ctx : Nat) (s : State) (h : WellShaped s) : OutShaped (execQuiesceResume ctx s) := by
  unfold execQuiesceResume
  split
  · split
    · exact .of_next (resumeCtx_shaped _ _ h)
    · exact .of_next h
  · exact .of_next h

theorem execDrstGo_shaped (v : BitVec 32) (s : State) (h : WellShaped s) : OutShaped (execDrstGo v s) := by
  unfold execDrstGo
  dsimp only
  split
  · split
    · exact .of_next h
    · exact .of_next (settleInsts_shaped _ _ (setDie_shaped _ _ _ (ap_shaped h)))
  · exact .of_next (ap_shaped h)

theorem execDieResetWriteBack_shaped (s : State) (h : WellShaped s) : OutShaped (execDieResetWriteBack s) := by
  unfold execDieResetWriteBack
  split
  · exact .of_next h
  · rename_i d _
    have h0 := settleInsts_shaped s (threadOn s d) h
    dsimp only
    split
    · exact .of_next h0
    · exact .of_next (setDie_shaped _ _ _ (foldl_shaped (fun _ _ => writeBackFrom_shaped _ _ _) _ _ (clearGroups_shaped _ _ _ h0)))

theorem execDieResetOffline_shaped (s : State) (h : WellShaped s) : OutShaped (execDieResetOffline s) := by
  unfold execDieResetOffline
  split
  · exact .of_next h
  · split
    · exact .of_next (wipeDie_shaped _ _ h)
    · exact .of_next h

theorem execDieReadmit_shaped (s : State) (h : WellShaped s) : OutShaped (execDieReadmit s) := by
  unfold execDieReadmit
  split
  · exact .of_next (setDie_shaped _ _ _ (writeBackHome_shaped _ _ h))
  · exact .of_next (endReadmit_shaped _ _ h)
  · exact .of_next h

theorem execImageStatusLand_shaped (k : Nat) (s : State) (h : WellShaped s) : OutShaped (execImageStatusLand k s) := by
  unfold execImageStatusLand
  split
  · exact .of_next h
  · rename_i e he
    split
    · rename_i save tctx slot hk
      split
      · exact .of_next h
      · have h1 : WellShaped (if save then saveImage s e.ctx tctx e.va else loadImage s e.ctx tctx e.va).1 := by
          split
          · exact saveImage_shaped _ _ _ _ h
          · exact loadImage_shaped _ _ _ _ h
        exact .of_next (settleEffects_shaped _ (landStatus_shaped _ _ _ _ (modEffect_shaped _ _ _ (fun _ => rfl) h1)))
    · exact .of_next h

/-! The package in service (R391 to R409) -/

theorem execCtxDestroy_shaped (ctx : Nat) (s : State) (h : WellShaped s) : OutShaped (execCtxDestroy ctx s) := by
  unfold execCtxDestroy
  split
  · exact .of_next (ctxResult_shaped _ _ _ _ h)
  · split
    · exact .of_next (ctxResult_shaped _ _ _ _ (destroyCtx_shaped _ _ h))
    · exact .of_next (ctxResult_shaped _ _ _ _ h)

theorem execHostWrite_shaped (pa : HostAddr) (data : List Byte) (s : State) (h : WellShaped s) : OutShaped (execHostWrite pa data s) := by
  unfold execHostWrite
  split
  · split
    · exact .of_next (serveHost_shaped _ _ h)
    · exact .of_next h
  · exact .of_next h

theorem execHostRead_shaped (pa : HostAddr) (n : Nat) (s : State) (h : WellShaped s) : OutShaped (execHostRead pa n s) := by
  unfold execHostRead
  split
  · split
    · exact .of_next (serveHost_shaped _ _ h)
    · exact .of_next (hostAnswer_shaped _ _ h)
  · exact .of_next (hostAnswer_shaped _ _ h)

theorem execWavelengthSpare_shaped (fibre wl : Nat) (s : State) (h : WellShaped s) : OutShaped (execWavelengthSpare fibre wl s) := by
  unfold execWavelengthSpare
  dsimp only
  split
  · exact .of_next h
  · exact .of_next (pkg_shaped h)

theorem execFibreFailure_shaped (fibre : Nat) (s : State) (h : WellShaped s) : OutShaped (execFibreFailure fibre s) := by
  unfold execFibreFailure
  split
  · exact .of_next h
  · exact .of_next (clearFibre_shaped _ _ (pkg_shaped h))

theorem execHbmRowRemap_shaped (stack row : Nat) (s : State) (h : WellShaped s) : OutShaped (execHbmRowRemap stack row s) := by
  unfold execHbmRowRemap
  dsimp only
  split
  · exact .of_next h
  · exact .of_next (pkg_shaped h)

theorem execPseudoChannelSwitch_shaped (stack ch : Nat) (s : State) (h : WellShaped s) : OutShaped (execPseudoChannelSwitch stack ch s) := by
  unfold execPseudoChannelSwitch
  dsimp only
  split
  · exact .of_next h
  · exact .of_next (pkg_shaped h)

theorem execMonitorSample_shaped (u src v : Nat) (s : State) (h : WellShaped s) : OutShaped (execMonitorSample u src v s) := by
  unfold execMonitorSample
  dsimp only
  split
  · exact .of_next (modMon_shaped _ _ _ h)
  · refine .of_next ?_
    split
    · exact modMon_shaped _ _ _ h
    · exact h

theorem execFirmwareUpdate_shaped (img : FwImage) (s : State) (h : WellShaped s) : OutShaped (execFirmwareUpdate img s) := by
  unfold execFirmwareUpdate
  split
  · exact .of_next h
  · exact .of_next (pkg_shaped h)

theorem execLifeCycleAdvance_shaped (c : LifeCommand) (s : State) (h : WellShaped s) : OutShaped (execLifeCycleAdvance c s) := by
  unfold execLifeCycleAdvance
  split
  · exact .of_next (pkg_shaped h)
  · exact .of_next h

theorem execAttestationRequest_shaped (v : BitVec 32) (s : State) (h : WellShaped s) : OutShaped (execAttestationRequest v s) := by
  unfold execAttestationRequest
  split
  · exact .of_next h
  · exact .of_next (ap_shaped h)

theorem execAttestationReportDone_shaped (s : State) (h : WellShaped s) : OutShaped (execAttestationReportDone s) := by
  unfold execAttestationReportDone
  split
  · exact .of_next h
  · dsimp only
    refine .of_next (ap_shaped ?_)
    split
    · exact hubWrite_shaped _ _ _ h
    · exact h

/-- A start begins from a state that holds no thread and no effect (R401, R405). -/
theorem started_shaped (agenda : List Act) (n : Nat) (p : Pkg) : WellShaped { State.reset with agenda := agenda, nextId := n, pkg := p } :=
  ⟨⟨.nil, .nil, fun t ht => by cases ht⟩, ⟨.nil, fun e he => by cases he⟩, reset_shaped.2.2⟩

theorem execPowerOnStart_shaped (r : StartFindings) (s : State) (h : WellShaped s) : OutShaped (execPowerOnStart r s) := by
  unfold execPowerOnStart
  dsimp only
  split
  · exact .of_next (withoutPower_shaped _ _ h)
  · refine .of_next (foldl_shaped (fun u d hu => ?_) _ _ (started_shaped _ _ _) :)
    exact modDie_shaped _ _ _ (fun _ hd => hd) hu

/-! The aperture (R370) -/

theorem writeFcmd_shaped (v : BitVec 64) (s : State) (h : WellShaped s) : OutShaped (writeFcmd v s) := by
  unfold writeFcmd
  split
  · exact execFcmdResume_shaped _ _ h
  · exact execFcmdRedirect_shaped _ _ h
  · exact execFcmdKillThread_shaped _ _ h
  · exact execFcmdKillGroup_shaped _ _ h
  · exact execFcmdWriteSlot_shaped _ _ h
  · exact execFcmdRepost_shaped _ _ h
  · exact execFcmdResumeKind_shaped _ _ h
  · exact execFcmdStep_shaped _ _ h
  · exact .of_next h

theorem writeCtxcmd_shaped (v : BitVec 64) (s : State) (h : WellShaped s) : OutShaped (writeCtxcmd v s) := by
  unfold writeCtxcmd
  split
  · exact .of_next (createCtx_shaped _ _ h)
  · exact .of_next (createCtx_shaped _ _ h)
  · exact execCtxDestroy_shaped _ _ h
  · exact .of_next h

theorem writeObjcmd_shaped (v : BitVec 64) (s : State) (h : WellShaped s) : OutShaped (writeObjcmd v s) := by
  unfold writeObjcmd
  split
  · exact .of_next (registerObject_shaped _ _ h)
  · exact .of_next (unregisterObject_shaped _ _ _ h)
  · exact .of_next h

/-- The registers that hold several words or run a command over a range of offsets. -/
theorem apWriteRanges_shaped (off : Nat) (v : BitVec 64) (s : State) (h : WellShaped s) : OutShaped
    (if 0x0A0 ≤ off && off < 0x0C0 && off % 8 == 0 then .next (writeNonce s ((off - 0x0A0) / 8) v)
    else if 0x100 ≤ off && off < 0x500 && off % 16 == 0 then execNotifyEntryArm ((off - 0x100) / 16) v s
    else if 0x100 ≤ off && off < 0x500 && off % 16 == 8 then .next (writeThr s ((off - 0x100) / 16) v)
    else if 0x800 ≤ off && off ≤ 0x880 && off % 8 == 0 then .next (writeWindow s ((off - 0x800) / 8) v)
    else if 0x10000 ≤ off && off < 0x10000 + 128 * 152 then .next (writeMonBlock s off (v.setWidth 32))
    else .next s) := by
  split
  · exact .of_next (writeNonce_shaped _ _ _ h)
  split
  · exact execNotifyEntryArm_shaped _ _ _ h
  split
  · exact .of_next (writeThr_shaped _ _ _ h)
  split
  · exact .of_next (writeWindow_shaped _ _ _ h)
  split
  · exact .of_next (writeMonBlock_shaped _ _ _ h)
  · exact .of_next h

theorem apWrite_shaped (off : Nat) (v : BitVec 64) (s : State) (h : WellShaped s) : OutShaped (apWrite off v s) := by
  have put : ∀ a : Aperture, OutShaped (.next { s with ap := a }) := fun _ => .of_next (ap_shaped h)
  unfold apWrite
  dsimp only
  split
  · split
    · exact .of_next h
    · exact writeFcmd_shaped _ _ h
  · exact put _
  · exact .of_next (writeDhalt_shaped _ _ _ h)
  · exact .of_next (writeDhalt_shaped _ _ _ h)
  · exact execDrstGo_shaped _ _ h
  · split
    · exact .of_next h
    · exact put _
  · split
    · exact .of_next h
    · exact put _
  · exact put _
  · exact put _
  · exact put _
  · exact execAttestationRequest_shaped _ _ h
  · exact put _
  · exact put _
  · exact writeCtxcmd_shaped _ _ h
  · exact put _
  · exact writeObjcmd_shaped _ _ h
  · exact apWriteRanges_shaped _ _ _ h

/-! Every instruction, every act, every step -/

/-- Whatever shaped state a computing word fires in, the next is shaped. -/
theorem exec_computingWord_shaped {i : Instr} (s : State) (hc : computingWord i = true) (h : WellShaped s) : OutShaped (exec i s) := by
  cases i with
  | add | sub | mul | mulhi | mad | div | rem | min | max | abs | neg | and | or | xor | not | andn | shl | shr | sar | rotl | popc | clz | ctz
  | brev | bfx | bfi | adds | subs | dot4 | dot2 | ixa | fsh | perm | lop3 => exact fireInt_shaped _ _ _ h
  | cmp => rw [exec_cmp]; exact fireInt_shaped _ _ _ h
  | fadd | fsub | fmul | fma | fmin | fmax | fminn | fmaxn | fabs | fneg | fdiv | fsqrt | frnd | ffrac | fsign => exact fireFloat_shaped _ _ _ h
  | fcmp => rw [exec_fcmp]; exact fireFloat_shaped _ _ _ h
  | fclass => rw [exec_fclass]; exact fireFloat_shaped _ _ _ h
  | fscale => rw [exec_fscale]; exact fireFloat_shaped _ _ _ h
  | fgetx => rw [exec_fgetx]; exact fireFloat_shaped _ _ _ h
  | fdot2 => rw [exec_fdot2]; exact fireFloat_shaped _ _ _ h
  | cvt => rw [exec_cvt]; exact fireFloat_shaped _ _ _ h
  | cvtsr => rw [exec_cvtsr]; exact fireFloat_shaped _ _ _ h
  | pack => rw [exec_pack]; exact fireFloat_shaped _ _ _ h
  | unpack => rw [exec_unpack]; exact fireFloat_shaped _ _ _ h
  | qnt => rw [exec_qnt]; exact fireFloat_shaped _ _ _ h
  | dqnt => rw [exec_dqnt]; exact fireFloat_shaped _ _ _ h
  | rcp => rw [exec_rcp]; exact fireFloat_shaped _ _ _ h
  | rsq => rw [exec_rsq]; exact fireFloat_shaped _ _ _ h
  | ex2 => rw [exec_ex2]; exact fireFloat_shaped _ _ _ h
  | lg2 => rw [exec_lg2]; exact fireFloat_shaped _ _ _ h
  | sinpi => rw [exec_sinpi]; exact fireFloat_shaped _ _ _ h
  | cospi => rw [exec_cospi]; exact fireFloat_shaped _ _ _ h
  | tanh => rw [exec_tanh]; exact fireFloat_shaped _ _ _ h
  | sigm => rw [exec_sigm]; exact fireFloat_shaped _ _ _ h
  | mov => rw [exec_mov_fireWith]; exact fireWith_shaped _ _ _ h
  | xget => rw [exec_xget]; exact fireWith_shaped _ _ _ h
  | ld => rw [exec_ld]; exact fireLoad_shaped (fun _ _ => globalLoad_shaped _ _ _ _ _ h) h
  | ldc => rw [exec_ldc]; exact fireLoad_shaped (fun _ _ => globalLoad_shaped _ _ _ _ _ h) h
  | ldacq => rw [exec_ldacq]; exact fireLoad_shaped (fun _ _ => globalLoad_shaped _ _ _ _ _ h) h
  | lds => exact execLds_shaped _ _ h
  | ldsn => exact execLdsn_shaped _ _ h
  | pld => exact execPld_shaped _ _ h
  | _ => cases hc

/-- Whatever shaped state a word fires in, the next is shaped: a computing word, a word that acts at commit, or one of the rest. -/
theorem exec_word_shaped {i : Instr} (s : State) (hi : isWord i = true) (h : WellShaped s) : OutShaped (exec i s) := by
  by_cases hc : computingWord i = true
  · exact exec_computingWord_shaped s hc h
  by_cases hk : commitWord i = true
  · rw [exec_commitWord s hk]; exact fireSink_shaped _ _ h
  cases i with
  | nop => rw [exec_nop]; exact fireNothing_shaped _ _ h
  | himm => rw [exec_himm]; exact fireNothing_shaped _ _ h
  | hoff => rw [exec_hoff]; exact fireNothing_shaped _ _ h
  | htgt => rw [exec_htgt]; exact fireNothing_shaped _ _ h
  | hsch => rw [exec_hsch]; exact fireNothing_shaped _ _ h
  | rdsys => rw [exec_rdsys]; exact fireWith_shaped _ _ _ h
  | rdctl => rw [exec_rdctl]; exact fireWith_shaped _ _ _ h
  | perf => rw [exec_perf]; exact fireWith_shaped _ _ _ h
  | sel => exact execSel_shaped _ _ h
  | rd => exact execRd_shaped _ _ h
  | pf => exact execPf_shaped _ _ h
  | _ => simp [isWord, computingWord, commitWord] at hi hc hk

/-- Whatever shaped state an event happens in, the next is shaped. -/
theorem exec_event_shaped {i : Instr} (s : State) (hi : isWord i = false) (h : WellShaped s) : OutShaped (exec i s) := by
  cases i with
  | signalWriteObserved => exact execSignalWriteObserved_shaped _ h
  | recordReachesHead => exact .of_next (hubAct_shaped _ _ (fun _ => recordReachesHead_shaped _ _ _) h)
  | launchRelease => exact execLaunchRelease_shaped _ h
  | groupHandout => exact execGroupHandout_shaped _ h
  | groupStart => exact execGroupStart_shaped _ _ h
  | shapeSourceTimeout => exact execShapeSourceTimeout_shaped _ _ h
  | squashZeroFill => exact execSquashZeroFill_shaped _ _ h
  | groupRetire => exact execGroupRetire_shaped _ _ h
  | completionDecrement => exact execCompletionDecrement_shaped _ _ h
  | notifyEntryArm => exact execNotifyEntryArm_shaped _ _ _ h
  | hostNotificationMessage => exact execHostNotificationMessage_shaped _ _ h
  | bullpenFill => exact execBullpenFill_shaped _ _ h
  | placementSlotFree => exact execPlacementSlotFree_shaped _ _ _ h
  | placementDrain => exact execPlacementDrain_shaped _ _ _ h
  | threadAdmit => exact execThreadAdmit_shaped _ _ _ h
  | stageReentry => exact execStageReentry_shaped _ _ _ _ h
  | loadReturn => exact .of_next (loadReturn_shaped _ _ _ _ h)
  | threadCommit => exact .of_next (tryCommit_shaped _ _ _ _ h)
  | atomicResultLand => exact execAtomicResultLand_shaped _ _ h
  | deferredSuccessorMove => exact execDeferredSuccessorMove_shaped _ _ _ h
  | pageWalk => exact .of_next (pageWalk_shaped _ _ _ h)
  | fuDone => exact .of_next (writeFuDone_shaped _ _ h)
  | dugoutEvict => exact execDugoutEvict_shaped _ _ h
  | writePlacement => exact execWritePlacement_shaped _ _ h
  | gaAcknowledge => exact execGaAcknowledge_shaped _ _ h
  | ackRetry => exact execAckRetry_shaped _ _ h
  | ackLossResolution => exact execAckLossResolution_shaped _ _ _ h
  | peerWritePerform => exact execPeerWritePerform_shaped _ _ h
  | peerFlowRefused => exact execPeerFlowRefused_shaped _ _ _ h
  | copyStart => exact execCopyStart_shaped _ _ _ h
  | copyLineWrite => exact execCopyLineWrite_shaped _ _ _ h
  | copyComplete => exact execCopyComplete_shaped _ _ _ h
  | volleyPermit => exact execVolleyPermit_shaped _ _ h
  | tileOpFire => exact execTileOpFire_shaped _ _ h
  | accumulatorStoreDone => exact execAccumulatorStoreDone_shaped _ _ h
  | tfenceStatusLand => exact execTfenceStatusLand_shaped _ _ h
  | barrierStall => exact execBarrierStall_shaped _ _ _ h
  | heldCommitStall => exact execHeldCommitStall_shaped _ _ _ h
  | eventQueueRetry => exact .of_next (retryEvents_shaped _ _ h)
  | fcmdResume => exact execFcmdResume_shaped _ _ h
  | fcmdRedirect => exact execFcmdRedirect_shaped _ _ h
  | fcmdKillThread => exact execFcmdKillThread_shaped _ _ h
  | fcmdKillGroup => exact execFcmdKillGroup_shaped _ _ h
  | fcmdWriteSlot => exact execFcmdWriteSlot_shaped _ _ h
  | fcmdRepost => exact execFcmdRepost_shaped _ _ h
  | fcmdResumeKind => exact execFcmdResumeKind_shaped _ _ h
  | fcmdStep => exact execFcmdStep_shaped _ _ h
  | dhaltSet => exact execDhaltSet_shaped _ _ h
  | dhaltClear => exact .of_next (ap_shaped h)
  | quiesceRequest => exact .of_next (writeReq_shaped _ _ _ h)
  | quiescePhaseAdvance => exact execQuiescePhaseAdvance_shaped _ _ h
  | dieCutAnswer => exact execDieCutAnswer_shaped _ _ _ h
  | quiesceResume => exact execQuiesceResume_shaped _ _ h
  | imageStatusLand => exact execImageStatusLand_shaped _ _ h
  | drstGo => exact execDrstGo_shaped _ _ h
  | dieResetWriteBack => exact execDieResetWriteBack_shaped _ h
  | dieResetOffline => exact execDieResetOffline_shaped _ h
  | dieReadmit => exact execDieReadmit_shaped _ h
  | ctxCreate | ctxCreateSupervisor => exact .of_next (createCtx_shaped _ _ h)
  | ctxDestroy => exact execCtxDestroy_shaped _ _ h
  | objRegister => exact .of_next (registerObject_shaped _ _ h)
  | objUnregister => exact .of_next (unregisterObject_shaped _ _ _ h)
  | vctWrite => exact .of_next (writeVct_shaped _ _ _ h)
  | sigtNWrite => exact .of_next (writeSigtN_shaped _ _ _ h)
  | registerWrite => exact apWrite_shaped _ _ _ h
  | attestationRequest => exact execAttestationRequest_shaped _ _ h
  | attestationReportDone => exact execAttestationReportDone_shaped _ h
  | firmwareUpdate => exact execFirmwareUpdate_shaped _ _ h
  | lifeCycleAdvance => exact execLifeCycleAdvance_shaped _ _ h
  | powerOnStart => exact execPowerOnStart_shaped _ _ h
  | powerLoss => exact .of_next (withoutPower_shaped _ _ h)
  | monitorEnable | monitorSnap => exact .of_next (modMon_shaped _ _ _ h)
  | monitorSample => exact execMonitorSample_shaped _ _ _ _ h
  | clockStep => exact .of_next h
  | patrolScrub => exact .of_next (foldl_shaped countCorrected_shaped _ _ h)
  | uncorrectableError => exact .of_next (uncorrectable_shaped _ _ h)
  | hbmRowRemap => exact execHbmRowRemap_shaped _ _ _ h
  | pseudoChannelSwitch => exact execPseudoChannelSwitch_shaped _ _ _ h
  | wavelengthSpare => exact execWavelengthSpare_shaped _ _ _ h
  | fibreFailure => exact execFibreFailure_shaped _ _ h
  | cacheWaySpare => exact .of_next (pkg_shaped (emptyWay_shaped _ _ _ h))
  | thlLaneFailure => exact .of_next (ap_shaped h)
  | hostWrite => exact execHostWrite_shaped _ _ _ h
  | hostRead => exact execHostRead_shaped _ _ _ h
  | writePerformedInL2 => exact execWritePerformedInL2_shaped _ _ h
  | peerWriteAcknowledged => exact execPeerWriteAcknowledged_shaped _ _ h
  | hostWriteAccepted => exact execHostWriteAccepted_shaped _ _ h
  | peerReadRequest => exact execPeerReadRequest_shaped _ _ h
  | bullpenProtectionExpiry => exact execBullpenProtectionExpiry_shaped _ _ h
  | _ => cases hi

/-- Whatever shaped state an instruction or event runs in, the next is shaped. -/
theorem exec_shaped (i : Instr) (s : State) (h : WellShaped s) : OutShaped (exec i s) := by
  cases hi : isWord i with
  | true => exact exec_word_shaped s hi h
  | false => exact exec_event_shaped s hi h

theorem runFire_shaped (s : State) (vc frame idx : Nat) (h : WellShaped s) : OutShaped (runFire s vc frame idx) := by
  unfold runFire
  split
  · exact .of_next h
  · split
    · split
      · exact exec_shaped _ _ h
      · exact .of_next (badWord_shaped _ _ _ _ _ h)
    · exact .of_next (badWord_shaped _ _ _ _ _ h)

theorem perform_shaped (a : Act) (s : State) (h : WellShaped s) : OutShaped (perform a s) := by
  cases a with
  | fire vc frame idx => exact flushed_shaped _ (runFire_shaped _ _ _ _ h)
  | event i => exact flushed_shaped _ (exec_shaped _ _ h)
  | idle n => exact .of_next (passTicks_shaped _ _ h)
  | peerReply vc uid idx refused data => exact .of_next (answerTo_shaped _ _ h)
  | clockLimits region floor ceil => exact .of_next (clockLimits_shaped _ _ _ _ h)
  | flits n resent => exact .of_next (countFlits_shaped _ _ _ h)

/-- A step runs the head of the agenda, an act of the machine's own, or lets a tick pass; each keeps the shape. -/
theorem step_shaped (s : State) (h : WellShaped s) : OutShaped (step s) := by
  have agenda : ∀ rest, WellShaped { s with agenda := rest } := fun _ => h
  unfold step
  split
  · split
    · exact .of_fault _
    · split
      · exact perform_shaped _ _ (agenda _)
      · exact .of_next (agenda _)
  · split
    · split
      · exact perform_shaped _ _ h
      · exact .of_next (passTicks_shaped _ _ h)
    · exact .of_next (passTicks_shaped _ _ h)

/-- Settles O6: every step keeps the shape of the machine. -/
theorem stepKeepsShape : Obligations.StepKeepsShape := fun s t h e => (step_shaped s h).next t e

end Sys2Proof.Machine
end

section
/-! PROOFS (O8). What the machine holds right after a start whose steps all passed (R24, R391, R401, R402, R405). -/
namespace Sys2Proof.Machine

/-- R24: virtual core 16d + i is on the i-th exposed core of die d, past the spare at physical index 8. -/
theorem defaultVct_getElem? {d i : Nat} (hd : d < 8) (hi : i < 16) :
    defaultVct[16 * d + i]? = some ⟨true, 18 * d + i + (if i < 8 then 0 else 1)⟩ := by
  have hn : 16 * d + i < 128 := by omega
  have hdie : (16 * d + i) / 16 = d := by omega
  have hidx : (16 * d + i) % 16 = i := by omega
  have hspare : i / 8 = if i < 8 then 0 else 1 := by split <;> omega
  simp only [defaultVct, List.getElem?_map, List.getElem?_range hn, Option.map_some, hdie, hidx, hspare]

/-- Settles O8: the state right after a start. -/
theorem resetState : Obligations.ResetState := by
  refine ⟨rfl, rfl, rfl, rfl, rfl, rfl, rfl, ?_, fun d i hd hi => defaultVct_getElem? hd hi, rfl, reset_shaped, rfl, by decide⟩
  exact (List.length_map _).trans List.length_range

end Sys2Proof.Machine
end

section
/-! PROOFS (O59). The package in service: what clock steps, monitors, scrubbing, spares and errors change, one lemma for each function (R22, R23, R376 to
R378, R395, R399, R407 to R409). -/
namespace Sys2Proof.Machine

/-! One element of a list changed -/

theorem modAt_eq_modify {α : Type} (f : α → α) : ∀ (l : List α) (i : Nat), modAt f l i = l.modify i f
  | [], i => by cases i <;> rfl
  | _ :: _, 0 => rfl
  | a :: l, i + 1 => congrArg (a :: ·) (modAt_eq_modify f l i)

theorem getElem?_modAt_same {α : Type} (f : α → α) (l : List α) (i : Nat) : (modAt f l i)[i]? = l[i]?.map f := by
  rw [modAt_eq_modify, List.getElem?_modify_eq]; rfl

theorem getElem?_modAt_other {α : Type} (f : α → α) (l : List α) {i k : Nat} (h : k ≠ i) : (modAt f l i)[k]? = l[k]? := by
  rw [modAt_eq_modify, List.getElem?_modify_ne _ _ (Ne.symm h)]

/-- A change depends on what it does to the element alone. -/
theorem modAt_congr_at {α : Type} {f g : α → α} {l : List α} {i : Nat} {x : α} (hx : l[i]? = some x) (h : f x = g x) : modAt f l i = modAt g l i := by
  refine List.ext_getElem? fun k => ?_
  by_cases hk : k = i
  · subst hk; rw [getElem?_modAt_same, getElem?_modAt_same, hx, Option.map_some, Option.map_some, h]
  · rw [getElem?_modAt_other f l hk, getElem?_modAt_other g l hk]

theorem modAt_fixed {α : Type} {f : α → α} {l : List α} {i : Nat} {x : α} (hx : l[i]? = some x) (h : f x = x) : modAt f l i = l := by
  refine List.ext_getElem? fun k => ?_
  by_cases hk : k = i
  · subst hk; rw [getElem?_modAt_same, hx, Option.map_some, h]
  · rw [getElem?_modAt_other f l hk]

theorem mem_insertNat (n : Nat) (l : List Nat) : n ∈ insertNat n l := by
  induction l with
  | nil => exact List.mem_singleton_self n
  | cons a r ih =>
    unfold insertNat
    split
    · exact List.mem_cons_self
    · split
      · rename_i e; rw [eq_of_beq e]; exact List.mem_cons_self
      · exact List.mem_cons_of_mem _ ih

theorem contains_insertNat (n : Nat) (l : List Nat) : (insertNat n l).contains n = true := List.contains_iff_mem.mpr (mem_insertNat n l)

/-! Clocks (R22, R23) -/

/-- The clock of a region in which an outbound queue stands above its high mark (`down`), an inbound one (`up`), both or neither (R22). -/
def stepRegion (down up : Bool) (r : Region) : Region :=
  { r with soon := if down && !up then stepDown r else if up && !down then stepUp r else r.soon }

theorem exec_clockStep (r : Nat) (q : QueueMarks) (s : State) : exec (.clockStep r q) s = .next { s with clock := { s.clock with
    regions := modAt (stepRegion (regionHas s r q.out) (regionHas s r q.inb)) s.clock.regions r } } := rfl

theorem stepRegion_same (b : Bool) (r : Region) : stepRegion b b r = r := by cases b <;> rfl

/-- A clock that stands at a cycle's boundary takes up its next frequency at once. -/
theorem pass_at_boundary (r : Region) (n : Nat) (h : r.acc % 4000 = 0) :
    Region.pass n r = { r with mhz := r.soon, acc := r.acc + n * r.soon } ∨ (r.mhz = 0 ∧ r.soon ≠ 0) := by
  have hedge : (r.acc + 3999) / 4000 * 4000 = r.acc := by omega
  unfold Region.pass
  dsimp only
  rw [hedge]
  by_cases hs : r.soon = r.mhz
  · left; rw [if_pos (by simp [hs]), hs]
  · by_cases hz : r.mhz = 0
    · exact .inr ⟨hz, fun e => hs (e.trans hz.symm)⟩
    · left
      have hdiv : (r.acc + n * r.mhz - r.acc) * r.soon / r.mhz = n * r.soon := by
        rw [Nat.add_sub_cancel_left, Nat.mul_right_comm, Nat.mul_div_cancel _ (Nat.pos_of_ne_zero hz)]
      rw [if_neg (by simp [hs]), hdiv]

/-! Monitors (R407, R408) -/

theorem mons_modMon_same {s : State} {u : Nat} {m : Mon} (f : Mon → Mon) (h : s.pkg.mons[u]? = some m) : (modMon s u f).pkg.mons[u]? = some (f m) := by
  show (modAt f s.pkg.mons u)[u]? = _
  rw [getElem?_modAt_same, h, Option.map_some]

theorem mons_modMon_other (s : State) {u k : Nat} (f : Mon → Mon) (h : k ≠ u) : (modMon s u f).pkg.mons[k]? = s.pkg.mons[k]? :=
  getElem?_modAt_other f _ h

theorem modMon_congr_at {s : State} {u : Nat} {m : Mon} {f g : Mon → Mon} (hm : s.pkg.mons[u]? = some m) (h : f m = g m) : modMon s u f = modMon s u g := by
  unfold modMon; rw [modAt_congr_at hm h]

theorem modMon_fixed {s : State} {u : Nat} {m : Mon} {f : Mon → Mon} (hm : s.pkg.mons[u]? = some m) (h : f m = m) : modMon s u f = s := by
  unfold modMon; rw [modAt_fixed hm h]

/-- R408: a snap takes the values from before the samples of its own cycle. -/
theorem snapMon_eq (now : Nat) (m : Mon) : snapMon now m = { m with shadow :=
    match m.before with
    | some (c, r) => if c = now then { m.run with min := r.min, max := r.max, cnt := r.cnt, bins := r.bins } else m.run
    | none => m.run } := by
  unfold snapMon
  cases m.before with
  | none => rfl
  | some b => simp only [beq_iff_eq]

/-- R407: what a write of a configuration leaves in the block. -/
theorem writeMcfg_run (u : Nat) (v : BitVec 32) (m : Mon) :
    (writeMcfg u v m).run = if (writeMcfg u v m).cfg.getLsbD 31 = true ∧ m.cfg.getLsbD 31 = false then
      { m.run with min := 0xFFFFFFFF, max := 0, cnt := 0, bins := List.replicate 16 0 } else m.run := by
  unfold writeMcfg
  simp only [monOn, Bool.and_eq_true, Bool.not_eq_true']

/-- A corrected error counts in monitors, whatever their number. -/
theorem foldl_countCorrected (l : List Nat) (s : State) :
    l.foldl countCorrected s = { s with pkg := { s.pkg with mons := (l.foldl countCorrected s).pkg.mons } } := by
  induction l generalizing s with
  | nil => rfl
  | cons u l ih => exact ih (countCorrected s u)

/-- R408: a monitor takes the samples of its source while it is enabled. -/
theorem monTakes_iff (m : Mon) (src : Nat) : monTakes m src = true ↔ m.cfg.getLsbD 31 = true ∧ bits m.cfg.toNat 24 4 = src := by
  simp [monTakes, monOn]

theorem sampleMon_of_not_takes {m : Mon} {src : Nat} (now n : Nat) (h : m.cfg.getLsbD 31 = false ∨ bits m.cfg.toNat 24 4 ≠ src) :
    sampleMon now src n m = m := by
  have ht : ¬ monTakes m src = true := by
    rw [monTakes_iff]
    rintro ⟨hon, hsrc⟩
    rcases h with h | h
    · rw [hon] at h; cases h
    · exact h hsrc
  unfold sampleMon
  rw [if_pos (by simp [ht])]

/-- A sample of 32 bits in the running fields: one more, in its bin, and within the new bounds. -/
theorem sampleMon_of_takes {m : Mon} {src n : Nat} (now : Nat) (h : monTakes m src = true) (hn : n < 2 ^ 32) :
    (sampleMon now src n m).cfg = m.cfg ∧ (sampleMon now src n m).shadow = m.shadow ∧ (sampleMon now src n m).run.cnt = m.run.cnt + 1 ∧
    (sampleMon now src n m).run.min.toNat = min m.run.min.toNat n ∧ (sampleMon now src n m).run.max.toNat = max m.run.max.toNat n ∧
    (sampleMon now src n m).run.bins = modAt satInc m.run.bins (binOf m.cfg n) ∧ (sampleMon now src n m).run.umiss = m.run.umiss ∧
    ((∀ b, m.before = some b → b.1 ≠ now) → (sampleMon now src n m).before = some (now, m.run)) := by
  have hw : (BitVec.ofNat 32 (min n 0xFFFFFFFF)).toNat = n := by
    rw [BitVec.toNat_ofNat, Nat.min_eq_left (by omega), Nat.mod_eq_of_lt hn]
  have heq : sampleMon now src n m = _ := if_neg (by simp [h])
  rw [heq]
  refine ⟨rfl, rfl, rfl, ?_, ?_, rfl, rfl, fun hb => ?_⟩
  · dsimp only
    split <;> rename_i hlt <;> rw [BitVec.lt_def, hw] at hlt
    · rw [hw]; omega
    · omega
  · dsimp only
    split <;> rename_i hlt <;> rw [BitVec.lt_def, hw] at hlt
    · rw [hw]; omega
    · omega
  · refine if_neg fun ha => ?_
    obtain ⟨b, hb1, hb2⟩ := (Option.any_eq_true _ _).mp ha
    exact hb b hb1 (eq_of_beq hb2)

/-- A die's monitor has no level of its own. -/
theorem levelOf?_die {s : State} {u : Nat} (src : Nat) (h : 144 ≤ u) : levelOf? s u src = none := if_pos h

/-- A sample of a die as the event brings it, or of a core's level once in its span, is taken by the block; only the span beside. -/
theorem exec_monitorSample_taken {s : State} {u src v n : Nat} {m : Mon} (hm : s.pkg.mons[u]? = some m)
    (h : (144 ≤ u ∧ v = n) ∨ (levelOf? s u src = some n ∧ m.span < monNow s u / 1024)) :
    ∃ t k, exec (.monitorSample u src v) s = .next t ∧ t = { s with pkg := { s.pkg with mons := t.pkg.mons } } ∧
      t.pkg.mons[u]? = some { sampleMon (monNow s u) src n m with span := k } := by
  show ∃ t k, execMonitorSample u src v s = _ ∧ _
  unfold execMonitorSample
  rcases h with ⟨hu, rfl⟩ | ⟨hl, hk⟩
  · rw [levelOf?_die src hu]
    exact ⟨_, _, congrArg _ (if_pos hu), rfl, mons_modMon_same _ hm⟩
  · rw [hl]
    refine ⟨_, monNow s u / 1024, rfl, rfl, (mons_modMon_same _ hm).trans ?_⟩
    rw [if_neg (Nat.not_le.mpr hk)]

theorem monitorsEnabled : MonitorsEnabled := by
  intro s u v m hm
  refine ⟨_, writeMcfg u v m, rfl, rfl, mons_modMon_same _ hm, rfl, rfl, fun hon hoff => ?_, fun h => ?_, fun k hk => mons_modMon_other s _ hk⟩
  · rw [writeMcfg_run, if_pos ⟨hon, hoff⟩]
  · rw [writeMcfg_run, if_neg]
    rintro ⟨hon, hoff⟩
    rcases h with h | h
    · rw [hon] at h; cases h
    · rw [hoff] at h; cases h

theorem monitorSamples : MonitorSamples := by
  intro s u src v n m hm h
  obtain ⟨t, k, ht, hframe, hmon⟩ := exec_monitorSample_taken hm h
  refine ⟨t, ht, hframe, fun hno => ?_, fun hon hsrc hn => ?_⟩
  · rw [sampleMon_of_not_takes _ _ hno] at hmon
    exact ⟨_, hmon, rfl, rfl, rfl⟩
  · exact ⟨_, hmon, sampleMon_of_takes _ ((monTakes_iff m src).mpr ⟨hon, hsrc⟩) hn⟩

theorem otherActsSampleNothing : OtherActsSampleNothing := by
  refine fun s u src v => ⟨fun hu hl => ?_, fun n m hl hm hk => ?_⟩
  · show execMonitorSample u src v s = _
    unfold execMonitorSample
    rw [hl]
    exact congrArg _ (if_neg (Nat.not_le.mpr hu))
  · show execMonitorSample u src v s = _
    unfold execMonitorSample
    rw [hl]
    exact congrArg _ (modMon_fixed hm (if_pos hk))

/-! Lines of the caches (R243 to R245, R409) -/

/-- Nothing but lines of the L3 and of the dies' slices differs. -/
def LinesOnly (s t : State) : Prop := t = { s with hub := { s.hub with l3 := t.hub.l3, l3Wiped := t.hub.l3Wiped }, dies := t.dies }

theorem LinesOnly.refl (s : State) : LinesOnly s s := rfl

theorem LinesOnly.trans {s t u : State} (h : LinesOnly s t) (k : LinesOnly t u) : LinesOnly s u := by
  unfold LinesOnly at h k ⊢
  rw [k, h]

theorem LinesOnly.keeps {s t : State} (h : LinesOnly s t) :
    t.pkg = s.pkg ∧ t.hub.placed = s.hub.placed ∧ t.threads = s.threads ∧ t.cores = s.cores ∧ t.effects = s.effects := by
  rw [h]; exact ⟨rfl, rfl, rfl, rfl, rfl⟩

theorem touchL3_linesOnly (s : State) (line : Nat) (dirty : BitVec 256) (z : Option Bool) : LinesOnly s (touchL3 s line dirty z) := by
  unfold touchL3
  split
  · exact .refl s
  · dsimp only
    split <;> rfl

theorem modDie_linesOnly (s : State) (d : Nat) (f : Die → Die) : LinesOnly s (modDie s d f) := rfl

theorem writeBackFrom_linesOnly (s : State) (line d : Nat) : LinesOnly s (writeBackFrom s line d) := by
  unfold writeBackFrom
  split
  · split
    · exact .refl s
    · exact (touchL3_linesOnly s _ _ _).trans (modDie_linesOnly _ _ _)
  · exact .refl s

theorem foldl_linesOnly {α : Type} {f : State → α → State} (hf : ∀ s a, LinesOnly s (f s a)) (l : List α) (s : State) : LinesOnly s (l.foldl f s) := by
  induction l generalizing s with
  | nil => exact .refl s
  | cons a l ih => exact (hf s a).trans (ih (f s a))

theorem emptyWay_linesOnly (s : State) (site : WaySite) (way : Nat) : LinesOnly s (emptyWay s site way) := by
  cases site with
  | l2 d => exact (foldl_linesOnly (fun s n => writeBackFrom_linesOnly s n d) _ s).trans (modDie_linesOnly _ _ _)
  | l3 => rfl
  | lvs vc => exact .refl s

/-- A slice of which some lines are given up; there is no slice, and no line, beyond the dies. -/
theorem die_filter_l2 (s : State) (d : Nat) (p : L2Line → Bool) : (die (modDie s d fun x => { x with l2 := x.l2.filter p }) d).l2 = (die s d).l2.filter p := by
  by_cases hd : d < s.dies.length
  · rw [die_modDie_same s d _ hd]
  · have hout : ∀ l : List Die, l.length ≤ d → l.getD d Die.reset = Die.reset := fun l hl => by
      rw [List.getD_eq_getElem?_getD, List.getElem?_eq_none hl]; rfl
    have hs : die s d = Die.reset := hout _ (Nat.not_lt.mp hd)
    have ht : die (modDie s d fun x => { x with l2 := x.l2.filter p }) d = Die.reset := hout _ (by simpa using hd)
    rw [hs, ht]; rfl

/-- No line of a slice lies in the way that it gave up. -/
theorem emptyWay_l2 (s : State) (d way : Nat) : ∀ l ∈ (die (emptyWay s (.l2 d) way) d).l2, Config.wayOf l.line ≠ way := by
  intro l hl
  unfold emptyWay at hl
  dsimp only at hl
  rw [die_filter_l2, List.mem_filter] at hl
  simpa using hl.2

/-- A line of the L3 that lies in the way it gave up is dirty, and its home is offline. -/
theorem emptyWay_l3 (s : State) (way : Nat) : ∀ l ∈ (emptyWay s .l3 way).hub.l3, Config.wayOf l.line = way →
    l.dirty ≠ 0 ∧ homeOffline s (256 * l.line) = true := by
  intro l hl hway
  have hp := (List.mem_filter.mp hl).2
  simpa [hway] using hp

/-! Errors in arrays (R376 to R378) -/

/-- Nothing of a core but its list of fetches differs, and nothing of the hub. -/
def FetchesOnly (s t : State) : Prop := t.hub = s.hub ∧ ∀ k, core t k = { core s k with fetches := (core t k).fetches }

theorem FetchesOnly.refl (s : State) : FetchesOnly s s := ⟨rfl, fun _ => rfl⟩

theorem FetchesOnly.trans {s t u : State} (h : FetchesOnly s t) (k : FetchesOnly t u) : FetchesOnly s u :=
  ⟨k.1.trans h.1, fun i => by rw [k.2 i, h.2 i]⟩

theorem foldl_fetchesOnly {α : Type} {f : State → α → State} (hf : ∀ s a, FetchesOnly s (f s a)) (l : List α) (s : State) : FetchesOnly s (l.foldl f s) := by
  induction l generalizing s with
  | nil => exact .refl s
  | cons a l ih => exact (hf s a).trans (ih (f s a))

/-- A core after a change of some core: changed or as it was. -/
theorem core_modCore (s : State) (vc : Nat) (f : Core → Core) (k : Nat) : core (modCore s vc f) k = f (core s k) ∨ core (modCore s vc f) k = core s k := by
  by_cases hk : k = vc
  · subst hk
    by_cases hl : k < s.cores.length
    · exact .inl (core_modCore_same s k f hl)
    · right; unfold core modCore; rw [modAt_beyond f _ _ (Nat.not_lt.mp hl)]
  · exact .inr (core_modCore_other s f hk)

theorem modCore_fetchesOnly (s : State) (vc : Nat) (f : Core → List Fetch) : FetchesOnly s (modCore s vc fun c => { c with fetches := f c }) := by
  refine ⟨rfl, fun k => ?_⟩
  rcases core_modCore s vc (fun c => { c with fetches := f c }) k with h | h <;> rw [h]

theorem startFetch_fetchesOnly (s : State) (vc ctx grid : Nat) (p : SegPtr) : FetchesOnly s (startFetch s vc ctx grid p) := by
  unfold startFetch
  dsimp only
  split
  · exact .refl s
  · exact modCore_fetchesOnly (fresh s).2 vc _

theorem wantConf_fetchesOnly (s : State) (uid : Nat) : FetchesOnly s (wantConf s uid) := by
  unfold wantConf
  split
  · split
    · exact startFetch_fetchesOnly s _ _ _ _
    · exact .refl s
  · exact .refl s

theorem refetch_fetchesOnly (s : State) (vc : Nat) (old : List BullEnt) : FetchesOnly s (refetch s vc old) := by
  unfold refetch
  exact foldl_fetchesOnly (fun s _ => foldl_fetchesOnly (fun s (t : Thread) => wantConf_fetchesOnly s t.uid) _ s) _ s

theorem uncorrectable_memory (s : State) (pa : Nat) : (uncorrectable s (.memory pa)).hub.badSectors.contains (pa / 64) = true ∧
    (uncorrectable s (.memory pa)).hub.placed = s.hub.placed ∧ (uncorrectable s (.memory pa)).threads = s.threads := by
  unfold uncorrectable
  dsimp only
  split
  · exact ⟨‹_›, rfl, rfl⟩
  · exact ⟨by simp, rfl, rfl⟩

/-- R377: the slot is marked and keeps its presence bit. -/
theorem uncorrectable_lvs {s : State} {vc frame slot : Nat} {th : Thread} (ht : threadAt? s vc frame = some th) (hu : thread? s th.uid = some th)
    (hs : slot < th.slots.length) : ∃ u, thread? (uncorrectable s (.lvs vc frame slot)) th.uid = some u ∧ u.lvsBad.contains slot = true ∧
      (u.slots.getD slot Slot.empty).mark = true ∧ u.st = th.st ∧ (uncorrectable s (.lvs vc frame slot)).hub = s.hub := by
  unfold uncorrectable
  simp only [ht]
  refine ⟨_, (thread_modThread_same s th.uid _ ?_).trans (congrArg _ hu), contains_insertNat _ _, ?_, rfl, rfl⟩
  · exact fun _ => rfl
  · dsimp only
    rw [getD_modAt_same _ _ _ _ hs]

theorem uncorrectable_operandSlot {s : State} {vc n : Nat} (hv : vc < s.cores.length) (hn : n < (core s vc).store.slots.length)
    (hfree : ∀ g ∈ residents s vc, n ∉ g.opsl) : (opSlot (uncorrectable s (.operandSlot vc n)) vc n).bad = true ∧
      (uncorrectable s (.operandSlot vc n)).threads = s.threads ∧ (uncorrectable s (.operandSlot vc n)).hub = s.hub := by
  have hnone : (residents s vc).find? (fun g => g.opsl.contains n) = none :=
    List.find?_eq_none.mpr fun g hg hc => hfree g hg (List.contains_iff_mem.mp hc)
  unfold uncorrectable
  simp only [hnone]
  refine ⟨?_, rfl, rfl⟩
  unfold opSlot modSlot modStore
  rw [core_modCore_same s vc _ hv]
  dsimp only
  rw [getD_modAt_same _ _ _ _ hn]

theorem errorsMark : ErrorsMark := by
  intro s
  refine ⟨fun pa => ⟨_, rfl, uncorrectable_memory s pa⟩, fun vc frame slot th ht hu hs => ?_, fun vc p hv => ⟨_, rfl, ?_, ?_, rfl, rfl⟩,
    fun vc n hv hn hfree => ⟨_, rfl, uncorrectable_operandSlot hv hn hfree⟩, fun vc frame ht => ?_, fun vc frame th ht hst => ?_,
    fun _ _ _ => rfl, fun _ _ _ => rfl, fun _ _ _ => rfl, fun vc ctx addr cid hv => ?_⟩
  · obtain ⟨u, hu⟩ := uncorrectable_lvs ht hu hs
    exact ⟨_, u, rfl, hu⟩
  · show (core (modStore _ _ _) vc).store.badLines.contains _ = true
    unfold modStore
    rw [core_modCore_same s vc _ hv]
    exact contains_insertNat _ _
  · show (core (modStore _ _ _) vc).store.spad = _
    unfold modStore
    rw [core_modCore_same s vc _ hv]
  · show Host.Outcome.next (uncorrectable s _) = _
    unfold uncorrectable
    simp only [ht]
  · show Host.Outcome.next (uncorrectable s _) = _
    unfold uncorrectable
    simp only [ht]
    rw [if_pos (by simpa using hst)]
  · refine ⟨_, rfl, ?_⟩
    obtain ⟨hhub, hcore⟩ := refetch_fetchesOnly
      (modCore s vc fun c => { c with bullpen := c.bullpen.filter fun b => !(b.conf.ctx == ctx && b.conf.addr == addr && b.conf.cid == cid) }) vc
      (core s vc).bullpen
    have hc := hcore vc
    rw [core_modCore_same s vc _ hv] at hc
    exact ⟨(congrArg Core.bullpen hc :), (congrArg Core.tlb hc :), (congrArg Core.l1 hc :), (congrArg Core.store hc :), hhub⟩

/-! Fibres (R399) -/

/-- A fibre that has failed is noted; the routes that held it are memory, and no thread is touched. -/
theorem exec_fibreFailure (s : State) {f : Nat} (hf : f < 256) : ∃ t, exec (.fibreFailure f) s = .next t ∧
    t.pkg.spares.deadFibres.contains f = true ∧ t.threads = s.threads := by
  refine ⟨_, if_neg (Nat.not_le.mpr hf), ?_⟩
  have h := clearFibre_hubOnly { s with pkg := { s.pkg with spares := { s.pkg.spares with deadFibres := insertNat f s.pkg.spares.deadFibres } } } f (.refl _)
  rw [h.eq]
  exact ⟨contains_insertNat _ _, rfl⟩

/-- Settles O59: what each event of the package in service changes. -/
theorem serviceEventsComplete : Obligations.ServiceEventsComplete := by
  refine ⟨fun s => ⟨fun r out inb reg hreg => ?clock, pass_at_boundary, fun _ _ => rfl, fun u m hm => ?snap, fun what found => ?scrub, fun _ => rfl, rfl,
    fun f w hf hw hfree => ?wave, fun f hf => exec_fibreFailure s hf, fun stack row hs hfree => ?row, fun stack ch hs hfree => ?channel,
    fun site way => ?way⟩, monitorsEnabled, monitorSamples, otherActsSampleNothing, errorsMark⟩
  case clock =>
    have hstep := getElem?_modAt_same (stepRegion (regionHas s r out) (regionHas s r inb)) s.clock.regions r
    rw [hreg, Option.map_some] at hstep
    refine ⟨_, exec_clockStep r _ s, rfl, rfl, fun k hk => getElem?_modAt_other _ _ hk, fun hd hu => hstep.trans ?_, fun hd hu => hstep.trans ?_,
      fun he => hstep.trans ?_⟩
    · rw [hd, hu]; rfl
    · rw [hd, hu]; rfl
    · rw [he, stepRegion_same]
  case snap =>
    refine ⟨congrArg _ (congrArg (modMon s u) (funext (snapMon_eq _))), fun hb => congrArg _ (modMon_congr_at hm ?_)⟩
    rw [snapMon_eq, hb]
  case scrub =>
    refine ⟨_, rfl, foldl_countCorrected found s, fun he => ?_, fun u m he hm => ?_⟩
    · rw [he]; rfl
    · rw [he]; exact mons_modMon_same (fun m => { m with run := { m.run with cecc := m.run.cecc + 1 } }) hm
  case wave => exact ⟨_, if_neg (by simp [hf, hw, hfree]), rfl, rfl⟩
  case row => exact ⟨_, if_neg (by rw [hfree]; simp [hs]), rfl, rfl⟩
  case channel => exact ⟨_, if_neg (by simp [hs, hfree]), rfl, rfl⟩
  case way =>
    obtain ⟨hpkg, hplaced, hthreads, hcores, heffects⟩ := (emptyWay_linesOnly s site way).keeps
    refine ⟨_, rfl, by rw [hpkg], hplaced, hthreads, hcores, heffects, fun d hd => ?_, fun hd => ?_⟩
    · subst hd; exact emptyWay_l2 s d way
    · subst hd; exact emptyWay_l3 s way

end Sys2Proof.Machine
end

section
/-! PROOFS (O9, O27, O33). How a word decides its output, what `rd` sends, and the order of a commit's tests: one lemma for each case of a decision,
then the statements put together from them. -/
namespace Sys2Proof.Machine

/-! The five cases of R46 -/

theorem predHolds_of {pc : Nat} {p : Tok} (h : pc = 0 ∨ predHolds pc p = true) : predHolds pc p = true := by
  rcases h with rfl | h
  · rfl
  · exact h

theorem predHolds_poison {pc : Nat} (o : BitVec 32) (h : pc ≠ 0) : predHolds pc (.poison o) = false := by
  simp [predHolds, h, tokTrue, tokFalse]

theorem firstPoison_single {p : Tok} (h : ∀ o, p ≠ .poison o) : firstPoison [p] = none := by
  cases p with
  | poison o => exact absurd rfl (h o)
  | null => rfl
  | val v => rfl

/-- Where no poisoned p port decides, `gate` weighs the predicate and the data ports. -/
theorem gate_of_not_poison {pc : Nat} {p : Tok} (data : List Tok) (h : pc = 0 ∨ ∀ o, p ≠ .poison o) :
    gate pc p data = if !predHolds pc p then some .null else if data.contains .null then some .null else (firstPoison data).map .poison := by
  have hp : (if (pc == 0) = true then none else firstPoison [p]) = none := by
    split
    · rfl
    · rcases h with rfl | h
      · contradiction
      · exact firstPoison_single h
  unfold gate
  rw [hp]
  dsimp only
  cases firstPoison data <;> rfl

theorem gate_poison {pc : Nat} (o : BitVec 32) (data : List Tok) (h : pc ≠ 0) : gate pc (.poison o) data = some (.poison o) := by
  simp [gate, h, firstPoison]

theorem gate_predFails {pc : Nat} {p : Tok} (data : List Tok) (hp : ∀ o, p ≠ .poison o) (hf : predHolds pc p = false) : gate pc p data = some .null := by
  rw [gate_of_not_poison data (.inr hp), hf]; rfl

/-- A predicate that holds leaves the decision to the data ports. -/
theorem gate_predHolds {pc : Nat} {p : Tok} (data : List Tok) (h : pc = 0 ∨ predHolds pc p = true) :
    gate pc p data = if .null ∈ data then some .null else (firstPoison data).map .poison := by
  have hp : pc = 0 ∨ ∀ o, p ≠ .poison o := by
    refine or_iff_not_imp_left.mpr fun h0 o ho => ?_
    subst ho
    exact absurd (h.resolve_left h0) (by simp [predHolds_poison o h0])
  rw [gate_of_not_poison data hp, predHolds_of h]
  simp

/-- Settles O9: each case of R46 is a case of `gate`, and a word that `gate` decides sends its token and nothing else. -/
theorem outputDecidedInOrder : Obligations.OutputDecidedInOrder := by
  intro i s x sh hc hi hf
  have decided : ∀ tok, siteGate s x sh = some tok → Sends (exec i s) s x tok 0 := fun _ hg => exec_computingWord_gated hc hi hf hg
  refine ⟨fun o hpc hp => decided _ ?_, fun hp _ hfail => decided _ (gate_predFails _ hp hfail), fun hpred hnull => decided _ ?_,
    fun hpred hnull o ho => decided _ ?_, fun hpred hnull hnone => ⟨hf, ?_⟩, fun _ _ _ _ _ _ => ⟨rfl, rfl, rfl, rfl⟩, fun q => ⟨rfl, rfl, rfl, rfl⟩⟩
  · exact (congrArg (gate sh.pc · _) hp).trans (gate_poison o _ hpc)
  · exact (gate_predHolds _ hpred).trans (if_pos hnull)
  · exact (gate_predHolds _ hpred).trans ((if_neg hnull).trans (congrArg _ ho))
  · exact (gate_predHolds _ hpred).trans ((if_neg hnull).trans (congrArg _ hnone))

/-! Reading a slot (R198) -/

/-- `rd` that fires at a site: an error found in its slots parks the thread, else it sends what the slots held at admission. -/
theorem execRd_fires {f : FmtL} {s : State} {x : Site} {sh : Shape} (hi : shape (.rd f) = some sh) (h : Fires s x sh) :
    exec (.rd f) s =
      let n := f.slot.toNat
      let w := outWidthAt x.ws x.idx
      if (slotsOf n w).any x.t.lvsBad.contains then .next (takeFault s x.t.uid ⟨0x0A, 2, 0, 0, 0⟩)
      else .next (emit (statusAcquire s x.t (slotsOf n w)) x (rdTok x.ins.slots0 n w) 0) := by
  obtain ⟨hsite, hcan⟩ := h
  show execRd f s = _
  simp only [execRd, hsite, hi, hcan, if_true]

/-- Settles O27: the cases of `rd` are those of `rdTok` and `statusAcquire`. -/
theorem readSlot : Obligations.ReadSlot := by
  intro s x f sh hi hf
  refine ⟨fun hgood => ?_, fun hbad => (execRd_fires hi hf).trans (if_pos hbad)⟩
  have sends : ∀ tok, rdTok x.ins.slots0 f.slot.toNat (outWidthAt x.ws x.idx) = tok →
      Sends (exec (.rd f) s) (statusAcquire s x.t (slotsOf f.slot.toNat (outWidthAt x.ws x.idx))) x tok 0 := fun tok ht =>
    ht ▸ (execRd_fires hi hf).trans (if_neg (by rw [hgood]; exact Bool.false_ne_true))
  refine ⟨fun hlo => sends _ ?_, fun hlo hw => sends _ ?_, fun hlo hw hhi => sends _ ?_, fun hlo hw hhi => sends _ ?_, fun hs => ?_, fun hs => if_pos hs⟩
  · simp only [rdTok, hlo, if_true]
  · simp only [rdTok, hlo, beq_eq_false_iff_ne.mpr hw, Bool.false_eq_true, if_false]
  · simp only [rdTok, hlo, hw, hhi, beq_self_eq_true, Bool.false_eq_true, if_false, if_true]
  · simp only [rdTok, hlo, hw, hhi, beq_self_eq_true, Bool.false_eq_true, if_false, if_true]
  · exact if_neg (by rw [hs]; exact Bool.false_ne_true)

/-! The order of a commit's tests (R48, R151, R160, R246, R305, R358, R373) -/

/-- A commit whose thread may commit and whose words have all fired comes to its accesses. -/
theorem exec_threadCommit_scans {s : State} {vc frame : Nat} {t : Thread} {x : Site} (ht : threadAt? s vc frame = some t) (hmay : mayCommit s t = true)
    (hhalt : halted s vc = false) (hpast : commitPast s vc frame = false) (hphase : phaseOf s t.ctx < 3) (hsite : commitSite? s t = some x)
    (hfired : allFired x = true) (hack : t.ackRec = none) :
    exec (.threadCommit vc frame) s = .next (commitScan s x x.ws.length true) := by
  show Host.Outcome.next (tryCommit s vc frame false) = _
  have hph : ¬ 3 ≤ phaseOf s t.ctx := Nat.not_le.mpr hphase
  simp [tryCommit, ht, hmay, hhalt, hpast, hph, hsite, hfired, hack]

/-- An access that neither fails nor misses. -/
def Acc.passes (a : Acc) : Prop := (∀ g, a ≠ .bad g) ∧ ∀ va need, a ≠ .miss va need

/-- Accesses that pass leave the scan to those after them. -/
theorem scanAcc_append {pre : List Acc} (post : List Acc) (h : ∀ a ∈ pre, a.passes) : scanAcc (pre ++ post) = scanAcc post := by
  induction pre with
  | nil => rfl
  | cons a pre ih =>
    obtain ⟨hbad, hmiss⟩ := h a (List.mem_cons_self ..)
    rw [← ih fun b hb => h b (List.mem_cons_of_mem _ hb)]
    cases a with
    | bad g => exact absurd rfl (hbad g)
    | miss va need => exact absurd rfl (hmiss va need)
    | _ => rfl

/-- What a whole scan of a commit's accesses comes to, by the scan's answer. -/
theorem commitScan_eq {s : State} {x : Site} (hrun : stalled (watchNamed s x) = false) : commitScan s x x.ws.length true =
    match scanAcc ((List.range x.ws.length).map (accessAt (watchNamed s x) x)) with
    | .bad f => takeFault (watchNamed s x) x.t.uid f
    | .wait => awaitPages (watchNamed s x) x ((List.range x.ws.length).map (accessAt (watchNamed s x) x))
    | .clear => commitTested (watchNamed s x) x := by
  unfold commitScan
  dsimp only
  rw [hrun]
  rfl

/-- A held effect of an unconfirmed group holds the commit before any test. -/
theorem commitTested_held {s : State} {x : Site} {l : LayReads} (hl : readLayouts s x = l) (hwait : l.wait = false) (hconf : confirmed l.s x.t = false)
    (hheld : (List.range x.ws.length).any (holdsInstance l.s x l.recs) = true) : commitTested s x = holdInst l.s x := by
  unfold commitTested
  simp only [hl, hwait, hconf, hheld, Bool.false_eq_true, if_false, Bool.not_false, Bool.and_self, if_true]

/-- The tests of a commit past its layout records and held effects, in their order. -/
def commitWeighed (x : Site) (l : LayReads) : State :=
  match poisonAt? l.s x with
  | some (i, o) => takeFault l.s x.t.uid ⟨4, 0, BitVec.ofNat 32 i, 0, o⟩
  | none => match trapAt? l.s x with
    | some f => takeFault l.s x.t.uid f
    | none => match testSucc l.s x with
      | (s1, .bad f) => takeFault s1 x.t.uid f
      | (s1, .go u) => match engineFault? s1 x with
        | some i => takeFault s1 x.t.uid ⟨2, 15, BitVec.ofNat 32 i, 0, 0⟩
        | none => match lacking? s1 x with
          | some reason => waitInst s1 x reason
          | none => commitInst s1 x u l.recs

/-- Past its layout records and held effects a commit is weighed. -/
theorem commitTested_eq {s : State} {x : Site} {l : LayReads} (hl : readLayouts s x = l) (hwait : l.wait = false)
    (hheld : confirmed l.s x.t = true ∨ (List.range x.ws.length).any (holdsInstance l.s x l.recs) = false) :
    commitTested s x = commitWeighed x l := by
  have hpass : (!confirmed l.s x.t && (List.range x.ws.length).any (holdsInstance l.s x l.recs)) = false := by
    rcases hheld with h | h <;> simp [h]
  unfold commitTested
  dsimp only
  rw [hl, hwait, hpass]
  rfl

/-- A commit that reached its tests answers what they come to. -/
theorem exec_threadCommit_tested {s : State} {vc frame : Nat} {x : Site} {l : LayReads} (h : CommitReached s vc frame x l) :
    exec (.threadCommit vc frame) s = .next (commitWeighed x l) := by
  obtain ⟨t, ht, hmay, hhalt, hpast, hphase, hsite, hfired, hack, hrun, hclear, hl, hwait, hheld⟩ := h
  rw [exec_threadCommit_scans ht hmay hhalt hpast hphase hsite hfired hack, commitScan_eq hrun, hclear]
  exact congrArg _ (commitTested_eq hl hwait hheld)

/-- A commit that passes every test is `commitInst`. -/
theorem exec_threadCommit_commits {s s1 : State} {vc frame : Nat} {x : Site} {l : LayReads} {u : Succ} (h : CommitReached s vc frame x l)
    (hp : poisonAt? l.s x = none) (ht : trapAt? l.s x = none) (hs : testSucc l.s x = (s1, .go u)) (he : engineFault? s1 x = none)
    (hk : lacking? s1 x = none) : exec (.threadCommit vc frame) s = .next (commitInst s1 x u l.recs) := by
  rw [exec_threadCommit_tested h, commitWeighed, hp, ht, hs]
  dsimp only
  rw [he, hk]

/-- Settles O33: the accesses are weighed by their scan, and the tests after them are a chain of cases. -/
theorem commitTestsInOrder : Obligations.CommitTestsInOrder := by
  constructor
  · intro s vc frame t x ht hmay hhalt hpast hphase hsite hfired hack s1 accs o hrun
    have ho : o = .next (commitScan s x x.ws.length true) := exec_threadCommit_scans ht hmay hhalt hpast hphase hsite hfired hack
    rw [ho, commitScan_eq hrun]
    refine ⟨fun f pre post heq hpre => ?_, fun va need pre post heq hpre => ?_, fun l hclear hl hwait hconf hheld => ?_⟩
    · have hscan : scanAcc accs = .bad f := heq ▸ scanAcc_append _ hpre
      rw [hscan]
    · have hscan : scanAcc accs = .wait := heq ▸ scanAcc_append _ hpre
      rw [hscan]
    · rw [hclear]
      exact congrArg _ (commitTested_held hl hwait hconf hheld)
  · intro s vc frame x l hreached o uid
    have ho : o = .next (commitWeighed x l) := exec_threadCommit_tested hreached
    unfold commitWeighed at ho
    refine ⟨fun i org hp => ?_, fun hp f ht => ?_, fun hp ht s1 => ⟨fun f hs => ?_, fun u hs => ⟨fun i he => ?_, fun reason he hk => ?_,
      fun he hk => exec_threadCommit_commits hreached hp ht hs he hk⟩⟩⟩
    · rw [ho, hp]
    · rw [ho, hp, ht]
    · rw [ho, hp, ht, hs]
    · rw [ho, hp, ht, hs]; dsimp only; rw [he]
    · rw [ho, hp, ht, hs]; dsimp only; rw [he, hk]

end Sys2Proof.Machine
end

section
/-! PROOFS (O34, the slots). What a live-out leaves in a thread's slots (R38, R47, R171, R199): first one token, then the words of a commit in their order. -/
namespace Sys2Proof.Machine

/-! Lists -/

theorem getD_setAt {α : Type} (l : List α) (i k : Nat) (v d : α) (hi : i < l.length) : (setAt l i v).getD k d = if k = i then v else l.getD k d := by
  simp only [setAt, List.getD_eq_getElem?_getD, List.getElem?_set, eq_comm (a := i)]
  split <;> simp

@[simp] theorem length_setAt {α : Type} (l : List α) (i : Nat) (v : α) : (setAt l i v).length = l.length := List.length_set

/-- Writing past the end of a list changes nothing. -/
theorem setAt_beyond {α : Type} (l : List α) (i : Nat) (v : α) (hi : l.length ≤ i) : setAt l i v = l := List.set_eq_of_length_le hi

/-! One token -/

/-- A slot of a list after a token has filled slot `n`, and slot `n + 1` too where it is wide. -/
def slotAfter (n k : Nat) (wide : Bool) (tok : Tok) (old : Slot) : Slot :=
  if tok = .null then old else if k = n then slotOf tok false else if wide = true ∧ k = n + 1 then slotOf tok true else old

theorem slotAfter_same (n : Nat) (wide : Bool) (old : Slot) {tok : Tok} (h : tok ≠ .null) : slotAfter n n wide tok old = slotOf tok false := by
  rw [slotAfter, if_neg h, if_pos rfl]

theorem slotAfter_next (n : Nat) (old : Slot) {tok : Tok} (h : tok ≠ .null) : slotAfter n (n + 1) true tok old = slotOf tok true := by
  rw [slotAfter, if_neg h, if_neg (Nat.succ_ne_self n), if_pos ⟨rfl, rfl⟩]

theorem getD_setAt_pair (l : List Slot) (n k : Nat) (wide : Bool) (lo hi : Slot) (hn : n < l.length) (hk : k < l.length) :
    (if wide = true then setAt (setAt l n lo) (n + 1) hi else setAt l n lo).getD k Slot.empty =
      if k = n then lo else if wide = true ∧ k = n + 1 then hi else l.getD k Slot.empty := by
  cases wide with
  | false => rw [if_neg Bool.false_ne_true, getD_setAt _ _ _ _ _ hn]; simp
  | true =>
    rw [if_pos rfl]
    by_cases hb : n + 1 < l.length
    · rw [getD_setAt _ _ _ _ _ (by simpa using hb), getD_setAt _ _ _ _ _ hn]
      by_cases h1 : k = n + 1
      · simp [h1]
      · simp [h1]
    · rw [setAt_beyond _ _ _ (by simpa using hb), getD_setAt _ _ _ _ _ hn]
      have h1 : k ≠ n + 1 := by omega
      simp [h1]

/-- R47, R199: each slot after a token has been stored. -/
theorem wrTok_slot (t : Thread) (n k : Nat) (wide : Bool) (tok : Tok) (hn : n < t.slots.length) (hk : k < t.slots.length) :
    (wrTok t n wide tok).slots.getD k Slot.empty = slotAfter n k wide tok (t.slots.getD k Slot.empty) := by
  cases tok with
  | null => rfl
  | poison o => exact getD_setAt_pair t.slots n k wide ⟨o, true, true⟩ ⟨o, true, true⟩ hn hk
  | val b =>
    have hlo : BitVec.ofNat 32 b.toNat = b.setWidth 32 := BitVec.ofNat_toNat 32 b
    have hhi : BitVec.ofNat 32 (b.toNat / 2 ^ 32) = (b >>> 32).setWidth 32 := by
      rw [← BitVec.ofNat_toNat, BitVec.toNat_ushiftRight, Nat.shiftRight_eq_div_pow]
    have h := getD_setAt_pair t.slots n k wide ⟨BitVec.ofNat 32 b.toNat, true, false⟩ ⟨BitVec.ofNat 32 (b.toNat / 2 ^ 32), true, false⟩ hn hk
    refine h.trans ?_
    rw [hlo, hhi]
    rfl

/-- Only a thread's slots, with the notes on them, differ, and there are as many. -/
def SlotsOnly (t u : Thread) : Prop := u = { t with slots := u.slots, lvsBad := u.lvsBad, statusAt := u.statusAt } ∧ u.slots.length = t.slots.length

theorem SlotsOnly.refl (t : Thread) : SlotsOnly t t := ⟨rfl, rfl⟩

theorem SlotsOnly.trans {t u v : Thread} (h : SlotsOnly t u) (k : SlotsOnly u v) : SlotsOnly t v := by
  obtain ⟨h1, h2⟩ := h
  obtain ⟨k1, k2⟩ := k
  refine ⟨?_, k2.trans h2⟩
  rw [h1] at k1
  exact k1

/-- What a thread keeps beside its slots. -/
theorem SlotsOnly.keeps {t u : Thread} (h : SlotsOnly t u) : u.uid = t.uid ∧ u.grid = t.grid ∧ u.xs = t.xs ∧ u.ptr = t.ptr ∧ u.seq = t.seq ∧
    u.st = t.st ∧ u.resident = t.resident := by
  rw [h.1]; exact ⟨rfl, rfl, rfl, rfl, rfl, rfl, rfl⟩

theorem wrTok_slotsOnly (t : Thread) (n : Nat) (wide : Bool) (tok : Tok) : SlotsOnly t (wrTok t n wide tok) := by
  cases tok with
  | null => exact .refl t
  | poison o => refine ⟨rfl, ?_⟩; cases wide <;> simp [wrTok]
  | val b => refine ⟨rfl, ?_⟩; cases wide <;> simp [wrTok, putSlots]

/-! The live-outs of a commit (R38, R151, R171, R199) -/

/-- What the word at an index leaves of a frame. -/
def writeOut (s : State) (x : Site) (t : Thread) (i : Nat) : Thread :=
  match wordAt? x i with
  | some (.wr f, sh) => if deferredWr x.ws i then t else wrTok t f.slot.toNat (producerWidth x.ws i == 64) (portTok s (x.word i) sh 0)
  | _ => t

theorem writeOuts_eq (s : State) (x : Site) (t : Thread) : writeOuts s x t = (List.range x.ws.length).foldl (writeOut s x) t := rfl

theorem writeOut_slotsOnly (s : State) (x : Site) (t : Thread) (i : Nat) : SlotsOnly t (writeOut s x t i) := by
  unfold writeOut
  split
  · split
    · exact .refl t
    · exact wrTok_slotsOnly ..
  · exact .refl t

theorem foldl_writeOut_slotsOnly (s : State) (x : Site) (t : Thread) (l : List Nat) : SlotsOnly t (l.foldl (writeOut s x) t) :=
  List.foldlRecOn l (writeOut s x) (.refl t) fun _ h i _ => h.trans (writeOut_slotsOnly s x _ i)

theorem writeLink_slotsOnly (x : Site) (u : Succ) (t : Thread) : SlotsOnly t (writeLink x u t) := by
  unfold writeLink
  split
  · exact wrTok_slotsOnly ..
  · exact .refl t

theorem writeConds_slotsOnly (s : State) (x : Site) (t : Thread) : SlotsOnly t (writeConds s x t) := by
  unfold writeConds
  dsimp only
  split
  · exact .refl t
  · exact wrTok_slotsOnly ..

theorem commitSlots_slotsOnly (s : State) (x : Site) (u : Succ) (t : Thread) : SlotsOnly t (commitSlots s x u t) :=
  ((foldl_writeOut_slotsOnly s x t _).trans (writeLink_slotsOnly x u _)).trans (writeConds_slotsOnly s x _)

/-- A word either writes a slot, with one token and one half, or leaves it. -/
theorem writeOut_slot (s : State) (x : Site) (t : Thread) (i k : Nat) (hi : i < x.ws.length) (hl : t.slots.length = 64) (hk : k < 64) :
    (∃ tok high, WritesSlot s x k i tok high ∧ (writeOut s x t i).slots.getD k Slot.empty = slotOf tok high) ∨
    ((∀ tok high, ¬ WritesSlot s x k i tok high) ∧ (writeOut s x t i).slots.getD k Slot.empty = t.slots.getD k Slot.empty) := by
  unfold writeOut WritesSlot
  split
  case h_1 f sh hw =>
    split
    case isTrue hd => exact .inr ⟨fun _ _ ⟨_, _, _, _, hnd, _⟩ => by simp [hd] at hnd, rfl⟩
    case isFalse hd =>
      have hd' : deferredWr x.ws i = false := by simpa using hd
      rw [wrTok_slot t _ k _ _ (by omega) (by omega), slotAfter]
      by_cases hnull : portTok s (x.word i) sh 0 = .null
      · refine .inr ⟨fun tok _ ⟨f', sh', hw', _, _, htok, hne, _⟩ => ?_, by rw [if_pos hnull]⟩
        obtain ⟨rfl, rfl⟩ : f = f' ∧ sh = sh' := by simpa using hw.symm.trans hw'
        exact hne (htok ▸ hnull)
      · rw [if_neg hnull]
        by_cases hlo : k = f.slot.toNat
        · exact .inl ⟨_, false, ⟨f, sh, hw, hi, hd', rfl, hnull, .inl ⟨hlo.symm, rfl⟩⟩, if_pos hlo⟩
        · rw [if_neg hlo]
          by_cases hhi : (producerWidth x.ws i == 64) = true ∧ k = f.slot.toNat + 1
          · exact .inl ⟨_, true, ⟨f, sh, hw, hi, hd', rfl, hnull, .inr ⟨by simpa using hhi.1, hhi.2.symm, rfl⟩⟩, if_pos hhi⟩
          · refine .inr ⟨fun tok high ⟨f', sh', hw', _, _, _, _, hslot⟩ => ?_, if_neg hhi⟩
            obtain ⟨rfl, rfl⟩ : f = f' ∧ sh = sh' := by simpa using hw.symm.trans hw'
            rcases hslot with ⟨h, -⟩ | ⟨h64, h, -⟩
            · exact hlo h.symm
            · exact hhi ⟨by simpa using h64, h.symm⟩
  case h_2 hno => exact .inr ⟨fun _ _ ⟨f, sh, hw, _⟩ => hno f sh hw, rfl⟩

/-- A word writes a slot with one token, into one half. -/
theorem writesSlot_unique {s : State} {x : Site} {k i : Nat} {tok tok2 : Tok} {high high2 : Bool} (h : WritesSlot s x k i tok high)
    (h2 : WritesSlot s x k i tok2 high2) : tok = tok2 ∧ high = high2 := by
  obtain ⟨f, sh, hw, -, -, htok, -, hslot⟩ := h
  obtain ⟨f2, sh2, hw2, -, -, htok2, -, hslot2⟩ := h2
  obtain ⟨rfl, rfl⟩ : f = f2 ∧ sh = sh2 := by simpa using hw.symm.trans hw2
  refine ⟨htok.symm.trans htok2, ?_⟩
  rcases hslot with ⟨hs, hh⟩ | ⟨-, hs, hh⟩ <;> rcases hslot2 with ⟨hs2, hh2⟩ | ⟨-, hs2, hh2⟩
  · rw [hh, hh2]
  · omega
  · omega
  · rw [hh, hh2]

/-- The words below an index: the highest that writes a slot leaves its token there; where none does the slot stays. -/
theorem foldl_writeOut_slot (s : State) (x : Site) (t : Thread) (k : Nat) (hl : t.slots.length = 64) (hk : k < 64) :
    ∀ n, n ≤ x.ws.length →
      (∀ i tok high, i < n → WritesSlot s x k i tok high → (∀ j tok2 high2, j < n → WritesSlot s x k j tok2 high2 → j ≤ i) →
        ((List.range n).foldl (writeOut s x) t).slots.getD k Slot.empty = slotOf tok high) ∧
      ((∀ i tok high, i < n → ¬ WritesSlot s x k i tok high) →
        ((List.range n).foldl (writeOut s x) t).slots.getD k Slot.empty = t.slots.getD k Slot.empty)
  | 0, _ => ⟨fun _ _ _ h => absurd h (Nat.not_lt_zero _), fun _ => rfl⟩
  | n + 1, hn => by
    obtain ⟨ihw, ihn⟩ := foldl_writeOut_slot s x t k hl hk n (by omega)
    have hlen := (foldl_writeOut_slotsOnly s x t (List.range n)).2.trans hl
    rw [List.range_succ, List.foldl_append, List.foldl_cons, List.foldl_nil]
    rcases writeOut_slot s x _ n k hn hlen hk with ⟨tok, high, hw, hval⟩ | ⟨hno, hval⟩
    · refine ⟨fun i tok2 high2 hi hwi hmax => ?_, fun hnone => absurd hw (hnone n tok high (Nat.lt_succ_self n))⟩
      obtain rfl : i = n := by have := hmax n tok high (Nat.lt_succ_self n) hw; omega
      obtain ⟨rfl, rfl⟩ := writesSlot_unique hw hwi
      exact hval
    · refine ⟨fun i tok high hi hwi hmax => ?_, fun hnone => hval.trans (ihn fun i tok high hi => hnone i tok high (Nat.lt_succ_of_lt hi))⟩
      have hne : i ≠ n := fun e => hno tok high (e ▸ hwi)
      exact hval.trans (ihw i tok high (by omega) hwi fun j tok2 high2 hj => hmax j tok2 high2 (Nat.lt_succ_of_lt hj))

/-- R171, R172: a slot after the link word. -/
theorem writeLink_slot (x : Site) (u : Succ) (t : Thread) (k : Nat) (hl : t.slots.length = 64) (hk : k < 64) :
    (writeLink x u t).slots.getD k Slot.empty = match u.link with
      | some r => if k = 63 then ⟨linkWord { x.t.ptr with sidx := r }, true, false⟩ else t.slots.getD k Slot.empty
      | none => t.slots.getD k Slot.empty := by
  unfold writeLink
  cases u.link with
  | none => rfl
  | some r =>
    dsimp only
    rw [wrTok_slot _ _ _ _ _ (by omega) (by omega)]
    simp [slotAfter, slotOf, valTok]

/-- Conditions joined to a word of 32 bits, as a token carries them. -/
theorem joined_setWidth (v : BitVec 32) (c : BitVec 6) (b : Bool) :
    (BitVec.ofNat 128 ((if b then v.toNat else 0) ||| c.toNat)).setWidth 32 = (if b then v else 0) ||| c.setWidth 32 := by
  cases b with
  | false => simp
  | true =>
    have h : v.toNat ||| c.toNat < 2 ^ 32 := Nat.or_lt_two_pow v.isLt (Nat.lt_of_lt_of_le c.isLt (by decide))
    apply BitVec.eq_of_toNat_eq
    simp [BitVec.toNat_or]

/-- R38: a slot after the conditions have been joined into the slot of FSLOT. -/
theorem writeConds_slot (s : State) (x : Site) (t : Thread) (g : Grid) (k : Nat) (hg : grid? s t.grid = some g) (hl : t.slots.length = 64) (hk : k < 64) :
    (writeConds s x t).slots.getD k Slot.empty =
      let l := t.slots.getD k Slot.empty
      if bit (recFslot g.raw) 7 = true ∧ k = recFslot g.raw % 64 then ⟨(if l.pres && !l.mark then l.val else 0) ||| x.ins.conds.setWidth 32, true, false⟩
      else l := by
  unfold writeConds
  simp only [hg, Option.map_some, Option.getD_some]
  cases hb : bit (recFslot g.raw) 7 with
  | false => simp
  | true =>
    rw [Bool.not_true, if_neg Bool.false_ne_true, wrTok_slot _ _ _ _ _ (by omega) (by omega)]
    by_cases hs : k = recFslot g.raw % 64
    · subst hs
      refine (slotAfter_same _ _ _ Tok.noConfusion).trans ((congrArg (Slot.mk · true false) (joined_setWidth _ _ _)).trans ?_)
      exact (if_pos ⟨rfl, rfl⟩).symm
    · simp [slotAfter, hs, valTok]

theorem slotsAfterCommit : SlotsAfterCommit := by
  intro s x u t g k hg hl hk old fs
  have hw : SlotsOnly t (writeOuts s x t) := writeOuts_eq s x t ▸ foldl_writeOut_slotsOnly s x t (List.range x.ws.length)
  have hk1 := writeLink_slotsOnly x u (writeOuts s x t)
  obtain ⟨hlast, hnone⟩ := foldl_writeOut_slot s x t k hl hk x.ws.length le_rfl
  have hlen : (writeOuts s x t).slots.length = 64 := hw.2.trans hl
  obtain ⟨-, hgrid, -⟩ := (hw.trans hk1).keeps
  obtain ⟨-, -, hxs, hptr, hseq, -⟩ := (commitSlots_slotsOnly s x u t).keeps
  have hbelow : ∀ {i tok high}, WritesSlot s x k i tok high → i < x.ws.length := fun ⟨_, _, _, hi, _⟩ => hi
  refine ⟨(writeOuts s x t).slots.getD k Slot.empty, (writeLink x u (writeOuts s x t)).slots.getD k Slot.empty,
    fun i tok high hi hmax => ?_, fun hno => hnone fun i tok high _ => hno i tok high, ?_, ?_, hxs, hptr, hseq⟩
  · exact hlast i tok high (hbelow hi) hi fun j tok2 high2 _ => hmax j tok2 high2
  · exact (writeLink_slot x u _ k hlen hk).trans (by cases u.link <;> rfl)
  · exact writeConds_slot s x _ g k (hgrid.symm ▸ hg) (hk1.2.trans hlen) hk

/-- R47, R199: what a token leaves in the slots of a thread, each slot for itself. -/
theorem wrTok_lands (t : Thread) (n : Nat) (wide : Bool) (tok : Tok) (hn : n < t.slots.length) (hw : wide = true → n + 1 < t.slots.length) :
    let at_ := fun k => (wrTok t n wide tok).slots.getD k Slot.empty
    (tok ≠ .null → at_ n = slotOf tok false ∧ (wide = true → at_ (n + 1) = slotOf tok true)) ∧
    (∀ k, k ≠ n → (wide = true → k ≠ n + 1) → at_ k = t.slots.getD k Slot.empty) := by
  refine ⟨fun hne => ⟨?_, fun hwide => ?_⟩, fun k h1 h2 => ?_⟩
  · exact (wrTok_slot t n n wide tok hn hn).trans (slotAfter_same n wide _ hne)
  · subst hwide
    exact (wrTok_slot t n (n + 1) true tok hn (hw rfl)).trans (slotAfter_next n _ hne)
  · by_cases hk : k < t.slots.length
    · refine (wrTok_slot t n k wide tok hn hk).trans ?_
      have h3 : ¬ (wide = true ∧ k = n + 1) := fun h => h2 h.1 h.2
      rw [slotAfter, if_neg h1, if_neg h3, ite_self]
    · have hlen := (wrTok_slotsOnly t n wide tok).2
      dsimp only
      rw [List.getD_eq_default _ _ (by omega), List.getD_eq_default _ _ (by omega)]

end Sys2Proof.Machine
end

section
/-! PROOFS (O34, the commit). A commit whose tests pass: what it notes before its words pass on, and where its thread stands after it when no word has an
effect of its own and nothing else is pending (R132, R151, R160, R199). -/
namespace Sys2Proof.Machine

/-! What a commit notes before its words pass on -/

/-- Threads, groups, effects, the hub and what the cores store and run stand as before. -/
def NotesOnly (s t : State) : Prop := t.threads = s.threads ∧ t.effects = s.effects ∧ t.groups = s.groups ∧ t.hub = s.hub ∧
  ∀ v, (core t v).store = (core s v).store ∧ (core t v).copies = (core s v).copies ∧ (core t v).ops = (core s v).ops

theorem NotesOnly.refl (s : State) : NotesOnly s s := ⟨rfl, rfl, rfl, rfl, fun _ => ⟨rfl, rfl, rfl⟩⟩

theorem NotesOnly.trans {s t u : State} (h : NotesOnly s t) (k : NotesOnly t u) : NotesOnly s u := by
  obtain ⟨h1, h2, h3, h4, h5⟩ := h
  obtain ⟨k1, k2, k3, k4, k5⟩ := k
  refine ⟨k1.trans h1, k2.trans h2, k3.trans h3, k4.trans h4, fun v => ?_⟩
  obtain ⟨hstore, hcopies, hops⟩ := h5 v
  obtain ⟨kstore, kcopies, kops⟩ := k5 v
  exact ⟨kstore.trans hstore, kcopies.trans hcopies, kops.trans hops⟩

theorem modCore_notesOnly (s : State) (vc : Nat) (f : Core → Core) (hf : ∀ c, (f c).store = c.store ∧ (f c).copies = c.copies ∧ (f c).ops = c.ops) :
    NotesOnly s (modCore s vc f) := by
  refine ⟨rfl, rfl, rfl, rfl, fun v => ?_⟩
  rcases core_modCore s vc f v with h | h <;> rw [h]
  · exact hf _
  · exact ⟨rfl, rfl, rfl⟩

theorem sampleCore_notesOnly (s : State) (vc src v : Nat) : NotesOnly s (sampleCore s vc src v) := .refl s

theorem noteCommit_notesOnly (s : State) (t : Thread) : NotesOnly s (noteCommit s t) := modCore_notesOnly s t.vc _ fun _ => ⟨rfl, rfl, rfl⟩

theorem uniformityMiss_notesOnly (s : State) (vc ctx : Nat) : NotesOnly s (uniformityMiss s vc ctx) := .refl s

theorem noteExit_notesOnly (s : State) (x : Site) (u : Succ) : NotesOnly s (noteExit s x u) := by
  unfold noteExit
  split
  · exact uniformityMiss_notesOnly ..
  · exact .refl s

theorem startFetch_notesOnly (s : State) (vc ctx grid : Nat) (p : SegPtr) : NotesOnly s (startFetch s vc ctx grid p) := by
  unfold startFetch
  dsimp only
  split
  · exact .refl s
  · exact modCore_notesOnly (fresh s).2 vc _ fun _ => ⟨rfl, rfl, rfl⟩

theorem noteUniform_notesOnly (s : State) (x : Site) (u : Succ) : NotesOnly s (noteUniform s x u) := by
  unfold noteUniform
  split
  · have hs := startFetch_notesOnly s x.t.vc x.t.ctx x.t.grid ‹SegPtr›
    dsimp only
    split
    · split
      · split
        · exact .refl s
        · exact hs.trans (uniformityMiss_notesOnly ..)
      · exact hs.trans (modCore_notesOnly _ _ _ fun _ => ⟨rfl, rfl, rfl⟩)
    · exact hs
  · exact .refl s

theorem noteYield_notesOnly (s : State) (x : Site) (u : Succ) : NotesOnly s (noteYield s x u) := by
  unfold noteYield
  split
  · split
    · exact modCore_notesOnly _ _ _ fun _ => ⟨rfl, rfl, rfl⟩
    · exact .refl s
  · exact .refl s

/-- The state in which the words of a commit begin to pass on: the live-outs stand in the thread's slots. -/
def committing (s : State) (x : Site) (u : Succ) : State :=
  let waited := (x.ins.commitAt.map fun a => (watchNow s x.t.ctx) - a).getD 0
  noteYield (noteUniform (noteExit (modThread (noteCommit (sampleCore s x.t.vc 1 waited) x.t) x.t.uid (commitSlots s x u)) x u) x u) x u

theorem committing_notesOnly (s : State) (x : Site) (u : Succ) : NotesOnly (modThread s x.t.uid (commitSlots s x u)) (committing s x u) := by
  have h0 : NotesOnly (modThread s x.t.uid (commitSlots s x u))
      (modThread (noteCommit (sampleCore s x.t.vc 1 ((x.ins.commitAt.map fun a => (watchNow s x.t.ctx) - a).getD 0)) x.t) x.t.uid (commitSlots s x u)) := by
    obtain ⟨hthreads, heffects, hgroups, hhub, hcores⟩ :=
      (sampleCore_notesOnly s x.t.vc 1 ((x.ins.commitAt.map fun a => (watchNow s x.t.ctx) - a).getD 0)).trans (noteCommit_notesOnly _ x.t)
    exact ⟨congrArg (modWhere _ _) hthreads, heffects, hgroups, hhub, hcores⟩
  exact ((h0.trans (noteExit_notesOnly _ x u)).trans (noteUniform_notesOnly _ x u)).trans (noteYield_notesOnly _ x u)

/-- What the words of a commit leave behind them, with what the thread's move waits for. -/
def passed (a : State) (x : Site) (recs : List (Nat × Option (BitVec 512))) : Passed :=
  let r1 := passOrdinals a x recs
  let r2 := passOthers r1.1 x
  (r2.1, r1.2 ++ r2.2)

/-- The thread of a commit begins its move, one commit further on. -/
def beginMove (s : State) (x : Site) (u : Succ) (yields : Bool) (ws : List Wait) : State :=
  bumpMon (modThread s x.t.uid fun t => { t with st := .moving, seq := t.seq + 1, inst := none, wait := some ⟨u.ptr, yields, ws⟩ }) x.t.vc x.t.ctx
    fun m => { m with commits := m.commits + 1 }

/-- The end of a commit: what its words leave is settled, and the thread moves where nothing is left to wait for. -/
def endCommit (b : State) (x : Site) (ws : List Wait) : State :=
  settleEntries (moveIfOver (settleGroup (testNow (settleOps (settleEffects b) x.t.vc) x.t.uid ws) x.t.grid x.t.gidx) x.t.uid) x.t.vc

theorem commitInst_eq (s : State) (x : Site) (u : Succ) (recs : List (Nat × Option (BitVec 512))) :
    commitInst s x u recs =
      let p := passed (committing s x u) x recs
      endCommit (beginMove p.1 x u (instYields x u && !succHasEntry s x u) p.2) x p.2 := rfl

/-! Words without an effect of their own -/

theorem passOther_plain (s : State) (y : Site) {w : Instr} (sh : Shape) (h : plainAtCommit w = true) : passOther s y w sh = (s, []) := by
  unfold passOther
  split
  case h_8 => rfl
  all_goals cases h

section
variable {x : Site} (hplain : ∀ v ∈ x.ws, ∀ i, v = some i → plainAtCommit i = true)
include hplain

theorem plain_of_wordAt {j : Nat} {w : Instr} {sh : Shape} (h : wordAt? x j = some (w, sh)) : plainAtCommit w = true := by
  unfold wordAt? at h
  obtain ⟨w', hw', hsh⟩ := Option.bind_eq_some_iff.mp h
  obtain ⟨sh', -, heq⟩ := Option.map_eq_some_iff.mp hsh
  cases heq
  have hmem : (some w : Option Instr) ∈ x.ws := by
    rw [List.getD_eq_getElem?_getD] at hw'
    cases hget : x.ws[j]? with
    | none => rw [hget] at hw'; cases hw'
    | some v => rw [hget] at hw'; exact hw' ▸ List.mem_of_getElem? hget
  exact hplain _ hmem _ rfl

theorem passExchange_plain (s : State) : passExchange s x = s := by
  unfold passExchange
  refine List.foldlRecOn (motive := fun t => t = s) _ _ rfl fun t ht i _ => ?_
  split
  case h_1 hw => cases plain_of_wordAt hplain hw
  case h_2 hw => cases plain_of_wordAt hplain hw
  case h_3 => exact ht

theorem passOthers_plain (s : State) : passOthers s x = (s, []) := by
  unfold passOthers
  rw [passExchange_plain hplain]
  refine List.foldlRecOn (motive := fun r => r = (s, [])) _ _ rfl fun r hr i _ => ?_
  subst hr
  split
  case h_1 hw => cases plain_of_wordAt hplain hw
  case h_2 hw => cases plain_of_wordAt hplain hw
  case h_3 hw => cases plain_of_wordAt hplain hw
  case h_4 hw => cases plain_of_wordAt hplain hw
  case h_5 hw =>
    split
    · rw [passOther_plain s _ _ (plain_of_wordAt hplain hw)]; rfl
    · rfl
  case h_6 => rfl

end

theorem passOrdinals_plain (s : State) {x : Site} (recs : List (Nat × Option (BitVec 512)))
    (h : ∀ j v q, wordAt? x j = some (v, q) → q.ordinal = false) : passOrdinals s x recs = (s, []) := by
  unfold passOrdinals
  refine List.foldlRecOn (motive := fun r => r = (s, [])) _ _ rfl fun r hr i _ => ?_
  split
  · rw [h _ _ _ (by assumption)]; exact hr
  · exact hr

/-! Nothing pending -/

/-- Nobody has arrived anywhere: at no barrier, collective or `gwait` of any group. -/
def NobodyArrived (s : State) : Prop :=
  ∀ g ∈ s.groups, (∀ b ∈ g.bars, b.arrived = []) ∧ (∀ c ∈ g.colls, c.contribs = []) ∧ g.gw.arrived = []

theorem settleGroup_idle {s : State} (h : NobodyArrived s) (g gi : Nat) : settleGroup s g gi = s := by
  unfold settleGroup
  split
  · rfl
  · rename_i gr hgr
    obtain ⟨hbars, hcolls, hgw⟩ := h gr (List.mem_of_find?_eq_some hgr)
    have hbar : ∀ n, (gr.bars.getD n ⟨0, [], 0, false, 0⟩).arrived = [] := fun n => by
      rw [List.getD_eq_getElem?_getD]
      cases hn : gr.bars[n]? with
      | none => rfl
      | some b => exact hbars b (List.mem_of_getElem? hn)
    have h1 : (List.range 4).foldl (fun s n => if (gr.bars.getD n ⟨0, [], 0, false, 0⟩).arrived.isEmpty then s else settleBar s g gi n) s = s :=
      List.foldlRecOn (motive := fun t => t = s) _ _ rfl fun t ht n _ => by rw [hbar n]; exact ht
    have h2 : gr.colls.foldl (fun s co => if co.contribs.isEmpty then s else settleColl s g gi co) s = s :=
      List.foldlRecOn (motive := fun t => t = s) _ _ rfl fun t ht c hc => by rw [hcolls c hc]; exact ht
    dsimp only
    rw [h1, h2, hgw]
    rfl

theorem settleGroups_idle {s : State} (h : NobodyArrived s) : settleGroups s = s := by
  unfold settleGroups
  refine List.foldlRecOn (motive := fun t => t = s) _ _ rfl fun t ht gr _ => ?_
  subst ht
  split
  · exact settleGroup_idle h _ _
  · rfl

theorem sweepEffects_idle {s : State} (h : s.effects = []) : sweepEffects s = s := by
  have hs : s = { s with effects := [] } := by rw [← h]
  unfold sweepEffects
  rw [h]
  exact hs.symm

theorem settleEffects_idle {s : State} (he : s.effects = []) (h : NobodyArrived s) : settleEffects s = freeFrames s := by
  unfold settleEffects
  rw [he, List.foldl_nil, sweepEffects_idle he, settleGroups_idle h]

theorem settleOps_idle {s : State} {vc : Nat} (h : (core s vc).ops = []) : settleOps s vc = s := by
  unfold settleOps
  rw [h]; rfl

/-! Where the thread stands -/

/-- A look-up of a thread depends on the threads alone. -/
theorem thread?_congr {s t : State} (h : t.threads = s.threads) (uid : Nat) : thread? t uid = thread? s uid := by
  unfold thread?; rw [h]

/-- A look-up by number finds a thread that is kept as it is, whatever becomes of the others. -/
theorem find?_filter_map {p : Thread → Bool} {f : Thread → Thread} {uid : Nat} {v : Thread} (hf : ∀ t, (f t).uid = t.uid) (hp : p v = true) (hv : f v = v) :
    ∀ l : List Thread, l.find? (fun t => t.uid == uid) = some v → ((l.filter p).map f).find? (fun t => t.uid == uid) = some v
  | t :: l, h => by
    rw [List.find?_cons] at h
    split at h
    case h_1 ht =>
      cases h
      rw [List.filter_cons_of_pos hp, List.map_cons, List.find?_cons, hv, ht]
    case h_2 ht =>
      have ih := find?_filter_map hf hp hv l h
      rw [List.filter_cons]
      split
      · rw [List.map_cons, List.find?_cons, hf, ht]
        exact ih
      · exact ih

/-- Frames of exited threads leave the pool; a thread that has not exited stays as it is. -/
theorem thread?_freeFrames {s : State} {uid : Nat} {v : Thread} (h : thread? s uid = some v) (hv : v.st ≠ .exited) : thread? (freeFrames s) uid = some v := by
  refine find?_filter_map (fun t => ?_) ?_ ?_ s.threads h
  · split <;> rfl
  · simp [hv]
  · simp [hv]

/-- The thread stands at `p` as a commit with these live-outs left it: it waits there, or is to be given an entry, or its segment has failed. -/
def StandsAt (s : State) (uid : Nat) (w : Thread) (p : SegPtr) : Prop :=
  ∃ v, thread? s uid = some v ∧ v.slots = w.slots ∧ v.xs = w.xs ∧ v.ptr = p ∧ v.seq = w.seq ∧ v.inst = none ∧
    (v.st = .waiting ∨ v.st = .unassigned ∨ v.st = .parked)

/-- What a thread keeps when its bit is to be set (R132): all but its state; its commit is over. -/
def PutsToWait (f : Thread → Thread) : Prop := ∀ v, (f v).uid = v.uid ∧ (f v).slots = v.slots ∧ (f v).xs = v.xs ∧ (f v).ptr = v.ptr ∧ (f v).seq = v.seq ∧
  (f v).inst = none ∧ ((f v).st = .waiting ∨ (f v).st = .unassigned ∨ (f v).st = .parked)

/-- The hub, the effects and the groups stand as before. -/
def RestKept (s t : State) : Prop := t.hub = s.hub ∧ t.effects = s.effects ∧ t.groups = s.groups

theorem RestKept.refl (s : State) : RestKept s s := ⟨rfl, rfl, rfl⟩

theorem RestKept.trans {s t u : State} (h : RestKept s t) (k : RestKept t u) : RestKept s u := by
  obtain ⟨hhub, heffects, hgroups⟩ := h
  obtain ⟨khub, keffects, kgroups⟩ := k
  exact ⟨khub.trans hhub, keffects.trans heffects, kgroups.trans hgroups⟩

theorem NotesOnly.rest {s t : State} (h : NotesOnly s t) : RestKept s t := by
  obtain ⟨-, heffects, hgroups, hhub, -⟩ := h
  exact ⟨hhub, heffects, hgroups⟩

theorem joinEntry_puts (s : State) (t : Thread) (idx : Nat) :
    ∃ f, (joinEntry s t idx).threads = (modThread s t.uid f).threads ∧ PutsToWait f ∧ RestKept s (joinEntry s t idx) := by
  unfold joinEntry
  exact ⟨_, (startFetch_notesOnly _ _ _ _ _).1, fun v => ⟨rfl, rfl, rfl, rfl, rfl, rfl, .inl rfl⟩, (startFetch_notesOnly _ _ _ _ _).rest⟩

theorem setWaiting_puts (s : State) (uid : Nat) :
    (setWaiting s uid = s ∧ thread? s uid = none) ∨
    ∃ f, (setWaiting s uid).threads = (modThread s uid f).threads ∧ PutsToWait f ∧ RestKept s (setWaiting s uid) := by
  unfold setWaiting
  split
  case h_1 hnone => exact .inl ⟨rfl, hnone⟩
  case h_2 t ht =>
    right
    have huid : t.uid = uid := by simpa using List.find?_some ht
    subst huid
    dsimp only
    split
    · exact ⟨_, rfl, fun v => ⟨rfl, rfl, rfl, rfl, rfl, rfl, .inr (.inr rfl)⟩, .refl s⟩
    · split
      · split
        · exact joinEntry_puts _ t _
        · exact joinEntry_puts s t _
      · split
        · exact ⟨_, rfl, fun v => ⟨rfl, rfl, rfl, rfl, rfl, rfl, .inr (.inl rfl)⟩, .refl s⟩
        · exact joinEntry_puts _ t _

/-- A thread that is put to wait, whoever it is, leaves every other where it stands. -/
theorem StandsAt.setWaiting {s : State} {uid : Nat} {w : Thread} {p : SegPtr} (h : StandsAt s uid w p) (k : Nat) : StandsAt (setWaiting s k) uid w p := by
  rcases setWaiting_puts s k with ⟨hs, -⟩ | ⟨f, hthreads, hf, -⟩
  · rw [hs]; exact h
  · obtain ⟨v, hv, hslots, hxs, hptr, hseq, hinst, hst⟩ := h
    have hfind := thread?_congr hthreads uid
    by_cases hk : uid = k
    · subst hk
      obtain ⟨-, fslots, fxs, fptr, fseq, finst, fst⟩ := hf v
      rw [thread_modThread_same s uid f fun t => (hf t).1, hv] at hfind
      exact ⟨f v, hfind, fslots.trans hslots, fxs.trans hxs, fptr.trans hptr, fseq.trans hseq, finst, fst⟩
    · rw [thread_modThread_other s f (fun t => (hf t).1) hk, hv] at hfind
      exact ⟨v, hfind, hslots, hxs, hptr, hseq, hinst, hst⟩

theorem setWaiting_rest (s : State) (k : Nat) : RestKept s (setWaiting s k) := by
  rcases setWaiting_puts s k with ⟨hs, -⟩ | ⟨_, _, _, h⟩
  · rw [hs]; exact .refl s
  · exact h

/-- Giving out free entries puts threads to wait, and nothing else (R132). -/
theorem settleEntries_keeps {P : State → Prop} (hcore : ∀ s vc (f : Core → Core), P s → P (modCore s vc f)) (hwait : ∀ s k, P s → P (setWaiting s k))
    (s : State) (vc : Nat) (h : P s) : P (settleEntries s vc) := by
  unfold settleEntries
  refine List.foldlRecOn (motive := P) _ _ (hcore _ _ _ h) fun t ht _ _ => ?_
  unfold giveEntry
  dsimp only
  split
  · exact ht
  · exact List.foldlRecOn (motive := P) _ _ ht fun t ht _ _ => hwait _ _ ht

/-- The thread of a finished move, with nothing left to wait for, stands at its successor. -/
theorem moveIfOver_stands {s : State} {uid : Nat} {v : Thread} {p : SegPtr} {y : Bool} (h : thread? s uid = some v) (hst : v.st = .moving)
    (hres : v.resident = true) (hwait : v.wait = some ⟨some p, y, []⟩) :
    StandsAt (moveIfOver s uid) uid v p ∧ RestKept s (moveIfOver s uid) := by
  have hmove : moveIfOver s uid = setWaiting (modThread s uid fun t => { t with ptr := p, wait := none, owesYield := y }) uid := by
    unfold moveIfOver finishMove
    simp [h, hst, hres, hwait]
  rw [hmove]
  have hthread : thread? (modThread s uid fun t => { t with ptr := p, wait := none, owesYield := y }) uid =
      some { v with ptr := p, wait := none, owesYield := y } :=
    (thread_modThread_same s uid (fun t => { t with ptr := p, wait := none, owesYield := y }) fun _ => rfl).trans (congrArg _ h)
  rcases setWaiting_puts (modThread s uid fun t => { t with ptr := p, wait := none, owesYield := y }) uid with ⟨-, hnone⟩ | ⟨f, hthreads, hf, hrest⟩
  · rw [hthread] at hnone; cases hnone
  · obtain ⟨-, fslots, fxs, fptr, fseq, finst, fst⟩ := hf { v with ptr := p, wait := none, owesYield := y }
    have hfind := thread?_congr hthreads uid
    rw [thread_modThread_same _ uid f fun t => (hf t).1, hthread] at hfind
    exact ⟨⟨_, hfind, fslots, fxs, fptr, fseq, finst, fst⟩, hrest⟩

/-- The end of a commit that has nothing to wait for and finds nothing pending: the thread stands at its successor. -/
theorem endCommit_idle {b : State} {x : Site} {v : Thread} {p : SegPtr} {y : Bool} (heff : b.effects = []) (hgroups : NobodyArrived b)
    (hops : (core b x.t.vc).ops = []) (hv : thread? b x.t.uid = some v) (hst : v.st = .moving) (hres : v.resident = true)
    (hwait : v.wait = some ⟨some p, y, []⟩) : StandsAt (endCommit b x []) x.t.uid v p ∧ RestKept b (endCommit b x []) := by
  have hfree : thread? (freeFrames b) x.t.uid = some v := thread?_freeFrames hv (by simp [hst])
  have hsettled : settleGroup (testNow (settleOps (settleEffects b) x.t.vc) x.t.uid []) x.t.grid x.t.gidx = freeFrames b := by
    rw [settleEffects_idle heff hgroups, settleOps_idle (s := freeFrames b) hops]
    exact settleGroup_idle (s := freeFrames b) hgroups _ _
  obtain ⟨hstands, hrest⟩ := moveIfOver_stands hfree hst hres hwait
  unfold endCommit
  rw [hsettled]
  refine ⟨settleEntries_keeps (P := fun s => StandsAt s x.t.uid v p) (fun _ _ _ h => h) (fun _ k h => h.setWaiting k) _ _ hstands, ?_⟩
  exact settleEntries_keeps (P := RestKept b) (fun _ _ _ h => h) (fun s k h => h.trans (setWaiting_rest s k)) _ _ hrest

/-- R151, R160, R199: a commit whose words have no effect of their own moves its thread to its successor with the live-outs in its slots. -/
theorem commitInst_plain {s : State} {x : Site} {u : Succ} {recs : List (Nat × Option (BitVec 512))} {p : SegPtr} {w : Thread} (hp : u.ptr = some p)
    (hplain : ∀ v ∈ x.ws, ∀ i, v = some i → plainAtCommit i = true) (hord : ∀ j v q, wordAt? x j = some (v, q) → q.ordinal = false)
    (hw : thread? s x.t.uid = some w) (hres : w.resident = true) (heff : s.effects = []) (hops : (core s x.t.vc).ops = []) (hgroups : NobodyArrived s) :
    StandsAt (commitInst s x u recs) x.t.uid { commitSlots s x u w with seq := w.seq + 1 } p ∧ RestKept s (commitInst s x u recs) := by
  have hnotes := committing_notesOnly s x u
  obtain ⟨-, -, -, -, hseq, -, hresident⟩ := (commitSlots_slotsOnly s x u w).keeps
  have ha : thread? (committing s x u) x.t.uid = some (commitSlots s x u w) := by
    rw [thread?_congr hnotes.1, thread_modThread_same s _ _ fun t => (commitSlots_slotsOnly s x u t).keeps.1, hw]
    rfl
  have hpassed : passed (committing s x u) x recs = (committing s x u, []) := by
    unfold passed
    rw [passOrdinals_plain _ recs hord]
    dsimp only
    rw [passOthers_plain hplain]
    rfl
  obtain ⟨hhub, heffects, hgrps⟩ := hnotes.rest
  obtain ⟨-, -, -, -, hcores⟩ := hnotes
  obtain ⟨-, -, hcoreOps⟩ := hcores x.t.vc
  rw [commitInst_eq, hpassed]
  dsimp only
  have hb : thread? (beginMove (committing s x u) x u (instYields x u && !succHasEntry s x u) []) x.t.uid = some { commitSlots s x u w with
      st := .moving, seq := (commitSlots s x u w).seq + 1, inst := none, wait := some ⟨u.ptr, instYields x u && !succHasEntry s x u, []⟩ } :=
    (thread_modThread_same (committing s x u) x.t.uid (fun t => { t with
      st := .moving, seq := t.seq + 1, inst := none, wait := some ⟨u.ptr, instYields x u && !succHasEntry s x u, []⟩ }) fun _ => rfl).trans
      (congrArg _ ha)
  rw [hp] at hb
  obtain ⟨hstands, hrest⟩ := endCommit_idle (b := beginMove (committing s x u) x u (instYields x u && !succHasEntry s x u) [])
    (heffects.trans heff) (fun g hg => hgroups g (hgrps ▸ hg)) (hcoreOps.trans hops) hb rfl (hresident.trans hres) rfl
  refine ⟨?_, RestKept.trans ⟨hhub, heffects, hgrps⟩ hrest⟩
  rw [hseq] at hstands
  exact hstands

theorem commitLandsLiveOuts : CommitLandsLiveOuts := by
  intro s s1 vc frame x l u hreached hpoison htrap hsucc hengine hlack uid
  have hexec := exec_threadCommit_commits hreached hpoison htrap hsucc hengine hlack
  obtain ⟨hthreads, heffects, hgroups, hhub, hcores⟩ := committing_notesOnly s1 x u
  refine ⟨⟨committing s1 x u, beginMove (passed (committing s1 x u) x l.recs).1 x u (instYields x u && !succHasEntry s1 x u)
    (passed (committing s1 x u) x l.recs).2, instYields x u && !succHasEntry s1 x u, hthreads, heffects, hgroups, hhub, hcores, rfl,
    hexec.trans (congrArg _ (commitInst_eq s1 x u l.recs))⟩, ?_⟩
  intro p w hp _ hplain hord hw hres heff hops hgroups
  obtain ⟨⟨v, hv, hslots, hxs, hptr, hseq, hinst, hst⟩, hhub, heffects, hgrps⟩ := commitInst_plain (recs := l.recs) hp hplain hord hw hres heff hops hgroups
  obtain ⟨-, -, hkeeps, -⟩ := (commitSlots_slotsOnly s1 x u w).keeps
  exact ⟨_, v, hexec, hv, hslots, hxs.trans hkeeps, hptr, hseq, hinst, hst, hhub, heffects.trans heff, hgrps⟩

/-- Settles O34: each slot after a commit, the commit's own next state, and each token for itself. -/
theorem liveOutsLand : Obligations.LiveOutsLand := by
  refine ⟨slotsAfterCommit, commitLandsLiveOuts, fun t n wide tok hn hw => ?_, fun s x t g hg hl => ?_⟩
  · obtain ⟨-, -, hxs, hptr, -, hst, -⟩ := (wrTok_slotsOnly t n wide tok).keeps
    obtain ⟨hlands, hother⟩ := wrTok_lands t n wide tok hn hw
    refine ⟨fun h => h ▸ rfl, fun b h => ?_, fun o h => ?_, hother, hxs, hptr, hst⟩
    · subst h; exact hlands Tok.noConfusion
    · subst h; exact hlands Tok.noConfusion
  · refine ⟨fun hb => ?_, fun hb => ⟨?_, fun k hk => ?_⟩⟩
    · unfold writeConds
      simp only [hg, Option.map_some, Option.getD_some, hb, Bool.not_false, if_true]
    · exact (writeConds_slot s x t g _ hg hl (Nat.mod_lt _ (by decide))).trans (if_pos ⟨hb, rfl⟩)
    · by_cases hk64 : k < 64
      · exact (writeConds_slot s x t g k hg hl hk64).trans (if_neg fun h => hk h.2)
      · rw [List.getD_eq_default _ _ (by have := (writeConds_slotsOnly s x t).2; omega), List.getD_eq_default _ _ (by omega)]

end Sys2Proof.Machine
end

section
/-! PROOFS (numbers). The layer of facts about formats, values and rounding (R28 to R43) that the statements about numbers rest on: fields of an
encoding, the integer that a mode selects, the steps to which a magnitude is rounded, and the encoding that holds them. -/
namespace Sys2Proof.Machine

/-! Formats -/

/-- What every format of R28 keeps: two exponent bits and one fraction bit at least. -/
structure FFmt.Good (f : FFmt) : Prop where
  w_ge : 2 ≤ f.w
  m_ge : 1 ≤ f.m

theorem ffmt_good (code : Nat) : (ffmt code).Good := by
  unfold ffmt
  split <;> exact ⟨by decide, by decide⟩

section
variable {f : FFmt} (hf : f.Good)
include hf

theorem FFmt.Good.two_pow_w : 2 ^ f.w = 2 * f.bias + 2 := by
  have hw := hf.w_ge
  obtain ⟨k, hk⟩ : ∃ k, f.w = k + 1 := ⟨f.w - 1, by omega⟩
  have hpos : 0 < 2 ^ k := Nat.two_pow_pos k
  simp only [FFmt.bias, hk, Nat.add_sub_cancel, pow_succ]
  omega

theorem FFmt.Good.bias_pos : 1 ≤ f.bias := by
  have hw := hf.w_ge
  have hp : 2 ^ 2 ≤ 2 ^ f.w := Nat.pow_le_pow_right (by decide) hw
  have := hf.two_pow_w
  omega

theorem FFmt.Good.emax_eq : f.emax = f.bias + if f.infs then 0 else 1 := by
  have hw := hf.two_pow_w
  unfold FFmt.emax
  cases f.infs
  · simp only [Bool.false_eq_true, if_false, hw]; omega
  · simp

end

/-! Fields of an encoding (R28, R29) -/

/-- The encoding with these fields. -/
def assemble (f : FFmt) (s : Bool) (ex fr : Nat) : Nat := s.toNat * 2 ^ (f.w + f.m) + (ex * 2 ^ f.m + fr)

section
variable {f : FFmt} {s : Bool} {ex fr : Nat} (hex : ex < 2 ^ f.w) (hfr : fr < 2 ^ f.m)
include hex hfr

theorem assemble_low_lt : ex * 2 ^ f.m + fr < 2 ^ (f.w + f.m) := by
  calc ex * 2 ^ f.m + fr < ex * 2 ^ f.m + 2 ^ f.m := by omega
    _ = (ex + 1) * 2 ^ f.m := by ring
    _ ≤ 2 ^ f.w * 2 ^ f.m := Nat.mul_le_mul_right _ hex
    _ = 2 ^ (f.w + f.m) := (pow_add ..).symm

theorem assemble_lt : assemble f s ex fr < 2 ^ f.width := by
  have h := assemble_low_lt hex hfr
  have hs : s.toNat ≤ 1 := Bool.toNat_le s
  have hw : 2 ^ f.width = 2 * 2 ^ (f.w + f.m) := by rw [FFmt.width, Nat.add_assoc, pow_add, pow_one]
  have : s.toNat * 2 ^ (f.w + f.m) ≤ 1 * 2 ^ (f.w + f.m) := Nat.mul_le_mul_right _ hs
  unfold assemble
  omega

theorem bit_assemble : bit (assemble f s ex fr) (f.w + f.m) = s := by
  have hdiv : assemble f s ex fr / 2 ^ (f.w + f.m) = s.toNat := by
    rw [assemble, Nat.add_comm, Nat.add_mul_div_right _ _ (Nat.two_pow_pos _), Nat.div_eq_of_lt (assemble_low_lt hex hfr), Nat.zero_add]
  rw [bit, Nat.testBit_eq_decide_div_mod_eq, hdiv]
  cases s <;> rfl

theorem bits_assemble_exp : bits (assemble f s ex fr) f.m f.w = ex := by
  have hdiv : assemble f s ex fr / 2 ^ f.m = s.toNat * 2 ^ f.w + ex := by
    have : assemble f s ex fr = fr + (s.toNat * 2 ^ f.w + ex) * 2 ^ f.m := by unfold assemble; rw [pow_add]; ring
    rw [this, Nat.add_mul_div_right _ _ (Nat.two_pow_pos _), Nat.div_eq_of_lt hfr, Nat.zero_add]
  rw [bits, Nat.shiftRight_eq_div_pow, hdiv, Nat.mul_add_mod_self_right, Nat.mod_eq_of_lt hex]

omit hex in
theorem bits_assemble_frac : bits (assemble f s ex fr) 0 f.m = fr := by
  have : assemble f s ex fr = (s.toNat * 2 ^ f.w + ex) * 2 ^ f.m + fr := by unfold assemble; rw [pow_add]; ring
  rw [bits, Nat.shiftRight_zero, this, Nat.mul_add_mod_self_right, Nat.mod_eq_of_lt hfr]

/-- R29: the value by its fields. -/
theorem decodeF_assemble : decodeF f (assemble f s ex fr) =
    if f.infs && ex == 2 ^ f.w - 1 then (if fr == 0 then .inf s else .nan (!bit fr (f.m - 1)))
    else if !f.infs && f.nans && ex == 2 ^ f.w - 1 && fr == 2 ^ f.m - 1 then .nan false
    else if ex == 0 then .fin s fr (f.emin - f.m)
    else .fin s (2 ^ f.m + fr) ((ex : Int) - f.bias - f.m) := by
  rw [decodeF, bit_assemble hex hfr, bits_assemble_exp hex hfr, bits_assemble_frac hfr]

end

/-- Every encoding is put together from its fields. -/
theorem exists_assemble {f : FFmt} {v : Nat} (h : v < 2 ^ f.width) : ∃ s ex fr, ex < 2 ^ f.w ∧ fr < 2 ^ f.m ∧ v = assemble f s ex fr := by
  have hw : 2 ^ f.width = 2 * 2 ^ (f.w + f.m) := by rw [FFmt.width, Nat.add_assoc, pow_add, pow_one]
  refine ⟨decide (2 ^ (f.w + f.m) ≤ v), v % 2 ^ (f.w + f.m) / 2 ^ f.m, v % 2 ^ f.m, ?_, Nat.mod_lt _ (Nat.two_pow_pos _), ?_⟩
  · rw [Nat.div_lt_iff_lt_mul (Nat.two_pow_pos _), ← pow_add]
    exact Nat.mod_lt _ (Nat.two_pow_pos _)
  · have hlow : v % 2 ^ (f.w + f.m) / 2 ^ f.m * 2 ^ f.m + v % 2 ^ f.m = v % 2 ^ (f.w + f.m) := by
      have hmod : v % 2 ^ f.m = v % 2 ^ (f.w + f.m) % 2 ^ f.m := (Nat.mod_mod_of_dvd v (pow_dvd_pow 2 (Nat.le_add_left _ _))).symm
      rw [hmod, Nat.div_add_mod']
    unfold assemble
    rw [hlow]
    by_cases hv : 2 ^ (f.w + f.m) ≤ v
    · rw [decide_eq_true hv, Bool.toNat_true, Nat.mod_eq_sub_mod hv, Nat.mod_eq_of_lt (by omega)]; omega
    · rw [decide_eq_false hv, Bool.toNat_false, Nat.mod_eq_of_lt (by omega)]; omega

/-! Canonical magnitudes: a significand with the unit that the format gives it -/

/-- R37: `n` units of 2^u are a subnormal or a normal magnitude of the format, its range above left open. -/
def Canonical (f : FFmt) (n : Nat) (u : Int) : Prop := n < 2 ^ (f.m + 1) ∧ f.emin - f.m ≤ u ∧ (n < 2 ^ f.m → u = f.emin - f.m)

/-- The encoding of a magnitude, by its fields. -/
theorem encodeF_eq (f : FFmt) (s : Bool) (n : Nat) (u : Int) :
    encodeF f s n u = if n < 2 ^ f.m then assemble f s 0 n else assemble f s (u + f.m + f.bias).toNat (n - 2 ^ f.m) := by
  unfold encodeF assemble
  split
  · rw [Nat.zero_mul, Nat.zero_add]
  · rfl

theorem encodeF_zero (f : FFmt) (s : Bool) (u : Int) : encodeF f s 0 u = s.toNat * 2 ^ (f.w + f.m) := by
  rw [encodeF, if_pos (Nat.two_pow_pos _), Nat.add_zero]

/-- A canonical magnitude is in range: its unit is at most that of the greatest finite value, and where it is that unit so is the significand. -/
theorem tooLarge_eq_false_iff {f : FFmt} {n : Nat} {u : Int} (h0 : n ≠ 0) :
    tooLarge f n u = false ↔ u ≤ f.emax - f.m ∧ (u = f.emax - f.m → n ≤ f.maxSig) := by
  unfold tooLarge
  simp only [bne_iff_ne.mpr h0, Bool.true_and, Bool.or_eq_false_iff, decide_eq_false_iff_not, Int.not_lt, Bool.and_eq_false_iff, beq_eq_false_iff_ne,
    Nat.not_lt]
  exact and_congr_right fun _ => or_iff_not_imp_left.trans (by simp)

theorem tooLarge_zero (f : FFmt) (u : Int) : tooLarge f 0 u = false := rfl

section
variable {f : FFmt} (hf : f.Good)
include hf

/-- The fields of a canonical magnitude in range name a number. -/
theorem decodeF_encodeF {n : Nat} {u : Int} (s : Bool) (hc : Canonical f n u) (hr : tooLarge f n u = false) : decodeF f (encodeF f s n u) = .fin s n u := by
  obtain ⟨hn, hu, hsub⟩ := hc
  have hw := hf.two_pow_w
  have hb := hf.bias_pos
  have hemin : f.emin = 1 - (f.bias : Int) := rfl
  have hm1 : 2 ^ (f.m + 1) = 2 * 2 ^ f.m := by rw [pow_succ, Nat.mul_comm]
  have hmpos : 2 ≤ 2 ^ f.m := Nat.pow_le_pow_right (n := 2) (by decide) hf.m_ge
  rw [encodeF_eq]
  split
  case isTrue hlt =>
    have h0 : ¬ 0 = 2 ^ f.w - 1 := by omega
    rw [decodeF_assemble (Nat.two_pow_pos _) hlt, hsub hlt]
    simp [h0]
  case isFalse hge =>
    have hn0 : n ≠ 0 := by omega
    obtain ⟨hle, hmax⟩ := (tooLarge_eq_false_iff hn0).mp hr
    have hemax := hf.emax_eq
    have hex : (u + f.m + f.bias).toNat < 2 ^ f.w := by
      cases hi : f.infs <;> simp only [hi] at hemax <;> simp at hemax <;> omega
    rw [decodeF_assemble hex (by omega)]
    have hex0 : (u + f.m + f.bias).toNat ≠ 0 := by omega
    have hinf : (f.infs && (u + f.m + f.bias).toNat == 2 ^ f.w - 1) = false := by
      cases hi : f.infs
      · rfl
      · simp only [hi] at hemax
        simp at hemax
        simp
        omega
    have hnan : (!f.infs && f.nans && (u + f.m + f.bias).toNat == 2 ^ f.w - 1 && n - 2 ^ f.m == 2 ^ f.m - 1) = false := by
      rw [Bool.eq_false_iff]
      intro h
      simp only [Bool.and_eq_true, beq_iff_eq] at h
      obtain ⟨⟨⟨hi, hnans⟩, hexp⟩, hfrac⟩ := h
      have hmaxSig : f.maxSig = 2 ^ (f.m + 1) - 2 := by simp [FFmt.maxSig, hi, hnans]
      simp only [Bool.not_eq_true'] at hi
      simp only [hi] at hemax
      simp at hemax
      have := hmax (by omega)
      omega
    rw [hinf, hnan, if_neg Bool.false_ne_true, if_neg Bool.false_ne_true, if_neg (by simpa using hex0)]
    congr 1 <;> omega

end

end Sys2Proof.Machine
end

section
/-! PROOFS (rounding). The integer that a mode selects, of a shifted significand, of a quotient and of a value (R36, R37, R41). -/
namespace Sys2Proof.Machine

/-! What is left over -/

/-- What a fraction part is against a half: 0 nothing, 1 below, 2 the half, 3 above. -/
def restCode (t : ℚ) : Nat := if t = 0 then 0 else if t < 1 / 2 then 1 else if t = 1 / 2 then 2 else 3

/-- What `shiftLeft` and `roundQuot` say of a division is what is left of the quotient's fraction part. -/
theorem restCode_div (n : Nat) {d : Nat} (hd : 0 < d) :
    restCode ((n : ℚ) / d - (n / d : Nat)) = if n % d = 0 then 0 else if 2 * (n % d) < d then 1 else if 2 * (n % d) = d then 2 else 3 := by
  have hd' : (0 : ℚ) < d := by exact_mod_cast hd
  have hfrac : (n : ℚ) / d - (n / d : Nat) = (n % d : Nat) / d := by
    rw [sub_eq_iff_eq_add, div_add' _ _ _ hd'.ne', div_left_inj' hd'.ne']
    exact_mod_cast (Nat.mod_add_div' n d).symm
  have h0 : ((n % d : Nat) : ℚ) / d = 0 ↔ n % d = 0 := by rw [div_eq_zero_iff, or_iff_left hd'.ne', Nat.cast_eq_zero]
  have h1 : ((n % d : Nat) : ℚ) / d < 1 / 2 ↔ 2 * (n % d) < d := by
    rw [div_lt_div_iff₀ hd' two_pos, one_mul, mul_comm]; exact_mod_cast Iff.rfl
  have h2 : ((n % d : Nat) : ℚ) / d = 1 / 2 ↔ 2 * (n % d) = d := by
    rw [div_eq_div_iff hd'.ne' two_ne_zero, one_mul, mul_comm]; exact_mod_cast Iff.rfl
  rw [restCode, hfrac]
  simp only [h0, h1, h2]

/-- `shiftLeft` gives the whole part of n × 2^k and what is left over. -/
theorem shiftLeft_eq (n : Nat) (k : Int) :
    shiftLeft n k = (⌊(n : ℚ) * 2 ^ k⌋₊, restCode ((n : ℚ) * 2 ^ k - ⌊(n : ℚ) * 2 ^ k⌋₊)) := by
  unfold shiftLeft
  by_cases hk : 0 ≤ k
  · obtain ⟨j, rfl⟩ := Int.eq_ofNat_of_zero_le hk
    have hx : (n : ℚ) * 2 ^ (j : Int) = ((n * 2 ^ j : Nat) : ℚ) := by rw [zpow_natCast]; push_cast; rfl
    rw [if_pos hk, hx, Nat.floor_natCast, sub_self, Int.toNat_natCast, Nat.shiftLeft_eq]
    rfl
  · obtain ⟨j, rfl⟩ : ∃ j : Nat, k = -((j + 1 : Nat) : Int) := ⟨(-k).toNat - 1, by omega⟩
    have hx : (n : ℚ) * 2 ^ (-((j + 1 : Nat) : Int)) = (n : ℚ) / (2 ^ (j + 1) : Nat) := by
      rw [zpow_neg, zpow_natCast, div_eq_mul_inv]; push_cast; rfl
    rw [if_neg hk, hx, Nat.floor_div_eq_div, restCode_div n (Nat.two_pow_pos _)]
    have hmod : n - n / 2 ^ (j + 1) * 2 ^ (j + 1) = n % 2 ^ (j + 1) := by rw [Nat.mul_comm]; exact (Nat.mod_eq_sub_mul_div ..).symm
    have hhalf : 2 ^ (j + 1) = 2 * 2 ^ j := by rw [pow_succ, Nat.mul_comm]
    simp only [neg_neg, Int.toNat_natCast, Nat.add_sub_cancel, Nat.shiftRight_eq_div_pow, Nat.shiftLeft_eq, hmod, beq_iff_eq]
    simp only [hhalf, Nat.mul_lt_mul_left two_pos, Nat.mul_right_inj two_ne_zero]

/-! The integer that a mode selects -/

/-- The integer to which RoundInt takes a magnitude (R36, R37). -/
def roundNat (mode : Nat) (s : Bool) (x : ℚ) : Nat := roundInt mode s ⌊x⌋₊ (restCode (x - ⌊x⌋₊))

theorem roundInt_shiftLeft (mode : Nat) (s : Bool) (n : Nat) (k : Int) :
    roundInt mode s (shiftLeft n k).1 (shiftLeft n k).2 = roundNat mode s ((n : ℚ) * 2 ^ k) := by
  rw [shiftLeft_eq]; rfl

theorem restCode_eq_zero {t : ℚ} : restCode t = 0 ↔ t = 0 := by
  unfold restCode; split_ifs <;> simp [*]

/-- A mode rounds a magnitude down or up by one. -/
theorem roundNat_bounds (mode : Nat) (s : Bool) (x : ℚ) : ⌊x⌋₊ ≤ roundNat mode s x ∧ roundNat mode s x ≤ ⌊x⌋₊ + 1 := by
  unfold roundNat roundInt
  split
  case h_2 => omega
  all_goals split <;> omega

/-- A whole magnitude stays, in every mode. -/
theorem roundNat_natCast (mode : Nat) (s : Bool) (n : Nat) : roundNat mode s n = n := by
  have h0 : restCode 0 = 0 := if_pos rfl
  rw [roundNat, Nat.floor_natCast, sub_self, h0]
  unfold roundInt
  split <;> rfl

theorem floor_sub_bounds {x : ℚ} (hx : 0 ≤ x) : 0 ≤ x - ⌊x⌋₊ ∧ x - ⌊x⌋₊ < 1 :=
  ⟨sub_nonneg.mpr (Nat.floor_le hx), by linarith [Nat.lt_floor_add_one x]⟩

/-- To nearest, ties to even. -/
theorem roundNat_nearest (s : Bool) {x : ℚ} (hx : 0 ≤ x) :
    |x - roundNat 0 s x| ≤ 1 / 2 ∧ (|x - roundNat 0 s x| = 1 / 2 → roundNat 0 s x % 2 = 0) := by
  obtain ⟨hlo, hhi⟩ := floor_sub_bounds hx
  have hval : roundNat 0 s x = if 1 / 2 < x - ⌊x⌋₊ ∨ (x - ⌊x⌋₊ = 1 / 2 ∧ ⌊x⌋₊ % 2 = 1) then ⌊x⌋₊ + 1 else ⌊x⌋₊ := by
    unfold roundNat roundInt restCode
    rcases lt_trichotomy (x - ⌊x⌋₊) (1 / 2) with h | h | h
    · by_cases h0 : x - ⌊x⌋₊ = 0
      · norm_num [h0]
      · simp [h0, h, h.ne, h.not_gt, -one_div]
    · simp [h]
    · have h0 : x - ⌊x⌋₊ ≠ 0 := by linarith
      simp [h0, h, h.ne', h.not_gt, -one_div]
  rw [hval]
  split
  case isTrue h =>
    have habs : |x - ((⌊x⌋₊ + 1 : Nat) : ℚ)| = 1 - (x - ⌊x⌋₊) := by rw [abs_of_nonpos (by push_cast; linarith)]; push_cast; ring
    rw [habs]
    rcases h with h | ⟨h, hodd⟩
    · exact ⟨by linarith, fun he => by linarith⟩
    · exact ⟨by linarith, fun _ => by omega⟩
  case isFalse h =>
    rw [abs_of_nonneg hlo]
    push Not at h
    exact ⟨h.1, fun he => by have := h.2 he; omega⟩

theorem roundNat_truncate (s : Bool) (x : ℚ) : roundNat 1 s x = ⌊x⌋₊ := rfl

/-- Away from zero, where the mode points away for this sign; toward zero, where it does not. -/
theorem roundNat_directed {mode : Nat} (s : Bool) {x : ℚ} (hx : 0 ≤ x) (hm : mode = 2 ∨ mode = 3) :
    (roundNat mode s x : ℤ) = if (mode = 2 ∧ s = false) ∨ (mode = 3 ∧ s = true) then ⌈x⌉ else ⌊x⌋ := by
  have hfloor : ((⌊x⌋₊ : Nat) : ℤ) = ⌊x⌋ := Int.natCast_floor_eq_floor hx
  have hceil : ⌈x⌉ = if restCode (x - ⌊x⌋₊) = 0 then (⌊x⌋₊ : ℤ) else ⌊x⌋₊ + 1 := by
    obtain ⟨hlo, hhi⟩ := floor_sub_bounds hx
    split
    case isTrue h =>
      have hxq : x = ⌊x⌋₊ := sub_eq_zero.mp (restCode_eq_zero.mp h)
      conv_lhs => rw [hxq]
      exact Int.ceil_natCast _
    case isFalse h =>
      have hne : x - ⌊x⌋₊ ≠ 0 := fun h0 => h (restCode_eq_zero.mpr h0)
      have hpos : 0 < x - ⌊x⌋₊ := lt_of_le_of_ne hlo hne.symm
      rw [Int.ceil_eq_iff]
      push_cast
      exact ⟨by linarith, by linarith⟩
  rw [hceil, ← hfloor]
  unfold roundNat roundInt
  rcases hm with rfl | rfl <;> cases s <;> by_cases h0 : restCode (x - ⌊x⌋₊) = 0 <;> simp [h0]

/-- R36: RoundInt gives the integer of the mode. -/
theorem roundNat_spec {mode : Nat} (hm : mode ≤ 3) (s : Bool) {x : ℚ} (hx : 0 ≤ x) :
    IntegerOf mode (if s then -x else x) (if s then -(roundNat mode s x : ℤ) else roundNat mode s x) := by
  have habs : ∀ n : Nat, |(if s then -x else x) - ((if s then -(n : ℤ) else n : ℤ) : ℚ)| = |x - n| := fun n => by
    cases s
    · simp
    · simp only [if_true]; push_cast; rw [← abs_neg]; congr 1; ring
  refine ⟨fun h => ?_, fun h => ?_, fun h => ?_, fun h => ?_⟩
  · subst h
    obtain ⟨hle, htie⟩ := roundNat_nearest s hx
    rw [habs]
    refine ⟨hle, fun he => ?_⟩
    have := htie he
    cases s
    · simp only [Bool.false_eq_true, if_false]; omega
    · simp only [if_true]; omega
  · subst h
    obtain ⟨hlo, hhi⟩ := floor_sub_bounds hx
    rw [habs, roundNat_truncate, abs_of_nonneg hlo]
    have hn : (0 : ℚ) ≤ ⌊x⌋₊ := Nat.cast_nonneg _
    cases s
    · simp only [Bool.false_eq_true, if_false, Int.cast_natCast]
      exact ⟨by rw [abs_of_nonneg hn, abs_of_nonneg hx]; linarith, hhi, mul_nonneg hx hn⟩
    · simp only [if_true, Int.cast_neg, Int.cast_natCast, abs_neg, neg_mul_neg]
      exact ⟨by rw [abs_of_nonneg hn, abs_of_nonneg hx]; linarith, hhi, mul_nonneg hx hn⟩
  · subst h
    rw [roundNat_directed s hx (.inl rfl)]
    cases s <;> simp [Int.ceil_neg]
  · subst h
    rw [roundNat_directed s hx (.inr rfl)]
    cases s <;> simp [Int.floor_neg]

/-- A number that is whole is its own integer in every mode. -/
theorem integerOf_intCast (mode : Nat) (z : ℤ) : IntegerOf mode z z := by
  refine ⟨fun _ => by simp, fun _ => ⟨le_rfl, by simp, mul_self_nonneg _⟩, fun _ => (Int.ceil_intCast z).symm, fun _ => (Int.floor_intCast z).symm⟩

/-! A value to an integer (R41) -/

/-- The magnitude and the sign of a finite value. -/
theorem ratOf_fin (s : Bool) (m : Nat) (e : Int) : ratOf (.fin s m e) = if s then -((m : ℚ) * 2 ^ e) else (m : ℚ) * 2 ^ e := by
  cases s <;> simp [ratOf]

theorem magnitude_nonneg (m : Nat) (e : Int) : (0 : ℚ) ≤ m * 2 ^ e := by positivity

/-- Where a number was rounded to an integer, what was left over says whether it was one. -/
theorem restCode_floor_ne_zero (x : ℚ) (mode : Nat) (s : Bool) : restCode (x - ⌊x⌋₊) ≠ 0 ↔ x ≠ roundNat mode s x := by
  rw [not_iff_not, restCode_eq_zero, sub_eq_zero]
  refine ⟨fun h => ?_, fun h => ?_⟩
  · rw [h, roundNat_natCast]
  · rw [h, Nat.floor_natCast]

theorem roundToInt_eq (mode : Nat) (s : Bool) (m : Nat) (e : Int) :
    roundToInt mode s m e = ((if s then -(roundNat mode s (m * 2 ^ e) : ℤ) else roundNat mode s (m * 2 ^ e)),
      restCode ((m : ℚ) * 2 ^ e - ⌊(m : ℚ) * 2 ^ e⌋₊) != 0) := by
  unfold roundToInt
  rw [← roundInt_shiftLeft, shiftLeft_eq]

/-- R41: the integer of the mode, and whether the value is not it. -/
theorem roundToInt_spec {mode : Nat} (hm : mode ≤ 3) (s : Bool) (m : Nat) (e : Int) :
    IntegerOf mode (ratOf (.fin s m e)) (roundToInt mode s m e).1 ∧
    (roundToInt mode s m e).2 = !decide (ratOf (.fin s m e) = ((roundToInt mode s m e).1 : ℤ)) := by
  rw [ratOf_fin, roundToInt_eq]
  refine ⟨roundNat_spec hm s (magnitude_nonneg m e), ?_⟩
  have hiff := restCode_floor_ne_zero ((m : ℚ) * 2 ^ e) mode s
  dsimp only
  rw [Bool.eq_iff_iff, bne_iff_ne, hiff, Bool.not_eq_true', decide_eq_false_iff_not]
  cases s <;> simp

end Sys2Proof.Machine
end

section
/-! PROOFS (rounding to a format). The step of a magnitude, the significand after a carry, the range above, and the encoding that holds a rounded
magnitude (R37, R38). -/
namespace Sys2Proof.Machine

/-! Powers of two -/

theorem two_zpow_pos (k : Int) : (0 : ℚ) < 2 ^ k := zpow_pos two_pos k

theorem two_zpow_le {j k : Int} (h : j ≤ k) : (2 : ℚ) ^ j ≤ 2 ^ k := zpow_le_zpow_right₀ one_le_two h

theorem two_zpow_add (j k : Int) : (2 : ℚ) ^ (j + k) = 2 ^ j * 2 ^ k := zpow_add₀ two_ne_zero j k

theorem two_zpow_succ (k : Int) : (2 : ℚ) ^ (k + 1) = 2 * 2 ^ k := by rw [two_zpow_add, zpow_one, mul_comm]

theorem two_zpow_nat (n : Nat) : (2 : ℚ) ^ (n : Int) = ((2 ^ n : Nat) : ℚ) := by rw [zpow_natCast]; push_cast; rfl

/-- The binade of a magnitude. -/
theorem two_zpow_log2 {m : Nat} (hm : m ≠ 0) (e : Int) : (2 : ℚ) ^ ((m.log2 : Int) + e) ≤ m * 2 ^ e ∧ (m : ℚ) * 2 ^ e < 2 ^ ((m.log2 : Int) + e + 1) := by
  have hpos := two_zpow_pos e
  constructor
  · rw [two_zpow_add, two_zpow_nat]
    exact mul_le_mul_of_nonneg_right (by exact_mod_cast Nat.log2_self_le hm) hpos.le
  · have : ((m.log2 : Int) + e + 1) = ((m.log2 + 1 : Nat) : Int) + e := by push_cast; ring
    rw [this, two_zpow_add, two_zpow_nat]
    exact mul_lt_mul_of_pos_right (by exact_mod_cast Nat.lt_log2_self) hpos

/-! The step of a magnitude -/

/-- The unit of the step to which a format rounds m × 2^e (R37). -/
def stepUnit (f : FFmt) (m : Nat) (e : Int) : Int := max ((m.log2 : Int) + e) f.emin - f.m

/-- R37: 2^u is the step of a magnitude: that of its own binade, or of the least normal one. -/
def IsStep (f : FFmt) (q : ℚ) (u : Int) : Prop := f.emin - f.m ≤ u ∧ q < 2 ^ (u + f.m + 1) ∧ (u = f.emin - f.m ∨ (2 : ℚ) ^ (u + f.m) ≤ q)

theorem stepUnit_isStep (f : FFmt) {m : Nat} (hm : m ≠ 0) (e : Int) : IsStep f (m * 2 ^ e) (stepUnit f m e) := by
  obtain ⟨hlo, hhi⟩ := two_zpow_log2 hm e
  have hu : stepUnit f m e + f.m = max ((m.log2 : Int) + e) f.emin := by unfold stepUnit; omega
  refine ⟨by unfold stepUnit; omega, ?_, ?_⟩
  · rw [hu]
    exact hhi.trans_le (two_zpow_le (by omega))
  · rw [hu]
    by_cases h : (m.log2 : Int) + e ≤ f.emin
    · left; unfold stepUnit; rw [max_eq_right h]
    · right; rw [max_eq_left (by omega)]; exact hlo

/-- A canonical magnitude has its own unit for a step. -/
theorem stepUnit_canonical {f : FFmt} {n : Nat} {u : Int} (hn : n ≠ 0) (hc : Canonical f n u) : stepUnit f n u = u := by
  obtain ⟨hlt, hu, hsub⟩ := hc
  unfold stepUnit
  have hlog : n.log2 < f.m + 1 := (Nat.log2_lt hn).mpr hlt
  by_cases h : n < 2 ^ f.m
  · have := hsub h
    have : n.log2 < f.m := (Nat.log2_lt hn).mpr h
    omega
  · have : f.m ≤ n.log2 := (Nat.le_log2 hn).mpr (by omega)
    omega

/-- A magnitude counted in its steps. -/
theorem div_two_zpow (m : Nat) (e u : Int) : (m : ℚ) * 2 ^ e / 2 ^ u = m * 2 ^ (e - u) := by
  rw [zpow_sub₀ two_ne_zero, mul_div_assoc]

/-! The carry -/

/-- A significand that has come to one bit more than the format's, with its unit, in canonical form (R37). -/
def carried (f : FFmt) (n : Nat) (u : Int) : Nat × Int := if n == 2 ^ (f.m + 1) then (2 ^ f.m, u + 1) else (n, u)

theorem carried_value (f : FFmt) (n : Nat) (u : Int) : ((carried f n u).1 : ℚ) * 2 ^ (carried f n u).2 = n * 2 ^ u := by
  unfold carried
  split
  case isTrue h =>
    rw [eq_of_beq h, two_zpow_succ]
    push_cast
    rw [pow_succ]
    ring
  case isFalse => rfl

/-- A magnitude rounded to its step is canonical after the carry. -/
theorem carried_canonical {f : FFmt} {q : ℚ} {u : Int} {n : Nat} (hq : 0 ≤ q) (hu : IsStep f q u) (hlo : ⌊q / 2 ^ u⌋₊ ≤ n) (hhi : n ≤ ⌊q / 2 ^ u⌋₊ + 1) :
    Canonical f (carried f n u).1 (carried f n u).2 := by
  obtain ⟨hmin, hlt, hbin⟩ := hu
  have hpos := two_zpow_pos u
  have hfloor : ⌊q / 2 ^ u⌋₊ < 2 ^ (f.m + 1) := by
    rw [Nat.floor_lt (div_nonneg hq hpos.le), div_lt_iff₀ hpos]
    rw [show u + f.m + 1 = ((f.m + 1 : Nat) : Int) + u by push_cast; ring, two_zpow_add, two_zpow_nat] at hlt
    exact hlt
  have hm1 : 2 ^ (f.m + 1) = 2 * 2 ^ f.m := by rw [pow_succ, Nat.mul_comm]
  have hmpos : 0 < 2 ^ f.m := Nat.two_pow_pos _
  unfold carried
  split
  case isTrue => exact ⟨by dsimp only; omega, by dsimp only; omega, fun h => absurd h (lt_irrefl _)⟩
  case isFalse h =>
    have hne : n ≠ 2 ^ (f.m + 1) := by simpa using h
    refine ⟨by dsimp only; omega, hmin, fun hsub => hbin.resolve_right fun hge => ?_⟩
    rw [add_comm, two_zpow_add, two_zpow_nat, ← le_div_iff₀ hpos] at hge
    have := Nat.le_floor hge
    dsimp only at hsub
    omega

/-- `roundUnbounded` by the step, the integer that the mode selects, and the carry. -/
theorem roundUnbounded_eq (f : FFmt) (mode : Nat) (s : Bool) (m : Nat) (e : Int) :
    let u := stepUnit f m e
    let q : ℚ := m * 2 ^ e
    let n := roundNat mode s (q / 2 ^ u)
    roundUnbounded f mode s m e = ((carried f n u).1, (carried f n u).2, decide (q ≠ n * 2 ^ u)) := by
  intro u q n
  have hpos := two_zpow_pos u
  have hrest : (restCode ((m : ℚ) * 2 ^ (e - u) - ⌊(m : ℚ) * 2 ^ (e - u)⌋₊) != 0) = decide (q ≠ n * 2 ^ u) := by
    rw [Bool.eq_iff_iff, bne_iff_ne, restCode_floor_ne_zero _ mode s, decide_eq_true_iff, ← div_two_zpow, ne_eq, ne_eq, div_eq_iff hpos.ne']
  have hn : roundInt mode s (shiftLeft m (e - u)).1 (shiftLeft m (e - u)).2 = n := by rw [roundInt_shiftLeft, ← div_two_zpow]
  have hround : roundUnbounded f mode s m e =
      if roundInt mode s (shiftLeft m (e - u)).1 (shiftLeft m (e - u)).2 == 2 ^ (f.m + 1) then (2 ^ f.m, u + 1, (shiftLeft m (e - u)).2 != 0)
      else (roundInt mode s (shiftLeft m (e - u)).1 (shiftLeft m (e - u)).2, u, (shiftLeft m (e - u)).2 != 0) := rfl
  rw [hround, hn, shiftLeft_eq, hrest]
  unfold carried
  split <;> rfl

/-- R37: a magnitude is rounded to steps, and comes out canonical. -/
theorem roundUnbounded_spec (f : FFmt) {mode : Nat} (hmode : mode ≤ 3) (s : Bool) {m : Nat} (hm : m ≠ 0) (e : Int) :
    ∃ (n : Nat) (u : Int) (n' : Nat) (u' : Int), roundUnbounded f mode s m e = (n', u', decide ((m : ℚ) * 2 ^ e ≠ n * 2 ^ u)) ∧ RoundsToSteps f mode s (m * 2 ^ e) n u ∧
      Canonical f n' u' ∧ (n' : ℚ) * 2 ^ u' = n * 2 ^ u := by
  have hu := stepUnit_isStep f hm e
  have hx : (0 : ℚ) ≤ m * 2 ^ e / 2 ^ stepUnit f m e := div_nonneg (magnitude_nonneg m e) (two_zpow_pos _).le
  obtain ⟨hlo, hhi⟩ := roundNat_bounds mode s ((m : ℚ) * 2 ^ e / 2 ^ stepUnit f m e)
  have hcanon := carried_canonical (magnitude_nonneg m e) hu hlo hhi
  obtain ⟨hmin, hlt, hbin⟩ := hu
  refine ⟨_, _, _, _, roundUnbounded_eq f mode s m e, ⟨hmin, hlt, hbin, ?_⟩, hcanon, carried_value ..⟩
  have h := roundNat_spec hmode s hx
  rwa [show (if s then -((m : ℚ) * 2 ^ e / 2 ^ stepUnit f m e) else (m : ℚ) * 2 ^ e / 2 ^ stepUnit f m e) =
    (if s then -((m : ℚ) * 2 ^ e) else (m : ℚ) * 2 ^ e) / 2 ^ stepUnit f m e by cases s <;> simp [neg_div]] at h

/-- A canonical magnitude is rounded to itself, in every mode. -/
theorem roundUnbounded_canonical {f : FFmt} (mode : Nat) (s : Bool) {n : Nat} {u : Int} (hn : n ≠ 0) (hc : Canonical f n u) :
    roundUnbounded f mode s n u = (n, u, false) := by
  have hne : ¬ n = 2 ^ (f.m + 1) := hc.1.ne
  rw [roundUnbounded_eq, stepUnit_canonical hn hc, mul_div_cancel_right₀ _ (two_zpow_pos u).ne', roundNat_natCast]
  simp [carried, hne]

/-! The range above, and what an encoding holds -/

section
variable {f : FFmt} (hf : f.Good)
include hf

theorem FFmt.Good.maxSig_bounds : 2 ^ f.m ≤ f.maxSig ∧ f.maxSig < 2 ^ (f.m + 1) ∧ 2 ^ (f.m + 1) - 1 ≤ 2 * f.maxSig := by
  have hm1 : 2 ^ (f.m + 1) = 2 * 2 ^ f.m := by rw [pow_succ, Nat.mul_comm]
  have hmpos : 2 ≤ 2 ^ f.m := Nat.pow_le_pow_right (n := 2) (by decide) hf.m_ge
  unfold FFmt.maxSig
  split <;> omega

theorem FFmt.Good.emin_le_emax : f.emin ≤ f.emax := by
  have hb := hf.bias_pos
  have he := hf.emax_eq
  have hemin : f.emin = 1 - (f.bias : Int) := rfl
  split at he <;> omega

/-- R28, R37: a canonical magnitude is too large exactly when its value exceeds the greatest finite one. -/
theorem tooLarge_iff {n : Nat} {u : Int} (hc : Canonical f n u) : tooLarge f n u = true ↔ maxOf f < n * 2 ^ u := by
  obtain ⟨hn, hu, hsub⟩ := hc
  obtain ⟨hge, hlt, htwice⟩ := hf.maxSig_bounds
  have hemm := hf.emin_le_emax
  have hpos := two_zpow_pos (f.emax - f.m)
  have hmax : maxOf f = f.maxSig * 2 ^ (f.emax - f.m) := rfl
  rcases eq_or_ne n 0 with rfl | hn0
  · rw [tooLarge_zero]
    simp only [Bool.false_eq_true, Nat.cast_zero, zero_mul, false_iff, not_lt, hmax]
    positivity
  rw [← not_iff_not, Bool.not_eq_true, tooLarge_eq_false_iff hn0, not_lt, hmax]
  rcases lt_trichotomy u (f.emax - f.m) with h | h | h
  · refine iff_of_true ⟨h.le, fun he => absurd he h.ne⟩ ?_
    calc (n : ℚ) * 2 ^ u ≤ (2 * f.maxSig : Nat) * 2 ^ (f.emax - f.m - 1) :=
          mul_le_mul (by exact_mod_cast (by omega : n ≤ 2 * f.maxSig)) (two_zpow_le (by omega)) (two_zpow_pos _).le (Nat.cast_nonneg _)
      _ = f.maxSig * 2 ^ (f.emax - f.m) := by
          rw [show f.emax - f.m = f.emax - f.m - 1 + 1 by ring, two_zpow_succ]; push_cast; ring_nf
  · subst h
    rw [mul_le_mul_iff_left₀ hpos, Nat.cast_le]
    simp
  · refine iff_of_false (fun hh => absurd hh.1 (not_le.mpr h)) (not_le.mpr ?_)
    have hnge : 2 ^ f.m ≤ n := by
      by_contra hlt
      have := hsub (not_le.mp hlt)
      omega
    calc (f.maxSig : ℚ) * 2 ^ (f.emax - f.m) < (2 ^ (f.m + 1) : Nat) * 2 ^ (f.emax - f.m) := mul_lt_mul_of_pos_right (by exact_mod_cast hlt) hpos
      _ = (2 ^ f.m : Nat) * 2 ^ (f.emax - f.m + 1) := by rw [two_zpow_succ, pow_succ]; push_cast; ring
      _ ≤ n * 2 ^ u := mul_le_mul (by exact_mod_cast hnge) (two_zpow_le (by omega)) (two_zpow_pos _).le (Nat.cast_nonneg _)

/-- R38: the encoding of a canonical magnitude in range holds it, with the conditions of a result that may be inexact. -/
theorem holdsSteps_encodeF {n n' : Nat} {u u' : Int} (s : Bool) (q : ℚ) (hc : Canonical f n' u') (hval : (n' : ℚ) * 2 ^ u' = n * 2 ^ u)
    (hr : tooLarge f n' u' = false) : HoldsSteps f s q n u (encodeF f s n' u', tinyConds f n' (decide (q ≠ n * 2 ^ u))) := by
  refine ⟨⟨n', u', decodeF_encodeF hf s hc hr, hval⟩, ?_⟩
  obtain ⟨hn, hu, hsub⟩ := hc
  have hzero : n = 0 ↔ n' = 0 := by
    have h1 : (n : ℚ) * 2 ^ u = 0 ↔ (n : ℚ) = 0 := by rw [mul_eq_zero, or_iff_left (two_zpow_pos u).ne']
    have h2 : (n' : ℚ) * 2 ^ u' = 0 ↔ (n' : ℚ) = 0 := by rw [mul_eq_zero, or_iff_left (two_zpow_pos u').ne']
    rw [← Nat.cast_eq_zero (R := ℚ), ← h1, ← hval, h2, Nat.cast_eq_zero]
  have hsmall : (n : ℚ) * 2 ^ u < 2 ^ f.emin ↔ n' < 2 ^ f.m := by
    have hemin : (2 : ℚ) ^ f.emin = (2 ^ f.m : Nat) * 2 ^ (f.emin - f.m) := by rw [← two_zpow_nat, ← two_zpow_add]; congr 1; ring
    rw [← hval, hemin]
    refine ⟨fun h => ?_, fun h => ?_⟩
    · by_contra hge
      refine absurd h (not_lt.mpr (mul_le_mul ?_ (two_zpow_le hu) (two_zpow_pos _).le (Nat.cast_nonneg _)))
      exact_mod_cast not_lt.mp hge
    · rw [hsub h]
      exact mul_lt_mul_of_pos_right (by exact_mod_cast h) (two_zpow_pos _)
  unfold tinyConds
  by_cases hq : q = n * 2 ^ u
  · simp [hq]
  · simp [hq, hzero, hsmall, and_comm]

end

/-! Round and Convert (R37 to R40) -/

theorem round_fin (f : FFmt) (mode : Nat) (s : Bool) {m : Nat} (hm : m ≠ 0) (e : Int) {n : Nat} {u : Int} {nx : Bool}
    (h : roundUnbounded f mode s m e = (n, u, nx)) : Machine.round f mode (.fin s m e) =
      if tooLarge f n u then
        (if mode == 0 || (mode == 2 && !s) || (mode == 3 && s) then f.infBits s else f.maxBits s, cOverflow ||| cInexact)
      else (encodeF f s n u, tinyConds f n nx) := by
  cases m with
  | zero => exact absurd rfl hm
  | succ m => simp only [Machine.round, h]

theorem round_zero (f : FFmt) (mode : Nat) (s : Bool) (e : Int) : Machine.round f mode (.fin s 0 e) = (s.toNat * 2 ^ (f.w + f.m), 0) := by
  rw [Machine.round, encodeF_zero]

/-- R37, R38: a value that a format holds is rounded to its encoding, in every mode and without a condition. -/
theorem round_canonical {f : FFmt} (mode : Nat) (s : Bool) {n : Nat} {u : Int} (hc : Canonical f n u) (hr : tooLarge f n u = false) :
    Machine.round f mode (.fin s n u) = (encodeF f s n u, 0) := by
  rcases eq_or_ne n 0 with rfl | hn
  · rw [round_zero, encodeF_zero]
  · rw [round_fin f mode s hn u (roundUnbounded_canonical mode s hn hc), hr]
    rfl

/-- R29: what an encoding holds: a NaN, an infinity of its sign, or a canonical magnitude in range, of which it is the encoding. -/
theorem decodeF_cases {f : FFmt} (hf : f.Good) {v : Nat} (hv : v < 2 ^ f.width) :
    (∃ g, decodeF f v = .nan g) ∨ (f.infs = true ∧ ∃ s, decodeF f v = .inf s ∧ v = f.infBits s) ∨
    ∃ s n u, decodeF f v = .fin s n u ∧ Canonical f n u ∧ tooLarge f n u = false ∧ encodeF f s n u = v := by
  obtain ⟨s, ex, fr, hex, hfr, rfl⟩ := exists_assemble hv
  have hw := hf.two_pow_w
  have hb := hf.bias_pos
  have hemax := hf.emax_eq
  have hemin : f.emin = 1 - (f.bias : Int) := rfl
  have hm1 : 2 ^ (f.m + 1) = 2 * 2 ^ f.m := by rw [pow_succ, Nat.mul_comm]
  rw [decodeF_assemble hex hfr]
  split
  case isTrue hspecial =>
    obtain ⟨hinfs, hones⟩ : f.infs = true ∧ ex = 2 ^ f.w - 1 := by simpa using hspecial
    split
    case isTrue h0 =>
      refine .inr (.inl ⟨hinfs, s, rfl, ?_⟩)
      rw [assemble, hones, eq_of_beq h0, Nat.add_zero, FFmt.infBits]
    case isFalse => exact .inl ⟨_, rfl⟩
  case isFalse hspecial =>
    split
    case isTrue => exact .inl ⟨_, rfl⟩
    case isFalse hnan =>
      split
      case isTrue h0 =>
        refine .inr (.inr ⟨s, fr, f.emin - f.m, rfl, ⟨by omega, le_rfl, fun _ => rfl⟩, ?_, ?_⟩)
        · rcases eq_or_ne fr 0 with rfl | hfr0
          · exact tooLarge_zero ..
          · have := hf.emin_le_emax
            obtain ⟨hge, -⟩ := hf.maxSig_bounds
            exact (tooLarge_eq_false_iff hfr0).mpr ⟨by omega, fun _ => by omega⟩
        · rw [encodeF_eq, if_pos hfr, eq_of_beq h0]
      case isFalse h0 =>
        have hex0 : ex ≠ 0 := by simpa using h0
        refine .inr (.inr ⟨s, 2 ^ f.m + fr, (ex : Int) - f.bias - f.m, rfl, ⟨by omega, by omega, fun h => by omega⟩, ?_, ?_⟩)
        · refine (tooLarge_eq_false_iff (by have := Nat.two_pow_pos f.m; omega)).mpr ⟨?_, fun he => ?_⟩
          · cases hi : f.infs
            · simp [hi] at hemax; omega
            · have hne : ex ≠ 2 ^ f.w - 1 := by simpa [hi] using hspecial
              simp [hi] at hemax; omega
          · cases hi : f.infs
            · simp [hi] at hemax hnan
              unfold FFmt.maxSig
              cases hnans : f.nans
              · simp [hi]; omega
              · have hne := hnan hnans (by omega)
                simp [hi]; omega
            · simp [FFmt.maxSig, hi]; omega
        · rw [encodeF_eq, if_neg (by omega)]
          congr 1 <;> omega

/-- R37, R38: what a rounded magnitude comes to in a format: the encoding that holds its steps, or something else above the greatest finite value. -/
theorem rounds_of {f : FFmt} (hf : f.Good) {mode : Nat} (hmode : mode ≤ 3) (s : Bool) {m : Nat} (hm : m ≠ 0) (e : Int) (big : Nat × Nat) :
    ∃ (n : Nat) (u : Int), RoundsToSteps f mode s (m * 2 ^ e) n u ∧ ∀ r : Nat × Nat,
      (∀ n' u' nx, roundUnbounded f mode s m e = (n', u', nx) → r = if tooLarge f n' u' then big else (encodeF f s n' u', tinyConds f n' nx)) →
      ((n : ℚ) * 2 ^ u ≤ maxOf f → HoldsSteps f s (m * 2 ^ e) n u r) ∧ (maxOf f < n * 2 ^ u → r = big) := by
  obtain ⟨n, u, n', u', hround, hsteps, hc, hval⟩ := roundUnbounded_spec f hmode s hm e
  refine ⟨n, u, hsteps, fun r hr => ⟨fun hle => ?_, fun hlt => ?_⟩⟩
  · have hin : tooLarge f n' u' = false := by
      rw [← Bool.not_eq_true, tooLarge_iff hf hc, hval]; exact not_lt.mpr hle
    rw [hr _ _ _ hround, hin]
    exact holdsSteps_encodeF hf s _ hc hval hin
  · rw [hr _ _ _ hround, (tooLarge_iff hf hc).mpr (hval ▸ hlt)]
    rfl

theorem infs_of_mem {code : Nat} (h : code ∈ [0, 1, 2, 3, 5]) : (ffmt code).infs = true := by
  simp only [List.mem_cons, List.not_mem_nil, or_false] at h
  rcases h with rfl | rfl | rfl | rfl | rfl <;> rfl

theorem roundingIsCorrect : RoundingIsCorrect := by
  intro code mode _ hmode ft
  refine ⟨fun _ => rfl, fun _ => rfl, round_zero ft mode, fun s m e hm => ?_⟩
  obtain ⟨n, u, hsteps, hr⟩ := rounds_of (ffmt_good code) hmode s hm e
    (if mode = 0 ∨ (mode = 2 ∧ s = false) ∨ (mode = 3 ∧ s = true) then ft.infBits s else ft.maxBits s, cOverflow ||| cInexact)
  refine ⟨n, u, hsteps, hr _ fun n' u' nx h => (round_fin ft mode s hm e h).trans ?_⟩
  simp only [Bool.or_eq_true, Bool.and_eq_true, beq_iff_eq, Bool.not_eq_true', or_assoc]
  rfl

/-- Settles O26: an encoding holds a canonical magnitude, which is rounded to itself; any other magnitude is rounded to its steps. -/
theorem encodingsRoundToThemselves : Obligations.EncodingsRoundToThemselves := by
  refine ⟨fun code mode v _ hv hnan => ?_, roundingIsCorrect⟩
  rcases decodeF_cases (ffmt_good code) hv with ⟨g, hg⟩ | ⟨-, s, hs, rfl⟩ | ⟨s, n, u, hfin, hc, hr, rfl⟩
  · rw [hg] at hnan; cases hnan
  · rw [hs]; rfl
  · rw [hfin]; exact round_canonical mode s hc hr

end Sys2Proof.Machine
end

section
/-! PROOFS (O20). Floating-point arithmetic: exact sums and products, quotients and roots that round as the exact ones do, and the words that round each
once (R37, R206 to R211). -/
namespace Sys2Proof.Machine

/-! Exact sums and products (R37, R210) -/

/-- A magnitude counted in a smaller unit. -/
theorem shiftLeft_value (m : Nat) {e k : Int} (h : k ≤ e) : ((m <<< (e - k).toNat : Nat) : ℚ) * 2 ^ k = m * 2 ^ e := by
  obtain ⟨j, hj⟩ := Int.eq_ofNat_of_zero_le (sub_nonneg.mpr h)
  obtain rfl : e = k + j := by omega
  rw [hj, Int.toNat_natCast, Nat.shiftLeft_eq, two_zpow_add, two_zpow_nat]
  push_cast
  ring

/-- A signed count of units as a value. -/
theorem ratOf_signed (t e : Int) : ratOf (.fin (decide (t < 0)) t.natAbs e) = t * 2 ^ e := by
  rw [ratOf_fin]
  rcases lt_or_ge t 0 with h | h
  · rw [decide_eq_true h, if_pos rfl, Nat.cast_natAbs, abs_of_neg h]; push_cast; ring
  · rw [decide_eq_false (not_lt.mpr h), if_neg Bool.false_ne_true, Nat.cast_natAbs, abs_of_nonneg h]

/-- A magnitude with its sign, as the integer that `addFin` adds. -/
theorem signed_value (s : Bool) (x : Nat) (e : Int) : (((if s then -(x : Int) else x : Int)) : ℚ) * 2 ^ e = ratOf (.fin s x e) := by
  rw [ratOf_fin]
  cases s <;> simp

theorem ratOf_congr (s : Bool) {m n : Nat} {e k : Int} (h : (m : ℚ) * 2 ^ e = n * 2 ^ k) : ratOf (.fin s m e) = ratOf (.fin s n k) := by
  rw [ratOf_fin, ratOf_fin, h]

/-- R37: the sum of two values is exact, and a zero sum of unlike signs has the sign of the mode. -/
theorem addFin_spec (mode : Nat) (s : Bool) (m : Nat) (e : Int) (t : Bool) (n : Nat) (k : Int) :
    ∃ u M E, addFin mode s m e t n k = .fin u M E ∧ ratOf (.fin u M E) = ratOf (.fin s m e) + ratOf (.fin t n k) ∧
      (M = 0 → u = if s = t then s else decide (mode = 3)) := by
  unfold addFin
  have hx := (signed_value s _ _).trans (ratOf_congr s (shiftLeft_value m (min_le_left e k)))
  have hy := (signed_value t _ _).trans (ratOf_congr t (shiftLeft_value n (min_le_right e k)))
  have hsum := congrArg₂ (· + ·) hx hy
  simp only [← add_mul, ← Int.cast_add] at hsum
  dsimp only
  generalize (if s then -((m <<< (e - min e k).toNat : Nat) : Int) else (m <<< (e - min e k).toNat : Nat)) +
      (if t then -((n <<< (k - min e k).toNat : Nat) : Int) else (n <<< (k - min e k).toNat : Nat)) = z at hsum ⊢
  split
  case isTrue h0 =>
    rw [eq_of_beq h0, Int.cast_zero, zero_mul] at hsum
    refine ⟨_, _, _, rfl, ?_, fun _ => ?_⟩
    · rw [← hsum, ratOf_fin]; simp
    · cases s <;> cases t <;> rfl
  case isFalse h0 =>
    refine ⟨_, _, _, rfl, (ratOf_signed _ _).trans hsum, fun hM => ?_⟩
    exact absurd (Int.natAbs_eq_zero.mp hM) (by simpa using h0)

theorem mulV_fin (s : Bool) (m : Nat) (e : Int) (t : Bool) (n : Nat) (k : Int) : mulV (.fin s m e) (.fin t n k) = .fin (s != t) (m * n) (e + k) := rfl

theorem ratOf_mul (s : Bool) (m : Nat) (e : Int) (t : Bool) (n : Nat) (k : Int) :
    ratOf (.fin (s != t) (m * n) (e + k)) = ratOf (.fin s m e) * ratOf (.fin t n k) := by
  simp only [ratOf_fin, two_zpow_add]
  cases s <;> cases t <;> simp <;> ring

theorem exactSumsAndProducts : ExactSumsAndProducts := by
  refine ⟨addFin_spec, fun s m e t n k => ⟨_, _, mulV_fin s m e t n k, ratOf_mul s m e t n k⟩, fun mode s t => ?_, fun _ _ _ _ _ => ⟨rfl, rfl⟩,
    fun _ _ => rfl, fun s t n k => ⟨?_, ?_⟩, fun mode x y h => ?_⟩
  · cases s <;> cases t <;> rfl
  · cases n <;> rfl
  · cases n <;> rfl
  · cases x with
    | nan g => cases y <;> exact ⟨rfl, rfl⟩
    | inf s =>
      cases y with
      | nan g => exact ⟨rfl, rfl⟩
      | inf t => simp [FV.isNan] at h
      | fin t n k => simp [FV.isNan] at h
    | fin s m e =>
      cases y with
      | nan g => exact ⟨rfl, rfl⟩
      | inf t => simp [FV.isNan] at h
      | fin t n k => simp [FV.isNan] at h

/-! Numbers of few bits -/

/-- A number of `p` bits does not lie between a whole number of `p` bits or more and the next. -/
theorem few_bits_not_between {p k q : Nat} (hk : k < 2 ^ p) (hq : 2 ^ p ≤ 2 * q) (j : Int) : (k : ℚ) * 2 ^ j ≤ q ∨ (q : ℚ) + 1 ≤ k * 2 ^ j := by
  rcases lt_or_ge j 0 with hj | hj
  · left
    have h1 : (2 : ℚ) ^ j ≤ 2 ^ (-1 : Int) := two_zpow_le (by omega)
    have h2 : (k : ℚ) ≤ 2 * q := by exact_mod_cast hk.le.trans hq
    calc (k : ℚ) * 2 ^ j ≤ 2 * q * 2 ^ (-1 : Int) := mul_le_mul h2 h1 (two_zpow_pos _).le (by positivity)
      _ = q := by norm_num; ring
  · obtain ⟨i, rfl⟩ := Int.eq_ofNat_of_zero_le hj
    have hnat : (k : ℚ) * 2 ^ (i : Int) = ((k * 2 ^ i : Nat) : ℚ) := by rw [two_zpow_nat]; push_cast; rfl
    rw [hnat]
    rcases Nat.lt_or_ge q (k * 2 ^ i) with h | h
    · right; exact_mod_cast h
    · left; exact_mod_cast h

/-- A number of `p` bits against a number scaled by 2^h. -/
theorem few_bits_lt_scaled (k : Nat) (j h : Int) (v : ℚ) : ((k : ℚ) * 2 ^ j < v * 2 ^ h ↔ (k : ℚ) * 2 ^ (j - h) < v) ∧
    (v * 2 ^ h < (k : ℚ) * 2 ^ j ↔ v < (k : ℚ) * 2 ^ (j - h)) := by
  have hpos := two_zpow_pos h
  have hscale : (k : ℚ) * 2 ^ j = k * 2 ^ (j - h) * 2 ^ h := by rw [mul_assoc, ← two_zpow_add, sub_add_cancel]
  rw [hscale]
  exact ⟨mul_lt_mul_iff_left₀ hpos, mul_lt_mul_iff_left₀ hpos⟩

/-- Two numbers inside one gap between whole numbers lie on the same side of every number of `p` bits. -/
theorem sameSide_of_between {p q : Nat} (hq : 2 ^ p ≤ 2 * q) {v x : ℚ} (hv : (q : ℚ) < v ∧ v < q + 1) (hx : (q : ℚ) < x ∧ x < q + 1) (h : Int) :
    SameSide p (v * 2 ^ h) (x * 2 ^ h) := by
  intro k j hk
  rw [(few_bits_lt_scaled k j h v).1, (few_bits_lt_scaled k j h v).2, (few_bits_lt_scaled k j h x).1, (few_bits_lt_scaled k j h x).2]
  obtain ⟨hv1, hv2⟩ := hv
  obtain ⟨hx1, hx2⟩ := hx
  rcases few_bits_not_between hk hq (j - h) with hle | hge
  · exact ⟨iff_of_true (by linarith) (by linarith), iff_of_false (by linarith) (by linarith)⟩
  · exact ⟨iff_of_false (by linarith) (by linarith), iff_of_true (by linarith) (by linarith)⟩

/-- A count of half units: a whole number and, where something was left over, one more half. -/
theorem half_units (q c : Nat) (h : Int) : ((2 * q + c : Nat) : ℚ) * 2 ^ (h - 1) = (q + c / 2) * 2 ^ h := by
  have : (2 : ℚ) ^ h = 2 * 2 ^ (h - 1) := by rw [← two_zpow_succ, sub_add_cancel]
  rw [this]
  push_cast
  ring

theorem half_between (q : Nat) : (q : ℚ) < q + (1 : Nat) / 2 ∧ (q : ℚ) + (1 : Nat) / 2 < q + 1 := by
  constructor <;> norm_num

/-! Quotients (R210) -/

/-- Enough places behind the point, a quotient keeps `p` bits before it. -/
theorem quotient_bits (p : Nat) {m n : Nat} (hm : m ≠ 0) (hn : n ≠ 0) : 2 ^ p ≤ m <<< (p + 1 + n.log2 + 2) / n := by
  rw [Nat.le_div_iff_mul_le (Nat.pos_of_ne_zero hn), Nat.shiftLeft_eq]
  calc 2 ^ p * n ≤ 2 ^ p * 2 ^ (n.log2 + 1) := Nat.mul_le_mul_left _ Nat.lt_log2_self.le
    _ = 2 ^ (p + (n.log2 + 1)) := (pow_add ..).symm
    _ ≤ 2 ^ (p + 1 + n.log2 + 2) := Nat.pow_le_pow_right two_pos (by omega)
    _ ≤ m * 2 ^ (p + 1 + n.log2 + 2) := Nat.le_mul_of_pos_left _ (Nat.pos_of_ne_zero hm)

theorem quotient_shifted (m d : Nat) (e k : Int) {n : Nat} (hn : n ≠ 0) :
    (m : ℚ) * 2 ^ e / (n * 2 ^ k) = ((m <<< d : Nat) : ℚ) / n * 2 ^ (e - k - d) := by
  have hn' : (n : ℚ) ≠ 0 := Nat.cast_ne_zero.mpr hn
  rw [Nat.shiftLeft_eq, zpow_sub₀ two_ne_zero, zpow_sub₀ two_ne_zero, zpow_natCast]
  push_cast
  field_simp

/-- Whole part and remainder of a quotient. -/
theorem cast_div_add (N : Nat) {n : Nat} (hn : n ≠ 0) : (N : ℚ) / n = (N / n : Nat) + (N % n : Nat) / n := by
  have hn' : (n : ℚ) ≠ 0 := Nat.cast_ne_zero.mpr hn
  rw [eq_comm, add_div' _ _ _ hn', div_left_inj' hn']
  exact_mod_cast Nat.div_add_mod' N n

theorem divFin_spec (p : Nat) (s : Bool) {m : Nat} (hm : m ≠ 0) (e : Int) (t : Bool) {n : Nat} (hn : n ≠ 0) (k : Int) :
    ∃ M E, divFin (p + 1) s m e t n k = .fin (s != t) M E ∧ SameSide p (M * 2 ^ E) (m * 2 ^ e / (n * 2 ^ k)) := by
  have hbits := quotient_bits p hm hn
  refine ⟨_, _, by unfold divFin; rw [if_neg (by simpa using hm)], ?_⟩
  rw [half_units, quotient_shifted m (p + 1 + n.log2 + 2) e k hn, cast_div_add _ hn]
  generalize m <<< (p + 1 + n.log2 + 2) = N at hbits ⊢
  have hnpos : (0 : ℚ) < n := Nat.cast_pos.mpr (Nat.pos_of_ne_zero hn)
  by_cases hr : N % n = 0
  · rw [hr]
    simp only [beq_self_eq_true, if_true, Nat.cast_zero, zero_div]
    exact fun _ _ _ => ⟨Iff.rfl, Iff.rfl⟩
  · rw [if_neg (by simpa using hr)]
    have hlt : ((N % n : Nat) : ℚ) < n := Nat.cast_lt.mpr (Nat.mod_lt _ (Nat.pos_of_ne_zero hn))
    have hpos : (0 : ℚ) < (N % n : Nat) := Nat.cast_pos.mpr (Nat.pos_of_ne_zero hr)
    refine sameSide_of_between (by omega) (half_between _) ⟨?_, ?_⟩ _
    · linarith [div_pos hpos hnpos]
    · linarith [(div_lt_one hnpos).mpr hlt]

theorem divV_isQuotient (ft : FFmt) (x y : FV) : IsQuotient ft x y (divV (ft.m + 3) x y) := by
  cases x with
  | nan g => exact ⟨rfl, rfl⟩
  | inf s => cases y with
    | nan g => exact ⟨rfl, rfl⟩
    | inf t => rfl
    | fin t n k => rfl
  | fin s m e => cases y with
    | nan g => exact ⟨rfl, rfl⟩
    | inf t => exact ⟨rfl, 0, rfl⟩
    | fin t n k =>
      refine ⟨fun hn hm => by subst hn hm; rfl, fun hn hm => ?_, fun hn hm => ?_, fun hn hm => ?_⟩
      · subst hn; simp [divV, hm]
      · subst hm; simp [divV, hn, divFin]
      · obtain ⟨M, E, hdiv, hside⟩ := divFin_spec (ft.m + 2) s hm e t hn k
        exact ⟨by simp [divV, hn], M, E, by simp only [divV, beq_iff_eq, hn, if_false]; exact hdiv, hside⟩

/-! Roots (R210) -/

theorem isqrtFrom_spec : ∀ (n r v : Nat), r * r ≤ v → v < (r + 2 ^ (n + 1)) * (r + 2 ^ (n + 1)) →
    isqrtFrom n r v * isqrtFrom n r v ≤ v ∧ v < (isqrtFrom n r v + 1) * (isqrtFrom n r v + 1)
  | 0, r, v, hlo, hhi => by
    unfold isqrtFrom
    split
    case isTrue h => exact ⟨h, hhi⟩
    case isFalse h => exact ⟨hlo, not_le.mp h⟩
  | n + 1, r, v, hlo, hhi => by
    have h2 : 2 ^ (n + 1 + 1) = 2 ^ (n + 1) + 2 ^ (n + 1) := by rw [pow_succ, Nat.mul_two]
    rw [h2, ← Nat.add_assoc] at hhi
    unfold isqrtFrom
    dsimp only
    split
    case isTrue h => exact isqrtFrom_spec n _ v h hhi
    case isFalse h => exact isqrtFrom_spec n _ v hlo (not_le.mp h)

theorem isqrt_spec (v : Nat) : isqrt v * isqrt v ≤ v ∧ v < (isqrt v + 1) * (isqrt v + 1) := by
  refine isqrtFrom_spec _ 0 v (Nat.zero_le v) ?_
  calc v < 2 ^ (v.log2 + 1) := Nat.lt_log2_self
    _ ≤ 2 ^ ((v.log2 / 2 + 1 + 1) + (v.log2 / 2 + 1 + 1)) := Nat.pow_le_pow_right two_pos (by omega)
    _ = _ := by rw [pow_add, Nat.zero_add]

/-- The root of a number of 2p bits or more has p. -/
theorem isqrt_bits {p v : Nat} (h : 2 ^ (2 * p) ≤ v) : 2 ^ p ≤ isqrt v := by
  obtain ⟨-, hhi⟩ := isqrt_spec v
  by_contra hlt
  have hle : isqrt v + 1 ≤ 2 ^ p := not_le.mp hlt
  have := Nat.mul_le_mul hle hle
  rw [← pow_add, ← two_mul] at this
  omega

/-- A number of few bits stands to the root, one half added where it is not whole, as its square does to the radicand. -/
theorem few_bits_root {p r v : Nat} (hr : 2 ^ p ≤ 2 * r) (hlo : r * r ≤ v) (hhi : v < (r + 1) * (r + 1)) {k : Nat} (hk : k < 2 ^ p) (j : Int) :
    let w : ℚ := r + (if r * r == v then 0 else 1 : Nat) / 2
    ((k : ℚ) * 2 ^ j < w ↔ ((k : ℚ) * 2 ^ j) ^ 2 < v) ∧ (w < k * 2 ^ j ↔ (v : ℚ) < ((k : ℚ) * 2 ^ j) ^ 2) := by
  intro w
  have hy := magnitude_nonneg k j
  have hr0 : (0 : ℚ) ≤ r := Nat.cast_nonneg r
  by_cases hv : r * r = v
  · have hw : w = r := by simp [w, hv]
    rw [hw, ← hv, Nat.cast_mul, ← pow_two]
    exact ⟨(pow_lt_pow_iff_left₀ hy hr0 two_ne_zero).symm, (pow_lt_pow_iff_left₀ hr0 hy two_ne_zero).symm⟩
  · have hw : w = r + (1 : Nat) / 2 := by simp [w, hv]
    obtain ⟨hw1, hw2⟩ := half_between r
    have hlo' : (r : ℚ) ^ 2 < v := by rw [pow_two]; exact_mod_cast lt_of_le_of_ne hlo hv
    have hhi' : (v : ℚ) < (r + 1) ^ 2 := by rw [pow_two]; exact_mod_cast hhi
    rw [hw]
    rcases few_bits_not_between hk hr j with hle | hge
    · have := pow_le_pow_left₀ hy hle 2
      exact ⟨iff_of_true (by linarith) (by linarith), iff_of_false (by linarith) (by linarith)⟩
    · have := pow_le_pow_left₀ (by positivity) hge 2
      exact ⟨iff_of_false (by linarith) (by linarith), iff_of_true (by linarith) (by linarith)⟩

/-- A radicand scaled by an even power of two. -/
theorem few_bits_scaled_sq (k : Nat) (j h : Int) (v : ℚ) :
    (((k : ℚ) * 2 ^ (j - h)) ^ 2 < v ↔ ((k : ℚ) * 2 ^ j) ^ 2 < v * 2 ^ (2 * h)) ∧ (v < ((k : ℚ) * 2 ^ (j - h)) ^ 2 ↔ v * 2 ^ (2 * h) < ((k : ℚ) * 2 ^ j) ^ 2) := by
  have hscale : ((k : ℚ) * 2 ^ j) ^ 2 = ((k : ℚ) * 2 ^ (j - h)) ^ 2 * 2 ^ (2 * h) := by
    rw [show (2 : ℚ) ^ j = 2 ^ (j - h) * 2 ^ h by rw [← two_zpow_add, sub_add_cancel], two_mul, two_zpow_add]
    ring
  rw [hscale]
  exact ⟨(mul_lt_mul_iff_left₀ (two_zpow_pos _)).symm, (mul_lt_mul_iff_left₀ (two_zpow_pos _)).symm⟩

/-- The places added to a radicand: enough for p bits, and an even power of two left over. -/
def rootShift (p : Nat) (e : Int) : Nat := if (e - (2 * (p + 2) : Nat)) % 2 == 0 then 2 * (p + 2) else 2 * (p + 2) + 1

theorem rootShift_spec (p : Nat) (e : Int) : 2 * p ≤ rootShift p e ∧ (e - rootShift p e) % 2 = 0 := by
  unfold rootShift
  split
  case isTrue h => exact ⟨by omega, eq_of_beq h⟩
  case isFalse h =>
    have : ¬ (e - (2 * (p + 2) : Nat)) % 2 = 0 := by simpa using h
    omega

theorem sqrtFin_eq (p : Nat) {m : Nat} (hm : m ≠ 0) (e : Int) : sqrtFin p m e = .fin false
    (2 * isqrt (m <<< rootShift p e) + (if isqrt (m <<< rootShift p e) * isqrt (m <<< rootShift p e) == m <<< rootShift p e then 0 else 1))
    ((e - rootShift p e) / 2 - 1) := if_neg (by simpa using hm)

theorem sqrtFin_spec (p : Nat) {m : Nat} (hm : m ≠ 0) (e : Int) : ∃ M E, sqrtFin (p + 1) m e = .fin false M E ∧ ∀ (k : Nat) (j : Int), k < 2 ^ p →
    (((k : ℚ) * 2 ^ j < M * 2 ^ E ↔ ((k : ℚ) * 2 ^ j) ^ 2 < m * 2 ^ e) ∧ ((M : ℚ) * 2 ^ E < k * 2 ^ j ↔ (m : ℚ) * 2 ^ e < ((k : ℚ) * 2 ^ j) ^ 2)) := by
  obtain ⟨hge, heven⟩ := rootShift_spec (p + 1) e
  refine ⟨_, _, sqrtFin_eq (p + 1) hm e, fun k j hk => ?_⟩
  generalize rootShift (p + 1) e = d at hge heven ⊢
  have hvalue : (m : ℚ) * 2 ^ e = ((m <<< d : Nat) : ℚ) * 2 ^ (2 * ((e - d) / 2)) := by
    rw [show 2 * ((e - d) / 2) = e - d by omega, Nat.shiftLeft_eq, zpow_sub₀ two_ne_zero, zpow_natCast]
    push_cast
    field_simp
  have hbits : 2 ^ (2 * p) ≤ m <<< d := by
    rw [Nat.shiftLeft_eq]
    exact (Nat.pow_le_pow_right two_pos (by omega)).trans (Nat.le_mul_of_pos_left _ (Nat.pos_of_ne_zero hm))
  obtain ⟨hlo, hhi⟩ := isqrt_spec (m <<< d)
  have hroot := few_bits_root ((isqrt_bits hbits).trans (by omega)) hlo hhi hk (j - (e - d) / 2)
  obtain ⟨hs1, hs2⟩ := few_bits_scaled_sq k j ((e - d) / 2) (m <<< d : Nat)
  rw [half_units, hvalue, (few_bits_lt_scaled ..).1, (few_bits_lt_scaled ..).2, ← hs1, ← hs2]
  exact hroot

theorem sqrtV_isRoot (ft : FFmt) (x : FV) : IsRoot ft x (sqrtV (ft.m + 3) x) := by
  cases x with
  | nan g => rfl
  | inf s => rfl
  | fin s m e =>
    refine ⟨fun hm => ⟨0, by simp [sqrtV, hm]⟩, fun hm hs => by simp [sqrtV, hm, hs], fun hm hs => ?_⟩
    obtain ⟨M, E, hroot, hside⟩ := sqrtFin_spec (ft.m + 2) hm e
    exact ⟨M, E, by simp only [sqrtV, beq_iff_eq, hm, hs, if_false, Bool.false_eq_true]; exact hroot, hside⟩

/-! `fdot2` (R210, R211) -/

/-- The sum of `fdot2`: a zero takes the sign of R211. -/
def dotSum (mode : Nat) (p q z : FV) : FV :=
  match addV mode (addV mode p q) z with
  | .fin _ 0 _ => .fin (if p.neg && q.neg && z.neg then true else if !p.neg && !q.neg && !z.neg then false else mode == 3) 0 0
  | v => v

theorem dotSum_of_not_zero (mode : Nat) (p q z : FV) {v : FV} (h : addV mode (addV mode p q) z = v) (hv : v.isZero = false) : dotSum mode p q z = v := by
  unfold dotSum
  rw [h]
  split
  case h_1 => cases hv
  case h_2 => rfl

theorem dotSum_of_zero (mode : Nat) (p q z : FV) (h : (addV mode (addV mode p q) z).isZero = true) : ∃ u i, dotSum mode p q z = .fin u 0 i ∧
    (p.neg = true → q.neg = true → z.neg = true → u = true) ∧ (p.neg = false → q.neg = false → z.neg = false → u = false) ∧
    (¬ (p.neg = q.neg ∧ q.neg = z.neg) → u = decide (mode = 3)) := by
  unfold dotSum
  split
  case h_1 =>
    refine ⟨_, _, rfl, ?_⟩
    cases p.neg <;> cases q.neg <;> cases z.neg <;> simp <;> rfl
  case h_2 hne =>
    cases hv : addV mode (addV mode p q) z with
    | nan g => rw [hv] at h; cases h
    | inf s => rw [hv] at h; cases h
    | fin s m e =>
      rw [hv] at h
      exact absurd (eq_of_beq h ▸ hv) (hne s e)

/-! The words -/

/-- Settles O20: each word rounds once what `addV`, `mulV`, `divV`, `sqrtV` and `dotSum` give, and these are exact or round as the exact result does. -/
theorem floatArithmeticCompletes : Obligations.FloatArithmeticCompletes := by
  intro s x f
  refine ⟨fun h => ?_, fun h => ?_, fun h => ?_, ⟨fun ft => divV (ft.m + 3), fun ft => divV_isQuotient ft, fun h => ?_⟩,
    ⟨fun ft => sqrtV (ft.m + 3), fun ft => sqrtV_isRoot ft, fun h => ?_⟩, exactSumsAndProducts⟩
  · rw [exec_fadd, exec_fsub, exec_fmul]
    exact ⟨fireFloat_computes rfl h, fireFloat_computes rfl h, fireFloat_computes rfl h⟩
  · rw [exec_fma]; exact fireFloat_computes rfl h
  · refine ⟨dotSum f.flag _ _ _, fun v hv hz => dotSum_of_not_zero _ _ _ _ hv hz, dotSum_of_zero _ _ _ _, ?_⟩
    rw [exec_fdot2]
    exact fireFloat_computes rfl h
  · rw [exec_fdiv]; exact fireFloat_computes rfl h
  · rw [exec_fsqrt]; exact fireFloat_computes rfl h

end Sys2Proof.Machine
end

section
/-! PROOFS (O24, conversions and parts). Values that a format holds exactly, Convert (R39, R40), and the words that take a number apart (R216, R217). -/
namespace Sys2Proof.Machine

/-! Values that a format holds -/

section
variable {f : FFmt} (hf : f.Good)
include hf

omit hf in
theorem canonical_zero : Canonical f 0 (f.emin - f.m) := ⟨Nat.two_pow_pos _, le_rfl, fun _ => rfl⟩

/-- A zero of either sign, encoded. -/
theorem decodeF_zero (s : Bool) (u : Int) : decodeF f (encodeF f s 0 u) = .fin s 0 (f.emin - f.m) := by
  rw [encodeF_zero, ← encodeF_zero f s (f.emin - f.m)]
  exact decodeF_encodeF hf s canonical_zero (tooLarge_zero ..)

/-- A significand that fits, in units that the format has, is rounded to itself (R37). -/
theorem round_exact (mode : Nat) (s : Bool) {m : Nat} {e : Int} (hm : m < 2 ^ (f.m + 1)) (he : f.emin - f.m ≤ e) (hle : (m : ℚ) * 2 ^ e ≤ maxOf f) :
    (∃ n u, decodeF f (Machine.round f mode (.fin s m e)).1 = .fin s n u ∧ (n : ℚ) * 2 ^ u = m * 2 ^ e) ∧ (Machine.round f mode (.fin s m e)).2 = 0 := by
  rcases eq_or_ne m 0 with rfl | h0
  · refine ⟨⟨0, f.emin - f.m, decodeF_zero hf s 0, by simp⟩, rfl⟩
  have hlog : m.log2 < f.m + 1 := (Nat.log2_lt h0).mpr hm
  have hu : stepUnit f m e ≤ e := by unfold stepUnit; omega
  have hwhole : (m : ℚ) * 2 ^ e / 2 ^ stepUnit f m e = (m <<< (e - stepUnit f m e).toNat : Nat) := by
    rw [div_eq_iff (two_zpow_pos _).ne', shiftLeft_value m hu]
  have hround := roundUnbounded_eq f mode s m e
  have hcanon := carried_canonical (f := f) (n := m <<< (e - stepUnit f m e).toNat) (magnitude_nonneg m e) (stepUnit_isStep f h0 e)
    (by rw [hwhole, Nat.floor_natCast]) (by rw [hwhole, Nat.floor_natCast]; omega)
  have hvalue := (carried_value f (m <<< (e - stepUnit f m e).toNat) (stepUnit f m e)).trans (shiftLeft_value m hu)
  simp only [hwhole, roundNat_natCast, shiftLeft_value m hu, ne_eq, not_true_eq_false, decide_false] at hround
  have hin : tooLarge f (carried f (m <<< (e - stepUnit f m e).toNat) (stepUnit f m e)).1 (carried f (m <<< (e - stepUnit f m e).toNat) (stepUnit f m e)).2 = false := by
    rw [← Bool.not_eq_true, tooLarge_iff hf hcanon, hvalue]
    exact not_lt.mpr hle
  rw [round_fin f mode s h0 e hround, hin]
  exact ⟨⟨_, _, decodeF_encodeF hf s hcanon hin, hvalue⟩, rfl⟩

/-- A number that the format holds has a magnitude in range. -/
theorem canonical_le_maxOf {n : Nat} {u : Int} (hc : Canonical f n u) (hr : tooLarge f n u = false) : (n : ℚ) * 2 ^ u ≤ maxOf f := by
  rw [← not_lt, ← tooLarge_iff hf hc, hr]
  exact Bool.false_ne_true

/-- What an encoding that holds a finite number says of it. -/
theorem canonical_of_decodeF {v : Nat} (hv : v < 2 ^ f.width) {s : Bool} {n : Nat} {u : Int} (h : decodeF f v = .fin s n u) :
    Canonical f n u ∧ tooLarge f n u = false ∧ encodeF f s n u = v := by
  rcases decodeF_cases hf hv with ⟨g, hg⟩ | ⟨-, t, ht, -⟩ | ⟨t, k, j, hfin, hc, hr, he⟩
  · rw [hg] at h; cases h
  · rw [ht] at h; cases h
  · rw [hfin] at h
    cases h
    exact ⟨hc, hr, he⟩

end

/-! Convert (R39, R40) -/

/-- A rounded magnitude exceeds the greatest finite one. -/
def overflows (f : FFmt) (mode : Nat) (s : Bool) (m : Nat) (e : Int) : Bool :=
  tooLarge f (roundUnbounded f mode s m e).1 (roundUnbounded f mode s m e).2.1

theorem tinyConds_ne_overflow (f : FFmt) (n : Nat) (nx : Bool) : tinyConds f n nx ≠ cOverflow ||| cInexact := by
  unfold tinyConds
  split_ifs <;> decide

theorem overflows_eq {f : FFmt} {mode : Nat} {s : Bool} {m : Nat} {e : Int} {n : Nat} {u : Int} {nx : Bool} (h : roundUnbounded f mode s m e = (n, u, nx)) :
    overflows f mode s m e = tooLarge f n u := by
  rw [overflows, h]

theorem round_conds_overflow (f : FFmt) (mode : Nat) (s : Bool) (m : Nat) (e : Int) :
    (Machine.round f mode (.fin s m e)).2 = cOverflow ||| cInexact ↔ m ≠ 0 ∧ overflows f mode s m e = true := by
  rcases eq_or_ne m 0 with rfl | h0
  · rw [round_zero]
    exact iff_of_false (fun h => absurd h (by decide : ¬ (0 : Nat) = cOverflow ||| cInexact)) fun h => h.1 rfl
  · obtain ⟨n, u, nx, h⟩ : ∃ n u nx, roundUnbounded f mode s m e = (n, u, nx) := ⟨_, _, _, rfl⟩
    rw [round_fin f mode s h0 e h, overflows_eq h]
    cases tooLarge f n u
    · exact iff_of_false (tinyConds_ne_overflow f n nx) fun h => Bool.false_ne_true h.2
    · exact iff_of_true rfl ⟨h0, rfl⟩

theorem convert_infs {f : FFmt} (hi : f.infs = true) (mode : Nat) (sat : Bool) (s : Bool) (m : Nat) (e : Int) :
    convert f mode sat (.fin s m e) = if sat = true ∧ m ≠ 0 ∧ overflows f mode s m e = true then (f.maxBits s, cSaturation ||| cInexact)
      else Machine.round f mode (.fin s m e) := by
  unfold convert overflows
  simp only [hi, if_true, Bool.and_eq_true, bne_iff_ne, and_assoc]

theorem convert_infs_special {f : FFmt} (hi : f.infs = true) (mode : Nat) (sat : Bool) {v : FV} (h : ∀ s m e, v ≠ .fin s m e) :
    convert f mode sat v = Machine.round f mode v := by
  unfold convert
  rw [if_pos hi]
  cases v with
  | nan g => rfl
  | inf s => rfl
  | fin s m e => exact absurd rfl (h s m e)

theorem convert_noInfs {f : FFmt} (hi : f.infs = false) (mode : Nat) (sat : Bool) (s : Bool) {m : Nat} (hm : m ≠ 0) (e : Int) {n : Nat} {u : Int} {nx : Bool}
    (h : roundUnbounded f mode s m e = (n, u, nx)) : convert f mode sat (.fin s m e) =
      if tooLarge f n u then (if sat || !f.nans then (f.maxBits s, cSaturation ||| cInexact) else (f.canon, cInvalid ||| cInexact))
      else (encodeF f s n u, tinyConds f n nx) := by
  cases m with
  | zero => exact absurd rfl hm
  | succ m => simp only [convert, hi, h, Bool.false_eq_true, if_false]

/-- The formats without infinities: e4m3 alone has a NaN. -/
theorem noInfs_of_mem {code : Nat} (h : code ∈ [4, 6, 7, 8]) : (ffmt code).infs = false ∧ (!(ffmt code).nans) = decide (code ≠ 4) ∧ (code = 4 → (ffmt code).canon = 0x7F) := by
  simp only [List.mem_cons, List.not_mem_nil, or_false] at h
  rcases h with rfl | rfl | rfl | rfl <;> exact ⟨rfl, rfl, by decide⟩

/-- R39: a NaN and an infinity in a format without infinities. -/
theorem convert_noInfs_special {code : Nat} (h : code ∈ [4, 6, 7, 8]) (mode : Nat) (sat : Bool) :
    (∀ g, convert (ffmt code) mode sat (.nan g) = (if code = 4 then 0x7F else (ffmt code).maxBits false, cInvalid)) ∧
    (∀ s, convert (ffmt code) mode sat (.inf s) = if sat = true ∨ code ≠ 4 then ((ffmt code).maxBits s, cSaturation) else (0x7F, cInvalid)) := by
  simp only [List.mem_cons, List.not_mem_nil, or_false] at h
  rcases h with rfl | rfl | rfl | rfl <;> exact ⟨fun _ => rfl, fun _ => by cases sat <;> rfl⟩

theorem convertIsRight : ConvertIsRight := by
  intro mode sat hmode
  refine ⟨fun code hcode => ?_, fun code hcode => ?_⟩
  · have hi := infs_of_mem hcode
    refine ⟨fun g => convert_infs_special hi _ _ nofun, fun s => convert_infs_special hi _ _ nofun, fun hsat v => ?_, fun hsat s m e => ?_⟩
    · cases v with
      | nan g => exact convert_infs_special hi _ _ nofun
      | inf s => exact convert_infs_special hi _ _ nofun
      | fin s m e => rw [convert_infs hi, hsat, if_neg fun h => Bool.false_ne_true h.1]
    · rw [convert_infs hi, hsat]
      simp only [round_conds_overflow, true_and]
  · obtain ⟨hi, hnans, hcanon⟩ := noInfs_of_mem hcode
    obtain ⟨hnan, hinf⟩ := convert_noInfs_special hcode mode sat
    refine ⟨hnan, hinf, fun s e => ?_, fun s m e hm => ?_⟩
    · rw [convert, hi]
      exact congrArg (·, 0) (encodeF_zero ..)
    · obtain ⟨n, u, hsteps, hr⟩ := rounds_of (ffmt_good code) hmode s hm e
        (if sat = true ∨ code ≠ 4 then ((ffmt code).maxBits s, cSaturation ||| cInexact) else ((ffmt code).canon, cInvalid ||| cInexact))
      obtain ⟨hin, hbig⟩ := hr _ fun n' u' nx h => (convert_noInfs hi mode sat s hm e h).trans (by simp only [hnans, Bool.or_eq_true, decide_eq_true_eq])
      refine ⟨n, u, hsteps, hin, fun h => (hbig h).trans ?_⟩
      split
      case isTrue => rfl
      case isFalse h => rw [hcanon (by tauto)]

/-! Parts of numbers (R216, R217) -/

/-- Every integer of a significand's bits is in range of a format whose exponents reach so far. -/
theorem two_pow_m_le_maxOf {f : FFmt} (hf : f.Good) (h : (f.m : Int) ≤ f.emax) : ((2 ^ f.m : Nat) : ℚ) ≤ maxOf f := by
  obtain ⟨hge, -, -⟩ := hf.maxSig_bounds
  have hone : (1 : ℚ) ≤ 2 ^ (f.emax - f.m) := one_le_zpow₀ one_le_two (by omega)
  have hsig : ((2 ^ f.m : Nat) : ℚ) ≤ f.maxSig := Nat.cast_le.mpr hge
  calc ((2 ^ f.m : Nat) : ℚ) = (2 ^ f.m : Nat) * 1 := (mul_one _).symm
    _ ≤ maxOf f := mul_le_mul hsig hone zero_le_one (Nat.cast_nonneg _)

theorem m_le_emax_of_le {code : Nat} (h : code ≤ 3) : ((ffmt code).m : Int) ≤ (ffmt code).emax := by
  obtain rfl | rfl | rfl | rfl : code = 0 ∨ code = 1 ∨ code = 2 ∨ code = 3 := by omega
  all_goals decide

/-- A number with no places behind the point is an integer. -/
theorem ratOf_whole (s : Bool) (m : Nat) {e : Int} (he : 0 ≤ e ∨ m = 0) : ∃ z : Int, ratOf (.fin s m e) = z := by
  rcases he with he | rfl
  · refine ⟨if s then -((m <<< (e - 0).toNat : Nat) : Int) else (m <<< (e - 0).toNat : Nat), ?_⟩
    rw [← ratOf_congr s (shiftLeft_value m he), ← signed_value, zpow_zero, mul_one]
  · exact ⟨0, by rw [ratOf_fin]; simp⟩

/-- A magnitude with places behind the point is less than the bits before it allow. -/
theorem magnitude_lt_of_neg {f : FFmt} {m : Nat} {e : Int} (hm : m < 2 ^ (f.m + 1)) (he : e < 0) : (m : ℚ) * 2 ^ e < (2 ^ f.m : Nat) := by
  have hhalf : (2 : ℚ) ^ e ≤ 2 ^ (-1 : Int) := two_zpow_le (by omega)
  have hlt : (m : ℚ) < (2 ^ (f.m + 1) : Nat) := Nat.cast_lt.mpr hm
  calc (m : ℚ) * 2 ^ e ≤ m * 2 ^ (-1 : Int) := mul_le_mul_of_nonneg_left hhalf (Nat.cast_nonneg m)
    _ < (2 ^ (f.m + 1) : Nat) * 2 ^ (-1 : Int) := mul_lt_mul_of_pos_right hlt (two_zpow_pos _)
    _ = (2 ^ f.m : Nat) := by rw [pow_succ, zpow_neg_one]; push_cast; ring

theorem emin_nonpos {f : FFmt} (hf : f.Good) : f.emin ≤ 0 := by
  have := hf.bias_pos
  unfold FFmt.emin
  omega

/-- R216: the integer of a number with places behind the point is one that the format holds. -/
theorem round_roundToInt {f : FFmt} (hf : f.Good) (hemax : (f.m : Int) ≤ f.emax) (mode : Nat) (s : Bool) {m : Nat} {e : Int} (hm : m < 2 ^ (f.m + 1)) (he : e < 0) :
    ∃ n i, decodeF f (Machine.round f 1 (.fin s (roundToInt mode s m e).1.natAbs 0)).1 = .fin s n i ∧ ratOf (.fin s n i) = ((roundToInt mode s m e).1 : ℤ) := by
  have habs : (roundToInt mode s m e).1.natAbs = roundNat mode s (m * 2 ^ e) := by rw [roundToInt_eq]; cases s <;> simp
  have hle : roundNat mode s (m * 2 ^ e) ≤ 2 ^ f.m := by
    have hfloor := (Nat.floor_lt (magnitude_nonneg m e)).mpr (magnitude_lt_of_neg hm he)
    have := (roundNat_bounds mode s ((m : ℚ) * 2 ^ e)).2
    omega
  have hm1 : 2 ^ (f.m + 1) = 2 * 2 ^ f.m := by rw [pow_succ, Nat.mul_comm]
  have hpos : 0 < 2 ^ f.m := Nat.two_pow_pos _
  have hmax : (roundNat mode s (m * 2 ^ e) : ℚ) * 2 ^ (0 : Int) ≤ maxOf f := by
    rw [zpow_zero, mul_one]
    exact (Nat.cast_le.mpr hle).trans (two_pow_m_le_maxOf hf hemax)
  obtain ⟨⟨n, i, hdec, hval⟩, -⟩ := round_exact hf 1 s (m := roundNat mode s (m * 2 ^ e)) (e := 0) (by omega) (by have := emin_nonpos hf; omega) hmax
  rw [habs]
  refine ⟨n, i, hdec, ?_⟩
  rw [ratOf_congr s hval, ← signed_value, zpow_zero, mul_one, roundToInt_eq]

/-- R216: what is left of a number behind the point is a number that the format holds. -/
theorem round_fraction {f : FFmt} (hf : f.Good) (s : Bool) {m : Nat} {e : Int} (hm : m < 2 ^ (f.m + 1)) (hmin : f.emin - f.m ≤ e) (hmax : (m : ℚ) * 2 ^ e ≤ maxOf f)
    (he : e < 0) : ∃ n i, ∃ z : Int, decodeF f (Machine.round f 1 (.fin s (m % 2 ^ (-e).toNat) e)).1 = .fin s n i ∧
      ratOf (.fin s n i) = ratOf (.fin s m e) - (z : ℤ) ∧ IntegerOf 1 (ratOf (.fin s m e)) z := by
  obtain ⟨j, rfl⟩ : ∃ j : Nat, e = -(j : Int) := ⟨(-e).toNat, by omega⟩
  have hle : m % 2 ^ j ≤ m := Nat.mod_le _ _
  have hpos := two_zpow_pos (-(j : Int))
  have hmagnitude : ((m % 2 ^ j : Nat) : ℚ) * 2 ^ (-(j : Int)) ≤ maxOf f :=
    (mul_le_mul_of_nonneg_right (Nat.cast_le.mpr hle) hpos.le).trans hmax
  obtain ⟨⟨n, i, hdec, hval⟩, -⟩ := round_exact hf 1 s (m := m % 2 ^ j) (by omega) hmin hmagnitude
  have hdiv : (m : ℚ) * 2 ^ (-(j : Int)) = m / (2 ^ j : Nat) := by rw [zpow_neg, two_zpow_nat, div_eq_mul_inv]
  have hsplit : ((m % 2 ^ j : Nat) : ℚ) * 2 ^ (-(j : Int)) = m * 2 ^ (-(j : Int)) - (m / 2 ^ j : Nat) := by
    have hdivmod := cast_div_add m (Nat.two_pow_pos j).ne'
    rw [hdiv, hdivmod, zpow_neg, two_zpow_nat]
    ring
  have hspec := roundNat_spec (mode := 1) (by decide) s (magnitude_nonneg m (-(j : Int)))
  rw [roundNat_truncate, hdiv, Nat.floor_div_eq_div, ← hdiv, ← ratOf_fin] at hspec
  rw [neg_neg, Int.toNat_natCast]
  refine ⟨n, i, _, hdec, ?_, hspec⟩
  rw [ratOf_congr s hval, ratOf_fin, ratOf_fin, hsplit]
  generalize m / 2 ^ j = q
  cases s
  · simp
  · simp; ring

theorem laneFrnd_fin {f : FFmt} {a : Nat} {s : Bool} {m : Nat} {e : Int} (h : decodeF f a = .fin s m e) (mode b c : Nat) :
    laneFrnd mode f a b c = if 0 ≤ e ∨ m = 0 then ⟨a, 0, false⟩ else ⟨(Machine.round f 1 (.fin s (roundToInt mode s m e).1.natAbs 0)).1, 0, false⟩ := by
  simp only [laneFrnd, h, Bool.or_eq_true, decide_eq_true_eq, beq_iff_eq]

theorem laneFfrac_fin {f : FFmt} {a : Nat} {s : Bool} {m : Nat} {e : Int} (h : decodeF f a = .fin s m e) (b c : Nat) :
    laneFfrac f a b c = if 0 ≤ e then ⟨encodeF f s 0 0, 0, false⟩ else ⟨(Machine.round f 1 (.fin s (m % 2 ^ (-e).toNat) e)).1, 0, false⟩ := by
  simp only [laneFfrac, h]

/-- R216: the integer part of a finite number. -/
theorem frndFinite {f : FFmt} (hf : f.Good) (hemax : (f.m : Int) ≤ f.emax) {mode : Nat} (hmode : mode ≤ 3) {a : Nat} (ha : a < 2 ^ f.width) (b c : Nat) {s : Bool} {m : Nat} {e : Int}
    (h : decodeF f a = .fin s m e) : ∃ n i z, decodeF f (laneFrnd mode f a b c).val = .fin s n i ∧ ratOf (.fin s n i) = (z : ℤ) ∧ IntegerOf mode (ratOf (.fin s m e)) z := by
  rw [laneFrnd_fin h]
  split
  case isTrue hwhole =>
    obtain ⟨z, hz⟩ := ratOf_whole s m hwhole
    exact ⟨m, e, z, h, hz, by rw [hz]; exact integerOf_intCast mode z⟩
  case isFalse hwhole =>
    obtain ⟨⟨hm, -, -⟩, -, -⟩ := canonical_of_decodeF hf ha h
    obtain ⟨n, i, hdec, hval⟩ := round_roundToInt hf hemax mode s hm (e := e) (by omega)
    exact ⟨n, i, _, hdec, hval, (roundToInt_spec hmode s m e).1⟩

/-- R216: the fraction part of a finite number. -/
theorem ffracFinite {f : FFmt} (hf : f.Good) {a : Nat} (ha : a < 2 ^ f.width) (b c : Nat) {s : Bool} {m : Nat} {e : Int}
    (h : decodeF f a = .fin s m e) : ∃ n i z, decodeF f (laneFfrac f a b c).val = .fin s n i ∧ ratOf (.fin s n i) = ratOf (.fin s m e) - (z : ℤ) ∧
      IntegerOf 1 (ratOf (.fin s m e)) z := by
  rw [laneFfrac_fin h]
  split
  case isTrue hwhole =>
    obtain ⟨z, hz⟩ := ratOf_whole s m (.inl hwhole)
    refine ⟨0, f.emin - f.m, z, decodeF_zero hf s 0, ?_, by rw [hz]; exact integerOf_intCast 1 z⟩
    rw [hz, sub_self, ratOf_fin]
    simp
  case isFalse hwhole =>
    obtain ⟨hc, hr, -⟩ := canonical_of_decodeF hf ha h
    have hmax := canonical_le_maxOf hf hc hr
    obtain ⟨hm, hmin, -⟩ := hc
    exact round_fraction hf s hm hmin hmax (by omega)

theorem frndAndFfrac {code mode a : Nat} (hcode : code ≤ 3) (hmode : mode ≤ 3) (ha : a < 2 ^ (ffmt code).width) (b c : Nat) :
    let ft := ffmt code
    let whole := laneFrnd mode ft a b c
    let frac := laneFfrac ft a b c
    (∀ g, decodeF ft a = .nan g → whole = ⟨ft.canon, if g then cInvalid else 0, false⟩ ∧ frac = whole) ∧
    (∀ s, decodeF ft a = .inf s → whole = ⟨a, 0, false⟩ ∧ frac = ⟨s.toNat * 2 ^ (ft.w + ft.m), 0, false⟩) ∧
    (∀ (s : Bool) (m : Nat) (e : Int), decodeF ft a = .fin s m e → whole.conds = 0 ∧ whole.pois = false ∧ frac.conds = 0 ∧ frac.pois = false ∧
      (∃ n i z, decodeF ft whole.val = .fin s n i ∧ ratOf (.fin s n i) = (z : ℤ) ∧ IntegerOf mode (ratOf (.fin s m e)) z) ∧
      (∃ n i z, decodeF ft frac.val = .fin s n i ∧ ratOf (.fin s n i) = ratOf (.fin s m e) - (z : ℤ) ∧ IntegerOf 1 (ratOf (.fin s m e)) z)) := by
  have hf := ffmt_good code
  refine ⟨fun g h => ⟨by simp only [laneFrnd, h], by simp only [laneFrnd, laneFfrac, h]⟩,
    fun s h => ⟨by simp only [laneFrnd, h], by simp only [laneFfrac, h, encodeF_zero]⟩, fun s m e h =>
    ⟨?_, ?_, ?_, ?_, frndFinite hf (m_le_emax_of_le hcode) hmode ha b c h, ffracFinite hf ha b c h⟩⟩
  · rw [laneFrnd_fin h]; split <;> rfl
  · rw [laneFrnd_fin h]; split <;> rfl
  · rw [laneFfrac_fin h]; split <;> rfl
  · rw [laneFfrac_fin h]; split <;> rfl

/-! Two's complement (R33) -/

theorem cast_wrap (w : Nat) (i : Int) : (wrap w i : Int) = i % 2 ^ w := by
  have hpos : (0 : Int) < (2 ^ w : Nat) := by exact_mod_cast Nat.two_pow_pos w
  rw [wrap, Int.toNat_of_nonneg (Int.emod_nonneg _ hpos.ne')]
  push_cast
  rfl

/-- R33: the signed reading of a word is the number of its range that differs by a multiple of 2^w. -/
theorem toSigned_eq {w v : Nat} (hw : w ≠ 0) {n : Int} (hlo : -2 ^ (w - 1) ≤ n) (hhi : n < 2 ^ (w - 1)) (hmod : ((v : Int) - n) % 2 ^ w = 0) : toSigned w v = n := by
  obtain ⟨k, rfl⟩ : ∃ k, w = k + 1 := ⟨w - 1, by omega⟩
  rw [Nat.add_sub_cancel] at hlo hhi
  have hnat : ((v % 2 ^ (k + 1) : Nat) : Int) = n % 2 ^ (k + 1) := by
    push_cast
    exact Int.emod_eq_emod_iff_emod_sub_eq_zero.mpr hmod
  have h2 : (2 : Int) ^ (k + 1) = 2 * 2 ^ k := by rw [pow_succ, mul_comm]
  have hcast : ((2 ^ k : Nat) : Int) = 2 ^ k := by push_cast; rfl
  have hcast2 : ((2 ^ (k + 1) : Nat) : Int) = 2 * 2 ^ k := by push_cast; exact h2
  rw [h2] at hnat
  unfold toSigned
  rw [if_neg (by simp), Nat.add_sub_cancel]
  generalize v % 2 ^ (k + 1) = u at hnat ⊢
  rcases lt_or_ge n 0 with hneg | hpos
  · have : n % (2 * 2 ^ k) = n + 2 * 2 ^ k := by rw [← Int.add_emod_right, Int.emod_eq_of_lt (by omega) (by omega)]
    rw [if_neg (by omega), hcast2]
    omega
  · have : n % (2 * 2 ^ k) = n := Int.emod_eq_of_lt hpos (by omega)
    rw [if_pos (by omega)]
    omega

theorem fscale_fin {ty a : Nat} {s : Bool} {m : Nat} {e : Int}
    (h : decodeF (ffmt (floatLanes ty).2) (a % 2 ^ (ffmt (floatLanes ty).2).width) = .fin s m e) (mode b : Nat) : fscale mode ty a b =
      if m = 0 then ⟨a % 2 ^ (ffmt (floatLanes ty).2).width, 0, false⟩
      else ⟨(Machine.round (ffmt (floatLanes ty).2) mode (.fin s m (e + toSigned 32 b))).1, (Machine.round (ffmt (floatLanes ty).2) mode (.fin s m (e + toSigned 32 b))).2, false⟩ := by
  simp only [fscale, h, beq_iff_eq]

theorem fgetx_fin {ty a : Nat} {s : Bool} {m : Nat} {e : Int}
    (h : decodeF (ffmt (floatLanes ty).2) (a % 2 ^ (ffmt (floatLanes ty).2).width) = .fin s m e) : fgetx ty a =
      if m = 0 then ⟨0x80000000, 0, false⟩ else ⟨wrap 32 ((m.log2 : Int) + e), 0, false⟩ := by
  simp only [fgetx, h, beq_iff_eq]

theorem partsOfNumbers : PartsOfNumbers := by
  refine ⟨fun code mode a b c hcode hmode ha => frndAndFfrac hcode hmode ha b c, fun ty mode a b _ _ => ?_⟩
  refine ⟨fun g h => ⟨by simp only [fscale, h], by simp only [fgetx, h]⟩, fun s h => ⟨by simp only [fscale, h], by simp only [fgetx, h]⟩,
    fun s e h => ⟨by rw [fscale_fin h, if_pos rfl], by rw [fgetx_fin h, if_pos rfl]⟩, fun s m e h hm => ⟨fun n hlo hhi hmod => ?_, ?_⟩⟩
  · rw [fscale_fin h, if_neg hm, toSigned_eq (by decide) hlo hhi hmod]
  · obtain ⟨hlo, hhi⟩ := two_zpow_log2 hm e
    rw [fgetx_fin h, if_neg hm]
    exact ⟨_, hlo, hhi, cast_wrap 32 _, rfl, rfl⟩

end Sys2Proof.Machine
end

section
/-! PROOFS (O24, conversions). To and from integers (R41, R218), among floating-point formats and e8m0 (R42), and stochastic rounding (R43, R219). -/
namespace Sys2Proof.Machine

/-! Integers (R41, R218) -/

theorem laneMin_le_laneMax (w : Nat) (sg : Bool) : laneMin w sg ≤ laneMax w sg := by
  have h1 := Nat.two_pow_pos w
  have h2 := Nat.two_pow_pos (w - 1)
  cases sg <;> simp only [laneMin, laneMax, Bool.false_eq_true, if_false, if_true] <;> omega

/-- R185: clamping keeps a number in range, and moves any other to the end it is beyond. -/
theorem clampLane_cases (w : Nat) (sg : Bool) (i : Int) : (laneMin w sg ≤ i → i ≤ laneMax w sg → clampLane w sg i = i) ∧
    (i < laneMin w sg → clampLane w sg i = laneMin w sg) ∧ (laneMax w sg < i → clampLane w sg i = laneMax w sg) := by
  have := laneMin_le_laneMax w sg
  unfold clampLane
  omega

theorem clampLane_eq_self_iff (w : Nat) (sg : Bool) (i : Int) : clampLane w sg i = i ↔ laneMin w sg ≤ i ∧ i ≤ laneMax w sg := by
  have := laneMin_le_laneMax w sg
  unfold clampLane
  omega

theorem ratOf_ofInt (i : Int) : ratOf (ofInt i) = i := by
  rw [ofInt, ratOf_signed, zpow_zero, mul_one]

/-- The number that `cvt` reads from an integer format (R96). -/
def cvtNumber (src a : Nat) : Int := laneInt (cvtInt src).1 (cvtInt src).2 (a % 2 ^ (cvtInt src).1)

/-- The value that `cvt` reads from a floating-point format (R96). -/
def cvtValue (src a : Nat) : FV := if src == 9 then ofE8m0 a else decodeF (ffmt src) (a % 2 ^ (ffmt src).width)

section
variable {src dst : Nat} (mode : Nat) (sat : Bool) (a : Nat)

theorem cvt_int_int (hs : 10 ≤ src) (hd : 10 ≤ dst) : cvt src dst mode sat a =
    let c := if sat then clampLane (cvtInt dst).1 (cvtInt dst).2 (cvtNumber src a) else cvtNumber src a
    ⟨wrap (cvtInt dst).1 c, if c == cvtNumber src a then 0 else cSaturation, false⟩ := by
  unfold cvt
  rw [if_pos hs]
  exact if_pos hd

theorem cvt_int_float (hs : 10 ≤ src) (hd : ¬ 10 ≤ dst) : cvt src dst mode sat a =
    ⟨(convert (ffmt dst) mode sat (ofInt (cvtNumber src a))).1, (convert (ffmt dst) mode sat (ofInt (cvtNumber src a))).2, false⟩ := by
  unfold cvt
  rw [if_pos hs]
  exact if_neg hd

theorem cvt_float_int (hs : ¬ 10 ≤ src) (hd : 10 ≤ dst) : cvt src dst mode sat a =
    ⟨(floatToInt mode dst (cvtValue src a)).1, (floatToInt mode dst (cvtValue src a)).2 ||| (if (cvtValue src a).isSnan then cInvalid else 0), false⟩ := by
  unfold cvt
  rw [if_neg hs]
  dsimp only
  rw [if_pos hd]
  rfl

theorem cvt_float_e8m0 (hs : ¬ 10 ≤ src) : cvt src 9 mode sat a = ⟨(toE8m0 mode sat (cvtValue src a)).1,
    (toE8m0 mode sat (cvtValue src a)).2 ||| (if (cvtValue src a).isSnan then cInvalid else 0), !(cvtValue src a).isNan && (toE8m0 mode sat (cvtValue src a)).1 == 0xFF⟩ := by
  unfold cvt
  rw [if_neg hs]
  rfl

theorem cvt_float_float (hs : ¬ 10 ≤ src) (hd : ¬ 10 ≤ dst) (h9 : dst ≠ 9) : cvt src dst mode sat a = ⟨(convert (ffmt dst) mode sat (cvtValue src a)).1,
    (convert (ffmt dst) mode sat (cvtValue src a)).2 ||| (if (cvtValue src a).isSnan then cInvalid else 0),
    dst == 4 && !(cvtValue src a).isNan && (convert (ffmt dst) mode sat (cvtValue src a)).1 == 0x7F⟩ := by
  unfold cvt
  rw [if_neg hs]
  dsimp only
  rw [if_neg hd, if_neg (by simpa using h9)]
  rfl

end

theorem floatToInt_nan (mode code : Nat) (g : Bool) : floatToInt mode code (.nan g) = (0, cInvalid) := by
  simp only [floatToInt]

theorem floatToInt_inf (mode code : Nat) (s : Bool) : floatToInt mode code (.inf s) =
    (wrap (cvtInt code).1 (if s then laneMin (cvtInt code).1 (cvtInt code).2 else laneMax (cvtInt code).1 (cvtInt code).2), cInvalid) := by
  simp only [floatToInt]

theorem floatToInt_fin (mode code : Nat) (s : Bool) (m : Nat) (e : Int) : floatToInt mode code (.fin s m e) =
    let z := (roundToInt mode s m e).1
    if z < laneMin (cvtInt code).1 (cvtInt code).2 ∨ laneMax (cvtInt code).1 (cvtInt code).2 < z then
      (wrap (cvtInt code).1 (clampLane (cvtInt code).1 (cvtInt code).2 z), cInvalid)
    else (wrap (cvtInt code).1 z, if (roundToInt mode s m e).2 then cInexact else 0) := by
  dsimp only
  simp only [floatToInt, Bool.or_eq_true, decide_eq_true_eq]

/-- R41: a finite value to an integer format. -/
theorem floatToInt_spec {mode : Nat} (hmode : mode ≤ 3) (code : Nat) (s : Bool) (m : Nat) (e : Int) : ∃ z : ℤ, IntegerOf mode (ratOf (.fin s m e)) z ∧
    let (w, sg) := cvtInt code
    (laneMin w sg ≤ z → z ≤ laneMax w sg → ((floatToInt mode code (.fin s m e)).1 : ℤ) = z % 2 ^ w ∧
      (floatToInt mode code (.fin s m e)).2 = if ratOf (.fin s m e) = z then 0 else cInexact) ∧
    (z < laneMin w sg → ((floatToInt mode code (.fin s m e)).1 : ℤ) = laneMin w sg % 2 ^ w ∧ (floatToInt mode code (.fin s m e)).2 = cInvalid) ∧
    (laneMax w sg < z → ((floatToInt mode code (.fin s m e)).1 : ℤ) = laneMax w sg % 2 ^ w ∧ (floatToInt mode code (.fin s m e)).2 = cInvalid) := by
  obtain ⟨hz, hnx⟩ := roundToInt_spec hmode s m e
  refine ⟨_, hz, ?_⟩
  rw [floatToInt_fin]
  generalize cvtInt code = p
  obtain ⟨w, sg⟩ := p
  dsimp only
  obtain ⟨-, hlow, hhigh⟩ := clampLane_cases w sg (roundToInt mode s m e).1
  refine ⟨fun hlo hhi => ?_, fun h => ?_, fun h => ?_⟩
  · rw [if_neg (by omega)]
    refine ⟨cast_wrap .., ?_⟩
    by_cases hq : ratOf (.fin s m e) = ((roundToInt mode s m e).1 : ℤ) <;> simp [hnx, hq]
  · rw [if_pos (.inl h), hlow h]
    exact ⟨cast_wrap .., rfl⟩
  · rw [if_pos (.inr h), hhigh h]
    exact ⟨cast_wrap .., rfl⟩

theorem integerConversions : IntegerConversions := by
  intro src dst mode sat a _ _ hmode
  dsimp only
  have hsat : ∀ hs : 10 ≤ src, (cvt src dst mode sat a).pois = false := fun hs => by
    by_cases hd : 10 ≤ dst
    · rw [cvt_int_int mode sat a hs hd]
    · rw [cvt_int_float mode sat a hs hd]
  refine ⟨fun hs => .inl (hsat hs), fun hs => ⟨fun hd h0 => ?_, fun hd h1 => ?_, fun hd => ?_⟩, fun hs hd => ?_⟩
  · rw [cvt_int_int mode sat a hs hd, h0]
    exact ⟨cast_wrap .., if_pos (beq_self_eq_true _)⟩
  · rw [cvt_int_int mode sat a hs hd, h1]
    refine ⟨cast_wrap .., ?_⟩
    dsimp only
    simp only [if_true, beq_iff_eq, clampLane_eq_self_iff]
    rfl
  · rw [cvt_int_float mode sat a hs (by omega)]
    exact ⟨ofInt (cvtNumber src a), ratOf_ofInt _, rfl, ⟨_, _, _, rfl⟩, rfl⟩
  · rw [cvt_float_int mode sat a (by omega) hd]
    have hv : cvtValue src a = decodeF (ffmt src) (a % 2 ^ (ffmt src).width) := if_neg (by simp; omega)
    dsimp only
    rw [hv]
    refine ⟨fun g hg => ?_, fun s hs' => ?_, fun s m e hfin => ?_⟩
    · rw [hg, floatToInt_nan]; cases g <;> rfl
    · rw [hs', floatToInt_inf]; exact ⟨cast_wrap .., Nat.or_zero _⟩
    · rw [hfin]
      simpa [FV.isSnan] using floatToInt_spec hmode dst s m e

/-! Floating-point formats and e8m0 (R42, R218, R225) -/

/-- The exponent to which Convert takes a magnitude in e8m0 (R42). -/
def e8m0Exp (mode m : Nat) (e : Int) : Int :=
  match mode with
  | 1 => (m.log2 : Int) + e
  | 3 => (m.log2 : Int) + e
  | 2 => if m == 2 ^ m.log2 then (m.log2 : Int) + e else (m.log2 : Int) + e + 1
  | _ => if 3 * 2 ^ m.log2 ≤ 2 * m then (m.log2 : Int) + e + 1 else (m.log2 : Int) + e

theorem toE8m0_fin (mode : Nat) (sat s : Bool) {m : Nat} (hm : m ≠ 0) (e : Int) : toE8m0 mode sat (.fin s m e) =
    if e8m0Exp mode m e < -127 then (0, cInexact ||| cUnderflow)
    else if 127 < e8m0Exp mode m e then (if sat then (0xFE, cSaturation) else (0xFF, cOverflow))
    else ((e8m0Exp mode m e + 127).toNat, if m = 2 ^ m.log2 ∧ e8m0Exp mode m e = (m.log2 : Int) + e then 0 else cInexact) := by
  cases m with
  | zero => exact absurd rfl hm
  | succ m =>
    simp only [← beq_iff_eq (b := 2 ^ (m + 1).log2), ← beq_iff_eq (a := e8m0Exp mode (m + 1) e), ← Bool.and_eq_true]
    rfl

/-- A magnitude is the power of two of its binade when its significand is one. -/
theorem magnitude_eq_two_zpow_iff {m : Nat} (hm : m ≠ 0) (e c : Int) : (m : ℚ) * 2 ^ e = 2 ^ c ↔ m = 2 ^ m.log2 ∧ c = (m.log2 : Int) + e := by
  have hpow : (2 : ℚ) ^ ((m.log2 : Int) + e) = (2 ^ m.log2 : Nat) * 2 ^ e := by rw [two_zpow_add, two_zpow_nat]
  have hcancel : (m : ℚ) * 2 ^ e = 2 ^ ((m.log2 : Int) + e) ↔ m = 2 ^ m.log2 := by
    rw [hpow, mul_left_inj' (two_zpow_pos e).ne', Nat.cast_inj]
  obtain ⟨hlo, hhi⟩ := two_zpow_log2 hm e
  refine ⟨fun h => ?_, fun ⟨h1, h2⟩ => h2 ▸ hcancel.mpr h1⟩
  rw [h] at hlo hhi
  have h1 := (zpow_le_zpow_iff_right₀ one_lt_two).mp hlo
  have h2 := (zpow_lt_zpow_iff_right₀ one_lt_two).mp hhi
  obtain rfl : c = (m.log2 : Int) + e := by omega
  exact ⟨hcancel.mp h, rfl⟩

/-- The middle of a binade, in the significand's own units. -/
theorem middle_le_iff (m : Nat) (e : Int) : 3 / 2 * (2 : ℚ) ^ ((m.log2 : Int) + e) ≤ m * 2 ^ e ↔ 3 * 2 ^ m.log2 ≤ 2 * m := by
  rw [two_zpow_add, two_zpow_nat, ← mul_assoc, mul_le_mul_iff_left₀ (two_zpow_pos e), div_mul_eq_mul_div, div_le_iff₀ two_pos, mul_comm (m : ℚ)]
  exact_mod_cast Iff.rfl

theorem toE8m0_spec (mode : Nat) (sat s : Bool) {m : Nat} (hm : m ≠ 0) (e : Int) : ∃ n c : ℤ, (2 : ℚ) ^ n ≤ m * 2 ^ e ∧ (m : ℚ) * 2 ^ e < 2 ^ (n + 1) ∧
      (mode = 1 ∨ mode = 3 → c = n) ∧ (mode = 2 → c = if (m : ℚ) * 2 ^ e = 2 ^ n then n else n + 1) ∧
      (mode = 0 → c = if 3 / 2 * 2 ^ n ≤ (m : ℚ) * 2 ^ e then n + 1 else n) ∧
      (c < -127 → toE8m0 mode sat (.fin s m e) = (0, cInexact ||| cUnderflow)) ∧
      (127 < c → toE8m0 mode sat (.fin s m e) = if sat then (0xFE, cSaturation) else (0xFF, cOverflow)) ∧
      (-127 ≤ c → c ≤ 127 → ((toE8m0 mode sat (.fin s m e)).1 : ℤ) = c + 127 ∧
        (toE8m0 mode sat (.fin s m e)).2 = if (m : ℚ) * 2 ^ e = 2 ^ c then 0 else cInexact) := by
  obtain ⟨hlo, hhi⟩ := two_zpow_log2 hm e
  refine ⟨_, e8m0Exp mode m e, hlo, hhi, fun h => ?_, fun h => ?_, fun h => ?_, fun h => ?_, fun h => ?_, fun h1 h2 => ?_⟩
  · rcases h with rfl | rfl <;> rfl
  · subst h
    simp [e8m0Exp, magnitude_eq_two_zpow_iff hm]
  · subst h
    simp only [middle_le_iff]
    rfl
  · rw [toE8m0_fin mode sat s hm, if_pos h]
  · rw [toE8m0_fin mode sat s hm, if_neg (by omega), if_pos h]
  · rw [toE8m0_fin mode sat s hm, if_neg (by omega), if_neg (by omega)]
    refine ⟨Int.toNat_of_nonneg (by omega), ?_⟩
    simp only [magnitude_eq_two_zpow_iff hm]

theorem floatConversions : FloatConversions := by
  refine ⟨fun src dst mode sat a hs hd _ => ?_, fun mode sat _ => ⟨fun g => rfl, fun s => rfl, fun s e => rfl, fun s m e hm => toE8m0_spec mode sat s hm e⟩⟩
  have hv : (if src = 9 then (if a % 256 = 255 then .nan false else .fin false 1 ((a % 256 : Nat) - 127 : ℤ)) else decodeF (ffmt src) (a % 2 ^ (ffmt src).width)) =
      cvtValue src a := by simp only [cvtValue, ofE8m0, beq_iff_eq]
  dsimp only
  rw [hv]
  by_cases h9 : dst = 9
  · subst h9
    rw [cvt_float_e8m0 mode sat a (by omega)]
    exact ⟨rfl, rfl, by simp⟩
  · rw [cvt_float_float mode sat a (by omega) (by omega) h9]
    refine ⟨by rw [if_neg h9], by rw [if_neg h9], ?_⟩
    rw [beq_eq_false_iff_ne.mpr h9, Bool.false_and, Bool.or_false, Bool.and_assoc, Bool.and_left_comm]

/-! Stochastic rounding (R43, R219) -/

/-- The steps to which SRound takes a magnitude. -/
def stochasticSteps (f : FFmt) (rnd m : Nat) (e : Int) : Nat :=
  if 2 ^ 16 ≤ (shiftLeft m (e - stepUnit f m e + 16)).1 % 2 ^ 16 + rnd % 2 ^ 16 then (shiftLeft m (e - stepUnit f m e)).1 + 1 else (shiftLeft m (e - stepUnit f m e)).1

theorem sround_fin (f : FFmt) (rnd : Nat) (sat s : Bool) {m : Nat} (hm : m ≠ 0) (e : Int) {n : Nat} {u : Int}
    (h : carried f (stochasticSteps f rnd m e) (stepUnit f m e) = (n, u)) : sround f rnd sat (.fin s m e) =
      if tooLarge f n u then
        if sat then ((convert f 1 true (.fin s n u)).1, (convert f 1 true (.fin s n u)).2 ||| cInexact)
        else if f.infs then (f.infBits s, cOverflow ||| cInexact) else (f.canon, cInvalid ||| cInexact)
      else (encodeF f s n u, tinyConds f n ((shiftLeft m (e - stepUnit f m e)).2 != 0)) := by
  obtain ⟨rfl, rfl⟩ : n = (carried f (stochasticSteps f rnd m e) (stepUnit f m e)).1 ∧ u = (carried f (stochasticSteps f rnd m e) (stepUnit f m e)).2 := by
    rw [h]; exact ⟨rfl, rfl⟩
  cases m with
  | zero => exact absurd rfl hm
  | succ m => rfl

/-- The digits of a number behind the point are those of its fraction part. -/
theorem floor_mul_emod (x : ℚ) (k : Nat) : ⌊x * 2 ^ k⌋ % 2 ^ k = ⌊(x - ⌊x⌋) * 2 ^ k⌋ := by
  have hpos : (0 : ℚ) < 2 ^ k := by positivity
  have hsplit : x * 2 ^ k = (x - ⌊x⌋) * 2 ^ k + ((⌊x⌋ * 2 ^ k : Int) : ℚ) := by push_cast; ring
  rw [hsplit, Int.floor_add_intCast, Int.add_mul_emod_self_right]
  refine Int.emod_eq_of_lt (Int.floor_nonneg.mpr (mul_nonneg (by linarith [Int.floor_le x]) hpos.le)) (Int.floor_lt.mpr ?_)
  push_cast
  exact (mul_lt_iff_lt_one_left hpos).mpr (by linarith [Int.lt_floor_add_one x])

theorem stochasticSteps_eq (f : FFmt) (rnd m : Nat) (e : Int) :
    let q : ℚ := m * 2 ^ e / 2 ^ stepUnit f m e
    (stochasticSteps f rnd m e : ℤ) = ⌊q⌋ + if 2 ^ 16 ≤ ⌊(q - ⌊q⌋) * 2 ^ 16⌋ + ((rnd % 2 ^ 16 : Nat) : ℤ) then 1 else 0 := by
  intro q
  have hq : q = m * 2 ^ (e - stepUnit f m e) := div_two_zpow ..
  have hq0 : 0 ≤ q := by rw [hq]; exact magnitude_nonneg ..
  have hq16 : (m : ℚ) * 2 ^ (e - stepUnit f m e + 16) = q * 2 ^ 16 := by rw [two_zpow_add, ← mul_assoc, hq]; rfl
  have hfloor : ((shiftLeft m (e - stepUnit f m e)).1 : ℤ) = ⌊q⌋ := by
    rw [shiftLeft_eq, ← hq]
    exact Int.natCast_floor_eq_floor hq0
  have hdigits : (((shiftLeft m (e - stepUnit f m e + 16)).1 % 2 ^ 16 : Nat) : ℤ) = ⌊(q - ⌊q⌋) * 2 ^ 16⌋ := by
    rw [shiftLeft_eq, hq16, ← floor_mul_emod, ← Int.natCast_floor_eq_floor (by positivity)]
    push_cast
    rfl
  rw [← hdigits, ← hfloor]
  unfold stochasticSteps
  generalize (shiftLeft m (e - stepUnit f m e + 16)).1 = d
  generalize (shiftLeft m (e - stepUnit f m e)).1 = k
  split <;> split <;> omega

/-- Where nothing is discarded, stochastic rounding changes nothing, and it never makes a number exact. -/
theorem stochasticSteps_exact_iff (f : FFmt) (rnd m : Nat) (e : Int) :
    ((shiftLeft m (e - stepUnit f m e)).2 != 0) = decide ((m : ℚ) * 2 ^ e ≠ stochasticSteps f rnd m e * 2 ^ stepUnit f m e) := by
  have hpos := two_zpow_pos (stepUnit f m e)
  have hsteps := stochasticSteps_eq f rnd m e
  dsimp only at hsteps
  rw [shiftLeft_eq, Bool.eq_iff_iff, bne_iff_ne, decide_eq_true_iff, ne_eq, ne_eq, not_iff_not, restCode_eq_zero, sub_eq_zero, ← div_two_zpow,
    ← div_eq_iff hpos.ne']
  have hq0 : 0 ≤ (m : ℚ) * 2 ^ e / 2 ^ stepUnit f m e := div_nonneg (magnitude_nonneg m e) hpos.le
  generalize (m : ℚ) * 2 ^ e / 2 ^ stepUnit f m e = q at hsteps hq0 ⊢
  refine ⟨fun h => ?_, fun h => by rw [h, Nat.floor_natCast]⟩
  have hfrac : q - ⌊q⌋ = 0 := by rw [h]; simp
  have hlt : rnd % 2 ^ 16 < 2 ^ 16 := Nat.mod_lt _ (Nat.two_pow_pos 16)
  rw [hfrac, zero_mul, Int.floor_zero, zero_add, if_neg (by omega), add_zero, ← Int.natCast_floor_eq_floor hq0, Nat.cast_inj] at hsteps
  rw [hsteps]
  exact h

/-- A canonical magnitude that is too large saturates. -/
theorem convert_too_large {f : FFmt} (mode : Nat) (s : Bool) {n : Nat} {u : Int} (hn : n ≠ 0) (hc : Canonical f n u) (hr : tooLarge f n u = true) :
    convert f mode true (.fin s n u) = (f.maxBits s, cSaturation ||| cInexact) := by
  have hunbounded := roundUnbounded_canonical mode s hn hc
  cases hi : f.infs
  · rw [convert_noInfs hi mode true s hn u hunbounded, hr]
    rfl
  · rw [convert_infs hi, overflows_eq hunbounded]
    exact if_pos ⟨rfl, hn, hr⟩

/-- R43: SRound of a magnitude: the encoding of its steps, or what is above the greatest finite value. -/
theorem sround_spec {f : FFmt} (hf : f.Good) (rnd : Nat) (sat s : Bool) {m : Nat} (hm : m ≠ 0) (e : Int) :
    ∃ (n : Nat) (u : ℤ), f.emin - f.m ≤ u ∧ (m : ℚ) * 2 ^ e < 2 ^ (u + f.m + 1) ∧ (u = f.emin - f.m ∨ (2 : ℚ) ^ (u + f.m) ≤ m * 2 ^ e) ∧
    (let q : ℚ := m * 2 ^ e / 2 ^ u
     (n : ℤ) = ⌊q⌋ + if 2 ^ 16 ≤ ⌊(q - ⌊q⌋) * 2 ^ 16⌋ + ((rnd % 2 ^ 16 : Nat) : ℤ) then 1 else 0) ∧
    ((n : ℚ) * 2 ^ u ≤ maxOf f → HoldsSteps f s (m * 2 ^ e) n u (sround f rnd sat (.fin s m e))) ∧
    (maxOf f < n * 2 ^ u → sat = true → sround f rnd sat (.fin s m e) = (f.maxBits s, cSaturation ||| cInexact)) ∧
    (maxOf f < n * 2 ^ u → sat = false → sround f rnd sat (.fin s m e) = if f.infs then (f.infBits s, cOverflow ||| cInexact) else (f.canon, cInvalid ||| cInexact)) := by
  have hstep := stepUnit_isStep f hm e
  have hspec := stochasticSteps_eq f rnd m e
  have hexact := stochasticSteps_exact_iff f rnd m e
  have hvalue := carried_value f (stochasticSteps f rnd m e) (stepUnit f m e)
  have hcanon : Canonical f (carried f (stochasticSteps f rnd m e) (stepUnit f m e)).1 (carried f (stochasticSteps f rnd m e) (stepUnit f m e)).2 := by
    have hfloor : (shiftLeft m (e - stepUnit f m e)).1 = ⌊(m : ℚ) * 2 ^ e / 2 ^ stepUnit f m e⌋₊ := by rw [shiftLeft_eq, div_two_zpow]
    refine carried_canonical (magnitude_nonneg m e) hstep ?_ ?_ <;> rw [← hfloor] <;> unfold stochasticSteps <;> split <;> omega
  obtain ⟨n', u', h⟩ : ∃ n' u', carried f (stochasticSteps f rnd m e) (stepUnit f m e) = (n', u') := ⟨_, _, rfl⟩
  rw [h] at hvalue hcanon
  have hround := sround_fin f rnd sat s hm e h
  have hlarge := tooLarge_iff hf hcanon
  rw [hvalue] at hlarge
  obtain ⟨hmin, hlt, hbin⟩ := hstep
  refine ⟨_, _, hmin, hlt, hbin, hspec, fun hle => ?_, fun hgt hsat => ?_, fun hgt hsat => ?_⟩
  · have hin : tooLarge f n' u' = false := by rw [← Bool.not_eq_true, hlarge]; exact not_lt.mpr hle
    rw [hround, hin, hexact]
    exact holdsSteps_encodeF hf s _ hcanon hvalue hin
  · have hn' : n' ≠ 0 := by
      rintro rfl
      exact absurd (hlarge.mpr hgt) Bool.false_ne_true
    rw [hround, hlarge.mpr hgt, hsat]
    rw [convert_too_large 1 s hn' hcanon (hlarge.mpr hgt)]
    exact Prod.ext rfl (by decide : cSaturation ||| cInexact ||| cInexact = cSaturation ||| cInexact)
  · rw [hround, hlarge.mpr hgt, hsat]
    rfl

/-- SRound of a NaN and of an infinity is Convert (R43). -/
theorem sround_special (f : FFmt) (rnd : Nat) (sat : Bool) {v : FV} (h : ∀ s m e, v ≠ .fin s m e) : sround f rnd sat v = convert f 0 sat v := by
  cases v with
  | nan g => rfl
  | inf s => rfl
  | fin s m e => exact absurd rfl (h s m e)

/-- The formats of `cvtsr` (R219): those with infinities, and e4m3. -/
theorem cvtsr_formats {dst : Nat} (h : dst ∈ [2, 3, 4, 5]) : (ffmt dst).infs = decide (dst ≠ 4) := by
  simp only [List.mem_cons, List.not_mem_nil, or_false] at h
  rcases h with rfl | rfl | rfl | rfl <;> rfl

theorem convert_nan_cvtsr {dst : Nat} (h : dst ∈ [2, 3, 4, 5]) (mode : Nat) (sat g : Bool) :
    convert (ffmt dst) mode sat (.nan g) = ((ffmt dst).canon, if g = true ∨ dst = 4 then cInvalid else 0) := by
  simp only [List.mem_cons, List.not_mem_nil, or_false] at h
  rcases h with rfl | rfl | rfl | rfl <;> cases g <;> rfl

/-- The greatest finite encoding of e4m3 is not its NaN. -/
theorem maxBits_cvtsr {dst : Nat} (h : dst ∈ [2, 3, 4, 5]) (s : Bool) : (dst == 4 && (ffmt dst).maxBits s == 0x7F) = false := by
  simp only [List.mem_cons, List.not_mem_nil, or_false] at h
  rcases h with rfl | rfl | rfl | rfl <;> cases s <;> rfl

theorem cvtsr_eq (dst : Nat) (sat : Bool) (a c : Nat) {v : FV} (h : decodeF (ffmt 1) (a % 2 ^ 32) = v) : cvtsr dst sat a c =
    ⟨(sround (ffmt dst) (c % 2 ^ 16) sat v).1, (sround (ffmt dst) (c % 2 ^ 16) sat v).2 ||| (if v.isSnan then cInvalid else 0),
      dst == 4 && !v.isNan && (sround (ffmt dst) (c % 2 ^ 16) sat v).1 == 0x7F⟩ := by
  rw [cvtsr, h]

theorem stochasticRounding : StochasticRounding := by
  intro dst sat a c hdst
  have hi := cvtsr_formats hdst
  refine ⟨fun g hg => ?_, fun s hs => ?_, fun s e hz => ?_, fun s m e hfin hm => ?_⟩
  · rw [cvtsr_eq dst sat a c hg, sround_special (v := .nan g) _ _ _ nofun, convert_nan_cvtsr hdst]
    by_cases h4 : dst = 4 <;> cases g <;> simp [FV.isSnan, FV.isNan, h4]
  · rw [cvtsr_eq dst sat a c hs, hs, sround_special (v := .inf s) _ _ _ nofun]
    exact Prod.ext rfl (Nat.or_zero _)
  · rw [cvtsr_eq dst sat a c hz]
    have hzero : sround (ffmt dst) (c % 2 ^ 16) sat (.fin s 0 e) = (s.toNat * 2 ^ ((ffmt dst).w + (ffmt dst).m), 0) := by rw [sround, encodeF_zero]
    have hpois : (dst == 4 && s.toNat * 2 ^ ((ffmt dst).w + (ffmt dst).m) == 0x7F) = false := by
      rw [Bool.and_eq_false_imp, beq_iff_eq]
      rintro rfl
      cases s <;> rfl
    have hnum : (!(FV.fin s 0 e).isNan) = true := rfl
    rw [hzero, hnum, Bool.and_true, hpois]
    exact congrArg (FRes.mk _ · _) (Nat.or_zero 0)
  · obtain ⟨n, u, hmin, hlt, hbin, hsteps, hin, hsat, hbig⟩ := sround_spec (ffmt_good dst) (c % 2 ^ 16) sat s hm e
    rw [Nat.mod_mod] at hsteps
    rw [cvtsr_eq dst sat a c hfin]
    have hconds : ∀ k : Nat, (k ||| if (FV.fin s m e).isSnan then cInvalid else 0) = k := Nat.or_zero
    have hnum : (!(FV.fin s m e).isNan) = true := rfl
    rw [hconds, hnum, Bool.and_true]
    refine ⟨n, u, hmin, hlt, hbin, hsteps, fun hle => ?_, fun hgt h => ?_, fun hgt h => ?_⟩
    · have hholds := hin hle
      refine ⟨hholds, ?_⟩
      obtain ⟨⟨k, j, hdec, -⟩, -⟩ := hholds
      rw [Bool.and_eq_false_imp, beq_iff_eq, beq_eq_false_iff_ne]
      rintro rfl h7F
      rw [h7F] at hdec
      cases hdec
    · rw [hsat hgt h, maxBits_cvtsr hdst]
    · rw [hbig hgt h, hi]
      by_cases h4 : dst = 4
      · subst h4; rfl
      · simp [h4]

end Sys2Proof.Machine
end

section
/-! PROOFS (O24, packing and quantising). Lanes of 16 bits (R220), quotients rounded to integers (R221), and the words. -/
namespace Sys2Proof.Machine

/-! Packing (R220) -/

theorem encodeF_lt {f : FFmt} (hf : f.Good) (s : Bool) {n : Nat} {u : Int} (hc : Canonical f n u) (hr : tooLarge f n u = false) : encodeF f s n u < 2 ^ f.width := by
  obtain ⟨hn, hu, -⟩ := hc
  have hw := hf.two_pow_w
  have hemax := hf.emax_eq
  have hm1 : 2 ^ (f.m + 1) = 2 * 2 ^ f.m := by rw [pow_succ, Nat.mul_comm]
  have hmpos : 0 < 2 ^ f.m := Nat.two_pow_pos _
  rw [encodeF_eq]
  split
  case isTrue hlt => exact assemble_lt (Nat.two_pow_pos _) hlt
  case isFalse hge =>
    obtain ⟨hle, -⟩ := (tooLarge_eq_false_iff (by omega)).mp hr
    refine assemble_lt ?_ (by omega)
    split at hemax <;> omega

/-- The results of Round in the formats of 16 bits. -/
theorem round_lt_16 {code : Nat} (hcode : code = 2 ∨ code = 3) {mode : Nat} (hmode : mode ≤ 3) (v : FV) : (Machine.round (ffmt code) mode v).1 < 2 ^ 16 := by
  have hw : (ffmt code).width = 16 := by rcases hcode with rfl | rfl <;> rfl
  have hspecial : (ffmt code).canon < 2 ^ 16 ∧ ∀ s, (ffmt code).infBits s < 2 ^ 16 ∧ (ffmt code).maxBits s < 2 ^ 16 := by
    rcases hcode with rfl | rfl <;> decide
  obtain ⟨hcanon, hends⟩ := hspecial
  have hf := ffmt_good code
  cases v with
  | nan g => exact hcanon
  | inf s => exact (hends s).1
  | fin s m e =>
    rcases eq_or_ne m 0 with rfl | hm
    · rw [round_zero, ← encodeF_zero _ s ((ffmt code).emin - (ffmt code).m), ← hw]
      exact encodeF_lt hf s canonical_zero (tooLarge_zero ..)
    · obtain ⟨n, u, n', u', hround, -, hc, -⟩ := roundUnbounded_spec (ffmt code) hmode s hm e
      rw [round_fin _ mode s hm e hround]
      split
      case isTrue =>
        obtain ⟨hinf, hmax⟩ := hends s
        dsimp only
        split
        · exact hinf
        · exact hmax
      case isFalse h => rw [← hw]; exact encodeF_lt hf s hc (by simpa using h)

theorem lanes_of_two {x y : Nat} (hx : x < 2 ^ 16) (hy : y < 2 ^ 16) : lane 16 (ofLanes 16 [x, y]) 0 = x ∧ lane 16 (ofLanes 16 [x, y]) 1 = y := by
  simp only [lane, bits, ofLanes, Nat.shiftRight_eq_div_pow]
  omega

/-- R220: every number of a format of 16 bits is one of f32. -/
theorem widen_exact {code : Nat} (hcode : code = 2 ∨ code = 3) {v : Nat} (hv : v < 2 ^ 16) {s : Bool} {m : Nat} {e : Int} (h : decodeF (ffmt code) v = .fin s m e) :
    (∃ n u, decodeF (ffmt 1) (Machine.round (ffmt 1) 0 (.fin s m e)).1 = .fin s n u ∧ (n : ℚ) * 2 ^ u = m * 2 ^ e) ∧ (Machine.round (ffmt 1) 0 (.fin s m e)).2 = 0 := by
  have hw : (ffmt code).width = 16 := by rcases hcode with rfl | rfl <;> rfl
  obtain ⟨hc, hr, -⟩ := canonical_of_decodeF (ffmt_good code) (hw ▸ hv) h
  have hle := canonical_le_maxOf (ffmt_good code) hc hr
  obtain ⟨hm, he, -⟩ := hc
  have hsig : 2 ^ ((ffmt code).m + 1) ≤ 2 ^ ((ffmt 1).m + 1) := by rcases hcode with rfl | rfl <;> decide
  have hunit : (ffmt 1).emin - (ffmt 1).m ≤ (ffmt code).emin - (ffmt code).m := by rcases hcode with rfl | rfl <;> decide
  have hmax : maxOf (ffmt code) ≤ maxOf (ffmt 1) := by
    rcases hcode with rfl | rfl
    · change ((2047 : Nat) : ℚ) * 2 ^ (5 : Int) ≤ ((16777215 : Nat) : ℚ) * 2 ^ (104 : Int)
      norm_num
    · change ((255 : Nat) : ℚ) * 2 ^ (120 : Int) ≤ ((16777215 : Nat) : ℚ) * 2 ^ (104 : Int)
      norm_num
  exact round_exact (ffmt_good 1) 0 s (hm.trans_le hsig) (hunit.trans he) (hle.trans hmax)

theorem packedLanes {mode ty : Nat} (hmode : mode ≤ 3) (hty : ty = 4 ∨ ty = 5) (a b : Nat) :
    let ft := ffmt (floatLanes ty).2
    let p := packF mode ty a b
    let one := fun v => Machine.round ft mode (decodeF (ffmt 1) (v % 2 ^ 32))
    lane 16 p.val 0 = (one a).1 ∧ lane 16 p.val 1 = (one b).1 ∧ p.conds = (one a).2 ||| (one b).2 ∧ p.pois = false := by
  have hcode : (floatLanes ty).2 = 2 ∨ (floatLanes ty).2 = 3 := by rcases hty with rfl | rfl <;> decide
  obtain ⟨hlow, hhigh⟩ := lanes_of_two (round_lt_16 hcode hmode (decodeF (ffmt 1) (a % 2 ^ 32))) (round_lt_16 hcode hmode (decodeF (ffmt 1) (b % 2 ^ 32)))
  exact ⟨hlow, hhigh, rfl, rfl⟩

theorem unpackedLane {ty : Nat} (hty : ty = 4 ∨ ty = 5) (a b : Nat) :
    let v := decodeF (ffmt (floatLanes ty).2) (lane 16 a (b % 2))
    let w := unpackF ty a b
    w.pois = false ∧ (∀ g, v = .nan g → w = ⟨0x7FC00000, if g then cInvalid else 0, false⟩) ∧
    (∀ s, v = .inf s → w = ⟨(ffmt 1).infBits s, 0, false⟩) ∧
    (∀ (s : Bool) (m : Nat) (e : Int), v = .fin s m e → w.conds = 0 ∧ ∃ n i, decodeF (ffmt 1) w.val = .fin s n i ∧ ratOf (.fin s n i) = ratOf (.fin s m e)) := by
  have hcode : (floatLanes ty).2 = 2 ∨ (floatLanes ty).2 = 3 := by rcases hty with rfl | rfl <;> decide
  have hw : ∀ v, decodeF (ffmt (floatLanes ty).2) (lane 16 a (b % 2)) = v → unpackF ty a b = ⟨(Machine.round (ffmt 1) 0 v).1, (Machine.round (ffmt 1) 0 v).2, false⟩ :=
    fun v h => by rw [unpackF, h]
  refine ⟨rfl, fun g h => hw _ h, fun s h => hw _ h, fun s m e h => ?_⟩
  obtain ⟨⟨n, u, hdec, hval⟩, hconds⟩ := widen_exact hcode (Nat.mod_lt _ (Nat.two_pow_pos 16)) h
  rw [hw _ h]
  exact ⟨hconds, n, u, hdec, ratOf_congr s hval⟩

/-! Quantising (R221) -/

/-- A quotient of magnitudes as a quotient of whole numbers. -/
theorem quotient_whole (m : Nat) (e : Int) (n : Nat) (k : Int) : (m : ℚ) * 2 ^ e / (n * 2 ^ k) =
    ((if 0 ≤ e - k then m <<< (e - k).toNat else m : Nat) : ℚ) / (if 0 ≤ e - k then n else n <<< (-(e - k)).toNat : Nat) := by
  have hk := (two_zpow_pos k).ne'
  have he := (two_zpow_pos e).ne'
  split
  case isTrue h => rw [← shiftLeft_value m (by omega : k ≤ e), mul_div_mul_right _ _ hk]
  case isFalse h => rw [neg_sub, ← shiftLeft_value n (by omega : e ≤ k), mul_div_mul_right _ _ he]

theorem roundQuot_eq (mode : Nat) (s : Bool) (m : Nat) (e : Int) (t : Bool) {n : Nat} (hn : n ≠ 0) (k : Int) :
    let x : ℚ := m * 2 ^ e / (n * 2 ^ k)
    roundQuot mode s m e t n k = ((if s != t then -(roundNat mode (s != t) x : Int) else roundNat mode (s != t) x), restCode (x - ⌊x⌋₊) != 0) := by
  intro x
  have hx := quotient_whole m e n k
  have hpos : 0 < (if 0 ≤ e - k then n else n <<< (-(e - k)).toNat) := by
    split
    · exact Nat.pos_of_ne_zero hn
    · rw [Nat.shiftLeft_eq]; exact Nat.mul_pos (Nat.pos_of_ne_zero hn) (Nat.two_pow_pos _)
  unfold roundQuot
  dsimp only
  generalize (if 0 ≤ e - k then n else n <<< (-(e - k)).toNat) = K at hx hpos ⊢
  generalize (if 0 ≤ e - k then m <<< (e - k).toNat else m) = N at hx ⊢
  have hfloor : ⌊x⌋₊ = N / K := by rw [show x = (N : ℚ) / K from hx, Nat.floor_div_eq_div]
  have hrest := restCode_div N hpos
  rw [← hfloor, ← hx] at hrest
  have hnx : (N % K != 0) = (restCode (x - ⌊x⌋₊) != 0) := by
    rw [show restCode (x - ⌊x⌋₊) = _ from hrest]
    split_ifs <;> simp [*]
  rw [hnx, ← hfloor, roundNat, show restCode (x - ⌊x⌋₊) = _ from hrest]
  simp only [beq_iff_eq]

/-- The quotient of two finite values. -/
theorem ratOf_div (s : Bool) (m : Nat) (e : Int) (t : Bool) (n : Nat) (k : Int) :
    ratOf (.fin s m e) / ratOf (.fin t n k) = if s != t then -((m : ℚ) * 2 ^ e / (n * 2 ^ k)) else (m : ℚ) * 2 ^ e / (n * 2 ^ k) := by
  rw [ratOf_fin, ratOf_fin]
  cases s <;> cases t <;> simp [neg_div, div_neg]

/-- R221: the integer to which a quotient is rounded, and whether it is not the quotient. -/
theorem roundQuot_spec {mode : Nat} (hmode : mode ≤ 3) (s : Bool) (m : Nat) (e : Int) (t : Bool) {n : Nat} (hn : n ≠ 0) (k : Int) :
    IntegerOf mode (ratOf (.fin s m e) / ratOf (.fin t n k)) (roundQuot mode s m e t n k).1 ∧
    (roundQuot mode s m e t n k).2 = !decide (ratOf (.fin s m e) / ratOf (.fin t n k) = ((roundQuot mode s m e t n k).1 : ℤ)) := by
  have hx : (0 : ℚ) ≤ m * 2 ^ e / (n * 2 ^ k) := div_nonneg (magnitude_nonneg ..) (magnitude_nonneg ..)
  rw [ratOf_div, roundQuot_eq mode s m e t hn k]
  refine ⟨roundNat_spec hmode _ hx, ?_⟩
  have hiff := restCode_floor_ne_zero ((m : ℚ) * 2 ^ e / (n * 2 ^ k)) mode (s != t)
  dsimp only
  rw [Bool.eq_iff_iff, bne_iff_ne, hiff, Bool.not_eq_true', decide_eq_false_iff_not]
  cases s != t <;> simp

/-- The result of `qnt` for a rounded quotient and a zero point (R221). -/
def quantised (q : Int) (nx : Bool) (z : Nat) : FRes :=
  if q + z < 0 || 255 < q + z then ⟨(max 0 (min 255 (q + z))).toNat, cSaturation ||| cInexact, false⟩ else ⟨(q + z).toNat, if nx then cInexact else 0, false⟩

theorem quantised_cases (q : Int) (nx : Bool) (z : Nat) : (0 ≤ q + z → q + z ≤ 255 → ((quantised q nx z).val : ℤ) = q + z ∧ (quantised q nx z).conds = if nx then cInexact else 0) ∧
    (q + z < 0 → quantised q nx z = ⟨0, cSaturation ||| cInexact, false⟩) ∧ (255 < q + z → quantised q nx z = ⟨255, cSaturation ||| cInexact, false⟩) := by
  unfold quantised
  simp only [Bool.or_eq_true, decide_eq_true_eq]
  refine ⟨fun hlo hhi => ?_, fun h => ?_, fun h => ?_⟩
  · rw [if_neg (by omega)]
    exact ⟨Int.toNat_of_nonneg hlo, rfl⟩
  · rw [if_pos (.inl h), max_eq_left (by omega)]
    rfl
  · rw [if_pos (.inr h), min_eq_left (by omega)]
    rfl

section
variable (mode : Nat) {a b : Nat}

theorem qnt_invalid (h : (decodeF (ffmt 1) (a % 2 ^ 32)).isNan = true ∨ (decodeF (ffmt 2) (bits b 0 16)).isNan = true ∨
    (decodeF (ffmt 2) (bits b 0 16)).isZero = true ∨ (decodeF (ffmt 2) (bits b 0 16)).isInf = true) : qnt mode a b = ⟨bits b 16 8, cInvalid, false⟩ := by
  unfold qnt
  generalize decodeF (ffmt 1) (a % 2 ^ 32) = x at h ⊢
  generalize decodeF (ffmt 2) (bits b 0 16) = sc at h ⊢
  cases sc with
  | nan g => cases x <;> rfl
  | inf t => cases x <;> rfl
  | fin t n k =>
    cases x with
    | nan g => rfl
    | inf s =>
      have hn : n = 0 := by simpa [FV.isNan, FV.isZero, FV.isInf] using h
      subst hn; rfl
    | fin s m e =>
      have hn : n = 0 := by simpa [FV.isNan, FV.isZero, FV.isInf] using h
      subst hn; rfl

variable {t : Bool} {n : Nat} {k : Int} (hsc : decodeF (ffmt 2) (bits b 0 16) = .fin t n k) (hn : n ≠ 0)
include hsc hn

theorem qnt_inf {s : Bool} (hx : decodeF (ffmt 1) (a % 2 ^ 32) = .inf s) : qnt mode a b = quantised (if s != t then -1000 else 1000) false (bits b 16 8) := by
  unfold qnt
  rw [hx, hsc]
  exact if_neg (by simpa using hn)

theorem qnt_fin {s : Bool} {m : Nat} {e : Int} (hx : decodeF (ffmt 1) (a % 2 ^ 32) = .fin s m e) :
    qnt mode a b = quantised (roundQuot mode s m e t n k).1 (roundQuot mode s m e t n k).2 (bits b 16 8) := by
  unfold qnt
  rw [hx, hsc]
  exact if_neg (by simpa using hn)

end

theorem quantises {mode : Nat} (hmode : mode ≤ 3) (a b : Nat) :
    let z := bits b 16 8
    let x := decodeF (ffmt 1) (a % 2 ^ 32)
    let sc := decodeF (ffmt 2) (bits b 0 16)
    (∀ s t n k, x = .inf s → sc = .fin t n k → n ≠ 0 → qnt mode a b = ⟨if s = t then 255 else 0, cSaturation ||| cInexact, false⟩) ∧
    (∀ s m e t n k, x = .fin s m e → sc = .fin t n k → n ≠ 0 → ∃ i : ℤ, IntegerOf mode (ratOf x / ratOf sc) i ∧
      (0 ≤ i + z → i + z ≤ 255 → ((qnt mode a b).val : ℤ) = i + z ∧ (qnt mode a b).conds = if ratOf x / ratOf sc = i then 0 else cInexact) ∧
      (i + z < 0 → qnt mode a b = ⟨0, cSaturation ||| cInexact, false⟩) ∧ (255 < i + z → qnt mode a b = ⟨255, cSaturation ||| cInexact, false⟩)) := by
  have hz : bits b 16 8 < 2 ^ 8 := Nat.mod_lt _ (Nat.two_pow_pos 8)
  refine ⟨fun s t n k hx hsc hn => ?_, fun s m e t n k hx hsc hn => ?_⟩
  · rw [qnt_inf mode hsc hn hx]
    by_cases hst : s = t
    · obtain ⟨-, -, hhigh⟩ := quantised_cases 1000 false (bits b 16 8)
      simpa [hst] using hhigh (by omega)
    · obtain ⟨-, hlow, -⟩ := quantised_cases (-1000) false (bits b 16 8)
      simpa [hst] using hlow (by omega)
  · obtain ⟨hint, hnx⟩ := roundQuot_spec hmode s m e t hn k
    rw [qnt_fin mode hsc hn hx, hx, hsc]
    obtain ⟨hin, hlow, hhigh⟩ := quantised_cases (roundQuot mode s m e t n k).1 (roundQuot mode s m e t n k).2 (bits b 16 8)
    refine ⟨_, hint, fun h1 h2 => ?_, hlow, hhigh⟩
    obtain ⟨hval, hconds⟩ := hin h1 h2
    refine ⟨hval, hconds.trans ?_⟩
    rw [hnx]
    simp

theorem mulV_fin_ofInt (t : Bool) (n : Nat) (k i : Int) :
    ∃ u j l, mulV (.fin t n k) (ofInt i) = .fin u j l ∧ ratOf (mulV (.fin t n k) (ofInt i)) = ratOf (.fin t n k) * i := by
  refine ⟨_, _, _, rfl, ?_⟩
  rw [← ratOf_ofInt i]
  exact ratOf_mul ..

theorem mulV_inf_ofInt (t : Bool) (i : Int) : mulV (.inf t) (ofInt i) = if i = 0 then .nan false else .inf (t != decide (i < 0)) := by
  obtain ⟨-, -, -, -, -, hinf, -⟩ := exactSumsAndProducts
  obtain ⟨hmul, -⟩ := hinf t (decide (i < 0)) i.natAbs 0
  simp only [Int.natAbs_eq_zero] at hmul
  exact hmul

/-- R221: `dqnt` rounds the exact product of the scale and the difference. -/
theorem dequantises (mode ty a b : Nat) :
    let z := bits b 16 8
    let sc := decodeF (ffmt 2) (bits b 0 16)
    ∃ v, dqnt mode ty a b = finishArith (ffmt (floatLanes ty).2) mode [sc] 0 v ∧
      (∀ t n k, sc = .fin t n k → ∃ u j l, v = .fin u j l ∧ ratOf v = ratOf sc * (((a % 256 : Nat) : ℤ) - (z : ℤ))) ∧
      (∀ t, sc = .inf t → v = if a % 256 = z then .nan false else .inf (t != decide (a % 256 < z))) ∧ (∀ g, sc = .nan g → v.isNan = true) := by
  intro z sc
  obtain ⟨-, -, -, -, -, -, hnan⟩ := exactSumsAndProducts
  have hdiff : ((((a % 256 : Nat) : Int) - (z : Int) : Int) : ℚ) = ((a % 256 : Nat) : ℤ) - (z : ℤ) := Int.cast_sub ..
  have hzero : ((a % 256 : Nat) : Int) - z = 0 ↔ a % 256 = z := by omega
  have hneg : ((a % 256 : Nat) : Int) - z < 0 ↔ a % 256 < z := by omega
  refine ⟨mulV sc (ofInt ((a % 256 : Nat) - (z : Nat))), rfl, fun t n k hsc => ?_, fun t hsc => ?_, fun g hsc => (hnan 0 sc _ (.inl (by rw [hsc]; rfl))).2⟩
  · rw [hsc, ← hdiff]
    exact mulV_fin_ofInt ..
  · rw [hsc, mulV_inf_ofInt]
    simp only [hzero, hneg]

theorem packedAndQuantised : PackedAndQuantised := by
  intro mode ty a b hmode
  obtain ⟨hinf, hfin⟩ := quantises hmode a b
  refine ⟨fun hty => ?_, fun h => qnt_invalid mode h, hinf, hfin, fun ft2 hft => hft ▸ dequantises mode ty a b⟩
  obtain ⟨hlow, hhigh, hconds, hpois⟩ := packedLanes hmode hty a b
  exact ⟨hlow, hhigh, hconds, hpois, unpackedLane hty a b⟩

/-! The words -/

/-- Settles O24: the values by the clauses above, and each word sends the value of its rule. -/
theorem floatConversionsComplete : Obligations.FloatConversionsComplete := by
  refine ⟨partsOfNumbers, integerConversions, floatConversions, convertIsRight, stochasticRounding, packedAndQuantised, fun s x f => ?_⟩
  refine ⟨fun h => ?_, fun h => ?_, fun h => ?_, fun sh hsh h => ?_, fun sh hsh h => ?_, fun sh hsh h => ?_, fun sh hsh h => ?_⟩
  · rw [exec_frnd, exec_ffrac]
    exact ⟨fireFloat_computes rfl h, fireFloat_computes rfl h⟩
  · rw [exec_fscale]; exact fireFloat_computes rfl h
  · rw [exec_fgetx]; exact fireFloat_computes rfl h
  · rw [exec_cvt]; exact fireFloat_computes hsh h
  · rw [exec_cvtsr]; exact fireFloat_computes hsh h
  · rw [exec_pack]; exact fireFloat_computes hsh h
  · rw [exec_unpack, exec_qnt, exec_dqnt]
    exact ⟨fireFloat_computes hsh h, fireFloat_computes hsh h, fireFloat_computes hsh h⟩

end Sys2Proof.Machine
end

section
/-! PROOFS (O55). Contexts and objects: the lowest free number, what a create, a destroy, a registration and an unregistration answer, and what a context keeps
of an object that leaves it (R66, R392 to R394). -/
namespace Sys2Proof.Machine

/-! The lowest free number -/

theorem firstBelow_lt {p : Nat → Bool} {n i : Nat} (h : firstBelow p n = some i) {k : Nat} (hk : k < i) : p k = false := by
  obtain ⟨-, -, hbelow⟩ := List.find?_range_eq_some.mp h
  simpa using hbelow k hk

theorem firstBelow_none_iff {p : Nat → Bool} {n : Nat} : firstBelow p n = none ↔ ∀ i, i < n → p i = false := by
  simp [firstBelow, List.find?_eq_none]

/-- No object of the list has the number. -/
theorem numberFree_iff (l : List Obj) (n : Nat) : (!l.any fun x => x.onum == n) = true ↔ ∀ x ∈ l, x.onum ≠ n := by simp

theorem numberFree_eq_false_iff (l : List Obj) (n : Nat) : (!l.any fun x => x.onum == n) = false ↔ ∃ x ∈ l, x.onum = n := by simp

theorem obj_eq_none_iff (c : Ctx) (n : Nat) : obj? c n = none ↔ ∀ x ∈ c.objs, x.onum ≠ n := by simp [obj?, List.find?_eq_none]

theorem obj_isNone_of_mem {c : Ctx} {n : Nat} (h : ∃ x ∈ c.objs, x.onum = n) : (obj? c n).isNone = false := by
  obtain ⟨x, hx, hn⟩ := h
  exact Option.isNone_eq_false_iff.mpr (List.find?_isSome.mpr ⟨x, hx, beq_iff_eq.mpr hn⟩)

/-! Contexts (R392, R393) -/

theorem createCtx_free {s : State} (sup : Bool) {n : Nat} (hlife : s.pkg.life ≠ 3) (hn : firstBelow (fun n => (ctx? s n).isNone) 1024 = some n) :
    createCtx s sup = ctxResult { s with ctxs := s.ctxs ++ [newCtx n sup] } n 0 (if sup then 2 else 1) := by
  unfold createCtx
  rw [if_neg (by simpa using hlife), hn]

theorem execCtxDestroy_absent {s : State} {ctx : Nat} (h : ctx? s ctx = none) : execCtxDestroy ctx s = .next (ctxResult s ctx 3 3) := by
  rw [execCtxDestroy, h]

theorem execCtxDestroy_present {s : State} {ctx : Nat} {c : Ctx} (h : ctx? s ctx = some c) : execCtxDestroy ctx s =
    if 7 ≤ c.regs.phase then .next (ctxResult (destroyCtx s ctx) ctx 0 3) else .next (ctxResult s ctx 2 3) := by
  rw [execCtxDestroy, h]

theorem num_ne_of_mem_destroyCtx {s : State} {ctx : Nat} {d : Ctx} (h : d ∈ (destroyCtx s ctx).ctxs) : d.num ≠ ctx :=
  bne_iff_ne.mp (List.mem_filter.mp h).2

/-! Registrations (R59, R394) -/

section
variable {s : State} {ctx : Nat} {c : Ctx}

theorem registerObject_absent (h : ctx? s ctx = none) : registerObject s ctx = objResult s ctx 0 10 1 := by rw [registerObject, h]

variable (h : ctx? s ctx = some c)
include h

theorem registerObject_error {s1 : State} {k : Nat} (hread : readObject s c s.ap.objaddr.toNat = (s1, .error k)) :
    registerObject s ctx = objResult s1 ctx 0 k 1 := by
  simp only [registerObject, h, hread]

theorem registerObject_full {s1 : State} {o : Obj} (hread : readObject s c s.ap.objaddr.toNat = (s1, .ok o))
    (hfull : firstBelow (fun n => !c.objs.any (fun x => x.onum == n)) 1024 = none) : registerObject s ctx = objResult s1 ctx 0 9 1 := by
  simp only [registerObject, h, hread, hfull]

theorem registerObject_free {s1 : State} {o : Obj} {n : Nat} (hread : readObject s c s.ap.objaddr.toNat = (s1, .ok o))
    (hn : firstBelow (fun n => !c.objs.any (fun x => x.onum == n)) 1024 = some n) :
    registerObject s ctx = objResult (modCtx s1 ctx fun c => { c with objs := c.objs ++ [{ o with onum := n }] }) ctx n 0 1 := by
  simp only [registerObject, h, hread, hn]

end

/-! Unregistrations (R394) -/

/-- What a context keeps when an object leaves it: its other objects, and the object's layout for the grids that run it. -/
def withoutObject (s : State) (ctx onum : Nat) (c : Ctx) : Ctx :=
  { c with
    objs := c.objs.filter fun o => o.onum != onum
    gone := c.gone.filter (fun o => o.grids.any fun g => (grid? s g).isSome) ++
      (c.objs.filter fun o => o.onum == onum).map fun o =>
        ⟨o, ((s.grids.filter (runsObject s ctx onum)).map (·.id)).filter fun g => (goneObj? c g onum).isNone⟩ }

theorem ctx_dropObject_same (s : State) (ctx onum : Nat) : ctx? (dropObject s ctx onum) ctx = (ctx? s ctx).map (withoutObject s ctx onum) :=
  ctx_modCtx_same s ctx (withoutObject s ctx onum) fun _ => rfl

/-- The grids that keep a departed object are those that run it and hold no earlier one of its number. -/
theorem mem_gone_withoutObject (s : State) (ctx : Nat) {c : Ctx} {o : Obj} (ho : o ∈ c.objs) :
    ∃ g ∈ (withoutObject s ctx o.onum c).gone, g.obj = o ∧
      ∀ k, k ∈ g.grids ↔ ∃ x ∈ s.grids, x.id = k ∧ runsObject s ctx o.onum x = true ∧ goneObj? c k o.onum = none := by
  refine ⟨_, List.mem_append_right _ (List.mem_map_of_mem (List.mem_filter.mpr ⟨ho, beq_self_eq_true _⟩)), rfl, fun k => ?_⟩
  simp only [List.mem_filter, List.mem_map, Option.isNone_iff_eq_none]
  constructor
  · rintro ⟨⟨x, ⟨hx, hruns⟩, rfl⟩, hnone⟩
    exact ⟨x, hx, rfl, hruns, hnone⟩
  · rintro ⟨x, hx, rfl, hruns, hnone⟩
    exact ⟨⟨x, ⟨hx, hruns⟩, rfl⟩, hnone⟩

section
variable {s : State} {ctx : Nat}

theorem unregisterObject_no_context (h : ctx? s ctx = none) (n : Nat) : unregisterObject s ctx n = objResult s ctx n 10 2 := by
  rw [unregisterObject, h]

variable {c : Ctx} {n : Nat} (h : ctx? s ctx = some c)
include h

theorem unregisterObject_absent (hn : ∀ x ∈ c.objs, x.onum ≠ n) : unregisterObject s ctx n = objResult s ctx n 11 2 := by
  simp only [unregisterObject, h]
  rw [if_pos (Option.isNone_iff_eq_none.mpr ((obj_eq_none_iff c n).mpr hn))]

theorem unregisterObject_present (hn : ∃ x ∈ c.objs, x.onum = n) : unregisterObject s ctx n = objResult (dropObject s ctx n) ctx n 0 2 := by
  simp only [unregisterObject, h]
  rw [if_neg (by simp [obj_isNone_of_mem hn])]

end

theorem objectsRegistered : ObjectsRegistered := by
  intro s ctx
  refine ⟨fun h => ⟨congrArg _ (registerObject_absent h), fun n => congrArg _ (unregisterObject_no_context h n)⟩, fun c h => ⟨?_, ?_, ?_, ?_⟩⟩
  · exact fun s1 k hread => congrArg _ (registerObject_error h hread)
  · refine fun s1 o hread => ⟨fun n hn => ⟨congrArg _ (registerObject_free h hread hn), ?_, fun k hk => ?_⟩, fun hfull => ?_⟩
    · exact (numberFree_iff c.objs n).mp (firstBelow_some hn).2
    · exact (numberFree_eq_false_iff c.objs k).mp (firstBelow_lt hn hk)
    · have hnone := firstBelow_none_iff.mpr fun n hn => (numberFree_eq_false_iff c.objs n).mpr (hfull n hn)
      exact congrArg _ (registerObject_full h hread hnone)
  · exact fun n hn => congrArg _ (unregisterObject_absent h hn)
  · refine fun n hn => ⟨dropObject s ctx n, withoutObject s ctx n c, congrArg _ (unregisterObject_present h hn), ?_, rfl, rfl, rfl, ?_⟩
    · rw [ctx_dropObject_same, h, Option.map_some]
    · rintro o ho rfl
      exact mem_gone_withoutObject s ctx ho

/-- Settles O55: a create and a registration take the lowest free number, a destroy weighs the phase, and each case of a command has its result. -/
theorem contextsCreatedAndDestroyed : Obligations.ContextsCreatedAndDestroyed := by
  refine ⟨fun s => ⟨fun n hlife hn => ?_, fun n sup => ⟨rfl, rfl, rfl, rfl, rfl, rfl⟩, fun ctx c h hphase => ?_, fun ctx c h hphase => ?_,
    fun ctx h => execCtxDestroy_absent h, fun _ => rfl, fun _ _ => rfl⟩, objectsRegistered⟩
  · refine ⟨congrArg _ (createCtx_free false hlife hn), congrArg _ (createCtx_free true hlife hn), (firstBelow_some hn).2, fun k hk => ?_⟩
    exact Option.isNone_eq_false_iff.mp (firstBelow_lt hn hk)
  · exact ⟨(execCtxDestroy_present h).trans (if_pos hphase), fun d hd => num_ne_of_mem_destroyCtx hd⟩
  · exact (execCtxDestroy_present h).trans (if_neg (Nat.not_le.mpr hphase))

end Sys2Proof.Machine
end

section
/-! PROOFS (O1, O2, O4). The ten formats of R76 and the opcode map of R93, read and written: what each format's fields give back, and from it the two
directions between words and instructions. -/
namespace Sys2Proof.Machine

/-! Formats (R76) -/

/-- R76: the opcode in bits [31:24] and the fields that `read` takes and `put` places, between them all 32 bits of a word. -/
structure WordFormat {F : Type} (read : BitVec 32 → F) (put : BitVec 8 → F → BitVec 32) : Prop where
  opcode_put : ∀ op f, (put op f).extractLsb' 24 8 = op
  read_put : ∀ op f, read (put op f) = f
  put_read : ∀ w, put (w.extractLsb' 24 8) (read w) = w

theorem fmtA_wordFormat : WordFormat readFmtA putFmtA where
  opcode_put op f := by simp (disch := decide) only [putFmtA, BitVec.extractLsb'_append_eq_of_le, Nat.reduceSub, BitVec.extractLsb'_eq_self]
  read_put op f := by simp (disch := decide) only [readFmtA, putFmtA, BitVec.extractLsb'_append_eq_of_le, Nat.reduceSub,
    BitVec.extractLsb'_append_eq_right]
  put_read w := by simp (disch := decide) only [readFmtA, putFmtA, BitVec.extractLsb'_append_extractLsb'_eq_extractLsb', BitVec.extractLsb'_eq_self]

theorem fmtB_wordFormat : WordFormat readFmtB putFmtB where
  opcode_put op f := by simp (disch := decide) only [putFmtB, BitVec.extractLsb'_append_eq_of_le, Nat.reduceSub, BitVec.extractLsb'_eq_self]
  read_put op f := by simp (disch := decide) only [readFmtB, putFmtB, BitVec.extractLsb'_append_eq_of_le, Nat.reduceSub,
    BitVec.extractLsb'_append_eq_right]
  put_read w := by simp (disch := decide) only [readFmtB, putFmtB, BitVec.extractLsb'_append_extractLsb'_eq_extractLsb', BitVec.extractLsb'_eq_self]

theorem fmtC_wordFormat : WordFormat readFmtC putFmtC where
  opcode_put op f := by simp (disch := decide) only [putFmtC, BitVec.extractLsb'_append_eq_of_le, Nat.reduceSub, BitVec.extractLsb'_eq_self]
  read_put op f := by simp (disch := decide) only [readFmtC, putFmtC, BitVec.extractLsb'_append_eq_of_le, Nat.reduceSub,
    BitVec.extractLsb'_append_eq_right]
  put_read w := by simp (disch := decide) only [readFmtC, putFmtC, BitVec.extractLsb'_append_extractLsb'_eq_extractLsb', BitVec.extractLsb'_eq_self]

theorem fmtL_wordFormat : WordFormat readFmtL putFmtL where
  opcode_put op f := by simp (disch := decide) only [putFmtL, BitVec.extractLsb'_append_eq_of_le, Nat.reduceSub, BitVec.extractLsb'_eq_self]
  read_put op f := by simp (disch := decide) only [readFmtL, putFmtL, BitVec.extractLsb'_append_eq_of_le, Nat.reduceSub,
    BitVec.extractLsb'_append_eq_right]
  put_read w := by simp (disch := decide) only [readFmtL, putFmtL, BitVec.extractLsb'_append_extractLsb'_eq_extractLsb', BitVec.extractLsb'_eq_self]

theorem fmtM_wordFormat : WordFormat readFmtM putFmtM where
  opcode_put op f := by simp (disch := decide) only [putFmtM, BitVec.extractLsb'_append_eq_of_le, Nat.reduceSub, BitVec.extractLsb'_eq_self]
  read_put op f := by simp (disch := decide) only [readFmtM, putFmtM, BitVec.extractLsb'_append_eq_of_le, Nat.reduceSub,
    BitVec.extractLsb'_append_eq_right]
  put_read w := by simp (disch := decide) only [readFmtM, putFmtM, BitVec.extractLsb'_append_extractLsb'_eq_extractLsb', BitVec.extractLsb'_eq_self]

theorem fmtN_wordFormat : WordFormat readFmtN putFmtN where
  opcode_put op f := by simp (disch := decide) only [putFmtN, BitVec.extractLsb'_append_eq_of_le, Nat.reduceSub, BitVec.extractLsb'_eq_self]
  read_put op f := by simp (disch := decide) only [readFmtN, putFmtN, BitVec.extractLsb'_append_eq_of_le, Nat.reduceSub,
    BitVec.extractLsb'_append_eq_right]
  put_read w := by simp (disch := decide) only [readFmtN, putFmtN, BitVec.extractLsb'_append_extractLsb'_eq_extractLsb', BitVec.extractLsb'_eq_self]

theorem fmtE_wordFormat : WordFormat readFmtE putFmtE where
  opcode_put op f := by simp (disch := decide) only [putFmtE, BitVec.extractLsb'_append_eq_of_le, Nat.reduceSub, BitVec.extractLsb'_eq_self]
  read_put op f := by simp (disch := decide) only [readFmtE, putFmtE, BitVec.extractLsb'_append_eq_of_le, Nat.reduceSub,
    BitVec.extractLsb'_append_eq_right]
  put_read w := by simp (disch := decide) only [readFmtE, putFmtE, BitVec.extractLsb'_append_extractLsb'_eq_extractLsb', BitVec.extractLsb'_eq_self]

theorem fmtT_wordFormat : WordFormat readFmtT putFmtT where
  opcode_put op f := by simp (disch := decide) only [putFmtT, BitVec.extractLsb'_append_eq_of_le, Nat.reduceSub, BitVec.extractLsb'_eq_self]
  read_put op f := by simp (disch := decide) only [readFmtT, putFmtT, BitVec.extractLsb'_append_eq_of_le, Nat.reduceSub,
    BitVec.extractLsb'_append_eq_right]
  put_read w := by simp (disch := decide) only [readFmtT, putFmtT, BitVec.extractLsb'_append_extractLsb'_eq_extractLsb', BitVec.extractLsb'_eq_self]

theorem fmtH_wordFormat : WordFormat readFmtH putFmtH where
  opcode_put op f := by simp (disch := decide) only [putFmtH, BitVec.extractLsb'_append_eq_of_le, Nat.reduceSub, BitVec.extractLsb'_eq_self]
  read_put op f := by simp (disch := decide) only [readFmtH, putFmtH, BitVec.extractLsb'_append_eq_right]
  put_read w := by simp (disch := decide) only [readFmtH, putFmtH, BitVec.extractLsb'_append_extractLsb'_eq_extractLsb', BitVec.extractLsb'_eq_self]

theorem fmtS_wordFormat : WordFormat readFmtS putFmtS where
  opcode_put op f := by simp (disch := decide) only [putFmtS, BitVec.extractLsb'_append_eq_of_le, Nat.reduceSub, BitVec.extractLsb'_eq_self]
  read_put op f := by simp (disch := decide) only [readFmtS, putFmtS, BitVec.extractLsb'_append_eq_of_le, Nat.reduceSub,
    BitVec.extractLsb'_append_eq_right]
  put_read w := by simp (disch := decide) only [readFmtS, putFmtS, BitVec.extractLsb'_append_extractLsb'_eq_extractLsb', BitVec.extractLsb'_eq_self]

/-! From an instruction to its word and back (R75, R93) -/

theorem decode_eq_ok_iff {w : BitVec 32} {i : Instr} : decode w = .ok i ↔ ofOpcode (w.extractLsb' 24 8).toNat w = some i := by
  unfold decode
  split
  next j hj => rw [hj, Except.ok.injEq, Option.some.injEq]
  next hnone =>
    rw [hnone]
    split <;> exact ⟨nofun, nofun⟩

section
variable {F : Type} {read : BitVec 32 → F} {put : BitVec 8 → F → BitVec 32} (h : WordFormat read put)
include h

/-- An opcode whose words are read in a format decodes every word put together in that format. -/
theorem WordFormat.decode_put {op : BitVec 8} {f : F} {mk : F → Instr} (hop : ∀ w, ofOpcode op.toNat w = some (mk (read w))) :
    decode (put op f) = .ok (mk f) := by
  rw [decode_eq_ok_iff, h.opcode_put, hop, h.read_put]

theorem WordFormat.put_read_of {w : BitVec 32} {op : Nat} (hop : (w.extractLsb' 24 8).toNat = op) : put (BitVec.ofNat 8 op) (read w) = w := by
  rw [← hop, BitVec.ofNat_toNat, BitVec.setWidth_eq, h.put_read]

end

/-- Settles O1: each word's format gives its fields back, and its opcode its name. -/
theorem decodeOfEncode : Obligations.DecodeOfEncode := by
  intro i hi
  cases i with
  | add | sub | mul | mulhi | mad | div | rem | min | max | abs | neg | and | or | xor | not | andn | shl | shr | sar | rotl | popc | clz | ctz
    | brev | bfx | bfi | sel | adds | subs | dot4 | dot2 | ixa | fsh | perm | lop3 | fadd | fsub | fmul | fma | fmin | fmax | fminn | fmaxn | fabs
    | fneg | fclass | fdiv | fsqrt | frnd | ffrac | fscale | fgetx | fsign | fdot2 | cvt | cvtsr | pack | unpack | qnt | dqnt | rcp | rsq | ex2
    | lg2 | sinpi | cospi | tanh | sigm | gred | gscan | vote => exact fmtA_wordFormat.decode_put fun _ => rfl
  | mov => exact fmtB_wordFormat.decode_put fun _ => rfl
  | cmp | fcmp => exact fmtC_wordFormat.decode_put fun _ => rfl
  | rd | wr | rdsys | xput | xget | xclr => exact fmtL_wordFormat.decode_put fun _ => rfl
  | ld | st | lds | sts | ldsn | ldc | pf | ldacq | strel | cwb | zfill | pld | pst => exact fmtM_wordFormat.decode_put fun _ => rfl
  | next | nextp | nextpu | call | spawn => exact fmtN_wordFormat.decode_put fun _ => rfl
  | tcopy | tstore | tcopyo | tcopyr | tcast | sfree | spres | tgath | tscat | tclaim | trel | mma | mmi | mmg | tsacc | tzero | tacst | tacld
    | tfence | tmode => exact fmtE_wordFormat.decode_put fun _ => rfl
  | aadd | amin | amax | aand | aor | axor | axchg | acas | afadd | sigsub | sigwait | mbox => exact fmtT_wordFormat.decode_put fun _ => rfl
  | himm | hoff | htgt | hsch => exact fmtH_wordFormat.decode_put fun _ => rfl
  | nop | nexti | calli | ret | exit | bar | yield | gwait | trap | brk | launch | fence | rdctl | wrctl | tlbinv | cinv | evpost | perf | ctxsv
    | ctxld => exact fmtS_wordFormat.decode_put fun _ => rfl
  | _ => cases hi

/-! From a word to its instruction and back (R75, R93) -/

/-- R93: the instruction behind an assigned opcode is a Diros word, and its format puts the fields back where they were read; one case for each opcode. -/
theorem encode_of_ofOpcode {op : Nat} {w : BitVec 32} (hop : (w.extractLsb' 24 8).toNat = op) :
    ∀ {i : Instr}, ofOpcode op w = some i → isWord i = true ∧ encode i = w := by
  fun_cases ofOpcode op w
  all_goals rintro _ ⟨⟩
  all_goals
    refine ⟨rfl, ?_⟩
    simp only [encode, fmtA_wordFormat.put_read_of hop, fmtB_wordFormat.put_read_of hop, fmtC_wordFormat.put_read_of hop,
      fmtL_wordFormat.put_read_of hop, fmtM_wordFormat.put_read_of hop, fmtN_wordFormat.put_read_of hop, fmtE_wordFormat.put_read_of hop,
      fmtT_wordFormat.put_read_of hop, fmtH_wordFormat.put_read_of hop, fmtS_wordFormat.put_read_of hop]

/-- Settles O2: no assigned opcode drops a bit of its word. -/
theorem encodeOfDecode : Obligations.EncodeOfDecode := fun _ _ h => encode_of_ofOpcode rfl (decode_eq_ok_iff.mp h)

/-- Settles O4: each of the words is the encoding of its instruction, so O1 reads it back. -/
theorem decodedWords : Obligations.DecodedWords :=
  ⟨decodeOfEncode (.add ⟨5, 0x88, 1, 4⟩) rfl, decodeOfEncode (.mov ⟨8, 1, 2, 1⟩) rfl, decodeOfEncode (.fcmp ⟨11, 0xFF, 13, 5⟩) rfl,
    decodeOfEncode (.rd ⟨4, 9, 62⟩) rfl, decodeOfEncode (.st ⟨0, 3, 2, 0, 10⟩) rfl, decodeOfEncode (.nextp ⟨0x123, 0xABC⟩) rfl,
    decodeOfEncode (.mma ⟨1, 2, 3, 16⟩) rfl, decodeOfEncode (.acas ⟨33, 5, 6, 3, 56⟩) rfl, decodeOfEncode (.himm ⟨0xFEDCBA⟩) rfl,
    decodeOfEncode (.wrctl ⟨0x83, 0, 0⟩) rfl⟩

end Sys2Proof.Machine
end

section
/-! PROOFS (O3). The opcodes that no instruction has (R94), and why a word that holds one is rejected (R99). -/
namespace Sys2Proof.Machine

/-- R94: an opcode below 0xF0 that is not assigned. -/
def unassignedOpcode (n : Nat) : Bool := unassignedOpcodes.any fun r => decide (r.1 ≤ n) && decide (n ≤ r.2)

theorem unassignedOpcode_lt {n : Nat} (h : unassignedOpcode n = true) : n < 0xF0 := by
  simp only [unassignedOpcode, unassignedOpcodes, List.any_cons, List.any_nil, Bool.or_false, Bool.or_eq_true, Bool.and_eq_true, decide_eq_true_eq] at h
  omega

/-- Whether an opcode is assigned does not hang on the fields beside it; the last case is that of every opcode with no instruction. -/
theorem ofOpcode_isSome_of {op : Nat} {w : BitVec 32} (h : (ofOpcode op w).isSome = true) (v : BitVec 32) : (ofOpcode op v).isSome = true := by
  revert h
  fun_cases ofOpcode op w
  case case155 => exact nofun
  all_goals exact fun _ => rfl

/-- R94, over the 256 opcodes with all fields 0. -/
theorem ofOpcode_zero_isNone : ∀ n < 256, (ofOpcode n 0).isNone = (unassignedOpcode n || decide (0xF0 ≤ n)) := by decide +kernel

theorem ofOpcode_eq_none_iff (op : BitVec 8) (w : BitVec 32) : ofOpcode op.toNat w = none ↔ unassignedOpcode op.toNat = true ∨ 0xF0 ≤ op.toNat := by
  have hsame : (ofOpcode op.toNat w).isSome = (ofOpcode op.toNat 0).isSome :=
    Bool.eq_iff_iff.mpr ⟨fun h => ofOpcode_isSome_of h 0, fun h => ofOpcode_isSome_of h w⟩
  rw [← Option.isNone_iff_eq_none, ← Option.not_isSome, hsame, Option.not_isSome, ofOpcode_zero_isNone _ op.isLt, Bool.or_eq_true, decide_eq_true_eq]

/-- R94, R99: why a word of an opcode that no instruction has is rejected. -/
def rejection (op : BitVec 8) : DecodeError := if 0xF0 ≤ op.toNat then .reserved op else .unassigned op

theorem rejection_eq_reserved_iff {op : BitVec 8} : rejection op = .reserved op ↔ 0xF0 ≤ op.toNat := by simp [rejection]

theorem rejection_eq_unassigned_iff {op : BitVec 8} : rejection op = .unassigned op ↔ op.toNat < 0xF0 := by simp [rejection]

theorem decode_eq_error_iff {w : BitVec 32} {e : DecodeError} :
    decode w = .error e ↔ ofOpcode (w.extractLsb' 24 8).toNat w = none ∧ rejection (w.extractLsb' 24 8) = e := by
  unfold decode rejection
  split
  next j hj => rw [hj]; exact ⟨nofun, nofun⟩
  next hnone => split <;> rw [Except.error.injEq, and_iff_right hnone]

/-- Settles O3: the opcodes with no instruction are those of R94, and 0xF0 tells the two names apart. -/
theorem opcodesRejected : Obligations.OpcodesRejected := by
  intro w op
  have hrejected : ∀ e, decode w = .error e ↔ (unassignedOpcode op.toNat = true ∨ 0xF0 ≤ op.toNat) ∧ rejection op = e := fun e => by
    rw [decode_eq_error_iff, ofOpcode_eq_none_iff]
  refine ⟨?_, ?_, fun e he => ?_, rfl, rfl⟩
  · rw [hrejected, rejection_eq_unassigned_iff]
    exact ⟨fun ⟨hop, hlt⟩ => hop.resolve_right (Nat.not_le.mpr hlt), fun hop => ⟨.inl hop, unassignedOpcode_lt hop⟩⟩
  · rw [hrejected, rejection_eq_reserved_iff]
    exact ⟨And.right, fun hop => ⟨.inr hop, hop⟩⟩
  · rw [← ((hrejected e).mp he).2]
    exact (Nat.lt_or_ge op.toNat 0xF0).imp rejection_eq_unassigned_iff.mpr rejection_eq_reserved_iff.mpr

end Sys2Proof.Machine
end

section
/-! PROOFS (O5). What a step does with the head of the agenda (R149, R400, R401), and what a word that fires runs (R75, R99). -/
namespace Sys2Proof.Machine

/-! The head of the agenda -/

theorem flushed_next {u : State} (h : u.hub.stalls = []) : flushed (.next u) = .next u := by
  simp [flushed, flushStalls, stalled, h]

section
variable {s : State} {a : Act} {rest : List Act} (h : s.agenda = a :: rest)
include h

theorem step_of_allowed (hallow : actAllowed s a = none) (hresp : responds s a = true) : step s = perform a (afterHead s rest) := by
  simp only [step, h, hallow, hresp, if_true, afterHead]

theorem step_of_forbidden {e : Fault} (hallow : actAllowed s a = some e) : step s = .fault e := by
  simp only [step, h, hallow]

theorem step_of_unanswered (hallow : actAllowed s a = none) (hresp : responds s a = false) : step s = .next (afterHead s rest) := by
  simp only [step, h, hallow, hresp, afterHead, Bool.false_eq_true, if_false]

end

theorem actAllowed_powered {s : State} (h : s.pkg.power = true) (a : Act) : actAllowed s a = none := by
  unfold actAllowed
  split
  · rfl
  · rw [if_pos h]

theorem actAllowed_unpowered {s : State} (h : s.pkg.power = false) {i : Instr} (hi : ∀ r, i ≠ .powerOnStart r) :
    actAllowed s (.event i) = some .noPower := by
  unfold actAllowed
  split
  next r ha => cases ha; exact absurd rfl (hi r)
  next => simp [h]

theorem responds_in_service {s : State} (h : s.pkg.recovery = false) (a : Act) : responds s a = true := by simp [responds, h]

theorem responds_in_recovery {s : State} (h : s.pkg.recovery = true) (a : Act) : responds s a = inRecovery a := by simp [responds, h]

/-! The word that fires -/

section
variable {s : State} {vc frame idx : Nat}

theorem runFire_none (h : fetchWord s vc frame idx = none) : runFire s vc frame idx = .next s := by
  rw [runFire, h]

variable {w : BitVec 32} (h : fetchWord s vc frame idx = some w)
include h

theorem runFire_wellFormed {i : Instr} (hd : decode w = .ok i) (hi : i.wellFormed = true) :
    runFire s vc frame idx = exec i { s with focus := ⟨vc, frame, idx⟩ } := by
  simp only [runFire, h, hd, hi, if_true]

theorem runFire_illFormed {i : Instr} (hd : decode w = .ok i) (hi : i.wellFormed = false) :
    runFire s vc frame idx = .next (badWord s vc frame idx 9) := by
  simp only [runFire, h, hd, hi, Bool.false_eq_true, if_false]

theorem runFire_undecoded {e : DecodeError} (hd : decode w = .error e) : runFire s vc frame idx = .next (badWord s vc frame idx (decodeCode e)) := by
  simp only [runFire, h, hd]

end

theorem stepRunsDecodedWord : StepRunsDecodedWord := by
  intro s rest vc frame idx hs hpower hrecovery
  have hstep : step s = flushed (runFire (afterHead s rest) vc frame idx) :=
    step_of_allowed hs (actAllowed_powered hpower _) (responds_in_service hrecovery _)
  have hfetch : fetchWord (afterHead s rest) vc frame idx = fetchWord s vc frame idx := rfl
  rw [hstep, ← hfetch]
  exact ⟨fun w i hw hd hi => congrArg flushed (runFire_wellFormed hw hd hi), fun w i hw hd hi => congrArg flushed (runFire_illFormed hw hd hi),
    fun w e hw hd => congrArg flushed (runFire_undecoded hw hd), fun hw => congrArg flushed (runFire_none hw), fun _ => flushed_next⟩

theorem stepRunsEvent : StepRunsEvent := by
  intro s rest i hs
  refine ⟨fun hpower hrecovery => step_of_allowed hs (actAllowed_powered hpower _) (responds_in_service hrecovery _),
    fun hi hpower => step_of_forbidden hs (actAllowed_unpowered hpower hi), fun hpower hrecovery => ⟨fun hi => ?_, fun hi => ?_⟩, ?_⟩
  · refine step_of_allowed hs (actAllowed_powered hpower _) ((responds_in_recovery hrecovery _).trans ?_)
    rcases hi with ⟨_, rfl⟩ | ⟨_, _, rfl⟩ | rfl | ⟨_, rfl⟩ | rfl | ⟨_, rfl⟩ <;> rfl
  · refine step_of_unanswered hs (actAllowed_powered hpower _) ((responds_in_recovery hrecovery _).trans ?_)
    rcases hi with ⟨_, _, rfl⟩ | ⟨_, _, rfl⟩ | ⟨_, rfl⟩ | ⟨_, _, rfl⟩ | ⟨_, rfl⟩ | ⟨_, rfl⟩ <;> rfl
  · rintro ⟨r, rfl⟩
    exact step_of_allowed hs rfl (Bool.or_true _)

/-- Settles O5: a step runs the word or the event at the head of the agenda. -/
theorem stepRunsDecodedWordOrEvent : Obligations.StepRunsDecodedWordOrEvent := ⟨stepRunsDecodedWord, stepRunsEvent⟩

end Sys2Proof.Machine
end

section
/-! PROOFS (O16). Lanes of an integer operand and of a result (R33, R182), and the integer comparisons (R90, R193). -/
namespace Sys2Proof.Machine

/-! Lanes (R33, R182) -/

theorem lane_zero (w v : Nat) : lane w v 0 = v % 2 ^ w := by simp [lane, bits]

theorem lane_succ (w v j : Nat) : lane w v (j + 1) = lane w (v / 2 ^ w) j := by
  simp only [lane, bits, Nat.shiftRight_eq_div_pow, Nat.div_div_eq_div_mul, ← Nat.pow_add]
  rw [Nat.succ_mul, Nat.add_comm]

theorem lane_ofLanes (w : Nat) (l : List Nat) {j : Nat} (hj : j < l.length) : lane w (ofLanes w l) j = l[j] % 2 ^ w := by
  induction l generalizing j with
  | nil => simp at hj
  | cons a r ih =>
    cases j with
    | zero => rw [lane_zero, ofLanes, Nat.add_mul_mod_self_left, Nat.mod_mod, List.getElem_cons_zero]
    | succ j =>
      have hlow : a % 2 ^ w / 2 ^ w = 0 := Nat.div_eq_of_lt (Nat.mod_lt _ (Nat.two_pow_pos w))
      rw [lane_succ, ofLanes, Nat.add_mul_div_left _ _ (Nat.two_pow_pos w), hlow, Nat.zero_add, ih (Nat.lt_of_succ_lt_succ hj),
        List.getElem_cons_succ]

theorem ofLanes_lt (w : Nat) (l : List Nat) : ofLanes w l < 2 ^ (l.length * w) := by
  induction l with
  | nil => simp [ofLanes]
  | cons a r ih =>
    calc ofLanes w (a :: r) < 2 ^ w + 2 ^ w * ofLanes w r := Nat.add_lt_add_right (Nat.mod_lt _ (Nat.two_pow_pos w)) _
      _ = 2 ^ w * (ofLanes w r + 1) := by rw [Nat.mul_succ, Nat.add_comm]
      _ ≤ 2 ^ w * 2 ^ (r.length * w) := Nat.mul_le_mul_left _ ih
      _ = 2 ^ ((a :: r).length * w) := by rw [← Nat.pow_add, List.length_cons, Nat.succ_mul, Nat.add_comm]

theorem intLanes_width : ∀ ty, (intLanes ty).1 * laneWidth ty = intWidth ty
  | 0 | 1 | 2 | 3 | 4 | 5 | 6 | _ + 7 => rfl

section
variable (ty : Nat) (f : Nat → Bool → Nat → Nat → Nat → Nat) (a b c : Nat)

theorem onLanes_eq : onLanes ty f a b c = ofLanes (laneWidth ty) ((List.range (intLanes ty).1).map fun j =>
    f (laneWidth ty) (laneSigned ty) (lane (laneWidth ty) a j) (lane (laneWidth ty) b j) (lane (laneWidth ty) c j)) := rfl

theorem onLanes_lt : onLanes ty f a b c < 2 ^ intWidth ty := by
  rw [onLanes_eq, ← intLanes_width]
  exact (ofLanes_lt _ _).trans_eq (by rw [List.length_map, List.length_range])

theorem lane_onLanes {j : Nat} (hj : j < (intLanes ty).1) : lane (laneWidth ty) (onLanes ty f a b c) j =
    f (laneWidth ty) (laneSigned ty) (lane (laneWidth ty) a j) (lane (laneWidth ty) b j) (lane (laneWidth ty) c j) % 2 ^ laneWidth ty := by
  rw [onLanes_eq, lane_ofLanes _ _ (by simpa using hj), List.getElem_map, List.getElem_range]

end

/-- The lane of a scalar type holds the number that its operand holds. -/
theorem laneInt_lane_zero (w : Nat) (sg : Bool) (v : Nat) : laneInt w sg (lane w v 0) = laneInt w sg v := by
  rw [lane_zero]
  cases sg <;> simp [laneInt, toSigned]

/-! Comparisons (R90, R193) -/

theorem intCmp_scalar {ty : Nat} (h : ty ≤ 3) (cond a b : Nat) :
    intCmp ty cond a b = (intCond cond (laneInt (laneWidth ty) (laneSigned ty) a) (laneInt (laneWidth ty) (laneSigned ty) b)).toNat := by
  match ty, h with
  | 0, _ | 1, _ | 2, _ | 3, _ => rfl

theorem intCond_iff {c : BitVec 4} (hc : c.toNat ≤ 5) (a b : Int) : intCond c.toNat a b = true ↔
    (c = 0 ∧ a = b) ∨ (c = 1 ∧ a ≠ b) ∨ (c = 2 ∧ a < b) ∨ (c = 3 ∧ a ≤ b) ∨ (c = 4 ∧ b < a) ∨ (c = 5 ∧ b ≤ a) := by
  have hcases : c = 0 ∨ c = 1 ∨ c = 2 ∨ c = 3 ∨ c = 4 ∨ c = 5 := by revert c; decide
  rcases hcases with rfl | rfl | rfl | rfl | rfl | rfl <;> simp [intCond]

/-- `cmp` on a lane of a packed type (R193). -/
def laneCmp (cond w : Nat) (sg : Bool) (a b _ : Nat) : Nat := if intCond cond (laneInt w sg a) (laneInt w sg b) then 2 ^ w - 1 else 0

theorem intCmp_packed {ty : Nat} (h : 4 ≤ ty) (cond a b c : Nat) : intCmp ty cond a b = onLanes ty (laneCmp cond) a b c := by
  obtain ⟨n, rfl⟩ := Nat.exists_eq_add_of_le' h
  match n with
  | 0 | 1 | 2 | _ + 3 => rfl

theorem laneCmp_lt (cond w : Nat) (sg : Bool) (a b c : Nat) : laneCmp cond w sg a b c < 2 ^ w := by
  have hpos := Nat.two_pow_pos w
  unfold laneCmp
  split
  · exact Nat.sub_lt hpos Nat.one_pos
  · exact hpos

theorem lane_intCmp {ty j : Nat} (h : 4 ≤ ty) (hj : j < (intLanes ty).1) (cond a b : Nat) : lane (laneWidth ty) (intCmp ty cond a b) j =
    laneCmp cond (laneWidth ty) (laneSigned ty) (lane (laneWidth ty) a j) (lane (laneWidth ty) b j) 0 := by
  rw [intCmp_packed h cond a b 0, lane_onLanes _ _ _ _ _ hj]
  exact Nat.mod_eq_of_lt (laneCmp_lt ..)

/-- Settles O16: the lanes are compared under the signedness of the type, and the outcome fills the token or the lane. -/
theorem integerCompare : Obligations.IntegerCompare := by
  intro s x f hc h ty w n a b holds
  let p := portVal s x (shapeCmp f)
  have hsend : exec (.cmp f) s = .next (emit s x (valTok (intCmp ty f.cond.toNat (p 0) (p 1))) 0) := (exec_cmp f s).trans (fireInt_computes rfl h)
  have hholds : ∀ j, intCond f.cond.toNat (n (a j)) (n (b j)) = true ↔ holds j := fun j => intCond_iff hc _ _
  refine ⟨fun hty => ?_, fun hty => ⟨_, hsend, ?_, fun j hj => ?_⟩⟩
  · have ha : n (a 0) = n (p 0) := laneInt_lane_zero ..
    have hb : n (b 0) = n (p 1) := laneInt_lane_zero ..
    have hval : intCmp ty f.cond.toNat (p 0) (p 1) = (intCond f.cond.toNat (n (a 0)) (n (b 0))).toNat := by rw [intCmp_scalar hty, ha, hb]
    rw [hsend, hval]
    exact ⟨fun hh => by rw [(hholds 0).mpr hh, Bool.toNat_true], fun hh => by rw [Bool.eq_false_iff.mpr (mt (hholds 0).mp hh), Bool.toNat_false]⟩
  · rw [intCmp_packed hty _ _ _ 0]
    exact onLanes_lt ..
  · rw [lane_intCmp hty hj]
    exact ⟨fun hh => if_pos ((hholds j).mpr hh), fun hh => if_neg (mt (hholds j).mp hh)⟩

end Sys2Proof.Machine
end

section
/-! PROOFS (O28). What the words that sample send: one equation for each kind of value, then the statement put together from them. -/
namespace Sys2Proof.Machine

/-! What an instance samples at its admission (R118, R148) -/

/-- Noting the cycle in which a stage becomes ready changes nothing else of an instance. -/
theorem noteReady_eq (now : Nat) (ws : List (Option Instr)) (stage : List Nat) (ins : Inst) :
    noteReady now ws stage ins = { ins with readyAt := (noteReady now ws stage ins).readyAt } := by
  unfold noteReady
  dsimp only
  split <;> rfl

theorem shapeSampled : ShapeSampled := by
  intro s t p tag g hg
  dsimp only
  rw [newInst, noteReady_eq]
  refine ⟨rfl, rfl, rfl, fun hs => ?_, fun sp hs => ⟨fun ht => ?_, fun n ht => ?_⟩⟩
  · simp [hg, provisional, hs]
  · simp [hg, provisional, gridGroups, hs, ht]
  · simp [hg, provisional, gridGroups, hs, ht]

/-! Words without operands -/

/-- A word that takes no operand is never decided by R46. -/
theorem siteGate_of_no_operand (s : State) (x : Site) {sh : Shape} (hpc : sh.pc = 0) (hins : sh.ins = []) : siteGate s x sh = none := by
  simp [siteGate, gate, dataToks, hpc, hins, predHolds, firstPoison]

/-- A word without operands sends the value that it samples. -/
theorem fireWith_samples {i : Instr} {s : State} {x : Site} {sh : Shape} {v : Site → Nat} (hi : shape i = some sh) (hf : Fires s x sh)
    (hpc : sh.pc = 0) (hins : sh.ins = []) : Sends (fireWith i s fun x _ => (valTok (v x), 0)) s x (valTok (v x)) 0 :=
  fireWith_computes hi ⟨hf, siteGate_of_no_operand s x hpc hins⟩

section
variable {s : State} {x : Site} {sh : Shape}

theorem exec_rdsys_sends {f : FmtL} (hi : shape (.rdsys f) = some sh) (hf : Fires s x sh) :
    Sends (exec (.rdsys f) s) s x (valTok (sysValue s x.t x.ins f.slot.toNat)) 0 := by
  have hsh := Option.some.inj hi
  exact fireWith_samples hi hf (by rw [← hsh]) (by rw [← hsh])

theorem exec_rdctl_sends {f : FmtS} (hi : shape (.rdctl f) = some sh) (hf : Fires s x sh) :
    Sends (exec (.rdctl f) s) s x (valTok (readCtl s x.t.ctx f.ctl.toNat)) 0 := by
  have hsh := Option.some.inj hi
  exact fireWith_samples (v := fun x => readCtl s x.t.ctx f.ctl.toNat) hi hf (by rw [← hsh]) (by rw [← hsh])

theorem exec_perf_sends {f : FmtS} (hi : shape (.perf f) = some sh) (hf : Fires s x sh) :
    Sends (exec (.perf f) s) s x (valTok (perfValue s x.t.vc x.t.ctx f.ctl.toNat)) 0 := by
  have hsh := Option.some.inj hi
  exact fireWith_samples (v := fun x => perfValue s x.t.vc x.t.ctx f.ctl.toNat) hi hf (by rw [← hsh]) (by rw [← hsh])

end

/-! The values (R201, R351, R359, R363) -/

theorem field512_lt (r : BitVec 512) (o n : Nat) : field512 r o n < 2 ^ (8 * n) := Nat.mod_lt _ (Nat.two_pow_pos _)

theorem systemValues (s : State) (x : Site) : SystemValues s x := by
  intro f sh g hi hf hg
  have hy := field512_lt g.raw 0x10 2
  have hz := field512_lt g.raw 0x12 2
  have sends : ∀ {k v}, sysValue s x.t x.ins k = v → f.slot.toNat = k → Sends (exec (.rdsys f) s) s x (valTok v) 0 := fun hv hk =>
    hv ▸ hk ▸ exec_rdsys_sends hi hf
  refine ⟨sends ?_, sends ?_, fun hn => ⟨sends ?_, sends ?_, sends ?_, sends ?_, sends ?_, sends ?_, sends ?_⟩,
    fun hn => ⟨sends ?_, fun hk => hk.elim (sends ?_) (sends ?_), sends ?_, fun hk => hk.elim (sends ?_) (sends ?_), sends ?_⟩,
    sends ?_, sends ?_, sends ?_, sends ?_, sends ?_⟩
  case refine_3 | refine_4 | refine_5 => simp [sysValue, hg, hn, groupCoords, recGroups]
  case refine_6 | refine_9 => simp [sysValue, hg, hn, gridDims, recGroups]
  case refine_7 | refine_8 => simp [sysValue, hg, hn, gridDims, recGroups]; omega
  case refine_10 | refine_11 | refine_12 | refine_13 | refine_14 | refine_15 | refine_16 =>
    simp [sysValue, hg, Option.isSome_iff_ne_none.mpr hn, groupCoords, gridDims]
  case refine_2 => simp only [sysValue, hg]; rfl
  all_goals simp only [sysValue, hg]

theorem readCtl_vct {s : State} {ctx k : Nat} {c : Ctx} {e : VctEnt} (hc : ctx? s ctx = some c) (he : s.pkg.vct[k]? = some e) :
    readCtl s ctx (0x80 + k) = e.v.toNat * 2 ^ 31 + (vctLocked s k).toNat * 2 ^ 30 + e.pcore * 2 ^ 16 + e.pcore / 18 * 2 ^ 8 := by
  have h0 : (0x80 + k == 0) = false := by simp
  have h1 : (0x80 + k == 1) = false := beq_false_of_ne (by omega)
  simp only [readCtl, hc, h0, h1, Bool.false_eq_true, if_false, Nat.le_add_right, if_true, Nat.add_sub_cancel_left, vctWord,
    List.getD_eq_getElem?_getD, he, Option.getD_some]

/-- A register of the context that CSEL names. -/
theorem readCtl_named {s : State} {ctx n : Nat} {c : Ctx} (hc : ctx? s ctx = some c) (hlo : 2 ≤ n) (hhi : n < 0x80) :
    readCtl s ctx n = ((ctx? s (c.regs.csel.toNat % 2 ^ 16)).map fun d => ctxReg d.regs n).getD 0 := by
  have h0 : (n == 0) = false := beq_false_of_ne (by omega)
  have h1 : (n == 1) = false := beq_false_of_ne (by omega)
  have h2 : ¬ 0x80 ≤ n := by omega
  simp only [readCtl, hc, h0, h1, h2, Bool.false_eq_true, if_false]
  cases ctx? s (c.regs.csel.toNat % 2 ^ 16) <;> rfl

theorem controlValues (s : State) (x : Site) : ControlValues s x := by
  intro f sh c hi hf hc
  have sends : ∀ {k v}, readCtl s x.t.ctx k = v → f.ctl.toNat = k → Sends (exec (.rdctl f) s) s x (valTok v) 0 := fun hv hk =>
    hv ▸ hk ▸ exec_rdctl_sends hi hf
  refine ⟨sends (by simp [readCtl, hc]), sends (by simp [readCtl, hc]), fun hlo hhi hnone => sends (by rw [readCtl_named hc hlo hhi, hnone]; rfl) rfl,
    fun d hd => ?_, fun k e hk he => sends (readCtl_vct hc he) hk⟩
  have reg : ∀ {k v}, 2 ≤ k → k < 0x80 → ctxReg d.regs k = v → f.ctl.toNat = k → Sends (exec (.rdctl f) s) s x (valTok v) 0 :=
    fun hlo hhi hv => sends (by rw [readCtl_named hc hlo hhi, hd]; exact hv)
  refine ⟨?_, ?_, ?_, ?_, ?_, ?_, ?_, ?_, ?_, ?_, ?_, ?_, ?_, ?_, ?_⟩ <;> exact reg (by decide) (by decide) rfl

theorem perfValues (s : State) (x : Site) : PerfValues s x := by
  intro f sh c hi hf hc
  have sends : ∀ {v}, perfValue s x.t.vc x.t.ctx f.ctl.toNat = v → Sends (exec (.perf f) s) s x (valTok v) 0 := fun hv =>
    hv ▸ exec_perf_sends hi hf
  refine ⟨fun hnone => sends (by simp [perfValue, hc, hnone]), fun m hm => ⟨?_, ?_, ?_, ?_, ?_⟩⟩ <;>
    exact fun hn => sends (by simp [perfValue, hc, hm, hn])

/-- What `xget` makes of an exchange slot (R351): null where it is empty, poison where it is marked, else its value. -/
theorem xgetTok_cases {s : State} {t : Thread} {tid : Nat} {xs : List Slot} (h : xsShown? s t tid = some xs) (n : Nat) :
    let e := xs.getD n Slot.empty
    (e.pres = false → xgetTok s t tid n = .null) ∧ (e.pres = true → e.mark = true → xgetTok s t tid n = .poison e.val) ∧
    (e.pres = true → e.mark = false → xgetTok s t tid n = valTok e.val.toNat) := by
  intro e
  have htok : xgetTok s t tid n = if !e.pres then .null else if e.mark then .poison e.val else valTok e.val.toNat := by rw [xgetTok, h]
  rw [htok]
  clear_value e
  exact ⟨fun hp => by simp [hp], fun hp hm => by simp [hp, hm], fun hp hm => by simp [hp, hm]⟩

/-- Settles O28: each word sends what its function of the state gives, and that function is read off case by case. -/
theorem movesAndSamples : Obligations.MovesAndSamples := by
  refine ⟨shapeSampled, fun s x => ⟨systemValues s x, controlValues s x, perfValues s x, fun f sh hi hc hold => ⟨fun m hm => ?_, fun hnone => ?_⟩,
    fun f sh o hi hc ho => ?_, fun f sh => exec_rdctl_sends, fun f sh => exec_perf_sends, fun f sh hi hc => ?_⟩⟩
  case refine_4 => rw [exec_mov_fireWith]; exact fireWith_computes hi hc
  all_goals
    have sends : ∀ tok, xgetTok s x.t (portVal s x sh 0) (f.slot.toNat % 8) = tok → Sends (exec (.xget f) s) s x tok 0 := fun tok ht =>
      ht ▸ fireWith_computes (f := fun x sh => (xgetTok s x.t (portVal s x sh 0) (f.slot.toNat % 8), 0)) hi hc
  · have hshown : xsShown? s x.t (portVal s x sh 0) = some m.xs := by simp only [xsShown?, hold, List.find?_nil, hm, Option.map_some]
    obtain ⟨hempty, hpoison, hval⟩ := xgetTok_cases hshown (f.slot.toNat % 8)
    exact ⟨fun hp => sends _ (hempty hp), fun hp hk => sends _ (hpoison hp hk), fun hp hk => sends _ (hval hp hk)⟩
  · have hshown : xsShown? s x.t (portVal s x sh 0) = none := by simp only [xsShown?, hold, List.find?_nil, hnone, Option.map_none]
    exact sends _ (by rw [xgetTok, hshown])
  · have hshown : xsShown? s x.t (portVal s x sh 0) = some o.xs := by simp only [xsShown?, ho]
    obtain ⟨hempty, hpoison, hval⟩ := xgetTok_cases hshown (f.slot.toNat % 8)
    exact ⟨fun hp => sends _ (hempty hp), fun hp hk => sends _ (hpoison hp hk), fun hp hk => sends _ (hval hp hk)⟩

end Sys2Proof.Machine
end

section
/-! PROOFS (O48). Launch: what an observed signal, a record at the head of the direct queue, a write of SIGT_N and a release leave (R102 to R115). -/
namespace Sys2Proof.Machine

/-! Look-ups, and acts of the hub that do not stop -/

theorem ctx_num {s : State} {n : Nat} {c : Ctx} (h : ctx? s n = some c) : c.num = n := by simpa using List.find?_some h

theorem foldl_of_fixed {α β : Type} {f : β → α → β} {b : β} : ∀ {l : List α}, (∀ a ∈ l, f b a = b) → l.foldl f b = b
  | [], _ => rfl
  | a :: l, h => by
    rw [List.foldl_cons, h a List.mem_cons_self]
    exact foldl_of_fixed fun a ha => h a (List.mem_cons_of_mem _ ha)

/-- Holding requests for pages notes no stop of the act. -/
theorem holdRequests_stalls (s : State) (l : List HubStall) : (holdRequests s l).hub.stalls = s.hub.stalls := by
  refine foldl_field (g := fun s => s.hub.stalls) (fun s m => ?_) l s
  dsimp only
  split
  · rfl
  · rfl

/-- What stops while a record is posted is no stop of the act (R369). -/
theorem postEvent_stalls (s : State) (r : EvRec) : (postEvent s r).hub.stalls = s.hub.stalls := by
  unfold postEvent
  split
  · rfl
  · split
    · rfl
    · dsimp only
      split
      · rfl
      · exact holdRequests_stalls ..

/-- An act of the hub none of whose accesses stops. -/
theorem hubAct_of_calm {s : State} {f : State → State} (h : (f (setStalls s [])).hub.stalls = []) : hubAct s f = f (setStalls s []) := by
  have hcalm : stalled (f (setStalls s [])) = false := by simp [stalled, h]
  unfold hubAct
  dsimp only
  rw [hcalm]
  rfl

/-! Signals observed (R103, R114, R391) -/

/-- The watched signals of every context, each seen at one value if it stands at the address. -/
theorem exec_signalWriteObserved {s : State} {pa : Nat} {v : BitVec 64} {rest : List (Nat × BitVec 64)} (h : s.hub.sigWrites = (pa, v) :: rest) :
    exec .signalWriteObserved s = .next (s.ctxs.foldl (fun s c => c.sigs.foldl (fun s e => if e.pa == some pa then observeSignal s c.num e.n v else s) s)
      { s with hub := { s.hub with sigWrites := rest } }) := by
  show execSignalWriteObserved s = _
  unfold execSignalWriteObserved
  rw [h]

/-- A write to an address that nothing watches changes nothing more. -/
theorem exec_signalWriteObserved_unwatched {s : State} {pa : Nat} {v : BitVec 64} {rest : List (Nat × BitVec 64)}
    (h : s.hub.sigWrites = (pa, v) :: rest) (hw : ∀ c ∈ s.ctxs, ∀ e ∈ c.sigs, e.pa ≠ some pa) :
    exec .signalWriteObserved s = .next { s with hub := { s.hub with sigWrites := rest } } := by
  rw [exec_signalWriteObserved h]
  exact congrArg _ (foldl_of_fixed fun c hc => foldl_of_fixed fun e he => if_neg (by simpa using hw c hc e he))

/-- Where one context watches one signal, its word's write observes that signal. -/
theorem exec_signalWriteObserved_one {s : State} {c : Ctx} {n pa : Nat} {v : BitVec 64} {rest : List (Nat × BitVec 64)}
    (h : s.hub.sigWrites = (pa, v) :: rest) (hctx : s.ctxs = [c]) (hsig : c.sigs = [⟨n, some pa⟩]) :
    exec .signalWriteObserved s = .next (observeSignal { s with hub := { s.hub with sigWrites := rest } } c.num n v) := by
  rw [exec_signalWriteObserved h]
  generalize { s with hub := { s.hub with sigWrites := rest } } = u
  simp [hctx, hsig]

theorem sigField_index {v n : Nat} (h : sigField v = some n) : bits v 0 12 = n := by
  unfold sigField at h
  split at h
  · exact Option.some.inj h
  · cases h

/-- The entries of the only context that watches the address fire as `notified` says. -/
theorem fireNotify_eq {s : State} {c : Ctx} {n pa : Nat} (hc : ctx? s c.num = some c) (hsig : c.sigs = [⟨n, some pa⟩]) (v : BitVec 64) :
    fireNotify s c.num n v = { s with ap := { s.ap with notify := notified s.ap.notify c.num n pa v } } := by
  have hmap : ∀ e : Notify, (if (e.ctx.toNat == c.num && sigField e.nsig.toNat == some n && decide (v ≤ e.thr)) = true then fireEntry s e else e) =
      if e.ctx.toNat = c.num ∧ sigField e.nsig.toNat = some n ∧ v ≤ e.thr then
        { e with nsig := e.nsig &&& 0x7FFF, due := e.due ++ [(e.vec.toNat, some pa)] } else e := by
    intro e
    by_cases hhit : e.ctx.toNat = c.num ∧ sigField e.nsig.toNat = some n ∧ v ≤ e.thr
    · obtain ⟨hctx, hn, hv⟩ := hhit
      have hpa : ((ctx? s e.ctx.toNat).bind fun c => (c.sigs.find? fun x => x.n == bits e.nsig.toNat 0 12).bind (·.pa)) = some pa := by
        rw [hctx, hc, sigField_index hn]
        simp [hsig]
      rw [if_pos (by simp [hctx, hn, hv]), if_pos ⟨hctx, hn, hv⟩]
      simp only [fireEntry, hpa]
    · rw [if_neg (by simpa [and_assoc] using hhit), if_neg hhit]
  exact congrArg (fun l => { s with ap := { s.ap with notify := l } }) (List.map_congr_left fun e _ => hmap e)

/-- Where no grid, thread or group depends on a signal, its entries fire and the heads of its context are tested. -/
theorem observeSignal_heads {s : State} {ctx : Nat} {c : Ctx} (hc : ctx? s ctx = some c) (hphase : c.regs.phase < 7)
    (hg : s.grids = []) (ht : s.threads = []) (hgr : s.groups = []) (n : Nat) (v : BitVec 64) :
    observeSignal s ctx n v = c.heads.foldl (fun s h => observeHead s c h n v) (fireNotify s ctx n v) := by
  have hg1 : (fireNotify s ctx n v).grids = [] := hg
  have ht1 : (fireNotify s ctx n v).threads = [] := ht
  have hgr1 : (fireNotify s ctx n v).groups = [] := hgr
  have hc1 : ctx? (fireNotify s ctx n v) ctx = some c := hc
  have hph : ¬ 7 ≤ phaseOf s ctx := by simp [phaseOf, hc, hphase]
  simp only [observeSignal, hg1, ht1, hgr1, List.foldl_nil, hph, if_false, hc1]

/-- A head that waits on the observed signal alone is eligible exactly when the value is at or below its threshold (R114). -/
theorem observeHead_waits {s : State} {c : Ctx} {h : QHead} {r : BitVec 512} {n : Nat} (v : BitVec 64) (hraw : h.raw = some r) (htail : h.tsig ≠ some n)
    (hwait : sigField (field512 r 0x30 2) = some n) (hnone : sigField (field512 r 0x32 2) = none) :
    observeHead s c h n v = setHead s c.num { h with eligible := decide (v.toNat ≤ field512 r 0x34 4) } := by
  have hok : waitsHold s c.num r (some (n, v)) = (s, decide (v.toNat ≤ field512 r 0x34 4)) := by simp [waitsHold, hwait, hnone, Option.filter]
  unfold observeHead
  simp [hraw, hwait, hok, htail]

theorem signalWatchersSee : SignalWatchersSee := by
  intro s
  refine ⟨fun hnone => ?_, fun pa v rest hw => ⟨exec_signalWriteObserved_unwatched hw, fun c n hctx hsig hphase hg ht hgr => ?_⟩⟩
  · show execSignalWriteObserved s = _
    rw [execSignalWriteObserved, hnone]
  · have hc : ctx? { s with hub := { s.hub with sigWrites := rest } } c.num = some c := by simp [ctx?, hctx]
    rw [exec_signalWriteObserved_one hw hctx hsig, observeSignal_heads hc hphase hg ht hgr, fireNotify_eq hc hsig]
    refine ⟨fun hheads => by rw [hheads]; rfl, fun h r hheads hraw htail hwait hnone => ?_⟩
    rw [hheads, List.foldl_cons, List.foldl_nil, observeHead_waits v hraw htail hwait hnone]
    simp [setHead, modCtx, modWhere, hctx, hheads]

/-! The direct queue (R109, R112, R113) -/

/-- The oldest record of a direct queue with an empty head is taken to the head. -/
theorem recordReachesHead_direct {s : State} {ctx : Nat} {c : Ctx} {r : BitVec 512} {rest : List (BitVec 512)} (hc : ctx? s ctx = some c)
    (hphase : c.regs.phase < 7) (hhead : head? c 64 = none) (hdir : c.direct = r :: rest) :
    recordReachesHead s ctx 64 = takeHead s c { QHead.fresh 64 with recNo := c.directN - c.direct.length } r := by
  have hph : ¬ 7 ≤ c.regs.phase := Nat.not_le.mpr hphase
  simp [recordReachesHead, hc, hhead, hdir, QHead.fresh, hph]

theorem waitsHold_none (s : State) (ctx : Nat) {r : BitVec 512} (h0 : sigField (field512 r 0x30 2) = none) (h1 : sigField (field512 r 0x32 2) = none)
    (seen : Option (Nat × BitVec 64)) : waitsHold s ctx r seen = (s, true) := by simp [waitsHold, h0, h1]

/-- A record passed at the head of the direct queue leaves it, and only its context changes. -/
theorem passHead_direct (s : State) (c : Ctx) {h : QHead} (hq : h.q = 64) :
    passHead s c h = modCtx (setHead s c.num { h with raw := none, eligible := false }) c.num fun c => { c with direct := c.direct.drop 1 } := by
  simp [passHead, hq]

theorem direct_setHead (s : State) (ctx : Nat) (h : QHead) : (ctx? (setHead s ctx h) ctx).map (·.direct) = (ctx? s ctx).map (·.direct) := by
  unfold setHead
  rw [ctx_modCtx_same, Option.map_map]
  · exact congrArg (Option.map · _) (funext fun c => by simp only [Function.comp]; split <;> rfl)
  · intro c; split <;> rfl

theorem direct_passHead {s : State} {c : Ctx} {h : QHead} (hq : h.q = 64) (hc : ctx? s c.num = some c) :
    (ctx? (passHead s c h) c.num).map (·.direct) = some (c.direct.drop 1) := by
  have hkeep := direct_setHead s c.num { h with raw := none, eligible := false }
  rw [hc, Option.map_some] at hkeep
  rw [passHead_direct s c hq, ctx_modCtx_same]
  · have hdrop := congrArg (Option.map (List.drop 1)) hkeep
    rw [Option.map_map] at hdrop ⊢
    exact hdrop
  · exact fun _ => rfl

theorem takeHead_waitless {s : State} {c : Ctx} {r : BitVec 512} (h : QHead) (hok : recCheck c r = none)
    (h0 : sigField (field512 r 0x30 2) = none) (h1 : sigField (field512 r 0x32 2) = none) :
    takeHead s c h r = setHead s c.num { h with raw := some r, eligible := true } := by
  unfold takeHead
  rw [hok, waitsHold_none s c.num h0 h1]

theorem takeHead_refuses {s : State} {c : Ctx} {r : BitVec 512} {code : Nat} (h : QHead) (hbad : recCheck c r = some code) :
    takeHead s c h r = postEvent (passHead s c h) (plainRec c.num 2 13 (launchDetail code h.q h.recNo) 0 0) := by
  unfold takeHead
  rw [hbad]
  rfl

theorem exec_recordReachesHead (ctx q : Nat) (s : State) :
    exec (.recordReachesHead ctx q) s = .next (hubAct s fun s => recordReachesHead s ctx q) := rfl

theorem directRecordsReachHead : DirectRecordsReachHead := by
  intro s ctx c r rest hc hphase hhead hdir n
  have hnum := ctx_num hc
  subst hnum
  have hc0 : ctx? (setStalls s []) c.num = some c := hc
  have htake := recordReachesHead_direct hc0 hphase hhead hdir
  rw [exec_recordReachesHead]
  refine ⟨fun hok h0 h1 => ?_, fun code hbad => ?_⟩
  · rw [takeHead_waitless _ hok h0 h1] at htake
    rw [hubAct_of_calm, htake]
    rw [htake, setHead_hub]
    rfl
  · rw [takeHead_refuses _ hbad] at htake
    have hpass := passHead_direct (setStalls s []) c (h := { QHead.fresh 64 with recNo := n }) rfl
    refine ⟨passHead (setStalls s []) c { QHead.fresh 64 with recNo := n }, ?_, by rw [hpass]; rfl, ?_⟩
    · rw [hubAct_of_calm, htake]
      · rfl
      · rw [htake, postEvent_stalls, hpass]
        rfl
    · rw [direct_passHead rfl hc0, hdir]
      rfl

/-! SIGT_N (R102) -/

/-- Where a context has read no entry, none is read again. -/
theorem rewatch_unread {s : State} {ctx : Nat} {c : Ctx} (hc : ctx? s ctx = some c) (hsig : c.sigs = []) (p : SigEnt → Bool) :
    rewatch s ctx p = modCtx s ctx fun c => { c with sigs := c.sigs.filter fun e => !p e } := by simp [rewatch, hc, hsig]

theorem exec_sigtNWrite (ctx : Nat) (v : BitVec 32) (s : State) : exec (.sigtNWrite ctx v) s = .next (writeSigtN s ctx v) := rfl

theorem sigtNWritten : SigtNWritten := by
  intro s ctx v others
  have hwrite : writeSigtN s ctx v = if 4096 < others + v.toNat then s
      else rewatch (modCtx s ctx fun c => { c with regs := { c.regs with sigtN := v } }) ctx fun _ => true := by
    rw [writeSigtN, ← List.sum_eq_foldl_nat]
  rw [exec_sigtNWrite, hwrite]
  refine ⟨fun hover => by rw [if_pos hover], fun hfits c hc hsig => ?_⟩
  have hc1 : ctx? (modCtx s ctx fun c => { c with regs := { c.regs with sigtN := v } }) ctx = some { c with regs := { c.regs with sigtN := v } } := by
    rw [ctx_modCtx_same, hc]
    · rfl
    · exact fun _ => rfl
  rw [if_neg (Nat.not_lt.mpr hfits), rewatch_unread hc1 hsig]
  refine ⟨_, rfl, rfl, ?_, fun k hk => ?_⟩
  · rw [ctx_modCtx_same, hc1]
    · simp [hsig]
    · exact fun _ => rfl
  · rw [ctx_modCtx_other _ _ (by exact fun _ => rfl) hk, ctx_modCtx_other _ _ (by exact fun _ => rfl) hk]

/-! Release (R111, R115) -/

/-- The grid that a release makes of a head whose launch is not speculative, with its tables as read. -/
def releasedGrid (id : Nat) (c : Ctx) (h : QHead) (raw : BitVec 512) (u b l : List Byte) : Grid :=
  { id := id, ctx := c.num, raw := raw, unif := (wordsOf 4 (if recKsel raw then 128 else 64) u).map (BitVec.ofNat 32)
    bufs := (wordsOf 16 16 b).map (BitVec.ofNat 128), dptrs := (wordsOf 8 8 l).map (BitVec.ofNat 64)
    onum := ((c.objs.find? fun o => o.addr == field512 raw 0 8).map (·.onum)).getD 0, kidx := field512 raw 8 2, queue := h.q, recNo := h.recNo, nextG := 0
    spec := none, nRet := 0, nSquash := 0, owed := [], owedAll := false, ended := false, seen := [] }

/-- A grid of no speculative launch none of whose groups is handed out is not settled: every dimension has a group. -/
theorem gridSettled_unstarted (s : State) {g : Grid} (hspec : g.spec = none) (hnext : g.nextG = 0) : gridSettled s g = false := by
  have hpos : 0 < gridGroups g := by simp [gridGroups, hspec, recGroups]
  have hmore : ¬ gridGroups g ≤ g.nextG := by omega
  simp [gridSettled, hspec, hmore]

/-- A grid that is not settled stays as it is. -/
theorem mem_closeGrids {s : State} {g : Grid} (hg : g ∈ s.grids) (hopen : gridSettled s g = false) : g ∈ (closeGrids s).grids := by
  refine List.mem_map.mpr ⟨g, List.mem_filter.mpr ⟨hg, ?_⟩, ?_⟩
  · simp [gridEnds, hopen]
  · simp [hopen]

section
variable {s s1 s2 s3 : State} {c : Ctx} {h : QHead} {r : BitVec 512} {u b l : List Byte}

/-- The state in which a release has made its grid, before the record leaves the queue. -/
def withGrid (s : State) (now : Nat) (c : Ctx) (h : QHead) (g : Grid) : State :=
  { s with nextId := s.nextId + 1, grids := s.grids ++ [g], hub := { s.hub with lastRelease := now + 8, rrCtx := c.num, rrQueue := h.q } }

theorem releaseHead_plain (hspec : recSpec r = false)
    (hu : readTable s c (recCid r) (field512 r 0x20 8 : Int) (4 * if recKsel r then 128 else 64) = (s1, some u))
    (hb : readTable s1 c (recCid r) ((field512 r 0x20 8 : Int) + 16 * toSigned 32 (field512 r 0x28 4)) 256 = (s2, some b))
    (hl : readTable s2 c (recCid r) ((field512 r 0x20 8 : Int) + 16 * toSigned 32 (field512 r 0x2C 4)) 64 = (s3, some l)) :
    releaseHead s c h r = closeGrids (passHead (withGrid s3 (hubNow s) c h (releasedGrid s3.nextId c h r u b l)) c h) := by
  unfold releaseHead
  simp only [hu, hb, hl, hspec, Bool.false_eq_true, if_false]
  rfl

/-- Of one eligible head, the release is that of the head, where no access of it stops. -/
theorem releaseFirst_one (hcalm : (releaseHead (setStalls s []) c h r).hub.stalls = []) :
    releaseFirst 1 [(c, h, r)] s = releaseHead (setStalls s []) c h r := by
  have hst : stalled (releaseHead (setStalls s []) c h r) = false := by simp [stalled, hcalm]
  simp only [releaseFirst, leastBy, hst, Bool.false_eq_true, if_false]

theorem exec_launchRelease_due (hwin : s.hub.lastRelease ≤ hubNow s) (hroom : s.grids.length < 1024) :
    exec .launchRelease s = .next (releaseFirst (eligibleHeads s).length (eligibleHeads s) s) :=
  if_neg (by simp [hwin, hroom])

theorem exec_launchRelease_early (h : hubNow s < s.hub.lastRelease ∨ 1024 ≤ s.grids.length) : exec .launchRelease s = .next s :=
  if_pos (by simpa using h)

end

theorem releaseMakesGrid : ReleaseMakesGrid := by
  intro s s1 s2 s3 c h r u b l hel hwin hroom hq hspec cid utab n hu hb hl hcalm
  have hreads : HubOnly (setStalls s []) s3 :=
    fst_hubOnly hl (readTable_hubOnly _ _ _ _ _ (fst_hubOnly hb (readTable_hubOnly _ _ _ _ _ (fst_hubOnly hu (readTable_hubOnly _ _ _ _ _ (.refl _))))))
  obtain ⟨-, -, hid, -, -, -, -, -, hgroups, hthreads, hsent, -⟩ := hreads
  have heffects : s3.effects.length = s.effects.length := by simpa [sentOf] using congrArg List.length hsent
  let g := releasedGrid s3.nextId c h r u b l
  let w := withGrid s3 (hubNow s) c h g
  have hrel : releaseHead (setStalls s []) c h r = closeGrids (passHead w c h) := releaseHead_plain hspec hu hb hl
  have hpass := passHead_direct w c hq
  refine ⟨closeGrids (passHead w c h), ?_, ?_⟩
  · rw [exec_launchRelease_due hwin hroom, hel]
    refine congrArg Host.Outcome.next ((releaseFirst_one ?_).trans hrel)
    rw [hrel, hpass]
    exact hcalm
  · have hmem : g ∈ (passHead w c h).grids := by rw [hpass]; exact List.mem_append_right _ (List.mem_singleton_self g)
    have hstays : g ∈ (closeGrids (passHead w c h)).grids := mem_closeGrids hmem (gridSettled_unstarted _ rfl rfl)
    have hkept : ∀ v, v = passHead w c h → v.hub = w.hub ∧ v.threads = w.threads ∧ v.groups = w.groups ∧ v.effects = w.effects := by
      intro v hv; rw [hv, hpass]; exact ⟨rfl, rfl, rfl, rfl⟩
    obtain ⟨hhub, hth, hgr, hef⟩ := hkept _ rfl
    refine ⟨congrArg (·.lastRelease) hhub, congrArg (·.rrCtx) hhub, (congrArg (·.rrQueue) hhub).trans hq, hth.trans hthreads, hgr.trans hgroups,
      (congrArg List.length hef).trans heffects, g, hstays, hid, rfl, rfl, rfl, hq, rfl, rfl, rfl, rfl, rfl, rfl⟩

/-- Settles O48: an observed write, a record at a head, a write of SIGT_N and a release are each their function of the state, and what it leaves is the
four lemmas above. -/
theorem launchEventsComplete : Obligations.LaunchEventsComplete :=
  ⟨fun _ => ⟨fun _ _ _ hw => exec_signalWriteObserved hw, fun ctx q => exec_recordReachesHead ctx q _, exec_launchRelease_due, exec_launchRelease_early,
    fun ctx v => exec_sigtNWrite ctx v _⟩, signalWatchersSee, directRecordsReachHead, sigtNWritten, releaseMakesGrid⟩

end Sys2Proof.Machine
end

section
/-! PROOFS (O50, the events). When a group or a grid meets a rule's conditions its event runs the rule's act (R116, R117, R125, R126, R129, R389, R390). -/
namespace Sys2Proof.Machine

/-! States that differ in their cores -/

/-- Nothing but cores differs. -/
def CoresOnly (s t : State) : Prop := t = { s with cores := t.cores }

theorem CoresOnly.refl (s : State) : CoresOnly s s := rfl

theorem CoresOnly.trans {s t u : State} (h : CoresOnly s t) (k : CoresOnly t u) : CoresOnly s u := by
  unfold CoresOnly at h k ⊢
  rw [k, h]

theorem CoresOnly.keeps {s t : State} (h : CoresOnly s t) : t.hub = s.hub ∧ t.grids = s.grids ∧ t.groups = s.groups ∧ t.threads = s.threads ∧
    t.effects = s.effects ∧ t.clock = s.clock := by
  rw [h]; exact ⟨rfl, rfl, rfl, rfl, rfl, rfl⟩

theorem modCore_coresOnly (s : State) (vc : Nat) (f : Core → Core) : CoresOnly s (modCore s vc f) := rfl

theorem foldl_coresOnly {α : Type} {f : State → α → State} (hf : ∀ s a, CoresOnly s (f s a)) (l : List α) (s : State) : CoresOnly s (l.foldl f s) := by
  induction l generalizing s with
  | nil => exact .refl s
  | cons a l ih => exact (hf s a).trans (ih (f s a))

theorem takeUnits_coresOnly (s : State) (vc ctx base n : Nat) : CoresOnly s (takeUnits s vc ctx base n) :=
  foldl_coresOnly (fun s _ => modCore_coresOnly s vc _) _ s

theorem takeSlots_coresOnly (s : State) (vc ctx : Nat) (l : List Nat) : CoresOnly s (takeSlots s vc ctx l) :=
  foldl_coresOnly (fun s _ => modCore_coresOnly s vc _) _ s

theorem putSlotsBack_coresOnly (s : State) (vc ctx : Nat) (l : List (Nat × OpSlot)) : CoresOnly s (putSlotsBack s vc ctx l) :=
  foldl_coresOnly (fun s _ => modCore_coresOnly s vc _) _ s

theorem applyClaim_coresOnly (s : State) (vc : Nat) (o : Op) : CoresOnly s (applyClaim s vc o) := by
  refine (foldl_coresOnly (fun s u => ?_) _ s).trans (modCore_coresOnly _ vc _)
  split
  · exact modCore_coresOnly s vc _
  · split
    · unfold claimUnit
      split
      · exact modCore_coresOnly s vc _
      · exact modCore_coresOnly s vc _
    · dsimp only
      split
      · exact modCore_coresOnly s vc _
      · exact modCore_coresOnly s vc _

theorem settleOps_coresOnly (s : State) (vc : Nat) : CoresOnly s (settleOps s vc) := by
  refine foldl_coresOnly (fun s o => ?_) _ s
  split
  · exact applyClaim_coresOnly s vc o
  · exact .refl s

theorem releaseUnits_coresOnly (s : State) (vc grid gi : Nat) : CoresOnly s (releaseUnits s vc grid gi) :=
  (modCore_coresOnly s vc _).trans (modCore_coresOnly _ vc _)

/-- The rest of the state in which a core has taken a group: the numbers, the group and its threads. -/
theorem acceptGroup_coresOnly (s : State) (g : Grid) (gi vd vc : Nat) :
    CoresOnly { s with
      nextId := (acceptGroup s g gi vd vc).nextId, groups := (acceptGroup s g gi vd vc).groups, threads := (acceptGroup s g gi vd vc).threads }
      (acceptGroup s g gi vd vc) := by
  have h := (takeUnits_coresOnly s vc g.ctx ((freeUnits? s vc (recSpadu g.raw)).getD 0) (recSpadu g.raw)).trans
    (takeSlots_coresOnly _ vc g.ctx (freeSlots s vc (recOpsl g.raw)))
  unfold acceptGroup
  dsimp only
  rw [h]
  rfl

/-! The events -/

/-- How many groups of a hub cycle have gone out with this one (R116). -/
def handNumber (s : State) : Nat := if s.hub.handCycle == hubNow s then s.hub.handCount + 1 else 1

theorem exec_groupHandout_return {s : State} {gr : Group} {sv : Saved} {vc : Nat} (hroom : s.hub.handCycle = hubNow s → s.hub.handCount < 8)
    (hret : nextReturn? s = some (gr, sv, vc)) : exec .groupHandout s = .next { restoreTo s gr sv vc with
      hub := { (restoreTo s gr sv vc).hub with handCycle := hubNow (restoreTo s gr sv vc), handCount := handNumber s } } := by
  show execGroupHandout s = _
  unfold execGroupHandout
  rw [if_neg (by simpa using hroom), hret]
  rfl

/-- The group that goes out next, accepted by its core, and counted by its grid and in the hub's cycle. -/
def handedOut (s : State) (g : Grid) (vd vc : Nat) : State :=
  { (modGrid (acceptGroup s g g.nextG vd vc) g.id fun g => { g with nextG := g.nextG + 1 }) with
    hub := { (acceptGroup s g g.nextG vd vc).hub with handCycle := hubNow s, handCount := handNumber s } }

theorem exec_groupHandout_new {s : State} {g : Grid} {vd vc : Nat} (hroom : s.hub.handCycle = hubNow s → s.hub.handCount < 8)
    (hret : nextReturn? s = none) (hnext : nextGroup? s = some (g, vd, vc)) : exec .groupHandout s = .next (handedOut s g vd vc) := by
  have hclock : (acceptGroup s g g.nextG vd vc).clock = s.clock := by rw [acceptGroup_coresOnly]
  have hnow : hubNow (modGrid (acceptGroup s g g.nextG vd vc) g.id fun g => { g with nextG := g.nextG + 1 }) = hubNow s := congrArg (·.tick / 2) hclock
  show execGroupHandout s = _
  unfold execGroupHandout handedOut
  rw [if_neg (by simpa using hroom), hret]
  dsimp only
  rw [hnext]
  dsimp only
  rw [hnow]
  rfl

theorem exec_groupStart {s : State} {n : Nat} {gr : Group} {vc : Nat} (hgr : groupNo? s n = some gr) (hat : gr.at_ = .core vc) (hst : gr.st = .starting)
    (hdue : gr.startAt ≤ coreNow s vc) :
    let s1 := modGroup (invalidateL1 (flushDie s (dieOf s vc)) vc gr.ctx) gr.grid gr.gidx fun x => { x with st := .running }
    exec (.groupStart n) s = .next ((threadsOf s1 gr.grid gr.gidx).foldl (fun s t => if t.st == .starting then setWaiting s t.uid else s) s1) := by
  show execGroupStart n s = _
  unfold execGroupStart
  rw [hgr]
  dsimp only
  rw [hat]
  exact if_neg (by simp [hst, hdue])

theorem exec_groupRetire {s : State} {n : Nat} {gr : Group} {gd : Grid} (hgr : groupNo? s n = some gr) (hdone : groupDone s gr = true)
    (hgd : grid? s gr.grid = some gd) : exec (.groupRetire n) s = .next (if provisional gd then provisionalDone s gr else retireGroup s gr) := by
  show execGroupRetire n s = _
  unfold execGroupRetire
  rw [hgr]
  dsimp only
  rw [hdone, hgd]

/-- What SQUASH_ZERO_FILL makes of a group whose effects are over. -/
def squashed (gr : Group) (gd : Grid) (s : State) : State :=
  closeGrids (modGrid (freeGroup (zeroShare s gd gr.gidx) gr) gr.grid fun x => { x with nSquash := x.nSquash + 1 })

theorem exec_squashZeroFill {s : State} {n : Nat} {gr : Group} {gd : Grid} (hgr : groupNo? s n = some gr) (hready : squashReady s gr = true)
    (hgd : grid? s gr.grid = some gd) : exec (.squashZeroFill n) s = .next (hubAct s (squashed gr gd)) := by
  show execSquashZeroFill n s = _
  unfold execSquashZeroFill
  rw [hgr]
  dsimp only
  rw [hready, hgd]
  rfl

section
variable {s : State} {k n gi : Nat} {g : Grid} (hg : grid? s k = some g) (hsig : gridCsig g = some n) (hphase : phaseOf s g.ctx < 7)
  (hleft : squashesLeft s k = false) (hseen : seenPlaced s g = true)
include hg hsig hphase hleft hseen

theorem exec_completionDecrement_single (hmode : recCmode g.raw = false) (howed : g.owedAll = true) (hquiet : quiet s g.id none = true) :
    exec (.completionDecrement k) s = .next (hubAct s fun s => decrementSignal { s with grids := s.grids.filter fun x => x.id != k } g.ctx n) := by
  show execCompletionDecrement k s = _
  unfold execCompletionDecrement
  simp [hg, hsig, hphase, hleft, hseen, hmode, howed, hquiet]

theorem exec_completionDecrement_counted (hmode : recCmode g.raw = true) (howed : g.owed.find? (fun gi => quiet s g.id (some gi)) = some gi) :
    exec (.completionDecrement k) s =
      .next (hubAct s fun s => closeGrids (decrementSignal (modGrid s k fun x => { x with owed := x.owed.erase gi }) g.ctx n)) := by
  show execCompletionDecrement k s = _
  unfold execCompletionDecrement
  simp [hg, hsig, hphase, hleft, hseen, hmode, howed]

end

theorem exec_shapeSourceTimeout {s : State} {gid : Nat} {g : Grid} {sp : Spec} (hg : grid? s gid = some g) (hspec : g.spec = some sp)
    (htruth : sp.truth = none) (hok : sp.failed = false) (hphase : phaseOf s g.ctx = 0) (hlate : wdLimit s g.ctx ≤ shapeCount s g.ctx sp) :
    exec (.shapeSourceTimeout gid) s = .next (shapeFault s g 2 0) := by
  show execShapeSourceTimeout gid s = _
  unfold execShapeSourceTimeout
  simp [hg, hspec, htruth, hok, hphase, hlate]

end Sys2Proof.Machine
end

section
/-! PROOFS (O50, writes of the hub). What a write of the hub leaves in the placed memory, and the completion decrement (R104). -/
namespace Sys2Proof.Machine

theorem dropLine_linesOnly (s : State) (line : Nat) (but : Option Nat) : LinesOnly s (dropLine s line but) := by
  refine foldl_linesOnly (fun s d => ?_) _ s
  split
  · exact .refl s
  · exact (writeBackFrom_linesOnly s line d).trans (modDie_linesOnly _ _ _)

theorem hubRuns_linesOnly (s : State) (rs : Runs) : LinesOnly s (hubRuns s rs) :=
  foldl_linesOnly (fun s _ => foldl_linesOnly (fun s _ => (dropLine_linesOnly s _ _).trans (touchL3_linesOnly _ _ _ _)) _ s) _ s

theorem placed_placeRuns (s : State) (id : Nat) (src : Option Nat) (rs : Runs) :
    (placeRuns s id src rs).hub.placed = memWriteRuns s.hub.placed rs := by
  refine foldl_field (g := fun s : State => s.hub.placed) (fun s d => ?_) _ _
  dsimp only
  split
  · rfl
  · split
    · rfl
    · rfl

/-- A write of the hub leaves its bytes in the placed memory, whatever the page's memory type. -/
theorem placed_hubPut (s : State) (mt pa : Nat) (bs : List Byte) : (hubPut s mt pa bs).hub.placed = memWrite s.hub.placed pa bs := by
  obtain ⟨-, hkept, -⟩ := (hubRuns_linesOnly s [(pa, bs)]).keeps
  unfold hubPut hubWrite
  split
  · rw [placed_placeRuns, hkept]; rfl
  · rw [placed_placeRuns]; rfl

theorem memReadN_memWrite_same (m : Memory) (a : Nat) (bs : List Byte) : memReadN (memWrite m a bs) a bs.length = bs := by
  rw [memReadN_eq]
  refine List.ext_getElem (by simp) fun i _ hi => ?_
  rw [List.getElem_map, List.getElem_range, memRead_memWrite_same _ _ _ _ hi, List.getD_eq_getElem _ _ hi]

theorem length_bytesLE : ∀ n v : Nat, (bytesLE n v).length = n
  | 0, _ => rfl
  | n + 1, v => congrArg (· + 1) (length_bytesLE n (v / 256))

theorem natLE_bytesLE : ∀ n v : Nat, natLE (bytesLE n v) = v % 256 ^ n
  | 0, v => by simp [bytesLE, natLE, Nat.mod_one]
  | n + 1, v => by
    have hsplit : v % 256 ^ (n + 1) = v % 256 + 256 * (v / 256 % 256 ^ n) := by
      rw [Nat.pow_succ, Nat.mul_comm, Nat.mod_mul]
    rw [bytesLE, natLE, natLE_bytesLE n, hsplit]
    simp

/-- A word less 1, and 1 more, is the word, modulo 2^64. -/
theorem natLE_wordLess (x : Nat) : (natLE (bytesLE 8 (BitVec.ofNat 64 x - 1).toNat) + 1) % 2 ^ 64 = x % 2 ^ 64 := by
  rw [natLE_bytesLE]
  have h : (BitVec.ofNat 64 x - 1).toNat = (2 ^ 64 - 1 + x % 2 ^ 64) % 2 ^ 64 := by simp [BitVec.toNat_sub]
  rw [h]
  omega

/-- The word of a signal that is watched is written where it was found, once its page is translated. -/
theorem decrementSignal_watched {s : State} {ctx n pa : Nat} {c : Ctx} (hc : ctx? s ctx = some c) (hn : n < c.regs.sigtN.toNat)
    (hsig : c.sigs.find? (fun e => e.n == n) = some ⟨n, some pa⟩) :
    let u := (hubTranslate s c (signalVa s ctx n) sigNeed true).1
    decrementSignal s ctx n = hubPut u (((ctx? u ctx).map fun c => hubMt u c (signalVa u ctx n)).getD 0) pa (bytesLE 8 (wordAt u pa - 1).toNat) := by
  have hwatch : watchSignal s ctx n = (s, some pa) := by
    unfold watchSignal
    rw [hc]
    dsimp only
    rw [if_neg (Nat.not_le.mpr hn), hsig]
  unfold decrementSignal
  rw [hwatch]
  dsimp only
  rw [hc]

theorem decrement_takes_one {s : State} {ctx n pa : Nat} {c : Ctx} (hc : ctx? s ctx = some c) (hn : n < c.regs.sigtN.toNat)
    (hsig : c.sigs.find? (fun e => e.n == n) = some ⟨n, some pa⟩) :
    let t := decrementSignal s ctx n
    let u := (hubTranslate s c (signalVa s ctx n) sigNeed true).1
    (natLE (memReadN t.hub.placed pa 8) + 1) % 2 ^ 64 = natLE (memReadN u.hub.placed pa 8) % 2 ^ 64 ∧ MemoryKeptOutside u t pa 8 := by
  intro t u
  have hlen : ∀ v, (bytesLE 8 v).length = 8 := length_bytesLE 8
  have hplaced : t.hub.placed = memWrite u.hub.placed pa (bytesLE 8 (wordAt u pa - 1).toNat) := by
    show (decrementSignal s ctx n).hub.placed = _
    rw [decrementSignal_watched hc hn hsig, placed_hubPut]
  refine ⟨?_, fun x hx => ?_⟩
  · have hread : memReadN t.hub.placed pa 8 = bytesLE 8 (wordAt u pa - 1).toNat := by
      have hsame := memReadN_memWrite_same u.hub.placed pa (bytesLE 8 (wordAt u pa - 1).toNat)
      rwa [hlen, ← hplaced] at hsame
    rw [hread]
    exact natLE_wordLess _
  · rw [hplaced]
    exact memRead_memWrite_other _ _ _ _ (by rwa [hlen])

end Sys2Proof.Machine
end

section
/-! PROOFS (O50, the hand-out). Where the next group goes and what a core that takes it holds (R116, R128, R129). -/
namespace Sys2Proof.Machine

/-! Where a group fits (R128) -/

theorem coreFits_parts {s : State} {vc grid frames units opsl : Nat} (h : coreFits s vc grid frames units opsl = true) :
    frames ≤ (freeFramesOf s vc).length ∧ (freeUnits? s vc units).isSome = true ∧ (freeSlots s vc opsl).length = opsl := by
  unfold coreFits at h
  simp only [Bool.and_eq_true, decide_eq_true_eq, beq_iff_eq] at h
  obtain ⟨⟨⟨⟨⟨-, hframes⟩, hunits⟩, hslots⟩, -⟩, -⟩ := h
  exact ⟨hframes, hunits, hslots⟩

/-- A free operand slot is no resident group's. -/
theorem freeSlots_apart {s : State} {vc n p : Nat} (hp : p ∈ freeSlots s vc n) : ∀ x ∈ residents s vc, p ∉ x.opsl := by
  intro x hx hmem
  have hfree := (List.mem_filter.mp (List.mem_of_mem_take hp)).2
  simp only [List.contains_eq_mem, Bool.not_eq_true', decide_eq_false_iff_not] at hfree
  exact hfree (List.mem_flatMap.mpr ⟨x, hx, hmem⟩)

/-- Free units meet no resident group's. -/
theorem freeUnits?_apart {s : State} {vc n u : Nat} (h : freeUnits? s vc n = some u) :
    ∀ x ∈ residents s vc, n = 0 ∨ x.spadUnits = 0 ∨ u + n ≤ x.spadBase ∨ x.spadBase + x.spadUnits ≤ u := by
  intro x hx
  by_cases hn : n = 0
  · exact .inl hn
  · unfold freeUnits? at h
    dsimp only at h
    rw [if_neg (by simpa using hn)] at h
    obtain ⟨-, hfree⟩ := firstBelow_some h
    rw [Bool.and_eq_true, List.all_eq_true] at hfree
    have hapart := hfree.2 x hx
    simp only [Bool.or_eq_true, beq_iff_eq, decide_eq_true_eq] at hapart
    omega

/-- The core chosen in a virtual die fits. -/
theorem coreFits_of_coreFor? {s : State} {vd grid frames units opsl vc : Nat} (h : coreFor? s vd grid frames units opsl = some vc) :
    coreFits s vc grid frames units opsl = true := (List.mem_filter.mp (leastBy_mem h)).2

/-- The next group is one of a grid, and its core fits. -/
theorem coreFits_of_nextGroup? {s : State} {g : Grid} {vd vc : Nat} (h : nextGroup? s = some (g, vd, vc)) :
    coreFits s vc g.id (recThreads g.raw) (recSpadu g.raw) (recOpsl g.raw) = true := by
  obtain ⟨k, -, hk⟩ := List.exists_of_findSome?_eq_some h
  obtain ⟨g', -, hacc⟩ := List.exists_of_findSome?_eq_some hk
  obtain ⟨vd', -, hcore⟩ := List.exists_of_findSome?_eq_some hacc
  obtain ⟨vc', hvc, heq⟩ := Option.map_eq_some_iff.mp hcore
  cases heq
  exact coreFits_of_coreFor? hvc

/-! What a core takes (R129, R130) -/

/-- The group that a core takes. -/
def newGroup (s : State) (g : Grid) (gi vd vc : Nat) : Group :=
  { ctx := g.ctx, grid := g.id, gidx := gi, vd := vd, at_ := .core vc, st := .starting, startAt := coreNow s vc + 16 + ceilDiv (recThreads g.raw) 64
    spadBase := (freeUnits? s vc (recSpadu g.raw)).getD 0, spadUnits := recSpadu g.raw, opsl := freeSlots s vc (recOpsl g.raw)
    bars := List.replicate 4 Bar.fresh, gw := Bar.fresh, gwSig := 0, gwThr := 0, gwScope := 0, colls := [], zsk := false, tfCode := 0, tfCount := 0
    wantIn := false, saved := none }

/-- The threads of a group that a core takes. -/
def newThreads (s : State) (g : Grid) (gi vc : Nat) : List Thread :=
  (((freeFramesOf s vc).take (recThreads g.raw)).zip (List.range (recThreads g.raw))).map fun p => newThread (s.nextId + p.2) g gi vc p.1 p.2

theorem takenStore_coresOnly (s : State) (g : Grid) (vc : Nat) :
    CoresOnly s (takeSlots (takeUnits s vc g.ctx ((freeUnits? s vc (recSpadu g.raw)).getD 0) (recSpadu g.raw)) vc g.ctx (freeSlots s vc (recOpsl g.raw))) :=
  (takeUnits_coresOnly ..).trans (takeSlots_coresOnly ..)

theorem acceptGroup_groups (s : State) (g : Grid) (gi vd vc : Nat) : (acceptGroup s g gi vd vc).groups = s.groups ++ [newGroup s g gi vd vc] := by
  obtain ⟨-, -, hgroups, -⟩ := (takenStore_coresOnly s g vc).keeps
  unfold acceptGroup
  dsimp only
  rw [hgroups]
  rfl

theorem acceptGroup_threads (s : State) (g : Grid) (gi vd vc : Nat) : (acceptGroup s g gi vd vc).threads = s.threads ++ newThreads s g gi vc := by
  obtain ⟨-, -, -, hthreads, -⟩ := (takenStore_coresOnly s g vc).keeps
  unfold acceptGroup
  dsimp only
  rw [hthreads]
  rfl

theorem length_newThreads {s : State} {g : Grid} {vc : Nat} (h : recThreads g.raw ≤ (freeFramesOf s vc).length) (gi : Nat) :
    (newThreads s g gi vc).length = recThreads g.raw := by
  simp [newThreads, h]

/-- The thread of the `k`th frame. -/
theorem getElem?_newThreads {s : State} {g : Grid} {vc k : Nat} (h : recThreads g.raw ≤ (freeFramesOf s vc).length) (hk : k < recThreads g.raw) (gi : Nat) :
    ∃ f, (freeFramesOf s vc)[k]? = some f ∧ (newThreads s g gi vc)[k]? = some (newThread (s.nextId + k) g gi vc f k) := by
  have hk' : k < (freeFramesOf s vc).length := Nat.lt_of_lt_of_le hk h
  refine ⟨(freeFramesOf s vc)[k], List.getElem?_eq_getElem hk', ?_⟩
  simp [newThreads, hk, hk']

theorem present_newThread (uid : Nat) (g : Grid) (gi vc frame tid : Nat) : ∀ x ∈ (newThread uid g gi vc frame tid).slots, x.pres = false := by
  intro x hx
  rw [List.eq_of_mem_replicate hx]
  rfl

/-- The elements of a list of which some are changed. -/
theorem mem_modWhere_iff {α : Type} {p : α → Bool} {f : α → α} {l : List α} {x : α} : x ∈ modWhere p f l ↔ ∃ y ∈ l, (if p y then f y else y) = x :=
  List.mem_map

/-- A grid found under its number after a change of that grid that keeps the number is the changed one. -/
theorem mem_modGrid_same {s : State} {k : Nat} {f : Grid → Grid} (hf : ∀ g, (f g).id = g.id) {x : Grid} (hx : x ∈ (modGrid s k f).grids) (hid : x.id = k) :
    ∃ y ∈ s.grids, y.id = k ∧ x = f y := by
  obtain ⟨y, hy, heq⟩ := mem_modWhere_iff.mp hx
  subst heq
  have hyid : y.id = k := by
    split at hid
    · rw [← hid, hf]
    · exact hid
  exact ⟨y, hy, hyid, if_pos (by simp [hyid])⟩

theorem groupHandedOut : GroupHandedOut := by
  intro s g vd vc hroom hret hnext n
  obtain ⟨hframes, hunits, hslots⟩ := coreFits_parts (coreFits_of_nextGroup? hnext)
  obtain ⟨base, hbase⟩ := Option.isSome_iff_exists.mp hunits
  obtain ⟨hhub, hgrids, -, -, heffects, -⟩ := (acceptGroup_coresOnly s g g.nextG vd vc).keeps
  have hlen := length_newThreads hframes g.nextG
  refine ⟨handedOut s g vd vc, newGroup s g g.nextG vd vc, exec_groupHandout_new hroom hret hnext, rfl, by simp [handedOut, handNumber],
    acceptGroup_groups s g g.nextG vd vc, rfl, rfl, rfl, rfl, rfl, rfl, rfl, rfl, rfl, hslots, fun x hx => ⟨fun p hp => freeSlots_apart hp x hx, ?_⟩,
    ?_, fun k hk => ?_, fun k hk => ?_, rfl, fun x hx hid => ?_, congrArg (·.placed) hhub, heffects⟩
  · have hapart := freeUnits?_apart hbase x hx
    show recSpadu g.raw = 0 ∨ _ ∨ (freeUnits? s vc (recSpadu g.raw)).getD 0 + _ ≤ _ ∨ _ ≤ (freeUnits? s vc (recSpadu g.raw)).getD 0
    rwa [hbase]
  · show (acceptGroup s g g.nextG vd vc).threads.length = _
    rw [acceptGroup_threads, List.length_append, hlen]
  · show (acceptGroup s g g.nextG vd vc).threads[k]? = _
    rw [acceptGroup_threads, List.getElem?_append_left hk]
  · obtain ⟨f, hf, hu⟩ := getElem?_newThreads hframes hk g.nextG
    refine ⟨_, ?_, rfl, rfl, rfl, rfl, rfl, rfl, rfl, rfl, hf, present_newThread _ _ _ _ _ _, rfl⟩
    show (acceptGroup s g g.nextG vd vc).threads[s.threads.length + k]? = _
    rw [acceptGroup_threads, List.getElem?_append_right (Nat.le_add_right _ _), Nat.add_sub_cancel_left, hu]
  · obtain ⟨y, hy, hyid, hxy⟩ := mem_modGrid_same (f := fun g => { g with nextG := g.nextG + 1 }) (fun _ => rfl) hx hid
    exact ⟨y, hgrids ▸ hy, hyid, hxy⟩

end Sys2Proof.Machine
end

section
/-! PROOFS (O50, the way back). What a group that returns from its dugout finds on its core (R128, R202, R247). -/
namespace Sys2Proof.Machine

/-! Groups and threads looked up -/

/-- A group after a change that keeps its names, and every other group. -/
theorem group_modGroup_same (s : State) (g gi : Nat) {f : Group → Group} (hf : ∀ x, (f x).grid = x.grid ∧ (f x).gidx = x.gidx) :
    group? (modGroup s g gi f) g gi = (group? s g gi).map f := by
  simp only [group?, modGroup_groups]
  rw [find_modWhere _ _ _ fun a _ => by simp [hf a]]
  refine Option.map_congr fun x hx => if_pos ?_
  exact List.find?_some (p := fun x : Group => x.grid == g && x.gidx == gi) hx

theorem group_modGroup_other (s : State) {g gi k i : Nat} {f : Group → Group} (hf : ∀ x, (f x).grid = x.grid ∧ (f x).gidx = x.gidx)
    (h : ¬ (k = g ∧ i = gi)) : group? (modGroup s g gi f) k i = group? s k i := by
  simp only [group?, modGroup_groups]
  rw [find_modWhere _ _ _ fun a _ => by simp [hf a]]
  cases hfind : s.groups.find? fun x => x.grid == k && x.gidx == i with
  | none => rfl
  | some x =>
    have hx : x.grid = k ∧ x.gidx = i := by simpa using List.find?_some hfind
    exact congrArg some (if_neg (by simpa [hx] using h))

/-- Where no two threads have one number, each is found under its own. -/
theorem find?_uid_of_mem {l : List Thread} (hn : (l.map (·.uid)).Nodup) {u : Thread} (hu : u ∈ l) : l.find? (fun t => t.uid == u.uid) = some u := by
  obtain ⟨x, hx⟩ := Option.isSome_iff_exists.mp (List.find?_isSome (p := fun t : Thread => t.uid == u.uid).mpr ⟨u, hu, by simp⟩)
  have huid : x.uid = u.uid := by simpa using List.find?_some hx
  rw [hx, inj_of_nodup_map hn (List.mem_of_find?_eq_some hx) hu huid]

/-! Threads put to wait (R132) -/

/-- The thread has its number, its group, its frame's core and contents, and its segment as before. -/
def SamePlace (v w : Thread) : Prop := w.uid = v.uid ∧ w.grid = v.grid ∧ w.gidx = v.gidx ∧ w.vc = v.vc ∧ w.resident = v.resident ∧ w.slots = v.slots ∧
  w.xs = v.xs ∧ w.ptr = v.ptr ∧ w.seq = v.seq

theorem SamePlace.refl (v : Thread) : SamePlace v v := ⟨rfl, rfl, rfl, rfl, rfl, rfl, rfl, rfl, rfl⟩

theorem SamePlace.trans {u v w : Thread} (h : SamePlace u v) (k : SamePlace v w) : SamePlace u w := by
  obtain ⟨h1, h2, h3, h4, h5, h6, h7, h8, h9⟩ := h
  obtain ⟨k1, k2, k3, k4, k5, k6, k7, k8, k9⟩ := k
  exact ⟨k1.trans h1, k2.trans h2, k3.trans h3, k4.trans h4, k5.trans h5, k6.trans h6, k7.trans h7, k8.trans h8, k9.trans h9⟩

/-- The hub, the grids, the groups and what the cores store stand as before. -/
def StoresKept (s t : State) : Prop := t.hub = s.hub ∧ t.grids = s.grids ∧ t.groups = s.groups ∧ ∀ k, (core t k).store = (core s k).store

theorem StoresKept.refl (s : State) : StoresKept s s := ⟨rfl, rfl, rfl, fun _ => rfl⟩

theorem StoresKept.trans {s t u : State} (h : StoresKept s t) (k : StoresKept t u) : StoresKept s u := by
  obtain ⟨h1, h2, h3, h4⟩ := h
  obtain ⟨k1, k2, k3, k4⟩ := k
  exact ⟨k1.trans h1, k2.trans h2, k3.trans h3, fun v => (k4 v).trans (h4 v)⟩

theorem modCore_storesKept (s : State) (vc : Nat) {f : Core → Core} (hf : ∀ c, (f c).store = c.store) : StoresKept s (modCore s vc f) := by
  refine ⟨rfl, rfl, rfl, fun v => ?_⟩
  rcases core_modCore s vc f v with h | h <;> rw [h]
  exact hf _

theorem startFetch_storesKept (s : State) (vc ctx grid : Nat) (p : SegPtr) : StoresKept s (startFetch s vc ctx grid p) := by
  unfold startFetch
  dsimp only
  split
  · exact .refl s
  · exact modCore_storesKept (fresh s).2 vc fun _ => rfl

/-- One thread is changed, which keeps its place, and nothing of the hub, the grids, the groups and the stores. -/
def MovesOne (s : State) (uid : Nat) (t : State) : Prop := ∃ f : Thread → Thread,
  t.threads = (modThread s uid f).threads ∧ (∀ v, SamePlace v (f v)) ∧ StoresKept s t

theorem MovesOne.of_modCore {s t : State} {uid vc : Nat} {f : Core → Core} (h : MovesOne (modCore s vc f) uid t) (hf : ∀ c, (f c).store = c.store) :
    MovesOne s uid t := by
  obtain ⟨g, hthreads, hplace, hkept⟩ := h
  exact ⟨g, hthreads, hplace, (modCore_storesKept s vc hf).trans hkept⟩

/-- A thread that keeps its place is changed, and its segment's fetch starts. -/
theorem movesOne_startFetch (s : State) (uid : Nat) {f : Thread → Thread} (hf : ∀ v, SamePlace v (f v)) (vc ctx grid : Nat) (p : SegPtr) :
    MovesOne s uid (startFetch (modThread s uid f) vc ctx grid p) := by
  obtain ⟨hthreads, -⟩ := startFetch_notesOnly (modThread s uid f) vc ctx grid p
  exact ⟨f, hthreads, hf, startFetch_storesKept _ _ _ _ _⟩

theorem joinEntry_movesOne (s : State) (t : Thread) (idx : Nat) : MovesOne s t.uid (joinEntry s t idx) := by
  unfold joinEntry
  refine (movesOne_startFetch _ t.uid (fun _ => ?_) ..).of_modCore fun _ => rfl
  exact ⟨rfl, rfl, rfl, rfl, rfl, rfl, rfl, rfl, rfl⟩

theorem setWaiting_movesOne (s : State) (uid : Nat) : MovesOne s uid (setWaiting s uid) := by
  unfold setWaiting
  split
  case h_1 hnone => exact ⟨id, by simp [modWhere], .refl, .refl s⟩
  case h_2 t ht =>
    have huid : t.uid = uid := by simpa using List.find?_some ht
    subst huid
    dsimp only
    split
    · exact ⟨_, rfl, fun v => ⟨rfl, rfl, rfl, rfl, rfl, rfl, rfl, rfl, rfl⟩, .refl s⟩
    · split
      · split
        · exact (joinEntry_movesOne _ t _).of_modCore fun _ => rfl
        · exact joinEntry_movesOne s t _
      · split
        · exact ⟨_, rfl, fun v => ⟨rfl, rfl, rfl, rfl, rfl, rfl, rfl, rfl, rfl⟩, .refl s⟩
        · exact (joinEntry_movesOne _ t _).of_modCore fun _ => rfl

/-- A thread keeps its place where one is moved. -/
theorem MovesOne.thread {s t : State} {k uid : Nat} {v : Thread} (h : MovesOne s k t) (hv : thread? s uid = some v) :
    ∃ w, thread? t uid = some w ∧ SamePlace v w := by
  obtain ⟨f, hthreads, hplace, -⟩ := h
  have huid : ∀ t, (f t).uid = t.uid := fun t => by obtain ⟨h, -⟩ := hplace t; exact h
  have hfind := thread?_congr hthreads uid
  by_cases hk : uid = k
  · subst hk
    rw [thread_modThread_same s uid f huid, hv] at hfind
    exact ⟨f v, hfind, hplace v⟩
  · rw [thread_modThread_other s f huid hk, hv] at hfind
    exact ⟨v, hfind, .refl v⟩

/-- Of several threads some are put to wait: all keep their places. -/
theorem foldl_setWaiting_places {p : Thread → Bool} {s : State} (l : List Thread) :
    let t := l.foldl (fun s t => if p t then setWaiting s t.uid else s) s
    StoresKept s t ∧ ∀ uid v, thread? s uid = some v → ∃ w, thread? t uid = some w ∧ SamePlace v w := by
  refine List.foldlRecOn (motive := fun t => StoresKept s t ∧ ∀ uid v, thread? s uid = some v → ∃ w, thread? t uid = some w ∧ SamePlace v w) _ _
    ⟨.refl s, fun _ v hv => ⟨v, hv, .refl v⟩⟩ fun t ht u _ => ?_
  split
  · obtain ⟨hkept, hplaces⟩ := ht
    have hmove := setWaiting_movesOne t u.uid
    refine ⟨?_, fun uid v hv => ?_⟩
    · obtain ⟨-, -, -, h⟩ := hmove
      exact hkept.trans h
    · obtain ⟨w, hw, hvw⟩ := hplaces uid v hv
      obtain ⟨x, hx, hwx⟩ := hmove.thread hw
      exact ⟨x, hx, hvw.trans hwx⟩
  · exact ht

/-! The core a group returns to (R128, R247) -/

theorem coreFits_of_nextReturn? {s : State} {gr : Group} {sv : Saved} {vc : Nat} (h : nextReturn? s = some (gr, sv, vc)) :
    coreFits s vc gr.grid (threadsOf s gr.grid gr.gidx).length gr.spadUnits gr.opsl.length = true := by
  obtain ⟨x, -, hx⟩ := List.exists_of_findSome?_eq_some h
  split at hx
  · split at hx
    · obtain ⟨k, hk, heq⟩ := Option.map_eq_some_iff.mp hx
      cases heq
      have hfit := (List.mem_filter.mp (leastBy_mem hk)).2
      simp only [Bool.and_eq_true] at hfit
      obtain ⟨⟨hfit, -⟩, -⟩ := hfit
      exact hfit
    · cases hx
  · cases hx

/-- A thread of the group that returns, moved to its new frame. -/
def returned (s : State) (gr : Group) (vc : Nat) (t : Thread) : Thread :=
  match (((threadsOf s gr.grid gr.gidx).map (·.uid)).zip (freeFramesOf s vc)).find? (fun p => p.1 == t.uid) with
  | some p => moveFrame t vc p.2
  | none => t

/-- A core's store with what a saved group brings put from unit `base` on. -/
def unpackStore (base units : Nat) (sv : Saved) (st : Storage) : Storage :=
  let lo := base * 16384
  { st with
    spad := st.spad.filter (fun c => decide (c.1 < lo)) ++ sv.spad.map (fun c => (c.1 + lo, c.2)) ++
      st.spad.filter fun c => decide (lo + units * 16384 ≤ c.1)
    absent := st.absent ++ sv.absent.map fun a => (a.1 + base * 256, a.2)
    badLines := st.badLines ++ sv.badLines.map (· + base * 256)
    accs := sv.accs.foldl (fun l a => setAt l a.1 a.2) st.accs
    pts := sv.pts.foldl (fun l a => setAt l a.1 a.2) st.pts }

/-- The cores with what a saved group brings. -/
def unpacked (s : State) (gr : Group) (sv : Saved) (vc : Nat) : State :=
  let base := (freeUnits? s vc gr.spadUnits).getD 0
  modCore (modStore (putSlotsBack (takeUnits s vc gr.ctx base gr.spadUnits) vc gr.ctx ((freeSlots s vc gr.opsl.length).zip sv.slots)) vc
    (unpackStore base gr.spadUnits sv)) vc fun c => { c with
      ops := c.ops ++ sv.ops.map fun o => { o with vc := vc }
      copies := c.copies ++ sv.copies.map fun x => { x with vc := vc, cleared := x.cleared.map (· + base * 256) }
      rings := c.rings ++ sv.rings }

/-- The change of the group that stands on its core again. -/
def resettle (s : State) (gr : Group) (vc : Nat) (g : Group) : Group :=
  { g with at_ := .core vc, spadBase := (freeUnits? s vc gr.spadUnits).getD 0, opsl := freeSlots s vc gr.opsl.length, wantIn := false, saved := none }

/-- The group and its threads on the core, before the acquire and before the threads wait. -/
def broughtBack (s : State) (gr : Group) (sv : Saved) (vc : Nat) : State :=
  let s4 := modGroup { unpacked s gr sv vc with threads := s.threads.map (returned s gr vc) } gr.grid gr.gidx (resettle s gr vc)
  match gr.at_ with
  | .dugout k _ => freeDugout s4 k
  | .core _ => s4

theorem unpacked_coresOnly (s : State) (gr : Group) (sv : Saved) (vc : Nat) : CoresOnly s (unpacked s gr sv vc) :=
  (((takeUnits_coresOnly ..).trans (putSlotsBack_coresOnly ..)).trans (modCore_coresOnly _ vc _)).trans (modCore_coresOnly _ vc _)

theorem restoreTo_eq (s : State) (gr : Group) (sv : Saved) (vc : Nat) : restoreTo s gr sv vc =
    (threadsOf s gr.grid gr.gidx).foldl (fun s t => if t.st == .waiting || t.st == .unassigned then setWaiting s t.uid else s)
      (acquireOn (broughtBack s gr sv vc) vc gr.ctx 4) := by
  have hthreads : (unpacked s gr sv vc).threads = s.threads := by rw [unpacked_coresOnly]
  unfold restoreTo broughtBack
  rw [← hthreads]
  rfl

/-! The saved scratchpad in its new units -/

/-- Bytes put in the place of a part of a memory read there as they were. -/
theorem memRead_spliced (m saved : Memory) (lo n i : Nat) (hi : i < n) :
    memRead (m.filter (fun c => decide (c.1 < lo)) ++ saved.map (fun c => (c.1 + lo, c.2)) ++ m.filter fun c => decide (lo + n ≤ c.1)) (lo + i) =
      memRead saved i := by
  have hlow : ∀ c ∈ m.filter (fun c => decide (c.1 < lo)), c.1 ≠ lo + i := fun c hc => by
    have hlt := (List.mem_filter.mp hc).2
    simp only [decide_eq_true_eq] at hlt
    omega
  have hhigh : ∀ c ∈ m.filter (fun c => decide (lo + n ≤ c.1)), c.1 ≠ lo + i := fun c hc => by
    have hle := (List.mem_filter.mp hc).2
    simp only [decide_eq_true_eq] at hle
    omega
  have hmid : memRead (saved.map fun c => (c.1 + lo, c.2)) (lo + i) = memRead saved i := by
    have hkey : ∀ c : Host.Cell, (c.1 + lo == lo + i) = (c.1 == i) := fun c => by simp [Nat.add_comm lo]
    unfold memRead
    rw [List.find?_map]
    simp only [Function.comp_def, hkey]
    cases saved.find? fun c => c.1 == i <;> rfl
  rw [List.append_assoc, memRead_append, any_addr_false hlow, if_neg (by decide), memRead_append]
  split
  · exact hmid
  · rename_i hnone
    rw [memRead_absent hhigh, ← hmid]
    exact (memRead_absent fun c hc he => hnone (List.any_eq_true.mpr ⟨c, hc, by simp [he]⟩)).symm

theorem length_cores_takeUnits (s : State) (vc ctx base n : Nat) : (takeUnits s vc ctx base n).cores.length = s.cores.length :=
  foldl_field (g := fun s : State => s.cores.length) (fun s _ => modAt_length _ s.cores vc) _ s

theorem length_cores_putSlotsBack (s : State) (vc ctx : Nat) (l : List (Nat × OpSlot)) : (putSlotsBack s vc ctx l).cores.length = s.cores.length :=
  foldl_field (g := fun s : State => s.cores.length) (fun s _ => modAt_length _ s.cores vc) _ s

theorem spad_unpacked {s : State} {gr : Group} {sv : Saved} {vc i : Nat} (hvc : vc < s.cores.length) (hi : i < gr.spadUnits * 16384) :
    memRead (core (unpacked s gr sv vc) vc).store.spad ((freeUnits? s vc gr.spadUnits).getD 0 * 16384 + i) = memRead sv.spad i := by
  unfold unpacked modStore
  dsimp only
  rw [core_modCore_same, core_modCore_same]
  · exact memRead_spliced _ _ _ _ _ hi
  · rwa [length_cores_putSlotsBack, length_cores_takeUnits]
  · rwa [modCore_cores, modAt_length, length_cores_putSlotsBack, length_cores_takeUnits]

/-! The threads in their new frames -/

theorem uid_returned (s : State) (gr : Group) (vc : Nat) (t : Thread) : (returned s gr vc t).uid = t.uid := by
  unfold returned
  split <;> rfl

/-- A thread of the group that returns has a frame on the core. -/
theorem returned_of_mem {s : State} {gr : Group} {vc : Nat} (hfit : (threadsOf s gr.grid gr.gidx).length ≤ (freeFramesOf s vc).length) {u : Thread}
    (hu : u ∈ threadsOf s gr.grid gr.gidx) : ∃ frame, returned s gr vc u = moveFrame u vc frame := by
  have hmem : u.uid ∈ (((threadsOf s gr.grid gr.gidx).map (·.uid)).zip (freeFramesOf s vc)).map Prod.fst := by
    rw [List.map_fst_zip (by simpa using hfit)]
    exact List.mem_map_of_mem hu
  obtain ⟨p, hp, hpu⟩ := List.mem_map.mp hmem
  obtain ⟨q, hq⟩ := Option.isSome_iff_exists.mp (List.find?_isSome (p := fun p : Nat × Nat => p.1 == u.uid).mpr ⟨p, hp, by simp [hpu]⟩)
  refine ⟨q.2, ?_⟩
  unfold returned
  rw [hq]

theorem group?_congr {s t : State} (h : t.groups = s.groups) (g gi : Nat) : group? t g gi = group? s g gi := by
  unfold group?; rw [h]

/-- The state before the acquire: the cores as unpacked, the threads moved, the group on its core, its dugout frame free. -/
theorem broughtBack_parts (s : State) (gr : Group) (sv : Saved) (vc : Nat) :
    (broughtBack s gr sv vc).cores = (unpacked s gr sv vc).cores ∧ (broughtBack s gr sv vc).threads = s.threads.map (returned s gr vc) ∧
    (broughtBack s gr sv vc).groups = (modGroup s gr.grid gr.gidx (resettle s gr vc)).groups ∧
    (broughtBack s gr sv vc).hub.placed = s.hub.placed ∧
    ∀ k w, gr.at_ = .dugout k w → ∀ d ∈ (broughtBack s gr sv vc).hub.dugouts, d.1 ≠ k := by
  obtain ⟨hhub, -, hgroups, -, -, -⟩ := (unpacked_coresOnly s gr sv vc).keeps
  have hplaced : (unpacked s gr sv vc).hub.placed = s.hub.placed := by rw [hhub]
  have hmod : modWhere (fun x => x.grid == gr.grid && x.gidx == gr.gidx) (resettle s gr vc) (unpacked s gr sv vc).groups =
      (modGroup s gr.grid gr.gidx (resettle s gr vc)).groups := by rw [hgroups]; rfl
  unfold broughtBack
  cases gr.at_ with
  | core w => exact ⟨rfl, rfl, hmod, hplaced, fun _ _ h => by cases h⟩
  | dugout k w =>
    refine ⟨rfl, rfl, hmod, hplaced, fun k' w' h d hd => ?_⟩
    cases h
    simpa using (List.mem_filter.mp hd).2

/-- An acquire changes no scratchpad, no thread and nothing of the hub. -/
theorem acquireOn_storesKept (s : State) (vc ctx scope : Nat) : StoresKept s (acquireOn s vc ctx scope) ∧ (acquireOn s vc ctx scope).threads = s.threads := by
  unfold acquireOn
  split
  · exact ⟨.refl s, rfl⟩
  · split
    · exact ⟨modCore_storesKept (flushDie s (dieOf s vc)) vc fun _ => rfl, rfl⟩
    · exact ⟨modCore_storesKept s vc fun _ => rfl, rfl⟩

/-- What the hand-out leaves of the state before the acquire: the stores, the groups and the hub, and every thread in its place. -/
theorem restoreTo_keeps (s : State) (gr : Group) (sv : Saved) (vc : Nat) : StoresKept (broughtBack s gr sv vc) (restoreTo s gr sv vc) ∧
    ∀ uid v, thread? (broughtBack s gr sv vc) uid = some v → ∃ w, thread? (restoreTo s gr sv vc) uid = some w ∧ SamePlace v w := by
  obtain ⟨hacquire, hthreads⟩ := acquireOn_storesKept (broughtBack s gr sv vc) vc gr.ctx 4
  obtain ⟨hfold, hplaces⟩ := foldl_setWaiting_places (p := fun t => t.st == .waiting || t.st == .unassigned)
    (s := acquireOn (broughtBack s gr sv vc) vc gr.ctx 4) (threadsOf s gr.grid gr.gidx)
  rw [restoreTo_eq]
  exact ⟨hacquire.trans hfold, fun uid v hv => hplaces uid v ((thread?_congr hthreads uid).trans hv)⟩

theorem groupReturned : GroupReturned := by
  intro s gr sv vc hroom hret hgr huids hvc
  obtain ⟨hframes, -, hslots⟩ := coreFits_parts (coreFits_of_nextReturn? hret)
  obtain ⟨hcores, hthreads, hgroups, hplaced, hdugouts⟩ := broughtBack_parts s gr sv vc
  obtain ⟨⟨hhub, -, hgroups', hstores⟩, hplaces⟩ := restoreTo_keeps s gr sv vc
  refine ⟨_, (freeUnits? s vc gr.spadUnits).getD 0, freeSlots s vc gr.opsl.length, exec_groupHandout_return hroom hret, ?_, hslots, fun k w hat d hd => ?_,
    fun i hi => ?_, fun u hu hg hgi => ?_, ?_⟩
  · show group? (restoreTo s gr sv vc) gr.grid gr.gidx = some (resettle s gr vc gr)
    have hsame := group_modGroup_same s gr.grid gr.gidx (f := resettle s gr vc) fun _ => ⟨rfl, rfl⟩
    rw [group?_congr (hgroups'.trans hgroups), hsame, hgr]
    rfl
  · exact hdugouts k w hat d (hhub ▸ hd)
  · show memRead (core (restoreTo s gr sv vc) vc).store.spad _ = _
    have hcore : core (broughtBack s gr sv vc) vc = core (unpacked s gr sv vc) vc := congrArg (fun l => l.getD vc Core.reset) hcores
    rw [hstores vc, hcore]
    exact spad_unpacked hvc hi
  · have hmem : u ∈ threadsOf s gr.grid gr.gidx := List.mem_filter.mpr ⟨hu, by simp [hg, hgi]⟩
    obtain ⟨frame, hframe⟩ := returned_of_mem hframes hmem
    have hfind : thread? (broughtBack s gr sv vc) u.uid = some (moveFrame u vc frame) := by
      have huid : ((s.threads.map (returned s gr vc)).map (·.uid)).Nodup := by
        rw [List.map_map]
        exact (List.map_congr_left fun t _ => uid_returned s gr vc t) ▸ huids
      unfold thread?
      rw [hthreads, ← hframe, ← uid_returned s gr vc u]
      exact find?_uid_of_mem huid (List.mem_map_of_mem hu)
    obtain ⟨v, hv, -, -, -, hvcore, hres, hvslots, hvxs, hvptr, hvseq⟩ := hplaces u.uid _ hfind
    exact ⟨v, hv, hres, hvcore, hvslots, hvxs, hvptr, hvseq⟩
  · show (restoreTo s gr sv vc).hub.placed = s.hub.placed
    rw [hhub, hplaced]

end Sys2Proof.Machine
end

section
/-! PROOFS (O50, the end of a group). A group that retires or is squashed leaves the machine with its threads, and its share is filled with zeros
(R125, R389). -/
namespace Sys2Proof.Machine

/-! The resources return (R389) -/

/-- Nothing but cores, dies and effects differs. -/
def BanksOnly (s t : State) : Prop := t = { s with cores := t.cores, dies := t.dies, effects := t.effects }

theorem BanksOnly.refl (s : State) : BanksOnly s s := rfl

theorem BanksOnly.trans {s t u : State} (h : BanksOnly s t) (k : BanksOnly t u) : BanksOnly s u := by
  unfold BanksOnly at h k ⊢
  rw [k, h]

theorem BanksOnly.keeps {s t : State} (h : BanksOnly s t) : t.hub = s.hub ∧ t.grids = s.grids ∧ t.groups = s.groups ∧ t.threads = s.threads := by
  rw [h]; exact ⟨rfl, rfl, rfl, rfl⟩

theorem CoresOnly.banksOnly {s t : State} (h : CoresOnly s t) : BanksOnly s t := by
  unfold BanksOnly
  rw [h]

theorem foldl_banksOnly {α : Type} {f : State → α → State} (hf : ∀ s a, BanksOnly s (f s a)) (l : List α) (s : State) : BanksOnly s (l.foldl f s) := by
  induction l generalizing s with
  | nil => exact .refl s
  | cons a l ih => exact (hf s a).trans (ih (f s a))

theorem modCore_banksOnly (s : State) (vc : Nat) (f : Core → Core) : BanksOnly s (modCore s vc f) := rfl

theorem modEffect_banksOnly (s : State) (id : Nat) (f : Effect → Effect) : BanksOnly s (modEffect s id f) := rfl

theorem acquireOn_banksOnly (s : State) (vc ctx scope : Nat) : BanksOnly s (acquireOn s vc ctx scope) := by
  unfold acquireOn
  split
  · exact .refl s
  · split
    · rfl
    · rfl

theorem acquireOwn_banksOnly (s : State) (e : Effect) (scope : Nat) : BanksOnly s (acquireOwn s e scope) :=
  foldl_banksOnly (fun s vc => acquireOn_banksOnly s vc _ _) _ s

theorem actAtBank_banksOnly (s : State) (e : Effect) : BanksOnly s (actAtBank s e) := by
  unfold actAtBank
  split
  · exact BanksOnly.trans (t := noteLate _ e.vc e.uid) rfl (acquireOwn_banksOnly _ e e.acq)
  · rfl
  · exact .refl s

theorem flushScratch_banksOnly (s : State) (gr : Group) : BanksOnly s (flushScratch s gr) := by
  refine foldl_banksOnly (fun s e => ?_) _ s
  split
  · exact (actAtBank_banksOnly s e).trans (modEffect_banksOnly _ _ _)
  · exact .refl s

theorem forgetLost_banksOnly (s : State) (gr : Group) : BanksOnly s (forgetLost s gr) := rfl

/-- A group whose resources return leaves the groups and its threads the threads; the grids and the placed memory stay. -/
theorem freeGroup_parts (s : State) (gr : Group) :
    (freeGroup s gr).threads = s.threads.filter (fun t => !(t.grid == gr.grid && t.gidx == gr.gidx)) ∧
    (freeGroup s gr).groups = s.groups.filter (fun x => !(x.grid == gr.grid && x.gidx == gr.gidx)) ∧
    (freeGroup s gr).grids = s.grids ∧ (freeGroup s gr).hub.placed = s.hub.placed ∧ (freeGroup s gr).hub.stalls = s.hub.stalls := by
  have hbanks := (flushScratch_banksOnly s gr).trans (forgetLost_banksOnly _ gr)
  unfold freeGroup
  cases gr.at_ with
  | core vc =>
    obtain ⟨hhub, hgrids, hgroups, hthreads⟩ :=
      (hbanks.trans ((releaseUnits_coresOnly _ vc gr.grid gr.gidx).trans (settleOps_coresOnly _ vc)).banksOnly).keeps
    exact ⟨congrArg _ hthreads, congrArg _ hgroups, hgrids, congrArg (·.placed) hhub, congrArg (·.stalls) hhub⟩
  | dugout k vc =>
    obtain ⟨hhub, hgrids, hgroups, hthreads⟩ := hbanks.keeps
    exact ⟨congrArg _ hthreads, congrArg _ hgroups, hgrids, congrArg (·.placed) hhub, congrArg (·.stalls) hhub⟩

/-! Look-ups among what is left -/

/-- The names of a group left out of the groups name none, and every other name names the same group. -/
theorem group?_of_filter_same {t : State} {gs : List Group} {g gi : Nat} (h : t.groups = gs.filter fun x => !(x.grid == g && x.gidx == gi)) :
    group? t g gi = none := by
  unfold group?
  rw [h, List.find?_eq_none]
  intro x hx hname
  have hother := (List.mem_filter.mp hx).2
  rw [hname] at hother
  cases hother

theorem group?_of_filter_other {s t : State} {g gi k i : Nat} (h : t.groups = s.groups.filter fun x => !(x.grid == g && x.gidx == gi))
    (hki : ¬ (k = g ∧ i = gi)) : group? t k i = group? s k i := by
  unfold group?
  rw [h, List.find?_filter]
  congr 1
  funext x
  cases hx : (x.grid == k && x.gidx == i) with
  | false => simp
  | true =>
    simp only [Bool.and_eq_true, beq_iff_eq] at hx
    obtain ⟨rfl, rfl⟩ := hx
    simpa using not_and_or.mp hki

/-- No thread of a group is left. -/
theorem not_mem_of_filter {l : List Thread} {g gi : Nat} : ∀ x ∈ l.filter (fun t => !(t.grid == g && t.gidx == gi)), ¬ (x.grid = g ∧ x.gidx = gi) := by
  intro x hx hname
  simpa [hname] using (List.mem_filter.mp hx).2

/-- A grid that has not left is as before, but for the decrement that it may owe. -/
theorem of_mem_closeGrids {s : State} {x : Grid} (hx : x ∈ (closeGrids s).grids) : ∃ y ∈ s.grids, x = { y with owedAll := x.owedAll } := by
  obtain ⟨y, hy, heq⟩ := List.mem_map.mp hx
  refine ⟨y, (List.mem_filter.mp hy).1, ?_⟩
  subst heq
  split <;> rfl

/-- A grid left after a change of one grid, under that grid's number. -/
theorem of_mem_closeGrids_modGrid {s : State} {k : Nat} {f : Grid → Grid} (hf : ∀ g, (f g).id = g.id) {x : Grid}
    (hx : x ∈ (closeGrids (modGrid s k f)).grids) (hid : x.id = k) : ∃ y ∈ s.grids, y.id = k ∧ x = { f y with owedAll := x.owedAll } := by
  obtain ⟨z, hz, hxz⟩ := of_mem_closeGrids hx
  have hzid : z.id = k := by rw [← hid, hxz]
  obtain ⟨y, hy, hyid, hzy⟩ := mem_modGrid_same hf hz hzid
  subst hzy
  exact ⟨y, hy, hyid, hxz⟩

/-! Retirement (R125, R389) -/

theorem group?_isSome {s : State} {gr : Group} (h : gr ∈ s.groups) : ∃ x, group? s gr.grid gr.gidx = some x :=
  Option.isSome_iff_exists.mp (List.find?_isSome.mpr ⟨gr, h, by simp⟩)

/-- A group whose shape is unknown stands done, without threads and units (R125). -/
theorem provisionalDone_stands {s : State} {gr : Group} (h : gr ∈ s.groups) :
    ∃ x, group? (provisionalDone s gr) gr.grid gr.gidx = some x ∧ x.st = .provDone ∧ x.spadUnits = 0 ∧ x.opsl = [] := by
  obtain ⟨y, hy⟩ := group?_isSome h
  refine ⟨{ y with st := .provDone, spadUnits := 0, opsl := [] }, ?_, rfl, rfl, rfl⟩
  unfold provisionalDone
  rw [group_modGroup_same]
  · exact congrArg (Option.map _) hy
  · exact fun _ => ⟨rfl, rfl⟩

/-- What a grid counts when one of its groups retires. -/
def countRetired (s : State) (gr : Group) (g : Grid) : Grid :=
  { noteSeen s gr g with nRet := g.nRet + 1, owed := if recCmode g.raw && (gridCsig g).isSome then g.owed ++ [gr.gidx] else g.owed }

theorem retireGroup_eq (s : State) (gr : Group) :
    retireGroup s gr = closeGrids (modGrid (freeGroup s gr) gr.grid (countRetired s gr)) := rfl

theorem groupRetires : GroupRetires := by
  intro s n gr gd hgr hdone hgd
  obtain ⟨hthreads, hgroups, hgrids, hplaced, -⟩ := freeGroup_parts s gr
  refine ⟨_, exec_groupRetire hgr hdone hgd, ?_⟩
  cases hprov : provisional gd with
  | true =>
    rw [if_pos rfl]
    refine ⟨not_mem_of_filter, fun k i hki => ?_, rfl, nofun, fun _ => ⟨rfl, provisionalDone_stands (List.mem_of_getElem? hgr)⟩⟩
    unfold provisionalDone
    exact group_modGroup_other _ (fun _ => ⟨rfl, rfl⟩) hki
  | false =>
    rw [if_neg (by decide)]
    refine ⟨hthreads ▸ not_mem_of_filter, fun k i hki => group?_of_filter_other hgroups hki, hplaced, fun _ => ⟨group?_of_filter_same hgroups, ?_⟩, nofun⟩
    intro x hx hid
    rw [retireGroup_eq] at hx
    obtain ⟨y, hy, hyid, hxy⟩ := of_mem_closeGrids_modGrid (f := countRetired s gr) (fun _ => rfl) hx hid
    refine ⟨y, hgrids ▸ hy, hyid, ?_⟩
    rw [hxy]
    refine ⟨rfl, rfl, rfl, ?_⟩
    simp [Option.isSome_iff_ne_none, countRetired]

/-! The share of a squashed group (R125, R127) -/

theorem zeroShare_none {s : State} {g : Grid} {gi : Nat} (h : (g.spec.bind fun sp => shareOf sp gi) = none) : zeroShare s g gi = s := by
  unfold zeroShare
  rw [h]
  cases ctx? s g.ctx <;> rfl

/-- A group that has a share has one of at least a byte (R120). -/
theorem shareOf_pos {sp : Spec} {gi base size : Nat} (h : shareOf sp gi = some (base, size)) : size ≠ 0 := by
  unfold shareOf at h
  split at h
  · cases h
  · dsimp only at h
    split at h
    · cases h
    · rename_i hok
      cases h
      simp only [Bool.or_eq_true, not_or, beq_iff_eq] at hok
      obtain ⟨⟨⟨-, hsize⟩, -⟩, -⟩ := hok
      exact hsize

/-- Zeros over a range inside one page, which is translated. -/
theorem zeroRange_page {s s1 : State} {c : Ctx} {cid base size pa : Nat} (k : Nat) (hsize : size ≠ 0) (hfits : base % 65536 + size ≤ 65536)
    (htr : hubTranslate s c base ⟨false, true, some cid, false⟩ true = (s1, some pa)) :
    zeroRange c cid (k + 2) s base size = (hubPut s1 (hubMt s1 c base) pa (List.replicate size 0), true) := by
  have hmin : min size (65536 - base % 65536) = size := by omega
  rw [zeroRange, if_neg (by simpa using hsize)]
  dsimp only
  rw [htr, hmin, Nat.sub_self]
  rfl

/-- The share in one page is filled, and nothing else is written. -/
theorem placed_zeroShare_page {s s1 : State} {g : Grid} {gi base size pa : Nat} {c : Ctx} (hc : ctx? s g.ctx = some c)
    (hshare : (g.spec.bind fun sp => shareOf sp gi) = some (base, size)) (hfits : base % 65536 + size ≤ 65536)
    (htr : hubTranslate s c base ⟨false, true, some (recCid g.raw), false⟩ true = (s1, some pa)) :
    (zeroShare s g gi).hub.placed = memWrite s1.hub.placed pa (List.replicate size 0) := by
  have hpos : size ≠ 0 := by
    obtain ⟨sp, -, hsp⟩ := Option.bind_eq_some_iff.mp hshare
    exact shareOf_pos hsp
  unfold zeroShare
  rw [hc, hshare]
  dsimp only
  rw [zeroRange_page _ hpos hfits htr]
  exact placed_hubPut ..

theorem memRead_zeros (m : Memory) (pa size a : Nat) :
    memRead (memWrite m pa (List.replicate size 0)) a = if pa ≤ a ∧ a < pa + size then 0 else memRead m a := by
  split
  · rename_i hin
    obtain ⟨i, rfl⟩ := Nat.exists_eq_add_of_le hin.1
    have hi : i < size := by omega
    rw [memRead_memWrite_same _ _ _ _ (by simpa using hi)]
    simp [List.getD_eq_getElem?_getD, hi]
  · exact memRead_memWrite_other _ _ _ _ (by simp only [List.length_replicate]; omega)

theorem squashedGroupZeroed : SquashedGroupZeroed := by
  intro s n gr gd hgr hready hgd z share hcalm
  obtain ⟨hthreads, hgroups, hgrids, hplaced, hstalls⟩ := freeGroup_parts z gr
  have hz : HubOnly s z := zeroShare_hubOnly _ _ _ (setStalls_hubOnly s [] (.refl s))
  obtain ⟨-, -, -, -, -, -, -, zgrids, zgroups, zthreads, -, -⟩ := hz
  rw [zgroups] at hgroups
  have hplaced' : (squashed gr gd (setStalls s [])).hub.placed = z.hub.placed := hplaced
  refine ⟨squashed gr gd (setStalls s []), ?_, group?_of_filter_same hgroups, hthreads ▸ not_mem_of_filter, fun k i hki => group?_of_filter_other hgroups hki,
    fun x hx hid => ?_, hplaced', fun hnone => ?_, fun c base size s1 pa hc hshare hfits htr a => ?_⟩
  · rw [exec_squashZeroFill hgr hready hgd, hubAct_of_calm]
    exact hstalls.trans hcalm
  · obtain ⟨y, hy, hyid, hxy⟩ := of_mem_closeGrids_modGrid (f := fun x => { x with nSquash := x.nSquash + 1 }) (fun _ => rfl) hx hid
    rw [hgrids, zgrids] at hy
    refine ⟨y, hy, hyid, ?_⟩
    rw [hxy]
    exact ⟨rfl, rfl, rfl, rfl⟩
  · rw [hplaced', show z = setStalls s [] from zeroShare_none hnone]
    rfl
  · rw [hplaced', show z.hub.placed = _ from placed_zeroShare_page hc hshare hfits htr, memRead_zeros]

end Sys2Proof.Machine
end

section
/-! PROOFS (O50, no shape in time). A launch whose shape never comes: every group of it is squashed and its threads are dismissed (R125, R126). -/
namespace Sys2Proof.Machine

/-! A squashed group's threads -/

/-- The threads with these numbers have exited, and nothing of an instance of theirs is left. -/
def Dismissed (D : List Nat) (s : State) : Prop := ∀ u ∈ s.threads, u.uid ∈ D → u.st = .exited ∧ u.inst = none

/-- Which thread is of which group. -/
def membership (s : State) : List (Nat × Nat × Nat) := s.threads.map fun t => (t.uid, t.grid, t.gidx)

theorem membership_of_modWhere {s t : State} {p : Thread → Bool} {f : Thread → Thread} (h : t.threads = modWhere p f s.threads)
    (hf : ∀ v, (f v).uid = v.uid ∧ (f v).grid = v.grid ∧ (f v).gidx = v.gidx) : membership t = membership s := by
  unfold membership
  rw [h]
  refine map_modWhere (fun v => ?_) _
  obtain ⟨huid, hgrid, hgidx⟩ := hf v
  simp only [huid, hgrid, hgidx]

theorem MovesOne.membership {s t : State} {uid : Nat} (h : MovesOne s uid t) : membership t = membership s := by
  obtain ⟨f, hthreads, hplace, -⟩ := h
  refine membership_of_modWhere hthreads fun v => ?_
  obtain ⟨huid, hgrid, hgidx, -⟩ := hplace v
  exact ⟨huid, hgrid, hgidx⟩

theorem MovesOne.dismissed {s t : State} {uid : Nat} {D : List Nat} (h : MovesOne s uid t) (huid : uid ∉ D) (hD : Dismissed D s) : Dismissed D t := by
  obtain ⟨f, hthreads, hplace, -⟩ := h
  intro u hu hmem
  rw [hthreads] at hu
  obtain ⟨v, hv, rfl⟩ := mem_modWhere_iff.mp hu
  split at hmem
  · rename_i hname
    obtain ⟨hfv, -⟩ := hplace v
    rw [hfv, eq_of_beq hname] at hmem
    exact absurd hmem huid
  · rename_i hname
    rw [if_neg hname]
    exact hD v hv hmem

/-- A thread that is dismissed is given no entry. -/
theorem giveEntry_dismissed {D : List Nat} {s : State} (vc : Nat) (h : Dismissed D s) : Dismissed D (giveEntry s vc) := by
  unfold giveEntry
  dsimp only
  split
  · exact h
  · refine List.foldlRecOn (motive := Dismissed D) _ _ h fun t ht x hx => (setWaiting_movesOne t x.uid).dismissed (fun hmem => ?_) ht
    obtain ⟨hxs, hst⟩ := List.mem_filter.mp (List.mem_filter.mp hx).1
    simp [(h x hxs hmem).1] at hst

theorem settleEntries_dismissed {D : List Nat} {s : State} (vc : Nat) (h : Dismissed D s) : Dismissed D (settleEntries s vc) := by
  unfold settleEntries
  exact List.foldlRecOn (motive := Dismissed D) _ _ h fun t ht _ _ => giveEntry_dismissed vc ht

/-- The hub, the grids, the groups, and which thread is of which group stand as before. -/
def RosterKept (s t : State) : Prop := t.hub = s.hub ∧ t.grids = s.grids ∧ t.groups = s.groups ∧ membership t = membership s

theorem RosterKept.refl (s : State) : RosterKept s s := ⟨rfl, rfl, rfl, rfl⟩

theorem RosterKept.trans {s t u : State} (h : RosterKept s t) (k : RosterKept t u) : RosterKept s u := by
  obtain ⟨h1, h2, h3, h4⟩ := h
  obtain ⟨k1, k2, k3, k4⟩ := k
  exact ⟨k1.trans h1, k2.trans h2, k3.trans h3, k4.trans h4⟩

theorem settleEntries_rosterKept (s : State) (vc : Nat) : RosterKept s (settleEntries s vc) := by
  refine settleEntries_keeps (P := RosterKept s) (fun t vc f h => h.trans ⟨rfl, rfl, rfl, rfl⟩) (fun t k h => h.trans ?_) s vc (.refl s)
  have hmove := setWaiting_movesOne t k
  have hroster := hmove.membership
  obtain ⟨-, -, -, hhub, hgrids, hgroups, -⟩ := hmove
  exact ⟨hhub, hgrids, hgroups, hroster⟩

/-- An abort ends at most the instance of its thread, and keeps the hub, the grids and the groups. -/
theorem abortInst_cases (s : State) (uid : Nat) : abortInst s uid = s ∨
    (abortInst s uid).threads = modWhere (fun t => t.uid == uid) (fun t => { t with inst := none }) s.threads ∧
    (abortInst s uid).hub = s.hub ∧ (abortInst s uid).grids = s.grids ∧ (abortInst s uid).groups = s.groups := by
  unfold abortInst
  split
  · dsimp only
    split
    · exact .inr ⟨rfl, rfl, rfl, rfl⟩
    · exact .inl rfl
  · exact .inl rfl

theorem abortInst_rosterKept (s : State) (uid : Nat) : RosterKept s (abortInst s uid) := by
  rcases abortInst_cases s uid with h | ⟨hthreads, hhub, hgrids, hgroups⟩
  · rw [h]; exact .refl s
  · exact ⟨hhub, hgrids, hgroups, membership_of_modWhere hthreads fun _ => ⟨rfl, rfl, rfl⟩⟩

/-- A change of some threads that leaves an exited thread exited, without an instance, calls nobody back. -/
theorem dismissed_of_modWhere {D : List Nat} {s t : State} {p : Thread → Bool} {f : Thread → Thread} (h : t.threads = modWhere p f s.threads)
    (huid : ∀ v, (f v).uid = v.uid) (hf : ∀ v, v.st = .exited → (f v).st = .exited ∧ (f v).inst = none) (hD : Dismissed D s) : Dismissed D t := by
  intro u hu hmem
  rw [h] at hu
  obtain ⟨v, hv, rfl⟩ := mem_modWhere_iff.mp hu
  have hvD : v.uid ∈ D := by
    split at hmem
    · exact huid v ▸ hmem
    · exact hmem
  split
  · exact hf v (hD v hv hvD).1
  · exact hD v hv hvD

theorem abortInst_dismissed {D : List Nat} {s : State} (uid : Nat) (h : Dismissed D s) : Dismissed D (abortInst s uid) := by
  rcases abortInst_cases s uid with heq | ⟨hthreads, -⟩
  · rw [heq]; exact h
  · exact dismissed_of_modWhere hthreads (fun _ => rfl) (fun _ hst => ⟨hst, rfl⟩) h

/-- A thread is of the group. -/
def inGroup (gr : Group) (t : Thread) : Bool := t.grid == gr.grid && t.gidx == gr.gidx

/-- A thread of a group that is squashed (R125). -/
def dismissThread (t : Thread) : Thread := { clearFrame t with st := .exited }

/-- A group that is squashed. -/
def toSquashing (x : Group) : Group :=
  { x with st := .squashing, bars := List.replicate 4 Bar.fresh, gw := Bar.fresh, colls := [], wantIn := false }

/-- The state in which a group has been squashed, before its core's entries are settled. -/
def emptied (s : State) (gr : Group) : State :=
  let s1 := (s.threads.filter (inGroup gr)).foldl (fun s t => abortInst s t.uid) s
  modGroup { s1 with threads := modWhere (inGroup gr) dismissThread s1.threads } gr.grid gr.gidx toSquashing

theorem squashGroup_eq (s : State) (gr : Group) : squashGroup s gr = match gr.at_ with
    | .core vc => settleEntries (emptied s gr) vc
    | .dugout .. => emptied s gr := rfl

theorem emptied_threads (s : State) (gr : Group) : (emptied s gr).threads =
    modWhere (inGroup gr) dismissThread ((s.threads.filter (inGroup gr)).foldl (fun s t => abortInst s t.uid) s).threads := rfl

/-- The instances of a group's threads are aborted. -/
theorem aborts_keep (s : State) (l : List Thread) : RosterKept s (l.foldl (fun s t => abortInst s t.uid) s) :=
  List.foldlRecOn (motive := RosterKept s) _ _ (.refl s) fun _ ht u _ => ht.trans (abortInst_rosterKept _ u.uid)

theorem emptied_parts (s : State) (gr : Group) : (emptied s gr).hub = s.hub ∧ (emptied s gr).grids = s.grids ∧
    (emptied s gr).groups = (modGroup s gr.grid gr.gidx toSquashing).groups ∧ membership (emptied s gr) = membership s := by
  obtain ⟨hhub, hgrids, hgroups, hroster⟩ := aborts_keep s (s.threads.filter (inGroup gr))
  exact ⟨hhub, hgrids, congrArg (modWhere _ _) hgroups, (membership_of_modWhere (emptied_threads s gr) fun _ => ⟨rfl, rfl, rfl⟩).trans hroster⟩

/-- A squash changes the group's own state, and neither the hub, nor a grid, nor which thread is whose. -/
theorem squashGroup_parts (s : State) (gr : Group) : (squashGroup s gr).hub = s.hub ∧ (squashGroup s gr).grids = s.grids ∧
    (squashGroup s gr).groups = (modGroup s gr.grid gr.gidx toSquashing).groups ∧ membership (squashGroup s gr) = membership s := by
  obtain ⟨hhub, hgrids, hgroups, hroster⟩ := emptied_parts s gr
  rw [squashGroup_eq]
  cases gr.at_ with
  | core vc =>
    obtain ⟨ehub, egrids, egroups, eroster⟩ := settleEntries_rosterKept (emptied s gr) vc
    exact ⟨ehub.trans hhub, egrids.trans hgrids, egroups.trans hgroups, eroster.trans hroster⟩
  | dugout k vc => exact ⟨hhub, hgrids, hgroups, hroster⟩

theorem squashGroup_dismissed_of_emptied {D : List Nat} {s : State} {gr : Group} (h : Dismissed D (emptied s gr)) : Dismissed D (squashGroup s gr) := by
  rw [squashGroup_eq]
  cases gr.at_ with
  | core vc => exact settleEntries_dismissed vc h
  | dugout k vc => exact h

/-- Who is dismissed stays so when a group is squashed. -/
theorem squashGroup_dismissed {D : List Nat} {s : State} (gr : Group) (h : Dismissed D s) : Dismissed D (squashGroup s gr) := by
  have haborts : Dismissed D ((s.threads.filter (inGroup gr)).foldl (fun s t => abortInst s t.uid) s) :=
    List.foldlRecOn (motive := Dismissed D) _ _ h fun _ ht u _ => abortInst_dismissed u.uid ht
  exact squashGroup_dismissed_of_emptied (dismissed_of_modWhere (emptied_threads s gr) (fun _ => rfl) (fun _ _ => ⟨rfl, rfl⟩) haborts)

/-- The numbers of a group's threads. -/
def memberIds (s : State) (g gi : Nat) : List Nat := (threadsOf s g gi).map (·.uid)

/-- Where no two threads have one number, a thread with a member's number is a member. -/
theorem inGroup_of_memberIds {s t : State} (hn : (s.threads.map (·.uid)).Nodup) (hroster : membership t = membership s) {gr : Group} {v : Thread}
    (hv : v ∈ t.threads) (hmem : v.uid ∈ memberIds s gr.grid gr.gidx) : inGroup gr v = true := by
  obtain ⟨w, hw, hwu⟩ := List.mem_map.mp hmem
  obtain ⟨hws, hname⟩ := List.mem_filter.mp hw
  have hkey : (v.uid, v.grid, v.gidx) ∈ membership s := hroster ▸ List.mem_map_of_mem hv
  obtain ⟨x, hx, hxv⟩ := List.mem_map.mp hkey
  simp only [Prod.mk.injEq] at hxv
  obtain ⟨huid, hgrid, hgidx⟩ := hxv
  have hxw : x = w := inj_of_nodup_map hn hx hws (huid.trans hwu.symm)
  subst hxw
  simpa [inGroup, ← hgrid, ← hgidx] using hname

/-- A squash dismisses the group's threads. -/
theorem squashGroup_dismisses {s s0 : State} (hn : (s0.threads.map (·.uid)).Nodup) (hroster : membership s = membership s0) (gr : Group) :
    Dismissed (memberIds s0 gr.grid gr.gidx) (squashGroup s gr) := by
  refine squashGroup_dismissed_of_emptied fun u hu hmem => ?_
  obtain ⟨v, hv, rfl⟩ := mem_modWhere_iff.mp hu
  obtain ⟨-, -, -, haborts⟩ := aborts_keep s (s.threads.filter (inGroup gr))
  split at hmem
  · rename_i hin
    rw [if_pos hin]
    exact ⟨rfl, rfl⟩
  · rename_i hin
    exact absurd (inGroup_of_memberIds hn (haborts.trans hroster) hv hmem) hin

/-! Every group of a launch is squashed (R124, R126) -/

/-- A step squashes a group of the grid that is not squashing yet. -/
def squashStep (gid : Nat) (s : State) (gr : Group) : State := if gr.grid == gid && decide (0 ≤ gr.gidx) && gr.st != .squashing then squashGroup s gr else s

theorem squashStep_pos {gid : Nat} {gr : Group} (s : State) (hg : gr.grid = gid) (hst : gr.st ≠ .squashing) : squashStep gid s gr = squashGroup s gr :=
  if_pos (by simp [hg, hst])

theorem squashStep_neg {gid : Nat} {gr : Group} (s : State) (h : ¬ (gr.grid = gid ∧ gr.st ≠ .squashing)) : squashStep gid s gr = s :=
  if_neg (by simpa using h)

/-- Every group that is squashing, or named by a group that is yet to be squashed, is squashing in the end. -/
theorem foldl_squashStep_all {gid : Nat} : ∀ (l : List Group) (s : State),
    (∀ x ∈ s.groups, x.grid = gid → x.st = .squashing ∨ ∃ gr ∈ l, (gr.grid = gid ∧ gr.st ≠ .squashing) ∧ gr.gidx = x.gidx) →
    ∀ x ∈ (l.foldl (squashStep gid) s).groups, x.grid = gid → x.st = .squashing
  | [], s, h, x, hx, hid => by
    rcases h x hx hid with hst | ⟨_, hnil, _⟩
    · exact hst
    · cases hnil
  | a :: l, s, h, x, hx, hid => by
    refine foldl_squashStep_all l (squashStep gid s a) (fun y hy hyid => ?_) x hx hid
    by_cases ha : a.grid = gid ∧ a.st ≠ .squashing
    · rw [squashStep_pos s ha.1 ha.2] at hy
      obtain ⟨-, -, hgroups, -⟩ := squashGroup_parts s a
      rw [hgroups] at hy
      obtain ⟨z, hz, rfl⟩ := mem_modWhere_iff.mp hy
      split
      · exact .inl rfl
      · rename_i hname
        rw [if_neg hname] at hyid
        rcases h z hz hyid with hst | ⟨gr, hgr, hopen, hgi⟩
        · exact .inl hst
        · rcases List.mem_cons.mp hgr with rfl | hgr
          · exact absurd (by simp [hyid, hgi, ha.1]) hname
          · exact .inr ⟨gr, hgr, hopen, hgi⟩
    · rw [squashStep_neg s ha] at hy
      rcases h y hy hyid with hst | ⟨gr, hgr, hopen, hgi⟩
      · exact .inl hst
      · rcases List.mem_cons.mp hgr with rfl | hgr
        · exact absurd hopen ha
        · exact .inr ⟨gr, hgr, hopen, hgi⟩

/-- What one step of a fold establishes and every step keeps holds in the end. -/
theorem foldl_of_mem {α β : Type} {f : β → α → β} {Q P : β → Prop} {a : α} {l : List α} {b : β} (hQ : ∀ b x, Q b → Q (f b x))
    (hP : ∀ b x, P b → P (f b x)) (ha : ∀ b, Q b → P (f b a)) (hb : Q b) (hmem : a ∈ l) : P (l.foldl f b) := by
  obtain ⟨l1, l2, rfl⟩ := List.append_of_mem hmem
  rw [List.foldl_append, List.foldl_cons]
  have hmid : Q (l1.foldl f b) := List.foldlRecOn (motive := Q) _ _ hb fun b h x _ => hQ b x h
  exact List.foldlRecOn (motive := P) _ _ (ha _ hmid) fun b h x _ => hP b x h

theorem squashStep_keeps (gid : Nat) (s : State) (gr : Group) : (squashStep gid s gr).hub = s.hub ∧ (squashStep gid s gr).grids = s.grids ∧
    membership (squashStep gid s gr) = membership s := by
  unfold squashStep
  split
  · obtain ⟨hhub, hgrids, -, hroster⟩ := squashGroup_parts s gr
    exact ⟨hhub, hgrids, hroster⟩
  · exact ⟨rfl, rfl, rfl⟩

theorem squashStep_dismissed {gid : Nat} {D : List Nat} {s : State} (gr : Group) (h : Dismissed D s) : Dismissed D (squashStep gid s gr) := by
  unfold squashStep
  split
  · exact squashGroup_dismissed gr h
  · exact h

/-- The state in which every group of the grid is squashing. -/
def allSquashed (s : State) (gid : Nat) : State := s.groups.foldl (squashStep gid) s

theorem allSquashed_squashing (s : State) (gid : Nat) : ∀ x ∈ (allSquashed s gid).groups, x.grid = gid → x.st = .squashing := by
  refine foldl_squashStep_all s.groups s fun x hx hid => ?_
  by_cases hst : x.st = .squashing
  · exact .inl hst
  · exact .inr ⟨x, hx, ⟨hid, hst⟩, rfl⟩

theorem allSquashed_keeps (s : State) (gid : Nat) : (allSquashed s gid).hub = s.hub ∧ (allSquashed s gid).grids = s.grids ∧
    membership (allSquashed s gid) = membership s := by
  refine List.foldlRecOn (motive := fun t => t.hub = s.hub ∧ t.grids = s.grids ∧ membership t = membership s) _ _ ⟨rfl, rfl, rfl⟩ fun t ht gr _ => ?_
  obtain ⟨hhub, hgrids, hroster⟩ := ht
  obtain ⟨khub, kgrids, kroster⟩ := squashStep_keeps gid t gr
  exact ⟨khub.trans hhub, kgrids.trans hgrids, kroster.trans hroster⟩

/-- The threads of each group that was not squashing yet are dismissed. -/
theorem allSquashed_dismissed {s : State} {gid : Nat} (hn : (s.threads.map (·.uid)).Nodup) {x : Group} (hx : x ∈ s.groups) (hid : x.grid = gid)
    (hst : x.st ≠ .squashing) : Dismissed (memberIds s x.grid x.gidx) (allSquashed s gid) := by
  refine foldl_of_mem (Q := fun t => membership t = membership s) (P := Dismissed (memberIds s x.grid x.gidx)) (fun t gr ht => ?_)
    (fun t gr ht => squashStep_dismissed gr ht) (fun t ht => ?_) rfl hx
  · obtain ⟨-, -, hroster⟩ := squashStep_keeps gid t gr
    exact hroster.trans ht
  · rw [squashStep_pos t hid hst]
    exact squashGroup_dismisses hn ht x

/-- No group of the grid stands done, so none of it retires. -/
theorem settleShape_zero (s : State) (gid : Nat) : settleShape s gid 0 = allSquashed s gid := by
  refine foldl_of_fixed fun gr hgr => if_neg fun h => ?_
  simp only [Bool.and_eq_true, beq_iff_eq] at h
  obtain ⟨hid, hst⟩ := h
  rw [allSquashed_squashing s gid gr hgr hid] at hst
  cases hst

/-- A thread of a group is among its members, whatever its state. -/
theorem uid_mem_memberIds {s t : State} (hroster : membership t = membership s) {u : Thread} (hu : u ∈ t.threads) : u.uid ∈ memberIds s u.grid u.gidx := by
  have hkey : (u.uid, u.grid, u.gidx) ∈ membership s := hroster ▸ List.mem_map_of_mem hu
  obtain ⟨w, hw, hwu⟩ := List.mem_map.mp hkey
  simp only [Prod.mk.injEq] at hwu
  obtain ⟨huid, hgrid, hgidx⟩ := hwu
  exact List.mem_map.mpr ⟨w, List.mem_filter.mpr ⟨hw, by simp [hgrid, hgidx]⟩, huid⟩

/-! The shape-source fault (R126) -/

/-- The launch's shape source has failed. -/
def failShape (x : Grid) : Grid := { x with spec := x.spec.map fun sp => { sp with failed := true } }

/-- The detail word of a shape-source fault: site, queue, and record. -/
def shapeDetail (g : Grid) : Nat := field512 g.raw 0x12 2 % 256 * 2 ^ 24 + (if g.queue = 64 then 0xFF else g.queue) * 2 ^ 16 + g.recNo % 2 ^ 16

theorem shapeFault_late (s : State) (g : Grid) : shapeFault s g 2 0 =
    closeGrids (allSquashed (postEvent (modGrid s g.id failShape) (plainRec g.ctx 9 2 (BitVec.ofNat 32 (shapeDetail g)) 0 0)) g.id) := by
  unfold shapeFault shapeDetail
  simp only [beq_iff_eq, settleShape_zero]
  rfl

theorem shapeTimesOut : ShapeTimesOut := by
  intro s gid g sp hg hspec htruth hok hphase hlate q d
  have hid : g.id = gid := by simpa using List.find?_some hg
  subst hid
  let r := plainRec g.ctx 9 2 (BitVec.ofNat 32 d) 0 0
  let s2 := postEvent (modGrid s g.id failShape) r
  obtain ⟨hhub, hgrids, hroster⟩ := allSquashed_keeps s2 g.id
  obtain ⟨-, -, -, -, -, -, -, pgrids, pgroups, pthreads, -, -⟩ : HubOnly (modGrid s g.id failShape) s2 := postEvent_hubOnly _ r (.refl _)
  refine ⟨closeGrids (allSquashed s2 g.id), modGrid s g.id failShape, ?_, rfl, hhub, fun x hx hxid p hp => ?_, allSquashed_squashing s2 g.id,
    fun huids x hx hxid hst u hu hug hugi => ?_⟩
  · rw [exec_shapeSourceTimeout hg hspec htruth hok hphase hlate, shapeFault_late]
    rfl
  · obtain ⟨z, hz, hxz⟩ := of_mem_closeGrids hx
    rw [hgrids, pgrids] at hz
    have hzid : z.id = g.id := by rw [← hxid, hxz]
    obtain ⟨y, -, -, hzy⟩ := mem_modGrid_same (f := failShape) (fun _ => rfl) hz hzid
    rw [hxz, hzy] at hp
    obtain ⟨p', -, rfl⟩ := Option.map_eq_some_iff.mp hp
    rfl
  · have hD := allSquashed_dismissed (s := s2) (gid := g.id) (pthreads ▸ huids) (pgroups ▸ hx) hxid hst
    have hmem := uid_mem_memberIds hroster hu
    rw [hug, ← hxid, hugi] at hmem
    exact hD u hu hmem

/-- Settles O50: each event is its act where the rule's conditions hold, a decrement takes 1 from the signal's word, and what a hand-out, a return, an
end and a failed shape leave is the five lemmas above. -/
theorem groupEventsComplete : Obligations.GroupEventsComplete := by
  refine ⟨fun s => ⟨fun g vd vc hroom hret hnext => ⟨handNumber s, exec_groupHandout_new hroom hret hnext⟩, fun n gr vc => exec_groupStart,
    fun n gr gd hgr hdone hgd => ⟨fun hprov => ?_, fun hprov => ?_⟩, fun n gr gd => exec_squashZeroFill,
    fun k g n => exec_completionDecrement_single, fun k g n gi => exec_completionDecrement_counted, fun gid g sp => exec_shapeSourceTimeout⟩,
    fun s ctx n pa c => decrement_takes_one, groupHandedOut, groupReturned, groupRetires, squashedGroupZeroed, shapeTimesOut⟩
  · rw [exec_groupRetire hgr hdone hgd, hprov]
    rfl
  · rw [exec_groupRetire hgr hdone hgd, hprov]
    rfl

end Sys2Proof.Machine
end

section
/-! PROOFS (O31). Words that act at commit, and words that do nothing (R151, R157, R167, R174, R346). -/
namespace Sys2Proof.Machine

theorem handsOn_of_commitWord {i : Instr} (h : commitWord i = true) : HandsOn i := fun s _ _ hi hf => (exec_commitWord s h).trans (fireSink_fires hi hf)

/-- Settles O31: every word that acts at commit takes its operands and sends nothing. -/
theorem commitWordsHandOn : Obligations.CommitWordsHandOn := by
  refine ⟨?_, fun i s x sh h => handsOn_of_commitWord h s x sh, fun s => ⟨fun _ => rfl, fun _ => rfl, fun _ => rfl, fun _ => rfl, fun _ => rfl⟩⟩
  unfold EveryCommitWordHandsOn
  and_intros <;> exact fun _ => handsOn_of_commitWord rfl

end Sys2Proof.Machine
end

section
/-! PROOFS (O30). What a word that reads memory changes when it fires: a load its instance and at most one miss, a `pld` what the hub's read of the channel
comes to, a `pf` lines of the caches (R151, R152, R230, R231, R268). -/
namespace Sys2Proof.Machine

/-! One instance -/

/-- A change of one thread's instance keeps what every thread holds beside it. -/
theorem modThread_inst_framesKept (s : State) (uid : Nat) (ins : Inst) : FramesKept s (modThread s uid fun u => { u with inst := some ins }) := by
  refine ⟨rfl, rfl, rfl, rfl, rfl, rfl, ?_⟩
  simp only [modThread, modWhere, List.map_map]
  exact List.map_congr_left fun u _ => by simp only [Function.comp]; split <;> rfl

theorem FramesKept.trans {s t u : State} (h : FramesKept s t) (k : FramesKept t u) : FramesKept s u := by
  obtain ⟨h1, h2, h3, h4, h5, h6, h7⟩ := h
  obtain ⟨k1, k2, k3, k4, k5, k6, k7⟩ := k
  exact ⟨k1.trans h1, k2.trans h2, k3.trans h3, k4.trans h4, k5.trans h5, k6.trans h6, k7.trans h7⟩

theorem memoryKept_of_placed {s t : State} (h : t.hub.placed = s.hub.placed) : MemoryKept s t := fun _ => by rw [h]

/-! Loads (R231, R248, R254) -/

/-- What a load that fires leaves: the state as it was, or that of its look-up, and one instance changed. -/
theorem fireLoad_cases {i : Instr} {s t : State} {f : Site → Shape → State × LoadAct} (h : fireLoad i s f = .next t) :
    t = s ∨ ∃ x sh ins s1, site? s = some x ∧ (s1 = s ∨ s1 = (f x sh).1) ∧ t = modThread s1 x.t.uid fun u => { u with inst := some ins } := by
  unfold fireLoad at h
  split at h
  next x sh hx _ =>
    split at h
    · split at h
      · cases h; exact .inr ⟨x, sh, _, s, hx, .inl rfl, rfl⟩
      · dsimp only at h
        split at h <;> cases h <;> exact .inr ⟨x, sh, _, _, hx, .inr rfl, rfl⟩
    · cases h; exact .inl rfl
  next => cases h; exact .inl rfl

/-- At most one miss is put before the walkers, of the thread's context and core. -/
theorem addMiss_cases (s : State) (t : Thread) (cidf va : Nat) (need : Need) : ∃ ms, addMiss s t cidf va need = { s with hub := { s.hub with misses := ms } } ∧
    (ms = s.hub.misses ∨ ∃ m, ms = s.hub.misses ++ [m] ∧ m.ctx = t.ctx ∧ m.vc = t.vc ∧ m.write = (need != .read)) := by
  unfold addMiss
  dsimp only
  split
  · exact ⟨_, rfl, .inl rfl⟩
  · exact ⟨_, rfl, .inr ⟨_, rfl, rfl, rfl, rfl⟩⟩

/-- A global read puts at most one miss, of its thread's context and core and for no write, before the walkers. -/
theorem globalLoad_misses (s : State) (x : Site) (buf idx w : Nat) : ∃ ms, (globalLoad s x buf idx w).1 = { s with hub := { s.hub with misses := ms } } ∧
    (ms = s.hub.misses ∨ ∃ m, ms = s.hub.misses ++ [m] ∧ m.ctx = x.t.ctx ∧ m.vc = x.t.vc ∧ m.write = false) := by
  unfold globalLoad
  split
  · exact ⟨_, rfl, .inl rfl⟩
  · exact ⟨_, rfl, .inl rfl⟩
  · split
    · exact ⟨_, rfl, .inl rfl⟩
    · exact addMiss_cases ..
    · exact ⟨_, rfl, .inl rfl⟩

/-- What the words that read global memory through a buffer leave: the state as it was, or one instance changed and at most one miss. -/
def ReadsGlobal (s t : State) : Prop := t = s ∨ ∃ x ins ms, site? s = some x ∧
  t = modThread { s with hub := { s.hub with misses := ms } } x.t.uid (fun u => { u with inst := some ins }) ∧
  (ms = s.hub.misses ∨ ∃ m, ms = s.hub.misses ++ [m] ∧ m.ctx = x.t.ctx ∧ m.vc = x.t.vc ∧ m.write = false)

theorem fireLoad_readsGlobal {i : Instr} {s t : State} {buf : Nat} {idx w : Site → Shape → Nat}
    (h : fireLoad i s (fun x sh => globalLoad s x buf (idx x sh) (w x sh)) = .next t) : ReadsGlobal s t := by
  rcases fireLoad_cases h with rfl | ⟨x, sh, ins, s1, hx, rfl | rfl, ht⟩
  · exact .inl rfl
  · exact .inr ⟨x, ins, _, hx, ht, .inl rfl⟩
  · obtain ⟨ms, hms, hmiss⟩ := globalLoad_misses s x buf (idx x sh) (w x sh)
    exact .inr ⟨x, ins, ms, hx, by rw [ht, hms], hmiss⟩

theorem exec_load_readsGlobal {f : FmtM} {s t : State} (h : exec (.ld f) s = .next t ∨ exec (.ldc f) s = .next t ∨ exec (.ldacq f) s = .next t) :
    ReadsGlobal s t := by
  rcases h with h | h | h
  · exact fireLoad_readsGlobal ((exec_ld f s).symm.trans h)
  · exact fireLoad_readsGlobal ((exec_ldc f s).symm.trans h)
  · exact fireLoad_readsGlobal ((exec_ldacq f s).symm.trans h)

theorem ReadsGlobal.placed {s t : State} (h : ReadsGlobal s t) : t.hub.placed = s.hub.placed := by
  rcases h with rfl | ⟨x, ins, ms, -, rfl, -⟩ <;> rfl

/-! Channels (R230, R248) -/

theorem readChannelEnt_hubOnly (s : State) (ctx ch : Nat) : HubOnly s (readChannelEnt s ctx ch).1 := by
  unfold readChannelEnt
  split
  · exact .refl s
  · exact hubReadVa_hubOnly _ _ _ _ _ (.refl s)

theorem openChannel_hubOnly (s : State) (ctx ch : Nat) : HubOnly s (openChannel s ctx ch).1 := by
  have hread := readChannelEnt_hubOnly s ctx ch
  unfold openChannel
  split
  · exact hubReads_hubOnly _ _ _ (fst_hubOnly (by assumption) hread)
  · exact fst_hubOnly (by assumption) hread

/-- What a `pld` leaves: the state as it was, or what the hub's read of its channel came to where it was made, and one instance changed. -/
theorem exec_pld_cases {f : FmtM} {s t : State} (h : exec (.pld f) s = .next t) : t = s ∨ ∃ x ins s1, site? s = some x ∧
    (s1 = s ∨ s1 = (openChannel s x.t.ctx f.buf.toNat).1) ∧ t = modThread s1 x.t.uid fun u => { u with inst := some ins } := by
  rcases fireLoad_cases (f := fun x sh => _) h with rfl | ⟨x, sh, ins, s1, hx, hs1, ht⟩
  · exact .inl rfl
  · refine .inr ⟨x, ins, s1, hx, hs1.elim .inl fun hs1 => ?_, ht⟩
    dsimp only at hs1
    split at hs1
    · exact .inl hs1
    · exact .inr hs1

/-! Lines of the caches (R242 to R244, R268) -/

theorem CachesOnly.refl (s : State) : CachesOnly s s := ⟨rfl, rfl, rfl, rfl⟩

theorem CachesOnly.trans {s t u : State} (h : CachesOnly s t) (k : CachesOnly t u) : CachesOnly s u := by
  obtain ⟨hstate, hhub, hdies, hcores⟩ := h
  obtain ⟨kstate, khub, kdies, kcores⟩ := k
  exact ⟨kstate.trans (by rw [hstate]), khub.trans (by rw [hhub]), kdies.trans hdies, kcores.trans hcores⟩

theorem foldl_cachesOnly {α : Type} {f : State → α → State} (hf : ∀ s a, CachesOnly s (f s a)) (l : List α) (s : State) : CachesOnly s (l.foldl f s) :=
  List.foldlRecOn (motive := CachesOnly s) _ _ (.refl s) fun _ h _ _ => h.trans (hf _ _)

theorem map_modAt {α β : Type} {f : α → α} {g : α → β} (hf : ∀ a, g (f a) = g a) (l : List α) (i : Nat) : (modAt f l i).map g = l.map g := by
  rw [modAt_eq_modify]
  exact List.ext_getElem? fun k => by rw [List.getElem?_map, List.getElem?_map, List.getElem?_modify]; cases l[k]? <;> simp [apply_ite g, hf]

theorem modDie_cachesOnly (s : State) (d : Nat) {f : Die → Die} (hf : ∀ x, { f x with l2 := [], l2Wiped := 0 } = { x with l2 := [], l2Wiped := 0 }) :
    CachesOnly s (modDie s d f) := ⟨rfl, rfl, map_modAt hf _ _, rfl⟩

theorem modCore_cachesOnly (s : State) (vc : Nat) {f : Core → Core} (hf : ∀ c, { f c with l1 := [] } = { c with l1 := [] }) :
    CachesOnly s (modCore s vc f) := ⟨rfl, rfl, rfl, map_modAt hf _ _⟩

theorem touchL3_cachesOnly (s : State) (line : Nat) (dirty : BitVec 256) (z : Option Bool) : CachesOnly s (touchL3 s line dirty z) := by
  unfold touchL3
  split
  · exact .refl s
  · dsimp only
    split <;> exact ⟨rfl, rfl, rfl, rfl⟩

theorem writeBackFrom_cachesOnly (s : State) (line d : Nat) : CachesOnly s (writeBackFrom s line d) := by
  unfold writeBackFrom
  split
  · split
    · exact .refl s
    · exact (touchL3_cachesOnly ..).trans (modDie_cachesOnly _ _ fun _ => rfl)
  · exact .refl s

theorem insertL2_cachesOnly (s : State) (d : Nat) (l : L2Line) : CachesOnly s (insertL2 s d l) := by
  refine CachesOnly.trans ?_ (modDie_cachesOnly _ _ fun _ => rfl)
  split
  · split
    · exact (writeBackFrom_cachesOnly ..).trans (modDie_cachesOnly _ _ fun _ => rfl)
    · exact .refl s
  · exact .refl s

/-- A line on its way into a slice passes through the L3. -/
theorem passL3_cachesOnly (s : State) (line : Nat) : CachesOnly s (touchL3 (writeBackLine s line) line 0 none) :=
  (foldl_cachesOnly (fun s d => writeBackFrom_cachesOnly s line d) _ s).trans (touchL3_cachesOnly ..)

theorem touchLine_cachesOnly (s : State) (d pa : Nat) : CachesOnly s (touchLine s d pa) := by
  unfold touchLine
  dsimp only
  split
  · split
    · exact .refl s
    · exact (passL3_cachesOnly ..).trans (modDie_cachesOnly _ _ fun _ => rfl)
  · exact (passL3_cachesOnly ..).trans (insertL2_cachesOnly ..)

theorem readGlobal_cachesOnly (s : State) (t : Thread) (pa mt n va : Nat) : CachesOnly s (readGlobal s t pa mt n va).1 := by
  unfold readGlobal
  split
  · split
    · exact .refl s
    · split
      · exact .refl s
      · split
        · exact .refl s
        · exact (touchLine_cachesOnly ..).trans (modCore_cachesOnly _ _ fun _ => rfl)
  · split
    · exact .refl s
    · split <;> exact .refl s

/-- Where the caches alone differ, a core stores what it stored. -/
theorem CachesOnly.store {s t : State} (h : CachesOnly s t) (vc : Nat) : (core t vc).store = (core s vc).store := by
  obtain ⟨-, -, -, hcores⟩ := h
  have hstores : t.cores.map Core.store = s.cores.map Core.store := by simpa only [List.map_map, Function.comp_def] using congrArg (List.map Core.store) hcores
  calc (core t vc).store = (t.cores.map Core.store).getD vc Core.reset.store := (List.getD_map _ _ _).symm
    _ = (s.cores.map Core.store).getD vc Core.reset.store := by rw [hstores]
    _ = (core s vc).store := List.getD_map _ _ _

theorem CachesOnly.frames {s t : State} (h : CachesOnly s t) : FramesKept s t := by
  obtain ⟨hstate, -⟩ := h
  rw [hstate]
  exact ⟨rfl, rfl, rfl, rfl, rfl, rfl, rfl⟩

theorem CachesOnly.placed {s t : State} (h : CachesOnly s t) : t.hub.placed = s.hub.placed := by
  obtain ⟨-, hhub, -⟩ := h
  rw [hhub]

/-! Prefetches (R268) -/

/-- The state in which a prefetch sends its token: the line that it names brought in where every check passes. -/
def prefetched (f : FmtM) (s : State) (x : Site) (sh : Shape) : State :=
  match siteGate s x sh with
  | some _ => s
  | none => match bufAddr (bufOf s x.t f.buf.toNat) (portVal s x sh 0) (hoffAt x.ws x.idx) 1 .read with
    | .va va => match translate s x.t (cidfOf s x.t) va .read with
      | .pa pa 0 =>
        let d := dieOf s x.t.vc
        if homeMisses s d 0 pa || s.hub.badSectors.contains (pa / 64) then s
        else if f.wcode == 0 then (readGlobal s x.t pa 0 1 va).1
        else touchLine s d pa
      | _ => s
    | _ => s

theorem exec_pf (f : FmtM) (s : State) : exec (.pf f) s = match site? s, shape (.pf f) with
    | some x, some sh => if canFire x sh then .next (emit (prefetched f s x sh) x .null 0) else .next s
    | _, _ => .next s := rfl

theorem prefetched_cachesOnly (f : FmtM) (s : State) (x : Site) (sh : Shape) : CachesOnly s (prefetched f s x sh) := by
  unfold prefetched
  split
  · exact .refl s
  · split
    · split
      · dsimp only
        split
        · exact .refl s
        · split
          · exact readGlobal_cachesOnly ..
          · exact touchLine_cachesOnly ..
      · exact .refl s
    · exact .refl s

theorem exec_pf_fires {f : FmtM} {s : State} {x : Site} {sh : Shape} (hi : shape (.pf f) = some sh) (hf : Fires s x sh) :
    exec (.pf f) s = .next (emit (prefetched f s x sh) x .null 0) := by
  obtain ⟨hx, hfire⟩ := hf
  rw [exec_pf, hx, hi]
  exact if_pos hfire

theorem exec_pf_cases {f : FmtM} {s t : State} (h : exec (.pf f) s = .next t) : t = s ∨ ∃ x s1, CachesOnly s s1 ∧ t = emit s1 x .null 0 := by
  rw [exec_pf] at h
  split at h
  · split at h <;> cases h
    · exact .inr ⟨_, _, prefetched_cachesOnly .., rfl⟩
    · exact .inl rfl
  · cases h; exact .inl rfl

/-- What a `pf` changes beside caches is one instance. -/
theorem exec_pf_keeps {f : FmtM} {s t : State} (h : exec (.pf f) s = .next t) :
    FramesKept s t ∧ t.hub.placed = s.hub.placed ∧ ∀ vc, (core t vc).store = (core s vc).store := by
  rcases exec_pf_cases h with rfl | ⟨x, s1, hs1, rfl⟩
  · exact ⟨(CachesOnly.refl _).frames, rfl, fun _ => rfl⟩
  · exact ⟨hs1.frames.trans (modThread_inst_framesKept ..), hs1.placed, hs1.store⟩

/-- Settles O30: a global load, a `pld` and a `pf` change one instance, and beside it a miss, what the channel's read comes to, or lines of caches. -/
theorem loadsAndPrefetchesKeepFrames : Obligations.LoadsAndPrefetchesKeepFrames := by
  refine ⟨fun f s t h => exec_load_readsGlobal h, fun f s t h => ?_, fun s x f sh hi hf => ⟨_, exec_pf_fires hi hf, prefetched_cachesOnly ..⟩,
    fun f s t h => ?_⟩
  · rcases exec_pld_cases h with rfl | ⟨x, ins, s1, hx, hs1, ht⟩
    · exact .inl rfl
    · have hkept : HubOnly s s1 := by
        rcases hs1 with rfl | rfl
        · exact .refl _
        · exact openChannel_hubOnly ..
      have heq := hkept.eq
      obtain ⟨-, -, -, -, -, -, -, -, -, -, hsent, -⟩ := hkept
      exact .inr ⟨x, ins, s1, hx, hs1, ht, heq, hsent⟩
  · obtain ⟨hframes, hplaced, hstore⟩ := exec_pf_keeps h
    exact ⟨hframes, memoryKept_of_placed hplaced, hstore⟩

end Sys2Proof.Machine
end

section
/-! PROOFS (O32). A word that reads no global memory changes one instance, and few words touch the placed memory when they fire (R149, R151, R152, R378). -/
namespace Sys2Proof.Machine

theorem exec_sel_instanceOnly {f : FmtA} {s t : State} (h : exec (.sel f) s = .next t) : InstanceOnly s t := by
  change execSel f s = _ at h
  unfold execSel at h
  split at h
  · split at h <;> cases h
    · exact emit_instanceOnly (by assumption) ..
    · exact .inl rfl
  · cases h; exact .inl rfl

theorem exec_lds_instanceOnly {f : FmtM} {s t : State} (h : exec (.lds f) s = .next t) : InstanceOnly s t := by
  refine fireLoad_instanceOnly (f := fun x sh => _) (fun x sh => ?_) h
  split <;> rfl

theorem exec_ldsn_instanceOnly {f : FmtM} {s t : State} (h : exec (.ldsn f) s = .next t) : InstanceOnly s t := by
  refine fireLoad_instanceOnly (f := fun x sh => _) (fun x sh => ?_) h
  split
  · split
    · rfl
    · split <;> rfl
  · rfl
  · rfl

/-- A quiet word acts at commit, does nothing, computes a token, or reads the scratchpad: it changes one instance. -/
theorem exec_quietWord_instanceOnly {i : Instr} {s t : State} (hq : quietWord i = true) (h : exec i s = .next t) : InstanceOnly s t := by
  by_cases hc : commitWord i = true
  · exact fireSink_instanceOnly ((exec_commitWord s hc).symm.trans h)
  have hquiet : (quietWord i && !commitWord i) = true := by simp [hq, hc]
  clear hq hc
  cases i
  case nop | himm | hoff | htgt | hsch => cases h; exact .inl rfl
  case sel => exact exec_sel_instanceOnly h
  case lds => exact exec_lds_instanceOnly h
  case ldsn => exact exec_ldsn_instanceOnly h
  case mov => exact fireWith_instanceOnly ((exec_mov_fireWith _ _).symm.trans h)
  case add | sub | mul | mulhi | mad | div | rem | min | max | abs | neg | and | or | xor | not | andn | shl | shr | sar | rotl | popc | clz | ctz | brev
      | bfx | bfi | cmp | adds | subs | dot4 | dot2 | ixa | fsh | perm | lop3 | fadd | fsub | fmul | fma | fmin | fmax | fminn | fmaxn | fabs | fneg | fcmp
      | fclass | fdiv | fsqrt | frnd | ffrac | fscale | fgetx | fsign | fdot2 | cvt | cvtsr | pack | unpack | qnt | dqnt | rcp | rsq | ex2 | lg2 | sinpi | cospi
      | tanh | sigm | rdsys | xget | rdctl | perf => exact fireWith_instanceOnly h
  all_goals cases hquiet

/-- A word that is not quiet is one of the words that look beyond their own instance. -/
theorem quietWord_or_reads {i : Instr} (h : isWord i = true) : quietWord i = true ∨ (∃ f, i = .rd f) ∨ (∃ f, i = .pld f) ∨ (∃ f, i = .pf f) ∨
    ∃ f, i = .ld f ∨ i = .ldc f ∨ i = .ldacq f := by
  cases i
  case rd f => exact .inr (.inl ⟨f, rfl⟩)
  case pld f => exact .inr (.inr (.inl ⟨f, rfl⟩))
  case pf f => exact .inr (.inr (.inr (.inl ⟨f, rfl⟩)))
  case ld f => exact .inr (.inr (.inr (.inr ⟨f, .inl rfl⟩)))
  case ldc f => exact .inr (.inr (.inr (.inr ⟨f, .inr (.inl rfl)⟩)))
  case ldacq f => exact .inr (.inr (.inr (.inr ⟨f, .inr (.inr rfl)⟩)))
  all_goals exact .inl h

/-- Settles O32: a quiet word changes one instance, and of the others a load and a `pf` keep every byte, a `pld` all but what its channel's read sets. -/
theorem quietWordsChangeOneInstance : Obligations.QuietWordsChangeOneInstance := by
  refine ⟨fun i s t => exec_quietWord_instanceOnly, fun i s t hw hrd hpld h => memoryKept_of_placed ?_, fun f s t h => ?_⟩
  · rcases quietWord_or_reads hw with hq | ⟨f, rfl⟩ | ⟨f, rfl⟩ | ⟨f, rfl⟩ | ⟨f, hf⟩
    · exact (exec_quietWord_instanceOnly hq h).memory
    · exact absurd rfl (hrd f)
    · exact absurd rfl (hpld f)
    · obtain ⟨-, hplaced, -⟩ := exec_pf_keeps h
      exact hplaced
    · exact (exec_load_readsGlobal (f := f) (by rcases hf with rfl | rfl | rfl <;> simp [h])).placed
  · rcases exec_pld_cases h with rfl | ⟨x, ins, s1, hx, rfl | rfl, rfl⟩
    · exact .inl (memoryKept_of_placed rfl)
    · exact .inl (memoryKept_of_placed rfl)
    · exact .inr ⟨x, hx, memoryKept_of_placed rfl⟩

end Sys2Proof.Machine
end

section
/-! PROOFS (O44). Taking a fault: the abort and the parked thread, the record posted, and the threads that its free entry goes to (R132, R151, R246, R366). -/
namespace Sys2Proof.Machine

/-! The thread itself (R151, R246) -/

/-- A thread without its instance (R151). -/
def withoutInst (v : Thread) : Thread := { v with inst := none }

/-- An abort leaves its thread without an instance, and every other thread as it was. -/
theorem thread?_abortInst {s : State} {uid : Nat} {t : Thread} (h : thread? s uid = some t) : thread? (abortInst s uid) uid = some (withoutInst t) := by
  unfold abortInst
  rw [h]
  dsimp only
  split
  · exact (thread_modThread_same s uid withoutInst fun _ => rfl).trans (congrArg (Option.map withoutInst) h)
  next hinst =>
    have hnone : t.inst = none := by simpa using hinst
    have ht : withoutInst t = t := by unfold withoutInst; rw [← hnone]
    rw [h, ht]

theorem thread?_abortInst_other (s : State) {uid k : Nat} (h : k ≠ uid) : thread? (abortInst s uid) k = thread? s k := by
  rcases abortInst_cases s uid with heq | ⟨hthreads, -⟩
  · rw [heq]
  · exact (thread?_congr (t := abortInst s uid) (s := modThread s uid withoutInst) hthreads k).trans (thread_modThread_other s _ (by exact fun _ => rfl) h)

theorem abortInst_effects (s : State) (uid : Nat) : (abortInst s uid).effects = s.effects := by
  unfold abortInst
  split
  · dsimp only
    split <;> rfl
  · rfl

/-- The record of a fault that parks (R246, R365, R366). -/
def parkRec (t : Thread) (f : AccFault) : EvRec := threadRec t (if f.kind == 1 && f.cause == 2 then { f with data := 0 } else f) true

/-- A thread parked with the record of a fault. -/
def park (s : State) (r : EvRec) (f : AccFault) (v : Thread) : Thread :=
  { v with st := .parked, wait := none, kept := some r, parkAt := watchNow s v.ctx, parkLarge := (f.kind == 1 && f.cause == 2) && f.data == 1 }

/-- The state in which the thread has parked, before its record is posted. -/
def parkedOn (s : State) (uid : Nat) (t : Thread) (f : AccFault) : State := modThread (abortInst s uid) uid (park s (parkRec t f) f)

theorem takeFault_eq {s : State} {uid : Nat} {t : Thread} (h : thread? s uid = some t) (f : AccFault) :
    takeFault s uid f = settleEntries (postEvent (parkedOn s uid t f) (parkRec t f)) t.vc := by
  unfold takeFault
  rw [h]
  rfl

theorem parkRec_eq (t : Thread) (f : AccFault) : parkRec t f =
    ⟨f.kind, f.cause, t.ctx, t.vc, 1, t.frame, linkWord t.ptr, f.detail, f.addr, if f.kind = 1 ∧ f.cause = 2 then 0 else f.data, 0, []⟩ := by
  unfold parkRec
  by_cases hm : f.kind = 1 ∧ f.cause = 2
  · rw [if_pos hm, if_pos (by simpa using hm)]; rfl
  · rw [if_neg hm, if_neg (by simpa using hm)]; rfl

theorem parkedOn_keeps (s : State) (uid : Nat) (t : Thread) (f : AccFault) : (parkedOn s uid t f).hub = s.hub ∧ (parkedOn s uid t f).groups = s.groups ∧
    (parkedOn s uid t f).grids = s.grids ∧ (parkedOn s uid t f).effects = s.effects ∧
    (parkedOn s uid t f).threads.map (·.uid) = s.threads.map (·.uid) := by
  obtain ⟨hhub, hgrids, hgroups, hroster⟩ := abortInst_rosterKept s uid
  refine ⟨hhub, hgroups, hgrids, abortInst_effects s uid, (map_modWhere (f := park s (parkRec t f) f) (fun _ => rfl) _).trans ?_⟩
  simpa only [membership, List.map_map, Function.comp_def] using congrArg (List.map Prod.fst) hroster

theorem thread?_parkedOn_other (s : State) {uid k : Nat} (t : Thread) (f : AccFault) (h : k ≠ uid) : thread? (parkedOn s uid t f) k = thread? s k :=
  (thread_modThread_other _ (park s (parkRec t f) f) (fun _ => rfl) h).trans (thread?_abortInst_other s h)

/-- The thread has parked with a record of its fault, as it stood at its admission (R151, R246). -/
def Parked (t v : Thread) (r : EvRec) : Prop :=
  v.st = .parked ∧ v.inst = none ∧ v.wait = none ∧ v.kept = some r ∧ v.slots = t.slots ∧ v.xs = t.xs ∧ v.ptr = t.ptr ∧ v.seq = t.seq

theorem thread?_parkedOn {s : State} {uid : Nat} {t : Thread} (h : thread? s uid = some t) (f : AccFault) :
    ∃ v, thread? (parkedOn s uid t f) uid = some v ∧ Parked t v (parkRec t f) :=
  ⟨_, (thread_modThread_same _ uid (park s (parkRec t f) f) fun _ => rfl).trans (congrArg (Option.map _) (thread?_abortInst h)), rfl, rfl, rfl, rfl, rfl, rfl, rfl, rfl⟩

/-! The entry that becomes free (R132) -/

/-- A thread that is not moved is the thread that it was. -/
theorem MovesOne.thread_other {s t : State} {k uid : Nat} (h : MovesOne s k t) (hk : uid ≠ k) : thread? t uid = thread? s uid := by
  obtain ⟨f, hthreads, hplace, -⟩ := h
  exact (thread?_congr hthreads uid).trans (thread_modThread_other s f (fun v => (hplace v).1) hk)

/-- Threads keep their numbers and their places, and one that has an entry, or none to wait for, stays as it is. -/
structure AssignsOnly (s t : State) : Prop where
  uids : t.threads.map (·.uid) = s.threads.map (·.uid)
  places : ∀ k v, thread? s k = some v → ∃ w, thread? t k = some w ∧ SamePlace v w ∧ (v.st ≠ .unassigned → w = v)

theorem AssignsOnly.refl (s : State) : AssignsOnly s s := ⟨rfl, fun _ v hv => ⟨v, hv, .refl v, fun _ => rfl⟩⟩

theorem AssignsOnly.trans {s t u : State} (h : AssignsOnly s t) (k : AssignsOnly t u) : AssignsOnly s u := by
  refine ⟨k.uids.trans h.uids, fun n v hv => ?_⟩
  obtain ⟨w, hw, hvw, hst⟩ := h.places n v hv
  obtain ⟨x, hx, hwx, hst2⟩ := k.places n w hw
  refine ⟨x, hx, hvw.trans hwx, fun hv => ?_⟩
  have hwv := hst hv
  rw [hst2 (hwv ▸ hv), hwv]

theorem AssignsOnly.of_threads {s t : State} (h : t.threads = s.threads) : AssignsOnly s t :=
  ⟨by rw [h], fun k v hv => ⟨v, (thread?_congr h k).trans hv, .refl v, fun _ => rfl⟩⟩

/-- Putting a thread that was unassigned to wait leaves every other that was not where it is. -/
theorem AssignsOnly.setWaiting {s t : State} (h : AssignsOnly s t) {x : Thread} (hx : thread? s x.uid = some x) (hst : x.st = .unassigned) :
    AssignsOnly s (setWaiting t x.uid) := by
  have hmove := setWaiting_movesOne t x.uid
  refine ⟨?_, fun k v hv => ?_⟩
  · have huids := congrArg (List.map Prod.fst) hmove.membership
    simp only [membership, List.map_map, Function.comp_def] at huids
    exact huids.trans h.uids
  · obtain ⟨w, hw, hvw, hkeep⟩ := h.places k v hv
    by_cases hk : k = x.uid
    · obtain ⟨y, hy, hwy⟩ := hmove.thread hw
      refine ⟨y, hy, hvw.trans hwy, fun hne => absurd ?_ hne⟩
      rw [hk, hx] at hv
      cases hv; exact hst
    · exact ⟨w, (hmove.thread_other hk).trans hw, hvw, hkeep⟩

theorem giveEntry_assignsOnly {s : State} (hn : (s.threads.map (·.uid)).Nodup) (vc : Nat) : AssignsOnly s (giveEntry s vc) := by
  unfold giveEntry
  dsimp only
  split
  · exact .refl s
  · refine List.foldlRecOn (motive := AssignsOnly s) _ _ (.refl s) fun t ht x hx => ?_
    obtain ⟨hmem, hun⟩ := List.mem_filter.mp (List.mem_of_mem_filter hx)
    obtain ⟨-, hst⟩ := Bool.and_eq_true_iff.mp hun
    exact ht.setWaiting (find?_uid_of_mem hn hmem) (eq_of_beq hst)

theorem settleEntries_assignsOnly {s : State} (hn : (s.threads.map (·.uid)).Nodup) (vc : Nat) : AssignsOnly s (settleEntries s vc) := by
  refine List.foldlRecOn (motive := AssignsOnly s) _ _ (.of_threads rfl) fun t ht _ _ => ht.trans (giveEntry_assignsOnly ?_ vc)
  rw [ht.uids]; exact hn

/-- Entries are given out without a change of the hub, the groups, the grids and the effects. -/
theorem settleEntries_keepsRest (s : State) (vc : Nat) : (settleEntries s vc).hub = s.hub ∧ (settleEntries s vc).groups = s.groups ∧
    (settleEntries s vc).grids = s.grids ∧ (settleEntries s vc).effects = s.effects := by
  obtain ⟨hhub, hgrids, hgroups, -⟩ := settleEntries_rosterKept s vc
  obtain ⟨-, heffects, -⟩ := settleEntries_keeps (P := RestKept s) (fun _ _ _ h => h) (fun t k h => h.trans (setWaiting_rest t k)) s vc (.refl s)
  exact ⟨hhub, hgroups, hgrids, heffects⟩

/-- Settles O44: the thread parks with its record, which is posted, and the entry that it leaves free goes to threads that had none. -/
theorem faultParksAndRecords : Obligations.FaultParksAndRecords := by
  intro s uid t f ht u parked
  obtain ⟨hhub, hgroups, hgrids, heffects, huids⟩ := parkedOn_keeps s uid t f
  obtain ⟨phub, pgroups, pgrids, peffects⟩ := settleEntries_keepsRest (postEvent (parkedOn s uid t f) (parkRec t f)) t.vc
  have hpost := postEvent_hubOnly (parkedOn s uid t f) (parkRec t f) (.refl _)
  obtain ⟨-, -, -, -, -, -, -, ogrids, ogroups, othreads, osent, -⟩ := hpost
  obtain ⟨v, hv, hparked⟩ := thread?_parkedOn ht f
  have hu : u = settleEntries (postEvent (parkedOn s uid t f) (parkRec t f)) t.vc := takeFault_eq ht f
  rw [← hu] at phub pgroups pgrids peffects
  refine ⟨parkedOn s uid t f, parkRec t f, hu, hhub, hgroups, heffects, ⟨v, hv, hparked⟩, parkRec_eq t f, phub,
    pgroups.trans (ogroups.trans hgroups), pgrids.trans (ogrids.trans hgrids), ?_, fun hn => ?_⟩
  · rw [peffects]
    exact osent.trans (congrArg (List.map _) heffects)
  · have hassigns : AssignsOnly (parkedOn s uid t f) u := by
      rw [hu]
      refine (AssignsOnly.of_threads othreads).trans (settleEntries_assignsOnly ?_ _)
      rw [othreads, huids]; exact hn
    refine ⟨?_, fun k w hk hw => ?_⟩
    · obtain ⟨x, hx, -, hst⟩ := hassigns.places uid v hv
      have hfixed : v.st ≠ .unassigned := by
        obtain ⟨hstate, -⟩ := hparked
        rw [hstate]; decide
      exact ⟨v, hst hfixed ▸ hx, hparked⟩
    · obtain ⟨x, hx, hplace, hst⟩ := hassigns.places k w ((thread?_parkedOn_other s t f hk).trans hw)
      obtain ⟨-, -, -, -, -, hslots, hxs, hptr, hseq⟩ := hplace
      exact ⟨x, hx, hslots, hxs, hptr, hseq, hst⟩

end Sys2Proof.Machine
end

section
/-! PROOFS (O51). Fetches, placements and admissions: each event is its act where its rule's conditions hold, and what that act leaves (R135 to R148, R179). -/
namespace Sys2Proof.Machine

/-! Cores and placements looked up -/

/-- A core beyond the last stays as it is. -/
theorem core_beyond {s : State} {vc : Nat} (h : ¬ vc < s.cores.length) : core s vc = Core.reset := by
  unfold core
  rw [List.getD_eq_getElem?_getD, List.getElem?_eq_none (Nat.not_lt.mp h)]
  rfl

theorem slot_of_placeAt? {s : State} {vc slot : Nat} {p : Placement} (h : placeAt? s vc slot = some p) : p.slot = slot := by
  simpa using List.find?_some h

/-! Fetches (R98, R100, R139, R140, R142) -/

theorem exec_bullpenFill {s : State} {k vc : Nat} {f : Fetch} (hk : fetchCore? s k = some (vc, f)) (hdie : (die s (dieOf s vc)).st ≠ .offline) :
    exec (.bullpenFill k) s = .next (fillBullpen s vc f) := by
  show execBullpenFill k s = _
  unfold execBullpenFill
  simp [hk, hdie]

/-- A configuration that may be replaced from its 4,096th cycle on (R142). -/
def unguard (now : Nat) (b : BullEnt) : BullEnt := if b.arrived + 4096 ≤ now then { b with guarded := false } else b

theorem exec_bullpenProtectionExpiry (vc : Nat) (s : State) : exec (.bullpenProtectionExpiry vc) s =
    .next (modCore s vc fun c => { c with bullpen := c.bullpen.map (unguard (coreNow s vc)) }) := rfl

theorem unguard_keeps (now : Nat) (b : BullEnt) : (unguard now b).conf = b.conf ∧ (unguard now b).arrived = b.arrived := by
  unfold unguard
  split <;> exact ⟨rfl, rfl⟩

theorem unguard_of_late {now : Nat} {b : BullEnt} (h : b.arrived + 4096 ≤ now) : (unguard now b).guarded = false := by
  rw [unguard, if_pos h]

/-- A core's bullpen after a change of each of its configurations; a core beyond the last holds none. -/
theorem bullpen_modCore_map (s : State) (vc : Nat) (f : BullEnt → BullEnt) :
    (core (modCore s vc fun c => { c with bullpen := c.bullpen.map f }) vc).bullpen = (core s vc).bullpen.map f := by
  by_cases hvc : vc < s.cores.length
  · rw [core_modCore_same s vc _ hvc]
  · rw [core_beyond hvc, core_beyond (by simpa using hvc)]
    rfl

theorem protectionLapses (s : State) (vc : Nat) : ∃ t, exec (.bullpenProtectionExpiry vc) s = .next t ∧
    (∀ b ∈ (core t vc).bullpen, b.arrived + 4096 ≤ coreNow s vc → b.guarded = false) ∧ (core t vc).bullpen.map (·.conf) = (core s vc).bullpen.map (·.conf) := by
  refine ⟨_, exec_bullpenProtectionExpiry vc s, ?_, ?_⟩
  · rw [bullpen_modCore_map]
    intro b hb hlate
    obtain ⟨a, -, rfl⟩ := List.mem_map.mp hb
    obtain ⟨-, harrived⟩ := unguard_keeps (coreNow s vc) a
    exact unguard_of_late (harrived ▸ hlate)
  · rw [bullpen_modCore_map, List.map_map]
    exact List.map_congr_left fun a _ => (unguard_keeps _ a).1

/-- Where no configuration leaves the bullpen none is fetched again. -/
theorem refetch_of_subset {s : State} {vc : Nat} {old : List BullEnt} (h : old ⊆ (core s vc).bullpen) : refetch s vc old = s := by
  have hnone : (old.filter fun b => !(core s vc).bullpen.any fun x => x.conf == b.conf) = [] :=
    List.filter_eq_nil_iff.mpr fun b hb => by simpa using ⟨b, h hb, rfl⟩
  unfold refetch
  simp only [hnone, List.foldl_nil]

/-- The configuration that a fetch brings in (R140, R142). -/
def fetchedEnt (s s1 : State) (vc addr cid : Nat) (f : Fetch) (hdr words : List (BitVec 32)) : BullEnt :=
  ⟨⟨f.ctx, addr, cid, hdr, words⟩, (waitersOf s1 vc f.ctx f.ptr none).any (admissible s1 ⟨f.ctx, addr, cid, hdr, words⟩), coreNow s vc, coreNow s vc⟩

/-- The core in which a fetched configuration has joined the bullpen with room, and the failure of its segment is forgotten. -/
def joinBullpen (f : Fetch) (b : BullEnt) (k : Core) : Core :=
  { k with bullpen := k.bullpen ++ [b], failed := k.failed.filter fun x => !(x.ctx == f.ctx && x.ptr == f.ptr && x.grid == none) }

section
variable {s s1 : State} {vc addr cid : Nat} {f : Fetch} {c : Ctx} {e : SegEnt} {hdr words : List (BitVec 32)}
  (hc : ctx? s f.ctx = some c) (hf : fetchable? c f = some (addr, cid, e)) (hread : readSegment s f vc e addr cid = (s1, .got hdr words))
include hc hf hread

/-- R100, R101: a segment that fails its check is malformed. -/
theorem fillBullpen_malformed {a : Nat × Nat} (hcheck : configCheck cid (segCount c f.ptr) hdr words = some a) :
    fillBullpen s vc f = malformed (endFetch s1 vc f.id) vc f.ctx f.ptr none addr a := by
  unfold fillBullpen
  simp only [hc, hf, hread, hcheck]

/-- R140, R142: a segment that passes its check joins a bullpen that has room. -/
theorem fillBullpen_fills (hcheck : configCheck cid (segCount c f.ptr) hdr words = none) (hnew : bullpen? s1 vc f.ctx addr cid = none)
    (hroom : (core s1 vc).bullpen.length < 64) : fillBullpen s vc f =
      refetch (endFetch (modCore s1 vc fun _ => joinBullpen f (fetchedEnt s s1 vc addr cid f hdr words) (core s1 vc)) vc f.id) vc (core s1 vc).bullpen := by
  unfold fillBullpen
  simp only [hc, hf, hread, hcheck, hnew, bullpenPut?, hroom, if_true]
  rfl

end

theorem fetchFillsBullpen : FetchFillsBullpen := by
  intro s s1 vc k addr cid f c e hdr words hk hdie hc hf hread
  rw [exec_bullpenFill hk hdie]
  refine ⟨fun a ha => by rw [fillBullpen_malformed hc hf hread ha], fun hcheck hnew hroom hvc => ?_⟩
  let b := fetchedEnt s s1 vc addr cid f hdr words
  let s2 := modCore s1 vc fun _ => joinBullpen f b (core s1 vc)
  have hcore : core (endFetch s2 vc f.id) vc = { joinBullpen f b (core s1 vc) with fetches := (core s1 vc).fetches.filter fun g => g.id != f.id } := by
    unfold endFetch
    rw [core_modCore_same s2 vc _ (by simpa [s2] using hvc), core_modCore_same s1 vc _ hvc]
    rfl
  have hbull : (core (endFetch s2 vc f.id) vc).bullpen = (core s1 vc).bullpen ++ [b] := by rw [hcore]; rfl
  refine ⟨endFetch s2 vc f.id, b, ?_, rfl, hbull, rfl, rfl, rfl, fun g hg => ?_, fun v hv => ?_⟩
  · rw [fillBullpen_fills hc hf hread hcheck hnew hroom]
    exact congrArg _ (refetch_of_subset (by rw [hbull]; exact List.subset_append_left _ _))
  · rw [hcore] at hg
    simpa using (List.mem_filter.mp hg).2
  · exact (core_modCore_other s2 _ hv).trans (core_modCore_other s1 _ hv)

/-! Slots (R135, R136, R137, R179) -/

theorem exec_placementSlotFree {vc slot : Nat} (s : State) (h : slot < 8) : exec (.placementSlotFree vc slot) s =
    .next (if (placeAt? (freeSlot s vc slot) vc slot).isNone then fillSlotAt (freeSlot s vc slot) vc slot else freeSlot s vc slot) :=
  if_neg (Nat.not_le.mpr h)

theorem freeSlot_of_free {s : State} {vc slot : Nat} (h : placeAt? s vc slot = none) : freeSlot s vc slot = s := by
  unfold freeSlot
  rw [h]

theorem freeSlot_of_drained {s : State} {vc slot : Nat} {p : Placement} (h : placeAt? s vc slot = some p) (hst : p.st = .draining)
    (hempty : inFlightOf s vc slot = []) : freeSlot s vc slot = settleEntries (modCore s vc fun c => { c with
      places := c.places.filter fun x => x.slot != slot, ghosts := stillHeld s vc (p :: c.ghosts) }) vc := by
  unfold freeSlot
  simp [h, hst, hempty]

theorem exec_placementSlotFree_free {s : State} {vc slot : Nat} (h : slot < 8) (hfree : placeAt? (freeSlot s vc slot) vc slot = none) :
    exec (.placementSlotFree vc slot) s = .next (fillSlotAt (freeSlot s vc slot) vc slot) := by
  rw [exec_placementSlotFree s h, hfree]
  rfl

theorem exec_placementDrain {s : State} {vc slot : Nat} {p : Placement} (hp : placeAt? s vc slot = some p) (hst : p.st ≠ .draining)
    (hfrom : admitFrom p ≤ coreNow s vc) (hmust : mustDrain s vc p = true) :
    exec (.placementDrain vc slot) s = .next (modPlace s vc slot fun p => { p with st := .draining }) := by
  show execPlacementDrain vc slot s = _
  unfold execPlacementDrain
  simp [hp, hst, hfrom, hmust]

section
variable {s : State} {vc slot : Nat} {e : Entry} {g : Grid} {k : Conf}

theorem fillSlotAt_chosen (he : chooseEntry? s vc = some e) (hg : grid? s e.grid = some g) (hk : entryConf? s vc e = some k) :
    fillSlotAt s vc slot = if entryGone s e then parkGone s vc g.ctx e.ptr (some g.id) else takeSlot s vc slot e g k := by
  unfold fillSlotAt
  simp only [he, hg, hk]

/-- The placement that an entry gets, in the cycle in which it takes its slot (R135, R143). -/
def placementOf (s : State) (vc slot : Nat) (e : Entry) (g : Grid) (k : Conf) : Placement :=
  ⟨slot, e.idx, g.id, e.ptr, k, .configuring, coreNow s vc, 0, List.replicate 4 0, stagesOf k.words, []⟩

/-- Fetches that start leave a core's placements, the threads and the hub (R168). -/
theorem startFetches_keep (s : State) (vc ctx grid : Nat) (p : SegPtr) (l : List Nat) :
    let t := l.foldl (fun s n => startFetch s vc ctx grid { p with sidx := n }) s
    (core t vc).places = (core s vc).places ∧ t.threads = s.threads ∧ t.hub = s.hub := by
  obtain ⟨hhub, hcore⟩ := foldl_fetchesOnly (fun s n => startFetch_fetchesOnly s vc ctx grid { p with sidx := n }) l s
  exact ⟨by rw [hcore], foldl_field (fun s n => (startFetch_notesOnly s vc ctx grid { p with sidx := n }).1) l s, hhub⟩

/-- An entry that passes the check for its grid takes the slot, and fetches start (R141, R168). -/
theorem takeSlot_takes (hvc : vc < s.cores.length) (hfree : placeAt? s vc slot = none)
    (hcheck : gridCheck (supervisor s g.ctx) (recKsel g.raw) (recNslot g.raw) k.hdr k.words = none) :
    placeAt? (takeSlot s vc slot e g k) vc slot = some (placementOf s vc slot e g k) ∧ (takeSlot s vc slot e g k).threads = s.threads ∧
    (takeSlot s vc slot e g k).hub = s.hub := by
  unfold takeSlot
  simp only [hcheck]
  obtain ⟨hplaces, hthreads, hhub⟩ := startFetches_keep (modCore s vc _) vc g.ctx g.id e.ptr (armsOf (decodeAll k.words))
  refine ⟨?_, hthreads, hhub⟩
  have hnone : (core s vc).places.find? (fun p => p.slot == slot) = none := hfree
  rw [placeAt?, hplaces, core_modCore_same s vc _ hvc]
  dsimp only
  rw [List.find?_append, hnone]
  simp [placementOf]

end

theorem slotTakesChosenEntry : SlotTakesChosenEntry := by
  intro s vc slot e g k hslot hvc hfree he hg hk
  have hfill := fillSlotAt_chosen (slot := slot) he hg hk
  have hexec := exec_placementSlotFree_free hslot (by rw [freeSlot_of_free hfree]; exact hfree)
  rw [freeSlot_of_free hfree, hfill] at hexec
  refine ⟨fun hgone => ?_, fun hgone hcheck => ?_⟩
  · rw [hexec, hgone]; rfl
  · rw [hgone] at hexec
    obtain ⟨hplace, hthreads, hhub⟩ := takeSlot_takes (e := e) hvc hfree hcheck
    exact ⟨_, _, hexec, hplace, rfl, rfl, rfl, rfl, rfl, rfl, hthreads, hhub⟩

/-! Admission and stages (R147, R148) -/

section
variable {s : State} {vc slot : Nat} {p : Placement} {t : Thread} {tag : Nat}

/-- The thread that stage 0 takes. -/
theorem entrant?_admits (hlast : p.last.getD 0 0 ≤ coreNow s vc)
    (ht : leastBy (fun t => t.frame) ((placeWaiting s vc p).filter fun t => admissible s p.conf t && t.bitAt != some (coreNow s vc)) = some t)
    (htag : freeTag? s vc p 0 = some tag) : entrant? s vc p 0 = some (t, tag) := by
  have hdue : ¬ coreNow s vc < p.last.getD 0 0 := Nat.not_lt.mpr hlast
  unfold entrant?
  dsimp only
  rw [if_pos (beq_self_eq_true 0), ht, htag]
  exact if_neg hdue

/-- The thread that a later stage takes. -/
theorem entrant?_reenters {stage : Nat} (hstage : 0 < stage) (hlast : p.last.getD stage 0 ≤ coreNow s vc)
    (ht : leastBy (fun t => ((t.inst.bind (·.readyAt)).getD 0) * 2048 + t.frame)
      ((inFlightOf s vc p.slot).filter (readyFor (decodeAll p.conf.words) p stage)) = some t)
    (htag : freeTag? s vc p stage = some tag) : entrant? s vc p stage = some (t, tag) := by
  have hdue : ¬ coreNow s vc < p.last.getD stage 0 := Nat.not_lt.mpr hlast
  have hlater : ¬ (stage == 0) = true := by simpa using Nat.pos_iff_ne_zero.mp hstage
  unfold entrant?
  dsimp only
  rw [if_neg hlater, ht, htag]
  exact if_neg hdue

theorem exec_threadAdmit (hp : placeAt? s vc slot = some p) (hst : p.st ≠ .draining) (hfrom : admitFrom p ≤ coreNow s vc) (hmust : mustDrain s vc p = false)
    (hhalt : halted s vc = false) (hphase : phaseOf s p.conf.ctx < 2) (hdie : (die s (dieOf s vc)).st = .running)
    (hent : entrant? s vc p 0 = some (t, tag)) (hbank : bankWaits s vc p 0 t.frame = false) :
    exec (.threadAdmit vc slot) s = .next (useBank (admitThread s p t tag) vc t.frame) := by
  show execThreadAdmit vc slot s = _
  unfold execThreadAdmit
  simp [hp, hst, hfrom, hmust, hhalt, hphase, hdie, hent, hbank]

theorem exec_stageReentry {stage : Nat} (hstage : 0 < stage) (hp : placeAt? s vc slot = some p) (hent : entrant? s vc p stage = some (t, tag))
    (hbank : bankWaits s vc p stage t.frame = false) :
    exec (.stageReentry vc slot stage) s = .next (useBank (enterStage s p t stage tag) vc t.frame) := by
  obtain ⟨n, rfl⟩ := Nat.exists_eq_succ_of_ne_zero (Nat.pos_iff_ne_zero.mp hstage)
  show execStageReentry vc slot (n + 1) s = _
  unfold execStageReentry
  simp only [hp, hent, hbank]
  rfl

end

/-- The thread of an admission, with its instance (R147, R149). -/
def admitted (ins : Inst) (v : Thread) : Thread := { v with st := .admitted, inst := some ins }

theorem statusAcquire_threads (s : State) (t : Thread) (ns : List Nat) : (statusAcquire s t ns).threads = s.threads := by
  unfold statusAcquire
  split <;> rfl

theorem admitThread_threads (s : State) (p : Placement) (t : Thread) (tag : Nat) :
    (admitThread s p t tag).threads = (modThread s t.uid (admitted (newInst s t p tag))).threads := by
  unfold admitThread
  dsimp only
  split <;> exact congrArg (modWhere _ _) (statusAcquire_threads s t _)

/-- The instance of an admission samples the thread's slots, stands in the placement, and has fired nothing (R202). -/
theorem newInst_samples (s : State) (t : Thread) (p : Placement) (tag : Nat) :
    (newInst s t p tag).place = p.slot ∧ (newInst s t p tag).slots0 = t.slots ∧ (newInst s t p tag).fired = [] := by
  rw [newInst, noteReady_eq]
  exact ⟨rfl, rfl, rfl⟩

theorem admitThread_admits {s : State} {t u : Thread} (p : Placement) (tag : Nat) (hu : thread? s t.uid = some u) :
    ∃ v, thread? (admitThread s p t tag) t.uid = some v ∧ v.st = .admitted ∧ v.slots = u.slots ∧ v.ptr = u.ptr ∧
      v.inst.map (fun i => (i.place, i.slots0, i.fired)) = some (p.slot, t.slots, []) := by
  obtain ⟨hplace, hslots, hfired⟩ := newInst_samples s t p tag
  refine ⟨admitted (newInst s t p tag) u, ?_, rfl, rfl, rfl, by simp [admitted, hplace, hslots, hfired]⟩
  rw [thread?_congr (admitThread_threads s p t tag), thread_modThread_same s t.uid (admitted _) fun _ => rfl, hu]
  rfl

/-! The move (R273, R346) -/

theorem exec_deferredSuccessorMove {s : State} {vc frame : Nat} {t : Thread} (ht : threadAt? s vc frame = some t) (hphase : phaseOf s t.ctx < 7) :
    exec (.deferredSuccessorMove vc frame) s = .next (moveIfOver s t.uid) := by
  show execDeferredSuccessorMove vc frame s = _
  unfold execDeferredSuccessorMove
  simp only [ht, if_neg (Nat.not_le.mpr hphase)]

theorem moveIfOver_eq {s : State} {uid : Nat} {u : Thread} {w : MoveWait} (hu : thread? s uid = some u) (hres : u.resident = true) (hst : u.st = .moving)
    (hw : u.wait = some w) : moveIfOver s uid = if w.waits.all (waitOver s) then finishMove s uid else s := by
  unfold moveIfOver
  simp [hu, hres, hst, hw]

/-- Settles O51: each event of a placement is its act where the rule's conditions hold, and what a fetch and a taken slot leave is the two lemmas above. -/
theorem placementEventsComplete : Obligations.PlacementEventsComplete := by
  refine ⟨fun s vc => ⟨fun k f => exec_bullpenFill, protectionLapses s vc, fun slot p hslot hp hst hempty => ?_,
    fun slot p hp hst hfrom hmust => exec_placementDrain hp hst hfrom hmust,
    fun slot p t tag hp hst hfrom hmust hlast hhalt hphase hdie ht htag hbank => ⟨?_, fun u => admitThread_admits p tag⟩,
    fun slot stage p t tag hstage hp hlast ht htag hbank => ?_⟩, fun s vc frame t u w ht hu hres hst hw hphase => ?_, fetchFillsBullpen, slotTakesChosenEntry⟩
  · intro s1 hfree
    have hfreed : freeSlot s vc slot = s1 := freeSlot_of_drained hp hst hempty
    rw [exec_placementSlotFree_free hslot (by rw [hfreed]; exact hfree), hfreed]
  · exact exec_threadAdmit hp hst hfrom hmust hhalt hphase hdie (entrant?_admits hlast ht htag) hbank
  · rw [← slot_of_placeAt? hp] at ht
    refine ⟨_, exec_stageReentry hstage hp (entrant?_reenters hstage hlast ht htag) hbank, rfl, ?_⟩
    exact map_modWhere (by exact fun _ => rfl) _
  · rw [exec_deferredSuccessorMove ht hphase, moveIfOver_eq hu hres hst hw]
    exact ⟨fun hover => by rw [if_pos hover], fun hover => by rw [hover]; rfl⟩

end Sys2Proof.Machine
end

section
/-! PROOFS (O45). The fields of a link word (R159) and of a record's 32 bytes (R365), read back one after another: the first field of a run of
little-endian bytes, and what follows it. -/
namespace Sys2Proof.Machine

/-! Fields of bytes in a row -/

theorem natLE_append : ∀ a b : List Byte, natLE (a ++ b) = natLE a + 2 ^ (8 * a.length) * natLE b
  | [], b => by simp [natLE]
  | x :: a, b => by
    rw [List.cons_append, natLE, natLE, natLE_append a b, List.length_cons, Nat.mul_succ, Nat.pow_add]
    ring

theorem natLE_bytesLE_append (n v : Nat) (b : List Byte) : natLE (bytesLE n v ++ b) = v % 2 ^ (8 * n) + 2 ^ (8 * n) * natLE b := by
  rw [natLE_append, natLE_bytesLE, length_bytesLE, show (256 : Nat) = 2 ^ 8 from rfl, ← Nat.pow_mul]

/-- The first field of a run of bytes. -/
theorem bits_natLE_first {n v m : Nat} (hm : m = 8 * n) (b : List Byte) : bits (natLE (bytesLE n v ++ b)) 0 m = v % 2 ^ m := by
  rw [natLE_bytesLE_append, hm, bits, Nat.shiftRight_zero, Nat.add_mul_mod_self_left, Nat.mod_mod]

/-- A later field is a field of what follows the first. -/
theorem bits_natLE_rest {n v j m : Nat} (hj : 8 * n ≤ j) (b : List Byte) :
    bits (natLE (bytesLE n v ++ b)) j m = bits (natLE b) (j - 8 * n) m := by
  rw [natLE_bytesLE_append, bits, bits, ← Nat.add_sub_cancel' hj, Nat.shiftRight_add, Nat.add_sub_cancel_left]
  congr 2
  rw [Nat.shiftRight_eq_div_pow, Nat.add_mul_div_left _ _ (Nat.two_pow_pos _), Nat.div_eq_of_lt (Nat.mod_lt _ (Nat.two_pow_pos _)), Nat.zero_add]

/-- The only field. -/
theorem bits_natLE_only {n v m : Nat} (hm : m = 8 * n) : bits (natLE (bytesLE n v)) 0 m = v % 2 ^ m := by
  simpa using bits_natLE_first (v := v) hm []

/-! The link word (R159) -/

theorem toNat_linkWord {p : SegPtr} (ho : p.onum < 1024) (hk : p.kidx < 1024) (hs : p.sidx < 4096) :
    (linkWord p).toNat = p.kidx * 2 ^ 22 + p.onum * 2 ^ 12 + p.sidx := by
  rw [linkWord, BitVec.toNat_ofNat]
  exact Nat.mod_eq_of_lt (by omega)

theorem ofLink_linkWord {p : SegPtr} (ho : p.onum < 1024) (hk : p.kidx < 1024) (hs : p.sidx < 4096) : ofLink (linkWord p) = p := by
  rw [ofLink, toNat_linkWord ho hk hs]
  obtain ⟨o, k, n⟩ := p
  simp only [bits, Nat.shiftRight_eq_div_pow, SegPtr.mk.injEq] at *
  omega

/-! The record (R365) -/

theorem length_recBytes (r : EvRec) : (recBytes r).length = 32 := by simp [recBytes, length_bytesLE]

/-- Settles O45: each field of a record is the first of the bytes that are left after the fields before it. -/
theorem recordLayout : Obligations.RecordLayout := by
  refine ⟨fun p => ofLink_linkWord, fun r hkind hcause hctx hvcore hfl hslot haddr => ⟨length_recBytes r, ?_⟩⟩
  simp only [recBytes, List.append_assoc, bits_natLE_first, bits_natLE_rest, bits_natLE_only, Nat.reduceMul, Nat.reduceSub, Nat.reduceLeDiff]
  exact ⟨Nat.mod_eq_of_lt hkind, Nat.mod_eq_of_lt hcause, Nat.mod_eq_of_lt hctx, Nat.mod_eq_of_lt hvcore, Nat.mod_eq_of_lt hfl, Nat.mod_eq_of_lt hslot,
    Nat.mod_eq_of_lt r.ptr.isLt, Nat.mod_eq_of_lt r.detail.isLt, Nat.mod_eq_of_lt haddr, Nat.mod_eq_of_lt r.data.isLt, Nat.mod_eq_of_lt r.seq.isLt⟩

end Sys2Proof.Machine
end

section
/-! PROOFS (O47). Fault commands and debug halts (R164, R370 to R372, R375): what lets a parked thread go on, what a killed thread and a killed group leave,
and a halted core. -/
namespace Sys2Proof.Machine

/-! A thread that goes on (R132, R371) -/

/-- A thread after its bit is set, or before an entry is free for it: it keeps its record, its segment, its slots and its count of commits. -/
def GoesOn (v u : Thread) : Prop :=
  (u.st = .waiting ∨ u.st = .unassigned) ∧ u.uid = v.uid ∧ u.kept = v.kept ∧ u.ptr = v.ptr ∧ u.slots = v.slots ∧ u.seq = v.seq

theorem thread?_of_change {s t : State} {uid : Nat} {v : Thread} {f : Thread → Thread} (hv : thread? s uid = some v) (hf : ∀ v, GoesOn v (f v))
    (ht : t.threads = (modThread s uid f).threads) : ∃ u, thread? t uid = some u ∧ GoesOn v u := by
  refine ⟨f v, ?_, hf v⟩
  rw [thread?_congr ht, thread_modThread_same s uid f fun v => (hf v).2.1, hv]
  rfl

theorem joinEntry_goesOn {s : State} {t : Thread} {v : Thread} (idx : Nat) (hv : thread? s t.uid = some v) :
    ∃ u, thread? (joinEntry s t idx) t.uid = some u ∧ GoesOn v u := by
  unfold joinEntry
  dsimp only
  refine thread?_of_change hv (fun v => ?_) (startFetch_notesOnly _ _ _ _ _).1
  exact ⟨.inl rfl, rfl, rfl, rfl, rfl, rfl⟩

/-- Where no configuration has failed on its core, a thread that is put to wait waits for its segment, or for an entry (R132). -/
theorem setWaiting_goesOn {s : State} {uid : Nat} {t : Thread} (ht : thread? s uid = some t) (hfailed : (core s t.vc).failed = []) :
    ∃ u, thread? (setWaiting s uid) uid = some u ∧ GoesOn t u := by
  have huid : t.uid = uid := by simpa using List.find?_some ht
  subst huid
  unfold setWaiting
  simp only [ht, hfailed, List.find?_nil]
  split
  · split
    · exact joinEntry_goesOn _ ht
    · exact joinEntry_goesOn _ ht
  · split
    · refine thread?_of_change ht (fun v => ?_) rfl
      exact ⟨.inr rfl, rfl, rfl, rfl, rfl, rfl⟩
    · exact joinEntry_goesOn _ ht

theorem retrySegment_coresOnly (s : State) (t : Thread) : CoresOnly s (retrySegment s t) := by
  unfold retrySegment
  split
  · exact .refl s
  · exact modCore_coresOnly s t.vc _

theorem retrySegment_failed {s : State} (t : Thread) {vc : Nat} (h : (core s vc).failed = []) : (core (retrySegment s t) vc).failed = [] := by
  unfold retrySegment
  split
  · exact h
  · rcases core_modCore s t.vc _ vc with heq | heq <;> rw [heq]
    · simp [h, modWhere]
    · exact h

theorem retrySegment_of_kind {s : State} {t : Thread} (h : (t.kept.map (·.kind)) ≠ some 3) : retrySegment s t = s := by
  unfold retrySegment
  rw [if_pos (by simpa using h)]

/-- A thread without its record. -/
def unkept (t : Thread) : Thread := { t with kept := none }

theorem returnThread_resident {s : State} {uid : Nat} {t : Thread} (ht : thread? s uid = some t) (hres : t.resident = true) :
    returnThread s uid = setWaiting (modThread (retrySegment s t) uid unkept) uid := by
  unfold returnThread resumeThread
  simp only [ht, hres, if_true]
  rfl

/-- A thread whose group is away, without its record. -/
def waitsAway (t : Thread) : Thread := { t with kept := none, st := .waiting }

theorem returnThread_away {s : State} {uid : Nat} {t : Thread} (ht : thread? s uid = some t) (hres : t.resident = false) :
    returnThread s uid = modGroup (modThread (retrySegment s t) uid waitsAway) t.grid t.gidx fun g => { g with wantIn := true } := by
  unfold returnThread
  simp only [ht, hres]
  rfl

theorem parkedThreadGoesOn : ParkedThreadGoesOn := by
  intro s uid t ht _ hfailed
  obtain ⟨-, -, hgroups, hthreads, -⟩ := (retrySegment_coresOnly s t).keeps
  have hfind : thread? (retrySegment s t) uid = some t := (thread?_congr hthreads uid).trans ht
  refine ⟨fun hres => ?_, fun hres => ⟨⟨waitsAway t, ?_, rfl, rfl, rfl, rfl⟩, fun g hg => ?_⟩⟩
  · have hfree : thread? (modThread (retrySegment s t) uid unkept) uid = some (unkept t) := by
      rw [thread_modThread_same _ uid unkept fun _ => rfl, hfind]
      rfl
    rw [returnThread_resident ht hres]
    obtain ⟨u, hu, hst, -, hkept, hptr, hslots, hseq⟩ := setWaiting_goesOn hfree (retrySegment_failed t hfailed)
    exact ⟨u, hu, hst, hkept, hptr, hslots, hseq⟩
  · rw [returnThread_away ht hres]
    exact (thread_modThread_same _ uid waitsAway fun _ => rfl).trans (congrArg _ hfind)
  · rw [returnThread_away ht hres]
    refine (group_modGroup_same _ _ _ ?_).trans (congrArg _ ((group?_congr hgroups _ _).trans hg))
    exact fun _ => ⟨rfl, rfl⟩

/-! The commands on a parked thread (R371) -/

section
variable {s : State} {v : BitVec 64} {t : Thread} (ht : placedThread? s (fcmdOf v) isParked = some t)
include ht

theorem exec_fcmdResume_parked : exec (.fcmdResume v) s = .next (fcmdResult (resumeParked s t) v 0) := by
  show execFcmdResume v s = _
  unfold execFcmdResume
  simp only [ht]

theorem exec_fcmdRedirect_valid {p : SegPtr} (hp : checkLink s t.ctx (s.ap.farg.setWidth 32) = .ok p) :
    exec (.fcmdRedirect v) s = .next (fcmdResult (redirectParked s t p) v 0) := by
  show execFcmdRedirect v s = _
  unfold execFcmdRedirect
  simp only [ht, hp]

theorem exec_fcmdRedirect_invalid {e : Nat} (he : checkLink s t.ctx (s.ap.farg.setWidth 32) = .error e) :
    exec (.fcmdRedirect v) s = .next (fcmdResult s v 2) := by
  show execFcmdRedirect v s = _
  unfold execFcmdRedirect
  simp only [ht, he]

theorem exec_fcmdKillThread_parked (hlost : t.ackLost = []) :
    exec (.fcmdKillThread v) s = .next (fcmdResult (finishAway (leaveThread s t.uid) t.grid t.gidx) v 0) := by
  show execFcmdKillThread v s = _
  unfold execFcmdKillThread
  simp only [ht, hlost, List.isEmpty_nil, if_true]

end

theorem exec_fcmd_unparked {s : State} {v : BitVec 64} (h : placedThread? s (fcmdOf v) isParked = none) :
    exec (.fcmdRedirect v) s = .next (fcmdResult s v 1) ∧ exec (.fcmdKillThread v) s = .next (fcmdResult s v 1) := by
  refine ⟨?_, ?_⟩
  · show execFcmdRedirect v s = _
    unfold execFcmdRedirect
    simp only [h]
  · show execFcmdKillThread v s = _
    unfold execFcmdKillThread
    simp only [h]

theorem exec_fcmdWriteSlot (v : BitVec 64) (s : State) : exec (.fcmdWriteSlot v) s =
    match placedThread? s (fcmdOf v) fun t => isParked t || owesSettling t with
    | none => .next (fcmdResult s v 1)
    | some t => .next (fcmdResult (landSlots s t.uid (bits v.toNat 0 6) false (s.ap.farg.toNat % 2 ^ 32)) v 0) := rfl

theorem exec_fcmdKillGroup {s : State} {v : BitVec 64} {t : Thread} {gr : Group} (ht : placedThread? s (fcmdOf v) liveThread = some t)
    (hgr : group? s t.grid t.gidx = some gr) (hst : gr.st ≠ .squashing) :
    exec (.fcmdKillGroup v) s = .next (fcmdResult (killGroup s gr 1) v 0) := by
  show execFcmdKillGroup v s = _
  unfold execFcmdKillGroup
  simp [ht, hgr, hst]

theorem exec_fcmdStep_running {s : State} {v : BitVec 64} (h : halted s (fcmdOf v).vc = false) : exec (.fcmdStep v) s = .next (fcmdResult s v 3) := by
  show execFcmdStep v s = _
  unfold execFcmdStep
  simp [h]

theorem exec_fcmdStep_halted {s : State} {v : BitVec 64} {t : Thread} (h : halted s (fcmdOf v).vc = true)
    (ht : leastBy (fun t => t.frame) (s.threads.filter (atCommit s (fcmdOf v).vc)) = some t) :
    exec (.fcmdStep v) s = .next (fcmdResult (tryCommit s (fcmdOf v).vc t.frame true) v 0) := by
  show execFcmdStep v s = _
  unfold execFcmdStep
  simp [h, ht]

theorem proceedAckLoss_of_kind {s : State} {t : Thread} (h : (t.kept.map (·.kind)) ≠ some 5) : proceedAckLoss s t = s := by
  unfold proceedAckLoss
  rw [if_neg (by simpa using h)]

theorem commandsLetGo : CommandsLetGo := by
  intro s v t ht hkind5 hkind3
  refine ⟨?_, fun p hp => ?_⟩
  · rw [exec_fcmdResume_parked ht, resumeParked, proceedAckLoss_of_kind hkind5]
  · rw [exec_fcmdRedirect_valid ht hp, redirectParked, proceedAckLoss_of_kind hkind5, retrySegment_of_kind hkind3]

/-! A thread that is killed (R164, R371) -/

/-- A group at whose barriers a thread does not wait. -/
def withoutArrival (uid : Nat) (g : Group) : Group :=
  { g with bars := g.bars.map (fun b => { b with arrived := b.arrived.filter (· != uid) }), gw := { g.gw with arrived := g.gw.arrived.filter (· != uid) } }

/-- A thread has left, and its group has not been settled without it. -/
def departed (s : State) (t : Thread) : State := modGroup (modThread s t.uid dismissThread) t.grid t.gidx (withoutArrival t.uid)

theorem leaveThread_eq {s : State} {t : Thread} (ht : thread? s t.uid = some t) :
    leaveThread s t.uid = freeFrames (settleEntries (settleGroup (departed s t) t.grid t.gidx) t.vc) := by
  unfold leaveThread
  simp only [ht]
  rfl

theorem not_mem_withoutArrival (uid : Nat) (g : Group) : ∀ b ∈ (withoutArrival uid g).gw :: (withoutArrival uid g).bars, uid ∉ b.arrived := by
  simp [withoutArrival]

theorem killedThreadLeaves : KilledThreadLeaves := by
  intro s v t hplaced ht hlost
  refine ⟨departed s t, ?_, ⟨dismissThread t, ?_, rfl, rfl, rfl, rfl⟩, fun g hg => ?_, rfl, rfl⟩
  · rw [exec_fcmdKillThread_parked hplaced hlost, leaveThread_eq ht]
  · exact (thread_modThread_same s t.uid dismissThread fun _ => rfl).trans (congrArg _ ht)
  · rw [departed, group_modGroup_same _ _ _ (f := withoutArrival t.uid) fun _ => ⟨rfl, rfl⟩] at hg
    obtain ⟨x, -, rfl⟩ := Option.map_eq_some_iff.mp hg
    exact not_mem_withoutArrival t.uid x

/-! A group that is killed (R372) -/

theorem killGroup_confirmed {s : State} {gr : Group} {cause : Nat} {g : Grid} (hlost : ∀ u ∈ threadsOf s gr.grid gr.gidx, u.ackLost = [])
    (hg : grid? (postEvent (dropCommands s gr) (killRec gr cause)) gr.grid = some g) (hprov : provisional g = false) :
    RosterKept (retireGroup (postEvent (dropCommands s gr) (killRec gr cause)) gr) (killGroup s gr cause) := by
  have hnone : (threadsOf s gr.grid gr.gidx).filter (fun t => !t.ackLost.isEmpty) = [] := by
    rw [List.filter_eq_nil_iff]
    intro u hu
    simp [hlost u hu]
  unfold killGroup
  simp only [hnone, List.foldl_nil, hg, hprov]
  cases gr.at_ with
  | core vc => exact settleEntries_rosterKept _ vc
  | dugout k vc => exact .refl _

/-- Of a group that retires neither an entry among the groups nor a thread is left (R389). -/
theorem retireGroup_gone (s : State) (gr : Group) : group? (retireGroup s gr) gr.grid gr.gidx = none ∧
    ∀ k ∈ membership (retireGroup s gr), ¬ (k.2.1 = gr.grid ∧ k.2.2 = gr.gidx) := by
  obtain ⟨hthreads, hgroups, -⟩ := freeGroup_parts s gr
  refine ⟨group?_of_filter_same hgroups, fun k hk => ?_⟩
  obtain ⟨u, hu, rfl⟩ := List.mem_map.mp hk
  exact (hthreads ▸ not_mem_of_filter) u hu

theorem killedGroupGone : KilledGroupGone := by
  intro s v t gr g ht hgr hst hlost hg hprov
  obtain ⟨-, -, hgroups, hroster⟩ := killGroup_confirmed hlost hg hprov
  obtain ⟨hgone, hleft⟩ := retireGroup_gone (postEvent (dropCommands s gr) (killRec gr 1)) gr
  refine ⟨_, exec_fcmdKillGroup ht hgr hst, (group?_congr hgroups _ _).trans hgone, fun x hx => ?_⟩
  exact hleft (x.uid, x.grid, x.gidx) (hroster ▸ List.mem_map_of_mem hx)

/-! Debug halts (R375) -/

theorem mem_insertNat_iff (n k : Nat) : ∀ l : List Nat, k ∈ insertNat n l ↔ k ∈ l ∨ k = n
  | [] => by simp [insertNat]
  | a :: l => by
    unfold insertNat
    split
    · rw [List.mem_cons, or_comm]
    · split
      next h =>
        obtain rfl : n = a := by simpa using h
        simp only [List.mem_cons]
        exact ⟨.inl, fun h => h.elim id .inl⟩
      next => rw [List.mem_cons, List.mem_cons, mem_insertNat_iff n k l, or_assoc]

theorem exec_dhaltSet {s : State} {vc : Nat} (h : vc < 128) :
    exec (.dhaltSet vc) s = .next { s with ap := { s.ap with dhalt := insertNat vc s.ap.dhalt } } := by
  show execDhaltSet vc s = _
  unfold execDhaltSet
  rw [if_pos h]

/-- A halted core lets no thread commit by itself. -/
theorem tryCommit_halted {s : State} {vc : Nat} (h : halted s vc = true) (frame : Nat) : tryCommit s vc frame false = s := by
  unfold tryCommit
  split
  · rfl
  · simp [h]

/-- A halted core admits no thread. -/
theorem exec_threadAdmit_halted {s : State} {vc : Nat} (h : halted s vc = true) (slot : Nat) : exec (.threadAdmit vc slot) s = .next s := by
  show execThreadAdmit vc slot s = _
  unfold execThreadAdmit
  split
  · rfl
  · simp [h]

/-- Settles O47: the commands are what their definitions answer in each case, and what they leave is the four lemmas above. -/
theorem faultCommandsAndHalts : Obligations.FaultCommandsAndHalts := by
  refine ⟨fun s v => ⟨exec_fcmd_unparked, fun hnone => ?_, fun t ht => ?_, fun t ht => ⟨exec_fcmdResume_parked ht, fun p => exec_fcmdRedirect_valid ht,
    fun e => exec_fcmdRedirect_invalid ht, exec_fcmdKillThread_parked ht⟩, fun t gr => exec_fcmdKillGroup, rfl, rfl, exec_fcmdStep_running,
    fun t => exec_fcmdStep_halted⟩, fun s vc hvc => ⟨⟨_, exec_dhaltSet hvc, rfl, fun k => ?_⟩, ⟨_, rfl, rfl, fun k => ?_⟩,
    fun hhalt frame slot => ⟨congrArg _ (tryCommit_halted hhalt frame), exec_threadAdmit_halted hhalt slot⟩⟩,
    parkedThreadGoesOn, commandsLetGo, killedThreadLeaves, killedGroupGone⟩
  · rw [exec_fcmdWriteSlot, hnone]
  · rw [exec_fcmdWriteSlot, ht]
  · exact Bool.eq_iff_iff.mpr (by simp [halted, mem_insertNat_iff])
  · exact Bool.eq_iff_iff.mpr (by simp [halted])

end Sys2Proof.Machine
end

section
/-! PROOFS (O37, the ordinals). Which words of an instance its commit passes on at their ordinals (R151, R261). -/
namespace Sys2Proof.Machine

/-! Folds in which few indexes act -/

/-- A fold in which one index alone does anything. -/
theorem foldl_range_one {β : Type} {f : β → Nat → β} {k : Nat} (b : β) : ∀ {n : Nat}, k < n → (∀ i < n, i ≠ k → ∀ c, f c i = c) →
    (List.range n).foldl f b = f b k
  | n + 1, hk, hskip => by
    rw [List.range_succ, List.foldl_append, List.foldl_cons, List.foldl_nil]
    rcases Nat.lt_succ_iff_lt_or_eq.mp hk with hlt | rfl
    · rw [foldl_range_one b hlt fun i hi => hskip i (Nat.lt_succ_of_lt hi), hskip n n.lt_succ_self (Nat.ne_of_gt hlt)]
    · rw [foldl_of_fixed fun i hi => hskip i (Nat.lt_succ_of_lt (List.mem_range.mp hi)) (Nat.ne_of_lt (List.mem_range.mp hi)) b]

/-- A fold in which two indexes alone do anything. -/
theorem foldl_range_two {β : Type} {f : β → Nat → β} {j k : Nat} (hjk : j < k) (b : β) : ∀ {n : Nat}, k < n →
    (∀ i < n, i ≠ j → i ≠ k → ∀ c, f c i = c) → (List.range n).foldl f b = f (f b j) k
  | n + 1, hk, hskip => by
    rw [List.range_succ, List.foldl_append, List.foldl_cons, List.foldl_nil]
    rcases Nat.lt_succ_iff_lt_or_eq.mp hk with hlt | rfl
    · rw [foldl_range_two hjk b hlt fun i hi => hskip i (Nat.lt_succ_of_lt hi),
        hskip n n.lt_succ_self (Nat.ne_of_gt (hjk.trans hlt)) (Nat.ne_of_gt hlt)]
    · rw [foldl_range_one b hjk fun i hi hij => hskip i (Nat.lt_succ_of_lt hi) hij (Nat.ne_of_lt hi)]

/-! One index (R151) -/

/-- What the loop over the ordinals does at an index. -/
def passAt (x : Site) (recs : List (Nat × Option (BitVec 512))) (r : Passed) (i : Nat) : Passed :=
  match wordAt? x i with
  | some (w, sh) =>
    if sh.ordinal && acts r.1 x i then
      let p := passWord r.1 (x.word i) (ordinalAt x.ws i) w sh (recAt? recs i)
      (p.1, r.2 ++ p.2)
    else r
  | none => r

theorem passOrdinals_eq (s : State) (x : Site) (recs : List (Nat × Option (BitVec 512))) :
    passOrdinals s x recs = (List.range x.ws.length).foldl (passAt x recs) (s, []) := rfl

theorem passAt_acts {x : Site} {recs : List (Nat × Option (BitVec 512))} {r : Passed} {i : Nat} {w : Instr} {sh : Shape}
    (hw : wordAt? x i = some (w, sh)) (ho : sh.ordinal = true) (ha : acts r.1 x i = true) :
    passAt x recs r i = ((passWord r.1 (x.word i) (ordinalAt x.ws i) w sh (recAt? recs i)).1,
      r.2 ++ (passWord r.1 (x.word i) (ordinalAt x.ws i) w sh (recAt? recs i)).2) := by
  simp [passAt, hw, ho, ha]

theorem passAt_unordered {x : Site} {recs : List (Nat × Option (BitVec 512))} {i : Nat} (h : ∀ w sh, wordAt? x i = some (w, sh) → sh.ordinal = false)
    (r : Passed) : passAt x recs r i = r := by
  unfold passAt
  split
  · rw [h _ _ ‹_›]
    rfl
  · rfl

theorem commitPassesWord : CommitPassesWord := by
  refine fun s x recs => ⟨fun k w sh hk hw ho ha hrest => ?_, fun j k w v sh q hjk hk hw hv ho hq hrest haj hak => ?_, fun hrest => ?_⟩
  · rw [passOrdinals_eq, foldl_range_one _ hk fun i _ hik => passAt_unordered fun v q => hrest i v q hik]
    exact passAt_acts hw ho ha
  · rw [passOrdinals_eq, foldl_range_two hjk _ hk fun i _ hij hik => passAt_unordered fun v q => hrest i v q hij hik,
      passAt_acts (r := (s, [])) hw ho haj]
    exact passAt_acts hv hq hak
  · rw [passOrdinals_eq]
    exact foldl_of_fixed fun i _ => passAt_unordered (hrest i) (s, [])

end Sys2Proof.Machine
end

section
/-! PROOFS (O37, effects). The words that leave an effect at their commit (R262 to R275, R337, R355, R357). -/
namespace Sys2Proof.Machine

/-- An effect that passes on is as its word says, and the thread's move waits for it where the word says so. -/
theorem passEffect_leaves (s : State) (x : Site) (ord : Nat) (kind : EffKind) (va w mt : Nat) (ga : Bool) (rel acq : Nat) (runs : Runs)
    (landed waits : Bool) :
    LeavesEffect s x ((passEffect s x ord kind va w mt ga rel acq runs landed).1,
      if waits then [.effect (passEffect s x ord kind va w mt ga rel acq runs landed).2] else []) kind va rel acq waits :=
  ⟨_, rfl, rfl, rfl, rfl, rfl, rfl, rfl, rfl, rfl, rfl, rfl⟩

/-! Atomics (R271 to R275) -/

theorem passWord_atomic {i : Instr} {op : Nat} {f : FmtT} {float : Bool} (h : atomicForm i = some (op, f, float)) (s : State) (x : Site) (ord : Nat)
    (sh : Shape) (lay : Option (BitVec 512)) : passWord s x ord i sh lay =
      passAtomic s x ord op f float (accessOf s x i sh) (BitVec.ofNat 64 (portVal s x sh 1)) (BitVec.ofNat 64 (portVal s x sh 2)) := by
  unfold atomicForm at h
  split at h <;> cases h <;> rfl

/-- An acquire at no scope does nothing. -/
theorem acquireOn_none (s : State) (vc ctx : Nat) : acquireOn s vc ctx 0 = s := rfl

/-- A word without a result has nothing to land. -/
theorem passResult_none (s : State) (x : Site) (ord w old : Nat) : passResult s x ord w 64 0 old = (s, []) := rfl

theorem passResult_lands {s : State} {x : Site} {ord w slot old : Nat} (hslot : slot < 64) (hturn : resultWaits s x.t.uid x.t.seq ord (slot, w) = false)
    (hdef : resultDeferred x ord (slot, w) = false) : passResult s x ord w slot 0 old = (landSlots s x.t.uid slot (w == 8) old, []) := by
  unfold passResult
  simp only [if_neg (Nat.not_le.mpr hslot), hturn, hdef, acquireOn_none, Bool.or_false, Bool.false_eq_true, if_false]

theorem resSlot_none {f : FmtT} (h : f.mod.getLsbD 5 = false) : resSlot f = 64 := by
  rw [resSlot, hasRes, h]
  rfl

theorem resSlot_some {f : FmtT} (h : f.mod.getLsbD 5 = true) : resSlot f = f.slot.toNat := by
  rw [resSlot, hasRes, h]
  rfl

theorem acqScope_none {f : FmtT} (h : f.mod.getLsbD 2 = false) : acqScope f = 0 := by
  rw [acqScope, semAcq, h]
  rfl

/-- An atomic on the scratchpad that nothing holds, without result and acquire, acts at its bank (R275). -/
theorem passScratchAtomic_acts {s : State} {x : Site} {f : FmtT} {w o : Nat} (ord op : Nat) (b c : BitVec 64) (hres : f.mod.getLsbD 5 = false)
    (hacq : f.mod.getLsbD 2 = false) (hheld : scratchHeld s x ((unitsOf s x.t).2 * 16384 + o) w = false)
    (hrel : f.mod.getLsbD 3 = true → settledG s x.t.uid = true) :
    passScratchAtomic s x ord op f w o b c = (noteLate (bankAtomic s x.t.vc ((unitsOf s x.t).2 * 16384 + o) op
      (f.mod.extractLsb' 0 2).toNat w b c).1 x.t.vc x.t.uid, []) := by
  have hsettled : (semRel f && !settledG s x.t.uid) = false := by
    cases h : semRel f with
    | false => rfl
    | true => rw [hrel h]; rfl
  unfold passScratchAtomic
  simp only [hsettled, hheld, resSlot_none hres, acqScope_none hacq, Bool.or_false, Bool.false_eq_true, if_false]
  exact passResult_none _ _ _ _ _

/-! Write-backs and peers (R263, R269, R337) -/

theorem passCwb_uncached {mt : Nat} (h : mt ≠ 0) (s : State) (x : Site) (ord : Nat) (f : FmtM) (va pa : Nat) (rtr : Bool) :
    passCwb s x ord f (.global va pa mt rtr) = (s, []) := by
  unfold passCwb
  split
  next heq =>
    cases heq
    exact absurd rfl h
  next => rfl

theorem passPst_opens {s s1 : State} {x : Site} {ch pkg pctx cid : Nat} {o : Bool} (h : openChannel s x.t.ctx ch = (s1, some (pkg, pctx, o, cid)))
    (ord va : Nat) (bs : List Byte) : passPst s x ord ch (.peer va) bs = ((passEffect (bumpFlow s1 x.t.ctx ch) x ord
      (.peer ch pkg pctx (flowSeq s1 x.t.ctx ch) o false) va bs.length 0 false 0 0 [(va, bs)] true).1, []) := by
  unfold passPst
  simp only [h]

theorem passPst_closed {s s1 : State} {x : Site} {ch : Nat} (h : openChannel s x.t.ctx ch = (s1, none)) (ord va : Nat) (bs : List Byte) :
    passPst s x ord ch (.peer va) bs = (postEvent s1 (peerRec x.t.ctx 0 va), []) := by
  unfold passPst
  simp only [h]

/-! The words -/

/-- Each word is a function of the access that it makes; that function passes an effect on, or leaves the state. -/
theorem effectWordsLeave : EffectWordsLeave := by
  intro s x sh ord lay
  refine ⟨fun f => ⟨rfl, rfl, rfl, rfl, rfl, rfl, rfl, rfl, rfl⟩, fun i op f float hi => ?_, fun f n va pa ha => ?_, fun f n va pa ha => ?_, fun _ => rfl,
    fun f => ⟨fun hk => ?_, fun hk => ?_, fun hk => ?_⟩, fun f va pa mt rtr ha => ⟨fun hmt => ?_, fun hmt => ?_⟩, fun f va pa mt rtr ha => ?_,
    fun f va ha => ⟨fun pkg pctx o cid hch => ?_, fun hch => ?_⟩⟩
  · dsimp only
    rw [passWord_atomic hi]
    refine ⟨fun va pa mt rtr ha => ?_, fun ha => ⟨fun hres => ?_, fun hres hturn hdef => ?_⟩, fun o ha hres hacq hheld hrel => ?_⟩ <;> rw [ha]
    · exact passEffect_leaves ..
    · exact (congrArg (passResult s x ord _ · 0 0) (resSlot_none hres)).trans (passResult_none ..)
    · exact (congrArg (passResult s x ord _ · 0 0) (resSlot_some hres)).trans (passResult_lands f.slot.isLt hturn hdef)
    · exact passScratchAtomic_acts ord op _ _ hres hacq hheld hrel
  · show LeavesEffect s x (passSignal s x ord 0xB9 f (accessOf s x (.sigsub f) sh) _) _ _ _ _ _
    rw [ha]
    exact passEffect_leaves ..
  · show LeavesEffect s x (passSignal s x ord 0xBB f (accessOf s x (.mbox f) sh) _) _ _ _ _ _
    rw [ha]
    exact passEffect_leaves ..
  · show passFence s x ord f = _
    simp [passFence, hk]
  · show LeavesEffect s x (passFence s x ord f) _ _ _ _ _
    simp only [passFence, hk]
    exact passEffect_leaves s x ord _ _ _ _ _ _ _ _ _ false
  · show LeavesEffect _ x (passFence s x ord f) _ _ _ _ _
    simp only [passFence, hk]
    exact passEffect_leaves _ x ord _ _ _ _ _ _ _ _ _ true
  · show LeavesEffect s x (passCwb s x ord f (accessOf s x (.cwb f) sh)) _ _ _ _ _
    rw [ha, hmt]
    exact passEffect_leaves s x ord _ _ _ _ _ _ _ _ _ false
  · show passCwb s x ord f (accessOf s x (.cwb f) sh) = _
    rw [ha]
    exact passCwb_uncached hmt ..
  · show LeavesEffect s x (passLaunch s x ord (accessOf s x (.launch f) sh)) _ _ _ _ _
    rw [ha]
    exact passEffect_leaves s x ord _ _ _ _ _ _ _ _ _ false
  · show LeavesEffect _ x (passPst s x ord f.buf.toNat (accessOf s x (.pst f) sh) _) _ _ _ _ _
    rw [ha, passPst_opens (Prod.ext rfl hch)]
    exact passEffect_leaves _ x ord _ _ _ _ _ _ _ _ _ false
  · show passPst s x ord f.buf.toNat (accessOf s x (.pst f) sh) _ = _
    rw [ha, passPst_closed (Prod.ext rfl hch)]

end Sys2Proof.Machine
end

section
/-! PROOFS (O37, engines). Copies, matrix commands, rings and spawned threads at their commit (R162, R288 to R290, R307 to R320). -/
namespace Sys2Proof.Machine

/-! States that differ in what their cores store -/

/-- The states differ in the storage of their cores only. -/
def StorageOnly (s t : State) : Prop := CoresOnly s t ∧ t.cores.length = s.cores.length ∧
  ∀ vc, (core t vc).copies = (core s vc).copies ∧ (core t vc).ops = (core s vc).ops

theorem StorageOnly.refl (s : State) : StorageOnly s s := ⟨.refl s, rfl, fun _ => ⟨rfl, rfl⟩⟩

theorem StorageOnly.trans {s t u : State} (h : StorageOnly s t) (k : StorageOnly t u) : StorageOnly s u := by
  obtain ⟨h1, h2, h3⟩ := h
  obtain ⟨k1, k2, k3⟩ := k
  exact ⟨h1.trans k1, k2.trans h2, fun vc => ⟨(k3 vc).1.trans (h3 vc).1, (k3 vc).2.trans (h3 vc).2⟩⟩

theorem modStore_storageOnly (s : State) (vc : Nat) (f : Storage → Storage) : StorageOnly s (modStore s vc f) := by
  refine ⟨modCore_coresOnly .., length_modAt _ _ _, fun k => ?_⟩
  unfold modStore
  rcases core_modCore s vc (fun c => { c with store := f c.store }) k with h | h <;> rw [h] <;> exact ⟨rfl, rfl⟩

theorem foldl_storageOnly {α : Type} {f : State → α → State} (hf : ∀ s a, StorageOnly s (f s a)) (l : List α) (s : State) :
    StorageOnly s (l.foldl f s) :=
  List.foldlRecOn (motive := StorageOnly s) _ _ (.refl s) fun _ h a _ => h.trans (hf _ a)

theorem clearLines_storageOnly (s : State) (vc : Nat) (l : List Nat) : StorageOnly s (l.foldl (fun s n => clearLine s vc n) s) :=
  foldl_storageOnly (fun s _ => modStore_storageOnly s vc _) l s

theorem claimUnit_storageOnly (s : State) (vc ctx g gi : Nat) (u : EUnit) : StorageOnly s (claimUnit s vc ctx g gi u) := by
  unfold claimUnit
  split
  · exact modStore_storageOnly ..
  · exact modStore_storageOnly ..

/-! Slots that await a status (R307, R312) -/

theorem SlotAwaits.of_threads {s t u : State} {uid n : Nat} (h : SlotAwaits s t uid n) (hthreads : u.threads = t.threads) : SlotAwaits s u uid n := by
  intro v hv
  obtain ⟨w, hw, hslots⟩ := h v hv
  exact ⟨w, (thread?_congr hthreads uid).trans hw, hslots⟩

theorem clearSlot_awaits (s : State) (uid n : Nat) : SlotAwaits s (clearSlot s uid n) uid n := by
  intro u hu
  refine ⟨_, (thread_modThread_same s uid _ ?_).trans (congrArg _ hu), ?_, fun k hk => getD_modAt_other _ _ _ _ _ hk⟩
  · exact fun _ => rfl
  · by_cases hn : n < u.slots.length
    · dsimp only
      rw [getD_modAt_same _ _ _ _ hn]
    · dsimp only
      rw [List.getD_eq_default _ _ (by simpa using hn)]
      rfl

/-! Copies (R307) -/

theorem passWord_copy {i : Instr} {f : FmtE} (h : copyForm i = some f) (s : State) (x : Site) (ord : Nat) (sh : Shape) (lay : Option (BitVec 512)) :
    passWord s x ord i sh lay = passCopy s x ord i f sh lay := by
  unfold copyForm at h
  split at h <;> cases h <;> rfl

theorem passCopy_queues {s : State} {x : Site} (hvc : x.t.vc < s.cores.length) (ord : Nat) (i : Instr) (f : FmtE) (sh : Shape) (lay : Option (BitVec 512)) :
    SlotAwaits s (passCopy s x ord i f sh lay).1 x.t.uid f.slot.toNat ∧
    ∃ c : Copy, (core (passCopy s x ord i f sh lay).1 x.t.vc).copies = (core s x.t.vc).copies ++ [c] ∧ c.uid = x.t.uid ∧ c.ord = ord ∧ c.st = .queued ∧
      c.layout = lay ∧ c.word = siteWord x := by
  let c := mkCopy (fresh s).2 x i f sh (fresh s).1 ord lay
  obtain ⟨hcores, hlength, hlists⟩ := clearLines_storageOnly (clearSlot (fresh s).2 x.t.uid f.slot.toNat) x.t.vc (destLines (fresh s).2 c)
  obtain ⟨-, -, -, hthreads, -⟩ := hcores.keeps
  refine ⟨SlotAwaits.of_threads (clearSlot_awaits (fresh s).2 x.t.uid f.slot.toNat) hthreads,
    { c with cleared := destLines (fresh s).2 c }, ?_, rfl, rfl, rfl, rfl, rfl⟩
  unfold passCopy
  dsimp only
  rw [core_modCore_same _ _ _ (hlength ▸ hvc)]
  exact congrArg (· ++ _) (hlists x.t.vc).1

/-! Matrix commands (R295, R314, R318, R319) -/

theorem passOp_joins {s : State} {x : Site} (hvc : x.t.vc < s.cores.length) (word : BitVec 32) (a : Nat) :
    ∃ o : Op, (core (passOp s x word a) x.t.vc).ops = (core s x.t.vc).ops ++ [o] ∧ o.uid = x.t.uid ∧ o.st = .pending ∧ o.tag = a % 64 ∧ o.word = word :=
  ⟨_, congrArg (·.ops) (core_modCore_same (fresh s).2 x.t.vc _ hvc), rfl, rfl, rfl, rfl⟩

/-- One command joins for each unit of a range. -/
theorem foldl_passUnit_joins (x : Site) (f : FmtE) (a : Nat) : ∀ (l : List EUnit) (s : State), x.t.vc < s.cores.length →
    ∃ os : List Op, (core (l.foldl (fun s u => passUnit s x f a u) s) x.t.vc).ops = (core s x.t.vc).ops ++ os ∧ os.length = l.length ∧
      ∀ o ∈ os, o.uid = x.t.uid ∧ o.st = .pending ∧ o.tag = a % 64
  | [], s, _ => ⟨[], by simp, rfl, by simp⟩
  | u :: l, s, hvc => by
    obtain ⟨o, hone, huid, hst, htag, -⟩ := passOp_joins hvc (putFmtE ((siteWord x).extractLsb' 24 8) { f with slot := BitVec.ofNat 6 u.2, z := 0 }) a
    obtain ⟨os, hrest, hcount, hall⟩ := foldl_passUnit_joins x f a l (passUnit s x f a u) (lt_of_lt_of_eq hvc (length_modAt _ _ _).symm)
    refine ⟨o :: os, ?_, congrArg (· + 1) hcount, List.forall_mem_cons.mpr ⟨⟨huid, hst, htag⟩, hall⟩⟩
    rw [List.foldl_cons, hrest, passUnit, hone, List.append_assoc]
    rfl

theorem mem_rangeOf {f : FmtE} {u : EUnit} (h : u ∈ rangeOf f) : u.1 = f.x.toNat / 16 := by
  obtain ⟨i, -, rfl⟩ := List.mem_map.mp h
  rfl

/-- A claim of operand slots waits in issue order (R314). -/
theorem passClaim_slots {f : FmtE} (h : f.x.toNat / 16 = 0) (s : State) (x : Site) (a : Nat) :
    passClaim s x f a = (rangeOf f).foldl (fun s u => passUnit s x f a u) s :=
  List.foldl_ext _ _ _ fun s u hu => by simp [mem_rangeOf hu, h]

/-- With no command outstanding a claim of accumulators or partial tiles passes them to the group at once (R314). -/
theorem foldl_claim_units (x : Site) (f : FmtE) (a : Nat) : ∀ (l : List EUnit) (s : State), (∀ u ∈ l, u.1 ≠ 0) → (core s x.t.vc).ops = [] →
    l.foldl (fun s u => if u.1 == 0 || releaseOut s x.t.vc x.t.grid x.t.gidx u then passUnit s x f a u
      else claimUnit s x.t.vc x.t.ctx x.t.grid x.t.gidx u) s = l.foldl (fun s u => claimUnit s x.t.vc x.t.ctx x.t.grid x.t.gidx u) s
  | [], _, _, _ => rfl
  | u :: l, s, hl, hops => by
    have hout : (u.1 == 0 || releaseOut s x.t.vc x.t.grid x.t.gidx u) = false := by simp [releaseOut, hops, hl u]
    obtain ⟨-, -, hlists⟩ := claimUnit_storageOnly s x.t.vc x.t.ctx x.t.grid x.t.gidx u
    simp only [List.foldl_cons, hout, Bool.false_eq_true, if_false]
    exact foldl_claim_units x f a l _ (fun u hu => hl u (List.mem_cons_of_mem _ hu)) ((hlists x.t.vc).2.trans hops)

/-- A command joins behind storage that has changed and a slot that awaits its status. -/
theorem passOp_awaits {s t : State} {x : Site} (hvc : x.t.vc < s.cores.length) (n a : Nat) (h : StorageOnly (clearSlot s x.t.uid n) t) :
    (∃ o : Op, (core (passOp t x (siteWord x) a) x.t.vc).ops = (core s x.t.vc).ops ++ [o] ∧ o.uid = x.t.uid ∧ o.st = .pending ∧ o.tag = a % 64 ∧
      o.word = siteWord x) ∧ SlotAwaits s (passOp t x (siteWord x) a) x.t.uid n := by
  obtain ⟨hcores, hlength, hlists⟩ := h
  obtain ⟨-, -, -, hthreads, -⟩ := hcores.keeps
  obtain ⟨o, hops, ho⟩ := passOp_joins (lt_of_lt_of_eq hvc hlength.symm) (siteWord x) a
  exact ⟨⟨o, hops.trans (congrArg (· ++ _) (hlists x.t.vc).2), ho⟩, SlotAwaits.of_threads (clearSlot_awaits s x.t.uid n) hthreads⟩

/-- A `tacst` joins the commands behind the lines that it clears (R318). -/
theorem passTacst_awaits {s : State} {x : Site} (hvc : x.t.vc < s.cores.length) (f : FmtE) (a : Nat) :
    (∃ o : Op, (core (passTacst s x f a) x.t.vc).ops = (core s x.t.vc).ops ++ [o] ∧ o.uid = x.t.uid ∧ o.st = .pending ∧ o.tag = a % 64 ∧
      o.word = siteWord x) ∧ SlotAwaits s (passTacst s x f a) x.t.uid f.slot.toNat := by
  unfold passTacst
  dsimp only
  split
  · exact passOp_awaits hvc _ a (clearLines_storageOnly _ _ _)
  · exact passOp_awaits hvc _ a (.refl _)

/-! Rings (R288 to R290, R311) -/

theorem passSpres_opens {s : State} {x : Site} {f : FmtE} {a b : Nat} (ha : a % 64 = 0)
    (hfits : a + (bits b 20 4 + 1) * bits b 0 17 ≤ (spadOf s x.t.grid x.t.gidx).2) (htb : bits b 0 17 % 64 = 0) (hlo : 64 ≤ bits b 0 17)
    (hhi : bits b 0 17 ≤ 65536) (h17 : bits b 17 3 = 0) (h24 : bits b 24 8 = 0) (hring : ring? s x.t.vc x.t.grid (f.z.toNat % 16) = none) :
    passSpres s x f a b = landStatus (modCore s x.t.vc fun k =>
      { k with rings := k.rings ++ [⟨x.t.grid, f.z.toNat % 16, x.t.gidx, a, bits b 0 17, bits b 20 4 + 1, 0, 0, none⟩] })
        x.t.uid f.slot.toNat (2 ^ 31) := by
  unfold passSpres
  simp [ha, Nat.not_lt.mpr hfits, htb, Nat.not_lt.mpr hlo, Nat.not_lt.mpr hhi, h17, h24, hring, statusWord]

/-- A ring after a change that keeps its names. -/
theorem ring_modRing_same {s : State} {vc : Nat} (hvc : vc < s.cores.length) (grid v : Nat) {f : Ring → Ring}
    (hf : ∀ r, (f r).grid = r.grid ∧ (f r).v = r.v) :
    ring? (modRing s vc grid v f) vc grid v = (ring? s vc grid v).map f := by
  unfold ring? modRing
  rw [core_modCore_same _ _ _ hvc]
  dsimp only
  rw [find_modWhere _ _ _ fun r _ => by simp [hf r]]
  refine Option.map_congr fun r hr => if_pos ?_
  exact List.find?_some (p := fun r : Ring => r.grid == grid && r.v == v) hr

/-- What `sfree` makes of a ring: one more buffer is free, where one is filled. -/
def freeBuffer (r : Ring) : Ring := if r.fc = r.wc then r else { r with fc := r.fc + 1 }

theorem freeBuffer_keeps (r : Ring) : (freeBuffer r).grid = r.grid ∧ (freeBuffer r).v = r.v := by
  unfold freeBuffer
  split <;> exact ⟨rfl, rfl⟩

theorem passSfree_eq (s : State) (x : Site) (f : FmtE) : passSfree s x f = modRing s x.t.vc x.t.grid (f.z.toNat % 16) freeBuffer := by
  unfold passSfree
  congr 1
  funext r
  simp [freeBuffer]

/-! Spawned threads (R161 to R163) -/

theorem spawned_stands (uid : Nat) (t : Thread) (frame sidx : Nat) (payload : List Tok) :
    let n := spawned uid t frame sidx payload
    n.uid = uid ∧ n.frame = frame ∧ n.detached = true ∧ n.depth = t.depth + 1 ∧ n.tid = 0x10000 + frame ∧ n.ptr = { t.ptr with sidx := sidx } ∧
      n.grid = t.grid ∧ n.gidx = t.gidx := by
  intro n
  have hslots : ∀ b, SlotsOnly b ((payload.zip (List.range payload.length)).foldl (fun t p => wrTok t p.2 false p.1) b) := fun b =>
    List.foldlRecOn (motive := SlotsOnly b) _ _ (.refl b) fun _ h _ _ => h.trans (wrTok_slotsOnly ..)
  obtain ⟨heq, -⟩ := hslots { clearFrame t with
    uid := uid, frame := frame, resident := true, tid := 0x10000 + frame, detached := true, depth := t.depth + 1, ptr := { t.ptr with sidx := sidx }
    st := .moving, seq := 0, parkAt := 0, ackLost := [], ackRec := none, parkLarge := false, owesYield := false, bitAt := none, statusAt := [] }
  have hn : n = _ := heq
  rw [hn]
  exact ⟨rfl, rfl, rfl, rfl, rfl, rfl, rfl, rfl⟩

theorem passSpawn_starts {s : State} {x : Site} {frame : Nat} {rest : List Nat} (hframes : spawnFrames s x.t.vc (x.t.depth + 1) = frame :: rest)
    (hperf : performedG s x.t.uid = true) (ord : Nat) (f : FmtN) (payload : List Tok) :
    passSpawn s x ord f payload = (setWaiting { s with nextId := s.nextId + 1, threads := s.threads ++ [spawned s.nextId x.t frame f.sa.toNat payload] }
      s.nextId, []) := by
  unfold passSpawn
  simp only [hframes, hperf, if_true]
  rfl

/-! The words -/

theorem engineWordsJoin : EngineWordsJoin := by
  intro s x sh ord lay hvc
  have hop := passOp_joins hvc (siteWord x) (portVal s x sh 0)
  have hunits := fun f : FmtE => foldl_passUnit_joins x f (portVal s x sh 0) (rangeOf f) s hvc
  have hawaits := fun f : FmtE => passOp_awaits hvc f.slot.toNat (portVal s x sh 0) (.refl _)
  have htacst := fun f : FmtE => passTacst_awaits hvc f (portVal s x sh 0)
  refine ⟨fun f i hi => ?_, fun f => ⟨rfl, rfl, rfl, rfl, rfl, rfl, rfl⟩, ⟨fun f => ⟨⟨rfl, hop⟩, ⟨rfl, hop⟩, ⟨rfl, hop⟩, ⟨rfl, hop⟩, ⟨rfl, hop⟩,
    ⟨rfl, (htacst f).1⟩, ⟨rfl, (hawaits f).1⟩, ⟨rfl, (hawaits f).1⟩⟩, fun f => ⟨rfl, hunits f⟩, fun f hf => ⟨rfl, ?_⟩,
    fun f => ⟨(htacst f).2, (hawaits f).2, (hawaits f).2⟩⟩, fun f hf hops => ?_, fun f gr hgr => ⟨rfl, ?_⟩,
    fun f => ?_, fun f r hr => ⟨rfl, ?_⟩,
    fun f frame rest hframes hperf => ?_⟩
  · dsimp only
    rw [passWord_copy hi]
    exact ⟨rfl, passCopy_queues hvc ord i f sh lay⟩
  · show ∃ os : List Op, (core (passClaim s x f (portVal s x sh 0)) x.t.vc).ops = _ ∧ _
    rw [passClaim_slots hf]
    exact hunits f
  · exact congrArg (·, []) (foldl_claim_units x f _ (rangeOf f) s (fun u hu => mem_rangeOf hu ▸ hf) hops)
  · refine (group_modGroup_same s _ _ ?_).trans (congrArg _ hgr)
    exact fun _ => ⟨rfl, rfl⟩
  · intro b tb dp ha hfits htb hlo hhi h17 h24 hring
    show (passSpres s x f (portVal s x sh 0) b, ([] : List Wait)) = _
    rw [passSpres_opens ha hfits htb hlo hhi h17 h24 hring]
  · show ring? (passSfree s x f) _ _ _ = _
    rw [passSfree_eq, ring_modRing_same hvc _ _ freeBuffer_keeps, hr]
    rfl
  · let payload := (List.range (f.sb.toNat % 4)).map fun p => portTok s x sh p
    obtain ⟨huid, hframe, hdetached, hdepth, htid, hptr, hgrid, hgidx⟩ := spawned_stands s.nextId x.t frame f.sa.toNat payload
    exact ⟨spawned s.nextId x.t frame f.sa.toNat payload, huid, hframe, hdetached, hdepth, htid, hptr, hgrid, hgidx,
      passSpawn_starts hframes hperf ord f payload⟩

end Sys2Proof.Machine
end

section
/-! PROOFS (O37, groups and contexts). What the words without an ordinal do at their commit (R346, R347, R350, R353, R356, R361 to R364). -/
namespace Sys2Proof.Machine

/-! Arrivals (R347, R356) -/

theorem arrived_arrive (now uid : Nat) (word : BitVec 32) (b : Bar) : (arrive now uid word b).arrived = b.arrived ++ [uid] := by
  unfold arrive
  split
  next h => rw [List.isEmpty_iff.mp h]; rfl
  next => rfl

/-- A member's arrival at a barrier. -/
theorem passBar_arrives {s : State} {x : Site} {f : FmtS} {gr : Group} (hgr : group? s x.t.grid x.t.gidx = some gr) (hmember : x.t.detached = false)
    (hbar : f.ctl.toNat % 4 < gr.bars.length) : (passBar s x f).2 = [.bar (f.ctl.toNat % 4)] ∧
      ∃ gr2, group? (passBar s x f).1 x.t.grid x.t.gidx = some gr2 ∧
        (gr2.bars.getD (f.ctl.toNat % 4) Bar.fresh).arrived = (gr.bars.getD (f.ctl.toNat % 4) Bar.fresh).arrived ++ [x.t.uid] := by
  unfold passBar
  simp only [hmember, Bool.false_eq_true, if_false]
  refine ⟨trivial, _, (group_modGroup_same s _ _ ?_).trans (congrArg _ hgr), ?_⟩
  · exact fun _ => ⟨rfl, rfl⟩
  · dsimp only
    rw [getD_modAt_same _ _ _ _ hbar, arrived_arrive]

/-- A member's arrival at its group's `gwait`: the first of a generation fixes the signal, the threshold and the scope. -/
theorem passGwaitWord_arrives {s : State} {x : Site} {gr : Group} (hgr : group? s x.t.grid x.t.gidx = some gr) (hmember : x.t.detached = false)
    (f : FmtS) (a b : Nat) : (passGwaitWord s x f a b).2 = [.gwait] ∧ ∃ gr2, group? (passGwaitWord s x f a b).1 x.t.grid x.t.gidx = some gr2 ∧
      gr2.gw.arrived = gr.gw.arrived ++ [x.t.uid] ∧
      (gr.gw.arrived = [] → gr2.gwSig = a ∧ gr2.gwThr = BitVec.ofNat 64 b ∧ gr2.gwScope = f.ctl.toNat % 8) ∧
      (gr.gw.arrived ≠ [] → gr2.gwSig = gr.gwSig ∧ gr2.gwThr = gr.gwThr ∧ gr2.gwScope = gr.gwScope) := by
  have hused : gwaitUsed s x.t = gr.gw.arrived.isEmpty := by simp [gwaitUsed, hmember, hgr]
  unfold passGwaitWord
  simp only [hmember, hused, Bool.false_eq_true, if_false]
  cases hfirst : gr.gw.arrived.isEmpty with
  | true =>
    refine ⟨trivial, _, (group_modGroup_same s _ _ ?_).trans (congrArg _ hgr), arrived_arrive .., fun _ => ⟨rfl, rfl, rfl⟩, fun h => ?_⟩
    · exact fun _ => ⟨rfl, rfl⟩
    · exact absurd (List.isEmpty_iff.mp hfirst) h
  | false =>
    refine ⟨trivial, _, (group_modGroup_same s _ _ ?_).trans (congrArg _ hgr), arrived_arrive .., fun h => ?_, fun _ => ⟨rfl, rfl, rfl⟩⟩
    · exact fun _ => ⟨rfl, rfl⟩
    · rw [h] at hfirst; cases hfirst

/-! Collectives (R353) -/

/-- After a contribution the group has a collective of this word that holds it. -/
theorem contribute_joins (s : State) (x : Site) (tok : Tok) (g : Group) :
    ∃ co ∈ (contribute s x tok g).colls, co.ptr = x.t.ptr ∧ co.idx = x.idx ∧ ⟨x.t.uid, x.t.tid, tok⟩ ∈ co.contribs := by
  unfold contribute
  dsimp only
  split
  next h =>
    obtain ⟨k, hk, hmine⟩ := List.any_eq_true.mp h
    refine ⟨_, mem_modWhere_iff.mpr ⟨k, hk, if_pos hmine⟩, ?_⟩
    split <;> exact ⟨rfl, rfl, List.mem_append_right _ (List.mem_singleton_self _)⟩
  next => exact ⟨_, List.mem_append_right _ (List.mem_singleton_self _), rfl, rfl, List.mem_singleton_self _⟩

theorem contribute_names (s : State) (x : Site) (tok : Tok) (g : Group) :
    (contribute s x tok g).grid = g.grid ∧ (contribute s x tok g).gidx = g.gidx := by
  unfold contribute
  dsimp only
  split <;> exact ⟨rfl, rfl⟩

theorem passColl_contributes {s : State} {x : Site} {f : FmtA} {sh : Shape} {gr : Group} (hgr : group? s x.t.grid x.t.gidx = some gr)
    (hmember : x.t.detached = false) (hgate : siteGate s x sh = none) : (passColl s x f sh).2 = [.coll x.idx (deferredSlot x) (collWidth f == 64)] ∧
      ∃ gr2, group? (passColl s x f sh).1 x.t.grid x.t.gidx = some gr2 ∧
        ∃ co ∈ gr2.colls, co.ptr = x.t.ptr ∧ co.idx = x.idx ∧ ⟨x.t.uid, x.t.tid, portTok s x sh 0⟩ ∈ co.contribs := by
  unfold passColl
  simp only [hmember, hgate, Bool.false_eq_true, if_false]
  exact ⟨trivial, _, (group_modGroup_same s _ _ (contribute_names s x _)).trans (congrArg _ hgr), contribute_joins ..⟩

/-! Exchange slots (R350) -/

/-- An exchange slot of the site's thread. -/
def exchangeSlot? (s : State) (x : Site) (n : Nat) : Option Slot := (thread? s x.t.uid).map fun t => t.xs.getD n Slot.empty

theorem exchangeSlot?_modThread {s : State} {x : Site} {t : Thread} {n : Nat} {g : Thread → List Slot} (ht : thread? s x.t.uid = some t) :
    exchangeSlot? (modThread s x.t.uid fun t => { t with xs := g t }) x n = some ((g t).getD n Slot.empty) := by
  unfold exchangeSlot?
  refine (congrArg _ (thread_modThread_same s _ _ ?_)).trans (by rw [ht]; rfl)
  exact fun _ => rfl

theorem passXput_fills {s : State} {x : Site} {f : FmtL} {t : Thread} (ht : thread? s x.t.uid = some t) (hn : f.slot.toNat % 8 < t.xs.length) :
    (∀ v, exchangeSlot? (passXput s x f (.val v)) x (f.slot.toNat % 8) = some ⟨v.setWidth 32, true, false⟩) ∧
    ∀ o, exchangeSlot? (passXput s x f (.poison o)) x (f.slot.toNat % 8) = some ⟨o, true, true⟩ :=
  ⟨fun _ => (exchangeSlot?_modThread ht).trans (congrArg some ((getD_setAt _ _ _ _ _ hn).trans (if_pos rfl))),
    fun _ => (exchangeSlot?_modThread ht).trans (congrArg some ((getD_setAt _ _ _ _ _ hn).trans (if_pos rfl)))⟩

theorem passXclr_empties {s : State} {x : Site} {f : FmtL} {t : Thread} (ht : thread? s x.t.uid = some t) (hn : f.slot.toNat % 8 < t.xs.length) :
    (exchangeSlot? (passXclr s x f) x (f.slot.toNat % 8)).map (fun l => (l.pres, l.mark)) = some (false, false) := by
  unfold passXclr
  rw [exchangeSlot?_modThread ht, getD_modAt_same _ _ _ _ hn]
  rfl

/-! Invalidation (R362) -/

theorem passTlbinv_acts {s : State} {x : Site} {f : FmtS} (h : f.mod.toNat % 4 = 2 ∨ (ctx? s (selected s x.t.ctx)).isSome = true) (a : Nat) :
    passTlbinv s x f a = tlbInvalidate s (selected s x.t.ctx) (f.mod.toNat % 4) a := by
  unfold passTlbinv
  exact if_pos (by simpa using h)

theorem passTlbinv_unnamed {s : State} {x : Site} {f : FmtS} (hmode : f.mod.toNat % 4 ≠ 2) (h : ctx? s (selected s x.t.ctx) = none) (a : Nat) :
    passTlbinv s x f a = s := by
  unfold passTlbinv
  exact if_neg (by simp [hmode, h])

theorem passCinv_acts {s : State} {x : Site} (h : (ctx? s (selected s x.t.ctx)).isSome = true) (f : FmtS) :
    passCinv s x f = ((List.range s.cores.length).map fun vc => (vc, (core s vc).bullpen)).foldl (fun s k => refetch s k.1 k.2)
      (cacheInvalidate s (selected s x.t.ctx) (f.mod.toNat % 4)) := by
  unfold passCinv
  exact if_pos h

theorem passCinv_unnamed {s : State} {x : Site} (h : ctx? s (selected s x.t.ctx) = none) (f : FmtS) : passCinv s x f = s := by
  unfold passCinv
  exact if_neg (by simp [h])

/-! The words -/

theorem groupWordsAct : GroupWordsAct := by
  intro s x sh
  refine ⟨fun f gr => passBar_arrives, fun f hd => ?_, ⟨fun f gr hgr hmember => passGwaitWord_arrives hgr hmember f _ _, fun f hd => ?_⟩,
    fun f gr => passColl_contributes, fun f hd => ?_, fun f t ht hn => ⟨(passXput_fills ht hn).1, (passXput_fills ht hn).2, rfl, passXclr_empties ht hn⟩,
    fun f => rfl, fun f hmode => ⟨rfl, (passTlbinv_acts (.inl hmode) _).trans (by rw [hmode])⟩,
    fun f hc => ⟨congrArg (·, []) (passTlbinv_acts (.inr hc) _), congrArg (·, []) (passCinv_acts hc f)⟩,
    fun f hc => ⟨congrArg (·, []) (passCinv_unnamed hc f), fun hmode => congrArg (·, []) (passTlbinv_unnamed hmode hc _)⟩,
    fun f => passEffect_leaves s x _ _ _ _ _ _ _ _ _ _ false,
    fun f => ⟨clearSlot_awaits s _ _, clearSlot_awaits s _ _, passEffect_leaves _ x _ _ _ _ _ _ _ _ _ _ false,
      passEffect_leaves _ x _ _ _ _ _ _ _ _ _ _ false⟩⟩
  · show passBar s x f = _
    unfold passBar
    exact if_pos hd
  · unfold passGwaitWord
    exact if_pos hd
  · unfold passColl
    exact if_pos hd

end Sys2Proof.Machine
end

section
/-! PROOFS (O37, successors). Where each successor word sends its thread, traps, and the last step of a move (R157 to R173, R358). -/
namespace Sys2Proof.Machine

/-! Successors named by a token (R170 to R173) -/

section
variable {s : State} {x : Site} {i : Nat} {sh : Shape} {v : BitVec 128}

/-- Without an operand the word fails with code 1 (R160). -/
theorem testSuccWord_null (h : portTok s (x.word i) sh 0 = .null) (f : FmtS) :
    (testSuccWord s x i (.nexti f) sh).2 = .bad (succFault x.t 1 i) ∧ (testSuccWord s x i (.ret f) sh).2 = .bad (succFault x.t 1 i) ∧
      (testSuccWord s x i (.calli f) sh).2 = .bad (succFault x.t 1 i) := by
  simp [testSuccWord, testCalli, h]

theorem testSuccWord_nexti (h : portTok s (x.word i) sh 0 = .val v) (f : FmtS) : (testSuccWord s x i (.nexti f) sh).2 =
    if 4096 ≤ v.toNat % 2 ^ 32 then .bad (succFault x.t 2 i)
    else if ownSegs s x.t ≤ v.toNat % 2 ^ 32 then .bad (succFault x.t 3 i)
    else .go ⟨some { x.t.ptr with sidx := v.toNat % 2 ^ 32 }, none, none⟩ := by
  simp only [testSuccWord, h]
  split
  · rfl
  · split <;> rfl

theorem testSuccWord_ret (h : portTok s (x.word i) sh 0 = .val v) (f : FmtS) : (testSuccWord s x i (.ret f) sh).2 =
    match checkLink s x.t.ctx (v.setWidth 32) with
    | .ok p => .go ⟨some p, none, none⟩
    | .error code => .bad (succFault x.t code i) := by
  have hlink : BitVec.ofNat 32 v.toNat = v.setWidth 32 := BitVec.ofNat_toNat 32 v
  simp only [testSuccWord, h, hlink]
  cases checkLink s x.t.ctx (v.setWidth 32) <;> rfl

theorem testSuccWord_calli_range (h : portTok s (x.word i) sh 0 = .val v) (hbad : 2 ^ 55 ≤ v.toNat % 2 ^ 64 ∨ v.toNat % 16 ≠ 0) (f : FmtS) :
    (testSuccWord s x i (.calli f) sh).2 = .bad (succFault x.t 2 i) := by
  have hcond : (decide (2 ^ 55 ≤ v.toNat % 2 ^ 64) || v.toNat % 2 ^ 64 % 16 != 0) = true := by
    rw [Nat.mod_mod_of_dvd _ (by decide : 16 ∣ 2 ^ 64)]
    simpa using hbad
  simp only [testSuccWord, h, testCalli, hcond, if_true]

theorem testSuccWord_calli_header (h : portTok s (x.word i) sh 0 = .val v) (hrange : v.toNat % 2 ^ 64 < 2 ^ 55) (halign : v.toNat % 16 = 0) {s1 : State}
    {pa mt : Nat} {c : Ctx} {p : SegPtr} (hx : codeXlat s x.t.vc x.t.ctx (cidfOf s x.t) (v.toNat % 2 ^ 64) = (s1, .inl (.pa pa mt)))
    (hc : ctx? s1 x.t.ctx = some c) (hseg : segAt? c (v.toNat % 2 ^ 64) = some p) (f : FmtS) :
    (testSuccWord s x i (.calli f) sh).2 = .go ⟨some p, some (f.ctl.toNat * 16 + f.mod.toNat % 16), none⟩ := by
  have hcond : (decide (2 ^ 55 ≤ v.toNat % 2 ^ 64) || v.toNat % 2 ^ 64 % 16 != 0) = false := by
    rw [Nat.mod_mod_of_dvd _ (by decide : 16 ∣ 2 ^ 64), halign, decide_eq_false (Nat.not_le.mpr hrange)]
    rfl
  simp only [testSuccWord, h, testCalli, hcond, hx, hc, Option.bind_some, hseg]
  rfl

end

/-! Traps (R358) -/

/-- What the word at an index raises as a trap or a break. -/
def trapOf (s : State) (x : Site) (i : Nat) : Option AccFault :=
  match wordAt? x i with
  | some (.trap f, sh) => if acts s x i then some ⟨0x0B, 0, f.ctl.setWidth 32, 0, BitVec.ofNat 32 (portVal s (x.word i) sh 0)⟩ else none
  | some (.brk f, sh) => if ((ctx? s x.t.ctx).map fun c => c.regs.ctxCtl.getLsbD 2).getD false && acts s x i then
      some ⟨0x0C, 0, f.ctl.setWidth 32, 0, BitVec.ofNat 32 (portVal s (x.word i) sh 0)⟩ else none
  | _ => none

theorem trapAt?_eq (s : State) (x : Site) : trapAt? s x = (List.range x.ws.length).findSome? (trapOf s x) := rfl

theorem trapOf_none {s : State} {x : Site} {i : Nat} (h : ∀ w q, wordAt? x i = some (w, q) → (∀ g, w ≠ .trap g) ∧ ∀ g, w ≠ .brk g) :
    trapOf s x i = none := by
  unfold trapOf
  split
  next f sh hw => exact absurd rfl ((h _ _ hw).1 f)
  next f sh hw => exact absurd rfl ((h _ _ hw).2 f)
  next => rfl

theorem lt_of_wordAt? {x : Site} {k : Nat} {r : Instr × Shape} (h : wordAt? x k = some r) : k < x.ws.length := by
  by_contra hk
  rw [wordAt?, List.getD_eq_default _ _ (Nat.le_of_not_lt hk)] at h
  cases h

/-- The first word that raises something decides. -/
theorem trapAt?_first {s : State} {x : Site} {k : Nat} {f : AccFault} (hbefore : ∀ j < k, trapOf s x j = none) (hlt : k < x.ws.length)
    (hk : trapOf s x k = some f) : trapAt? s x = some f := by
  rw [trapAt?_eq, ← Nat.add_sub_cancel' (Nat.succ_le_of_lt hlt), List.range_add, List.findSome?_append, List.range_succ, List.findSome?_append,
    List.findSome?_eq_none_iff.mpr fun j hj => hbefore j (List.mem_range.mp hj)]
  simp [hk]

/-! The last step of a move (R132, R164, R166) -/

theorem finishMove_exits {s : State} {uid : Nat} {t : Thread} {w : MoveWait} (ht : thread? s uid = some t) (hw : t.wait = some w) (hsucc : w.succ = none) :
    finishMove s uid = leaveThread s uid := by
  unfold finishMove
  simp only [ht, hw, hsucc]

theorem finishMove_goes {s : State} {uid : Nat} {t : Thread} {w : MoveWait} {p : SegPtr} (ht : thread? s uid = some t) (hw : t.wait = some w)
    (hsucc : w.succ = some p) :
    finishMove s uid = setWaiting (modThread s uid fun t => { t with ptr := p, wait := none, owesYield := w.yields }) uid := by
  unfold finishMove
  simp only [ht, hw, hsucc]

theorem successorsFound : SuccessorsFound := by
  refine ⟨fun s x i sh => ⟨fun _ => rfl, fun _ => rfl, fun _ => rfl, fun _ => rfl, fun _ => rfl,
      fun f => ⟨fun h => (testSuccWord_null h f).1, fun v h => ?_⟩, fun f => ⟨fun h => (testSuccWord_null h f).2.1, fun v h => ?_⟩,
      fun f => ⟨fun h => (testSuccWord_null h f).2.2, fun v h => ?_⟩⟩,
    fun s x k sh hbefore hact => ?_, fun s uid t w ht hw => ⟨finishMove_exits ht hw, fun p => finishMove_goes ht hw⟩⟩
  · dsimp only
    rw [testSuccWord_nexti h]
    exact ⟨fun hbig => if_pos hbig, fun hsmall hbeyond => by rw [if_neg (Nat.not_le.mpr hsmall), if_pos hbeyond]; rfl,
      fun hsmall hown => by rw [if_neg (Nat.not_le.mpr hsmall), if_neg (Nat.not_le.mpr hown)]⟩
  · dsimp only
    rw [testSuccWord_ret h]
    exact ⟨fun p hp => by rw [hp], fun code hcode => by rw [hcode]; rfl⟩
  · exact ⟨fun hbad => testSuccWord_calli_range h hbad f,
      fun hrange halign s1 pa mt c p hx hc hseg => testSuccWord_calli_header h hrange halign hx hc hseg f⟩
  · have hnone : ∀ j < k, trapOf s x j = none := fun j hj => trapOf_none fun w q => hbefore j w q hj
    refine ⟨fun f hw => trapAt?_first hnone (lt_of_wordAt? hw) ?_, fun f c hw hc hdebug => trapAt?_first hnone (lt_of_wordAt? hw) ?_⟩
    · simp only [trapOf, hw, hact, if_true]
    · simp only [trapOf, hw, hact, hc, Option.map_some, Option.getD_some, hdebug, Bool.and_self, if_true]

/-- Settles O37: the five parts, each of which goes word by word. -/
theorem commitWordsTakeEffect : Obligations.CommitWordsTakeEffect :=
  ⟨commitPassesWord, effectWordsLeave, engineWordsJoin, groupWordsAct, successorsFound⟩

end Sys2Proof.Machine
end

section
/-! PROOFS (integer lanes). What an integer word sends, lane by lane, and the numbers that lanes hold (R33, R182 to R185): the layer that the statements
about the integer words rest on. -/
namespace Sys2Proof.Machine

/-! The TYPE codes that a word accepts (R88, R94) -/

/-- R88: the checks of a word of format A hold its TYPE to a list, and each code of the list stands in a word that passes them. -/
theorem takesTypes {mk : FmtA → Instr} {op : BitVec 8} {tys : List Nat} (pre post : FmtA → Bool) (henc : ∀ f, encode (mk f) = putFmtA op f)
    (hwf : ∀ f, (mk f).wellFormed = (pre f && tyIn f tys && post f))
    (hex : ∀ ty ∈ tys, FmtA.ty ⟨0, 0xFF, 0, BitVec.ofNat 5 (4 * ty)⟩ = ty ∧ (mk ⟨0, 0xFF, 0, BitVec.ofNat 5 (4 * ty)⟩).wellFormed = true) :
    TakesTypes mk op tys := by
  refine fun f => ⟨by rw [henc, fmtA_wordFormat.opcode_put], fun h => ?_, fun ty hty => ⟨_, hex ty hty⟩⟩
  rw [hwf, Bool.and_eq_true, Bool.and_eq_true] at h
  obtain ⟨⟨-, htype⟩, -⟩ := h
  exact List.contains_iff_mem.mp htype

/-! What is sent (R182, R183) -/

theorem laneWidth_pos : ∀ ty, 0 < laneWidth ty
  | 0 | 1 | 2 | 3 | 4 | 5 | 6 | _ + 7 => Nat.succ_pos _

theorem lane_lt (w v j : Nat) : lane w v j < 2 ^ w := Nat.mod_lt _ (Nat.two_pow_pos w)

/-- A scalar type has one lane, as wide as its token. -/
theorem intLanes_scalar : ∀ {ty : Nat}, ty ≤ 3 → (intLanes ty).1 = 1 ∧ laneWidth ty = intWidth ty
  | 0, _ | 1, _ | 2, _ | 3, _ => ⟨rfl, rfl⟩

theorem intWidth_pos (ty : Nat) : 0 < intWidth ty := by unfold intWidth; split <;> decide

/-- A port holds no more than its width, and a port that the word does not consume counts as 0. -/
theorem portVal_lt {sh : Shape} {w : Nat} (hw : 0 < w) (hins : ∀ q ∈ sh.ins, q.2 = w) (s : State) (x : Site) (p : Nat) : portVal s x sh p < 2 ^ w := by
  unfold portVal
  split
  next q v hfind =>
    obtain rfl : v = w := hins _ (List.mem_of_find?_eq_some hfind)
    dsimp only
    rw [if_neg (by simpa using hw.ne')]
    exact Nat.mod_lt _ (Nat.two_pow_pos v)
  next => exact Nat.two_pow_pos w

section
variable {i : Instr} {s : State} {x : Site} {sh : Shape} {ty : Nat} {g : Nat → Bool → Nat → Nat → Nat → Nat} {rel : Nat → Nat → Prop}
  (hexec : exec i s = fireInt i s (onLanes ty g)) (hi : shape i = some sh) (h : Computes s x sh)
include hexec hi h

/-- R182, R183: an integer word sends in each lane what its function gives for that lane of its operands. -/
theorem sendsLanes_of_lane (hrel : ∀ j, rel j (g (laneWidth ty) (laneSigned ty) (opLane s x sh ty 0 j) (opLane s x sh ty 1 j) (opLane s x sh ty 2 j) %
    2 ^ laneWidth ty)) : SendsLanes (exec i s) s x ty rel := by
  refine ⟨_, hexec.trans (fireInt_computes hi h), onLanes_lt .., fun j hj => ?_⟩
  rw [lane_onLanes _ _ _ _ _ hj]
  exact hrel j

/-- R182, R183: for a scalar type the lane is the operand. -/
theorem sendsLanes_of_scalar (hty : ty ≤ 3) (hins : ∀ q ∈ sh.ins, q.2 = intWidth ty) (hrel : rel 0
    (g (intWidth ty) (laneSigned ty) (portVal s x sh 0) (portVal s x sh 1) (portVal s x sh 2) % 2 ^ intWidth ty)) : SendsLanes (exec i s) s x ty rel := by
  obtain ⟨hone, hwidth⟩ := intLanes_scalar hty
  have hop : ∀ p, lane (intWidth ty) (portVal s x sh p) 0 = portVal s x sh p := fun p => by
    rw [lane_zero, Nat.mod_eq_of_lt (portVal_lt (intWidth_pos ty) hins s x p)]
  refine ⟨_, hexec.trans (fireInt_computes hi h), onLanes_lt .., fun j hj => ?_⟩
  obtain rfl : j = 0 := by omega
  rw [lane_onLanes _ _ _ _ _ hj, hwidth, hop, hop, hop]
  exact hrel

end

theorem shapeAB_ins (f : FmtA) : ∀ q ∈ (shapeAB f).ins, q.2 = intWidth f.ty := by simp [shapeAB, shapeInt, ab]

theorem shapeABC_ins (f : FmtA) : ∀ q ∈ (shapeABC f).ins, q.2 = intWidth f.ty := by simp [shapeABC, shapeInt, abc]

theorem shapeA1_ins (f : FmtA) : ∀ q ∈ (shapeA1 f).ins, q.2 = intWidth f.ty := by simp [shapeA1, shapeInt]

/-! The numbers that lanes hold (R33, R182) -/

theorem wrap_eq_toNat (w : Nat) (i : Int) : wrap w i = (BitVec.ofInt w i).toNat := (BitVec.toNat_ofInt i).symm

theorem wrap_lt (w : Nat) (i : Int) : wrap w i < 2 ^ w := wrap_eq_toNat w i ▸ BitVec.isLt _

/-- R33: the signed reading of a lane is that of the machine word. -/
theorem toSigned_eq_toInt (w v : Nat) : toSigned w v = (BitVec.ofNat w v).toInt := by
  rw [BitVec.toInt_eq_toNat_cond, BitVec.toNat_ofNat, toSigned]
  rcases Nat.eq_zero_or_pos w with rfl | hw
  · simp [Nat.mod_one]
  · have hhalf : v % 2 ^ w < 2 ^ (w - 1) ↔ 2 * (v % 2 ^ w) < 2 ^ w := by rw [← Nat.two_pow_pred_add_two_pow_pred hw]; omega
    simp [hw.ne', hhalf]

theorem laneInt_false (w v : Nat) : laneInt w false v = ((v % 2 ^ w : Nat) : Int) := rfl

theorem laneInt_true (w v : Nat) : laneInt w true v = (BitVec.ofNat w v).toInt := toSigned_eq_toInt w v

theorem laneMin_true (w : Nat) : laneMin w true = -2 ^ (w - 1) := by simp [laneMin]

theorem laneMax_true (w : Nat) : laneMax w true = 2 ^ (w - 1) - 1 := by simp [laneMax]

theorem laneMin_nonpos (w : Nat) : ∀ sg, laneMin w sg ≤ 0
  | false => le_rfl
  | true => by simp [laneMin]

theorem laneMax_nonneg (w : Nat) : ∀ sg, 0 ≤ laneMax w sg
  | false => by have := Nat.two_pow_pos w; simp only [laneMax, Bool.false_eq_true, if_false]; omega
  | true => by have := Nat.two_pow_pos (w - 1); simp only [laneMax, if_true]; omega

theorem laneMin_le_laneInt (w : Nat) (sg : Bool) (v : Nat) : laneMin w sg ≤ laneInt w sg v := by
  cases sg
  · exact Int.natCast_nonneg _
  · rw [laneMin_true, laneInt_true]
    exact BitVec.le_toInt _

theorem laneInt_le_laneMax (w : Nat) (sg : Bool) (v : Nat) : laneInt w sg v ≤ laneMax w sg := by
  cases sg
  · have := Nat.mod_lt v (Nat.two_pow_pos w)
    simp only [laneInt_false, laneMax, Bool.false_eq_true, if_false]
    omega
  · rw [laneMax_true, laneInt_true]
    exact Int.le_sub_one_of_lt BitVec.toInt_lt

@[simp] theorem laneInt_mod (w : Nat) (sg : Bool) (v : Nat) : laneInt w sg (v % 2 ^ w) = laneInt w sg v := by
  simp only [laneInt, toSigned, Nat.mod_mod]

theorem wrap_laneInt (w : Nat) (sg : Bool) (v : Nat) : wrap w (laneInt w sg v) = v % 2 ^ w := by
  cases sg
  · rw [laneInt_false, wrap, ← Int.natCast_emod, Int.toNat_natCast, Nat.mod_mod]
  · rw [laneInt_true, wrap_eq_toNat, BitVec.ofInt_toInt, BitVec.toNat_ofNat]

/-- R33, R185: a number in the range of a lane is what the lane holds. -/
theorem laneInt_wrap {w : Nat} (hw : 0 < w) {sg : Bool} {i : Int} (hlo : laneMin w sg ≤ i) (hhi : i ≤ laneMax w sg) : laneInt w sg (wrap w i) = i := by
  cases sg
  · have hlt : i < 2 ^ w := by simpa [laneMax] using hhi
    rw [laneInt_false, Nat.mod_eq_of_lt (wrap_lt w i), cast_wrap, Int.emod_eq_of_lt hlo hlt]
  · rw [laneMin_true] at hlo
    rw [laneMax_true] at hhi
    rw [laneInt_true, wrap_eq_toNat, BitVec.ofNat_toNat, BitVec.setWidth_eq]
    exact BitVec.toInt_ofInt_eq_self hw hlo (Int.lt_of_le_sub_one hhi)

theorem laneInt_eq_zero_iff {w : Nat} (sg : Bool) {v : Nat} (hv : v < 2 ^ w) : laneInt w sg v = 0 ↔ v = 0 := by
  refine ⟨fun h => ?_, fun h => by subst h; cases sg <;> simp [laneInt, toSigned]⟩
  rw [← Nat.mod_eq_of_lt hv, ← wrap_laneInt w sg v, h]
  simp [wrap]

/-- R187: the negation of the least signed value wraps to itself. -/
theorem laneInt_wrap_neg_min {w : Nat} (hw : 0 < w) : laneInt w true (wrap w (-laneMin w true)) = laneMin w true := by
  have hpow : (2 : Int) ^ w = 2 * 2 ^ (w - 1) := by rw [← pow_succ', Nat.sub_add_cancel hw]
  have hmod : wrap w (-laneMin w true) = wrap w (laneMin w true) := by
    have : (-laneMin w true) % 2 ^ w = laneMin w true % 2 ^ w := by
      rw [Int.emod_eq_emod_iff_emod_sub_eq_zero, laneMin_true, hpow]
      exact Int.emod_eq_zero_of_dvd ⟨1, by ring⟩
    rw [← Int.ofNat_inj, cast_wrap, cast_wrap, this]
  rw [hmod, laneInt_wrap hw le_rfl (laneMin_le_laneMax w true)]

end Sys2Proof.Machine
end

section
/-! PROOFS (O10, O19). Sums, products, the smaller and the larger, and the saturating words, on the numbers of one lane (R185, R196). -/
namespace Sys2Proof.Machine

theorem laneSub_eq {w a b : Nat} (sg : Bool) (c : Nat) (hb : b ≤ 2 ^ w) : laneSub w sg a b c = (a + (2 ^ w - b)) % 2 ^ w := by
  have hshift : ((a : Int) - b) % 2 ^ w = (a + (2 ^ w - b)) % 2 ^ w := by
    rw [show (a : Int) + (2 ^ w - b) = a - b + 2 ^ w by ring, Int.add_emod_right]
  rw [← Int.ofNat_inj, laneSub, cast_wrap, hshift]
  push_cast [hb]
  rfl

theorem ediv_of_emod_mul (p : Int) {n : Int} (hn : 0 < n) : p % (n * n) / n = p / n % n := by
  have hlow : p % (n * n) = p + n * (-(n * (p / (n * n)))) := by rw [Int.emod_def]; ring
  rw [hlow, Int.add_mul_ediv_left _ _ hn.ne', Int.emod_def (p / n), Int.ediv_ediv_of_nonneg hn.le, sub_eq_add_neg]

/-- R185: the upper half of the exact product. -/
theorem cast_laneMulhi (w : Nat) (sg : Bool) (a b c : Nat) :
    ((laneMulhi w sg a b c : Nat) : Int) = laneInt w sg a * laneInt w sg b / 2 ^ w % 2 ^ w := by
  rw [laneMulhi, Int.natCast_ediv, cast_wrap, two_mul, pow_add]
  push_cast
  exact ediv_of_emod_mul _ (by positivity)

theorem laneMulhi_lt (w : Nat) (sg : Bool) (a b c : Nat) : laneMulhi w sg a b c < 2 ^ w :=
  Nat.div_lt_of_lt_mul ((wrap_lt ..).trans_eq (by rw [two_mul, pow_add]))

theorem laneMinOp_spec (w : Nat) (sg : Bool) (a b c : Nat) :
    (laneMinOp w sg a b c = a ∨ laneMinOp w sg a b c = b) ∧ laneInt w sg (laneMinOp w sg a b c) = min (laneInt w sg a) (laneInt w sg b) := by
  unfold laneMinOp
  split
  next h => exact ⟨.inl rfl, (min_eq_left h).symm⟩
  next h => exact ⟨.inr rfl, (min_eq_right (le_of_not_ge h)).symm⟩

theorem laneMaxOp_spec (w : Nat) (sg : Bool) (a b c : Nat) :
    (laneMaxOp w sg a b c = a ∨ laneMaxOp w sg a b c = b) ∧ laneInt w sg (laneMaxOp w sg a b c) = max (laneInt w sg a) (laneInt w sg b) := by
  unfold laneMaxOp
  split
  next h => exact ⟨.inr rfl, (max_eq_right h).symm⟩
  next h => exact ⟨.inl rfl, (max_eq_left (le_of_not_ge h)).symm⟩

/-- A lane that is one of two operand lanes is no wider than a lane. -/
theorem mod_of_eq_or {w a b r : Nat} (ha : a < 2 ^ w) (hb : b < 2 ^ w) (h : r = a ∨ r = b) : r % 2 ^ w = r := by
  rcases h with rfl | rfl
  · exact Nat.mod_eq_of_lt ha
  · exact Nat.mod_eq_of_lt hb

/-- R185: a clamped number is what the lane holds. -/
theorem laneInt_wrap_clampLane {w : Nat} (hw : 0 < w) (sg : Bool) (i : Int) : laneInt w sg (wrap w (clampLane w sg i)) = clampLane w sg i :=
  laneInt_wrap hw (le_max_left ..) (max_le (laneMin_le_laneMax w sg) (min_le_left ..))

/-- Settles O10: each word sends its function of the lanes, and each function is the rule's. -/
theorem integerSumsAndProducts : Obligations.IntegerSumsAndProducts := by
  intro s x f w n lo hi
  have hw : 0 < w := laneWidth_pos f.ty
  refine ⟨fun h => ?_, fun h => sendsLanes_of_lane (exec_mad f s) rfl h fun j => Nat.mod_mod ..⟩
  intro a b
  have ha : ∀ j, a j < 2 ^ w := fun j => lane_lt ..
  have hb : ∀ j, b j < 2 ^ w := fun j => lane_lt ..
  refine ⟨sendsLanes_of_lane (exec_add f s) rfl h fun j => Nat.mod_mod .., sendsLanes_of_lane (exec_sub f s) rfl h fun j => ?_,
    sendsLanes_of_lane (exec_mul f s) rfl h fun j => Nat.mod_mod .., sendsLanes_of_lane (exec_mulhi f s) rfl h fun j => ?_,
    sendsLanes_of_lane (exec_min f s) rfl h fun j => ?_, sendsLanes_of_lane (exec_max f s) rfl h fun j => ?_,
    sendsLanes_of_lane (exec_adds f s) rfl h fun j => ?_, sendsLanes_of_lane (exec_subs f s) rfl h fun j => ?_⟩
  · rw [laneSub_eq _ _ (hb j).le]
    exact Nat.mod_mod ..
  · rw [Nat.mod_eq_of_lt (laneMulhi_lt ..)]
    exact cast_laneMulhi ..
  · have hmin := laneMinOp_spec w (laneSigned f.ty) (a j) (b j) (opLane s x (shapeAB f) f.ty 2 j)
    rwa [mod_of_eq_or (ha j) (hb j) hmin.1]
  · have hmax := laneMaxOp_spec w (laneSigned f.ty) (a j) (b j) (opLane s x (shapeAB f) f.ty 2 j)
    rwa [mod_of_eq_or (ha j) (hb j) hmax.1]
  · exact (laneInt_mod ..).trans (laneInt_wrap_clampLane hw ..)
  · exact (laneInt_mod ..).trans (laneInt_wrap_clampLane hw ..)

theorem flag_eq_mod (f : FmtA) : f.flag = f.mod.toNat % 4 := by simp [FmtA.flag]

/-- Settles O19: `ixa` sends its function of the operands. -/
theorem indexArithmetic : Obligations.IndexArithmetic := by
  refine ⟨takesTypes wfA (fun _ => true) (fun _ => rfl) (fun _ => (Bool.and_true _).symm) (by decide), fun s x f hty h => ?_⟩
  refine sendsLanes_of_scalar (exec_ixa f s) rfl h hty (shapeAB_ins f) ?_
  rw [← flag_eq_mod]
  exact Nat.mod_mod ..

end Sys2Proof.Machine
end

section
/-! PROOFS (O11). Quotients, remainders, magnitude and negation of one lane, with the numbers that leave its range (R186, R187). -/
namespace Sys2Proof.Machine

/-- A number between 0 and one that a lane holds is in the range of the lane. -/
theorem laneInt_wrap_of_between {w : Nat} (hw : 0 < w) {sg : Bool} {v : Nat} {i : Int}
    (h : 0 ≤ i ∧ i ≤ laneInt w sg v ∨ laneInt w sg v ≤ i ∧ i ≤ 0) : laneInt w sg (wrap w i) = i := by
  have hlo := laneMin_le_laneInt w sg v
  have hhi := laneInt_le_laneMax w sg v
  have := laneMin_nonpos w sg
  have := laneMax_nonneg w sg
  exact laneInt_wrap hw (by omega) (by omega)

theorem tmod_between (a b : Int) : 0 ≤ a.tmod b ∧ a.tmod b ≤ a ∨ a ≤ a.tmod b ∧ a.tmod b ≤ 0 := by
  have hle : (a.tmod b).natAbs ≤ a.natAbs := (Int.natAbs_tmod a b).trans_le (Nat.mod_le ..)
  rcases Int.le_total 0 a with ha | ha
  · have := Int.tmod_nonneg b ha
    omega
  · have : (-a).tmod b = -a.tmod b := Int.neg_tmod ..
    have := Int.tmod_nonneg (a := -a) b (by omega)
    omega

theorem tdiv_between (a : Int) {b : Int} (hb : 0 ≤ b) : 0 ≤ a.tdiv b ∧ a.tdiv b ≤ a ∨ a ≤ a.tdiv b ∧ a.tdiv b ≤ 0 := by
  have hle := Int.natAbs_tdiv_le_natAbs a b
  rcases Int.le_total 0 a with ha | ha
  · have := Int.tdiv_nonneg ha hb
    omega
  · have : (-a).tdiv b = -a.tdiv b := Int.neg_tdiv ..
    have := Int.tdiv_nonneg (a := -a) (by omega) hb
    omega

theorem laneMin_true_eq (w : Nat) : laneMin w true = -laneMax w true - 1 := by rw [laneMin_true, laneMax_true]; omega

/-- R186: by a negative divisor, only the quotient of the least signed value by −1 is beyond the greatest. -/
theorem natAbs_tdiv_le_laneMax {w : Nat} {a b : Int} (hlo : laneMin w true ≤ a) (hhi : a ≤ laneMax w true) (hb : b < 0)
    (hover : ¬ (a = laneMin w true ∧ b = -1)) : (a.tdiv b).natAbs ≤ laneMax w true := by
  have hmin := laneMin_true_eq w
  have hmax := laneMax_nonneg w true
  rcases eq_or_ne a (laneMin w true) with hleast | hleast
  · have hhalf : (a.tdiv b).natAbs ≤ a.natAbs / 2 := (Int.natAbs_tdiv a b).trans_le (Nat.div_le_div_left (by omega) (by decide))
    omega
  · have := Int.natAbs_tdiv_le_natAbs a b
    omega

/-- R186: every other quotient is in the range of a lane. -/
theorem laneInt_wrap_tdiv {w : Nat} (hw : 0 < w) {sg : Bool} {a b : Nat}
    (hover : ¬ (sg = true ∧ laneInt w sg a = laneMin w true ∧ laneInt w sg b = -1)) :
    laneInt w sg (wrap w ((laneInt w sg a).tdiv (laneInt w sg b))) = (laneInt w sg a).tdiv (laneInt w sg b) := by
  rcases lt_or_ge (laneInt w sg b) 0 with hb | hb
  · obtain rfl : sg = true := by
      cases sg
      · exact absurd (laneMin_le_laneInt w false b) (Int.not_le.mpr hb)
      · rfl
    have hq := natAbs_tdiv_le_laneMax (laneMin_le_laneInt w true a) (laneInt_le_laneMax w true a) hb (fun h => hover ⟨rfl, h⟩)
    have hmin := laneMin_true_eq w
    exact laneInt_wrap hw (by omega) (by omega)
  · exact laneInt_wrap_of_between hw (tdiv_between _ hb)

section
variable {w : Nat} (hw : 0 < w) (sg : Bool) {a b : Nat} (c : Nat)

theorem laneDiv_zero : laneDiv w sg a 0 c = 2 ^ w - 1 := rfl

theorem laneDiv_of_ne_zero (hb : b ≠ 0) : laneDiv w sg a b c = wrap w ((laneInt w sg a).tdiv (laneInt w sg b)) := if_neg (by simpa using hb)

theorem laneRem_zero : laneRem w sg a 0 c = a := rfl

theorem laneRem_of_ne_zero (hb : b ≠ 0) : laneRem w sg a b c = wrap w ((laneInt w sg a).tmod (laneInt w sg b)) := if_neg (by simpa using hb)

include hw

/-- R186: the quotient of a lane, by what its divisor is. -/
theorem laneDiv_spec (hb : b < 2 ^ w) : (b = 0 → laneDiv w sg a b c % 2 ^ w = 2 ^ w - 1) ∧
    (sg = true → laneInt w sg a = laneMin w true → laneInt w sg b = -1 → laneInt w sg (laneDiv w sg a b c % 2 ^ w) = laneMin w true) ∧
    (b ≠ 0 → ¬ (sg = true ∧ laneInt w sg a = laneMin w true ∧ laneInt w sg b = -1) →
      laneInt w sg (laneDiv w sg a b c % 2 ^ w) = (laneInt w sg a).tdiv (laneInt w sg b)) := by
  refine ⟨fun h => ?_, fun hsg ha hm => ?_, fun h hover => ?_⟩
  · rw [h, laneDiv_zero, Nat.mod_eq_of_lt (Nat.sub_lt (Nat.two_pow_pos w) Nat.one_pos)]
  · have hne : b ≠ 0 := mt (laneInt_eq_zero_iff sg hb).mpr (by omega)
    rw [laneInt_mod, laneDiv_of_ne_zero sg c hne, ha, hm, Int.tdiv_neg, Int.tdiv_one, hsg]
    exact laneInt_wrap_neg_min hw
  · rw [laneInt_mod, laneDiv_of_ne_zero sg c h, laneInt_wrap_tdiv hw hover]

/-- R186: the remainder of a lane, by what its divisor is. -/
theorem laneRem_spec (ha : a < 2 ^ w) (hb : b < 2 ^ w) : (b = 0 → laneRem w sg a b c % 2 ^ w = a) ∧
    (sg = true → laneInt w sg a = laneMin w true → laneInt w sg b = -1 → laneRem w sg a b c % 2 ^ w = 0) ∧
    (b ≠ 0 → laneInt w sg (laneRem w sg a b c % 2 ^ w) = laneInt w sg a - laneInt w sg b * (laneInt w sg a).tdiv (laneInt w sg b)) := by
  refine ⟨fun h => ?_, fun _ _ hm => ?_, fun h => ?_⟩
  · rw [h, laneRem_zero, Nat.mod_eq_of_lt ha]
  · have hne : b ≠ 0 := mt (laneInt_eq_zero_iff sg hb).mpr (by omega)
    rw [laneRem_of_ne_zero sg c hne, hm, Int.tmod_neg, Int.tmod_one]
    simp [wrap]
  · rw [laneInt_mod, laneRem_of_ne_zero sg c h, ← Int.tmod_def]
    exact laneInt_wrap_of_between hw (tmod_between ..)

end

section
variable {w : Nat} (sat : Bool) (sg : Bool) {a : Nat} (b c : Nat)

theorem laneAbs_eq : laneAbs sat w sg a b c =
    wrap w (if sat then min ((laneInt w true a).natAbs : Int) (laneMax w true) else (laneInt w true a).natAbs) := by
  have habs : (if toSigned w a < 0 then -toSigned w a else toSigned w a) = (toSigned w a).natAbs := by split <;> omega
  unfold laneAbs
  dsimp only
  rw [habs]
  cases sat <;> rfl

theorem laneNeg_eq : laneNeg sat w sg a b c = wrap w (if sat then min (-laneInt w true a) (laneMax w true) else -laneInt w true a) := by
  cases sat <;> rfl

variable (hw : 0 < w) {sat} {P : Prop} (hP : sat = true ↔ P)
include hw

theorem laneInt_wrap_sat {i : Int} (hlo : laneMin w true ≤ i) (hhi : i ≤ laneMax w true) :
    laneInt w true (wrap w (if sat then min i (laneMax w true) else i)) = i := by
  rw [min_eq_left hhi, ite_self, laneInt_wrap hw hlo hhi]

include hP

/-- R187: the number beyond the greatest wraps to the least, or gives the greatest. -/
theorem laneInt_wrap_sat_beyond {i : Int} (hi : i = -laneMin w true) :
    (¬ P → laneInt w true (wrap w (if sat then min i (laneMax w true) else i)) = laneMin w true) ∧
    (P → laneInt w true (wrap w (if sat then min i (laneMax w true) else i)) = laneMax w true) := by
  subst hi
  refine ⟨fun hn => ?_, fun hp => ?_⟩
  · rw [if_neg (mt hP.mp hn)]
    exact laneInt_wrap_neg_min hw
  · have hmin := laneMin_true_eq w
    rw [if_pos (hP.mpr hp), min_eq_right (by omega)]
    exact laneInt_wrap hw (laneMin_le_laneMax w true) le_rfl

/-- R187: the magnitude of a lane. -/
theorem laneAbs_spec : (laneInt w true a ≠ laneMin w true → laneInt w true (laneAbs sat w sg a b c % 2 ^ w) = (laneInt w true a).natAbs) ∧
    (laneInt w true a = laneMin w true → ¬ P → laneInt w true (laneAbs sat w sg a b c % 2 ^ w) = laneMin w true) ∧
    (laneInt w true a = laneMin w true → P → laneInt w true (laneAbs sat w sg a b c % 2 ^ w) = laneMax w true) := by
  have hmin := laneMin_true_eq w
  have hmax := laneMax_nonneg w true
  have hlo := laneMin_le_laneInt w true a
  have hhi := laneInt_le_laneMax w true a
  simp only [laneInt_mod, laneAbs_eq]
  exact ⟨fun h => laneInt_wrap_sat hw (by omega) (by omega), fun h => (laneInt_wrap_sat_beyond hw hP (by omega)).1,
    fun h => (laneInt_wrap_sat_beyond hw hP (by omega)).2⟩

/-- R187: the negation of a lane. -/
theorem laneNeg_spec (ha : a < 2 ^ w) : (laneInt w true a ≠ laneMin w true → laneInt w true (laneNeg sat w sg a b c % 2 ^ w) = -laneInt w true a) ∧
    (laneInt w true a = laneMin w true → ¬ P → laneInt w true (laneNeg sat w sg a b c % 2 ^ w) = laneMin w true) ∧
    (laneInt w true a = laneMin w true → P → laneInt w true (laneNeg sat w sg a b c % 2 ^ w) = laneMax w true) ∧
    (¬ P → laneNeg sat w sg a b c % 2 ^ w = (2 ^ w - a) % 2 ^ w) := by
  have hmin := laneMin_true_eq w
  have hlo := laneMin_le_laneInt w true a
  have hhi := laneInt_le_laneMax w true a
  simp only [laneInt_mod, laneNeg_eq]
  refine ⟨fun h => laneInt_wrap_sat hw (by omega) (by omega), fun h => (laneInt_wrap_sat_beyond hw hP (by omega)).1,
    fun h => (laneInt_wrap_sat_beyond hw hP (by omega)).2, fun hn => ?_⟩
  rw [if_neg (mt hP.mp hn), laneInt_true, wrap_eq_toNat, BitVec.ofInt_neg, BitVec.ofInt_toInt, BitVec.toNat_neg, BitVec.toNat_ofNat,
    Nat.mod_eq_of_lt ha, Nat.mod_mod]

end

/-- Settles O11: each word sends its function of the lanes, and each case of a function is a case of the rule. -/
theorem integerQuotientsAndMagnitude : Obligations.IntegerQuotientsAndMagnitude := by
  refine ⟨fun s x f h => ?_, fun s x f h => ?_⟩
  · exact ⟨sendsLanes_of_lane (exec_div f s) rfl h fun j => laneDiv_spec (laneWidth_pos f.ty) _ _ (lane_lt ..),
      sendsLanes_of_lane (exec_rem f s) rfl h fun j => laneRem_spec (laneWidth_pos f.ty) _ _ (lane_lt ..) (lane_lt ..)⟩
  · exact ⟨sendsLanes_of_lane (exec_abs f s) rfl h fun j => laneAbs_spec _ _ _ (laneWidth_pos f.ty) beq_iff_eq,
      sendsLanes_of_lane (exec_neg f s) rfl h fun j => laneNeg_spec _ _ _ (laneWidth_pos f.ty) beq_iff_eq (lane_lt ..)⟩

end Sys2Proof.Machine
end

section
/-! PROOFS (O12, O13, O14). The words that work on bits: logic, shifts, counts and the reversal, one bit of the result at a time (R188 to R190). -/
namespace Sys2Proof.Machine

/-! Bits -/

theorem bit_mod {w k : Nat} (hk : k < w) (v : Nat) : bit (v % 2 ^ w) k = bit v k := by
  rw [bit, Nat.testBit_mod_two_pow, decide_eq_true hk, Bool.true_and, bit]

theorem bit_eq_false {w v k : Nat} (hv : v < 2 ^ w) (hk : w ≤ k) : bit v k = false :=
  Nat.testBit_lt_two_pow (hv.trans_le (Nat.pow_le_pow_right Nat.two_pos hk))

theorem bit_complement {w k : Nat} (hk : k < w) (v : Nat) : bit (2 ^ w - 1 - v % 2 ^ w) k = !bit v k := by
  rw [Nat.sub_sub, Nat.add_comm, bit, Nat.testBit_two_pow_sub_succ (Nat.mod_lt _ (Nat.two_pow_pos w)), decide_eq_true hk, Bool.true_and]
  exact congrArg _ (bit_mod hk v)

theorem sum_pow_lt (p : Nat → Bool) (w : Nat) : (∑ n ∈ Finset.range w, if p n then 2 ^ n else 0) < 2 ^ w := by
  induction w with
  | zero => exact Nat.one_pos
  | succ w ih =>
    rw [Finset.sum_range_succ, pow_succ]
    split <;> omega

/-- A number put together from the bits of a predicate. -/
theorem bit_sum {w k : Nat} (hk : k < w) (p : Nat → Bool) : bit (∑ n ∈ Finset.range w, if p n then 2 ^ n else 0) k = p k := by
  induction w with
  | zero => exact absurd hk (Nat.not_lt_zero k)
  | succ w ih =>
    have htop : (if p w then 2 ^ w else 0) = 2 ^ w * (p w).toNat := by cases p w <;> simp
    rw [Finset.sum_range_succ, Nat.add_comm, htop, bit, Nat.testBit_two_pow_mul_add _ (sum_pow_lt p w)]
    split
    case isTrue h => exact ih h
    case isFalse h =>
      obtain rfl : k = w := by omega
      rw [Nat.sub_self]
      cases p k <;> rfl

/-- R33: the bits of a signed number, from those of the machine word that holds it. -/
theorem getLsbD_or_msb {w : Nat} (hw : 0 < w) (v i : Nat) :
    (if i < w then (BitVec.ofNat w v).getLsbD i else (BitVec.ofNat w v).msb) = bit v (min i (w - 1)) := by
  rw [BitVec.msb_eq_getLsbD_last, BitVec.getLsbD_ofNat, BitVec.getLsbD_ofNat, decide_eq_true (show w - 1 < w by omega)]
  split
  case isTrue h => rw [decide_eq_true h, Bool.true_and, min_eq_left (by omega), bit]
  case isFalse h => rw [Bool.true_and, min_eq_right (by omega), bit]

/-- A fold over the bit numbers below `w` that adds the power of each as a sum. -/
theorem foldl_pow_eq_sum (p : Nat → Bool) (e : Nat → Nat) (w : Nat) :
    (List.range w).foldl (fun r n => if p n then r + 2 ^ e n else r) 0 = ∑ n ∈ Finset.range w, if p n then 2 ^ e n else 0 := by
  induction w with
  | zero => rfl
  | succ w ih =>
    rw [List.range_succ, List.foldl_append, ih, Finset.sum_range_succ, List.foldl_cons, List.foldl_nil]
    split <;> rfl

/-! Logic (R188) -/

theorem bit_laneLop3 {w k : Nat} (hk : k < w) (tbl : BitVec 8) (sg : Bool) (a b c : Nat) :
    bit (laneLop3 tbl.toNat w sg a b c) k = tbl.getLsbD ((bit a k).toNat + 2 * (bit b k).toNat + 4 * (bit c k).toNat) := by
  rw [laneLop3, foldl_pow_eq_sum _ fun n => n, bit_sum hk, bit, BitVec.testBit_toNat]

/-- Settles O12: each word sends its function of the operands, and each bit of it is the rule's. -/
theorem bitwiseLogic : Obligations.BitwiseLogic := by
  intro s x f hty w
  refine ⟨fun h => ⟨?_, ?_, ?_, ?_⟩, fun h => ?_, fun h => ?_⟩
  · refine sendsLanes_of_scalar (exec_and f s) rfl h hty (shapeAB_ins f) fun k hk => ?_
    rw [bit_mod hk]
    exact Nat.testBit_and ..
  · refine sendsLanes_of_scalar (exec_or f s) rfl h hty (shapeAB_ins f) fun k hk => ?_
    rw [bit_mod hk]
    exact Nat.testBit_or ..
  · refine sendsLanes_of_scalar (exec_xor f s) rfl h hty (shapeAB_ins f) fun k hk => ?_
    rw [bit_mod hk]
    exact Nat.testBit_xor ..
  · refine sendsLanes_of_scalar (exec_andn f s) rfl h hty (shapeAB_ins f) fun k hk => ?_
    rw [bit_mod hk, ← bit_complement hk]
    exact Nat.testBit_and ..
  · refine sendsLanes_of_scalar (exec_not f s) rfl h hty (shapeA1_ins f) fun k hk => ?_
    rw [bit_mod hk]
    exact bit_complement hk _
  · refine sendsLanes_of_scalar (exec_lop3 f s) rfl h hty (shapeABC_ins f) fun k hk => ?_
    rw [bit_mod hk]
    exact bit_laneLop3 hk ..

/-! Shifts (R189) -/

section
variable {w k : Nat} (hk : k < w) (sg : Bool) (a n c : Nat)
include hk

theorem bit_laneShl : bit (laneShl w sg a n c) k = (decide (n ≤ k) && bit a (k - n)) := by
  unfold laneShl
  split
  case isTrue h => rw [decide_eq_false (by omega), Bool.false_and, bit, Nat.zero_testBit]
  case isFalse => rw [bit_mod hk, bit, Nat.testBit_shiftLeft, bit]

omit hk in
theorem bit_laneShr (ha : a < 2 ^ w) : bit (laneShr w sg a n c) k = (decide (k + n < w) && bit a (k + n)) := by
  have hshift : bit (laneShr w sg a n c) k = bit a (k + n) := by
    unfold laneShr
    split
    case isTrue h => rw [bit_eq_false ha (by omega), bit, Nat.zero_testBit]
    case isFalse => rw [bit, Nat.testBit_shiftRight, Nat.add_comm, bit]
  rw [hshift]
  by_cases h : k + n < w
  · rw [decide_eq_true h, Bool.true_and]
  · rw [bit_eq_false ha (Nat.le_of_not_lt h), Bool.and_false]

theorem bit_laneSar : bit (laneSar w sg a n c) k = bit a (min (k + n) (w - 1)) := by
  have hshift : laneSar w sg a n c = ((BitVec.ofNat w a).sshiftRight (min n w)).toNat := by
    rw [laneSar, toSigned_eq_toInt, wrap_eq_toNat]
    rfl
  rw [hshift, bit, BitVec.testBit_toNat, BitVec.getLsbD_sshiftRight, decide_eq_false (by omega), getLsbD_or_msb (by omega)]
  exact congrArg (bit a) (by omega)

theorem bit_laneRotl (ha : a < 2 ^ w) : bit (laneRotl w sg a n c) ((k + n) % w) = bit a k := by
  have hn : n % w < w := Nat.mod_lt _ (by omega)
  rw [Nat.add_mod, Nat.mod_eq_of_lt hk]
  unfold laneRotl
  dsimp only
  rw [bit_mod (Nat.mod_lt _ (by omega)), bit, Nat.testBit_or, Nat.testBit_shiftLeft, Nat.testBit_shiftRight]
  generalize n % w = m at hn ⊢
  rcases Nat.lt_or_ge (k + m) w with h | h
  · rw [Nat.mod_eq_of_lt h, Nat.add_sub_cancel, decide_eq_true (by omega), Bool.true_and]
    exact (congrArg _ (bit_eq_false ha (by omega))).trans (Bool.or_false _)
  · rw [Nat.mod_eq_sub_mod h, Nat.mod_eq_of_lt (by omega), decide_eq_false (by omega), Bool.false_and, Bool.false_or, bit]
    exact congrArg _ (by omega)

end

/-! Counts (R190) -/

theorem lanePopc_eq (w : Nat) (sg : Bool) (a b c : Nat) : lanePopc w sg a b c = ((List.range w).filter fun k => bit a k).length := by
  unfold lanePopc
  induction w with
  | zero => rfl
  | succ w ih =>
    rw [List.range_succ, List.foldl_append, ih, List.filter_append, List.length_append]
    cases h : bit a w <;> simp [h]

theorem laneClz_spec {w a : Nat} (sg : Bool) (b c : Nat) (ha : a < 2 ^ w) : let r := laneClz w sg a b c
    r ≤ w ∧ (∀ k, w - r ≤ k → k < w → bit a k = false) ∧ (r < w → bit a (w - 1 - r) = true) := by
  unfold laneClz
  rw [Nat.mod_eq_of_lt ha]
  rcases eq_or_ne a 0 with rfl | hne
  · exact ⟨le_rfl, fun k _ _ => Nat.zero_testBit k, fun h => absurd h (lt_irrefl w)⟩
  · have hlog : a.log2 < w := (Nat.log2_lt hne).mpr ha
    rw [if_neg (by simpa using hne)]
    refine ⟨by omega, fun k hk _ => bit_eq_false Nat.lt_log2_self (by omega), fun _ => ?_⟩
    rw [show w - 1 - (w - 1 - a.log2) = a.log2 by omega]
    exact Nat.testBit_log2 hne

theorem laneCtz_spec (w : Nat) (sg : Bool) (a b c : Nat) : let r := laneCtz w sg a b c
    r ≤ w ∧ (∀ k, k < r → bit a k = false) ∧ (r < w → bit a r = true) := by
  unfold laneCtz
  cases hfirst : firstBelow (bit a) w with
  | none => exact ⟨le_rfl, firstBelow_none_iff.mp hfirst, fun h => absurd h (lt_irrefl w)⟩
  | some r =>
    obtain ⟨hr, hbit⟩ := firstBelow_some hfirst
    exact ⟨hr.le, fun k => firstBelow_lt hfirst, fun _ => hbit⟩

theorem bit_laneBrev {w k : Nat} (hk : k < w) (sg : Bool) (a b c : Nat) : bit (laneBrev w sg a b c) (w - 1 - k) = bit a k := by
  have hsum : laneBrev w sg a b c = ∑ n ∈ Finset.range w, if bit a (w - 1 - n) then 2 ^ n else 0 := by
    rw [laneBrev, foldl_pow_eq_sum, ← Finset.sum_range_reflect]
    refine Finset.sum_congr rfl fun n hn => ?_
    rw [Finset.mem_range] at hn
    rw [show w - 1 - (w - 1 - n) = n by omega]
  rw [hsum, bit_sum (by omega), show w - 1 - (w - 1 - k) = k by omega]

/-- A count of bits is no wider than its lane. -/
theorem mod_of_le_width {w r : Nat} (h : r ≤ w) : r % 2 ^ w = r := Nat.mod_eq_of_lt (h.trans_lt Nat.lt_two_pow_self)

/-- R189: a negative immediate is a count beyond every lane. -/
theorem portVal_shl_minus_one {s : State} {x : Site} {f : FmtA} (hty : f.ty = 1) (hs : f.s = 0xFE) (hhimm : himmAt x.ws x.idx = none) :
    portVal s x (shapeAB f) 1 = 2 ^ 32 - 1 := by
  have htok : portTok s x (shapeAB f) 1 = valTok (2 ^ 32 - 1) := by
    simp [portTok, shapeAB, shapeInt, hhimm, hs, hty, intSel, selOperand, immOperand, wrap]
  rw [portVal, htok]
  simp [shapeAB, shapeInt, ab, hty, intWidth, tokVal, valTok]

/-- Settles O13: each word sends its function of the lanes, and each bit of it is the rule's. -/
theorem shifts : Obligations.Shifts := by
  refine ⟨takesTypes wfA (flagIn · [0]) (fun _ => rfl) (fun _ => rfl) (by decide), takesTypes wfA (flagIn · [0]) (fun _ => rfl) (fun _ => rfl) (by decide),
    takesTypes wfA (flagIn · [0]) (fun _ => rfl) (fun _ => rfl) (by decide), takesTypes wfA (flagIn · [0]) (fun _ => rfl) (fun _ => rfl) (by decide),
    fun s x f h => ⟨?_, ?_, ?_, ?_⟩, fun s x f h hty hs hhimm => ?_⟩
  · refine sendsLanes_of_lane (exec_shl f s) rfl h fun j k hk => ?_
    rw [bit_mod hk]
    exact bit_laneShl hk ..
  · refine sendsLanes_of_lane (exec_shr f s) rfl h fun j k hk => ?_
    rw [bit_mod hk]
    exact bit_laneShr _ _ _ _ (lane_lt ..)
  · refine sendsLanes_of_lane (exec_sar f s) rfl h fun j k hk => ?_
    rw [bit_mod hk]
    exact bit_laneSar hk ..
  · refine sendsLanes_of_lane (exec_rotl f s) rfl h fun j k hk => ?_
    rw [bit_mod (Nat.mod_lt _ (laneWidth_pos _))]
    exact bit_laneRotl hk _ _ _ _ (lane_lt ..)
  · have hcount := portVal_shl_minus_one (s := s) hty hs hhimm
    refine ((exec_shl f s).trans (fireInt_computes rfl h)).trans ?_
    rw [hcount, hty]
    rfl

/-- Settles O14: each word sends its function of the operand, and the function is the count or the reversal of the rule. -/
theorem bitCounts : Obligations.BitCounts := by
  refine ⟨takesTypes (fun f => wfA f && noB f) (flagIn · [0]) (fun _ => rfl) (fun _ => rfl) (by decide),
    takesTypes (fun f => wfA f && noB f) (flagIn · [0]) (fun _ => rfl) (fun _ => rfl) (by decide),
    takesTypes (fun f => wfA f && noB f) (flagIn · [0]) (fun _ => rfl) (fun _ => rfl) (by decide),
    takesTypes (fun f => wfA f && noB f) (flagIn · [0]) (fun _ => rfl) (fun _ => rfl) (by decide), fun _ => ⟨rfl, rfl⟩,
    fun s x f hty h => ⟨?_, ?_, ?_, ?_⟩⟩
  · refine sendsLanes_of_scalar (exec_popc f s) rfl h hty (shapeA1_ins f) ?_
    rw [lanePopc_eq]
    exact mod_of_le_width ((List.length_filter_le ..).trans_eq List.length_range)
  · refine sendsLanes_of_scalar (exec_clz f s) rfl h hty (shapeA1_ins f) ?_
    have hclz := laneClz_spec (laneSigned f.ty) (portVal s x (shapeA1 f) 1) (portVal s x (shapeA1 f) 2)
      (portVal_lt (intWidth_pos f.ty) (shapeA1_ins f) s x 0)
    rwa [mod_of_le_width hclz.1]
  · refine sendsLanes_of_scalar (exec_ctz f s) rfl h hty (shapeA1_ins f) ?_
    have hctz := laneCtz_spec (intWidth f.ty) (laneSigned f.ty) (portVal s x (shapeA1 f) 0) (portVal s x (shapeA1 f) 1) (portVal s x (shapeA1 f) 2)
    rwa [mod_of_le_width hctz.1]
  · refine sendsLanes_of_scalar (exec_brev f s) rfl h hty (shapeA1_ins f) fun k hk => ?_
    rw [bit_mod (by omega)]
    exact bit_laneBrev hk ..

end Sys2Proof.Machine
end

section
/-! PROOFS (O15). Fields of bits, the funnel shift and the selection of bytes (R191, R192). -/
namespace Sys2Proof.Machine

/-! Fields (R191) -/

theorem bit_bits {k n : Nat} (hk : k < n) (v lo : Nat) : bit (bits v lo n) k = bit v (lo + k) := by
  rw [bits, bit_mod hk, bit, Nat.testBit_shiftRight, bit]

/-- R191: a field of `n` bits, extended. -/
theorem bit_extended {w k n : Nat} (hk : k < w) (hn : 0 < n) (sg : Bool) (a pos : Nat) :
    bit (if sg then wrap w (toSigned n (bits a pos n)) else bits a pos n) k = if k < n then bit a (pos + k) else (sg && bit a (pos + n - 1)) := by
  cases sg with
  | false =>
    rw [if_neg Bool.false_ne_true, Bool.false_and]
    split
    case isTrue h => exact bit_bits h ..
    case isFalse h => exact bit_eq_false (Nat.mod_lt _ (Nat.two_pow_pos n)) (Nat.le_of_not_lt h)
  | true =>
    have hext : wrap w (toSigned n (bits a pos n)) = ((BitVec.ofNat n (bits a pos n)).signExtend w).toNat := by
      rw [toSigned_eq_toInt, wrap_eq_toNat]
      rfl
    rw [if_pos rfl, hext, bit, BitVec.testBit_toNat, BitVec.getLsbD_signExtend, decide_eq_true hk, Bool.true_and, getLsbD_or_msb hn,
      bit_bits (by omega), Bool.true_and]
    split
    case isTrue h => exact congrArg (bit a) (by omega)
    case isFalse h => exact congrArg (bit a) (by omega)

/-- R191: a field replaced is the bits above it, the new field and the bits below it. -/
theorem field_replaced (a b pos n : Nat) : a - bits a pos n <<< pos + bits b 0 n <<< pos =
    2 ^ pos * (2 ^ n * (a / 2 ^ pos / 2 ^ n) + b % 2 ^ n) + a % 2 ^ pos := by
  have hlow := Nat.div_add_mod a (2 ^ pos)
  have hmid := Nat.div_add_mod (a / 2 ^ pos) (2 ^ n)
  have hsplit : a = 2 ^ pos * (2 ^ n * (a / 2 ^ pos / 2 ^ n)) + 2 ^ pos * (a / 2 ^ pos % 2 ^ n) + a % 2 ^ pos := by
    rw [← Nat.mul_add, hmid, hlow]
  have hfield : bits a pos n <<< pos = 2 ^ pos * (a / 2 ^ pos % 2 ^ n) := by
    rw [bits, Nat.shiftLeft_eq, Nat.shiftRight_eq_div_pow, Nat.mul_comm]
  have hnew : bits b 0 n <<< pos = 2 ^ pos * (b % 2 ^ n) := by rw [bits, Nat.shiftLeft_eq, Nat.shiftRight_zero, Nat.mul_comm]
  rw [hfield, hnew, Nat.mul_add]
  omega

theorem bit_field_replaced (a b pos n k : Nat) : bit (a - bits a pos n <<< pos + bits b 0 n <<< pos) k =
    if pos ≤ k ∧ k < pos + n then bit b (k - pos) else bit a k := by
  rw [field_replaced, bit, Nat.testBit_two_pow_mul_add _ (Nat.mod_lt _ (Nat.two_pow_pos pos)),
    Nat.testBit_two_pow_mul_add _ (Nat.mod_lt _ (Nat.two_pow_pos n)), Nat.div_div_eq_div_mul, ← pow_add]
  rcases lt_or_ge k pos with h | h
  · rw [if_pos h, if_neg (by omega)]
    exact bit_mod h a
  · rw [if_neg (by omega)]
    rcases lt_or_ge (k - pos) n with h2 | h2
    · rw [if_pos h2, if_pos (by omega)]
      exact bit_mod h2 b
    · rw [if_neg (by omega), if_neg (by omega), Nat.testBit_div_two_pow]
      exact congrArg (bit a) (by omega)

section
variable {w ctl pos len : Nat} (hpos : ctl % 256 = pos) (hlen : ctl / 256 % 256 = len) (sg : Bool) (a b c : Nat)
include hpos hlen

theorem laneBfx_eq : laneBfx w sg a ctl c = if len = 0 ∨ w ≤ pos then 0 else
    if sg then wrap w (toSigned (min (pos + len) w - pos) (bits a pos (min (pos + len) w - pos))) else bits a pos (min (pos + len) w - pos) := by
  have hlow : bits ctl 0 8 = pos := hpos
  have hhigh : bits ctl 8 8 = len := (congrArg (· % 256) (Nat.shiftRight_eq_div_pow ..)).trans hlen
  simp only [laneBfx, hlow, hhigh, Bool.or_eq_true, beq_iff_eq, decide_eq_true_eq]

theorem laneBfi_eq : laneBfi w sg a b ctl = if len = 0 ∨ w ≤ pos then a else
    a - bits a pos (min (pos + len) w - pos) <<< pos + bits b 0 (min (pos + len) w - pos) <<< pos := by
  have hlow : bits ctl 0 8 = pos := hpos
  have hhigh : bits ctl 8 8 = len := (congrArg (· % 256) (Nat.shiftRight_eq_div_pow ..)).trans hlen
  simp only [laneBfi, hlow, hhigh, Bool.or_eq_true, beq_iff_eq, decide_eq_true_eq]

/-- R191: `bfx`, with the field cut at the top of the operand. -/
theorem bit_laneBfx (hne : len ≠ 0) (hlt : pos < w) {k : Nat} (hk : k < w) : bit (laneBfx w sg a ctl c) k =
    if k ≤ min (pos + len) w - 1 - pos then bit a (pos + k) else (sg && bit a (min (pos + len) w - 1)) := by
  have hn : 0 < min (pos + len) w - pos := by omega
  have htop : pos + (min (pos + len) w - pos) - 1 = min (pos + len) w - 1 := by omega
  rw [laneBfx_eq hpos hlen, if_neg (by omega), bit_extended hk hn, htop]
  exact if_congr (by omega) rfl rfl

/-- R191: `bfi`, with the field cut at the top of the operand. -/
theorem bit_laneBfi (hne : len ≠ 0) (hlt : pos < w) (k : Nat) : bit (laneBfi w sg a b ctl) k =
    if pos ≤ k ∧ k ≤ min (pos + len) w - 1 then bit b (k - pos) else bit a k := by
  rw [laneBfi_eq hpos hlen, if_neg (by omega), bit_field_replaced]
  exact if_congr (by omega) rfl rfl

end

/-! The funnel shift (R192) -/

theorem bit_laneFsh {w k a : Nat} (hk : k < w) (sg : Bool) (b c : Nat) (ha : a < 2 ^ w) : bit (laneFsh w sg a b c) k =
    if k + c % w < w then bit a (k + c % w) else bit b (k + c % w - w) := by
  rw [laneFsh, bit_mod hk, bit, Nat.testBit_shiftRight, Nat.mul_comm b, Nat.testBit_two_pow_mul_add _ ha, Nat.add_comm (c % w)]
  rfl

/-! The selection of bytes (R192) -/

theorem ofLanes_byte {i : Nat} (hi : i < 4) (g : Nat → Nat) : ofLanes 8 ((List.range 4).map g) % 2 ^ 32 / 2 ^ (8 * i) % 256 = g i % 256 := by
  have hlt : ofLanes 8 ((List.range 4).map g) < 2 ^ 32 := (ofLanes_lt 8 _).trans_eq (by simp)
  have hlane := lane_ofLanes 8 ((List.range 4).map g) (j := i) (by simpa using hi)
  rw [List.getElem_map, List.getElem_range, lane, bits, Nat.shiftRight_eq_div_pow, Nat.mul_comm] at hlane
  rw [Nat.mod_eq_of_lt hlt]
  exact hlane

/-- R192: byte `m` of the eight bytes (b ‖ a). -/
theorem bits_two_words {a m : Nat} (b : Nat) (ha : a < 2 ^ 32) (hm : m < 8) :
    bits (a + b * 2 ^ 32) (8 * m) 8 = if m < 4 then a / 2 ^ (8 * m) % 256 else b / 2 ^ (8 * (m - 4)) % 256 := by
  rw [bits, Nat.shiftRight_eq_div_pow]
  split
  case isTrue h =>
    have hpow : b * 2 ^ 32 = b * 2 ^ (24 - 8 * m) * 256 * 2 ^ (8 * m) := by
      rw [Nat.mul_assoc b, Nat.mul_assoc b, show 256 = 2 ^ 8 from rfl, ← pow_add, ← pow_add]
      congr 2
      omega
    rw [hpow, Nat.add_mul_div_right _ _ (Nat.two_pow_pos _)]
    exact Nat.add_mul_mod_self_right ..
  case isFalse h =>
    have hhigh : (a + b * 2 ^ 32) / 2 ^ (8 * m) = b / 2 ^ (8 * (m - 4)) := by
      rw [show 8 * m = 32 + 8 * (m - 4) by omega, Nat.pow_add, ← Nat.div_div_eq_div_mul, Nat.add_mul_div_right _ _ (Nat.two_pow_pos 32),
        Nat.div_eq_of_lt ha, Nat.zero_add]
    exact congrArg (· % 256) hhigh

/-- R192: the highest bit of `n` bits says whether the number is in the upper half. -/
theorem bit_top {n v : Nat} (hv : v < 2 ^ (n + 1)) : bit v n = decide (2 ^ n ≤ v) := by
  rcases lt_or_ge v (2 ^ n) with h | h
  · rw [bit_eq_false h le_rfl, decide_eq_false (Nat.not_le.mpr h)]
  · rw [decide_eq_true h, bit, Nat.testBit_of_two_pow_le_and_two_pow_add_one_gt h hv]

theorem permByte_eq {a c : Nat} (b : Nat) (ha : a < 2 ^ 32) (hc : c < 16) : permByte a b c =
    let src := if c % 8 < 4 then a / 2 ^ (8 * (c % 8)) % 256 else b / 2 ^ (8 * (c % 8 - 4)) % 256
    if c < 8 then src else if 128 ≤ src then 255 else 0 := by
  have hsrc := bits_two_words b ha (Nat.mod_lt c (by decide : 0 < 8))
  have hbyte : bits (a + b * 2 ^ 32) (8 * (c % 8)) 8 < 2 ^ 8 := Nat.mod_lt _ (by decide)
  unfold permByte
  dsimp only
  rw [bit_top (n := 3) hc, bit_top (n := 7) hbyte, hsrc]
  simp only [decide_eq_true_eq]
  rcases lt_or_ge c 8 with h | h
  · exact (if_neg (Nat.not_le.mpr h)).trans (if_pos h).symm
  · exact (if_pos h).trans (if_neg (Nat.not_lt.mpr h)).symm

theorem permByte_lt (a b c : Nat) : permByte a b c < 256 := by
  unfold permByte
  dsimp only
  split
  · split <;> decide
  · exact Nat.mod_lt _ (by decide)

/-- Settles O15: each word sends its function of the operands, and each bit or byte of it is the rule's. -/
theorem bitFieldsAndBytes : Obligations.BitFieldsAndBytes := by
  refine ⟨takesTypes wfA (flagIn · [0]) (fun _ => rfl) (fun _ => rfl) (by decide), takesTypes wfA (flagIn · [0]) (fun _ => rfl) (fun _ => rfl) (by decide),
    takesTypes wfA (flagIn · [0]) (fun _ => rfl) (fun _ => rfl) (by decide), takesTypes wfA (flagIn · [0]) (fun _ => rfl) (fun _ => rfl) (by decide),
    fun s x f hty => ⟨fun h => ?_, fun h => ?_⟩, fun s x f h => ⟨fun hty => ?_, fun hty => ?_⟩⟩
  · refine sendsLanes_of_scalar (exec_bfx f s) rfl h hty (shapeAB_ins f) ⟨fun hempty => ?_, fun hlen hpos k hk => ?_⟩
    · rw [laneBfx_eq rfl rfl, if_pos hempty, Nat.zero_mod]
    · rw [bit_mod hk]
      exact bit_laneBfx rfl rfl _ _ _ hlen hpos hk
  · refine sendsLanes_of_scalar (exec_bfi f s) rfl h hty (shapeABC_ins f) ⟨fun hempty => ?_, fun hlen hpos k hk => ?_⟩
    · rw [laneBfi_eq rfl rfl, if_pos hempty]
      exact Nat.mod_eq_of_lt (portVal_lt (intWidth_pos _) (shapeABC_ins f) ..)
    · rw [bit_mod hk]
      exact bit_laneBfi rfl rfl _ _ _ hlen hpos k
  · refine sendsLanes_of_scalar (exec_fsh f s) rfl h hty (shapeABC_ins f) fun k hk => ?_
    rw [bit_mod hk]
    exact bit_laneFsh hk _ _ _ (portVal_lt (intWidth_pos _) (shapeABC_ins f) ..)
  · have hw : intWidth f.ty = 32 := by rcases Nat.le_one_iff_eq_zero_or_eq_one.mp hty with h | h <;> rw [h] <;> rfl
    have ha : portVal s x (shapeABC f) 0 < 2 ^ 32 := hw ▸ portVal_lt (intWidth_pos _) (shapeABC_ins f) ..
    refine sendsLanes_of_scalar (exec_perm f s) rfl h (by omega) (shapeABC_ins f) fun i hi => ?_
    rw [hw, lanePerm, ofLanes_byte hi, Nat.mod_eq_of_lt (permByte_lt ..), bits, Nat.shiftRight_eq_div_pow]
    exact permByte_eq _ ha (Nat.mod_lt _ (by decide))

end Sys2Proof.Machine
end

section
/-! PROOFS (O17, O18). `sel`, which forwards one of its tokens (R194), and the dot products (R195). -/
namespace Sys2Proof.Machine

/-! Selection (R194) -/

theorem execSel_fires {s : State} {x : Site} {f : FmtA} (h : Fires s x (shapeSel f)) : exec (.sel f) s =
    .next (emit s x (selTok ((tokAt x.ins x.idx 3).getD .null) (portTok s x (shapeSel f) 0) (portTok s x (shapeSel f) 1)) 0) := by
  obtain ⟨hsite, hfire⟩ := h
  change execSel f s = _
  unfold execSel
  rw [hsite]
  exact if_pos hfire

theorem selTok_of_true {p : Tok} (h : tokTrue p = true) (a b : Tok) : selTok p a b = a := by
  cases p with
  | val v => exact if_pos h
  | null | poison o => cases h

theorem selTok_of_false {p : Tok} (h : tokFalse p = true) (a b : Tok) : selTok p a b = b := by
  cases p with
  | val v => exact if_neg (by simpa [tokFalse] using h)
  | null | poison o => cases h

theorem selTok_of_null {a : Tok} (b : Tok) (h : a ≠ .null) : selTok .null a b = a := if_neg (by simpa using h)

/-- R83, R84: every selector but 0xFF supplies a value. -/
theorem selOperand_isSome {v : BitVec 8} (hv : v ≠ 0xFF) (t : SelType) (ksel : Bool) (unif : List (BitVec 32)) :
    ∃ n, selOperand v.toNat t ksel unif = some n := by
  have hlt : v.toNat < 0xFF := by bv_omega
  simp only [selOperand, if_pos hlt]
  split
  · exact ⟨_, rfl⟩
  split
  · exact ⟨_, rfl⟩
  split <;> exact ⟨_, rfl⟩

/-- R83, R86: port b holds a value where S supplies it. -/
theorem portTok_ne_null {s : State} {x : Site} {sh : Shape} {v : BitVec 8} {t : SelType} (hsel : sh.sel = some (v.toNat, t)) (hv : v ≠ 0xFF) :
    portTok s x sh 1 ≠ .null := by
  obtain ⟨n, hn⟩ := selOperand_isSome hv t (siteKsel s x) (siteUnif s x)
  cases hhimm : himmAt x.ws x.idx <;> simp [portTok, hsel, hhimm, hn, valTok]

/-- Settles O17: `sel` sends `selTok` of its tokens, case by case. -/
theorem selectForwards : Obligations.SelectForwards := by
  refine ⟨takesTypes (fun f => f.pc == 0) (flagIn · [0]) (fun _ => rfl) (fun _ => rfl) (by decide), fun f h => ?_, fun s x f h => ?_⟩
  · have hfields : (f.pc == 0 && tyIn f [0, 1, 2, 3] && flagIn f [0]) = true := h
    simp only [Bool.and_eq_true, beq_iff_eq, flagIn, List.contains_cons, List.contains_nil, Bool.or_false] at hfields
    obtain ⟨⟨hpc, -⟩, hflag⟩ := hfields
    exact ⟨hpc, hflag⟩
  · intro p a b
    have sends : ∀ tok, selTok p a b = tok → Sends (exec (.sel f) s) s x tok 0 := fun _ htok => htok ▸ execSel_fires h
    exact ⟨fun o hp => sends _ (by rw [hp]; rfl), fun hp => sends _ (selTok_of_true hp a b), fun hp => sends _ (selTok_of_false hp a b),
      fun hp ha => sends _ (hp ▸ selTok_of_null b ha), fun hp ha => sends _ (by rw [hp, ha]; rfl), portTok_ne_null rfl⟩

/-! Dot products (R195) -/

/-- R195: the accumulator with one lane's product added after the other. -/
def laneDotSum (ty n a b c : Nat) : Int :=
  (List.range n).foldl (fun e j => e + laneInt (laneWidth ty) (laneSigned ty) (lane (laneWidth ty) a j) *
    laneInt (laneWidth ty) (laneSigned ty) (lane (laneWidth ty) b j)) (laneInt 32 (laneSigned ty) c)

theorem intDot_eq (ty : Nat) (sat : Bool) (a b c : Nat) : intDot ty sat a b c =
    if sat then wrap 32 (clampLane 32 (laneSigned ty) (laneDotSum ty (intLanes ty).1 a b c)) else wrap 32 (laneDotSum ty (intLanes ty).1 a b c) := rfl

/-- R195: the sum wraps, or is clamped where MOD[0] is set. -/
theorem intDot_spec {ty n : Nat} (hn : (intLanes ty).1 = n) (flag a b c : Nat) :
    let r := intDot ty (flag % 2 == 1) a b c
    let e := laneDotSum ty n a b c
    r < 2 ^ 32 ∧ (flag % 2 = 1 → laneInt 32 (laneSigned ty) r = max (laneMin 32 (laneSigned ty)) (min (laneMax 32 (laneSigned ty)) e)) ∧
      (flag % 2 = 0 → (r : Int) = e % 2 ^ 32) := by
  dsimp only
  rw [intDot_eq, hn]
  refine ⟨?_, fun h => ?_, fun h => ?_⟩
  · split <;> exact wrap_lt ..
  · rw [if_pos (beq_iff_eq.mpr h)]
    exact laneInt_wrap_clampLane (by decide) ..
  · rw [if_neg (by simp [h])]
    exact cast_wrap ..

theorem flag_le_one {f : FmtA} (h : flagIn f [0, 1] = true) : f.flag ≤ 1 := by
  have hflag : f.flag ∈ [0, 1] := List.contains_iff_mem.mp h
  rcases List.mem_pair.mp hflag with h | h <;> omega

/-- Settles O18: each word sends the sum of its function, which adds one lane's product after the other. -/
theorem dotProducts : Obligations.DotProducts := by
  refine ⟨takesTypes wfA (flagIn · [0, 1]) (fun _ => rfl) (fun _ => rfl) (by decide), takesTypes wfA (flagIn · [0, 1]) (fun _ => rfl) (fun _ => rfl) (by decide),
    fun f h => ?_, fun s x f => ?_⟩
  · rcases h with h | h <;> exact flag_le_one (Bool.and_eq_true_iff.mp h).2
  · intro sh h sg c p ok
    refine ⟨fun hty => ⟨_, (exec_dot4 f s).trans (fireInt_computes rfl h), ?_⟩, fun hty => ⟨_, (exec_dot2 f s).trans (fireInt_computes rfl h), ?_⟩⟩
    · have hfour : (intLanes f.ty).1 = 4 := by rcases hty with h | h <;> rw [h] <;> rfl
      exact intDot_spec hfour ..
    · have htwo : (intLanes f.ty).1 = 2 := by rcases hty with h | h <;> rw [h] <;> rfl
      exact intDot_spec htwo ..

end Sys2Proof.Machine
end

section
/-! PROOFS (O21, O22, O23). What a floating-point word sends, lane by lane: the sign bits (R213), the smaller and the larger (R212), comparisons and classes
(R214, R215). -/
namespace Sys2Proof.Machine

/-! What is sent (R206, R207) -/

/-- A floating-point result that R225 does not list is sent as a value. -/
theorem sends_value {o : Out} {s : State} {x : Site} {r : FRes} (h : SendsFloat o s x r) (hpois : r.pois = false) : Sends o s x (valTok r.val) r.conds := by
  rw [Sends, h, floatTok, hpois, Bool.and_false, if_neg Bool.false_ne_true]

theorem sends_of_eq {o : Out} {s : State} {x : Site} {r : FRes} {v c : Nat} (h : SendsFloat o s x r) (hr : r = ⟨v, c, false⟩) : Sends o s x (valTok v) c := by
  subst hr
  exact sends_value (r := ⟨v, c, false⟩) h rfl

/-- The format of the lanes of a float type (R88). -/
abbrev floatFmt (ty : Nat) : FFmt := ffmt (floatLanes ty).2

section
variable (ty : Nat) {g : FFmt → Nat → Nat → Nat → FRes} (a b c : Nat)

/-- R207: each lane of the result is what the function gives for that lane of the operands. -/
theorem lane_onFloatLanes {j : Nat} (hj : j < (floatLanes ty).1) : lane (floatFmt ty).width (onFloatLanes ty g a b c).val j =
    (g (floatFmt ty) (lane (floatFmt ty).width a j) (lane (floatFmt ty).width b j) (lane (floatFmt ty).width c j)).val % 2 ^ (floatFmt ty).width := by
  dsimp only [onFloatLanes]
  rw [lane_ofLanes _ _ (by simpa using hj)]
  simp only [List.map_map, List.getElem_map, List.getElem_range, Function.comp_apply]

theorem onFloatLanes_pois (h : ∀ ft a b c, (g ft a b c).pois = false) : (onFloatLanes ty g a b c).pois = false := by
  simp [onFloatLanes, h]

theorem onFloatLanes_conds (h : ∀ ft a b c, (g ft a b c).conds = 0) : (onFloatLanes ty g a b c).conds = 0 := by
  dsimp only [onFloatLanes]
  rw [List.foldl_map]
  simp only [h, Nat.or_zero]
  exact List.foldl_fixed _

end

theorem floatLane_lt (s : State) (x : Site) (sh : Shape) (ty p j : Nat) : floatLane s x sh ty p j < 2 ^ (floatFmt ty).width := lane_lt ..

section
variable {i : Instr} {s : State} {x : Site} {sh : Shape} {ty : Nat} {g : FFmt → Nat → Nat → Nat → FRes}
  (hexec : exec i s = fireFloat i s (onFloatLanes ty g)) (hi : shape i = some sh) (h : Computes s x sh) (hpois : ∀ ft a b c, (g ft a b c).pois = false)
include hexec hi h hpois

/-- R207: a word whose function makes no poison sends a value, and in each lane of it what the function gives. -/
theorem sends_floatLanes : ∃ r c, Sends (exec i s) s x (valTok r) c ∧ ∀ j, j < (floatLanes ty).1 → lane (floatFmt ty).width r j =
    (g (floatFmt ty) (floatLane s x sh ty 0 j) (floatLane s x sh ty 1 j) (floatLane s x sh ty 2 j)).val % 2 ^ (floatFmt ty).width :=
  ⟨_, _, hexec.trans (sends_value (fireFloat_computes hi h) (onFloatLanes_pois ty _ _ _ hpois)), fun _ hj => lane_onFloatLanes ty _ _ _ hj⟩

/-- R208: a word that raises nothing in a lane raises nothing. -/
theorem sends_floatLanes_quiet (hconds : ∀ ft a b c, (g ft a b c).conds = 0) :
    ∃ r, Sends (exec i s) s x (valTok r) 0 ∧ ∀ j, j < (floatLanes ty).1 → lane (floatFmt ty).width r j =
      (g (floatFmt ty) (floatLane s x sh ty 0 j) (floatLane s x sh ty 1 j) (floatLane s x sh ty 2 j)).val % 2 ^ (floatFmt ty).width := by
  have hsend := sends_value (fireFloat_computes hi h) (onFloatLanes_pois ty _ _ _ hpois)
  rw [onFloatLanes_conds ty _ _ _ hconds] at hsend
  exact ⟨_, hexec.trans hsend, fun _ hj => lane_onFloatLanes ty _ _ _ hj⟩

end

/-! The sign bit (R213) -/

theorem FFmt.width_sub_one (ft : FFmt) : ft.width - 1 = ft.w + ft.m := by unfold FFmt.width; omega

/-- Below the sign bit the lane keeps its bits, and the sign bit is 0. -/
theorem bit_mod_sign {t k : Nat} (hk : k < t + 1) (a : Nat) : bit (a % 2 ^ t) k = if k = t then false else bit a k := by
  split
  case isTrue h => exact bit_eq_false (Nat.mod_lt _ (Nat.two_pow_pos t)) h.ge
  case isFalse h => exact bit_mod (by omega) a

theorem bit_xor_two_pow (a t k : Nat) : bit (a ^^^ 2 ^ t) k = if k = t then !bit a k else bit a k := by
  rw [bit, Nat.testBit_xor, Nat.testBit_two_pow, bit]
  split
  case isTrue h => rw [decide_eq_true h.symm, Bool.xor_true]
  case isFalse h => rw [decide_eq_false (Ne.symm h), Bool.xor_false]

theorem bit_mod_add_sign {t k : Nat} (hk : k < t + 1) (a : Nat) (b : Bool) : bit (a % 2 ^ t + b.toNat * 2 ^ t) k = if k = t then b else bit a k := by
  rw [Nat.add_comm, Nat.mul_comm, bit, Nat.testBit_two_pow_mul_add _ (Nat.mod_lt _ (Nat.two_pow_pos t))]
  rcases Nat.lt_or_eq_of_le (Nat.le_of_lt_succ hk) with hlt | rfl
  · rw [if_pos hlt, if_neg hlt.ne]
    exact bit_mod hlt a
  · rw [if_neg (Nat.lt_irrefl k), if_pos rfl, Nat.sub_self]
    cases b <;> rfl

/-- Settles O21: each word sends its function of the lanes, and each bit of it is the rule's. -/
theorem signBits : Obligations.SignBits := by
  intro s x f _ ft top
  have htop : ft.w + ft.m = top := ft.width_sub_one.symm
  have hwidth : ft.width = top + 1 := by rw [← htop, FFmt.width]; omega
  refine ⟨fun h => ⟨?_, ?_⟩, fun h => ?_⟩
  · obtain ⟨r, hsend, hlane⟩ := sends_floatLanes_quiet (exec_fabs f s) rfl h (fun _ _ _ _ => rfl) fun _ _ _ _ => rfl
    refine ⟨r, hsend, fun j hj k hk => ?_⟩
    rw [hlane j hj, bit_mod hk, laneFabs, htop]
    exact bit_mod_sign (hwidth ▸ hk) _
  · obtain ⟨r, hsend, hlane⟩ := sends_floatLanes_quiet (exec_fneg f s) rfl h (fun _ _ _ _ => rfl) fun _ _ _ _ => rfl
    refine ⟨r, hsend, fun j hj k hk => ?_⟩
    rw [hlane j hj, bit_mod hk, laneFneg, htop]
    exact bit_xor_two_pow ..
  · intro a b
    obtain ⟨r, hsend, hlane⟩ := sends_floatLanes_quiet (exec_fsign f s) rfl h (fun _ _ _ _ => rfl) fun _ _ _ _ => rfl
    refine ⟨r, hsend, fun j hj k hk => ?_⟩
    rw [hlane j hj, bit_mod hk, laneFsign, htop, bit_mod_add_sign (hwidth ▸ hk)]
    split
    case isTrue hsign => rw [hsign]
    case isFalse => rfl

/-! The smaller and the larger (R212) -/

theorem canon_lt (code : Nat) : (ffmt code).canon < 2 ^ (ffmt code).width := by
  unfold ffmt
  split <;> decide

section
variable (big num : Bool) (ft : FFmt) (a b c : Nat)

/-- The operand that wins where neither is a NaN. -/
def pickLane : Nat :=
  if big then (if leTotal (decodeF ft a) (decodeF ft b) then b else a) else (if leTotal (decodeF ft a) (decodeF ft b) then a else b)

theorem laneMinMax_val : (laneMinMax big num ft a b c).val =
    if (decodeF ft a).isNan && (decodeF ft b).isNan then ft.canon
    else if (decodeF ft a).isNan then (if num then b else ft.canon)
    else if (decodeF ft b).isNan then (if num then a else ft.canon)
    else pickLane big ft a b := rfl

/-- R212: the result is an operand or the canonical NaN. -/
theorem laneMinMax_cases : (laneMinMax big num ft a b c).val = ft.canon ∨ (laneMinMax big num ft a b c).val = a ∨ (laneMinMax big num ft a b c).val = b := by
  have hpick : pickLane big ft a b = a ∨ pickLane big ft a b = b := by unfold pickLane; split_ifs <;> simp
  rw [laneMinMax_val]
  split_ifs <;> simp [hpick]

/-- R212: any NaN makes the canonical NaN of `fmin` and `fmax`. -/
theorem laneMinMax_propagates :
    ((decodeF ft a).isNan || (decodeF ft b).isNan → (laneMinMax big false ft a b c).val = ft.canon) ∧
    (¬((decodeF ft a).isNan || (decodeF ft b).isNan) → (laneMinMax big false ft a b c).val = pickLane big ft a b) := by
  rw [laneMinMax_val]
  cases (decodeF ft a).isNan <;> cases (decodeF ft b).isNan <;> simp

/-- R212: a number wins over a NaN in `fminn` and `fmaxn`. -/
theorem laneMinMax_prefers_number :
    ((decodeF ft a).isNan && (decodeF ft b).isNan → (laneMinMax big true ft a b c).val = ft.canon) ∧
    ((decodeF ft a).isNan && !(decodeF ft b).isNan → (laneMinMax big true ft a b c).val = b) ∧
    (!(decodeF ft a).isNan && (decodeF ft b).isNan → (laneMinMax big true ft a b c).val = a) ∧
    (!(decodeF ft a).isNan && !(decodeF ft b).isNan → (laneMinMax big true ft a b c).val = pickLane big ft a b) := by
  rw [laneMinMax_val]
  cases (decodeF ft a).isNan <;> cases (decodeF ft b).isNan <;> simp

end

/-- R212: the result of lanes is no wider than a lane. -/
theorem laneMinMax_mod (big num : Bool) (code c : Nat) {a b : Nat} (ha : a < 2 ^ (ffmt code).width) (hb : b < 2 ^ (ffmt code).width) :
    (laneMinMax big num (ffmt code) a b c).val % 2 ^ (ffmt code).width = (laneMinMax big num (ffmt code) a b c).val := by
  refine Nat.mod_eq_of_lt ?_
  rcases laneMinMax_cases big num (ffmt code) a b c with h | h | h <;> rw [h]
  · exact canon_lt code
  · exact ha
  · exact hb

section
variable {i : Instr} {s : State} {x : Site} {sh : Shape} {ty : Nat} {big num : Bool}
  (hexec : exec i s = fireFloat i s (onFloatLanes ty (laneMinMax big num))) (hi : shape i = some sh) (h : Computes s x sh)
include hexec hi h

/-- R212: each lane of what a min-max word sends is its choice between the lanes of its operands. -/
theorem sends_minMax : ∃ r c, Sends (exec i s) s x (valTok r) c ∧ ∀ j, j < (floatLanes ty).1 → lane (floatFmt ty).width r j =
    (laneMinMax big num (floatFmt ty) (floatLane s x sh ty 0 j) (floatLane s x sh ty 1 j) (floatLane s x sh ty 2 j)).val := by
  obtain ⟨r, c, hsend, hlane⟩ := sends_floatLanes hexec hi h fun _ _ _ _ => rfl
  refine ⟨r, c, hsend, fun j hj => ?_⟩
  rw [hlane j hj, laneMinMax_mod _ _ _ _ (floatLane_lt ..) (floatLane_lt ..)]

end

/-- Settles O22: each word sends its choice between the lanes, NaN by NaN. -/
theorem floatMinMax : Obligations.FloatMinMax := by
  intro s x f _ h ft a b na nb less sends
  refine ⟨?_, ?_, ?_, ?_⟩
  · obtain ⟨r, c, hsend, hlane⟩ := sends_minMax (exec_fmin f s) rfl h
    exact ⟨r, c, hsend, fun j hj => hlane j hj ▸ laneMinMax_propagates false ft (a j) (b j) _⟩
  · obtain ⟨r, c, hsend, hlane⟩ := sends_minMax (exec_fmax f s) rfl h
    exact ⟨r, c, hsend, fun j hj => hlane j hj ▸ laneMinMax_propagates true ft (a j) (b j) _⟩
  · obtain ⟨r, c, hsend, hlane⟩ := sends_minMax (exec_fminn f s) rfl h
    exact ⟨r, c, hsend, fun j hj => hlane j hj ▸ laneMinMax_prefers_number false ft (a j) (b j) _⟩
  · obtain ⟨r, c, hsend, hlane⟩ := sends_minMax (exec_fmaxn f s) rfl h
    exact ⟨r, c, hsend, fun j hj => hlane j hj ▸ laneMinMax_prefers_number true ft (a j) (b j) _⟩

/-! Comparisons (R90, R215) -/

/-- Of two values that are no NaN at most one is below the other. -/
theorem ltV_asymm : ∀ {x y : FV}, (x.isNan || y.isNan) = false → (ltV x y && ltV y x) = false
  | .inf s, .inf t, _ => by cases s <;> cases t <;> rfl
  | .inf s, .fin .., _ => by cases s <;> rfl
  | .fin .., .inf t, _ => by cases t <;> rfl
  | .fin s m e, .fin t n k, _ => by
    simp only [ltV, min_comm k e, Bool.and_eq_false_iff, decide_eq_false_iff_not, not_lt]
    exact le_total ..

/-- R90, R215: the conditions that an unordered pair satisfies, and those that hold of a lesser, of a greater and of an equal number. -/
theorem floatCond_eq {cond : Nat} (hc : cond ≤ 13) (x y : FV) : floatCond cond x y =
    if x.isNan || y.isNan then [6, 7, 8, 9, 10, 11, 13].contains cond
    else if ltV x y then [1, 2, 3, 7, 8, 9, 12].contains cond
    else if ltV y x then [1, 4, 5, 7, 10, 11, 12].contains cond
    else [0, 3, 5, 6, 9, 11, 12].contains cond := by
  have hasymm := ltV_asymm (x := x) (y := y)
  unfold floatCond
  generalize (x.isNan || y.isNan) = un, ltV x y = lt, ltV y x = gt at hasymm
  interval_cases cond <;> revert un lt gt <;> decide

/-- The conditions that a comparison raises of one pair (R215). -/
def pairConds (cond : Nat) (x y : FV) : Nat :=
  if x.isSnan || y.isSnan || ((x.isNan || y.isNan) && decide (2 ≤ cond) && decide (cond ≤ 5)) then cInvalid else 0

theorem pairConds_eq (cond : Nat) (x y : FV) :
    pairConds cond x y = if x.isSnan || y.isSnan || ((decide (2 ≤ cond) && decide (cond ≤ 5)) && (x.isNan || y.isNan)) then cInvalid else 0 := by
  rw [pairConds, Bool.and_assoc, Bool.and_comm (x.isNan || y.isNan)]

/-- The number in a lane of an operand. -/
def laneValue (ty v j : Nat) : FV := decodeF (floatFmt ty) (lane (floatFmt ty).width v j)

theorem fcmp_scalar {ty : Nat} (h : ty ≤ 3) (cond a b : Nat) : fcmp ty cond a b =
    ⟨if floatCond cond (laneValue ty a 0) (laneValue ty b 0) then 1 else 0, pairConds cond (laneValue ty a 0) (laneValue ty b 0), false⟩ := by
  rw [pairConds_eq, ← Bool.cond_eq_ite]
  match ty, h with
  | 0, _ | 1, _ | 2, _ | 3, _ => rfl

/-- R215: each lane of a packed outcome is all ones or zeros. -/
def packedMask (p : Nat → Bool) : Nat := ofLanes 16 ((List.range 2).map fun j => if p j then 0xFFFF else 0)

theorem lane_packedMask (p : Nat → Bool) {j : Nat} (hj : j < 2) : lane 16 (packedMask p) j = if p j then 0xFFFF else 0 := by
  rw [packedMask, lane_ofLanes _ _ (by simpa using hj), List.getElem_map, List.getElem_range]
  split <;> rfl

theorem fcmp_packed {ty : Nat} (h : 4 ≤ ty) (cond a b : Nat) : fcmp ty cond a b =
    ⟨packedMask fun j => floatCond cond (laneValue ty a j) (laneValue ty b j),
      pairConds cond (laneValue ty a 0) (laneValue ty b 0) ||| pairConds cond (laneValue ty a 1) (laneValue ty b 1), false⟩ := by
  rw [pairConds_eq, pairConds_eq, ← Nat.zero_or (if (laneValue ty a 0).isSnan || _ || _ then cInvalid else 0)]
  obtain ⟨n, rfl⟩ := Nat.exists_eq_add_of_le' h
  match n with
  | 0 | _ + 1 => rfl

/-! Classes (R214) -/

theorem classBit_le (ft : FFmt) (v : Nat) : classBit ft v ≤ 9 := by
  unfold classBit
  split <;> split_ifs <;> decide

theorem lane_fclass (ty a : Nat) {j : Nat} (hj : j < (floatLanes ty).1) :
    lane 16 (fclass ty a).val j = 2 ^ classBit (floatFmt ty) (lane (floatFmt ty).width a j) := by
  have hbit := classBit_le (floatFmt ty) (lane (floatFmt ty).width a j)
  have hlt : 2 ^ classBit (floatFmt ty) (lane (floatFmt ty).width a j) < 2 ^ 16 := Nat.pow_lt_pow_right Nat.one_lt_two (by omega)
  dsimp only [fclass]
  rw [lane_ofLanes _ _ (by simpa using hj), List.getElem_map, List.getElem_range, Nat.mod_eq_of_lt hlt]

/-- Settles O23: the lanes are compared by the table of conditions, and classed by a bit that fits a lane. -/
theorem floatCompareAndClass : Obligations.FloatCompareAndClass := by
  intro s x
  refine ⟨fun f _ hcond h => ?_, fun f _ h => ?_⟩
  · intro ft a b un c inv holds
    let p := portVal s x (shapeFcmp f)
    have hsend : SendsFloat (exec (.fcmp f) s) s x (fcmp f.ty.toNat c (p 0) (p 1)) := (exec_fcmp f s).trans (fireFloat_computes rfl h)
    have hholds : ∀ j, floatCond c (a j) (b j) = holds j := fun j => floatCond_eq hcond ..
    have hconds : ∀ j, pairConds c (a j) (b j) = inv j := fun _ => rfl
    refine ⟨fun hty => ?_, fun hty => ?_⟩
    · have hval : fcmp f.ty.toNat c (p 0) (p 1) = ⟨if floatCond c (a 0) (b 0) then 1 else 0, pairConds c (a 0) (b 0), false⟩ := fcmp_scalar hty ..
      rw [hholds, hconds] at hval
      exact sends_of_eq hsend hval
    · have hval : fcmp f.ty.toNat c (p 0) (p 1) = ⟨_, pairConds c (a 0) (b 0) ||| pairConds c (a 1) (b 1), false⟩ := fcmp_packed hty ..
      rw [hconds, hconds] at hval
      refine ⟨_, sends_of_eq hsend hval, fun j hj => ?_⟩
      rw [← hholds]
      exact lane_packedMask _ hj
  · exact ⟨_, (exec_fclass f s).trans (sends_value (fireFloat_computes rfl h) rfl), fun j hj => lane_fclass f.ty _ hj⟩

end Sys2Proof.Machine
end

section
/-! PROOFS (O25). The special functions at the inputs that R224 lists: NaNs, zeros, infinities, powers of two, integers and the numbers half way between
two integers. None of them asks for the value that R223 leaves open. -/
namespace Sys2Proof.Machine

/-! Exactly known results (R224) -/

theorem exactRes_eq (ft : FFmt) (y : FV) : exactRes ft y = ⟨(Machine.round ft 0 y).1, (Machine.round ft 0 y).2, false⟩ := rfl

theorem exactRes_zero (ft : FFmt) (g : Bool) (e : Int) : exactRes ft (.fin g 0 e) = ⟨g.toNat * 2 ^ (ft.w + ft.m), 0, false⟩ := by
  rw [exactRes_eq, round_zero]

theorem exactRes_pos_zero (ft : FFmt) (e : Int) : exactRes ft (.fin false 0 e) = ⟨0, 0, false⟩ := by
  rw [exactRes_zero, Bool.toNat_false, Nat.zero_mul]

theorem exactRes_inf (ft : FFmt) (g : Bool) : exactRes ft (.inf g) = ⟨ft.infBits g, 0, false⟩ := rfl

/-- The encoding of 1 with a sign. -/
def oneBits (ft : FFmt) (g : Bool) : Nat := if g then 2 ^ (ft.w + ft.m) + ft.bias * 2 ^ ft.m else ft.bias * 2 ^ ft.m

theorem oneBits_odd (ft : FFmt) (n : Int) : oneBits ft (n % 2 != 0) = if n % 2 = 0 then ft.bias * 2 ^ ft.m else 2 ^ (ft.w + ft.m) + ft.bias * 2 ^ ft.m := by
  by_cases h : n % 2 = 0 <;> simp [oneBits, h]

section
variable {ty : Nat} (hty : ty ≤ 3)
include hty

theorem floatLanes_code_lt : (floatLanes ty).2 < 4 := by
  match ty, hty with
  | 0, _ | 1, _ | 2, _ | 3, _ => decide

theorem exactRes_one (g : Bool) : exactRes (floatFmt ty) (fvOne g) = ⟨oneBits (floatFmt ty) g, 0, false⟩ := by
  have hall : ∀ code < 4, ∀ g, exactRes (ffmt code) (fvOne g) = ⟨oneBits (ffmt code) g, 0, false⟩ := by decide
  exact hall _ (floatLanes_code_lt hty) g

theorem exactRes_half : exactRes (floatFmt ty) (.fin false 1 (-1)) = ⟨((floatFmt ty).bias - 1) * 2 ^ (floatFmt ty).m, 0, false⟩ := by
  have hall : ∀ code < 4, exactRes (ffmt code) (.fin false 1 (-1)) = ⟨((ffmt code).bias - 1) * 2 ^ (ffmt code).m, 0, false⟩ := by decide
  exact hall _ (floatLanes_code_lt hty)

/-- A power of two far below the least number of the format, and one far above the greatest. -/
theorem exactRes_out_of_range : exactRes (floatFmt ty) (.fin false 1 (-100000)) = ⟨0, cInexact, false⟩ ∧
    exactRes (floatFmt ty) (.fin false 1 100000) = ⟨(floatFmt ty).infBits false, cOverflow ||| cInexact, false⟩ := by
  have hall : ∀ code < 4, exactRes (ffmt code) (.fin false 1 (-100000)) = ⟨0, cInexact, false⟩ ∧
      exactRes (ffmt code) (.fin false 1 100000) = ⟨(ffmt code).infBits false, cOverflow ||| cInexact, false⟩ := by decide +kernel
  exact hall _ (floatLanes_code_lt hty)

end

/-! The function of the operand (R222 to R224) -/

section
variable {ty a : Nat} {g : Bool} {m : Nat} {e : Int}

theorem sfu_nan (h : decodeF (floatFmt ty) (a % 2 ^ (floatFmt ty).width) = .nan g) (op : Nat) :
    sfu op ty a = ⟨(floatFmt ty).canon, if g then cInvalid else 0, false⟩ := by
  simp only [sfu, h]

/-- R224: each function at a zero. -/
theorem sfu_zero (hty : ty ≤ 3) (h : decodeF (floatFmt ty) (a % 2 ^ (floatFmt ty).width) = .fin g 0 e) :
    sfu 0x78 ty a = ⟨(floatFmt ty).infBits g, cDivZero, false⟩ ∧ sfu 0x79 ty a = ⟨(floatFmt ty).infBits g, cDivZero, false⟩ ∧
    sfu 0x7A ty a = ⟨oneBits (floatFmt ty) false, 0, false⟩ ∧ sfu 0x7B ty a = ⟨(floatFmt ty).infBits true, cDivZero, false⟩ ∧
    sfu 0x7C ty a = ⟨g.toNat * 2 ^ ((floatFmt ty).w + (floatFmt ty).m), 0, false⟩ ∧ sfu 0x7D ty a = ⟨oneBits (floatFmt ty) false, 0, false⟩ ∧
    sfu 0x7E ty a = ⟨g.toNat * 2 ^ ((floatFmt ty).w + (floatFmt ty).m), 0, false⟩ ∧
    sfu 0x7F ty a = ⟨((floatFmt ty).bias - 1) * 2 ^ (floatFmt ty).m, 0, false⟩ := by
  rw [← exactRes_one hty, ← exactRes_half hty, ← exactRes_zero _ g 0]
  simp only [sfu, h, beq_self_eq_true, if_true, and_self]

/-- R224: each function at an infinity. -/
theorem sfu_inf (hty : ty ≤ 3) (h : decodeF (floatFmt ty) (a % 2 ^ (floatFmt ty).width) = .inf g) :
    sfu 0x78 ty a = ⟨g.toNat * 2 ^ ((floatFmt ty).w + (floatFmt ty).m), 0, false⟩ ∧
    sfu 0x79 ty a = (if g then badRes (floatFmt ty) else ⟨0, 0, false⟩) ∧
    sfu 0x7A ty a = (if g then ⟨0, 0, false⟩ else ⟨(floatFmt ty).infBits false, 0, false⟩) ∧
    sfu 0x7B ty a = (if g then badRes (floatFmt ty) else ⟨(floatFmt ty).infBits false, 0, false⟩) ∧
    sfu 0x7C ty a = badRes (floatFmt ty) ∧ sfu 0x7D ty a = badRes (floatFmt ty) ∧ sfu 0x7E ty a = ⟨oneBits (floatFmt ty) g, 0, false⟩ ∧
    sfu 0x7F ty a = (if g then ⟨0, 0, false⟩ else ⟨oneBits (floatFmt ty) false, 0, false⟩) := by
  rw [← exactRes_one hty, ← exactRes_one hty, ← exactRes_zero _ g 0, ← exactRes_pos_zero (floatFmt ty) 0, ← exactRes_inf]
  simp only [sfu, h, and_self]

section
variable (h : decodeF (floatFmt ty) (a % 2 ^ (floatFmt ty).width) = .fin g m e) (hm : m ≠ 0)
include h hm

/-- R224: a negative number has no root and no logarithm. -/
theorem sfu_negative (hg : g = true) : sfu 0x79 ty a = badRes (floatFmt ty) ∧ sfu 0x7B ty a = badRes (floatFmt ty) := by
  simp [sfu, h, hm, hg]

theorem sfu_rcp_pow2 {k : Int} (hk : asPow2 m e = some k) : sfu 0x78 ty a = exactRes (floatFmt ty) (.fin g 1 (-k)) := by
  simp [sfu, h, hm, hk]

theorem sfu_rsq_pow4 (hg : g = false) {k : Int} (hk : asPow2 m e = some k) (heven : k % 2 = 0) :
    sfu 0x79 ty a = exactRes (floatFmt ty) (.fin false 1 (-(k / 2))) := by
  simp [sfu, h, hm, hg, hk, heven]

theorem sfu_lg2_pow2 (hg : g = false) {k : Int} (hk : asPow2 m e = some k) : sfu 0x7B ty a = exactRes (floatFmt ty) (ofInt k) := by
  simp [sfu, h, hm, hg, hk]

theorem sfu_ex2_int {n : Int} (hn : asInt g m e = some n) : sfu 0x7A ty a = exactRes (floatFmt ty) (.fin false 1 (max (-100000) (min 100000 n))) := by
  simp [sfu, h, hm, hn]

theorem sfu_sinpi_even {n : Int} (hn : asInt g m (e + 1) = some (2 * n)) : sfu 0x7C ty a = exactRes (floatFmt ty) (.fin g 0 0) := by
  simp [sfu, h, hm, hn]

theorem sfu_sinpi_odd {n : Int} (hn : asInt g m (e + 1) = some (2 * n + 1)) : sfu 0x7C ty a = exactRes (floatFmt ty) (fvOne (n % 2 != 0)) := by
  simp [sfu, h, hm, hn]

theorem sfu_cospi_even {n : Int} (hn : asInt g m (e + 1) = some (2 * n)) : sfu 0x7D ty a = exactRes (floatFmt ty) (fvOne (n % 2 != 0)) := by
  simp [sfu, h, hm, hn]

theorem sfu_cospi_odd {n : Int} (hn : asInt g m (e + 1) = some (2 * n + 1)) : sfu 0x7D ty a = exactRes (floatFmt ty) (.fin false 0 0) := by
  simp [sfu, h, hm, hn]

end

end

/-! Numbers that are powers of two, integers or halves -/

theorem asPow2_two_pow (k : Nat) (e : Int) : asPow2 (2 ^ k) e = some (k + e) := by
  rw [asPow2, Nat.log2_two_pow, if_pos (beq_self_eq_true _)]

/-- A value that is an integer is read as it. -/
theorem asInt_of_ratOf {g : Bool} {m : Nat} {e : Int} {n : ℤ} (h : ratOf (.fin g m e) = n) : asInt g m e = some n := by
  have hmag : (m : ℚ) * 2 ^ e = n.natAbs := by
    have habs : |ratOf (.fin g m e)| = (m : ℚ) * 2 ^ e := by rw [ratOf_fin]; cases g <;> simp [abs_of_nonneg (magnitude_nonneg m e)]
    rw [← habs, h, Nat.cast_natAbs, Int.cast_abs]
  have hsign : (if g then -(n.natAbs : Int) else n.natAbs) = n := by
    rw [ratOf_fin, hmag, Nat.cast_natAbs] at h
    rw [Int.natCast_natAbs]
    cases g <;> simp only [Bool.false_eq_true, if_true, if_false] at h ⊢ <;> exact_mod_cast h
  have hrest : restCode 0 = 0 := if_pos rfl
  rw [asInt, shiftLeft_eq, hmag, Nat.floor_natCast, sub_self, hrest]
  exact congrArg some hsign

theorem ratOf_double (g : Bool) (m : Nat) (e : Int) : ratOf (.fin g m (e + 1)) = 2 * ratOf (.fin g m e) := by
  rw [ratOf_fin, ratOf_fin, two_zpow_succ]
  cases g <;> simp <;> ring

section
variable {ty a : Nat} {g : Bool} {m : Nat} {e : Int} (hty : ty ≤ 3) (h : decodeF (floatFmt ty) (a % 2 ^ (floatFmt ty).width) = .fin g m e) (hm : m ≠ 0) {n : ℤ}
include hty h hm

/-- R224: two to an integer, and the sine and cosine of a whole number of half turns. -/
theorem sfu_integer (hn : ratOf (.fin g m e) = n) :
    (-100000 ≤ n → n ≤ 100000 → sfu 0x7A ty a = exactRes (floatFmt ty) (.fin false 1 n)) ∧
    (n < -100000 → sfu 0x7A ty a = ⟨0, cInexact, false⟩) ∧
    (100000 < n → sfu 0x7A ty a = ⟨(floatFmt ty).infBits false, cOverflow ||| cInexact, false⟩) ∧
    sfu 0x7C ty a = ⟨g.toNat * 2 ^ ((floatFmt ty).w + (floatFmt ty).m), 0, false⟩ ∧ sfu 0x7D ty a = ⟨oneBits (floatFmt ty) (n % 2 != 0), 0, false⟩ := by
  obtain ⟨htiny, hhuge⟩ := exactRes_out_of_range hty
  have hex2 := sfu_ex2_int h hm (asInt_of_ratOf hn)
  have hdouble : asInt g m (e + 1) = some (2 * n) := asInt_of_ratOf (by rw [ratOf_double, hn]; push_cast; rfl)
  refine ⟨fun hlo hhi => ?_, fun hlo => ?_, fun hhi => ?_, ?_, ?_⟩
  · rw [hex2, min_eq_right hhi, max_eq_right hlo]
  · rw [hex2, min_eq_right (by omega), max_eq_left hlo.le, htiny]
  · rw [hex2, min_eq_left hhi.le, max_eq_right (by decide), hhuge]
  · rw [sfu_sinpi_even h hm hdouble, exactRes_zero]
  · rw [sfu_cospi_even h hm hdouble, exactRes_one hty]

/-- R224: the sine and cosine of an odd number of quarter turns. -/
theorem sfu_half (hn : ratOf (.fin g m e) = n + 1 / 2) :
    sfu 0x7C ty a = ⟨oneBits (floatFmt ty) (n % 2 != 0), 0, false⟩ ∧ sfu 0x7D ty a = ⟨0, 0, false⟩ := by
  have hdouble : asInt g m (e + 1) = some (2 * n + 1) := asInt_of_ratOf (by rw [ratOf_double, hn]; push_cast; ring)
  rw [sfu_sinpi_odd h hm hdouble, sfu_cospi_odd h hm hdouble, exactRes_one hty, exactRes_pos_zero]
  exact ⟨rfl, rfl⟩

end

/-- R224: the listed words of type f32 at +0 and at +∞. -/
theorem sfu_f32 : (sfu 0x78 0 0 = ⟨0x7F800000, cDivZero, false⟩ ∧ sfu 0x7A 0 0 = ⟨0x3F800000, 0, false⟩ ∧ sfu 0x7B 0 0 = ⟨0xFF800000, cDivZero, false⟩ ∧
      sfu 0x7D 0 0 = ⟨0x3F800000, 0, false⟩ ∧ sfu 0x7F 0 0 = ⟨0x3F000000, 0, false⟩) ∧
    sfu 0x78 0 0x7F800000 = ⟨0, 0, false⟩ ∧ sfu 0x7E 0 0x7F800000 = ⟨0x3F800000, 0, false⟩ ∧ sfu 0x7C 0 0x7F800000 = ⟨0x7FC00000, cInvalid, true⟩ := by
  obtain ⟨zrcp, -, zex2, zlg2, -, zcospi, -, zsigm⟩ := sfu_zero (ty := 0) (a := 0) (g := false) (e := -149) (by decide) (by decide)
  obtain ⟨ircp, -, -, -, isinpi, -, itanh, -⟩ := sfu_inf (ty := 0) (a := 0x7F800000) (g := false) (by decide) (by decide)
  exact ⟨⟨zrcp, zex2, zlg2, zcospi, zsigm⟩, ircp, itanh, isinpi⟩

/-! The words -/

/-- R225: an entry marked † is invalid, and poison in poison mode. -/
theorem sends_bad {o : Out} {s : State} {x : Site} {r : FRes} {v : Nat} (h : SendsFloat o s x r) (hr : r = ⟨v, cInvalid, true⟩) :
    (x.ins.psn = false → Sends o s x (valTok v) cInvalid) ∧ (x.ins.psn = true → Sends o s x (.poison (siteOrigin x)) cInvalid) := by
  subst hr
  refine ⟨fun hpsn => ?_, fun hpsn => ?_⟩
  · rw [Sends, h, floatTok, hpsn]; rfl
  · rw [Sends, h, floatTok, hpsn]; rfl

/-- Settles O25: each word sends its function, and the function is known exactly at each input that R224 lists. -/
theorem specialFunctionsComplete : Obligations.SpecialFunctionsComplete := by
  intro s x f h a
  have hrcp : SendsFloat (exec (.rcp f) s) s x (sfu 0x78 f.ty a) := (exec_rcp f s).trans (fireFloat_computes rfl h)
  have hrsq : SendsFloat (exec (.rsq f) s) s x (sfu 0x79 f.ty a) := (exec_rsq f s).trans (fireFloat_computes rfl h)
  have hex2 : SendsFloat (exec (.ex2 f) s) s x (sfu 0x7A f.ty a) := (exec_ex2 f s).trans (fireFloat_computes rfl h)
  have hlg2 : SendsFloat (exec (.lg2 f) s) s x (sfu 0x7B f.ty a) := (exec_lg2 f s).trans (fireFloat_computes rfl h)
  have hsinpi : SendsFloat (exec (.sinpi f) s) s x (sfu 0x7C f.ty a) := (exec_sinpi f s).trans (fireFloat_computes rfl h)
  have hcospi : SendsFloat (exec (.cospi f) s) s x (sfu 0x7D f.ty a) := (exec_cospi f s).trans (fireFloat_computes rfl h)
  have htanh : SendsFloat (exec (.tanh f) s) s x (sfu 0x7E f.ty a) := (exec_tanh f s).trans (fireFloat_computes rfl h)
  have hsigm : SendsFloat (exec (.sigm f) s) s x (sfu 0x7F f.ty a) := (exec_sigm f s).trans (fireFloat_computes rfl h)
  refine ⟨hrcp, hrsq, hex2, hlg2, hsinpi, hcospi, htanh, hsigm, fun hty => ?_, fun hty ha => ?_, fun hty ha => ?_⟩
  · intro ft v zero one neg gives bad rounded
    refine ⟨fun g hv => ?_, fun g e hv => ?_, fun g hv => ?_, fun g m e hv hm => ⟨fun hg => ?_, fun k hk => ?_, fun n hn => ?_, fun n hn => ?_⟩⟩
    · have hnan := sfu_nan (ty := f.ty) hv
      exact ⟨sends_of_eq hrcp (hnan _), sends_of_eq hrsq (hnan _), sends_of_eq hex2 (hnan _), sends_of_eq hlg2 (hnan _), sends_of_eq hsinpi (hnan _),
        sends_of_eq hcospi (hnan _), sends_of_eq htanh (hnan _), sends_of_eq hsigm (hnan _)⟩
    · obtain ⟨zrcp, zrsq, zex2, zlg2, zsinpi, zcospi, ztanh, zsigm⟩ := sfu_zero hty hv
      exact ⟨sends_of_eq hrcp zrcp, sends_of_eq hrsq zrsq, sends_of_eq hex2 zex2, sends_of_eq hlg2 zlg2, sends_of_eq hsinpi zsinpi,
        sends_of_eq hcospi zcospi, sends_of_eq htanh ztanh, sends_of_eq hsigm zsigm⟩
    · obtain ⟨ircp, irsq, iex2, ilg2, isinpi, icospi, itanh, isigm⟩ := sfu_inf hty hv
      refine ⟨sends_of_eq hrcp ircp, ?_, ?_, ?_, ?_, ?_, ?_, sends_bad hsinpi isinpi, sends_bad hcospi icospi, sends_of_eq htanh itanh, ?_⟩
      · rintro rfl; exact sends_of_eq hrsq irsq
      · rintro rfl; exact sends_bad hrsq irsq
      · rintro rfl; exact sends_of_eq hex2 iex2
      · rintro rfl; exact sends_of_eq hex2 iex2
      · rintro rfl; exact sends_of_eq hlg2 ilg2
      · rintro rfl; exact sends_bad hlg2 ilg2
      · cases g <;> exact sends_of_eq hsigm isigm
    · obtain ⟨nrsq, nlg2⟩ := sfu_negative hv hm hg
      exact ⟨sends_bad hrsq nrsq, sends_bad hlg2 nlg2⟩
    · have hpow : asPow2 m e = some (k + e) := hk ▸ asPow2_two_pow k e
      exact ⟨sends_of_eq hrcp (sfu_rcp_pow2 hv hm hpow), fun hg heven => sends_of_eq hrsq (sfu_rsq_pow4 hv hm hg hpow heven),
        fun hg => sends_of_eq hlg2 (sfu_lg2_pow2 hv hm hg hpow)⟩
    · obtain ⟨hin, htiny, hhuge, hsin, hcos⟩ := sfu_integer hty hv hm (hv ▸ hn)
      rw [oneBits_odd] at hcos
      exact ⟨fun hlo hhi => sends_of_eq hex2 (hin hlo hhi), fun hlo => sends_of_eq hex2 (htiny hlo), fun hhi => sends_of_eq hex2 (hhuge hhi),
        sends_of_eq hsinpi hsin, sends_of_eq hcospi hcos⟩
    · obtain ⟨hsin, hcos⟩ := sfu_half hty hv hm (hv ▸ hn)
      rw [oneBits_odd] at hsin
      exact ⟨sends_of_eq hsinpi hsin, sends_of_eq hcospi hcos⟩
  · obtain ⟨⟨zrcp, zex2, zlg2, zcospi, zsigm⟩, -⟩ := sfu_f32
    rw [hty, ha] at hrcp hex2 hlg2 hcospi hsigm
    exact ⟨sends_of_eq hrcp zrcp, sends_of_eq hex2 zex2, sends_of_eq hlg2 zlg2, sends_of_eq hcospi zcospi, sends_of_eq hsigm zsigm⟩
  · obtain ⟨-, ircp, itanh, isinpi⟩ := sfu_f32
    rw [hty, ha] at hrcp htanh hsinpi
    exact ⟨sends_of_eq hrcp ircp, sends_of_eq htanh itanh, sends_bad hsinpi isinpi⟩

end Sys2Proof.Machine
end

section
/-! PROOFS (O7). Every step keeps the placed memory in its canonical form: a word of the fabric touches it in two cases only (a record that is posted, the
bits that a channel's read sets), and each event is a few of the operations whose laws Laws/Canonical states, in the order of the chapters (R7, R227, R328). -/
namespace Sys2Proof.Machine

/-! Words of the fabric (R149, R230, R378) -/

theorem execRd_canonical (f : FmtL) (s : State) (h : MemoryCanonical s) : OutCanonical (execRd f s) := by
  unfold execRd
  split
  · split
    · dsimp only
      split
      · exact .of_next (takeFault_canonical _ _ _ h)
      · exact .of_next (emit_canonical _ _ _ _ (statusAcquire_canonical _ _ _ h))
    · exact .of_next h
  · exact .of_next h

/-- A step that keeps the placed memory keeps its form. -/
theorem MemoryCanonical.of_placed {s t : State} (h : MemoryCanonical s) (e : t.hub.placed = s.hub.placed) : MemoryCanonical t := by
  rw [MemoryCanonical, e]; exact h

theorem exec_word_canonical {i : Instr} (s : State) (hi : isWord i = true) (h : MemoryCanonical s) : OutCanonical (exec i s) := by
  rcases quietWord_or_reads hi with hq | ⟨f, rfl⟩ | ⟨f, rfl⟩ | ⟨f, rfl⟩ | ⟨f, hf⟩
  · exact ⟨fun t ht => h.of_placed (exec_quietWord_instanceOnly hq ht).memory⟩
  · exact execRd_canonical f s h
  · refine ⟨fun t ht => ?_⟩
    rcases exec_pld_cases ht with rfl | ⟨x, ins, s1, -, rfl | rfl, rfl⟩
    · exact h
    · exact h
    · exact modThread_canonical _ _ _ (openChannel_canonical _ _ _ h)
  · refine ⟨fun t ht => ?_⟩
    obtain ⟨-, hplaced, -⟩ := exec_pf_keeps ht
    exact h.of_placed hplaced
  · exact ⟨fun t ht => h.of_placed (exec_load_readsGlobal (f := f) (by rcases hf with rfl | rfl | rfl <;> simp [ht])).placed⟩

/-! Effects and memory (R231, R254, R273, R328 to R337) -/

theorem execWritePerformedInL2_canonical (e : Nat) (s : State) (h : MemoryCanonical s) : OutCanonical (execWritePerformedInL2 e s) := by
  unfold execWritePerformedInL2
  split
  · exact .of_next (performInL2_canonical _ _ h)
  · exact .of_next h

theorem execWritePlacement_canonical (m : PlaceMode) (s : State) (h : MemoryCanonical s) : OutCanonical (execWritePlacement m s) := by
  unfold execWritePlacement
  split
  · split
    · exact .of_next (placeEffect_canonical _ _ h)
    · exact .of_next h
  · exact .of_next (settleEffects_canonical _ (deliverOne_canonical _ _ h))

theorem execGaAcknowledge_canonical (e : Nat) (s : State) (h : MemoryCanonical s) : OutCanonical (execGaAcknowledge e s) := by
  unfold execGaAcknowledge
  split
  · split
    · exact .of_next (settleEffects_canonical _ (modEffect_canonical _ _ _ h))
    · exact .of_next h
  · exact .of_next h

theorem execAckRetry_canonical (e : Nat) (s : State) (h : MemoryCanonical s) : OutCanonical (execAckRetry e s) := by
  unfold execAckRetry
  split
  · split
    · exact .of_next (modEffect_canonical _ _ _ h)
    · exact .of_next h
  · exact .of_next h

theorem execAckLossResolution_canonical (e : Nat) (readable : Bool) (s : State) (h : MemoryCanonical s) : OutCanonical (execAckLossResolution e readable s) := by
  unfold execAckLossResolution
  split
  · split
    · exact .of_next (resolveAckLoss_canonical _ _ _ h)
    · exact .of_next h
  · exact .of_next h

theorem execAtomicResultLand_canonical (e : Nat) (s : State) (h : MemoryCanonical s) : OutCanonical (execAtomicResultLand e s) := by
  unfold execAtomicResultLand
  split
  · split
    · split
      · exact .of_next h
      · exact .of_next (settleEffects_canonical _ (modEffect_canonical _ _ _ (landSlots_canonical _ _ _ _ _ h)))
    · exact .of_next h
  · exact .of_next h

theorem execPeerWritePerform_canonical (w : PeerWrite) (s : State) (h : MemoryCanonical s) : OutCanonical (execPeerWritePerform w s) := by
  unfold execPeerWritePerform
  split
  · exact .of_next h
  · have hf := farCheck_canonical s w.ctx w.pkg w.pctx w.ordered w.copy true w.cid.toNat w.va w.data.length h
    split
    · exact .of_next (postEvent_canonical _ _ (flowDone_canonical _ _ _ (fst_canonical (by assumption) hf)))
    · dsimp only
      split
      · exact .of_next h
      · exact .of_next (flowDone_canonical _ _ _ (placeRuns_canonical _ _ _ _ (hubRuns_canonical _ _ (fst_canonical (by assumption) hf))))

theorem execPeerReadRequest_canonical (r : PeerRead) (s : State) (h : MemoryCanonical s) : OutCanonical (execPeerReadRequest r s) := by
  have answered : ∀ {u : State} {bs : List Byte}, MemoryCanonical u → MemoryCanonical { u with hub := { u.hub with peerOut := u.hub.peerOut ++ [bs] } } :=
    fun hu => hu
  have hf := farCheck_canonical s r.ctx r.pkg r.pctx r.ordered r.copy false r.cid.toNat r.va r.len h
  unfold execPeerReadRequest
  dsimp only
  split
  next s1 code hcheck =>
    have hs1 := fst_canonical hcheck hf
    refine .of_next (answered ?_)
    split
    · exact postEvent_canonical _ _ hs1
    · exact hs1
  next s1 pa hcheck =>
    split
    · exact .of_next (answered h)
    · exact .of_next (answered (foldl_canonical (fun _ _ => hubTouch_canonical _ _ _ _) _ _ (fst_canonical hcheck hf)))

theorem execPeerFlowRefused_canonical (e code : Nat) (s : State) (h : MemoryCanonical s) : OutCanonical (execPeerFlowRefused e code s) := by
  unfold execPeerFlowRefused
  split
  · split
    · split
      · exact .of_next h
      · exact .of_next (settleEffects_canonical _ (postEvent_canonical _ _ (refuseCopy_canonical _ _ (modEffect_canonical _ _ _ h))))
    · exact .of_next h
  · exact .of_next h

theorem execPeerWriteAcknowledged_canonical (e : Nat) (s : State) (h : MemoryCanonical s) : OutCanonical (execPeerWriteAcknowledged e s) := by
  unfold execPeerWriteAcknowledged
  split
  · split
    · split
      · exact .of_next h
      · exact .of_next (settleEffects_canonical _ (modEffect_canonical _ _ _ h))
    · exact .of_next h
  · exact .of_next h

theorem execHostWriteAccepted_canonical (e : Nat) (s : State) (h : MemoryCanonical s) : OutCanonical (execHostWriteAccepted e s) := by
  unfold execHostWriteAccepted
  split
  · split
    · exact .of_next (settleEffects_canonical _ (modEffect_canonical _ _ _ h))
    · exact .of_next h
  · exact .of_next h

/-! Engines (R278 to R320) -/

theorem execTileOpFire_canonical (vc : Nat) (s : State) (h : MemoryCanonical s) : OutCanonical (execTileOpFire vc s) := by
  unfold execTileOpFire
  split
  · exact .of_next (freeFrames_canonical _ (settleOps_canonical _ _ (fireOp_canonical _ _ _ h)))
  · exact .of_next h

theorem execAccumulatorStoreDone_canonical (o : Nat) (s : State) (h : MemoryCanonical s) : OutCanonical (execAccumulatorStoreDone o s) := by
  unfold execAccumulatorStoreDone
  split
  · split
    · exact .of_next (freeFrames_canonical _ (storeAcc_canonical _ _ _ h))
    · exact .of_next h
  · exact .of_next h

theorem execTfenceStatusLand_canonical (o : Nat) (s : State) (h : MemoryCanonical s) : OutCanonical (execTfenceStatusLand o s) := by
  unfold execTfenceStatusLand
  split
  · dsimp only
    split
    · exact .of_next (freeFrames_canonical _ (landTfence_canonical _ _ _ h))
    · exact .of_next h
  · exact .of_next h

theorem execCopyStart_canonical (vc eng : Nat) (s : State) (h : MemoryCanonical s) : OutCanonical (execCopyStart vc eng s) := by
  unfold execCopyStart
  split
  · exact .of_next h
  · split
    · exact .of_next h
    · split
      · exact .of_next (rereadCopy_canonical _ _ _ h)
      · exact .of_next (startCopy_canonical _ _ _ _ h)

theorem execCopyLineWrite_canonical (vc eng : Nat) (s : State) (h : MemoryCanonical s) : OutCanonical (execCopyLineWrite vc eng s) := by
  unfold execCopyLineWrite
  split
  · exact .of_next (copyStep_canonical _ _ _ h)
  · exact .of_next h

theorem execCopyComplete_canonical (vc eng : Nat) (s : State) (h : MemoryCanonical s) : OutCanonical (execCopyComplete vc eng s) := by
  unfold execCopyComplete
  split
  · split
    · exact .of_next (endCopy_canonical _ _ _ h)
    · exact .of_next h
  · exact .of_next h

theorem execVolleyPermit_canonical (c : Nat) (s : State) (h : MemoryCanonical s) : OutCanonical (execVolleyPermit c s) := by
  unfold execVolleyPermit
  split
  · split
    · exact .of_next (permitVolley_canonical _ _ _ h)
    · exact .of_next h
  · exact .of_next h

/-! Launch and retirement (R102 to R130, R389 to R391) -/

theorem execGroupHandout_canonical (s : State) (h : MemoryCanonical s) : OutCanonical (execGroupHandout s) := by
  unfold execGroupHandout
  split
  · exact .of_next h
  · dsimp only
    split
    · exact .of_next (restoreTo_canonical _ _ _ _ h)
    · split
      · exact .of_next (modGrid_canonical _ _ _ (acceptGroup_canonical _ _ _ _ _ h))
      · exact .of_next h

theorem execGroupStart_canonical (g : Nat) (s : State) (h : MemoryCanonical s) : OutCanonical (execGroupStart g s) := by
  unfold execGroupStart
  split
  · exact .of_next h
  · split
    · split
      · exact .of_next h
      · refine .of_next (foldl_canonical (fun u t hu => ?_) _ _
          (modGroup_canonical _ _ _ _ (invalidateL1_canonical _ _ _ (flushDie_canonical _ _ h))))
        split
        · exact setWaiting_canonical _ _ hu
        · exact hu
    · exact .of_next h

theorem execGroupRetire_canonical (g : Nat) (s : State) (h : MemoryCanonical s) : OutCanonical (execGroupRetire g s) := by
  unfold execGroupRetire
  split
  · exact .of_next h
  · split
    · refine .of_next ?_
      split
      · exact provisionalDone_canonical _ _ h
      · exact retireGroup_canonical _ _ h
    · exact .of_next h

theorem execCompletionDecrement_canonical (k : Nat) (s : State) (h : MemoryCanonical s) : OutCanonical (execCompletionDecrement k s) := by
  unfold execCompletionDecrement
  split
  · exact .of_next h
  · split
    · exact .of_next h
    · split
      · exact .of_next h
      · split
        · split
          · exact .of_next (hubAct_canonical _ _ (fun _ hu => decrementSignal_canonical _ _ _ hu) h)
          · exact .of_next h
        · split
          · exact .of_next (hubAct_canonical _ _ (fun _ hu => closeGrids_canonical _ (decrementSignal_canonical _ _ _ (modGrid_canonical _ _ _ hu))) h)
          · exact .of_next (closeGrids_canonical _ h)

theorem execShapeSourceTimeout_canonical (gid : Nat) (s : State) (h : MemoryCanonical s) : OutCanonical (execShapeSourceTimeout gid s) := by
  unfold execShapeSourceTimeout
  split
  · exact .of_next h
  · split
    · split
      · exact .of_next (shapeFault_canonical _ _ _ _ h)
      · exact .of_next h
    · exact .of_next h

theorem execSquashZeroFill_canonical (g : Nat) (s : State) (h : MemoryCanonical s) : OutCanonical (execSquashZeroFill g s) := by
  unfold execSquashZeroFill
  split
  · exact .of_next h
  · split
    · exact .of_next (hubAct_canonical _ _ (fun _ hu =>
        closeGrids_canonical _ (modGrid_canonical _ _ _ (freeGroup_canonical _ _ (zeroShare_canonical _ _ _ hu)))) h)
    · exact .of_next h

theorem execLaunchRelease_canonical (s : State) (h : MemoryCanonical s) : OutCanonical (execLaunchRelease s) := by
  unfold execLaunchRelease
  split
  · exact .of_next h
  · exact .of_next (releaseFirst_canonical _ _ _ h)

theorem execSignalWriteObserved_canonical (s : State) (h : MemoryCanonical s) : OutCanonical (execSignalWriteObserved s) := by
  unfold execSignalWriteObserved
  split
  · exact .of_next h
  · refine .of_next (foldl_canonical (fun u c hu => foldl_canonical (fun v e hv => ?_) _ _ hu) _ _ h)
    split
    · exact observeSignal_canonical _ _ _ _ hv
    · exact hv

theorem execNotifyEntryArm_canonical (n : Nat) (w : BitVec 64) (s : State) (h : MemoryCanonical s) : OutCanonical (execNotifyEntryArm n w s) := by
  unfold execNotifyEntryArm
  split
  · exact .of_next h
  · exact .of_next (armNotify_canonical _ _ h)

theorem execHostNotificationMessage_canonical (n : Nat) (s : State) (h : MemoryCanonical s) : OutCanonical (execHostNotificationMessage n s) := by
  unfold execHostNotificationMessage
  split
  · exact .of_next h
  · dsimp only
    split <;> exact .of_next h

/-! Placement and commit (R131 to R151) -/

theorem execBullpenFill_canonical (k : Nat) (s : State) (h : MemoryCanonical s) : OutCanonical (execBullpenFill k s) := by
  unfold execBullpenFill
  split
  · split
    · exact .of_next h
    · exact .of_next (fillBullpen_canonical _ _ _ h)
  · exact .of_next h

theorem execPlacementSlotFree_canonical (vc slot : Nat) (s : State) (h : MemoryCanonical s) : OutCanonical (execPlacementSlotFree vc slot s) := by
  unfold execPlacementSlotFree
  split
  · exact .of_next h
  · have hf := freeSlot_canonical s vc slot h
    refine .of_next ?_
    split
    · exact fillSlotAt_canonical _ _ _ hf
    · exact hf

theorem execPlacementDrain_canonical (vc slot : Nat) (s : State) (h : MemoryCanonical s) : OutCanonical (execPlacementDrain vc slot s) := by
  unfold execPlacementDrain
  split
  · exact .of_next h
  · split
    · exact .of_next (modPlace_canonical _ _ _ _ h)
    · exact .of_next h

theorem execThreadAdmit_canonical (vc slot : Nat) (s : State) (h : MemoryCanonical s) : OutCanonical (execThreadAdmit vc slot s) := by
  unfold execThreadAdmit
  split
  · exact .of_next h
  · split
    · exact .of_next h
    · split
      · split
        · exact .of_next h
        · exact .of_next (useBank_canonical _ _ _ (admitThread_canonical _ _ _ _ h))
      · exact .of_next h

theorem execStageReentry_canonical (vc slot stage : Nat) (s : State) (h : MemoryCanonical s) : OutCanonical (execStageReentry vc slot stage s) := by
  unfold execStageReentry
  split
  · exact .of_next h
  · split
    · exact .of_next h
    · exact .of_next h
    · split
      · exact .of_next h
      · exact .of_next (useBank_canonical _ _ _ (enterStage_canonical _ _ _ _ _ h))

theorem execDeferredSuccessorMove_canonical (vc frame : Nat) (s : State) (h : MemoryCanonical s) : OutCanonical (execDeferredSuccessorMove vc frame s) := by
  unfold execDeferredSuccessorMove
  split
  · split
    · exact .of_next h
    · exact .of_next (moveIfOver_canonical _ _ h)
  · exact .of_next h

/-! Watchdogs and fault commands (R349, R370 to R375) -/

theorem execBarrierStall_canonical (g w : Nat) (s : State) (h : MemoryCanonical s) : OutCanonical (execBarrierStall g w s) := by
  unfold execBarrierStall
  split
  · exact .of_next (barrierStall_canonical _ _ _ h)
  · exact .of_next h

theorem execHeldCommitStall_canonical (vc frame : Nat) (s : State) (h : MemoryCanonical s) : OutCanonical (execHeldCommitStall vc frame s) := by
  unfold execHeldCommitStall
  split
  · exact .of_next (heldCommitStall_canonical _ _ h)
  · exact .of_next h

theorem execFcmdResume_canonical (v : BitVec 64) (s : State) (h : MemoryCanonical s) : OutCanonical (execFcmdResume v s) := by
  unfold execFcmdResume
  dsimp only
  split
  · exact .of_next (fcmdResult_canonical _ _ _ (resumeParked_canonical _ _ h))
  · exact .of_next (fcmdResult_canonical _ _ _ (settleAckLoss_canonical _ _ h))
  · exact .of_next (fcmdResult_canonical _ _ _ h)

theorem execFcmdRedirect_canonical (v : BitVec 64) (s : State) (h : MemoryCanonical s) : OutCanonical (execFcmdRedirect v s) := by
  unfold execFcmdRedirect
  split
  · exact .of_next (fcmdResult_canonical _ _ _ h)
  · split
    · exact .of_next (fcmdResult_canonical _ _ _ h)
    · exact .of_next (fcmdResult_canonical _ _ _ (redirectParked_canonical _ _ _ h))

theorem execFcmdKillThread_canonical (v : BitVec 64) (s : State) (h : MemoryCanonical s) : OutCanonical (execFcmdKillThread v s) := by
  unfold execFcmdKillThread
  split
  · exact .of_next (fcmdResult_canonical _ _ _ h)
  · refine .of_next (fcmdResult_canonical _ _ _ (finishAway_canonical _ _ _ (leaveThread_canonical _ _ ?_)))
    split
    · exact h
    · exact settleAckLoss_canonical _ _ h

theorem execFcmdKillGroup_canonical (v : BitVec 64) (s : State) (h : MemoryCanonical s) : OutCanonical (execFcmdKillGroup v s) := by
  unfold execFcmdKillGroup
  split
  · exact .of_next (fcmdResult_canonical _ _ _ h)
  · split
    · split
      · exact .of_next (fcmdResult_canonical _ _ _ h)
      · exact .of_next (fcmdResult_canonical _ _ _ (killGroup_canonical _ _ _ h))
    · exact .of_next (fcmdResult_canonical _ _ _ h)

theorem execFcmdWriteSlot_canonical (v : BitVec 64) (s : State) (h : MemoryCanonical s) : OutCanonical (execFcmdWriteSlot v s) := by
  unfold execFcmdWriteSlot
  dsimp only
  split
  · exact .of_next (fcmdResult_canonical _ _ _ h)
  · exact .of_next (fcmdResult_canonical _ _ _ (landSlots_canonical _ _ _ _ _ h))

theorem execFcmdRepost_canonical (v : BitVec 64) (s : State) (h : MemoryCanonical s) : OutCanonical (execFcmdRepost v s) := by
  refine .of_next (fcmdResult_canonical _ _ _ (foldl_canonical (fun u t hu => ?_) _ _ h))
  split
  · exact postEvent_canonical _ _ hu
  · exact hu

theorem execFcmdResumeKind_canonical (v : BitVec 64) (s : State) (h : MemoryCanonical s) : OutCanonical (execFcmdResumeKind v s) :=
  .of_next (fcmdResult_canonical _ _ _ (foldl_canonical resumeParked_canonical _ _ h))

theorem execFcmdStep_canonical (v : BitVec 64) (s : State) (h : MemoryCanonical s) : OutCanonical (execFcmdStep v s) := by
  unfold execFcmdStep
  dsimp only
  split
  · exact .of_next (fcmdResult_canonical _ _ _ h)
  · split
    · exact .of_next (fcmdResult_canonical _ _ _ (tryCommit_canonical _ _ _ _ h))
    · exact .of_next (fcmdResult_canonical _ _ _ h)

theorem execDhaltSet_canonical (vc : Nat) (s : State) (h : MemoryCanonical s) : OutCanonical (execDhaltSet vc s) := by
  unfold execDhaltSet
  split <;> exact .of_next h

/-! Quiesce, dugouts and die reset (R247, R379 to R388) -/

theorem execDugoutEvict_canonical (g : Nat) (s : State) (h : MemoryCanonical s) : OutCanonical (execDugoutEvict g s) := by
  unfold execDugoutEvict
  split
  · exact .of_next h
  · split
    · split
      · exact .of_next (evictTo_canonical _ _ _ _ h)
      · exact .of_next h
    · exact .of_next h

theorem execQuiescePhaseAdvance_canonical (ctx : Nat) (s : State) (h : MemoryCanonical s) : OutCanonical (execQuiescePhaseAdvance ctx s) := by
  unfold execQuiescePhaseAdvance
  have h0 : MemoryCanonical (if phaseOf s ctx == 2 then settleInsts s fun t => t.ctx == ctx else s) := by
    split
    · exact settleInsts_canonical _ _ h
    · exact h
  generalize (if phaseOf s ctx == 2 then settleInsts s fun t => t.ctx == ctx else s) = s0 at h0 ⊢
  dsimp only
  split
  · exact .of_next h0
  · split
    · exact .of_next (enterPhase_canonical _ _ _ h0)
    · exact .of_next h0

theorem execDieCutAnswer_canonical (ctx d : Nat) (s : State) (h : MemoryCanonical s) : OutCanonical (execDieCutAnswer ctx d s) := by
  unfold execDieCutAnswer
  split
  · exact .of_next h
  · dsimp only
    split
    · exact .of_next h
    · refine .of_next ?_
      split
      · exact enterPhase_canonical _ _ _ (modCtx_canonical _ _ _ h)
      · exact modCtx_canonical _ _ _ h

theorem execQuiesceResume_canonical (ctx : Nat) (s : State) (h : MemoryCanonical s) : OutCanonical (execQuiesceResume ctx s) := by
  unfold execQuiesceResume
  split
  · split
    · exact .of_next (resumeCtx_canonical _ _ h)
    · exact .of_next h
  · exact .of_next h

theorem execDrstGo_canonical (v : BitVec 32) (s : State) (h : MemoryCanonical s) : OutCanonical (execDrstGo v s) := by
  unfold execDrstGo
  dsimp only
  split
  · split
    · exact .of_next h
    · exact .of_next (settleInsts_canonical _ _ (setDie_canonical _ _ _ h))
  · exact .of_next h

theorem execDieResetWriteBack_canonical (s : State) (h : MemoryCanonical s) : OutCanonical (execDieResetWriteBack s) := by
  unfold execDieResetWriteBack
  split
  · exact .of_next h
  · rename_i d _
    have h0 := settleInsts_canonical s (threadOn s d) h
    dsimp only
    split
    · exact .of_next h0
    · exact .of_next (setDie_canonical _ _ _ (foldl_canonical (fun _ _ => writeBackFrom_canonical _ _ _) _ _ (clearGroups_canonical _ _ _ h0)))

theorem execDieResetOffline_canonical (s : State) (h : MemoryCanonical s) : OutCanonical (execDieResetOffline s) := by
  unfold execDieResetOffline
  split
  · exact .of_next h
  · split
    · exact .of_next (wipeDie_canonical _ _ h)
    · exact .of_next h

theorem execDieReadmit_canonical (s : State) (h : MemoryCanonical s) : OutCanonical (execDieReadmit s) := by
  unfold execDieReadmit
  split
  · exact .of_next (setDie_canonical _ _ _ (writeBackHome_canonical _ _ h))
  · exact .of_next (endReadmit_canonical _ _ h)
  · exact .of_next h

theorem execImageStatusLand_canonical (k : Nat) (s : State) (h : MemoryCanonical s) : OutCanonical (execImageStatusLand k s) := by
  unfold execImageStatusLand
  split
  · exact .of_next h
  · rename_i e he
    split
    · rename_i save tctx slot hk
      split
      · exact .of_next h
      · have h1 : MemoryCanonical (if save then saveImage s e.ctx tctx e.va else loadImage s e.ctx tctx e.va).1 := by
          split
          · exact saveImage_canonical _ _ _ _ h
          · exact loadImage_canonical _ _ _ _ h
        exact .of_next (settleEffects_canonical _ (landStatus_canonical _ _ _ _ (modEffect_canonical _ _ _ h1)))
    · exact .of_next h

/-! The package in service (R391 to R409) -/

theorem execCtxDestroy_canonical (ctx : Nat) (s : State) (h : MemoryCanonical s) : OutCanonical (execCtxDestroy ctx s) := by
  unfold execCtxDestroy
  split
  · exact .of_next (ctxResult_canonical _ _ _ _ h)
  · split
    · exact .of_next (ctxResult_canonical _ _ _ _ (destroyCtx_canonical _ _ h))
    · exact .of_next (ctxResult_canonical _ _ _ _ h)

theorem execHostWrite_canonical (pa : HostAddr) (data : List Byte) (s : State) (h : MemoryCanonical s) : OutCanonical (execHostWrite pa data s) := by
  unfold execHostWrite
  split
  · split
    · exact .of_next (serveHost_canonical _ _ h)
    · exact .of_next h
  · exact .of_next h

theorem execHostRead_canonical (pa : HostAddr) (n : Nat) (s : State) (h : MemoryCanonical s) : OutCanonical (execHostRead pa n s) := by
  unfold execHostRead
  split
  · split
    · exact .of_next (serveHost_canonical _ _ h)
    · exact .of_next (hostAnswer_canonical _ _ h)
  · exact .of_next (hostAnswer_canonical _ _ h)

theorem execWavelengthSpare_canonical (fibre wl : Nat) (s : State) (h : MemoryCanonical s) : OutCanonical (execWavelengthSpare fibre wl s) := by
  unfold execWavelengthSpare
  dsimp only
  split <;> exact .of_next h

theorem execFibreFailure_canonical (fibre : Nat) (s : State) (h : MemoryCanonical s) : OutCanonical (execFibreFailure fibre s) := by
  unfold execFibreFailure
  split
  · exact .of_next h
  · exact .of_next (clearFibre_canonical _ _ h)

theorem execHbmRowRemap_canonical (stack row : Nat) (s : State) (h : MemoryCanonical s) : OutCanonical (execHbmRowRemap stack row s) := by
  unfold execHbmRowRemap
  dsimp only
  split <;> exact .of_next h

theorem execPseudoChannelSwitch_canonical (stack ch : Nat) (s : State) (h : MemoryCanonical s) : OutCanonical (execPseudoChannelSwitch stack ch s) := by
  unfold execPseudoChannelSwitch
  dsimp only
  split <;> exact .of_next h

theorem execMonitorSample_canonical (u src v : Nat) (s : State) (h : MemoryCanonical s) : OutCanonical (execMonitorSample u src v s) := by
  unfold execMonitorSample
  dsimp only
  split
  · exact .of_next (modMon_canonical _ _ _ h)
  · refine .of_next ?_
    split
    · exact modMon_canonical _ _ _ h
    · exact h

theorem execFirmwareUpdate_canonical (img : FwImage) (s : State) (h : MemoryCanonical s) : OutCanonical (execFirmwareUpdate img s) := by
  unfold execFirmwareUpdate
  split <;> exact .of_next h

theorem execLifeCycleAdvance_canonical (c : LifeCommand) (s : State) (h : MemoryCanonical s) : OutCanonical (execLifeCycleAdvance c s) := by
  unfold execLifeCycleAdvance
  split <;> exact .of_next h

theorem execAttestationRequest_canonical (v : BitVec 32) (s : State) (h : MemoryCanonical s) : OutCanonical (execAttestationRequest v s) := by
  unfold execAttestationRequest
  split <;> exact .of_next h

theorem execAttestationReportDone_canonical (s : State) (h : MemoryCanonical s) : OutCanonical (execAttestationReportDone s) := by
  unfold execAttestationReportDone
  split
  · exact .of_next h
  · have answered : ∀ {u : State} (a : Aperture), MemoryCanonical u → MemoryCanonical { u with ap := a } := fun _ hu => hu
    refine .of_next (answered _ ?_)
    split
    · exact hubWrite_canonical _ _ _ h
    · exact h

theorem execPowerOnStart_canonical (r : StartFindings) (s : State) (h : MemoryCanonical s) : OutCanonical (execPowerOnStart r s) := by
  unfold execPowerOnStart
  dsimp only
  split
  · exact .of_next (withoutPower_canonical _ _ h)
  · have offline : ∀ (l : List Nat) (u : State), MemoryCanonical u → MemoryCanonical (l.foldl (fun s d => modDie s d fun x => { x with st := .offline }) u) :=
      foldl_canonical fun u d hu => modDie_canonical u d _ hu
    refine .of_next (offline _ _ ?_)
    rfl

/-! The aperture (R370) -/

theorem writeFcmd_canonical (v : BitVec 64) (s : State) (h : MemoryCanonical s) : OutCanonical (writeFcmd v s) := by
  unfold writeFcmd
  split
  · exact execFcmdResume_canonical _ _ h
  · exact execFcmdRedirect_canonical _ _ h
  · exact execFcmdKillThread_canonical _ _ h
  · exact execFcmdKillGroup_canonical _ _ h
  · exact execFcmdWriteSlot_canonical _ _ h
  · exact execFcmdRepost_canonical _ _ h
  · exact execFcmdResumeKind_canonical _ _ h
  · exact execFcmdStep_canonical _ _ h
  · exact .of_next h

theorem writeCtxcmd_canonical (v : BitVec 64) (s : State) (h : MemoryCanonical s) : OutCanonical (writeCtxcmd v s) := by
  unfold writeCtxcmd
  split
  · exact .of_next (createCtx_canonical _ _ h)
  · exact .of_next (createCtx_canonical _ _ h)
  · exact execCtxDestroy_canonical _ _ h
  · exact .of_next h

theorem writeObjcmd_canonical (v : BitVec 64) (s : State) (h : MemoryCanonical s) : OutCanonical (writeObjcmd v s) := by
  unfold writeObjcmd
  split
  · exact .of_next (registerObject_canonical _ _ h)
  · exact .of_next (unregisterObject_canonical _ _ _ h)
  · exact .of_next h

/-- The registers that hold several words or run a command over a range of offsets. -/
theorem apWriteRanges_canonical (off : Nat) (v : BitVec 64) (s : State) (h : MemoryCanonical s) : OutCanonical
    (if 0x0A0 ≤ off && off < 0x0C0 && off % 8 == 0 then .next (writeNonce s ((off - 0x0A0) / 8) v)
    else if 0x100 ≤ off && off < 0x500 && off % 16 == 0 then execNotifyEntryArm ((off - 0x100) / 16) v s
    else if 0x100 ≤ off && off < 0x500 && off % 16 == 8 then .next (writeThr s ((off - 0x100) / 16) v)
    else if 0x800 ≤ off && off ≤ 0x880 && off % 8 == 0 then .next (writeWindow s ((off - 0x800) / 8) v)
    else if 0x10000 ≤ off && off < 0x10000 + 128 * 152 then .next (writeMonBlock s off (v.setWidth 32))
    else .next s) := by
  split
  · exact .of_next (writeNonce_canonical _ _ _ h)
  split
  · exact execNotifyEntryArm_canonical _ _ _ h
  split
  · exact .of_next (writeThr_canonical _ _ _ h)
  split
  · exact .of_next (writeWindow_canonical _ _ _ h)
  split
  · exact .of_next (writeMonBlock_canonical _ _ _ h)
  · exact .of_next h

theorem apWrite_canonical (off : Nat) (v : BitVec 64) (s : State) (h : MemoryCanonical s) : OutCanonical (apWrite off v s) := by
  have put : ∀ a : Aperture, OutCanonical (.next { s with ap := a }) := fun _ => .of_next h
  unfold apWrite
  dsimp only
  split
  · split
    · exact .of_next h
    · exact writeFcmd_canonical _ _ h
  · exact put _
  · exact .of_next (writeDhalt_canonical _ _ _ h)
  · exact .of_next (writeDhalt_canonical _ _ _ h)
  · exact execDrstGo_canonical _ _ h
  · split
    · exact .of_next h
    · exact put _
  · split
    · exact .of_next h
    · exact put _
  · exact put _
  · exact put _
  · exact put _
  · exact execAttestationRequest_canonical _ _ h
  · exact put _
  · exact put _
  · exact writeCtxcmd_canonical _ _ h
  · exact put _
  · exact writeObjcmd_canonical _ _ h
  · exact apWriteRanges_canonical _ _ _ h/-! Every instruction, every act, every step -/

/-- Whatever state with memory in canonical form an event happens in, memory is in that form after it. -/
theorem exec_event_canonical {i : Instr} (s : State) (hi : isWord i = false) (h : MemoryCanonical s) : OutCanonical (exec i s) := by
  cases i with
  | signalWriteObserved => exact execSignalWriteObserved_canonical _ h
  | recordReachesHead => exact .of_next (hubAct_canonical _ _ (fun _ => recordReachesHead_canonical _ _ _) h)
  | launchRelease => exact execLaunchRelease_canonical _ h
  | groupHandout => exact execGroupHandout_canonical _ h
  | groupStart => exact execGroupStart_canonical _ _ h
  | shapeSourceTimeout => exact execShapeSourceTimeout_canonical _ _ h
  | squashZeroFill => exact execSquashZeroFill_canonical _ _ h
  | groupRetire => exact execGroupRetire_canonical _ _ h
  | completionDecrement => exact execCompletionDecrement_canonical _ _ h
  | notifyEntryArm => exact execNotifyEntryArm_canonical _ _ _ h
  | hostNotificationMessage => exact execHostNotificationMessage_canonical _ _ h
  | bullpenFill => exact execBullpenFill_canonical _ _ h
  | placementSlotFree => exact execPlacementSlotFree_canonical _ _ _ h
  | placementDrain => exact execPlacementDrain_canonical _ _ _ h
  | threadAdmit => exact execThreadAdmit_canonical _ _ _ h
  | stageReentry => exact execStageReentry_canonical _ _ _ _ h
  | loadReturn => exact .of_next (loadReturn_canonical _ _ _ _ h)
  | threadCommit => exact .of_next (tryCommit_canonical _ _ _ _ h)
  | atomicResultLand => exact execAtomicResultLand_canonical _ _ h
  | deferredSuccessorMove => exact execDeferredSuccessorMove_canonical _ _ _ h
  | pageWalk => exact .of_next (pageWalk_canonical _ _ _ h)
  | fuDone => exact .of_next (writeFuDone_canonical _ _ h)
  | dugoutEvict => exact execDugoutEvict_canonical _ _ h
  | writePlacement => exact execWritePlacement_canonical _ _ h
  | gaAcknowledge => exact execGaAcknowledge_canonical _ _ h
  | ackRetry => exact execAckRetry_canonical _ _ h
  | ackLossResolution => exact execAckLossResolution_canonical _ _ _ h
  | peerWritePerform => exact execPeerWritePerform_canonical _ _ h
  | peerFlowRefused => exact execPeerFlowRefused_canonical _ _ _ h
  | copyStart => exact execCopyStart_canonical _ _ _ h
  | copyLineWrite => exact execCopyLineWrite_canonical _ _ _ h
  | copyComplete => exact execCopyComplete_canonical _ _ _ h
  | volleyPermit => exact execVolleyPermit_canonical _ _ h
  | tileOpFire => exact execTileOpFire_canonical _ _ h
  | accumulatorStoreDone => exact execAccumulatorStoreDone_canonical _ _ h
  | tfenceStatusLand => exact execTfenceStatusLand_canonical _ _ h
  | barrierStall => exact execBarrierStall_canonical _ _ _ h
  | heldCommitStall => exact execHeldCommitStall_canonical _ _ _ h
  | eventQueueRetry => exact .of_next (retryEvents_canonical _ _ h)
  | fcmdResume => exact execFcmdResume_canonical _ _ h
  | fcmdRedirect => exact execFcmdRedirect_canonical _ _ h
  | fcmdKillThread => exact execFcmdKillThread_canonical _ _ h
  | fcmdKillGroup => exact execFcmdKillGroup_canonical _ _ h
  | fcmdWriteSlot => exact execFcmdWriteSlot_canonical _ _ h
  | fcmdRepost => exact execFcmdRepost_canonical _ _ h
  | fcmdResumeKind => exact execFcmdResumeKind_canonical _ _ h
  | fcmdStep => exact execFcmdStep_canonical _ _ h
  | dhaltSet => exact execDhaltSet_canonical _ _ h
  | dhaltClear => exact .of_next h
  | quiesceRequest => exact .of_next (writeReq_canonical _ _ _ h)
  | quiescePhaseAdvance => exact execQuiescePhaseAdvance_canonical _ _ h
  | dieCutAnswer => exact execDieCutAnswer_canonical _ _ _ h
  | quiesceResume => exact execQuiesceResume_canonical _ _ h
  | imageStatusLand => exact execImageStatusLand_canonical _ _ h
  | drstGo => exact execDrstGo_canonical _ _ h
  | dieResetWriteBack => exact execDieResetWriteBack_canonical _ h
  | dieResetOffline => exact execDieResetOffline_canonical _ h
  | dieReadmit => exact execDieReadmit_canonical _ h
  | ctxCreate | ctxCreateSupervisor => exact .of_next (createCtx_canonical _ _ h)
  | ctxDestroy => exact execCtxDestroy_canonical _ _ h
  | objRegister => exact .of_next (registerObject_canonical _ _ h)
  | objUnregister => exact .of_next (unregisterObject_canonical _ _ _ h)
  | vctWrite => exact .of_next (writeVct_canonical _ _ _ h)
  | sigtNWrite => exact .of_next (writeSigtN_canonical _ _ _ h)
  | registerWrite => exact apWrite_canonical _ _ _ h
  | attestationRequest => exact execAttestationRequest_canonical _ _ h
  | attestationReportDone => exact execAttestationReportDone_canonical _ h
  | firmwareUpdate => exact execFirmwareUpdate_canonical _ _ h
  | lifeCycleAdvance => exact execLifeCycleAdvance_canonical _ _ h
  | powerOnStart => exact execPowerOnStart_canonical _ _ h
  | powerLoss => exact .of_next (withoutPower_canonical _ _ h)
  | monitorEnable | monitorSnap => exact .of_next (modMon_canonical _ _ _ h)
  | monitorSample => exact execMonitorSample_canonical _ _ _ _ h
  | clockStep => exact .of_next h
  | patrolScrub => exact .of_next (foldl_canonical countCorrected_canonical _ _ h)
  | uncorrectableError => exact .of_next (uncorrectable_canonical _ _ h)
  | hbmRowRemap => exact execHbmRowRemap_canonical _ _ _ h
  | pseudoChannelSwitch => exact execPseudoChannelSwitch_canonical _ _ _ h
  | wavelengthSpare => exact execWavelengthSpare_canonical _ _ _ h
  | fibreFailure => exact execFibreFailure_canonical _ _ h
  | cacheWaySpare => exact .of_next (emptyWay_canonical _ _ _ h)
  | thlLaneFailure => exact .of_next h
  | hostWrite => exact execHostWrite_canonical _ _ _ h
  | hostRead => exact execHostRead_canonical _ _ _ h
  | writePerformedInL2 => exact execWritePerformedInL2_canonical _ _ h
  | peerWriteAcknowledged => exact execPeerWriteAcknowledged_canonical _ _ h
  | hostWriteAccepted => exact execHostWriteAccepted_canonical _ _ h
  | peerReadRequest => exact execPeerReadRequest_canonical _ _ h
  | bullpenProtectionExpiry => exact .of_next (modCore_canonical _ _ _ h)
  | _ => cases hi

/-- Whatever state with memory in canonical form an instruction or event runs in, memory is in that form after it. -/
theorem exec_canonical (i : Instr) (s : State) (h : MemoryCanonical s) : OutCanonical (exec i s) := by
  cases hi : isWord i with
  | true => exact exec_word_canonical s hi h
  | false => exact exec_event_canonical s hi h

theorem runFire_canonical (s : State) (vc frame idx : Nat) (h : MemoryCanonical s) : OutCanonical (runFire s vc frame idx) := by
  unfold runFire
  split
  · exact .of_next h
  · split
    · split
      · exact exec_canonical _ _ h
      · exact .of_next (badWord_canonical _ _ _ _ _ h)
    · exact .of_next (badWord_canonical _ _ _ _ _ h)

theorem perform_canonical (a : Act) (s : State) (h : MemoryCanonical s) : OutCanonical (perform a s) := by
  cases a with
  | fire vc frame idx => exact flushed_canonical _ (runFire_canonical _ _ _ _ h)
  | event i => exact flushed_canonical _ (exec_canonical _ _ h)
  | idle n => exact .of_next (passTicks_canonical _ _ h)
  | peerReply vc uid idx refused data => exact .of_next (answerTo_canonical _ _ h)
  | clockLimits region floor ceil => exact .of_next (clockLimits_canonical _ _ _ _ h)
  | flits n resent => exact .of_next (countFlits_canonical _ _ _ h)

/-- A step runs the head of the agenda, an act of the machine's own, or lets a tick pass; each keeps the form. -/
theorem step_canonical (s : State) (h : MemoryCanonical s) : OutCanonical (step s) := by
  have agenda : ∀ rest, MemoryCanonical { s with agenda := rest } := fun _ => h
  unfold step
  split
  · split
    · exact .of_fault _
    · split
      · exact perform_canonical _ _ (agenda _)
      · exact .of_next (agenda _)
  · split
    · split
      · exact perform_canonical _ _ h
      · exact .of_next (passTicks_canonical _ _ h)
    · exact .of_next (passTicks_canonical _ _ h)

/-- Settles O7: every step keeps the placed memory in canonical form. -/
theorem stepKeepsMemoryCanonical : Obligations.StepKeepsMemoryCanonical := fun s t h e => (step_canonical s h).next t e

end Sys2Proof.Machine
end

section
/-! PROOFS (O29). What a load does when it fires: a request at the address that it forms, 0 out of bounds, a check that fails kept for the commit, and for
`ldsn` the bytes at once (R230, R233, R234, R237, R248, R253 to R259). -/
namespace Sys2Proof.Machine

/-! Global loads (R233, R234, R253) -/

section
variable {s : State} {x : Site} {buf idx w : Nat}

theorem globalLoad_out (h : bufAddr (bufOf s x.t buf) idx (hoffAt x.ws x.idx) w .read = .out) : globalLoad s x buf idx w = (s, .tok (valTok 0)) := by
  rw [globalLoad, h]

theorem globalLoad_fault {e : AccFault} (h : bufAddr (bufOf s x.t buf) idx (hoffAt x.ws x.idx) w .read = .fault e) :
    globalLoad s x buf idx w = (s, .req 0 (.failed e)) := by
  rw [globalLoad, h]

theorem globalLoad_translated {va pa mt : Nat} (h : bufAddr (bufOf s x.t buf) idx (hoffAt x.ws x.idx) w .read = .va va)
    (ht : translate s { x.t with inst := some x.ins } (cidfOf s x.t) va .read = .pa pa mt) : globalLoad s x buf idx w = (s, .req va .pending) := by
  rw [globalLoad, h]
  dsimp only
  rw [ht]

end

/-- What a global load that fires does, by where its address formation ends. -/
theorem fireLoad_global {i : Instr} {s : State} {x : Site} {sh : Shape} {buf w : Nat} (hi : shape i = some sh) (h : Computes s x sh) :
    let o := fireLoad i s fun x sh => globalLoad s x buf (portVal s x sh 0) w
    let where_ := bufAddr (bufOf s x.t buf) (portVal s x sh 0) (hoffAt x.ws x.idx) w .read
    (where_ = .out → Sends o s x (valTok 0) 0) ∧ (∀ e, where_ = .fault e → Issues o s x 0 (.failed e)) ∧
    ∀ va, where_ = .va va → ∀ pa mt, translate s { x.t with inst := some x.ins } (cidfOf s x.t) va .read = .pa pa mt → Issues o s x va .pending :=
  ⟨fun hw => fireLoad_token hi h (globalLoad_out hw), fun _ hw => fireLoad_request hi h (globalLoad_fault hw),
    fun _ hw _ _ ht => fireLoad_request hi h (globalLoad_translated hw ht)⟩

/-! Scratchpad offsets (R237, R252) -/

section
variable {units w : Nat} {off : Int}

theorem spadAddr_outside (h : off < 0 ∨ ((units * 16384 : Nat) : Int) < off + w) : spadAddr units off w = .fault (prot 7 0) := by
  unfold spadAddr
  rw [if_pos (by simpa using h)]

theorem spadAddr_misaligned (h0 : 0 ≤ off) (h1 : off + w ≤ ((units * 16384 : Nat) : Int)) (hw : off.toNat % w ≠ 0) :
    spadAddr units off w = .fault (prot 5 0) := by
  unfold spadAddr
  rw [if_neg (by simp only [Bool.or_eq_true, decide_eq_true_eq]; omega), if_pos (by simpa using hw)]

theorem spadAddr_inside (h0 : 0 ≤ off) (h1 : off + w ≤ ((units * 16384 : Nat) : Int)) (hw : off.toNat % w = 0) : spadAddr units off w = .va off.toNat := by
  unfold spadAddr
  rw [if_neg (by simp only [Bool.or_eq_true, decide_eq_true_eq]; omega), if_neg (by simpa using hw)]

end

/-! Scratchpad loads (R255, R258, R378) -/

section
variable {s : State} {x : Site} {f : FmtM} {sh : Shape}

theorem exec_lds_fault {e : AccFault} (hi : shape (.lds f) = some sh) (h : Computes s x sh)
    (ha : scratchAddr s x (portVal s x sh 0) (accessBytes f.wcode) = .fault e) : Issues (exec (.lds f) s) s x 0 (.failed e) :=
  fireLoad_request hi h (by rw [ha])

theorem exec_lds_va {o : Nat} (hi : shape (.lds f) = some sh) (h : Computes s x sh)
    (ha : scratchAddr s x (portVal s x sh 0) (accessBytes f.wcode) = .va o) : Issues (exec (.lds f) s) s x o .pending :=
  fireLoad_request hi h (by rw [ha])

theorem exec_ldsn_fault {e : AccFault} (hi : shape (.ldsn f) = some sh) (h : Computes s x sh)
    (ha : scratchAddr s x (portVal s x sh 0) (accessBytes f.wcode) = .fault e) : Issues (exec (.ldsn f) s) s x 0 (.failed e) :=
  fireLoad_request hi h (by dsimp only; rw [ha])

/-- What an `ldsn` does at an offset that its checks pass: an error in its line fails it, a write that its thread owes makes it wait, and otherwise it reads. -/
theorem exec_ldsn_va {o : Nat} (hi : shape (.ldsn f) = some sh) (h : Computes s x sh)
    (ha : scratchAddr s x (portVal s x sh 0) (accessBytes f.wcode) = .va o) :
    let w := accessBytes f.wcode
    let owed := ownScratch s x.t.vc x.t.uid ((unitsOf s x.t).2 * 16384 + o) w
    (badScratch s x.t o w = true → Issues (exec (.ldsn f) s) s x o (.failed ⟨0x0A, 3, 0, o, 0⟩)) ∧
    (badScratch s x.t o w = false → owed = true → Issues (exec (.ldsn f) s) s x o .pending) ∧
    (badScratch s x.t o w = false → owed = false →
      Sends (exec (.ldsn f) s) s x (valTok (extendLoad f.wcode (natLE (spadRead s x.t.vc (unitsOf s x.t).2 o w)))) 0) := by
  refine ⟨fun hbad => fireLoad_request hi h ?_, fun hbad howed => fireLoad_request hi h ?_, fun hbad howed => fireLoad_token hi h ?_⟩
  · simp only [ha, hbad, if_true]
  · simp [ha, hbad, howed]
  · simp [ha, hbad, howed]

/-! Peer loads (R248, R253) -/

theorem exec_pld_misaligned (hi : shape (.pld f) = some sh) (h : Computes s x sh) (hva : portVal s x sh 0 % accessBytes f.wcode ≠ 0) :
    Issues (exec (.pld f) s) s x (portVal s x sh 0) (.failed (prot 5 (portVal s x sh 0))) :=
  fireLoad_request hi h (if_pos (by simpa using hva))

theorem exec_pld_closed (hi : shape (.pld f) = some sh) (h : Computes s x sh) (hva : portVal s x sh 0 % accessBytes f.wcode = 0)
    (hch : (openChannel s x.t.ctx f.buf.toNat).2 = none) :
    IssuesIn (exec (.pld f) s) s (openChannel s x.t.ctx f.buf.toNat).1 x (portVal s x sh 0) (.failed (prot 9 (portVal s x sh 0))) :=
  fireLoad_request hi h (by simp [hva, hch])

theorem exec_pld_open (hi : shape (.pld f) = some sh) (h : Computes s x sh) (hva : portVal s x sh 0 % accessBytes f.wcode = 0)
    (hch : (openChannel s x.t.ctx f.buf.toNat).2 ≠ none) :
    IssuesIn (exec (.pld f) s) s (openChannel s x.t.ctx f.buf.toNat).1 x (portVal s x sh 0) .pending :=
  fireLoad_request hi h (by simp [hva, Option.isSome_iff_ne_none.mpr hch])

end

/-- `ldsn` takes its operands as a load does; only its latency differs (R146). -/
theorem shape_ldsn {f : FmtM} {sh : Shape} (hi : shape (.ld f) = some sh) : shape (.ldsn f) = some { sh with long := false } := by
  cases hi; rfl

/-- Settles O29: what each load does when it fires, by where its address formation and its checks end. -/
theorem loadsIssueRequests : Obligations.LoadsIssueRequests := by
  refine ⟨fun s x f sh hi h => ?_, fun s x f sh hi h => ?_⟩
  · have hn := shape_ldsn hi
    refine ⟨fireLoad_global hi h, fireLoad_global (i := .ldc f) hi h, fireLoad_global (i := .ldacq f) hi h, ?_⟩
    refine ⟨fun hout => exec_lds_fault hi h (spadAddr_outside hout), fun h0 h1 hw => exec_lds_fault hi h (spadAddr_misaligned h0 h1 hw),
      fun h0 h1 hw => exec_lds_va hi h (spadAddr_inside h0 h1 hw),
      fun hout => exec_ldsn_fault hn h (spadAddr_outside hout), fun h0 h1 hw => exec_ldsn_fault hn h (spadAddr_misaligned h0 h1 hw),
      fun h0 h1 hw => ?_, fun h0 h1 hw => ?_, fun h0 h1 hw => ?_⟩
    all_goals obtain ⟨hfails, hwaits, hreads⟩ := exec_ldsn_va hn h (spadAddr_inside h0 h1 hw)
    · exact hfails
    · exact hwaits
    · exact hreads
  · exact ⟨exec_pld_misaligned hi h, exec_pld_closed hi h, exec_pld_open hi h⟩

end Sys2Proof.Machine
end

section
/-! PROOFS (O43). What LOAD_RETURN sends: the kind of the word that waits decides what serves it, and each service its cases (R241, R254 to R259, R264). -/
namespace Sys2Proof.Machine

section
variable {s : State} {vc frame idx : Nat} {t : Thread} {ins : Inst} {ws : List (Option Instr)} {l : LoadReq}

/-- A load that waits, served by what its word's kind names. -/
def servedAs (s : State) (t : Thread) (ins : Inst) (ws : List (Option Instr)) (l : LoadReq) : Option Instr → State
  | some (.ld f) => returnGlobal s t ins ws l f.wcode false
  | some (.ldc f) => returnGlobal s t ins ws l f.wcode false
  | some (.ldacq f) => returnGlobal s t ins ws l f.wcode true
  | some (.lds f) => returnScratch s t ins ws l f.wcode true
  | some (.ldsn f) => returnScratch s t ins ws l f.wcode false
  | some (.pld f) => returnPeer s t ins ws l f.wcode
  | _ => s

theorem exec_loadReturn_waits (h : LoadWaits s vc frame idx t ins ws l) {w : Option Instr} (hw : ws.getD idx none = w) :
    exec (.loadReturn vc frame idx) s = .next (servedAs s t ins ws l w) := by
  obtain ⟨ht, hins, pl, hpl, rfl, hl⟩ := h
  show execLoadReturn vc frame idx s = _
  unfold execLoadReturn loadReturn
  rw [ht]
  dsimp only
  rw [hins]
  dsimp only
  rw [hpl, hl]
  dsimp only
  rw [hw]
  rfl

/-- A translated global load that no atomic of its thread holds back sends the bytes read, after its acquire where it has one. -/
theorem returnGlobal_reads {code pa mt : Nat} {acq : Bool} {s1 : State} {bs : List Byte} (hx : translate s t (cidfOf s t) l.va .read = .pa pa mt)
    (ha : atomicInFlight s t.uid pa (accessBytes code) = false)
    (hr : readGlobal (if acq then acquireOn s t.vc t.ctx (if mt == 0 then 1 else 4) else s) t pa mt (accessBytes code) l.va = (s1, .ok bs)) :
    returnGlobal s t ins ws l code acq = returnLoad s1 t ins ws l.idx (extendLoad code (natLE bs)) := by
  unfold returnGlobal
  rw [hx]
  dsimp only
  rw [if_neg (by simp [ha]), hr]

/-- A scratchpad load waits for its line, where it does, and for the writes that its thread owes. -/
theorem returnScratch_waits {code : Nat} {waits : Bool} (h : (waits = true ∧ linePresent s t.vc (((unitsOf s t).2 * 16384 + l.va) / 64) = false) ∨
      ownScratch s t.vc t.uid ((unitsOf s t).2 * 16384 + l.va) (accessBytes code) = true) : returnScratch s t ins ws l code waits = s := by
  unfold returnScratch
  dsimp only
  rw [if_pos (by simpa using h)]

/-- A scratchpad load that waits for nothing sends its bytes, or fails by an error in its line. -/
theorem returnScratch_served {code : Nat} {waits : Bool} (hline : waits = true → linePresent s t.vc (((unitsOf s t).2 * 16384 + l.va) / 64) = true)
    (howed : ownScratch s t.vc t.uid ((unitsOf s t).2 * 16384 + l.va) (accessBytes code) = false) :
    returnScratch s t ins ws l code waits = if badScratch s t l.va (accessBytes code) then setLoad s t ins l.idx (.failed ⟨0x0A, 3, 0, l.va, 0⟩) []
      else returnLoad s t ins ws l.idx (extendLoad code (natLE (spadRead s t.vc (unitsOf s t).2 l.va (accessBytes code)))) := by
  unfold returnScratch
  dsimp only
  rw [if_neg (by cases waits <;> simp_all)]

theorem returnPeer_answered {code : Nat} {r : PeerReply} (hr : (s.replies.find? fun r => r.vc == t.vc && r.uid == t.uid && r.idx == l.idx) = some r)
    (hok : r.refused = none) : returnPeer s t ins ws l code =
      returnLoad { s with replies := s.replies.filter fun x => x != r } t ins ws l.idx (extendLoad code (natLE (r.data.take (accessBytes code)))) := by
  unfold returnPeer
  rw [hr]
  dsimp only
  rw [hok]

end

/-- Settles O43: by the kind of the word that waits, and the cases of what serves it. -/
theorem loadsReturn : Obligations.LoadsReturn := by
  intro s vc frame idx t ins ws l h o
  refine ⟨fun f pa mt bs s1 hw hx ha hr => ?_, fun f pa mt bs s1 hw hx ha hr => ?_, fun f hw => ?_, fun f r hw hr hok => ?_⟩
  · have hserved := returnGlobal_reads (ins := ins) (ws := ws) (acq := false) hx ha hr
    rcases hw with hw | hw
    · exact (exec_loadReturn_waits h hw).trans (congrArg _ hserved)
    · exact (exec_loadReturn_waits h hw).trans (congrArg _ hserved)
  · exact (exec_loadReturn_waits h hw).trans (congrArg _ (returnGlobal_reads (acq := true) hx ha (by simpa using hr)))
  · intro p there owed
    have ho : ∃ waits, o = .next (returnScratch s t ins ws l f.wcode waits) ∧ (there ↔ (waits = true → linePresent s t.vc (p / 64) = true)) := by
      rcases hw with hw | hw
      · exact ⟨true, exec_loadReturn_waits h hw, ⟨fun hline _ => hline hw, fun hline _ => hline rfl⟩⟩
      · exact ⟨false, exec_loadReturn_waits h hw, by simp only [there, hw]; simp⟩
    obtain ⟨waits, ho, hthere⟩ := ho
    refine ⟨fun hline howed hbad => ?_, fun hline howed hbad => ?_, fun hwait => ?_⟩
    · rw [ho, returnScratch_served (hthere.mp hline) howed, if_neg (by simp [hbad])]
    · rw [ho, returnScratch_served (hthere.mp hline) howed, if_pos hbad]
    · rw [ho, returnScratch_waits]
      exact hwait.imp_left fun hnot => by simpa using (not_congr hthere).mp hnot
  · exact (exec_loadReturn_waits h hw).trans (congrArg _ (returnPeer_answered hr hok))

end Sys2Proof.Machine
end

section
/-! PROOFS (O39). A store that is performed in its die's slice: the die's overlay holds its bytes, only lines of caches change beside it, and memory waits for
the placement (R242, R243, R328, R329). -/
namespace Sys2Proof.Machine

/-! Overlays (R328) -/

theorem mem_allCells {a : Nat} {bs : List Byte} {c : Host.Cell} (h : c ∈ allCells a bs) : a ≤ c.1 ∧ c.1 < a + bs.length := by
  induction bs generalizing a with
  | nil => cases h
  | cons b r ih =>
    rcases List.mem_cons.mp h with rfl | h
    · simp
    · obtain ⟨hlo, hhi⟩ := ih h
      simp only [List.length_cons]
      omega

/-- Each byte of a run has its cell. -/
theorem find?_allCells (a : Nat) (bs : List Byte) {i : Nat} (hi : i < bs.length) : (allCells a bs).find? (fun c => c.1 == a + i) = some (a + i, bs[i]) := by
  induction bs generalizing a i with
  | nil => simp at hi
  | cons b r ih =>
    cases i with
    | zero => simp [allCells]
    | succ j =>
      have hj : j < r.length := by simpa using hi
      have ha : a + (j + 1) = a + 1 + j := by omega
      rw [allCells, List.find?_cons_of_neg (by simp), ha, ih (a + 1) hj]
      rfl

/-- Inside a run that is written over it an overlay holds the run's cells alone. -/
theorem ovWrite_inside (m : Memory) (a : Nat) (bs : List Byte) :
    (ovWrite m a bs).filter (fun c => decide (a ≤ c.1) && decide (c.1 < a + bs.length)) = allCells a bs := by
  have houtside : ∀ p : Host.Cell → Bool, (∀ c, p c = true → c.1 < a ∨ a + bs.length ≤ c.1) →
      (m.filter p).filter (fun c => decide (a ≤ c.1) && decide (c.1 < a + bs.length)) = [] := fun p hp => by
    refine List.filter_eq_nil_iff.mpr fun c hc hin => ?_
    have hout := hp c (List.mem_filter.mp hc).2
    simp only [Bool.and_eq_true, decide_eq_true_eq] at hin
    omega
  rw [ovWrite, List.filter_append, List.filter_append, houtside _ fun c hc => .inl (by simpa using hc),
    houtside _ fun c hc => .inr (by simpa using hc), List.nil_append, List.append_nil]
  exact List.filter_eq_self.mpr fun c hc => by simpa using mem_allCells hc

/-- A die whose overlay has taken a run shows the run's bytes. -/
theorem dieRead_ovWrite {s : State} {d a : Nat} {bs : List Byte} {m : Memory} (h : (die s d).overlay = ovWrite m a bs) : dieRead s d a bs.length = bs := by
  unfold dieRead
  dsimp only
  rw [h, ovWrite_inside]
  refine List.ext_getElem (by simp) fun i hi _ => ?_
  have hi : i < bs.length := by simpa using hi
  simp only [List.getElem_map, List.getElem_range, find?_allCells a bs hi]

/-! Lines of the caches (R242, R243) -/

theorem dropLine_cachesOnly (s : State) (line : Nat) (but : Option Nat) : CachesOnly s (dropLine s line but) := by
  refine foldl_cachesOnly (fun s d => ?_) _ s
  split
  · exact .refl s
  · exact (writeBackFrom_cachesOnly ..).trans (modDie_cachesOnly _ _ fun _ => rfl)

theorem writeL2_cachesOnly (s : State) (d line o : Nat) (bs : List Byte) : CachesOnly s (writeL2 s d line o bs) := by
  unfold writeL2
  dsimp only
  have hfetched : CachesOnly s (if fetchesFirst (l2Find (dropLine s line (some d)) d line) o bs.length then
      touchL3 (dropLine s line (some d)) line 0 none else dropLine s line (some d)) := by
    split
    · exact (dropLine_cachesOnly ..).trans (touchL3_cachesOnly ..)
    · exact dropLine_cachesOnly ..
  split
  · exact hfetched.trans (modDie_cachesOnly _ _ fun _ => rfl)
  · exact hfetched.trans (insertL2_cachesOnly ..)

theorem dirtyRuns_cachesOnly (s : State) (d : Nat) (rs : Runs) : CachesOnly s (dirtyRuns s d rs) :=
  foldl_cachesOnly (fun s _ => foldl_cachesOnly (fun s _ => writeL2_cachesOnly s d _ _ _) _ s) _ s

theorem updateOwn_cachesOnly (s : State) (e : Effect) (rs : Runs) : CachesOnly s (updateOwn s e rs) :=
  foldl_cachesOnly (f := fun s vc => updateL1 s vc e.ctx rs) (fun s vc => modCore_cachesOnly s vc fun _ => rfl) _ s

/-- Where the caches alone differ, every die shows what it showed beside memory. -/
theorem CachesOnly.overlay {s t : State} (h : CachesOnly s t) (d : Nat) : (die t d).overlay = (die s d).overlay := by
  obtain ⟨-, -, hdies, -⟩ := h
  have hoverlays : t.dies.map Die.overlay = s.dies.map Die.overlay := by
    simpa only [List.map_map, Function.comp_def] using congrArg (List.map Die.overlay) hdies
  calc (die t d).overlay = (t.dies.map Die.overlay).getD d Die.reset.overlay := (List.getD_map _ _ _).symm
    _ = (s.dies.map Die.overlay).getD d Die.reset.overlay := by rw [hoverlays]
    _ = (die s d).overlay := List.getD_map _ _ _

/-! The store (R328, R329) -/

/-- The state in which an effect stands in its die's overlay, before lines of caches take it. -/
def shownOn (s : State) (e : Effect) : State :=
  let d := dieOf s e.vc
  let n := (die s d).sendN
  let s0 := modDie s d fun x => { x with
    overlay := e.runs.foldl (fun o r => ovWrite o r.1 r.2) x.overlay
    inbox := x.inbox.map (fun m => { m with runs := runsWithout m.runs (runsHas e.runs) })
    sendN := n + 1 }
  modEffect { s0 with hub := { s0.hub with badSectors := cleanSectors s0.hub.badSectors e.runs } } e.id fun x => { x with st := .onDie n }

theorem showOnDie_cachesOnly (s : State) (e : Effect) : CachesOnly (shownOn s e) (showOnDie s e) :=
  (dirtyRuns_cachesOnly ..).trans (updateOwn_cachesOnly ..)

theorem placed_showOnDie (s : State) (e : Effect) : (showOnDie s e).hub.placed = s.hub.placed := (showOnDie_cachesOnly s e).placed

theorem overlay_showOnDie {s : State} {e : Effect} (h : dieOf s e.vc < s.dies.length) :
    (die (showOnDie s e) (dieOf s e.vc)).overlay = e.runs.foldl (fun o r => ovWrite o r.1 r.2) (die s (dieOf s e.vc)).overlay := by
  rw [(showOnDie_cachesOnly s e).overlay]
  exact congrArg Die.overlay (die_modDie_same s _ _ h)

/-- A store that nothing holds back is performed in its die's slice. -/
theorem performInL2_store {s : State} {x : Effect} (hk : x.kind = .store) (hst : x.st = .committed) (hga : x.ga = false) (hmt : x.mt = 0)
    (hruns : x.runs.isEmpty = false) (hb : blocked s x = false) (hw : homeWaits s x = false)
    (ho : overtakes s x (fun y => y != .committed) = false) : performInL2 s x = settleEffects (showOnDie s x) := by
  unfold performInL2
  rw [if_neg (by simp [hst, hga, hmt, hruns, hb, hw, ho])]
  dsimp only
  rw [hk]

theorem exec_writePerformedInL2 {s : State} {e : Nat} {x : Effect} (h : effect? s e = some x) :
    exec (.writePerformedInL2 e) s = .next (performInL2 s x) := by
  show execWritePerformedInL2 e s = _
  rw [execWritePerformedInL2, h]

theorem placed_deliverOne (s : State) (d : Nat) : (deliverOne s d).hub.placed = s.hub.placed := by
  unfold deliverOne
  split <;> rfl

/-- Settles O39: the store stands in its die's overlay alone, and a delivery changes a die alone. -/
theorem dieSeesItsOwnWrites : Obligations.DieSeesItsOwnWrites := by
  refine fun s => ⟨fun e x he hk hst hga hmt hruns hb hw ho => ⟨showOnDie s x, ?_, rfl, placed_showOnDie s x, fun pa bs hpa hd => ?_⟩,
    fun d => ⟨rfl, placed_deliverOne s d⟩⟩
  · rw [exec_writePerformedInL2 he, performInL2_store hk hst hga hmt hruns hb hw ho]
  · refine dieRead_ovWrite (m := (die s (dieOf s x.vc)).overlay) ?_
    rw [overlay_showOnDie hd, hpa]
    rfl

end Sys2Proof.Machine
end

section
/-! PROOFS (O41). Requests of peers: what the far end's checks and a placed write leave alone, and each answer where its conditions hold (R249, R336). -/
namespace Sys2Proof.Machine

/-! The far end's checks (R248, R249) -/

theorem flowAccepted_hubOnly (s : State) (ctx pkg pctx : Nat) (ordered : Bool) : HubOnly s (flowAccepted s ctx pkg pctx ordered).1 := by
  refine List.foldlRecOn (motive := fun r : State × Bool => HubOnly s r.1) _ _ (.refl s) fun r hr ch _ => ?_
  split
  · exact hr
  · exact hr.trans (readChannelEnt_hubOnly r.1 ctx ch)

theorem farPage_hubOnly (s : State) (c : Ctx) (write : Bool) (cid va : Nat) : HubOnly s (farPage s c write cid va).1 := by
  have hreads := walkReads_hubOnly s (ptBase c) va (.refl s)
  unfold farPage
  dsimp only
  split
  · exact orPte_hubOnly _ _ _ _ hreads
  · exact hreads
  · exact hreads

theorem farCheck_hubOnly (s : State) (ctx pkg pctx : Nat) (ordered copy write : Bool) (cid va n : Nat) :
    HubOnly s (farCheck s ctx pkg pctx ordered copy write cid va n).1 := by
  unfold farCheck
  split
  · exact .refl s
  next c _ =>
    have hflow := flowAccepted_hubOnly s ctx pkg pctx ordered
    generalize flowAccepted s ctx pkg pctx ordered = flow at hflow ⊢
    obtain ⟨s0, known⟩ := flow
    dsimp only
    split
    · exact hflow
    · split
      · exact hflow
      · have hpage := hflow.trans (farPage_hubOnly s0 c write cid va)
        split
        next s1 pa e1 =>
          have hs1 := fst_hubOnly e1 hpage
          split
          · exact hs1
          · have hlast := hs1.trans (farPage_hubOnly s1 c write cid (va + n - 1))
            split
            · exact fst_hubOnly (by assumption) hlast
            · exact hlast
        next => exact hpage

theorem threads_of_farCheck {s s1 : State} {ctx pkg pctx : Nat} {ordered copy write : Bool} {cid va n : Nat} {r : Except Nat Nat}
    (h : farCheck s ctx pkg pctx ordered copy write cid va n = (s1, r)) : s1.threads = s.threads := by
  obtain ⟨-, -, -, -, -, -, -, -, -, hthreads, -⟩ := fst_hubOnly h (farCheck_hubOnly s ctx pkg pctx ordered copy write cid va n)
  exact hthreads

/-! Writes (R249, R336) -/

/-- The state in which an arriving write has taken its place. -/
def peerPlaced (s : State) (ps : List FarPiece) (data : List Byte) : State :=
  placeRuns (hubRuns s (pieceRuns (some 0) ps data)) 0 none (pieceRuns none ps data)

theorem peerAcks_placeRuns (s : State) (id : Nat) (src : Option Nat) (rs : Runs) : (placeRuns s id src rs).hub.peerAcks = s.hub.peerAcks := by
  refine foldl_field (g := fun s : State => s.hub.peerAcks) (fun s d => ?_) _ _
  dsimp only
  split
  · rfl
  · split <;> rfl

theorem peerPlaced_keeps (s : State) (ps : List FarPiece) (data : List Byte) :
    (peerPlaced s ps data).hub.placed = memWriteRuns s.hub.placed (pieceRuns none ps data) ∧
    (peerPlaced s ps data).hub.peerAcks = s.hub.peerAcks ∧ (peerPlaced s ps data).threads = s.threads := by
  have hlines := hubRuns_linesOnly s (pieceRuns (some 0) ps data)
  obtain ⟨-, -, -, -, -, -, -, -, -, hthreads, -⟩ :=
    placeRuns_hubOnly (s0 := s) _ 0 none (pieceRuns none ps data) (hubRuns_hubOnly s (pieceRuns (some 0) ps data) (.refl s))
  refine ⟨?_, ?_, hthreads⟩
  · rw [peerPlaced, placed_placeRuns, hlines]
  · rw [peerPlaced, peerAcks_placeRuns, hlines]

theorem exec_peerWritePerform_next {s s1 : State} {w : PeerWrite} {pa : Nat} (hf : flowNext s w = true)
    (hc : farCheck s w.ctx w.pkg w.pctx w.ordered w.copy true w.cid.toNat w.va w.data.length = (s1, .ok pa))
    (ha : piecesAway s (farPieces s1 w.ctx w.va w.data.length) = false) :
    exec (.peerWritePerform w) s = .next (flowDone (peerPlaced s1 (farPieces s1 w.ctx w.va w.data.length) w.data) w true) := by
  show execPeerWritePerform w s = _
  unfold execPeerWritePerform
  rw [if_neg (by simp [hf]), hc]
  dsimp only
  rw [if_neg (by simp [ha])]
  rfl

theorem exec_peerWritePerform_refused {s s1 : State} {w : PeerWrite} {code : Nat} (hf : flowNext s w = true)
    (hc : farCheck s w.ctx w.pkg w.pctx w.ordered w.copy true w.cid.toNat w.va w.data.length = (s1, .error code)) :
    exec (.peerWritePerform w) s = .next (postEvent (flowDone s1 w false) (peerRec w.ctx code w.va)) := by
  show execPeerWritePerform w s = _
  unfold execPeerWritePerform
  rw [if_neg (by simp [hf]), hc]

theorem exec_peerWritePerform_waits {s : State} {w : PeerWrite} (hf : flowNext s w = false) : exec (.peerWritePerform w) s = .next s := by
  show execPeerWritePerform w s = _
  unfold execPeerWritePerform
  rw [if_pos (by simp [hf])]

theorem flowNext_iff (s : State) (w : PeerWrite) : flowNext s w = true ↔
    w.ordered = false ∨ w.seq = 0 ∨ ∃ f ∈ s.hub.peerFlows, f.1 = (w.pkg, w.pctx, w.chan) ∧ f.2 = w.seq := by
  unfold flowNext
  simp only [Bool.or_eq_true, Bool.not_eq_true', List.any_eq_true, Bool.and_eq_true, beq_iff_eq, or_assoc]

/-- A write that lies in one page is written in one run. -/
theorem pieceRuns_single (pa mt : Nat) (bs : List Byte) : pieceRuns none [(pa, bs.length, mt)] bs = [(pa, bs)] := by
  simp [pieceRuns]

/-! Reads (R249) -/

/-- The hub has sent bytes to a peer. -/
def peerAnswered (s : State) (bs : List Byte) : State := { s with hub := { s.hub with peerOut := s.hub.peerOut ++ [bs] } }

/-- The reads of an access's pieces pass through the L3. -/
def piecesRead (s : State) (ps : List FarPiece) : State := ps.foldl (fun s p => hubTouch s p.2.2 p.1 p.2.1) s

theorem hubReads_linesOnly (s : State) (a n : Nat) : LinesOnly s (hubReads s a n) :=
  foldl_linesOnly (fun s _ => (foldl_linesOnly (fun s d => writeBackFrom_linesOnly s _ d) _ s).trans (touchL3_linesOnly _ _ _ _)) _ s

theorem piecesRead_linesOnly (s : State) (ps : List FarPiece) : LinesOnly s (piecesRead s ps) := by
  refine foldl_linesOnly (fun s p => ?_) ps s
  unfold hubTouch
  split
  · exact hubReads_linesOnly s _ _
  · exact .refl s

theorem exec_peerReadRequest_answers {s s1 : State} {r : PeerRead} {pa : Nat}
    (hc : farCheck s r.ctx r.pkg r.pctx r.ordered r.copy false r.cid.toNat r.va r.len = (s1, .ok pa))
    (ha : piecesAway s (farPieces s1 r.ctx r.va r.len) = false) :
    exec (.peerReadRequest r) s = .next (peerAnswered (piecesRead s1 (farPieces s1 r.ctx r.va r.len))
      ((farPieces s1 r.ctx r.va r.len).flatMap fun p => hubRead s1 p.1 p.2.1)) := by
  show execPeerReadRequest r s = _
  unfold execPeerReadRequest
  dsimp only
  rw [hc]
  dsimp only
  rw [if_neg (by simp [ha])]
  rfl

theorem exec_peerReadRequest_refused {s s1 : State} {r : PeerRead} {code : Nat}
    (hc : farCheck s r.ctx r.pkg r.pctx r.ordered r.copy false r.cid.toNat r.va r.len = (s1, .error code)) :
    exec (.peerReadRequest r) s = .next (peerAnswered (if r.copy then postEvent s1 (peerRec r.ctx code r.va) else s1) []) := by
  show execPeerReadRequest r s = _
  unfold execPeerReadRequest
  dsimp only
  rw [hc]
  rfl

/-- Settles O41: a write that may be performed is placed and acknowledged, a read that may be made is answered, and the rest is refused or waits. -/
theorem peerRequestsComplete : Obligations.PeerRequestsComplete := by
  refine fun s => ⟨fun w s1 pa hf hc ha => ?_, fun w s1 code => exec_peerWritePerform_refused, fun w => exec_peerWritePerform_waits, flowNext_iff s,
    fun r s1 pa hc ha => ?_, fun r s1 code hcopy hc => ?_, fun r s1 code hcopy hc => ?_⟩
  · obtain ⟨hplaced, hacks, hthreads⟩ := peerPlaced_keeps s1 (farPieces s1 w.ctx w.va w.data.length) w.data
    refine ⟨_, exec_peerWritePerform_next hf hc ha, hplaced, fun pa mt hps => ?_, congrArg (· ++ _) hacks, hthreads.trans (threads_of_farCheck hc)⟩
    refine hplaced.trans ?_
    rw [hps, pieceRuns_single]
    rfl
  · have hlines := piecesRead_linesOnly s1 (farPieces s1 r.ctx r.va r.len)
    refine ⟨_, exec_peerReadRequest_answers hc ha, ?_, ?_, ?_⟩
    · exact (show (piecesRead s1 _).threads = _ by rw [hlines]).trans (threads_of_farCheck hc)
    · show (piecesRead s1 _).hub.placed = _
      rw [hlines]
    · show (piecesRead s1 _).hub.peerOut ++ _ = _
      rw [hlines]
  · rw [exec_peerReadRequest_refused hc, if_neg (by simp [hcopy])]
    rfl
  · rw [exec_peerReadRequest_refused hc, if_pos hcopy]
    rfl

end Sys2Proof.Machine
end

section
/-! PROOFS (O42). How a walk ends, by what it found, and what FU_DONE lets go on (R227 to R231, R246, R371). -/
namespace Sys2Proof.Machine

/-! Walks (R231, R246) -/

/-- A walk changes lines of the caches alone while it reads the tables. -/
theorem walkReads_linesOnly (s : State) (base va : Nat) : LinesOnly s (walkReads s base va) := foldl_linesOnly (fun s a => hubReads_linesOnly s a 8) _ s

/-- The TLBs of a core and of its die take an entry. -/
def loadTlbs (ent : TlbEnt) (s : State) (vc : Nat) : State :=
  modDie (modCore s vc fun k => { k with tlb := tlbAdd 128 k.tlb ent }) (dieOf s vc) fun d => { d with tlb := tlbAdd 8192 d.tlb ent }

/-- What a walk of a page leaves by what it found, once the page's misses have left. -/
def walkEnds (s0 : State) (ctx page : Nat) (ms : List Miss) : Walk → State
  | .leaf e large at_ => ((ms.map (·.vc)).eraseDups).foldl (loadTlbs ⟨ctx, page, large, e ||| walkBits e ms⟩) (orPte s0 at_ e (walkBits e ms))
  | .unmapped => tellBadPage s0 ctx page (ms.map (·.vc)).eraseDups { transFault 1 0 with data := 0 }
  | .migrate large => tellBadPage s0 ctx page (ms.map (·.vc)).eraseDups { transFault 2 0 with data := if large then 1 else 0 }
  | .bad => tellBadPage s0 ctx page (ms.map (·.vc)).eraseDups { transFault 3 0 with data := 0 }
  | .phys => tellBadPage s0 ctx page (ms.map (·.vc)).eraseDups (prot 8 0)

/-- The misses that wait for a page. -/
def pageMisses (s : State) (ctx page : Nat) : List Miss := s.hub.misses.filter fun m => m.ctx == ctx && m.page == page

section
variable {s : State} {ctx page : Nat} {c : Ctx}

theorem exec_pageWalk_idle (hms : pageMisses s ctx page = []) : exec (.pageWalk ctx page) s = .next s := by
  show Host.Outcome.next (pageWalk s ctx page) = _
  unfold pageWalk
  split
  · rfl
  · exact congrArg _ (if_pos (List.isEmpty_iff.mpr hms))

theorem exec_pageWalk_ends (hc : ctx? s ctx = some c) (hms : pageMisses s ctx page ≠ []) {w : Walk}
    (hw : walk (walkReads s (ptBase c) (page * 2 ^ 16)) (ptBase c) (page * 2 ^ 16) = w) :
    let r := walkReads s (ptBase c) (page * 2 ^ 16)
    let s0 := { r with hub := { r.hub with misses := r.hub.misses.filter fun m => !(m.ctx == ctx && m.page == page) } }
    exec (.pageWalk ctx page) s = .next (walkEnds s0 ctx page (pageMisses s ctx page) w) := by
  intro r s0
  show Host.Outcome.next (pageWalk s ctx page) = _
  unfold pageWalk
  rw [hc]
  refine congrArg _ ((if_neg (mt List.isEmpty_iff.mp hms)).trans ?_)
  dsimp only
  rw [hw]
  cases w <;> rfl

end

/-! FU_DONE (R246, R371) -/

theorem hub_returnThread (s : State) (uid : Nat) : (returnThread s uid).hub = s.hub := by
  cases ht : thread? s uid with
  | none => unfold returnThread; rw [ht]
  | some t =>
    obtain ⟨hretry, -⟩ := (retrySegment_coresOnly s t).keeps
    cases hres : t.resident with
    | true =>
      rw [returnThread_resident ht hres]
      obtain ⟨hwait, -⟩ := setWaiting_rest (modThread (retrySegment s t) uid unkept) uid
      exact hwait.trans hretry
    | false => rw [returnThread_away ht hres]; exact hretry

/-- Where no hub access waits for a page, FU_DONE lets go on what is parked on its page, and nothing of the hub. -/
theorem writeFuDone_eq {s : State} {v : BitVec 64} (hm : s.hub.migr = []) :
    let ctx := bits v.toNat 48 16
    let page := bits v.toNat 0 39
    writeFuDone s v = ((s.threads.filter (parkedOnPage ctx page)).map (·.uid)).foldl returnThread (forgetPage (retryCopies s ctx page) ctx page) := by
  intro ctx page
  have hhub : ∀ us : List Nat, (us.foldl returnThread (forgetPage (retryCopies s ctx page) ctx page)).hub = s.hub := fun us =>
    foldl_field (g := fun s : State => s.hub) hub_returnThread us _
  unfold writeFuDone
  refine if_neg ?_
  rw [hhub, hm]
  exact Bool.false_ne_true

/-- What threads hold beside their instances when these forget that a page's walk failed. -/
theorem forgetPage_threads (s : State) (ctx page : Nat) :
    (forgetPage s ctx page).threads.map (fun t => (t.st, t.slots, t.ptr)) = s.threads.map fun t => (t.st, t.slots, t.ptr) := by
  simp only [forgetPage, List.map_map]
  exact List.map_congr_left fun t _ => by simp only [Function.comp]; split <;> rfl

theorem fuDoneResumes : FuDoneResumes := by
  intro s v t ctx page hm hparked
  show Host.Outcome.next (writeFuDone s v) = _
  rw [writeFuDone_eq hm, hparked]
  rfl

/-- Settles O42: a walk ends by what it found, and FU_DONE returns the threads that are parked on its page. -/
theorem pageWalksEnd : Obligations.PageWalksEnd := by
  refine ⟨fun s => ⟨fun ctx page c hc => ?_, fun v => ⟨rfl, fun hm hparked => ?_⟩⟩, fuDoneResumes⟩
  · intro ms r s0 vcs o
    refine ⟨?_, exec_pageWalk_idle, fun hms => ⟨fun e large at_ => exec_pageWalk_ends hc hms, exec_pageWalk_ends hc hms,
      fun large => exec_pageWalk_ends hc hms, exec_pageWalk_ends hc hms, exec_pageWalk_ends hc hms⟩⟩
    have hlines : LinesOnly s r := walkReads_linesOnly s _ _
    rw [hlines]
    exact ⟨rfl, rfl, rfl, rfl, rfl, rfl, rfl⟩
  · rw [writeFuDone_eq hm, List.filter_eq_nil_iff.mpr fun t ht => by simp [hparked t ht]]
    exact ⟨rfl, forgetPage_threads ..⟩

end Sys2Proof.Machine
end

section
/-! PROOFS (O53). Quiesce, resume and eviction: what each event does where its conditions hold, and what it leaves (R247, R364, R379 to R385). -/
namespace Sys2Proof.Machine

/-! The phases (R379, R380) -/

section
variable {s : State} {ctx : Nat} {c : Ctx}

theorem phaseOf_eq (hc : ctx? s ctx = some c) : phaseOf s ctx = c.regs.phase := by
  rw [phaseOf, hc]; rfl

/-- A context in whose phase no instance settles: the next phase where that is ready. -/
theorem exec_quiescePhaseAdvance (hc : ctx? s ctx = some c) (h2 : c.regs.phase ≠ 2) :
    exec (.quiescePhaseAdvance ctx) s = .next (if phaseReady s ctx c then enterPhase s ctx (c.regs.phase + 1) else s) := by
  show execQuiescePhaseAdvance ctx s = _
  unfold execQuiescePhaseAdvance
  rw [phaseOf_eq hc, if_neg (by simpa using h2)]
  dsimp only
  rw [hc]
  exact (apply_ite _ _ _ _).symm

/-- A context in whose phase instances settle: they do, and then the next phase where that is ready. -/
theorem exec_quiescePhaseAdvance_settles {c2 : Ctx} (hc : ctx? s ctx = some c) (h2 : c.regs.phase = 2)
    (hc2 : ctx? (settleInsts s fun t => t.ctx == ctx) ctx = some c2) :
    let s2 := settleInsts s fun t => t.ctx == ctx
    exec (.quiescePhaseAdvance ctx) s = .next (if phaseReady s2 ctx c2 then enterPhase s2 ctx (c2.regs.phase + 1) else s2) := by
  intro s2
  show execQuiescePhaseAdvance ctx s = _
  unfold execQuiescePhaseAdvance
  rw [phaseOf_eq hc, if_pos (by simpa using h2)]
  dsimp only
  rw [hc2]
  exact (apply_ite _ _ _ _).symm

theorem ctx?_modCtx (hc : ctx? s ctx = some c) (f : Ctx → Ctx) (hf : ∀ c, (f c).num = c.num) : ctx? (modCtx s ctx f) ctx = some (f c) :=
  (ctx_modCtx_same s ctx f hf).trans (congrArg _ hc)

theorem ctx?_setPhase (hc : ctx? s ctx = some c) (n : Nat) : ctx? (setPhase s ctx n) ctx = some { c with regs := { c.regs with phase := n } } :=
  ctx?_modCtx hc (fun c => { c with regs := { c.regs with phase := n } }) fun _ => rfl

/-- Phases 3 to 5 alone can be ready beside 1 and 2: the cut sets the one after phase 6. -/
theorem phaseReady_phase (h : phaseReady s ctx c = true) (h1 : c.regs.phase ≠ 1) (h2 : c.regs.phase ≠ 2) :
    c.regs.phase = 3 ∨ c.regs.phase = 4 ∨ c.regs.phase = 5 := by
  unfold phaseReady at h
  split at h
  · exact absurd ‹_› h1
  · exact absurd ‹_› h2
  · exact .inl ‹_›
  · exact .inr (.inl ‹_›)
  · exact .inr (.inr ‹_›)
  · cases h

theorem phasesFollow : PhasesFollow := by
  intro s ctx c hc h1 h2 hready
  have hexec := exec_quiescePhaseAdvance hc h2
  rw [if_pos hready] at hexec
  have hset := ctx?_setPhase hc (c.regs.phase + 1)
  rcases phaseReady_phase hready h1 h2 with h | h | h
  all_goals rw [h] at hexec hset ⊢
  · exact ⟨_, _, hexec, hset, rfl, nofun, rfl, rfl, rfl, fun hne => absurd rfl hne⟩
  · exact ⟨_, _, hexec, hset, rfl, nofun, rfl, rfl, rfl, fun _ => rfl⟩
  · have hcut : ctx? (enterPhase s ctx 6) ctx = _ := ctx?_modCtx hset (fun c => { c with cutDies := [] }) fun _ => rfl
    exact ⟨_, _, hexec, hcut, rfl, fun _ => rfl, rfl, rfl, rfl, fun _ => rfl⟩

/-! The request and the cut (R379, R382) -/

theorem quiesceRequest_starts (hc : ctx? s ctx = some c) (h : c.regs.phase = 0) : ∃ t, exec (.quiesceRequest ctx) s = .next t ∧
    (ctx? t ctx).map (fun c => (c.regs.req, c.regs.phase)) = some (true, 1) ∧ t = { s with ctxs := t.ctxs } := by
  refine ⟨writeReq s ctx true, rfl, ?_, rfl⟩
  unfold writeReq
  rw [ctx?_modCtx hc _ (by exact fun _ => rfl)]
  simp [h]

/-- The answer of a die that may answer is noted, and the eighth sets phase 7. -/
theorem exec_dieCutAnswer {d : Nat} (hc : ctx? s ctx = some c) (h6 : c.regs.phase = 6) (hd : d < 8) : let l := insertNat d c.cutDies
    let s1 := modCtx s ctx fun c => { c with cutDies := l }
    exec (.dieCutAnswer ctx d) s = .next (if answersStand s ctx l then if l.length == 8 then enterPhase s1 ctx 7 else s1 else s) := by
  intro l s1
  show execDieCutAnswer ctx d s = _
  unfold execDieCutAnswer
  rw [hc]
  cases hstand : answersStand s ctx l with
  | false => exact if_pos (by simp [l, hstand])
  | true => exact if_neg (by simp [l, h6, hstand]; omega)

theorem dieCutAnswer_notes {d : Nat} (hc : ctx? s ctx = some c) (h6 : c.regs.phase = 6) (hd : d < 8)
    (hquiet : ∀ k ∈ insertNat d c.cutDies, dieQuiet s ctx k = true) :
    ∃ t c2, exec (.dieCutAnswer ctx d) s = .next t ∧ t = { s with ctxs := t.ctxs } ∧ ctx? t ctx = some c2 ∧ c2.cutDies = insertNat d c.cutDies ∧
      c2.regs = { c.regs with phase := if (insertNat d c.cutDies).length = 8 then 7 else 6 } := by
  have hexec := exec_dieCutAnswer hc h6 hd
  have hnoted : ctx? (modCtx s ctx fun c' => { c' with cutDies := insertNat d c.cutDies }) ctx = some { c with cutDies := insertNat d c.cutDies } :=
    ctx?_modCtx hc (fun c' => { c' with cutDies := insertNat d c.cutDies }) fun _ => rfl
  have hstand : answersStand s ctx (insertNat d c.cutDies) = true := List.all_eq_true.mpr hquiet
  dsimp only at hexec
  rw [if_pos hstand] at hexec
  by_cases h8 : (insertNat d c.cutDies).length = 8
  · rw [if_pos (by simpa using h8)] at hexec
    exact ⟨_, _, hexec, rfl, ctx?_setPhase hnoted 7, rfl, by rw [if_pos h8]⟩
  · rw [if_neg (by simpa using h8)] at hexec
    exact ⟨_, _, hexec, rfl, hnoted, rfl, by rw [if_neg h8, ← h6]⟩

theorem dieCutAnswer_waits {d : Nat} (hc : ctx? s ctx = some c) (h6 : c.regs.phase = 6) (hd : d < 8)
    (hbusy : ∃ k ∈ insertNat d c.cutDies, dieQuiet s ctx k = false) : exec (.dieCutAnswer ctx d) s = .next s := by
  have hstand : answersStand s ctx (insertNat d c.cutDies) = false := by
    obtain ⟨k, hk, hbusy⟩ := hbusy
    exact List.all_eq_false.mpr ⟨k, hk, by simp [hbusy]⟩
  refine (exec_dieCutAnswer hc h6 hd).trans ?_
  rw [if_neg (by simp [hstand])]

/-! The resume (R379, R383) -/

theorem exec_quiesceResume (hc : ctx? s ctx = some c) (hreq : c.regs.req = false) (h7 : 7 ≤ c.regs.phase) :
    exec (.quiesceResume ctx) s = .next (resumeCtx s ctx) := by
  show execQuiesceResume ctx s = _
  unfold execQuiesceResume
  rw [hc]
  exact if_pos (by simp [hreq, h7])

/-- Where a context has no queue head and the machine no grid, group or thread, a resume tests nothing anew. -/
theorem resumeEndsQuiesce : ResumeEndsQuiesce := by
  intro s ctx c hc hreq h7 hgrids hgroups hthreads hheads
  refine (exec_quiesceResume hc hreq h7).trans (congrArg _ ?_)
  have hended : ctx? (modCtx s ctx fun c => { c with cutDies := [], regs := { c.regs with phase := 0 } }) ctx =
      some { c with cutDies := [], regs := { c.regs with phase := 0 } } :=
    ctx?_modCtx hc (fun c => { c with cutDies := [], regs := { c.regs with phase := 0 } }) fun _ => rfl
  unfold resumeCtx applyLatched
  dsimp only
  rw [modCtx_grids, hgrids, List.foldl_nil]
  unfold retestHeads
  rw [hended]
  dsimp only
  rw [hheads, List.foldl_nil]
  unfold retestWaits settleGroups
  dsimp only
  rw [modCtx_threads, hthreads, List.foldl_nil, modCtx_groups, hgroups, List.foldl_nil]

end

/-! Image statuses (R364) -/

theorem exec_imageStatusLand {s : State} {k tctx slot : Nat} {e : Effect} {save : Bool} (he : effect? s k = some e) (hk : e.kind = .image save tctx slot)
    (hland : e.landed = false) (hf : fenced s e = false) :
    let r := if save then saveImage s e.ctx tctx e.va else loadImage s e.ctx tctx e.va
    exec (.imageStatusLand k) s = .next (settleEffects (landStatus (modEffect r.1 k fun x => { x with landed := true }) e.uid slot r.2)) := by
  intro r
  show execImageStatusLand k s = _
  unfold execImageStatusLand
  rw [he]
  dsimp only
  rw [hk]
  exact if_neg (by simp [hland, hf])

/-! Evictions (R247) -/

theorem exec_dugoutEvict {s : State} {n vc k : Nat} {gr : Group} (hgr : groupNo? s n = some gr) (hat : gr.at_ = .core vc) (hk : freeDugoutFrame? s = some k)
    (he : evictable s gr vc = true) : exec (.dugoutEvict n) s = .next (evictTo s gr vc k) := by
  show execDugoutEvict n s = _
  unfold execDugoutEvict
  rw [hgr]
  dsimp only
  rw [hat, hk]
  exact if_pos he

/-- A group as it stands in a dugout frame. -/
def inDugout (k vc : Nat) (sv : Saved) (kept x : Group) : Group :=
  { x with at_ := .dugout k vc, wantIn := false, saved := some sv, tfCode := kept.tfCode, tfCount := kept.tfCount }

/-- No thread of a group holds a frame. -/
def NoFrame (gr : Group) (s : State) : Prop := ∀ x ∈ s.threads, x.grid = gr.grid → x.gidx = gr.gidx → x.resident = false

/-- What a group that leaves its core leaves behind. -/
theorem leaveCore_leaves (s : State) (gr : Group) (vc k : Nat) (sv : Saved) (kept : Group) :
    (leaveCore s gr vc k sv kept).groups = (modGroup s gr.grid gr.gidx (inDugout k vc sv kept)).groups ∧
    (leaveCore s gr vc k sv kept).hub.dugouts = s.hub.dugouts ++ [(k, gr.grid, gr.gidx)] ∧ NoFrame gr (leaveCore s gr vc k sv kept) := by
  refine ⟨rfl, rfl, fun x hx hgrid hgidx => ?_⟩
  obtain ⟨y, -, rfl⟩ := List.mem_map.mp hx
  split
  · rfl
  next hother =>
    rw [if_neg hother] at hgrid hgidx
    exact absurd (by simp [hgrid, hgidx]) hother

/-- Threads that enter a vector get no frame. -/
theorem NoFrame.setWaiting {gr : Group} {s : State} (h : NoFrame gr s) (uid : Nat) : NoFrame gr (setWaiting s uid) := by
  obtain ⟨f, hthreads, hplace, -⟩ := setWaiting_movesOne s uid
  intro x hx hgrid hgidx
  rw [hthreads] at hx
  obtain ⟨y, hy, rfl⟩ := List.mem_map.mp hx
  split at hgrid
  next hmoved =>
    obtain ⟨-, hgrid', hgidx', -, hres, -⟩ := hplace y
    rw [if_pos hmoved] at hgidx ⊢
    rw [hres]
    exact h y hy (hgrid' ▸ hgrid) (hgidx' ▸ hgidx)
  next hother =>
    rw [if_neg hother] at hgidx ⊢
    exact h y hy hgrid hgidx

theorem NoFrame.settleEntries {gr : Group} {s : State} (h : NoFrame gr s) (vc : Nat) : NoFrame gr (settleEntries s vc) :=
  settleEntries_keeps (P := NoFrame gr) (fun _ _ _ h => h) (fun _ uid h => h.setWaiting uid) s vc h

/-- The ops and entries that the leaving group sets free change neither where it stands nor its threads. -/
theorem leaveCore_settled {s t : State} {gr : Group} {vc k : Nat} {sv : Saved} {kept : Group}
    (ht : t = settleEntries (settleOps (leaveCore s gr vc k sv kept) vc) vc) :
    t.groups = (modGroup s gr.grid gr.gidx (inDugout k vc sv kept)).groups ∧ (k, gr.grid, gr.gidx) ∈ t.hub.dugouts ∧ NoFrame gr t := by
  subst ht
  obtain ⟨hgroups1, hdugouts1, hframes1⟩ := leaveCore_leaves s gr vc k sv kept
  obtain ⟨hhub2, -, hgroups2, hthreads2, -⟩ := (settleOps_coresOnly (leaveCore s gr vc k sv kept) vc).keeps
  obtain ⟨hhub3, hgroups3, -⟩ := settleEntries_keepsRest (settleOps (leaveCore s gr vc k sv kept) vc) vc
  have hframes2 : NoFrame gr (settleOps (leaveCore s gr vc k sv kept) vc) := fun x hx => hframes1 x (hthreads2 ▸ hx)
  refine ⟨hgroups3.trans (hgroups2.trans hgroups1), ?_, hframes2.settleEntries vc⟩
  rw [hhub3, hhub2, hdugouts1]
  exact List.mem_append_right _ (List.mem_singleton_self _)

/-- What an eviction leaves: the write of the group's section is the hub's. -/
theorem evictTo_leaves (s : State) (gr : Group) (vc k : Nat) :
    (evictTo s gr vc k).groups = (modGroup s gr.grid gr.gidx (inDugout k vc (gather s gr vc) (joinBarren s gr vc))).groups ∧
    (k, gr.grid, gr.gidx) ∈ (evictTo s gr vc k).hub.dugouts ∧ NoFrame gr (evictTo s gr vc k) := by
  have hleft : evictTo s gr vc k =
      settleEntries (settleOps (leaveCore (hubWrite s (dugoutPa s k) (groupSection s gr)) gr vc k (gather s gr vc) (joinBarren s gr vc)) vc) vc := rfl
  obtain ⟨hgroups, hdugouts, hframes⟩ := leaveCore_settled hleft
  obtain ⟨-, -, -, -, -, -, -, -, hgroups0, -⟩ := hubWrite_hubOnly s (dugoutPa s k) (groupSection s gr) (.refl s)
  refine ⟨hgroups.trans ?_, hdugouts, hframes⟩
  rw [modGroup_groups, modGroup_groups, hgroups0]

theorem evictedGroupAway : EvictedGroupAway := by
  intro s n vc k gr hno hgr hat hk he
  obtain ⟨hgroups, hdugouts, hframes⟩ := evictTo_leaves s gr vc k
  have hgroup : group? (evictTo s gr vc k) gr.grid gr.gidx = some (inDugout k vc (gather s gr vc) (joinBarren s gr vc) gr) := by
    rw [group?_congr hgroups, group_modGroup_same _ _ _ (by exact fun _ => ⟨rfl, rfl⟩), hgr]
    rfl
  refine ⟨evictTo s gr vc k, _, exec_dugoutEvict hno hat hk he, hgroup, ?_⟩
  exact ⟨rfl, rfl, rfl, hdugouts, hframes⟩

/-- Settles O53: each event of a quiesce, of an image and of an eviction, with what it leaves. -/
theorem quiesceEventsComplete : Obligations.QuiesceEventsComplete := by
  refine ⟨fun s ctx c hc => ⟨quiesceRequest_starts hc, fun h2 hready => ?_, fun h2 hready => ?_, fun h2 c2 hc2 => exec_quiescePhaseAdvance_settles hc h2 hc2,
    fun d h6 hd => ⟨dieCutAnswer_notes hc h6 hd, dieCutAnswer_waits hc h6 hd⟩, exec_quiesceResume hc,
    fun k e save tctx slot he hk hland hf => exec_imageStatusLand he hk hland hf, fun g gr vc k => exec_dugoutEvict⟩,
    phasesFollow, resumeEndsQuiesce, evictedGroupAway⟩
  · rw [exec_quiescePhaseAdvance hc h2, if_pos hready]
  · rw [exec_quiescePhaseAdvance hc h2, if_neg (by simp [hready])]

end Sys2Proof.Machine
end

section
/-! PROOFS (O36). The new values of atomics, read back from the bytes that they write (R272, R355). -/
namespace Sys2Proof.Machine

theorem natLE_lt : ∀ l : List Byte, natLE l < 2 ^ (8 * l.length)
  | [] => Nat.one_pos
  | b :: r => by
    have hr := natLE_lt r
    have hb := b.isLt
    rw [List.length_cons, Nat.mul_succ, Nat.pow_add, natLE]
    omega

/-- The bytes that an atomic writes hold its new value, cut to its width. -/
theorem natLE_atomicRun (op ty w : Nat) (b c : BitVec 64) (old : List Byte) : natLE (atomicRun op ty w b c old) =
    atomicNew op ty w (natLE old) (b.toNat % 2 ^ (8 * w)) (c.toNat % 2 ^ (8 * w)) % 2 ^ (8 * w) := by
  rw [atomicRun, natLE_bytesLE, show (256 : Nat) = 2 ^ 8 from rfl, ← Nat.pow_mul]

/-- Settles O36: each new value is the rule's function of the old value and the operands, and but for `afadd` it is no wider than the atomic. -/
theorem atomicValues : Obligations.AtomicValues := by
  intro ty w b c old _ hlen n v x y new sg I
  have hv : v < 2 ^ n := (natLE_lt old).trans_eq (by rw [hlen])
  have hx : x < 2 ^ n := Nat.mod_lt _ (Nat.two_pow_pos n)
  have hy : y < 2 ^ n := Nat.mod_lt _ (Nat.two_pow_pos n)
  have hnew : ∀ op r, atomicNew op ty w v x y = r → r < 2 ^ n → new op = r := by
    rintro op _ rfl hlt
    exact (natLE_atomicRun ..).trans (Nat.mod_eq_of_lt hlt)
  obtain ⟨hminOr, hmin⟩ := laneMinOp_spec n (ty == 0 || ty == 2) v x 0
  obtain ⟨hmaxOr, hmax⟩ := laneMaxOp_spec n (ty == 0 || ty == 2) v x 0
  have hB1 : new 0xB1 = laneMinOp n (ty == 0 || ty == 2) v x 0 := (natLE_atomicRun ..).trans (mod_of_eq_or hv hx hminOr)
  have hB2 : new 0xB2 = laneMaxOp n (ty == 0 || ty == 2) v x 0 := (natLE_atomicRun ..).trans (mod_of_eq_or hv hx hmaxOr)
  rw [hB1, hB2]
  refine ⟨hnew _ _ rfl (Nat.mod_lt _ (Nat.two_pow_pos n)), hminOr, hmin, hmaxOr, hmax, fun k _ => ⟨?_, ?_, ?_⟩, hnew _ _ rfl hx,
    hnew _ _ (by simp [atomicNew]) ?_, fun _ => ?_, hnew _ _ rfl hx, natLE_atomicRun ..⟩
  · rw [hnew 0xB3 _ rfl (Nat.and_lt_two_pow v hx)]
    exact Nat.testBit_and ..
  · rw [hnew 0xB4 _ rfl (Nat.or_lt_two_pow hv hx)]
    exact Nat.testBit_or ..
  · rw [hnew 0xB5 _ rfl (Nat.xor_lt_two_pow hv hx)]
    exact Nat.testBit_xor ..
  · split <;> assumption
  · exact hnew _ _ (laneSub_eq false 0 hx.le) (Nat.mod_lt _ (Nat.two_pow_pos n))

end Sys2Proof.Machine
end

section
/-! PROOFS (O35). Stores at their ordinals: the effect that leaves, and the bank that a scratchpad store reaches (R240, R260, R267). -/
namespace Sys2Proof.Machine

/-! The bank (R240) -/

/-- A store that reaches its core's banks changes the bytes there. -/
theorem noteLate_spadWrite_spad {s : State} {vc : Nat} (h : vc < s.cores.length) (base off uid : Nat) (bs : List Byte) :
    (core (noteLate (spadWrite s vc base off bs) vc uid) vc).store.spad = memWrite (core s vc).store.spad (base * 16384 + off) bs := by
  have hvc : vc < (spadWrite s vc base off bs).cores.length := h.trans_eq (length_modAt _ _ _).symm
  rw [noteLate, modStore, core_modCore_same _ _ _ hvc, spadWrite, modStore, core_modCore_same _ _ _ h]

theorem noteLate_spadWrite_other (s : State) {vc k : Nat} (h : k ≠ vc) (base off uid : Nat) (bs : List Byte) :
    core (noteLate (spadWrite s vc base off bs) vc uid) k = core s k :=
  (core_modCore_other _ _ h).trans (core_modCore_other _ _ h)

/-! What passes on -/

/-- A scratchpad store that is held leaves as an effect; one that is not reaches its bank (R267). -/
theorem passSts_scratch (s : State) (x : Site) (ord o : Nat) (bs : List Byte) : passSts s x ord (.scratch o) bs =
    if scratchHeld s x ((unitsOf s x.t).2 * 16384 + o) bs.length = true then
      ((passEffect s x ord (.spadStore bs) ((unitsOf s x.t).2 * 16384 + o) bs.length 0 false 0 0 [] false).1, [])
    else (noteLate (spadWrite s x.t.vc (unitsOf s x.t).2 o bs) x.t.vc x.t.uid, []) := rfl

/-- Settles O35: each store passes on what its access says, in global memory an effect, in the scratchpad an effect or its bytes. -/
theorem storesPassOn : Obligations.StoresPassOn := by
  intro s x f sh ord lay _ leaves data
  have hleaves : ∀ {a : Acc} {va pa mt : Nat} {rtr : Bool} (bs : List Byte) (rel : Nat), a = .global va pa mt rtr →
      leaves (passStore s x ord a bs f.ga rel) va pa mt bs rel := by
    rintro _ va pa mt rtr bs rel rfl
    exact ⟨rfl, _, rfl, rfl, rfl, rfl, rfl, rfl, rfl, rfl, rfl, rfl, rfl, rfl⟩
  have hsts : passWord s x ord (.sts f) sh lay = passSts s x ord (accessOf s x (.sts f) sh) data := rfl
  refine ⟨fun va pa mt rtr ha => hleaves _ _ ha, fun va pa mt rtr ha => hleaves _ _ ha, fun sh' _ va pa mt rtr ha => hleaves _ _ ha, fun ha => ?_,
    fun o ha hheld => ?_, fun o ha hfree hvc => ?_⟩
  · show passStore s x ord (accessOf s x (.st f) sh) data f.ga 0 = _
    rw [ha]
    rfl
  · rw [hsts, ha, passSts_scratch, if_pos hheld]
    exact ⟨_, rfl, rfl, rfl, rfl, rfl, rfl⟩
  · dsimp only
    rw [hsts, ha, passSts_scratch, if_neg (by simp [hfree])]
    exact ⟨rfl, rfl, rfl, rfl, rfl, noteLate_spadWrite_spad hvc .., fun k hk => noteLate_spadWrite_other s hk ..⟩

end Sys2Proof.Machine
end

section
/-! PROOFS (O38). A store that takes its place: its bytes are in the placed memory, and the settling that follows changes no byte of it (R261, R328,
R331). -/
namespace Sys2Proof.Machine

/-! Settling in a calm state (R331) -/

/-- An effect that was first sent at a time, or is not sent. -/
def sentFrom (at_ : Option Nat) (x : Effect) : Effect := { x with sentAt := at_ }

/-- Nothing but the times at which effects were first sent differs. -/
def SentOnly (s t : State) : Prop := t = { s with effects := t.effects } ∧ ∀ e ∈ t.effects, ∃ x ∈ s.effects, e = sentFrom e.sentAt x

theorem SentOnly.refl (s : State) : SentOnly s s := ⟨rfl, fun e he => ⟨e, he, rfl⟩⟩

theorem SentOnly.keeps {s t : State} (h : SentOnly s t) : t.groups = s.groups ∧ t.threads = s.threads := by
  obtain ⟨hstate, -⟩ := h
  rw [hstate]
  exact ⟨rfl, rfl⟩

theorem SentOnly.modEffect {s t : State} (h : SentOnly s t) (id : Nat) (at_ : Option Nat) : SentOnly s (modEffect t id (sentFrom at_)) := by
  obtain ⟨hstate, heffects⟩ := h
  refine ⟨by rw [hstate]; rfl, fun e he => ?_⟩
  obtain ⟨y, hy, rfl⟩ := List.mem_map.mp he
  obtain ⟨x, hx, hyx⟩ := heffects y hy
  refine ⟨x, hx, ?_⟩
  split
  · rw [hyx]; rfl
  · exact hyx

theorem SentOnly.noteSent {s t : State} (h : SentOnly s t) (x : Effect) : SentOnly s (noteSent t x) := by
  unfold Machine.noteSent
  split
  · extract_lets at_
    split
    · exact h
    · exact h.modEffect _ at_
  · exact h

/-- A store or an atomic waits for an event of its own: it is not settled. -/
theorem settleOne_waits {s : State} {e : Effect} (h : e.kind = .store ∨ ∃ op ty w b c slot, e.kind = .atomic op ty w b c slot) :
    settleOne s e = s := by
  unfold settleOne
  split
  · rfl
  · rcases h with hk | ⟨op, ty, w, b, c, slot, hk⟩ <;> rw [hk]

/-- The effects one after another, each settled and noted, as `settleEffects` begins. -/
def settleEach (s : State) : State := s.effects.foldl (fun s e => match effect? s e.id with
  | some x => noteSent (settleOne s x) x
  | none => s) s

theorem settleEffects_eq (s : State) : settleEffects s = freeFrames (settleGroups (sweepEffects (settleEach s))) := rfl

/-- Where nobody has arrived anywhere, the groups have nothing to settle. -/
theorem settleEffects_of_nobodyArrived {s : State} (hgroups : (settleEach s).groups = s.groups) (h : NobodyArrived s) :
    settleEffects s = freeFrames (sweepEffects (settleEach s)) := by
  have hnobody : NobodyArrived (sweepEffects (settleEach s)) := fun g hg => h g (hgroups ▸ hg)
  rw [settleEffects_eq, settleGroups_idle hnobody]

theorem settleEach_calm {s : State} (h : Calm s) : SentOnly s (settleEach s) := by
  obtain ⟨hkinds, -⟩ := h
  refine List.foldlRecOn (motive := SentOnly s) _ _ (.refl s) fun t ht e _ => ?_
  split
  next y hy =>
    have ⟨_, heffects⟩ := ht
    obtain ⟨x, hx, hyx⟩ := heffects y (List.mem_of_find?_eq_some hy)
    have hkind : y.kind = x.kind := by rw [hyx]; rfl
    rw [settleOne_waits (hkind ▸ hkinds x hx)]
    exact ht.noteSent y
  next => exact ht

/-- A thread that has not exited stays, and no thread changes but by giving its frame up (R164). -/
theorem freeFrames_threads (s : State) : (∀ u ∈ s.threads, u.st ≠ .exited → u ∈ (freeFrames s).threads) ∧
    ∀ u ∈ (freeFrames s).threads, ∃ v ∈ s.threads, u = v ∨ u = { v with resident := false } := by
  refine ⟨fun u hu hst => List.mem_map.mpr ⟨u, List.mem_filter.mpr ⟨hu, by simp [hst]⟩, by simp [hst]⟩, fun u hu => ?_⟩
  obtain ⟨v, hv, rfl⟩ := List.mem_map.mp hu
  refine ⟨v, List.mem_of_mem_filter hv, ?_⟩
  split
  · exact .inr rfl
  · exact .inl rfl

theorem settleEffects_calm {s : State} (h : Calm s) : let t := settleEffects s
    t = { s with effects := t.effects, threads := t.threads } ∧ (∀ u ∈ s.threads, u.st ≠ .exited → u ∈ t.threads) ∧
    (∀ u ∈ t.threads, ∃ v ∈ s.threads, u = v ∨ u = { v with resident := false }) ∧
    ∀ e ∈ t.effects, ∃ x ∈ s.effects, e = { x with sentAt := e.sentAt } := by
  have heach := settleEach_calm h
  obtain ⟨hgroups, hthreads⟩ := heach.keeps
  obtain ⟨hstate, hsent⟩ := heach
  obtain ⟨-, hnobody⟩ := h
  obtain ⟨hstay, hfrom⟩ := freeFrames_threads (sweepEffects (settleEach s))
  rw [sweepEffects_threads, hthreads] at hstay hfrom
  rw [settleEffects_of_nobodyArrived hgroups hnobody]
  refine ⟨?_, hstay, hfrom, fun e he => hsent e (List.mem_of_mem_filter he)⟩
  rw [hstate]; rfl

/-! Settling and the placed memory (R261) -/

/-- What settling leaves as it was where no event is posted: the placed memory, the groups, and what each effect is. -/
def settlingFixes (s : State) : Memory × List Group × List EffKind := (s.hub.placed, s.groups, s.effects.map (·.kind))

theorem settlingFixes_eq_iff {s t : State} : settlingFixes t = settlingFixes s ↔
    t.hub.placed = s.hub.placed ∧ t.groups = s.groups ∧ t.effects.map (·.kind) = s.effects.map (·.kind) := by simp [settlingFixes]

theorem settlingFixes_modEffect {s : State} {id : Nat} {f : Effect → Effect} (hf : ∀ e, (f e).kind = e.kind) :
    settlingFixes (modEffect s id f) = settlingFixes s := congrArg (s.hub.placed, s.groups, ·) (map_modWhere hf _)

theorem settlingFixes_linesOnly {s t : State} (h : LinesOnly s t) : settlingFixes t = settlingFixes s := by rw [h]; rfl

theorem settlingFixes_acquireOwn (s : State) (e : Effect) (scope : Nat) : settlingFixes (acquireOwn s e scope) = settlingFixes s := by
  refine foldl_field (g := settlingFixes) (fun s vc => ?_) _ _
  unfold acquireOn
  split
  · rfl
  · split <;> rfl

theorem settlingFixes_noteLate (s : State) (vc uid : Nat) : settlingFixes (noteLate s vc uid) = settlingFixes s := rfl

theorem settlingFixes_actAtBank (s : State) (e : Effect) : settlingFixes (actAtBank s e) = settlingFixes s := by
  unfold actAtBank
  split
  · exact (settlingFixes_acquireOwn ..).trans ((settlingFixes_noteLate ..).trans (settlingFixes_modEffect fun _ => by rfl))
  · exact (settlingFixes_noteLate ..).trans (settlingFixes_modEffect fun _ => by rfl)
  · rfl

theorem hubTouch_linesOnly (s : State) (mt pa n : Nat) : LinesOnly s (hubTouch s mt pa n) := by
  unfold hubTouch
  split
  · exact hubReads_linesOnly s pa n
  · exact .refl s

theorem settlingFixes_settleOne {s : State} {e : Effect} (h : ∀ r, e.kind ≠ .event r) : settlingFixes (settleOne s e) = settlingFixes s := by
  unfold settleOne
  split
  · rfl
  · cases hk : e.kind with
    | fence k =>
      dsimp only
      split
      · split
        · exact (settlingFixes_acquireOwn ..).trans (settlingFixes_modEffect fun _ => rfl)
        · exact settlingFixes_modEffect fun _ => rfl
      · rfl
    | launch =>
      dsimp only
      split
      · refine (settlingFixes_modEffect fun _ => by rfl).trans ?_
        exact (settlingFixes_linesOnly (hubTouch_linesOnly s e.mt e.va 64) :)
      · rfl
    | event r => exact absurd hk (h r)
    | writeBack hbm =>
      have hline := settlingFixes_linesOnly (foldl_linesOnly (fun s d => writeBackFrom_linesOnly s (e.va / 256) d) (List.range s.dies.length) s)
      dsimp only
      split
      · rfl
      · refine (settlingFixes_modEffect fun _ => by rfl).trans ?_
        split <;> exact hline
    | spad | spadStore =>
      dsimp only
      split
      · exact settlingFixes_actAtBank s e
      · rfl
    | _ => rfl

theorem settlingFixes_noteSent (s : State) (e : Effect) : settlingFixes (noteSent s e) = settlingFixes s := by
  unfold noteSent
  split
  · extract_lets at_
    split
    · rfl
    · exact settlingFixes_modEffect fun _ => rfl
  · rfl

theorem settlingFixes_settleEach {s : State} (h : ∀ e ∈ s.effects, ∀ r, e.kind ≠ .event r) : settlingFixes (settleEach s) = settlingFixes s := by
  refine List.foldlRecOn (motive := fun t => settlingFixes t = settlingFixes s) _ _ rfl fun t ht e _ => ?_
  split
  next y hy =>
    obtain ⟨-, -, hkinds⟩ := settlingFixes_eq_iff.mp ht
    have hmem : y.kind ∈ s.effects.map (·.kind) := hkinds ▸ List.mem_map_of_mem (List.mem_of_find?_eq_some hy)
    obtain ⟨x, hx, hxy⟩ := List.mem_map.mp hmem
    exact (settlingFixes_noteSent ..).trans ((settlingFixes_settleOne fun r => hxy ▸ h x hx r).trans ht)
  next => exact ht

theorem placed_settleEffects {s : State} (h : ∀ e ∈ s.effects, ∀ r, e.kind ≠ .event r) (hnobody : NobodyArrived s) :
    (settleEffects s).hub.placed = s.hub.placed := by
  obtain ⟨hplaced, hgroups, -⟩ := settlingFixes_eq_iff.mp (settlingFixes_settleEach h)
  rw [settleEffects_of_nobodyArrived hgroups hnobody]
  exact hplaced

theorem settlingKeeps : SettlingKeeps := fun _ => ⟨settleEffects_calm, placed_settleEffects⟩

/-! The placed memory after a run of writes -/

theorem memRead_memWriteRuns_other {a : Nat} : ∀ {rs : Runs} (m : Memory), runsHas rs a = false → memRead (memWriteRuns m rs) a = memRead m a
  | [], _, _ => rfl
  | r :: rs, m, h => by
    obtain ⟨hr, hrs⟩ : runHas r a = false ∧ runsHas rs a = false := by simpa [runsHas] using h
    have hout : a < r.1 ∨ r.1 + r.2.length ≤ a := by
      simp only [runHas, Bool.and_eq_false_iff, decide_eq_false_iff_not] at hr
      omega
    exact (memRead_memWriteRuns_other _ hrs).trans (memRead_memWrite_other m _ _ _ hout)

theorem memRead_memWriteRuns_one (m : Memory) (pa : Nat) (bs : List Byte) {i : Nat} (hi : i < bs.length) :
    memRead (memWriteRuns m [(pa, bs)]) (pa + i) = bs.getD i 0 := memRead_memWrite_same m pa bs i hi

/-! The placement (R328) -/

/-- What a write that takes its place leaves as it was, beside the hub and the dies. -/
def placingFixes (s : State) : List Thread × List Ctx × List Group × List Effect := (s.threads, s.ctxs, s.groups, s.effects)

theorem placingFixes_eq_iff {s t : State} : placingFixes t = placingFixes s ↔
    t.threads = s.threads ∧ t.ctxs = s.ctxs ∧ t.groups = s.groups ∧ t.effects = s.effects := by simp [placingFixes]

theorem placingFixes_placeRuns (s : State) (id : Nat) (src : Option Nat) (rs : Runs) : placingFixes (placeRuns s id src rs) = placingFixes s := by
  refine foldl_field (g := placingFixes) (fun s d => ?_) _ _
  dsimp only
  split
  · rfl
  · split <;> rfl

/-- The state `t` after a store of the state `s` has taken its place: its bytes are in the placed memory, it is placed, and threads, contexts, groups and
what each effect is stay. -/
structure PlacesStore (s : State) (x : Effect) (t : State) : Prop where
  placed : t.hub.placed = memWriteRuns s.hub.placed x.runs
  threads : t.threads = s.threads
  ctxs : t.ctxs = s.ctxs
  groups : t.groups = s.groups
  kinds : t.effects.map (·.kind) = s.effects.map (·.kind)
  done : ∀ y, effect? t x.id = some y → y.st = .placed

/-- Lines of the L3 may take the bytes first. -/
theorem placesStore_placeRuns {s u : State} (h : LinesOnly s u) (x : Effect) (src : Option Nat) {f : Effect → Effect}
    (hid : ∀ e, (f e).id = e.id) (hkind : ∀ e, (f e).kind = e.kind) (hst : ∀ e, (f e).st = .placed) :
    PlacesStore s x (modEffect (placeRuns u x.id src x.runs) x.id f) := by
  have hfixes : placingFixes (placeRuns u x.id src x.runs) = placingFixes s := (placingFixes_placeRuns ..).trans (by rw [h]; rfl)
  obtain ⟨hthreads, hctxs, hgroups, heffects⟩ := placingFixes_eq_iff.mp hfixes
  obtain ⟨-, hplaced, -⟩ := h.keeps
  refine ⟨(placed_placeRuns ..).trans (by rw [hplaced]), hthreads, hctxs, hgroups, (map_modWhere hkind _).trans (by rw [heffects]), fun y hy => ?_⟩
  rw [effect_modEffect_same _ _ _ hid] at hy
  obtain ⟨z, -, rfl⟩ := Option.map_eq_some_iff.mp hy
  exact hst z

theorem PlacesStore.cachesOnly {s t u : State} {x : Effect} (h : PlacesStore s x t) (hc : CachesOnly t u) : PlacesStore s x u := by
  have hplaced := hc.placed
  obtain ⟨hstate, -⟩ := hc
  rw [hstate] at hplaced ⊢
  exact ⟨hplaced.trans h.placed, h.threads, h.ctxs, h.groups, h.kinds, h.done⟩

/-- A store that may take its place does, from its die's overlay or straight from its core. -/
theorem placeEffect_store {s : State} {x : Effect} (hk : x.kind = .store) (hmay : mayPlace s x = true) :
    ∃ t, placeEffect s x = settleEffects t ∧ PlacesStore s x t := by
  unfold placeEffect
  rw [if_neg (by simp [hmay]), hk]
  cases hst : x.st with
  | placed => simp [mayPlace, hst] at hmay
  | onDie n => exact ⟨_, rfl, placesStore_placeRuns (.refl s) x _ (fun _ => rfl) (fun _ => rfl) fun _ => rfl⟩
  | committed =>
    have hlines : LinesOnly s (if x.mt == 0 then hubRuns s x.runs else s) := by
      split
      · exact hubRuns_linesOnly s x.runs
      · exact .refl s
    exact ⟨_, rfl, (placesStore_placeRuns hlines x none (fun _ => by rfl) (fun _ => by rfl) fun _ => by rfl).cachesOnly (updateOwn_cachesOnly ..)⟩

theorem PlacesStore.calm {s t : State} {x : Effect} (h : PlacesStore s x t) (hs : Calm s) : Calm t := by
  obtain ⟨hkinds, hnobody⟩ := hs
  refine ⟨fun e he => ?_, fun g hg => hnobody g (h.groups ▸ hg)⟩
  obtain ⟨y, hy, hye⟩ := List.mem_map.mp (h.kinds ▸ List.mem_map_of_mem he : e.kind ∈ s.effects.map (·.kind))
  exact hye ▸ hkinds y hy

theorem exec_writePlacement {s : State} {e : Nat} {x : Effect} (h : effect? s e = some x) :
    exec (.writePlacement (.place e)) s = .next (placeEffect s x) := by
  show execWritePlacement (.place e) s = _
  unfold execWritePlacement
  dsimp only
  rw [h]

theorem id_of_effect? {s : State} {e : Nat} {x : Effect} (h : effect? s e = some x) : x.id = e := by simpa using List.find?_some h

/-- Settles O38: the placed memory is written as the hub orders it, and settling leaves it so. -/
theorem placementWritesItsBytes : Obligations.PlacementWritesItsBytes := by
  refine ⟨settlingKeeps, fun s e x he hk hmay => ?_⟩
  obtain ⟨t, hplace, ht⟩ := placeEffect_store hk hmay
  refine ⟨t, (exec_writePlacement he).trans (congrArg _ hplace), ht.placed, ht.threads, ht.ctxs, ht.groups, id_of_effect? he ▸ ht.done, fun a ha => ?_,
    fun pa bs i hruns hi => ?_, fun hcalm => ?_⟩
  · rw [ht.placed]
    exact memRead_memWriteRuns_other _ ha
  · rw [ht.placed, hruns]
    exact memRead_memWriteRuns_one _ pa bs hi
  · obtain ⟨hstate, hstay, -⟩ := settleEffects_calm (ht.calm hcalm)
    refine ⟨?_, ?_, ?_, fun v hv => hstay v (ht.threads ▸ hv)⟩
    · rw [hstate]; exact ht.placed
    · rw [hstate]; exact ht.groups
    · rw [hstate]; exact ht.ctxs

end Sys2Proof.Machine
end

section
/-! PROOFS (O40). Acknowledgements: each answer where its conditions hold, and the record that a lost one leaves with its thread (R262, R273, R331 to
R333, R337). -/
namespace Sys2Proof.Machine

/-! Effects looked up -/

theorem effect_modEffect_other (s : State) {n k : Nat} {f : Effect → Effect} (hf : ∀ e, (f e).id = e.id) (h : k ≠ n) :
    effect? (modEffect s n f) k = effect? s k := by
  simp only [effect?, modEffect_effects]
  rw [find_modWhere _ _ _ fun a _ => by simp [hf a]]
  cases he : s.effects.find? fun e => e.id == k with
  | none => rfl
  | some x =>
    have hx : x.id = k := id_of_effect? he
    simp [hx, h]

theorem effect?_congr {s t : State} (h : t.effects = s.effects) (e : Nat) : effect? t e = effect? s e := by
  unfold effect?; rw [h]

/-- An effect but for how far it has come. -/
def asPlaced (e : Effect) : Effect := { e with st := .placed }

/-- Where effects differ in how far they have come, the same number finds the same effect. -/
theorem effect?_of_sentOf {s t : State} (h : sentOf t = sentOf s) (e : Nat) : (effect? t e).map asPlaced = (effect? s e).map asPlaced := by
  have hfind : ∀ u : State, (effect? u e).map asPlaced = (sentOf u).find? fun x => x.id == e := fun u => by
    rw [sentOf, List.find?_map]; rfl
  rw [hfind, hfind, h]

/-! Answers (R262, R331, R337) -/

section
variable {s : State} {e : Nat} {x : Effect} (he : effect? s e = some x)
include he

theorem exec_gaAcknowledge (hga : x.ga = true) (hst : x.st = .placed) (hacked : x.acked = false) (hlost : x.lost = false) :
    exec (.gaAcknowledge e) s = .next (settleEffects (modEffect s e fun x => { x with acked := true })) := by
  show execGaAcknowledge e s = _
  unfold execGaAcknowledge
  rw [he]
  exact if_pos (by simp [hga, hst, hacked, hlost])

theorem exec_ackRetry (hdue : ackOverdue s x = true) (htries : x.tries < 3) : exec (.ackRetry e) s =
    .next (modEffect s e fun x => { x with tries := x.tries + 1, sentAt := some (hubNow s) }) := by
  show execAckRetry e s = _
  unfold execAckRetry
  rw [he]
  exact if_pos (by simp [hdue, htries])

theorem exec_ackLossResolution (hdue : ackOverdue s x = true) (htries : x.tries = 3) (r : Bool) :
    exec (.ackLossResolution e r) s = .next (resolveAckLoss s x r) := by
  show execAckLossResolution e r s = _
  unfold execAckLossResolution
  rw [he]
  exact if_pos (by simp [hdue, htries])

theorem exec_hostWriteAccepted (hmt : x.mt = 2) (hst : x.st = .placed) (hacc : x.accepted = false) :
    exec (.hostWriteAccepted e) s = .next (settleEffects (modEffect s e fun x => { x with accepted := true })) := by
  show execHostWriteAccepted e s = _
  unfold execHostWriteAccepted
  rw [he]
  exact if_pos (by simp [hmt, hst, hacc])

/-- R273: a result that nothing holds back lands. -/
theorem exec_atomicResultLand {op ty w slot : Nat} {b c : BitVec 64} (hk : x.kind = .atomic op ty w b c slot) (hland : x.landed = false)
    (hst : x.st = .placed) (hack : ackDone x = true) (hslot : slot < 64) (hturn : resultWaits s x.uid x.seq x.ord (slot, w) = false) :
    exec (.atomicResultLand e) s =
      .next (settleEffects (modEffect (landSlots s x.uid slot (w == 8) x.old.toNat) e fun y => { y with landed := true })) := by
  have hres : resultSlot? x = some (slot, w) := by
    unfold resultSlot?
    rw [hk]
    exact if_pos hslot
  show execAtomicResultLand e s = _
  unfold execAtomicResultLand
  rw [he]
  dsimp only
  rw [hres]
  exact if_neg (by simp [hland, hst, hack, hturn])

section
variable {ch pkg pctx seq : Nat} {ordered copy : Bool} (hk : x.kind = .peer ch pkg pctx seq ordered copy) (hacc : x.accepted = false)
  (hfree : blocked s x = false) (hnext : flowAhead s x = false)
include hk hacc hfree hnext

theorem exec_peerWriteAcknowledged : exec (.peerWriteAcknowledged e) s =
    .next (settleEffects (modEffect s e fun x => { x with accepted := true, st := .placed, landed := true })) := by
  show execPeerWriteAcknowledged e s = _
  unfold execPeerWriteAcknowledged
  rw [he]
  dsimp only
  rw [hk]
  exact if_neg (by simp [hacc, hfree, hnext])

theorem exec_peerFlowRefused (code : Nat) : exec (.peerFlowRefused e code) s =
    .next (settleEffects (postEvent (refuseCopy (modEffect s e fun x => { x with accepted := true, st := .placed, landed := true }) x)
      (peerRec x.ctx code x.va))) := by
  show execPeerFlowRefused e code s = _
  unfold execPeerFlowRefused
  rw [he]
  dsimp only
  rw [hk]
  exact if_neg (by simp [hacc, hfree, hnext])

end

/-- R331: the retry changes one effect. -/
theorem effect?_retried :
    let t := modEffect s e fun x => { x with tries := x.tries + 1, sentAt := some (hubNow s) }
    effect? t e = some { x with tries := x.tries + 1, sentAt := some (hubNow s) } ∧ ∀ k, k ≠ e → effect? t k = effect? s k :=
  ⟨(effect_modEffect_same _ _ _ (by exact fun _ => rfl)).trans (by rw [he]; rfl), fun k hk => effect_modEffect_other s (by exact fun _ => rfl) hk⟩

end

/-! The loss of an acknowledgement (R332, R333) -/

/-- How a write's fate is told: placed, not placed, or unknown (R332). -/
def fateOf (x : Effect) (readable : Bool) : Nat := if readable then (if x.st = .placed then 0 else 1) else 2

/-- An effect whose acknowledgement is lost, with its thread there to settle the loss. -/
def loseAck (placed : Bool) (x : Effect) : Effect :=
  { x with lost := true, st := .placed, runs := if placed then x.runs else [], acked := false }

/-- A thread with the record of a lost acknowledgement (R333). -/
def owesLoss (id : Nat) (r : EvRec) (t : Thread) : Thread := { t with ackLost := t.ackLost ++ [id], ackRec := some (t.ackRec.getD r) }

/-- The state in which an effect and its thread are marked with the loss. -/
def lossMarked (s : State) (x : Effect) (r : EvRec) : State := modThread (modEffect s x.id (loseAck (x.st == .placed))) x.uid (owesLoss x.id r)

/-- The state in which the record of the loss is posted too, before the thread may park. -/
def lossNoted (s : State) (x : Effect) (r : EvRec) : State := postEvent (lossMarked s x r) r

theorem resolveAckLoss_eq {s : State} {x : Effect} {u : Thread} (h : thread? s x.uid = some u) (readable : Bool) :
    resolveAckLoss s x readable =
      settleEffects (abortAtCommit (lossNoted s x (ackLossRec x (fateOf x readable))) x.uid (ackLossRec x (fateOf x readable))) := by
  have hrec : ackLossRec x (if !readable then 2 else if x.st == .placed then 0 else 1) = ackLossRec x (fateOf x readable) := by
    cases readable <;> simp [fateOf]
  unfold resolveAckLoss
  simp only [h, hrec, Option.isNone_some, Bool.or_false]
  rfl

section
variable {s : State} {x : Effect} {u : Thread} (r : EvRec)

theorem threads_lossNoted : (lossNoted s x r).threads = (modThread s x.uid (owesLoss x.id r)).threads := by
  obtain ⟨-, -, -, -, -, -, -, -, -, hthreads, -⟩ := postEvent_hubOnly (lossMarked s x r) r (.refl _)
  exact hthreads

theorem thread?_lossNoted (h : thread? s x.uid = some u) : thread? (lossNoted s x r) x.uid = some (owesLoss x.id r u) :=
  (thread?_congr (threads_lossNoted r) x.uid).trans ((thread_modThread_same s x.uid (owesLoss x.id r) fun _ => rfl).trans (congrArg (Option.map _) h))

/-- Posting the record moves the lost effect no further than to its place. -/
theorem effect?_lossNoted (h : effect? s x.id = some x) :
    ∃ y, effect? (lossNoted s x r) x.id = some y ∧ y.lost = true ∧ y.kind = x.kind ∧ y.acked = false := by
  obtain ⟨-, -, -, -, -, -, -, -, -, -, hsent, -⟩ := postEvent_hubOnly (lossMarked s x r) r (.refl _)
  have hmarked : effect? (lossMarked s x r) x.id = some (loseAck (x.st == .placed) x) :=
    (effect_modEffect_same s x.id (loseAck _) fun _ => rfl).trans (congrArg (Option.map _) h)
  have hsame : (effect? (lossNoted s x r) x.id).map asPlaced = some (asPlaced (loseAck (x.st == .placed) x)) :=
    (effect?_of_sentOf hsent x.id).trans (congrArg (Option.map asPlaced) hmarked)
  obtain ⟨y, hy, heq⟩ := Option.map_eq_some_iff.mp hsame
  have hlost : (asPlaced y).lost = true ∧ (asPlaced y).kind = x.kind ∧ (asPlaced y).acked = false := by
    rw [heq]
    exact ⟨rfl, rfl, rfl⟩
  exact ⟨y, hy, hlost⟩

end

/-! The thread that parks at once (R333) -/

/-- A thread parked with the record of a lost acknowledgement, which says where the thread stands (R333, R366). -/
def parkLost (s : State) (r : EvRec) (t : Thread) : Thread :=
  { t with
    st := .parked, wait := none, kept := some { r with fl := 5, slot := t.frame, vcore := t.vc, ptr := linkWord t.ptr }
    parkAt := watchNow s t.ctx, parkLarge := false }

theorem parkAckLoss_eq (s : State) (t : Thread) (r : EvRec) :
    parkAckLoss s t r = settleEntries (modThread (abortInst s t.uid) t.uid (parkLost s r)) t.vc := rfl

theorem thread?_parkAckLoss {s : State} {t : Thread} (r : EvRec) (hn : (s.threads.map (·.uid)).Nodup) (h : thread? s t.uid = some t) :
    thread? (parkAckLoss s t r) t.uid = some (parkLost s r (withoutInst t)) := by
  have hparked : thread? (modThread (abortInst s t.uid) t.uid (parkLost s r)) t.uid = some (parkLost s r (withoutInst t)) :=
    (thread_modThread_same _ _ (parkLost s r) fun _ => rfl).trans (congrArg (Option.map _) (thread?_abortInst h))
  have huids : (modThread (abortInst s t.uid) t.uid (parkLost s r)).threads.map (·.uid) = s.threads.map (·.uid) := by
    obtain ⟨-, -, -, hroster⟩ := abortInst_rosterKept s t.uid
    refine (map_modWhere (f := parkLost s r) (fun _ => rfl) _).trans ?_
    simpa only [membership, List.map_map, Function.comp_def] using congrArg (List.map Prod.fst) hroster
  rw [parkAckLoss_eq]
  obtain ⟨w, hw, -, hst⟩ := (settleEntries_assignsOnly (huids.symm ▸ hn) t.vc).places _ _ hparked
  exact hw.trans (congrArg some (hst ThreadSt.noConfusion))

theorem effects_parkAckLoss (s : State) (t : Thread) (r : EvRec) : (parkAckLoss s t r).effects = s.effects := by
  obtain ⟨-, -, -, heffects⟩ := settleEntries_keepsRest (modThread (abortInst s t.uid) t.uid (parkLost s r)) t.vc
  exact heffects.trans (abortInst_effects s t.uid)

/-- A thread is at its commit, or held there. -/
def AtCommit (t : Thread) : Prop := t.st = .held ∨ (t.inst.bind (·.commitAt)).isSome = true

theorem abortAtCommit_away {s : State} {uid : Nat} {t : Thread} (h : thread? s uid = some t) (hc : ¬ AtCommit t) (r : EvRec) :
    abortAtCommit s uid r = s := by
  unfold abortAtCommit
  rw [h]
  exact if_neg (by simpa [AtCommit] using hc)

theorem abortAtCommit_parks {s : State} {uid : Nat} {t : Thread} (h : thread? s uid = some t) (hc : AtCommit t) (r : EvRec) :
    abortAtCommit s uid r = parkAckLoss s t r := by
  unfold abortAtCommit
  rw [h]
  exact if_pos (by simpa [AtCommit] using hc)

theorem effects_abortAtCommit (s : State) (uid : Nat) (r : EvRec) : (abortAtCommit s uid r).effects = s.effects := by
  unfold abortAtCommit
  split
  · split
    · exact effects_parkAckLoss ..
    · rfl
  · rfl

theorem ackLossRecorded : AckLossRecorded := by
  intro s e x u r he hdue htries hu rc atCommit hn
  obtain rfl := id_of_effect? he
  have hnoted := thread?_lossNoted rc hu
  obtain ⟨y, hy, hlost⟩ := effect?_lossNoted rc he
  refine ⟨abortAtCommit (lossNoted s x rc) x.uid rc, ?_, ⟨y, (effect?_congr (effects_abortAtCommit ..) _).trans hy, hlost⟩, ?_⟩
  · exact (exec_ackLossResolution he hdue htries r).trans (congrArg _ (resolveAckLoss_eq hu r))
  · by_cases hc : AtCommit (owesLoss x.id rc u)
    · have huid : (owesLoss x.id rc u).uid = x.uid := by simpa using List.find?_some hnoted
      have huids : ((lossNoted s x rc).threads.map (·.uid)).Nodup := by
        rw [threads_lossNoted, modThread_threads, map_modWhere (f := owesLoss x.id rc) fun _ => rfl]
        exact hn
      have hparked := thread?_parkAckLoss rc huids (huid.symm ▸ hnoted)
      rw [huid, ← abortAtCommit_parks hnoted hc] at hparked
      exact ⟨_, hparked, rfl, rfl, rfl, rfl, fun hnot => absurd hc hnot, fun _ => ⟨rfl, rfl, rfl⟩⟩
    · rw [abortAtCommit_away hnoted hc]
      exact ⟨_, hnoted, rfl, rfl, rfl, rfl, fun _ => ⟨rfl, rfl⟩, fun hyes => absurd hyes hc⟩

/-- Settles O40: each answer is taken where its conditions hold, a retry changes its effect alone, and a loss leaves its record. -/
theorem acknowledgementsComplete : Obligations.AcknowledgementsComplete := by
  refine ⟨fun s e x he => ⟨exec_gaAcknowledge he, fun hdue htries => ?_, exec_ackLossResolution he, exec_hostWriteAccepted he,
    fun ch pkg pctx seq ordered copy hk hacc hfree hnext =>
      ⟨exec_peerWriteAcknowledged he hk hacc hfree hnext, exec_peerFlowRefused he hk hacc hfree hnext⟩,
    fun op ty w b c slot => exec_atomicResultLand he⟩, ackLossRecorded⟩
  obtain ⟨hretried, hothers⟩ := effect?_retried he
  exact ⟨_, exec_ackRetry he hdue htries, rfl, hretried, List.length_map .., hothers⟩

end Sys2Proof.Machine
end

section
/-! PROOFS (O60). The package at large: firmware images, the life cycle, attestation reports, and the loss and return of power (R401 to R406). -/
namespace Sys2Proof.Machine

/-! Firmware and the life cycle (R403 to R405) -/

/-- An update passes: both signatures verify, and its security version is at or above the fuse and can be fused. -/
def UpdatePasses (s : State) (img : FwImage) : Prop := signed img.hash img.rsa img.slh = true ∧ s.pkg.fuse ≤ img.secver ∧ img.secver ≤ 64

/-- The package once an image is stored in the slot that does not run. -/
def imageStored (p : Pkg) (img : FwImage) : Pkg := if p.useB then { p with slotA := ⟨img, true⟩ } else { p with slotB := ⟨img, true⟩ }

theorem exec_firmwareUpdate_passes {s : State} {img : FwImage} (h : UpdatePasses s img) : exec (.firmwareUpdate img) s =
    .next { s with pkg := { imageStored s.pkg img with nextB := !s.pkg.useB, fuseNext := max s.pkg.fuseNext img.secver } } := by
  obtain ⟨hsigned, hlow, hhigh⟩ := h
  exact if_neg (by simp [hsigned, hlow, hhigh])

theorem exec_firmwareUpdate_refused {s : State} {img : FwImage} (h : ¬ UpdatePasses s img) : exec (.firmwareUpdate img) s = .next s := by
  refine if_pos ?_
  by_contra hpasses
  exact h (by simpa [UpdatePasses, and_assoc] using hpasses)

theorem firmwareUpdate_stores {s : State} {img : FwImage} (h : UpdatePasses s img) :
    ∃ t, exec (.firmwareUpdate img) s = .next t ∧ t.pkg.nextB = !s.pkg.useB ∧ t.pkg.fuseNext = max s.pkg.fuseNext img.secver ∧ t.pkg.fuse = s.pkg.fuse ∧
      (if s.pkg.useB then t.pkg.slotA.image = img ∧ t.pkg.slotB = s.pkg.slotB else t.pkg.slotB.image = img ∧ t.pkg.slotA = s.pkg.slotA) ∧
      t.hub = s.hub := by
  refine ⟨_, exec_firmwareUpdate_passes h, rfl, rfl, ?_⟩
  unfold imageStored
  cases s.pkg.useB with
  | false => exact ⟨rfl, ⟨rfl, rfl⟩, rfl⟩
  | true => exact ⟨rfl, ⟨rfl, rfl⟩, rfl⟩

theorem exec_lifeCycleAdvance_signed {s : State} {c : LifeCommand} (hsigned : signed (sha384 (bytesLE 1 c.target)) c.rsa c.slh = true)
    (hup : s.pkg.lifeNext < c.target) (hlast : c.target ≤ 3) :
    exec (.lifeCycleAdvance c) s = .next { s with pkg := { s.pkg with lifeNext := c.target } } := if_pos (by simp [hsigned, hup, hlast])

theorem exec_lifeCycleAdvance_back {s : State} {c : LifeCommand} (h : c.target ≤ s.pkg.lifeNext) : exec (.lifeCycleAdvance c) s = .next s :=
  if_neg (by simp; omega)

/-! Attestation (R406) -/

theorem exec_attestationRequest {s : State} {v : BitVec 32} (hgo : v.getLsbD 31 = true) (hidle : s.ap.attSt ≠ 0) :
    exec (.attestationRequest v) s = .next { s with ap := { s.ap with attSt := 0, attNonce0 := s.ap.attNonce, attAddr0 := s.ap.attAddr.toNat } } := by
  refine if_neg ?_
  rw [hgo]
  simpa using hidle

/-- The hub's own write is that of a page of memory type 0. -/
theorem placed_hubWrite (s : State) (pa : Nat) (bs : List Byte) : (hubWrite s pa bs).hub.placed = memWrite s.hub.placed pa bs :=
  placed_hubPut s 0 pa bs

/-- A report whose address is good is written there. -/
theorem exec_attestationReportDone {s : State} (hbusy : s.ap.attSt = 0) (halign : s.ap.attAddr0 % 64 = 0) (hrange : hbmRange s.ap.attAddr0 16768 = true) :
    let w := hubWrite s s.ap.attAddr0 (report s s.ap.attNonce0)
    exec .attestationReportDone s = .next { w with ap := { w.ap with attSt := 1 } } := by
  show execAttestationReportDone s = _
  unfold execAttestationReportDone
  rw [if_neg (by simp [hbusy])]
  dsimp only
  rw [halign, hrange]
  rfl

theorem attestationReportDone_writes {s : State} (hbusy : s.ap.attSt = 0) (halign : s.ap.attAddr0 % 64 = 0) (hrange : hbmRange s.ap.attAddr0 16768 = true) :
    ∃ t, exec .attestationReportDone s = .next t ∧ t.ap.attSt = 1 ∧
      t.hub.placed = memWrite s.hub.placed s.ap.attAddr0 (report s s.ap.attNonce0) := by
  have hplaced := placed_hubWrite s s.ap.attAddr0 (report s s.ap.attNonce0)
  exact ⟨_, exec_attestationReportDone hbusy halign hrange, rfl, hplaced⟩

/-! Power (R400, R401) -/

/-- No step of a start counts a start. -/
theorem starts_stepEffect (p : Pkg) (r : StartFindings) (k : Nat) (form : StepForm) (ok : Bool) : (stepEffect p r k form ok).starts = p.starts := by
  unfold stepEffect
  dsimp only
  split
  case h_3 => split <;> [rfl; (split <;> rfl)]
  case h_4 | h_5 | h_7 => rfl
  all_goals split <;> rfl

theorem starts_startStep (r : StartFindings) (n : Nat) (x : Pkg × Bool) (k : Nat) : (startStep r n x k).1.starts = x.1.starts := by
  unfold startStep
  dsimp only
  split
  · rfl
  · split
    · rfl
    · split
      · exact starts_stepEffect ..
      · exact starts_stepEffect ..

theorem starts_startSteps (r : StartFindings) (n : Nat) (x : Pkg × Bool) (l : List Nat) : (l.foldl (startStep r n) x).1.starts = x.1.starts :=
  List.foldlRecOn (motive := fun y : Pkg × Bool => y.1.starts = x.1.starts) l _ rfl fun y hy k _ => (starts_startStep r n y k).trans hy

/-- The loss of power leaves the state after a reset, but for what fuses and flash hold. -/
theorem powerLoss_leaves (s : State) : ∃ t, exec .powerLoss s = .next t ∧ t.pkg.power = false ∧ t.hub = Hub.reset ∧ t.threads = [] ∧ t.ctxs = [] ∧
    t.cores = State.reset.cores ∧ t.pkg.fuse = s.pkg.fuse ∧ t.pkg.life = s.pkg.life ∧ t.pkg.slotA = s.pkg.slotA ∧ t.pkg.slotB = s.pkg.slotB ∧
    t.pkg.bootLog = s.pkg.bootLog := by
  refine ⟨withoutPower s s.pkg, rfl, ?_⟩
  unfold withoutPower
  exact ⟨rfl, rfl, rfl, rfl, rfl, rfl, rfl, rfl, rfl, rfl⟩

/-- What a start makes of the package. -/
def startedPkg (r : StartFindings) (s : State) : Pkg :=
  (((List.range 9).map (· + 1)).foldl (startStep r (s.pkg.starts + 1)) (bootPkg s.pkg, true)).1

theorem starts_startedPkg (r : StartFindings) (s : State) : (startedPkg r s).starts = s.pkg.starts + 1 := starts_startSteps ..

/-- What a start leaves of the state: the package, with contexts, threads and placed memory as they are without power. -/
def startLeaves (s : State) : Nat × Memory × List Ctx × List Thread := (s.pkg.starts, s.hub.placed, s.ctxs, s.threads)

theorem startLeaves_offStacks (l : List Nat) (s : State) :
    startLeaves (l.foldl (fun s d => modDie s d fun x => { x with st := .offline }) s) = startLeaves s := by
  refine foldl_field (g := startLeaves) (fun s d => ?_) l s
  rfl

theorem powerOnStart_leaves (r : StartFindings) (s : State) :
    ∃ t, exec (.powerOnStart r) s = .next t ∧ startLeaves t = (s.pkg.starts + 1, [], [], []) := by
  have hexec : exec (.powerOnStart r) s = execPowerOnStart r s := rfl
  have hstarts := starts_startedPkg r s
  rw [hexec]
  unfold execPowerOnStart
  dsimp only
  split
  · exact ⟨_, rfl, congrArg (·, _) hstarts⟩
  · exact ⟨_, rfl, (startLeaves_offStacks ..).trans (congrArg (·, _) hstarts)⟩

/-- Settles O60: each event of the package does what its rule says where its conditions hold. -/
theorem packageEventsComplete : Obligations.PackageEventsComplete := by
  refine fun s => ⟨fun img hrsa hslh hlow hhigh => firmwareUpdate_stores ⟨by simp [signed, hrsa, hslh], hlow, hhigh⟩, fun img hbad => ?_,
    fun c hsigned hup hlast => ⟨_, exec_lifeCycleAdvance_signed hsigned hup hlast, rfl, rfl⟩, fun c => exec_lifeCycleAdvance_back,
    fun v hgo hidle => ⟨_, exec_attestationRequest hgo hidle, rfl, rfl, rfl⟩,
    attestationReportDone_writes, powerLoss_leaves s, fun r => ?_⟩
  · refine exec_firmwareUpdate_refused fun ⟨hsigned, hlow, hhigh⟩ => ?_
    obtain ⟨hrsa, hslh⟩ := Bool.and_eq_true_iff.mp hsigned
    rcases hbad with h | h | h | h
    · simp [h] at hrsa
    · simp [h] at hslh
    · omega
    · omega
  · obtain ⟨t, hexec, hleaves⟩ := powerOnStart_leaves r s
    simp only [startLeaves, Prod.mk.injEq] at hleaves
    obtain ⟨hstarts, hplaced, hctxs, hthreads⟩ := hleaves
    exact ⟨t, hexec, hstarts, hplaced, hctxs, hthreads⟩

end Sys2Proof.Machine
end

section
/-! PROOFS (O49). Notification entries: what a write of an entry leaves, the look at its signal, and the message of a firing (R391). -/
namespace Sys2Proof.Machine

/-! One entry changed -/

def withNotify (s : State) (l : List Notify) : State := { s with ap := { s.ap with notify := l } }

/-- In `t` entry `n` is `x`, and nothing else differs from `s`. -/
def EntryBecomes (s : State) (n : Nat) (x : Notify) (t : State) : Prop :=
  t = withNotify s t.ap.notify ∧ t.ap.notify[n]? = some x ∧ ∀ k, k ≠ n → t.ap.notify[k]? = s.ap.notify[k]?

theorem entryBecomes_self {s : State} {n : Nat} {e : Notify} (he : s.ap.notify[n]? = some e) : EntryBecomes s n e s := ⟨rfl, he, fun _ _ => rfl⟩

theorem EntryBecomes.modAt {s t : State} {n : Nat} {x : Notify} (h : EntryBecomes s n x t) (f : Notify → Notify) :
    EntryBecomes s n (f x) (withNotify t (modAt f t.ap.notify n)) := by
  obtain ⟨hstate, hx, hothers⟩ := h
  refine ⟨by rw [hstate]; rfl, ?_, fun k hk => (getElem?_modAt_other f _ hk).trans (hothers k hk)⟩
  exact (getElem?_modAt_same f _ n).trans (congrArg _ hx)

/-! The look at the signal -/

/-- An entry with EN clear (R391). -/
def disarmed (e : Notify) : Notify := { e with nsig := e.nsig &&& 0x7FFF }

section
variable {s : State} {n k : Nat} {e : Notify} (he : s.ap.notify[n]? = some e)
include he

theorem getD_notify : s.ap.notify.getD n Notify.reset = e := by rw [List.getD_eq_getElem?_getD, he]; rfl

theorem armNotify_disabled (hoff : sigField e.nsig.toNat = none) : armNotify s n = s := by
  unfold armNotify
  rw [getD_notify he]
  dsimp only
  rw [hoff]

/-- A context that is not there has no valid signal. -/
theorem armNotify_noCtx (hsig : sigField e.nsig.toNat = some k) (hctx : ctx? s e.ctx.toNat = none) (hcalm : s.hub.stalls = []) :
    armNotify s n = withNotify s (modAt disarmed s.ap.notify n) := by
  have hvalue : signalValue s e.ctx.toNat k = (s, none) := by simp [signalValue, watchSignal, hctx]
  unfold armNotify
  rw [getD_notify he]
  dsimp only
  rw [hsig]
  dsimp only
  rw [hvalue]
  exact if_neg (by simp [stalled, hcalm])

/-- A signal whose word is known is read at once. -/
theorem armNotify_watched {c : Ctx} {pa : Nat} (hsig : sigField e.nsig.toNat = some k) (hctx : ctx? s e.ctx.toNat = some c) (hk : k < c.regs.sigtN.toNat)
    (hpa : c.sigs.find? (fun x => x.n == k) = some ⟨k, some pa⟩) :
    armNotify s n = if wordAt s pa ≤ e.thr then withNotify s (modAt (fireEntry s) s.ap.notify n) else s := by
  have hvalue : signalValue s e.ctx.toNat k = (s, some (wordAt s pa)) := by simp [signalValue, watchSignal, hctx, Nat.not_le.mpr hk, hpa]
  unfold armNotify
  rw [getD_notify he]
  dsimp only
  rw [hsig]
  dsimp only
  rw [hvalue]
  rfl

end

/-- A firing owes the vector that the entry holds, once the write of the signal's word is seen. -/
theorem fireEntry_watched {s : State} {e : Notify} {k pa : Nat} {c : Ctx} (hsig : sigField e.nsig.toNat = some k) (hctx : ctx? s e.ctx.toNat = some c)
    (hpa : c.sigs.find? (fun x => x.n == k) = some ⟨k, some pa⟩) : fireEntry s e = { disarmed e with due := e.due ++ [(e.vec.toNat, some pa)] } := by
  simp only [fireEntry, hctx, sigField_index hsig, hpa, Option.bind_some, disarmed]

/-! The arming -/

/-- The state in which a write of an entry is stored. -/
def entryStored (s : State) (n : Nat) (w : BitVec 64) : State := withNotify s (modAt (armed · w) s.ap.notify n)

theorem exec_notifyEntryArm {s : State} {n : Nat} (hn : n < 64) (w : BitVec 64) :
    exec (.notifyEntryArm n w) s = .next (armNotify (entryStored s n w) n) := if_neg (Nat.not_le.mpr hn)

theorem entryStored_becomes {s : State} {n : Nat} {e : Notify} (he : s.ap.notify[n]? = some e) (w : BitVec 64) :
    EntryBecomes s n (armed e w) (entryStored s n w) := (entryBecomes_self he).modAt (armed · w)

theorem armLooksAtOnce : ArmLooksAtOnce := by
  intro s n w e hn he
  have hstored := entryStored_becomes he w
  have ⟨_, harmed, _⟩ := hstored
  have holds : ∀ {t x}, armNotify (entryStored s n w) n = t → EntryBecomes s n x t →
      ∃ t, exec (.notifyEntryArm n w) s = .next t ∧ EntryBecomes s n x t := fun harm h => ⟨_, (exec_notifyEntryArm hn w).trans (congrArg _ harm), h⟩
  refine ⟨fun hoff => holds (armNotify_disabled harmed hoff) hstored,
    fun k hsig hctx hcalm => holds (armNotify_noCtx harmed hsig hctx hcalm) (hstored.modAt disarmed), fun k c pa hsig hctx hk hpa => ?_⟩
  have hlook := armNotify_watched harmed hsig hctx hk hpa
  refine ⟨fun hat => holds (hlook.trans (if_pos hat)) ?_, fun habove => holds (hlook.trans (if_neg (BitVec.not_le.mpr habove))) hstored⟩
  have hfires := hstored.modAt (fireEntry (entryStored s n w))
  rwa [fireEntry_watched (s := entryStored s n w) hsig hctx hpa] at hfires

/-! The message -/

/-- The state in which the oldest firing of an entry has sent its message. -/
def messageSentFrom (s : State) (n vec : Nat) (rest : List (Nat × Option Nat)) : State :=
  { s with ap := { s.ap with notify := modAt (fun e => { e with due := rest }) s.ap.notify n }, hub := { s.hub with msix := s.hub.msix ++ [vec] } }

section
variable {s : State} {n vec : Nat} {pa : Option Nat} {rest : List (Nat × Option Nat)} {e : Notify} (he : s.ap.notify[n]? = some e)
  (hdue : e.due = (vec, pa) :: rest)
include he hdue

theorem exec_hostNotificationMessage_sends (hseen : ∀ a, pa = some a → ∀ d ∈ s.dies, ∀ m ∈ d.inbox, runsTouch m.runs a 8 = false) :
    exec (.hostNotificationMessage n) s = .next (messageSentFrom s n vec rest) := by
  have hsent : modAt (fun e : Notify => { e with due := e.due.drop 1 }) s.ap.notify n = modAt (fun e => { e with due := rest }) s.ap.notify n :=
    modAt_congr_at he (by rw [hdue]; rfl)
  have hseen' : ¬ (pa.any fun a => s.dies.any fun d => d.inbox.any fun m => runsTouch m.runs a 8) = true := by
    rw [Option.any_eq_true]
    rintro ⟨a, ha, hway⟩
    obtain ⟨d, hd, hway⟩ := List.any_eq_true.mp hway
    obtain ⟨m, hm, hway⟩ := List.any_eq_true.mp hway
    exact Bool.false_ne_true ((hseen a ha d hd m hm).symm.trans hway)
  show execHostNotificationMessage n s = _
  unfold execHostNotificationMessage
  rw [getD_notify he, hdue]
  dsimp only
  rw [if_neg hseen', hsent]
  rfl

theorem exec_hostNotificationMessage_waits {a : Nat} (ha : pa = some a) (hway : ∃ d ∈ s.dies, ∃ m ∈ d.inbox, runsTouch m.runs a 8 = true) :
    exec (.hostNotificationMessage n) s = .next s := by
  show execHostNotificationMessage n s = _
  unfold execHostNotificationMessage
  rw [getD_notify he, hdue, ha]
  exact if_pos (by simpa using hway)

end

theorem messageSent : MessageSent := fun _ _ _ _ _ _ he hdue =>
  ⟨exec_hostNotificationMessage_sends he hdue, fun _ ha => exec_hostNotificationMessage_waits he hdue ha⟩

/-- Settles O49: arming stores and looks once, and each firing sends its message once. -/
theorem notificationsComplete : Obligations.NotificationsComplete := by
  refine ⟨fun s n w hn => ⟨⟨entryStored s n w, exec_notifyEntryArm hn w, rfl, fun e he => ?_, fun k hk => getElem?_modAt_other _ _ hk⟩,
    fun e vec rest he hdue => ?_⟩, armLooksAtOnce, messageSent⟩
  · obtain ⟨-, harmed, -⟩ := entryStored_becomes he w
    exact harmed
  · refine ⟨_, exec_hostNotificationMessage_sends he hdue nofun, rfl, ?_, rfl, rfl⟩
    exact (getElem?_modAt_same _ _ n).trans (congrArg _ he)

end Sys2Proof.Machine
end

section
/-! PROOFS (O57). The host's accesses: where they go, when they are served, and what they wait for (R388, R396, R397). -/
namespace Sys2Proof.Machine

theorem hostPaOf_eq_some_iff {s : State} {a : HostAddr} {n pa : Nat} : hostPaOf s a n = some pa ↔
    a = .mem pa ∨ ∃ off, a = .bar2 off ∧ off + n ≤ 2 ^ 36 ∧ pa = s.ap.b2off.toNat + off := by
  cases a with
  | mem p => simp [hostPaOf]
  | bar2 off =>
    unfold hostPaOf
    by_cases hin : off + n ≤ 2 ^ 36
    · simp only [if_pos hin, Option.some.injEq, reduceCtorEq, HostAddr.bar2.injEq, false_or]
      exact ⟨fun h => ⟨off, rfl, hin, h.symm⟩, fun ⟨_, hoff, _, hpa⟩ => hoff ▸ hpa.symm⟩
    · simp only [if_neg hin, reduceCtorEq, HostAddr.bar2.injEq, false_or, false_iff]
      rintro ⟨_, rfl, hle, -⟩
      exact hin hle

/-! Accesses served in their order (R388, R397) -/

/-- Nothing is served behind a write whose home is away. -/
theorem serveHost_waits {s : State} {p : Nat} {d : List Byte} (r : List HostReq) (h : rangeAway s p d.length = true) :
    serveHost s (.write p d :: r) = { s with hub := { s.hub with hostWaits := .write p d :: r } } := if_pos h

theorem serveHost_write {s : State} {p : Nat} {d : List Byte} (r : List HostReq) (h : rangeAway s p d.length = false) :
    serveHost s (.write p d :: r) = serveHost (hubWrite s p d) r := if_neg (by simp [h])

theorem serveHost_read {s : State} {p n : Nat} (r : List HostReq) (h : rangeAway s p n = false) :
    serveHost s (.read p n :: r) = serveHost (hostAnswer (hubReads s p n) (hubRead s p n)) r := if_neg (by simp [h])

theorem serveHost_readFails {s : State} {p n : Nat} (r : List HostReq) (h : rangeAway s p n = true) :
    serveHost s (.read p n :: r) = serveHost (hostAnswer s []) r := if_pos h

theorem serveHost_nil {s : State} (h : s.hub.hostWaits = []) : serveHost s [] = s := by
  show { s with hub := { s.hub with hostWaits := [] } } = s
  rw [← h]

/-! The two accesses -/

section
variable {s : State} {a : HostAddr} {pa : Nat}

theorem exec_hostWrite_hbm {data : List Byte} (ha : hostPaOf s a data.length = some pa) (hin : hbmRange pa data.length = true) :
    exec (.hostWrite a data) s = .next (serveHost s (s.hub.hostWaits ++ [.write pa data])) := by
  show execHostWrite a data s = _
  unfold execHostWrite
  rw [ha]
  exact if_pos hin

theorem exec_hostWrite_outside {data : List Byte} (h : ∀ pa, hostPaOf s a data.length = some pa → hbmRange pa data.length = false) :
    exec (.hostWrite a data) s = .next s := by
  show execHostWrite a data s = _
  unfold execHostWrite
  cases ha : hostPaOf s a data.length with
  | none => rfl
  | some pa => exact if_neg (by simp [h pa ha])

theorem exec_hostRead_hbm {n : Nat} (ha : hostPaOf s a n = some pa) (hin : hbmRange pa n = true) :
    exec (.hostRead a n) s = .next (serveHost s (s.hub.hostWaits ++ [.read pa n])) := by
  show execHostRead a n s = _
  unfold execHostRead
  rw [ha]
  exact if_pos hin

theorem exec_hostRead_outside {n : Nat} (h : ∀ pa, hostPaOf s a n = some pa → hbmRange pa n = false) :
    exec (.hostRead a n) s = .next (hostAnswer s []) := by
  show execHostRead a n s = _
  unfold execHostRead
  cases ha : hostPaOf s a n with
  | none => rfl
  | some pa => exact if_neg (by simp [h pa ha])

/-- A write that waits for nothing is the hub's write. -/
theorem exec_hostWrite_now {data : List Byte} (ha : hostPaOf s a data.length = some pa) (hin : hbmRange pa data.length = true)
    (hidle : s.hub.hostWaits = []) (haway : rangeAway s pa data.length = false) :
    exec (.hostWrite a data) s = .next (serveHost (hubWrite s pa data) []) := by
  rw [exec_hostWrite_hbm ha hin, hidle]
  exact congrArg _ (serveHost_write [] haway)

theorem exec_hostRead_now {n : Nat} (ha : hostPaOf s a n = some pa) (hin : hbmRange pa n = true)
    (hidle : s.hub.hostWaits = []) (haway : rangeAway s pa n = false) :
    exec (.hostRead a n) s = .next (serveHost (hostAnswer (hubReads s pa n) (hubRead s pa n)) []) := by
  rw [exec_hostRead_hbm ha hin, hidle]
  exact congrArg _ (serveHost_read [] haway)

/-- An access behind a write that waits for its home waits too. -/
theorem serveHost_behind {p : Nat} {d : List Byte} {r : List HostReq} (hwait : s.hub.hostWaits = .write p d :: r) (haway : rangeAway s p d.length = true)
    (q : HostReq) : serveHost s (s.hub.hostWaits ++ [q]) = { s with hub := { s.hub with hostWaits := s.hub.hostWaits ++ [q] } } := by
  rw [hwait]
  exact serveHost_waits (r ++ [q]) haway

end

/-! What is placed, and what is answered -/

theorem hostWrite_places {s : State} {a : HostAddr} {pa : Nat} {data : List Byte} (ha : hostPaOf s a data.length = some pa)
    (hin : hbmRange pa data.length = true) (hidle : s.hub.hostWaits = []) (haway : rangeAway s pa data.length = false) :
    ∃ t, exec (.hostWrite a data) s = .next t ∧ t.hub.placed = memWrite s.hub.placed pa data ∧ MemoryKeptOutside s t pa data.length ∧
      (∀ i, i < data.length → memRead t.hub.placed (pa + i) = data.getD i 0) ∧ t.threads = s.threads ∧ t.ap = s.ap := by
  have hplaced : (serveHost (hubWrite s pa data) []).hub.placed = memWrite s.hub.placed pa data := placed_hubWrite s pa data
  obtain ⟨-, -, -, -, -, hap, -, -, -, hthreads, -⟩ := hubWrite_hubOnly s pa data (.refl s)
  refine ⟨_, exec_hostWrite_now ha hin hidle haway, hplaced, fun x hx => ?_, fun i hi => ?_, hthreads, hap⟩
  · rw [hplaced]
    exact memRead_memWrite_other _ _ _ _ hx
  · rw [hplaced]
    exact memRead_memWrite_same _ _ _ _ hi

theorem hostRead_answers {s : State} {a : HostAddr} {pa n : Nat} (ha : hostPaOf s a n = some pa)
    (hin : hbmRange pa n = true) (hidle : s.hub.hostWaits = []) (haway : rangeAway s pa n = false) :
    ∃ t, exec (.hostRead a n) s = .next t ∧ t.hub.hostOut = s.hub.hostOut ++ [memReadN s.hub.placed pa n] ∧ t.hub.placed = s.hub.placed ∧
      t.threads = s.threads ∧ t.cores = s.cores ∧ t.effects = s.effects := by
  have hexec := exec_hostRead_now ha hin hidle haway
  rw [hubReads_linesOnly s pa n] at hexec
  exact ⟨_, hexec, rfl, rfl, rfl, rfl, rfl⟩

/-- Settles O57: an access is served at once, waits behind what waits before it, or fails. -/
theorem hostAccesses : Obligations.HostAccesses := by
  intro s a waits fails
  refine ⟨fun n pa => hostPaOf_eq_some_iff, fun data hnone => exec_hostWrite_outside (by simp [hnone]),
    fun n hnone => exec_hostRead_outside (by simp [hnone]),
    fun pa data ha => ⟨fun hout => exec_hostWrite_outside (by simp [ha, hout]), hostWrite_places ha, fun hin hidle haway => ?_,
      fun p d r hin hwait haway => ?_⟩,
    fun pa n ha => ⟨fun hout => exec_hostRead_outside (by simp [ha, hout]), hostRead_answers ha, fun hin hidle haway => ?_,
      fun p d r hin hwait haway => ?_⟩⟩
  · refine (exec_hostWrite_hbm ha hin).trans (congrArg _ ?_)
    rw [hidle]
    exact serveHost_waits [] haway
  · exact (exec_hostWrite_hbm ha hin).trans (congrArg _ (serveHost_behind hwait haway _))
  · refine (exec_hostRead_hbm ha hin).trans (congrArg _ ?_)
    rw [hidle]
    exact (serveHost_readFails [] haway).trans (serveHost_nil hidle)
  · exact (exec_hostRead_hbm ha hin).trans (congrArg _ (serveHost_behind hwait haway _))

end Sys2Proof.Machine
end

section
/-! PROOFS (O54). A warm reset of a die, state by state: drain, write-back, offline, re-admission (R387, R388, R397). -/
namespace Sys2Proof.Machine

/-! Each event where its conditions hold -/

theorem exec_drstGo_busy {s : State} {v : BitVec 32} (hgo : v.getLsbD 31 = true) (hbusy : drstBusy s v = true) : exec (.drstGo v) s = .next s := by
  show execDrstGo v s = _
  unfold execDrstGo
  rw [if_pos hgo, if_pos hbusy]

theorem exec_drstGo_noGo {s : State} {v : BitVec 32} (hgo : v.getLsbD 31 = false) :
    exec (.drstGo v) s = .next { s with ap := { s.ap with drst := (v &&& 0x80000107) ||| (s.ap.drst &&& 0x80000000) } } :=
  if_neg (ne_true_of_eq_false hgo)

theorem exec_drstGo_drains {s : State} {v : BitVec 32} (hgo : v.getLsbD 31 = true) (hidle : drstBusy s v = false) :
    exec (.drstGo v) s =
      .next (settleInsts (setDie { s with ap := { s.ap with drst := v &&& 0x80000107 } } (v.toNat % 8) .draining) (threadOn s (v.toNat % 8))) := by
  show execDrstGo v s = _
  unfold execDrstGo
  rw [if_pos hgo, if_neg (by simp [hidle])]

/-- A drained die once its groups have left it. -/
def groupsLeft (s : State) (d : Nat) : State :=
  clearGroups (settleInsts s (threadOn s d)) d ((settleInsts s (threadOn s d)).ap.drst.getLsbD 8)

/-- Every line of a slice written back. -/
def writeBackSlice (s : State) (d : Nat) : State := (die s d).l2.foldl (fun s l => writeBackFrom s l.line d) s

theorem exec_dieResetWriteBack {s : State} {d : Nat} (hd : resetting? s .draining = some d) (hdrained : drained (settleInsts s (threadOn s d)) d = true) :
    exec .dieResetWriteBack s = .next (setDie (writeBackSlice (groupsLeft s d) d) d .writingBack) := by
  show execDieResetWriteBack s = _
  unfold execDieResetWriteBack
  rw [hd]
  exact if_neg (by simp [hdrained])

theorem exec_dieResetOffline {s : State} {d : Nat} (hd : resetting? s .writingBack = some d) (hdrained : drained s d = true) :
    exec .dieResetOffline s = .next (wipeDie s d) := by
  show execDieResetOffline s = _
  unfold execDieResetOffline
  rw [hd]
  exact if_pos hdrained

theorem exec_dieReadmit_begins {s : State} {d : Nat} (hd : resetting? s .offline = some d) :
    exec .dieReadmit s = .next (setDie (writeBackHome s d) d .readmitting) := by
  show execDieReadmit s = _
  unfold execDieReadmit
  rw [hd]

theorem exec_dieReadmit_ends {s : State} {d : Nat} (hoff : resetting? s .offline = none) (hd : resetting? s .readmitting = some d) :
    exec .dieReadmit s = .next (endReadmit s d) := by
  show execDieReadmit s = _
  unfold execDieReadmit
  rw [hoff, hd]

/-! The drain -/

theorem settleInsts_noThread {s : State} (h : s.threads = []) (p : Thread → Bool) : settleInsts s p = s := by
  rw [settleInsts, h]; rfl

theorem st_setDie (s : State) {d : Nat} (hd : d < s.dies.length) (st : DieSt) : (die (setDie s d st) d).st = st := by
  rw [setDie, die_modDie_same _ _ _ hd]

theorem drstGo_drains {s : State} {v : BitVec 32} (hgo : v.getLsbD 31 = true) (hidle : drstBusy s v = false) (hnone : s.threads = [])
    (hd : v.toNat % 8 < s.dies.length) : ∃ t, exec (.drstGo v) s = .next t ∧ (die t (v.toNat % 8)).st = .draining ∧ t.ap.drst = v &&& 0x80000107 ∧
      t.hub = s.hub ∧ ∀ d, d ≠ v.toNat % 8 → die t d = die s d := by
  have hexec := exec_drstGo_drains hgo hidle
  rw [settleInsts_noThread (by exact hnone)] at hexec
  exact ⟨_, hexec, st_setDie _ hd _, rfl, rfl, fun d hne => die_modDie_other _ _ hne⟩

/-! The write-back -/

theorem dies_touchL3 (s : State) (line : Nat) (dirty : BitVec 256) (z : Option Bool) : (touchL3 s line dirty z).dies = s.dies := by
  unfold touchL3
  split
  · rfl
  · dsimp only
    split <;> rfl

/-- A line whose sectors have gone to the L3. -/
def cleanLine (l : L2Line) : L2Line := { l with dirty := 0 }

/-- The slice after the write-back of a line: that line clean, unless the slice's copy was clean before. -/
theorem l2_writeBackFrom {s : State} {d : Nat} (hd : d < s.dies.length) (line : Nat) :
    (die (writeBackFrom s line d) d).l2 = modWhere (fun l => l.line == line) cleanLine (die s d).l2 ∨
    (die (writeBackFrom s line d) d).l2 = (die s d).l2 ∧ ∀ l, l2Find s d line = some l → l.dirty = 0 := by
  unfold writeBackFrom
  cases hl : l2Find s d line with
  | none => exact .inr ⟨rfl, nofun⟩
  | some l =>
    dsimp only
    split
    next hclean => exact .inr ⟨rfl, fun x hx => by obtain rfl := Option.some.inj hx; simpa using hclean⟩
    next =>
      refine .inl ?_
      rw [die_modDie_same _ _ _ (by rwa [dies_touchL3]), die, dies_touchL3]
      rfl

theorem lines_writeBackFrom {s : State} {d : Nat} (hd : d < s.dies.length) (line : Nat) :
    (die (writeBackFrom s line d) d).l2.map (·.line) = (die s d).l2.map (·.line) := by
  rcases l2_writeBackFrom hd line with h | ⟨h, -⟩
  · rw [h]; exact map_modWhere (f := cleanLine) (fun _ => rfl) _
  · rw [h]

theorem length_dies_writeBackFrom (s : State) (line d : Nat) : (writeBackFrom s line d).dies.length = s.dies.length := by
  unfold writeBackFrom
  split
  · split
    · rfl
    · rw [modDie_dies, length_modAt, dies_touchL3]
  · rfl

/-- Where no two lines of a slice are one, the line written back is clean in it and no other becomes dirty. -/
theorem writeBackFrom_cleans {s : State} {d : Nat} (hd : d < s.dies.length) (hnodup : ((die s d).l2.map (·.line)).Nodup) (line : Nat) :
    ∀ l ∈ (die (writeBackFrom s line d) d).l2, l.dirty = 0 ∨ l ∈ (die s d).l2 ∧ l.line ≠ line := by
  intro l hl
  rcases l2_writeBackFrom hd line with h | ⟨h, hclean⟩
  · rw [h] at hl
    obtain ⟨x, hx, rfl⟩ := List.mem_map.mp hl
    split
    next => exact .inl rfl
    next hne => exact .inr ⟨hx, by simpa using hne⟩
  · rw [h] at hl
    by_cases hline : l.line = line
    · refine .inl (hclean l ?_)
      obtain ⟨x, hx⟩ : ∃ x, l2Find s d line = some x := Option.isSome_iff_exists.mp (List.find?_isSome.mpr ⟨l, hl, by simpa using hline⟩)
      have hxline : x.line = line := by simpa using List.find?_some hx
      rw [hx, List.inj_on_of_nodup_map hnodup (List.mem_of_find?_eq_some hx) hl (hxline.trans hline.symm)]
    · exact .inr ⟨hl, hline⟩

theorem foldl_writeBackFrom_cleans {d : Nat} : ∀ (ls : List L2Line) {s : State}, d < s.dies.length → ((die s d).l2.map (·.line)).Nodup →
    ∀ l ∈ (die (ls.foldl (fun s l => writeBackFrom s l.line d) s) d).l2, l.dirty = 0 ∨ l ∈ (die s d).l2 ∧ ∀ x ∈ ls, l.line ≠ x.line
  | [], _, _, _ => fun _ hl => .inr ⟨hl, nofun⟩
  | x :: ls, s, hd, hnodup => by
    intro l hl
    have hd1 : d < (writeBackFrom s x.line d).dies.length := by rwa [length_dies_writeBackFrom]
    have hnodup1 : ((die (writeBackFrom s x.line d) d).l2.map (·.line)).Nodup := by rwa [lines_writeBackFrom hd]
    rcases foldl_writeBackFrom_cleans ls hd1 hnodup1 l hl with h | ⟨hmem, hrest⟩
    · exact .inl h
    · refine (writeBackFrom_cleans hd hnodup x.line l hmem).imp id fun ⟨hold, hne⟩ => ⟨hold, fun y hy => ?_⟩
      rcases List.mem_cons.mp hy with rfl | hy
      · exact hne
      · exact hrest y hy

theorem writeBackSlice_linesOnly (s : State) (d : Nat) : LinesOnly s (writeBackSlice s d) :=
  foldl_linesOnly (fun s (l : L2Line) => writeBackFrom_linesOnly s l.line d) _ s

theorem length_dies_writeBackSlice (s : State) (d : Nat) : (writeBackSlice s d).dies.length = s.dies.length :=
  foldl_field (g := fun s => s.dies.length) (fun s (l : L2Line) => length_dies_writeBackFrom s l.line d) _ s

theorem writeBackSlice_clean {s : State} {d : Nat} (hd : d < s.dies.length) (hnodup : ((die s d).l2.map (·.line)).Nodup) :
    ∀ l ∈ (die (writeBackSlice s d) d).l2, l.dirty = 0 := fun l hl =>
  (foldl_writeBackFrom_cleans _ hd hnodup l hl).elim id fun ⟨hmem, hne⟩ => absurd rfl (hne l hmem)

theorem dieResetWriteBack_leaves {s : State} {d : Nat} (hd : resetting? s .draining = some d)
    (hdrained : drained (settleInsts s (threadOn s d)) d = true) : ∃ t, exec .dieResetWriteBack s = .next t ∧ t.hub.placed = (groupsLeft s d).hub.placed ∧
      t.threads = (groupsLeft s d).threads ∧ t.effects = (groupsLeft s d).effects ∧ (d < (groupsLeft s d).dies.length → (die t d).st = .writingBack ∧
        (((die (groupsLeft s d) d).l2.map (·.line)).Nodup → ∀ l ∈ (die t d).l2, l.dirty = 0)) := by
  obtain ⟨-, hplaced, hthreads, -, heffects⟩ := (writeBackSlice_linesOnly (groupsLeft s d) d).keeps
  refine ⟨_, exec_dieResetWriteBack hd hdrained, hplaced, hthreads, heffects, fun hlen => ?_⟩
  have hlen1 : d < (writeBackSlice (groupsLeft s d) d).dies.length := by rwa [length_dies_writeBackSlice]
  refine ⟨st_setDie _ hlen1 _, fun hnodup => ?_⟩
  rw [setDie, die_modDie_same _ _ _ hlen1]
  exact writeBackSlice_clean hlen hnodup

/-! The offline die (R405) -/

theorem core_foldl_reset : ∀ {l : List Nat} {s : State} {vc : Nat}, vc ∈ l ∨ core s vc = Core.reset →
    core (l.foldl (fun s vc => modCore s vc fun _ => Core.reset) s) vc = Core.reset
  | [], _, _, h => h.resolve_left List.not_mem_nil
  | a :: l, s, vc, h => by
    refine core_foldl_reset (s := modCore s a fun _ => Core.reset) ?_
    by_cases hvc : vc = a
    · subst hvc
      right
      by_cases hlen : vc < s.cores.length
      · exact core_modCore_same s vc _ hlen
      · rw [core, modCore_cores, modAt_beyond _ _ _ (Nat.not_lt.mp hlen), List.getD_eq_getElem?_getD, List.getElem?_eq_none (Nat.not_lt.mp hlen)]
        rfl
    · exact h.imp (fun hmem => (List.mem_cons.mp hmem).resolve_left hvc) fun hreset => (core_modCore_other s _ hvc).trans hreset

/-- The cores of the die wiped. -/
def coresWiped (s : State) (d : Nat) : State := (coresOn s d).foldl (fun s vc => modCore s vc fun _ => Core.reset) (flushDie s d)

theorem coresWiped_keeps (s : State) (d : Nat) : CoresOnly (flushDie s d) (coresWiped s d) :=
  foldl_coresOnly (fun s vc => modCore_coresOnly s vc fun _ => Core.reset) _ _

theorem wipeDie_offline {s : State} {d : Nat} (hd : d < s.dies.length) : (die (wipeDie s d) d).st = .offline ∧ (die (wipeDie s d) d).l2 = [] ∧
    (die (wipeDie s d) d).tlb = [] ∧ (∀ vc, vc < 128 → dieOf s vc = d → core (wipeDie s d) vc = Core.reset) ∧ (wipeDie s d).threads = s.threads ∧
    (wipeDie s d).hub = s.hub := by
  have hdies : (coresWiped s d).dies = (flushDie s d).dies := by rw [coresWiped_keeps s d]
  have hdie : die (wipeDie s d) d = { die (coresWiped s d) d with tlb := [], l2 := [], l2Wiped := l2Size, st := .offline } :=
    die_modDie_same (coresWiped s d) d _ (by rw [hdies, flushDie, modDie_dies, length_modAt]; exact hd)
  obtain ⟨hhub, -, -, hthreads, -⟩ := (coresWiped_keeps s d).keeps
  rw [hdie]
  exact ⟨rfl, rfl, rfl, fun vc hvc hon => core_foldl_reset (.inl (List.mem_filter.mpr ⟨List.mem_range.mpr hvc, by simpa using hon⟩)), hthreads, hhub⟩

/-! The re-admission (R388, R397) -/

theorem dieReadmit_begins {s : State} {d : Nat} (hd : resetting? s .offline = some d) : ∃ t, exec .dieReadmit s = .next t ∧ t.ap = s.ap ∧
    t.hub.placed = s.hub.placed ∧ t.effects = s.effects ∧ t.threads = s.threads ∧ (d < s.dies.length → (die t d).st = .readmitting) ∧
    ∀ l ∈ t.hub.l3, homeOf (256 * l.line) = d → l.dirty = 0 := by
  refine ⟨_, exec_dieReadmit_begins hd, rfl, rfl, rfl, rfl, fun hlen => st_setDie _ hlen _, fun l hl hhome => ?_⟩
  obtain ⟨x, -, rfl⟩ := List.mem_map.mp hl
  split at hhome
  next hx => rw [if_pos hx]
  next hx => exact absurd hhome (by simpa using hx)

/-- The die runs again, and DRST keeps no GO. -/
def readmitted (s : State) (d : Nat) : State := setDie { s with ap := { s.ap with drst := s.ap.drst &&& 0x107 } } d .running

theorem settleEffects_nothing {s : State} (he : s.effects = []) (hg : s.groups = []) (ht : s.threads = []) : settleEffects s = s := by
  have heach : settleEach s = s := by rw [settleEach, he]; rfl
  have hsweep : sweepEffects s = s := by rw [sweepEffects, he, List.filter_nil, ← he]
  have hframes : freeFrames s = s := by
    unfold freeFrames
    rw [ht]
    dsimp only
    rw [List.filter_nil, List.map_nil, ← ht]
  have hnobody : NobodyArrived s := fun g hgr => by rw [hg] at hgr; cases hgr
  rw [settleEffects_of_nobodyArrived (by rw [heach]) hnobody, heach, hsweep, hframes]

/-- Where the machine holds no thread, group or effect, the end of a re-admission serves what the host waits for, and no more. -/
theorem endReadmit_calm {s : State} (d : Nat) (ht : s.threads = []) (hg : s.groups = []) (he : s.effects = []) :
    endReadmit s d = serveHost (readmitted s d) s.hub.hostWaits := by
  cases s
  cases ht
  cases hg
  cases he
  refine (congrArg (fun u : State => serveHost u u.hub.hostWaits) (settleEffects_nothing ?_ ?_ ?_) :)
  all_goals rfl

theorem endReadmit_runs {s : State} {d : Nat} (hd : d < s.dies.length) (ht : s.threads = []) (hg : s.groups = []) (he : s.effects = [])
    (hidle : s.hub.hostWaits = []) : (die (endReadmit s d) d).st = .running ∧ (endReadmit s d).ap.drst = s.ap.drst &&& 0x107 ∧
      (endReadmit s d).hub = s.hub := by
  have hcalm := endReadmit_calm d ht hg he
  rw [hidle, serveHost_nil (s := readmitted s d) hidle] at hcalm
  rw [hcalm]
  exact ⟨st_setDie _ hd _, rfl, rfl⟩

/-- The write of the host that waited for the die is placed. -/
theorem endReadmit_places {s : State} {d pa : Nat} {data : List Byte} (ht : s.threads = []) (hg : s.groups = []) (he : s.effects = [])
    (hwait : s.hub.hostWaits = [.write pa data]) (hhome : rangeAway (setDie s d .running) pa data.length = false) :
    (endReadmit s d).hub.placed = memWrite s.hub.placed pa data ∧ (endReadmit s d).hub.hostWaits = [] := by
  rw [endReadmit_calm d ht hg he, hwait, serveHost_write (s := readmitted s d) [] hhome]
  exact ⟨placed_hubWrite (readmitted s d) pa data, rfl⟩

theorem dieStatesFollow : DieStatesFollow := fun _ =>
  ⟨fun _ => drstGo_drains, fun _ => wipeDie_offline, fun _ => endReadmit_runs, fun _ _ _ => endReadmit_places⟩

/-- Settles O54: each event of a reset takes the die to its next state, with what that state holds. -/
theorem dieResetCompletes : Obligations.DieResetCompletes :=
  ⟨fun _ => ⟨fun _ => exec_drstGo_busy, fun _ => exec_drstGo_noGo, fun _ => exec_drstGo_drains, fun _ => dieResetWriteBack_leaves,
    fun _ => exec_dieResetOffline, fun _ => dieReadmit_begins, fun _ => exec_dieReadmit_ends⟩, dieStatesFollow⟩

end Sys2Proof.Machine
end

section
/-! PROOFS (O46). Stalls that are told once, and held records that are tried again (R349, R368, R369, R373). -/
namespace Sys2Proof.Machine

/-! Stalls (R349, R373) -/

theorem exec_barrierStall_tells {s : State} {g w : Nat} {gr : Group} (hgr : groupNo? s g = some gr) (hw : w < 4) :
    let b := gr.bars.getD w ⟨0, [], 0, true, 0⟩
    barStalled s gr.ctx b.since b.told b.arrived = true → exec (.barrierStall g w) s = .next (postEvent
      (modGroup s gr.grid gr.gidx fun g => { g with bars := modAt (fun b => { b with told := true }) g.bars w })
      (barStallRec gr b.word b.arrived.length)) := by
  intro b hstalled
  show execBarrierStall g w s = _
  unfold execBarrierStall
  rw [hgr]
  dsimp only
  unfold Machine.barrierStall
  rw [if_pos hw]
  exact congrArg _ (if_pos hstalled)

/-- A thread that has told its stall. -/
def stallNoted (t : Thread) : Thread := { t with inst := t.inst.map fun i => { i with stallTold := true } }

theorem exec_heldCommitStall_tells {s : State} {vc frame from_ reason : Nat} {t : Thread} {x : Site} (ht : threadAt? s vc frame = some t)
    (hx : commitSite? s t = some x) (hfrom : x.ins.commitAt = some from_) (htold : x.ins.stallTold = false) (hmay : mayCommit s t = true)
    (hlate : from_ + wdLimit s t.ctx ≤ watchNow s t.ctx) (hlack : lacking? s x = some reason) :
    exec (.heldCommitStall vc frame) s =
      .next (postEvent (modThread s t.uid stallNoted) (threadRec t ⟨8, reason, BitVec.ofNat 32 reason, 0, 0⟩ false)) := by
  show execHeldCommitStall vc frame s = _
  unfold execHeldCommitStall
  rw [ht]
  dsimp only
  unfold Machine.heldCommitStall
  rw [hx]
  dsimp only
  rw [hfrom]
  dsimp only
  rw [if_neg (by simp [htold, hmay, hlate]), hlack]
  rfl

theorem heldCommitStall_reports {s : State} {vc frame from_ reason : Nat} {t : Thread} {x : Site} (ht : threadAt? s vc frame = some t)
    (hx : commitSite? s t = some x) (hfrom : x.ins.commitAt = some from_) (htold : x.ins.stallTold = false) (hmay : mayCommit s t = true)
    (hlate : from_ + wdLimit s t.ctx ≤ watchNow s t.ctx) (hlack : lacking? s x = some reason) :
    ∃ s1, exec (.heldCommitStall vc frame) s = .next (postEvent s1 (threadRec t ⟨8, reason, BitVec.ofNat 32 reason, 0, 0⟩ false)) ∧ s1.hub = s.hub ∧
      s1.threads.map (fun u => (u.st, u.slots, u.ptr, u.wait)) = s.threads.map fun u => (u.st, u.slots, u.ptr, u.wait) :=
  ⟨_, exec_heldCommitStall_tells ht hx hfrom htold hmay hlate hlack, rfl, map_modWhere (f := stallNoted) (fun _ => rfl) _⟩

/-! Held records (R368, R369) -/

theorem placed_holdRequests (s : State) (l : List HubStall) : (holdRequests s l).hub.placed = s.hub.placed := by
  refine foldl_field (g := fun s => s.hub.placed) (fun s m => ?_) l s
  dsimp only
  split
  · rfl
  · rfl

section
variable {s s1 : State} {ctx : Nat} {c : Ctx} {left : List EvRec} (hc : ctx? s ctx = some c) (hover : c.evOver = 0)
  (hw : writeParts c c.evHeld s = (s1, left))
include hc hover hw

/-- With no overflow to tell, what the queue does not take is held, with a request for each page that stopped it. -/
theorem retryEvents_eq : retryEvents s ctx =
    let s2 := modCtx s1 ctx fun c => { c with evHeld := left, retryAt := hubNow s + 4096 }
    holdRequests (setStalls s2 []) s2.hub.stalls := by
  unfold retryEvents
  rw [hc]
  dsimp only
  rw [hw]
  exact if_pos (by simp [hover])

/-- Where no page stopped it, no request is held. -/
theorem retryEvents_calm (hcalm : s1.hub.stalls = []) :
    retryEvents s ctx = modCtx s1 ctx fun c => { c with evHeld := left, retryAt := hubNow s + 4096 } := by
  have hstalls : setStalls s1 [] = s1 := by rw [setStalls, ← hcalm]
  rw [retryEvents_eq hc hover hw]
  dsimp only
  rw [modCtx_hub, hcalm]
  exact congrArg (fun u => modCtx u ctx fun c => { c with evHeld := left, retryAt := hubNow s + 4096 }) hstalls

end

/-- A retry with nothing to tell writes nothing. -/
theorem placed_retryEvents_nothing {s : State} {ctx : Nat} {c : Ctx} (hc : ctx? s ctx = some c) (hheld : c.evHeld = []) (hover : c.evOver = 0) :
    (retryEvents s ctx).hub.placed = s.hub.placed := by
  rw [retryEvents_eq hc hover (s1 := s) (left := []) (by rw [hheld]; rfl), placed_holdRequests]
  rfl

theorem heldRecordsRetried : HeldRecordsRetried := by
  intro s s1 ctx c r hc hheld hover hcalm
  have hretry : exec (.eventQueueRetry ctx) s = .next (retryEvents s ctx) := rfl
  rw [hretry]
  refine ⟨fun hw => congrArg _ (retryEvents_calm hc hover ?_ hcalm), fun hw => congrArg _ (retryEvents_calm hc hover ?_ hcalm)⟩
  · rw [hheld, writeParts, hw]
    rfl
  · rw [hheld, writeParts, hw]

/-- Settles O46: a stall is told once, and the records held are the first to be tried. -/
theorem stallsReported : Obligations.StallsReported := by
  refine ⟨fun s => ⟨fun g gr w hgr hw => exec_barrierStall_tells hgr hw, fun vc frame t x from_ reason => heldCommitStall_reports,
    fun ctx => ⟨rfl, fun c hc hheld hover k => ?_⟩⟩, heldRecordsRetried⟩
  rw [placed_retryEvents_nothing hc hheld hover]

end Sys2Proof.Machine
end

section
/-! PROOFS (O52, statuses). The status word of a command in the slot of its thread (R285, R312). -/
namespace Sys2Proof.Machine

theorem threads_wantConf (s : State) (uid : Nat) : (wantConf s uid).threads = s.threads := by
  unfold wantConf
  split
  · split
    · exact (startFetch_notesOnly s _ _ _ _).1
    · rfl
  · rfl

/-- A thread in whose slot a word of 32 bits has landed. -/
def wordLanded (n word : Nat) (t : Thread) : Thread :=
  { t with
    slots := setAt t.slots n ⟨BitVec.ofNat 32 word, true, false⟩
    statusAt := t.statusAt.filter fun k => !([n].contains k), lvsBad := t.lvsBad.filter fun k => !([n].contains k) }

/-- A thread that notes its slot as a status. -/
def statusNoted (n : Nat) (t : Thread) : Thread := { t with statusAt := n :: t.statusAt.filter (· != n) }

/-- A thread whose slot is not present. -/
def slotHidden (n : Nat) (t : Thread) : Thread := { t with slots := modAt (fun l => { l with pres := false }) t.slots n }

section
variable {s : State} {uid n word : Nat} {t : Thread} (ht : thread? s uid = some t) (hst : t.st ≠ .exited)
include ht hst

theorem thread?_landSlots : thread? (landSlots s uid n false word) uid = some (wordLanded n word t) := by
  refine (thread?_congr (threads_wantConf _ uid) uid).trans ((thread_modThread_same s uid _ fun u => ?_).trans ?_)
  · split <;> rfl
  · rw [ht, Option.map_some, if_neg (by simpa using hst)]
    rfl

/-- The status lands and is noted; where another command owes the slot, it is hidden. -/
theorem thread?_landStatus : thread? (landStatus s uid n word) uid =
    some (if n ∈ statusOwed s t then slotHidden n (statusNoted n (wordLanded n word t)) else statusNoted n (wordLanded n word t)) := by
  have hnoted : thread? (modThread (landSlots s uid n false word) uid (statusNoted n)) uid = some (statusNoted n (wordLanded n word t)) :=
    (thread_modThread_same _ uid (statusNoted n) fun _ => rfl).trans (congrArg _ (thread?_landSlots ht hst))
  unfold landStatus
  rw [ht]
  dsimp only
  rw [if_neg (by simpa using hst)]
  by_cases howed : n ∈ statusOwed s t
  · rw [if_pos (by simpa using howed), if_pos howed]
    exact (thread_modThread_same _ uid (slotHidden n) fun _ => rfl).trans (congrArg _ hnoted)
  · rw [if_neg (by simpa using howed), if_neg howed]
    exact hnoted

end

/-- The slot of a landed word, and every other one. -/
theorem getD_wordLanded {n : Nat} {t : Thread} (hn : n < t.slots.length) (word k : Nat) :
    (wordLanded n word t).slots.getD k Slot.empty = if k = n then ⟨BitVec.ofNat 32 word, true, false⟩ else t.slots.getD k Slot.empty :=
  getD_setAt _ _ _ _ _ hn

theorem statusLands : StatusLands := by
  intro s uid n word t ht hst hn
  have hlen : n < (statusNoted n (wordLanded n word t)).slots.length := hn.trans_eq (setAt_length _ _ _).symm
  have hsame := getD_wordLanded hn word n
  have hothers : ∀ k, k ≠ n → (wordLanded n word t).slots.getD k Slot.empty = t.slots.getD k Slot.empty :=
    fun k hk => (getD_wordLanded hn word k).trans (if_neg hk)
  rw [if_pos rfl] at hsame
  refine ⟨_, thread?_landStatus ht hst, ?_⟩
  by_cases howed : n ∈ statusOwed s t
  · have hhidden : (slotHidden n (statusNoted n (wordLanded n word t))).slots.getD n Slot.empty = ⟨BitVec.ofNat 32 word, false, false⟩ :=
      (getD_modAt_same _ _ _ _ hlen).trans (congrArg (fun l : Slot => { l with pres := false }) hsame)
    rw [if_pos howed, hhidden]
    exact ⟨rfl, by simp [howed], fun k hk => (getD_modAt_other _ _ _ _ _ hk).trans (hothers k hk), List.mem_cons_self, rfl, rfl⟩
  · rw [if_neg howed]
    exact ⟨congrArg (·.val) hsame, iff_of_true (congrArg (·.pres) hsame) howed, hothers, List.mem_cons_self, rfl, rfl⟩

end Sys2Proof.Machine
end

section
/-! PROOFS (O52, copies). A copy from its start over its lines to its end (R241, R279 to R287). -/
namespace Sys2Proof.Machine

/-! The start (R279, R280) -/

/-- A copy on its engine, with what its checks say. -/
def copyStarted (eng code : Nat) (c : Copy) : Copy :=
  { c with st := .running eng, pos := 0, clip := 0, code := code, stopped := code != 0, finite := true, waits := none }

section
variable {s : State} {vc eng : Nat} {c : Copy}

theorem exec_copyStart (heng : eng < 2) (hidle : runningOn s vc eng = none) (hfirst : eng = 1 → runningOn s vc 0 ≠ none)
    (hc : (core s vc).copies.find? (copyReady s vc) = some c) (hst : ∀ told, c.st ≠ .reread told) :
    exec (.copyStart vc eng) s = .next (startCopy s vc eng c) := by
  have hbusy : (eng == 1 && (runningOn s vc 0).isNone) = false := by
    by_cases h1 : eng = 1
    · simpa [h1, Option.isSome_iff_ne_none] using hfirst h1
    · simp [h1]
  show execCopyStart vc eng s = _
  unfold execCopyStart
  rw [if_neg (by simp [heng, hidle, hbusy]), hc]
  dsimp only
  split
  next told h => exact absurd h (hst told)
  next => rfl

theorem startEffects_none (hfill : copyOp c ≠ 0xC2) (hcast : copyOp c ≠ 0xC4) : startEffects s vc c = s := by
  unfold startEffects
  rw [if_neg (by simpa using hfill), if_neg (by simpa using hcast)]

/-- A copy that its checks fail, or one that takes neither a slot, a volley's tiles nor a channel, changes its own command alone. -/
theorem startCopy_plain (h : startCode s c ≠ 0 ∨ (copyOp c ≠ 0xC2 ∧ copyOp c ≠ 0xC4 ∧ viaChannel c = false)) :
    startCopy s vc eng c = modCopy s vc c.id (copyStarted eng (startCode s c)) := by
  unfold startCopy
  by_cases hcode : startCode s c = 0
  · obtain ⟨hfill, hcast, hchannel⟩ := h.resolve_left (absurd hcode)
    dsimp only
    rw [if_neg (by simp [hcode]), if_pos (by simp [hchannel]), startEffects_none (c := { c with st := .running eng }) hfill hcast]
    rfl
  · exact if_pos (by simpa using hcode)

theorem copies_modCopy (hvc : vc < s.cores.length) (id : Nat) (f : Copy → Copy) :
    (core (modCopy s vc id f) vc).copies = modWhere (fun c => c.id == id) f (core s vc).copies :=
  congrArg (·.copies) (core_modCore_same s vc _ hvc)

end

theorem copyStarts : CopyStarts := by
  intro s vc eng c hvc heng hidle hfirst hc hst hplain
  have hcopies := copies_modCopy hvc c.id (copyStarted eng (startCode s c))
  refine ⟨_, (exec_copyStart heng hidle hfirst hc hst).trans (congrArg _ (startCopy_plain hplain)), rfl, ?_, copyStarted eng (startCode s c) c, ?_, ?_⟩
  · rw [hcopies]
    exact List.length_map _
  · rw [hcopies]
    exact mem_modWhere_iff.mpr ⟨c, List.mem_of_find?_eq_some hc, if_pos (by simp)⟩
  · exact ⟨rfl, rfl, rfl, rfl, rfl, rfl, Bool.eq_iff_iff.mpr (by simp [copyStarted])⟩

/-! A line (R281, R284, R285) -/

/-- The states differ in the presence of a core's lines alone, and in which of them its copies hold clear. -/
def PresenceOnly (vc : Nat) (s t : State) : Prop := CoresOnly s t ∧ t.cores.length = s.cores.length ∧
  (core t vc).store.spad = (core s vc).store.spad ∧ ∀ x ∈ (core t vc).copies, ∃ y ∈ (core s vc).copies, x = { y with cleared := x.cleared }

theorem PresenceOnly.refl (vc : Nat) (s : State) : PresenceOnly vc s s := ⟨.refl s, rfl, rfl, fun x hx => ⟨x, hx, rfl⟩⟩

theorem PresenceOnly.trans {vc : Nat} {s t u : State} (h : PresenceOnly vc s t) (k : PresenceOnly vc t u) : PresenceOnly vc s u := by
  obtain ⟨hcores, hlength, hspad, hcopies⟩ := h
  obtain ⟨kcores, klength, kspad, kcopies⟩ := k
  refine ⟨hcores.trans kcores, klength.trans hlength, kspad.trans hspad, fun x hx => ?_⟩
  obtain ⟨y, hy, hxy⟩ := kcopies x hx
  obtain ⟨z, hz, hyz⟩ := hcopies y hy
  exact ⟨z, hz, by rw [hxy, hyz]⟩

theorem modCore_presenceOnly (s : State) (vc : Nat) {f : Core → Core} (hspad : ∀ k, (f k).store.spad = k.store.spad)
    (hcopies : ∀ k, ∀ x ∈ (f k).copies, ∃ y ∈ k.copies, x = { y with cleared := x.cleared }) : PresenceOnly vc s (modCore s vc f) := by
  refine ⟨modCore_coresOnly s vc f, length_modAt _ _ _, ?_⟩
  rcases core_modCore s vc f vc with h | h
  · rw [h]
    exact ⟨hspad _, hcopies _⟩
  · rw [h]
    exact ⟨rfl, fun x hx => ⟨x, hx, rfl⟩⟩

theorem restoreLine_presenceOnly (s : State) (vc line : Nat) : PresenceOnly vc s (restoreLine s vc line) :=
  modCore_presenceOnly s vc (fun _ => rfl) fun _ x hx => ⟨x, hx, rfl⟩

theorem modCopy_presenceOnly (s : State) (vc id : Nat) {f : Copy → Copy} (hf : ∀ c, f c = { c with cleared := (f c).cleared }) :
    PresenceOnly vc s (modCopy s vc id f) := by
  refine modCore_presenceOnly s vc (fun _ => rfl) fun k x hx => ?_
  obtain ⟨y, hy, rfl | rfl⟩ := mem_modWhere hx
  · exact ⟨_, hy, rfl⟩
  · exact ⟨y, hy, hf y⟩

theorem lineDone_presenceOnly (s : State) (vc id line : Nat) : PresenceOnly vc s (lineDone s vc id line) := by
  unfold lineDone
  split
  · split
    · exact (modCopy_presenceOnly s vc id fun _ => rfl).trans (restoreLine_presenceOnly ..)
    · exact .refl vc s
  · exact .refl vc s

theorem foldl_presenceOnly {α : Type} {vc : Nat} {f : State → α → State} (hf : ∀ s a, PresenceOnly vc s (f s a)) (l : List α) (s : State) :
    PresenceOnly vc s (l.foldl f s) := List.foldlRecOn (motive := PresenceOnly vc s) _ _ (.refl vc s) fun _ h a _ => h.trans (hf _ a)

section
variable {s : State} {vc eng : Nat} {c : Copy}

theorem exec_copyLineWrite (hc : runningOn s vc eng = some c) : exec (.copyLineWrite vc eng) s = .next (copyStep s vc c) := by
  show execCopyLineWrite vc eng s = _
  unfold execCopyLineWrite
  rw [hc]

theorem copyStep_rests {r : BitVec 512} (hr : c.layout = some r) (h : c.stopped = true ∨ c.waits.isSome = true ∨ chunkCount (layOf r) c ≤ c.pos) :
    copyStep s vc c = s := by
  unfold copyStep
  rw [hr]
  exact if_pos (by rcases h with h | h | h <;> simp [h])

/-- A step of a copy that brings data in and could read it: the values are written, and the copy goes on by one line. -/
theorem copyStep_loads {r : BitVec 512} (hr : c.layout = some r) (hgoing : c.stopped = false) (hwaits : c.waits = none)
    (hpos : c.pos < chunkCount (layOf r) c) (hlist : listReady s vc (layOf r) c = true) (hin : isOut c = false) (hfill : copyOp c ≠ 0xC2)
    (hread : (readChunk s vc (layOf r) c).going = true) : let g := readChunk s vc (layOf r) c
    copyStep s vc c = advance (writeChunk g.s vc (layOf r) c g.vals) vc c.id 1 g.clip := by
  intro g
  unfold copyStep
  rw [hr]
  dsimp only
  rw [if_neg (by simp [hgoing, hwaits, hpos, hlist]), if_neg (by simp [hin])]
  unfold loadStep
  dsimp only
  rw [if_neg (by simp [hread]), if_neg (by simpa using hfill)]

/-- Where the step's bytes go in the core's scratchpad. -/
def chunkPlace (s : State) (vc : Nat) (l : Lay) (c : Copy) : Nat :=
  (spadOf s c.grid c.gidx).1 + c.placeW.toNat + chunkOff l c (chunkAt s vc l c).1 (chunkAt s vc l c).2.1

/-- The bytes of a plain load, then the presence of their lines. -/
theorem writeChunk_load {l : Lay} {vals : List Nat} (hmerge : copyOp c ≠ 0xC3) (hcast : copyOp c ≠ 0xC4) : let p := chunkPlace s vc l c
    PresenceOnly vc (spadWrite s vc 0 p (packElems (elemBits l.ety) vals (memReadN (core s vc).store.spad p (ceilDiv (vals.length * elemBits l.ety) 8))))
      (writeChunk s vc l c vals) := by
  intro p
  have hwrite : writeSpad s vc p l c vals =
      spadWrite s vc 0 p (packElems (elemBits l.ety) vals (memReadN (core s vc).store.spad p (ceilDiv (vals.length * elemBits l.ety) 8))) := by
    unfold writeSpad
    dsimp only
    rw [if_neg (by simpa using hmerge)]
  unfold writeChunk
  dsimp only
  rw [if_neg (by simpa using hcast), ← hwrite]
  exact foldl_presenceOnly (fun s i => lineDone_presenceOnly s vc c.id _) _ _

theorem spad_spadWrite (hvc : vc < s.cores.length) (p : Nat) (bs : List Byte) :
    (core (spadWrite s vc 0 p bs) vc).store.spad = memWrite (core s vc).store.spad p bs := by
  rw [spadWrite, modStore, core_modCore_same _ _ _ hvc, Nat.zero_mul, Nat.zero_add]

theorem copies_spadWrite (s : State) (vc base p : Nat) (bs : List Byte) : (core (spadWrite s vc base p bs) vc).copies = (core s vc).copies :=
  ((modStore_storageOnly s vc _).2.2 vc).1

/-- The step of a plain load in the scratchpad, and in its own command. -/
theorem writeChunk_advance {l : Lay} {vals : List Nat} (hmerge : copyOp c ≠ 0xC3) (hcast : copyOp c ≠ 0xC4) (hvc : vc < s.cores.length) (clip : Nat) :
    let t := advance (writeChunk s vc l c vals) vc c.id 1 clip
    let p := chunkPlace s vc l c
    t = { s with cores := t.cores } ∧ (core t vc).store.spad = memWrite (core s vc).store.spad p
      (packElems (elemBits l.ety) vals (memReadN (core s vc).store.spad p (ceilDiv (vals.length * elemBits l.ety) 8))) ∧
    ∀ x ∈ (core t vc).copies, x.id = c.id → ∃ y ∈ (core s vc).copies, y.id = c.id ∧ x.pos = y.pos + 1 ∧ x.clip = y.clip + clip := by
  intro t p
  obtain ⟨hcores, hlength, hspad, hcopies⟩ := writeChunk_load (s := s) (vc := vc) (l := l) (vals := vals) hmerge hcast
  have hvc' : vc < (writeChunk s vc l c vals).cores.length := hvc.trans_eq (hlength.trans (length_modAt _ _ _)).symm
  have hcore : core t vc = _ := core_modCore_same (writeChunk s vc l c vals) vc _ hvc'
  refine ⟨(CoresOnly.trans (modCore_coresOnly s vc _) hcores).trans (modCore_coresOnly _ vc _), ?_, fun x hx hid => ?_⟩
  · rw [hcore]
    exact hspad.trans (spad_spadWrite hvc ..)
  · rw [hcore] at hx
    obtain ⟨y, hy, rfl⟩ := mem_modWhere_iff.mp hx
    obtain ⟨z, hz, hyz⟩ := hcopies y hy
    rw [copies_spadWrite] at hz
    have hyid : y.id = c.id := by
      split at hid
      · exact hid
      · exact hid
    rw [if_pos (by simpa using hyid), hyz]
    exact ⟨z, hz, (congrArg (·.id) hyz).symm.trans hyid, rfl, rfl⟩

end

theorem linesWritten : LinesWritten := by
  intro s vc eng c r hc hr l g p old
  refine ⟨fun hrests => (exec_copyLineWrite hc).trans (congrArg _ (copyStep_rests hr hrests)),
    fun hgoing hwaits hpos hlist hin hfill hmerge hcast hread hvc => ⟨_, ?_, writeChunk_advance hmerge hcast hvc g.clip⟩⟩
  exact (exec_copyLineWrite hc).trans (congrArg _ (copyStep_loads hr hgoing hwaits hpos hlist hin hfill hread))

/-! The end (R285, R287, R291) -/

theorem statusWord_eq (code clip : Nat) :
    statusWord code clip = 2 ^ 31 + (if code = 0 then 0 else 2 ^ 30) + code * 2 ^ 24 + min clip 0xFFFFFF := by simp only [statusWord, beq_iff_eq]

theorem restoreLine_storageOnly (s : State) (vc line : Nat) : StorageOnly s (restoreLine s vc line) := by
  unfold restoreLine
  exact modStore_storageOnly ..

/-- A copy that ends leaves its core's queue once what it held in storage is free, and its status lands. -/
theorem endCopy_eq (s : State) (vc : Nat) (c : Copy) : ∃ t, StorageOnly s t ∧ endCopy s vc c = freeFrames (settleOps (landStatus
    (modCore t vc fun k => { k with copies := k.copies.filter fun x => x.id != c.id }) c.uid (cmdE c.word).slot.toNat (statusWord c.code c.clip)) vc) := by
  refine ⟨_, ?_, rfl⟩
  have hlines : StorageOnly s (c.targets.foldl (fun s t => (List.range ((unwrittenCast c).2 - (unwrittenCast c).1)).foldl
      (fun s i => restoreLine s t.1 (t.2 / 64 + (unwrittenCast c).1 + i)) s) (c.cleared.foldl (fun s l => restoreLine s vc l) s)) :=
    (foldl_storageOnly (fun s l => restoreLine_storageOnly s vc l) _ s).trans
      (foldl_storageOnly (fun s (t : Nat × Nat) => foldl_storageOnly (fun s i => restoreLine_storageOnly s t.1 _) _ s) _ _)
  split
  · split
    · exact hlines.trans (modStore_storageOnly ..)
    · exact hlines
  · exact hlines

theorem exec_copyComplete {s : State} {vc eng : Nat} {c : Copy} (hc : runningOn s vc eng = some c) :
    exec (.copyComplete vc eng) s = .next (if copyDone s c then endCopy s vc c else s) := by
  show execCopyComplete vc eng s = _
  unfold execCopyComplete
  rw [hc]
  exact (apply_ite _ _ _ _).symm

theorem copyEnds : CopyEnds := by
  intro s vc eng c hc hdone
  obtain ⟨t, ⟨hcores, hlength, -⟩, hend⟩ := endCopy_eq s vc c
  rw [statusWord_eq] at hend
  refine ⟨_, (exec_copyComplete hc).trans (congrArg _ ((if_pos hdone).trans hend)), hcores.trans (modCore_coresOnly t vc _), fun hvc x hx => ?_⟩
  rw [core_modCore_same _ _ _ (hvc.trans_eq hlength.symm)] at hx
  simpa using (List.mem_filter.mp hx).2

end Sys2Proof.Machine
end

section
/-! PROOFS (O52, volleys). The answer to a volley that waits: code 9, or its permit (R288, R289). -/
namespace Sys2Proof.Machine

section
variable {s : State} {vc k d : Nat} {c : Copy}

theorem exec_volleyPermit (hc : copyCore? s k = some (vc, c)) (hop : copyOp c = 0xC4) (hst : c.st = .queued) (hphase : phaseOf s c.ctx < 3) :
    exec (.volleyPermit k) s = .next (permitVolley s vc c) := by
  show execVolleyPermit k s = _
  unfold execVolleyPermit
  rw [hc]
  exact if_pos (by simp [hop, hst, hphase])

/-! No ring to go to -/

theorem castUnbound_noCore (h : castCores s c = []) : castUnbound s c = true := by simp [castUnbound, h]

/-- Of one receiver, its ring tells. -/
theorem castUnbound_ring {r : Ring} (h : castCores s c = [d]) (hr : ring? s d c.grid (castId c) = some r) :
    castUnbound s c = (r.bound.isSome && r.bound != some c.gidx) := by simp [castUnbound, h, hr]

theorem castUnbound_noRing (h : castCores s c = [d]) (hr : ring? s d c.grid (castId c) = none) (hhere : ringAway s d c.grid (castId c) = false) :
    castUnbound s c = true := by simp [castUnbound, h, hr, hhere]

theorem castUnbound_otherSender {r : Ring} (h : castCores s c = [d]) (hr : ring? s d c.grid (castId c) = some r) (hbound : r.bound ≠ none)
    (hother : r.bound ≠ some c.gidx) : castUnbound s c = true := by
  rw [castUnbound_ring h hr]
  simpa [Option.isSome_iff_ne_none, hother] using hbound

theorem permitVolley_refused (h : castUnbound s c = true) : permitVolley s vc c = endCopy s vc { c with code := 9 } := if_pos h

/-! A ring with room -/

/-- A ring bound to its sender. -/
def boundTo (gidx : Nat) (r : Ring) : Ring := { r with bound := some gidx }

theorem ring_bound {r : Ring} (hd : d < s.cores.length) (hr : ring? s d c.grid (castId c) = some r) :
    ring? (modRing s d c.grid (castId c) (boundTo c.gidx)) d c.grid (castId c) = some (boundTo c.gidx r) :=
  (ring_modRing_same hd _ _ (f := boundTo c.gidx) fun _ => ⟨rfl, rfl⟩).trans (congrArg _ hr)

theorem permitVolley_permits {r : Ring} (h : castCores s c = [d]) (hd : d < s.cores.length) (hr : ring? s d c.grid (castId c) = some r)
    (hfree : r.bound = none) (hroom : r.wc - r.fc < r.dp) (hahead : permitAhead s c = false) :
    permitVolley s vc c = modCopy (modRing s d c.grid (castId c) (boundTo c.gidx)) vc c.id fun c => { c with st := .permitted } := by
  have hunbound : castUnbound s c = false := by
    rw [castUnbound_ring h hr]
    simp [hfree]
  have hbound := ring_bound hd hr
  have hroom' : ([d].all fun k => match ring? (modRing s d c.grid (castId c) (boundTo c.gidx)) k c.grid (castId c) with
      | some r => decide (r.wc - r.fc < r.dp)
      | none => false) = true := by
    rw [List.all_cons, hbound]
    exact Bool.and_eq_true_iff.mpr ⟨decide_eq_true hroom, rfl⟩
  unfold permitVolley
  rw [if_neg (by simp [hunbound]), h]
  exact if_pos (by rw [hahead, Bool.not_false, Bool.and_true]; exact hroom')

theorem volley_permitted {r : Ring} (hd : d < s.cores.length) (hvc : vc < s.cores.length) (hr : ring? s d c.grid (castId c) = some r) :
    let t := modCopy (modRing s d c.grid (castId c) (boundTo c.gidx)) vc c.id fun c => { c with st := .permitted }
    t = { s with cores := t.cores } ∧ ring? t d c.grid (castId c) = some (boundTo c.gidx r) ∧
      ∀ x ∈ (core t vc).copies, x.id = c.id → x.st = .permitted := by
  intro t
  refine ⟨(modCore_coresOnly s d _).trans (modCore_coresOnly _ vc _), ?_, fun x hx hid => ?_⟩
  · have hrings : (core t d).rings = (core (modRing s d c.grid (castId c) (boundTo c.gidx)) d).rings := by
      rcases core_modCore (modRing s d c.grid (castId c) (boundTo c.gidx)) vc
        (fun k => { k with copies := modWhere (fun x => x.id == c.id) (fun c => { c with st := .permitted }) k.copies }) d with h | h
      · exact (congrArg Core.rings h :)
      · exact (congrArg Core.rings h :)
    rw [ring?, hrings]
    exact ring_bound hd hr
  · have hlen : vc < (modRing s d c.grid (castId c) (boundTo c.gidx)).cores.length := hvc.trans_eq (length_modAt _ _ _).symm
    have hcopies : (core t vc).copies = _ := copies_modCopy hlen c.id _
    rw [hcopies] at hx
    obtain ⟨y, -, rfl⟩ := mem_modWhere_iff.mp hx
    split at hid
    next hy => rw [if_pos hy]
    next hy => exact absurd hid (by simpa using hy)

end

theorem volleyAnswered : VolleyAnswered := by
  intro s vc k c hc hop hst hphase
  have hexec := exec_volleyPermit hc hop hst hphase
  refine ⟨fun hnone => ?_, fun d r hone hr hbound hother => ?_, fun d hone hr hhere => ?_, fun d r hone hd hvc hr hfree hroom hahead => ?_⟩
  · rw [hexec, permitVolley_refused (castUnbound_noCore hnone)]
  · rw [hexec, permitVolley_refused (castUnbound_otherSender hone hr hbound hother)]
  · rw [hexec, permitVolley_refused (castUnbound_noRing hone hr hhere)]
  · exact ⟨_, hexec.trans (congrArg _ (permitVolley_permits hone hd hr hfree hroom hahead)), volley_permitted hd hvc hr⟩

end Sys2Proof.Machine
end

section
/-! PROOFS (O52, matrix commands). Ops that fire, accumulators that are stored, and fences (R295, R297, R315 to R319). -/
namespace Sys2Proof.Machine

/-! Ops that fire (R295, R315 to R317) -/

theorem exec_tileOpFire {s : State} {vc : Nat} {o : Op} {rest : List Op} (h : (core s vc).ops.filter (opReady s vc) = o :: rest) :
    exec (.tileOpFire vc) s = .next (freeFrames (settleOps (fireOp s vc o) vc)) := by
  show execTileOpFire vc s = _
  unfold execTileOpFire
  rw [h]
  rfl

theorem settleOps_noOp {s : State} {vc : Nat} (h : (core s vc).ops = []) : settleOps s vc = s := by rw [settleOps, h]; rfl

/-- An accumulator changed by a command, which leaves its core's commands. -/
def actOnAcc (s : State) (vc p : Nat) (f : Tile → Tile) (o : Op) : State := dropOp (modAcc s vc p f) vc o.id

section
variable {s : State} {vc : Nat} {o : Op} (hvc : vc < s.cores.length)
include hvc

theorem core_actOnAcc (p : Nat) (f : Tile → Tile) : core (actOnAcc s vc p f o) vc = { core s vc with
    store := { (core s vc).store with accs := modAt f (core s vc).store.accs p }, ops := (core s vc).ops.filter fun x => x.id != o.id } := by
  have hcore : core (modAcc s vc p f) vc = _ := core_modCore_same s vc _ hvc
  rw [actOnAcc, dropOp, core_modCore_same _ _ _ (hvc.trans_eq (length_modAt _ _ _).symm), hcore]

/-- A core's only command, which is ready, acts on one accumulator. -/
theorem tileOpFire_acts {p : Nat} {f : Tile → Tile} {t1 : Tile} (hops : (core s vc).ops = [o]) (hready : opReady s vc o = true)
    (hp : p < (core s vc).store.accs.length) (hfire : fireOp s vc o = actOnAcc s vc p f o) (ht1 : f (accTile s vc p) = t1) :
    ∃ t, exec (.tileOpFire vc) s = .next (freeFrames t) ∧ t = { s with cores := t.cores } ∧ (core t vc).ops = [] ∧ accTile t vc p = t1 ∧
      ∀ q, q ≠ p → accTile t vc q = accTile s vc q := by
  have hcore := core_actOnAcc (o := o) hvc p f
  have hgone : (core (actOnAcc s vc p f o) vc).ops = [] := by simp [hcore, hops]
  refine ⟨actOnAcc s vc p f o, ?_, (modCore_coresOnly s vc _).trans (modCore_coresOnly _ vc _), hgone, ?_, fun q hq => ?_⟩
  · rw [exec_tileOpFire (o := o) (rest := []) (by simp [hops, hready]), hfire, settleOps_noOp hgone]
  · rw [accTile, hcore]
    exact (getD_modAt_same _ _ _ _ hp).trans ht1
  · rw [accTile, hcore]
    exact getD_modAt_other _ _ _ _ _ hq

end

section
variable {s : State} {vc : Nat} {o : Op}

/-- R315, R316: `mma` and `mmi` on slots that hold what the op expects. -/
theorem fireOp_mma {p q : Nat} (hop : cmdOp o.word = 0xD2 ∨ cmdOp o.word = 0xD3) (hp : physSlot? s o.grid o.gidx (cmdE o.word).slot.toNat = some p)
    (hq : physSlot? s o.grid o.gidx (cmdE o.word).x.toNat = some q) (ha : (opSlot s vc p).fmt = (tileFmt (cmdE o.word).z.toNat).a)
    (hb : (opSlot s vc q).fmt = (tileFmt (cmdE o.word).z.toNat).b) : let acc := (cmdE o.word).y.toNat % 16
    let a := opSlot s vc p
    let b := opSlot s vc q
    fireOp s vc o = actOnAcc s vc acc (fun t => { t with
      cells := cellMem 8 (mmaCells (tileFmt (cmdE o.word).z.toNat) (o.zsk && b.finite) a b (accCells (accTile s vc acc)))
      bad := t.bad || (a.bad || b.bad) }) o := by
  intro acc a b
  have htile : fireOp s vc o = fireTile s vc o := by
    unfold fireOp
    rcases hop with h | h
    · rw [h]; rfl
    · rw [h]; rfl
  have hnot : cmdOp o.word ≠ 0xD4 := by
    rcases hop with h | h
    · rw [h]; decide
    · rw [h]; decide
  rw [htile]
  unfold fireTile
  dsimp only
  rw [hp, hq, Option.getD_some, Option.getD_some, if_neg (by simp [ha, hb]), if_pos (by simpa using hnot)]
  rfl

theorem fireOp_tsacc (hop : cmdOp o.word = 0xD5) : let f := cmdE o.word
    let acc := f.y.toNat % 16
    let ps := (List.range (f.x.toNat / 8 + 1 - f.x.toNat % 8)).map fun i => ptTile s vc (f.x.toNat % 8 + i)
    fireOp s vc o = actOnAcc s vc acc (fun t => { t with
      cells := cellMem 8 (tsaccCells o.zsk ps (accCells (accTile s vc acc))), bad := t.bad || ps.any (·.bad) }) o := by
  intro f acc ps
  unfold fireOp
  rw [hop]
  rfl

theorem fireOp_tzero {p : Nat} (hop : cmdOp o.word = 0xD6) (hunits : rangeUnits s o.grid o.gidx (cmdE o.word) = [(1, p)]) :
    fireOp s vc o = actOnAcc s vc p (zeroTile false) o := by
  unfold fireOp
  rw [hop]
  dsimp only
  rw [hunits]
  rfl

end

theorem matrixOpsAct : MatrixOpsAct := by
  intro s vc o hvc hops hready f fires acc before hacc
  refine ⟨fun p q hop hp hq => ?_, fun hop => tileOpFire_acts hvc hops hready hacc (fireOp_tsacc hop) rfl,
    fun p hop hunits hp => tileOpFire_acts hvc hops hready hp (fireOp_tzero hop hunits) rfl⟩
  intro a b tf ha hb
  exact tileOpFire_acts hvc hops hready hacc (fireOp_mma hop hp hq ha hb) rfl

/-! Stores of accumulators (R318) -/

theorem exec_accumulatorStoreDone {s : State} {k vc : Nat} {o : Op} (ho : opCore? s k = some (vc, o)) (hop : cmdOp o.word = 0xD7) (hst : o.st = .pending) :
    exec (.accumulatorStoreDone k) s = .next (freeFrames (storeAcc s vc o)) := by
  show execAccumulatorStoreDone k s = _
  unfold execAccumulatorStoreDone
  rw [ho]
  exact if_pos (by simp [hop, hst])

theorem store_dropOp (s : State) (vc id : Nat) : (core (dropOp s vc id) vc).store = (core s vc).store := by
  rcases core_modCore s vc (fun c => { c with ops := c.ops.filter fun x => x.id != id }) vc with h | h
  · exact (congrArg Core.store h :)
  · exact (congrArg Core.store h :)

/-- The scratchpad of a core in which an accumulator's cells are stored. -/
def accStored (s : State) (vc : Nat) (o : Op) (t : Tile) : State :=
  spadWrite s vc 0 ((spadOf s o.grid o.gidx).1 + o.off)
    ((accCells t).flatMap fun c => bytesLE (moveBytes (cmdE o.word).z.toNat) (tacstCell (cmdE o.word).z.toNat ((cmdE o.word).y.getLsbD 0) c))

section
variable {s : State} {vc : Nat} {o : Op}

theorem storeAcc_misplaced (h : moveOk s o = false) :
    storeAcc s vc o = landStatus (dropOp s vc o.id) o.uid (cmdE o.word).slot.toNat (statusWord 5 0) := if_pos (by simp [h])

theorem storeAcc_stores (hok : moveOk s o = true) (hacc : (cmdE o.word).x.toNat / 16 = 1)
    (hgood : (accTile s vc ((cmdE o.word).x.toNat % 16)).bad = false) : ∃ s1,
      PresenceOnly vc (accStored s vc o (accTile s vc ((cmdE o.word).x.toNat % 16))) s1 ∧
      storeAcc s vc o = landStatus (dropOp s1 vc o.id) o.uid (cmdE o.word).slot.toNat (statusWord 0 0) := by
  refine ⟨_, foldl_presenceOnly (fun s l => restoreLine_presenceOnly s vc l)
    (regionLines (spadOf s o.grid o.gidx).1 o.off (moveSize (cmdE o.word).z.toNat)) _, ?_⟩
  unfold storeAcc
  dsimp only
  rw [if_neg (by simp [hok]), hacc]
  simp only [show (1 == 2) = false from rfl, Bool.false_eq_true, if_false, hgood]
  rfl

end

theorem accumulatorStored : AccumulatorStored := by
  intro s k vc o ho hop hst f lands
  have hlands : ∀ {s1 word}, storeAcc s vc o = landStatus s1 o.uid f.slot.toNat word → lands s1 word :=
    fun h => (exec_accumulatorStoreDone ho hop hst).trans (congrArg (fun t => Host.Outcome.next (freeFrames t)) h)
  refine ⟨fun hbad => ⟨dropOp s vc o.id, hlands (storeAcc_misplaced hbad), rfl, store_dropOp ..⟩, ?_⟩
  · rintro t hok hacc rfl hgood hvc
    obtain ⟨s1, ⟨hcores, -, hspad, -⟩, hstore⟩ := storeAcc_stores hok hacc hgood
    obtain ⟨hhub, -, -, hthreads, -⟩ := hcores.keeps
    refine ⟨dropOp s1 vc o.id, hlands hstore, hthreads, hhub, ?_⟩
    rw [store_dropOp, hspad]
    exact spad_spadWrite hvc ..

/-! Fences (R319) -/

theorem exec_tfenceStatusLand {s : State} {k vc : Nat} {o : Op} (ho : opCore? s k = some (vc, o)) (hop : cmdOp o.word = 0xD9)
    (hdone : ∀ y ∈ issuedBefore s vc o, y.grid = o.grid → y.gidx = o.gidx → cmdOp y.word = 0xD0 ∨ cmdOp y.word = 0xD1) :
    exec (.tfenceStatusLand k) s = .next (freeFrames (landTfence s vc o)) := by
  have hwaits : ((issuedBefore s vc o).any fun y => y.grid == o.grid && y.gidx == o.gidx && cmdOp y.word != 0xD0 && cmdOp y.word != 0xD1) = false := by
    refine List.any_eq_false.mpr fun y hy => ?_
    have hclaim := hdone y hy
    simp only [Bool.and_eq_true, beq_iff_eq, bne_iff_ne]
    tauto
  show execTfenceStatusLand k s = _
  unfold execTfenceStatusLand
  rw [ho]
  exact if_pos (by rw [hwaits, hop]; rfl)

/-- What a fence reports, it reports once. -/
def fenceReported (s : State) (vc : Nat) (o : Op) : State :=
  modGroup (modCore s vc fun c => { c with ops := c.ops.filter fun x => !(x.grid == o.grid && x.gidx == o.gidx && x.id < o.id && x.st != .pending) })
    o.grid o.gidx fun g => { g with tfCode := 0, tfCount := 0 }

/-- With no barren op before the fence, and none kept by its group, the status is a plain success. -/
theorem landTfence_success {s : State} {vc : Nat} {o : Op} (hbarren : barrenBefore s vc o = [])
    (hgroup : ∀ g, group? s o.grid o.gidx = some g → g.tfCode = 0 ∧ g.tfCount = 0) :
    landTfence s vc o = landStatus (dropOp (fenceReported s vc o) vc o.id) o.uid (cmdE o.word).slot.toNat (2 ^ 31) := by
  have hnone : ((group? s o.grid o.gidx).map (·.tfCode)).getD 0 = 0 ∧ ((group? s o.grid o.gidx).map (·.tfCount)).getD 0 = 0 := by
    cases hg : group? s o.grid o.gidx with
    | none => exact ⟨rfl, rfl⟩
    | some g => exact hgroup g hg
  obtain ⟨hcode, hcount⟩ := hnone
  unfold landTfence
  dsimp only
  rw [hbarren, hcode, hcount]
  rfl

theorem tfenceLands : TfenceLands := by
  intro s k vc o ho hop hdone hbarren hgroup
  refine ⟨dropOp (fenceReported s vc o) vc o.id, ?_, rfl, rfl, fun hvc x hx => ?_⟩
  · rw [exec_tfenceStatusLand ho hop hdone, landTfence_success hbarren hgroup]
  · have hlen : vc < (fenceReported s vc o).cores.length := hvc.trans_eq (length_modAt _ _ _).symm
    rw [dropOp, core_modCore_same _ _ _ hlen] at hx
    simpa using (List.mem_filter.mp hx).2

/-- Settles O52: each event of the engines acts where its conditions hold, and what it leaves is the eight lemmas named. -/
theorem engineEventsComplete : Obligations.EngineEventsComplete := by
  refine ⟨fun s vc eng => ⟨fun c => exec_copyStart, fun c => exec_copyLineWrite, fun c hc hdone => ?_, fun c hc hdone => ?_, fun k c => exec_volleyPermit⟩,
    fun s vc => ⟨fun o rest => exec_tileOpFire, fun k o => exec_accumulatorStoreDone, fun k o => exec_tfenceStatusLand⟩,
    statusLands, copyStarts, linesWritten, copyEnds, volleyAnswered, matrixOpsAct, accumulatorStored, tfenceLands⟩
  · rw [exec_copyComplete hc, if_pos hdone]
  · rw [exec_copyComplete hc, if_neg (by simp [hdone])]

end Sys2Proof.Machine
end
